-- ==== Sys2Proof/Word.lean ====
section
/-!
DEFINITION. The word types of the block, and bit fields of a natural number.
-/
namespace Sys2Proof

/-- A byte of a memory, a frame or a packet. -/
abbrev Byte := BitVec 8

/-- A register of BAR0 (R3: 32 bits, little-endian). -/
abbrev Word := BitVec 32

/-- An instruction word of a tack or of a yardmaster program (R195). -/
abbrev Insn := BitVec 64

/-- Bits `hi` to `lo` of `w` as a natural number. -/
def bitsOf {n : Nat} (w : BitVec n) (hi lo : Nat) : Nat := (w.toNat >>> lo) % 2 ^ (hi + 1 - lo)

/-- Bits `hi` to `lo` of a natural number. -/
def natBits (w hi lo : Nat) : Nat := (w >>> lo) % 2 ^ (hi + 1 - lo)

/-- Bit `i` of a natural number. -/
def natBit (w i : Nat) : Bool := (w >>> i) % 2 = 1

/-- `w` with bits `hi` to `lo` replaced by the low bits of `v`. -/
def setBits (w hi lo v : Nat) : Nat :=
  (w >>> (hi + 1)) <<< (hi + 1) ||| ((v % 2 ^ (hi + 1 - lo)) <<< lo) ||| w % 2 ^ lo

/-- The two's-complement value of the low `n` bits of `v`. -/
def signed (n v : Nat) : Int :=
  let u := v % 2 ^ n
  if u < 2 ^ (n - 1) then (u : Int) else (u : Int) - (2 ^ n : Nat)

/-- The low `n` bits of the two's-complement form of `v`. -/
def unsigned (n : Nat) (v : Int) : Nat := (v % ((2 ^ n : Nat) : Int)).toNat

end Sys2Proof
end

