-- ==== Sys2Proof/Machine/Sparse.lean ====
section
/-!
DEFINITION. The one canonical form of every memory and register bank of the state: a list of (key, value) pairs with
strictly rising keys, in which no value equals what an unlisted key reads as. `d` gives what an unlisted key reads as.
-/
namespace Sys2Proof.Machine

/-- A sparse bank. For bytes this is a list of `Host.Cell`. -/
abbrev Sparse (α : Type) := List (Nat × α)

/-- The value at key `k`; `d k` where the bank lists none. -/
def sget {α : Type} (d : Nat → α) : Sparse α → Nat → α
  | [], k => d k
  | (a, v) :: t, k => if k = a then v else sget d t k

/-- A bank without key `k`; a bank in canonical form has nothing left to take away past the key's place. -/
def sdrop {α : Type} (k : Nat) (m : Sparse α) : Sparse α := m.filter fun p => p.1 ≠ k

/-- The bank with `v` at key `k`, in canonical form again. -/
def sset {α : Type} [DecidableEq α] (d : Nat → α) : Sparse α → Nat → α → Sparse α
  | [], k, v => if v = d k then [] else [(k, v)]
  | (a, w) :: t, k, v =>
    if k < a then (if v = d k then sdrop k ((a, w) :: t) else (k, v) :: (a, w) :: t)
    else if k = a then (if v = d k then sdrop k t else (k, v) :: t)
    else (a, w) :: sset d t k v

/-- The value at key `k` replaced by `f` of it. -/
def smod {α : Type} [DecidableEq α] (d : Nat → α) (m : Sparse α) (k : Nat) (f : α → α) : Sparse α :=
  sset d m k (f (sget d m k))

/-- Values `vs` written at keys `k`, `k + 1`, ... -/
def ssetList {α : Type} [DecidableEq α] (d : Nat → α) : Sparse α → Nat → List α → Sparse α
  | m, _, [] => m
  | m, k, v :: t => ssetList d (sset d m k v) (k + 1) t

/-- `n` values from key `k` on. -/
def sgetList {α : Type} (d : Nat → α) (m : Sparse α) (k n : Nat) : List α :=
  (List.range n).map fun i => sget d m (k + i)

/-- The canonical form holds, every key being above `lo`. -/
def swfFrom {α : Type} [DecidableEq α] (d : Nat → α) : Option Nat → Sparse α → Bool
  | _, [] => true
  | lo, (a, v) :: t =>
    (match lo with | none => true | some l => decide (l < a)) && decide (v ≠ d a) && swfFrom d (some a) t

/-- The canonical form holds. -/
def swf {α : Type} [DecidableEq α] (d : Nat → α) (m : Sparse α) : Bool := swfFrom d none m

/-- What an unlisted byte reads as. -/
def zeroByte : Nat → Byte := fun _ => 0

/-- What an unlisted register or counter reads as, where nothing else is said. -/
def zeroNat : Nat → Nat := fun _ => 0

/-- A byte memory: a list of `Host.Cell`. -/
abbrev Memory := Sparse Byte

/-- Reads one byte. -/
def Memory.get (m : Memory) (a : Nat) : Byte := sget zeroByte m a

/-- Writes one byte. -/
def Memory.set (m : Memory) (a : Nat) (v : Byte) : Memory := sset zeroByte m a v

/-- Reads `n` bytes from `a` on. -/
def Memory.read (m : Memory) (a n : Nat) : List Byte := sgetList zeroByte m a n

/-- Writes bytes from `a` on. -/
def Memory.write (m : Memory) (a : Nat) (bs : List Byte) : Memory := ssetList zeroByte m a bs

/-- The canonical form of a byte memory. -/
def Memory.wf (m : Memory) : Bool := swf zeroByte m

/-- A little-endian number from bytes (R11). -/
def leNat : List Byte → Nat
  | [] => 0
  | b :: t => b.toNat + 256 * leNat t

/-- A big-endian number from bytes. -/
def beNat (bs : List Byte) : Nat := leNat bs.reverse

/-- `n` little-endian bytes of a number (R11). -/
def leBytes : Nat → Nat → List Byte
  | 0, _ => []
  | n + 1, v => BitVec.ofNat 8 v :: leBytes n (v / 256)

/-- `n` big-endian bytes of a number. -/
def beBytes (n v : Nat) : List Byte := (leBytes n v).reverse

/-- `n` bytes of zero. -/
def zeroBytes (n : Nat) : List Byte := List.replicate n 0

/-- Bytes `a` to `a + n − 1` of a list, zeros where the list has none. -/
def bytesAt (bs : List Byte) (a n : Nat) : List Byte :=
  let u := (bs.drop a).take n
  u ++ zeroBytes (n - u.length)

/-- The little-endian number in `n` bytes at `a` of a list. -/
def leAt (bs : List Byte) (a n : Nat) : Nat := leNat (bytesAt bs a n)

/-- Byte list with `new` laid over it from position `a` on. -/
def overlay (bs : List Byte) (a : Nat) (new : List Byte) : List Byte :=
  bytesAt bs 0 a ++ new ++ bs.drop (a + new.length)

end Sys2Proof.Machine
end

