-- ==== Sys2Proof/Machine/Num.lean ====
section
/-!
DEFINITION. Number formats and the long accumulator (03_number_formats.md): element formats, exact values, one rounding
function for every format and mode, LA160 elements, carriers and the split of a master weight.
-/
namespace Sys2Proof.Machine

/-- How a format encodes what is not finite (R67, R84, the VEC format table). -/
inductive Specials where
  | ieee   -- exponent field all ones: infinities and NaNs
  | nanOne -- E4M3: only S.1111.111 is a NaN
  | none   -- every code is finite
  deriving DecidableEq, Repr

/-- A binary floating-point format. -/
structure Fmt where
  expBits : Nat
  manBits : Nat
  bias : Nat
  specials : Specials
  deriving DecidableEq, Repr

def fp64 : Fmt := ⟨11, 52, 1023, .ieee⟩
def fp32 : Fmt := ⟨8, 23, 127, .ieee⟩
def bf16 : Fmt := ⟨8, 7, 127, .ieee⟩
def fp16 : Fmt := ⟨5, 10, 15, .ieee⟩
def e4m3 : Fmt := ⟨4, 3, 7, .nanOne⟩
def e5m2 : Fmt := ⟨5, 2, 15, .ieee⟩
def e3m2 : Fmt := ⟨3, 2, 3, .none⟩
def e2m3 : Fmt := ⟨2, 3, 1, .none⟩
def e2m1 : Fmt := ⟨2, 1, 1, .none⟩

/-- Bits of an element of the format. -/
def fmtBits (f : Fmt) : Nat := 1 + f.expBits + f.manBits

/-- The code (without sign) of the largest finite value (R67). -/
def maxCode (f : Fmt) : Nat :=
  match f.specials with
  | .ieee => (2 ^ f.expBits - 1) * 2 ^ f.manBits - 1
  | .nanOne => 2 ^ (f.expBits + f.manBits) - 2
  | .none => 2 ^ (f.expBits + f.manBits) - 1

/-- The code (without sign) of infinity in an `ieee` format. -/
def infCode (f : Fmt) : Nat := (2 ^ f.expBits - 1) * 2 ^ f.manBits

/-- The code of the NaN that the format's writers write (R84, R140: the canonical NaN; E4M3 0x7F; E5M2 0x7E). -/
def nanCode (f : Fmt) : Nat :=
  match f.specials with
  | .ieee => infCode f + 2 ^ (f.manBits - 1)
  | _ => 2 ^ (f.expBits + f.manBits) - 1

/-- A value: `neg` and `mag · 2^e`, or what is not finite. A zero keeps its sign. -/
inductive FVal where
  | num (neg : Bool) (mag : Nat) (e : Int)
  | inf (neg : Bool)
  | nan
  deriving DecidableEq, Repr

/-- The exact value of a code (R68). -/
def decodeF (f : Fmt) (c : Nat) : FVal :=
  let neg := natBit c (f.expBits + f.manBits)
  let m := c % 2 ^ f.manBits
  let e := natBits c (f.expBits + f.manBits - 1) f.manBits
  let body := c % 2 ^ (f.expBits + f.manBits)
  if f.specials = .ieee ∧ e = 2 ^ f.expBits - 1 then (if m = 0 then .inf neg else .nan)
  else if f.specials = .nanOne ∧ body = 2 ^ (f.expBits + f.manBits) - 1 then .nan
  else if e = 0 then .num neg m (1 - (f.bias : Int) - f.manBits)
  else .num neg (2 ^ f.manBits + m) ((e : Int) - f.bias - f.manBits)

/-- 2^e as a numerator, for a non-negative e (1 for a negative one). -/
def pow2 (e : Int) : Nat := 2 ^ e.toNat

/-- floor(log2 (n / d)) for positive n and d. -/
def floorLog2 (n d : Nat) : Int :=
  let k : Int := (Nat.log2 n : Int) - Nat.log2 d
  if n * pow2 (-k) < d * pow2 k then k - 1 else k

/-- The rounding modes of drains and conversions (R85, R143); a stochastic rounding carries its 32-bit random number. -/
inductive Rnd where
  | near
  | zero
  | stoch (u : Nat)
  deriving DecidableEq, Repr

/-- n / d rounded to a natural number. -/
def roundQ (r : Rnd) (n d : Nat) : Nat :=
  match r with
  | .near =>
    let q := n / d
    let t := 2 * (n % d)
    if d < t ∨ (d = t ∧ q % 2 = 1) then q + 1 else q
  | .zero => n / d
  | .stoch u => (n * 2 ^ 32 + u * d) / (d * 2 ^ 32)

/-- The code (without sign) of the positive rational n / d rounded into the format, with no bound on the exponent: a code
above `maxCode` is an overflow. -/
def roundCode (f : Fmt) (r : Rnd) (n d : Nat) : Nat :=
  if n = 0 then 0
  else
    let k := floorLog2 n d
    let ee : Nat := (max (k + f.bias) 1).toNat
    let q : Int := (ee : Int) - f.bias - f.manBits
    (ee - 1) * 2 ^ f.manBits + roundQ r (n * pow2 (-q)) (d * pow2 q)

/-- What a writer of the format does with a value above the largest finite one. -/
inductive Over where
  | toInf     -- infinity
  | saturate  -- the largest finite value
  deriving DecidableEq, Repr

/-- The code, sign included, of ±n/d rounded into the format. -/
def encodeQ (f : Fmt) (r : Rnd) (o : Over) (neg : Bool) (n d : Nat) : Nat :=
  let c := roundCode f r n d
  let body := if c ≤ maxCode f then c else if o = .toInf ∧ f.specials = .ieee then infCode f else maxCode f
  body + (if neg then 2 ^ (f.expBits + f.manBits) else 0)

/-- The code of ±mag · 2^e. -/
def encodeM (f : Fmt) (r : Rnd) (o : Over) (neg : Bool) (mag : Nat) (e : Int) : Nat :=
  encodeQ f r o neg (mag * pow2 e) (pow2 (-e))

/-- A code of the format with the sign set or clear. -/
def signCode (f : Fmt) (neg : Bool) (body : Nat) : Nat :=
  body + (if neg then 2 ^ (f.expBits + f.manBits) else 0)

/-- An exact dyadic number m · 2^e. -/
structure Dy where
  m : Int
  e : Int
  deriving DecidableEq, Repr

def dyAdd (x y : Dy) : Dy :=
  let e := min x.e y.e
  ⟨x.m * pow2 (x.e - e) + y.m * pow2 (y.e - e), e⟩

def dyMul (x y : Dy) : Dy := ⟨x.m * y.m, x.e + y.e⟩

def dyNeg (x : Dy) : Dy := ⟨-x.m, x.e⟩

/-- x < y. -/
def dyLt (x y : Dy) : Bool := decide ((dyAdd x (dyNeg y)).m < 0)

/-- The exact value of a finite FVal; zero for one that is not finite. -/
def dyOf : FVal → Dy
  | .num neg mag e => ⟨if neg then -(mag : Int) else mag, e⟩
  | _ => ⟨0, 0⟩

/-- IEEE 754 round-to-nearest-even of a dyadic into an `ieee` format. `zneg` is the sign of an exact zero. -/
def rneDy (f : Fmt) (zneg : Bool) (x : Dy) : Nat :=
  if x.m = 0 then signCode f zneg 0
  else encodeM f .near .toInf (decide (x.m < 0)) x.m.natAbs x.e

/-- The IEEE 754 sum a + b of two values, rounded once (R140). -/
def addF (f : Fmt) (a b : FVal) : Nat :=
  match a, b with
  | .nan, _ => nanCode f
  | _, .nan => nanCode f
  | .inf x, .inf y => if x = y then signCode f x (infCode f) else nanCode f
  | .inf x, _ => signCode f x (infCode f)
  | _, .inf y => signCode f y (infCode f)
  | .num x m e, .num y n g =>
    rneDy f (x && y && decide (m = 0) && decide (n = 0)) (dyAdd (dyOf (.num x m e)) (dyOf (.num y n g)))

/-- Sign of a value. -/
def signF : FVal → Bool
  | .num s _ _ => s
  | .inf s => s
  | .nan => false

/-- The value with its sign changed. -/
def negF : FVal → FVal
  | .num s m e => .num (!s) m e
  | .inf s => .inf (!s)
  | .nan => .nan

def isZeroF : FVal → Bool
  | .num _ m _ => decide (m = 0)
  | _ => false

/-- The exact product of two values (a NaN for zero times infinity). -/
def mulExact (a b : FVal) : FVal :=
  match a, b with
  | .nan, _ => .nan
  | _, .nan => .nan
  | .inf x, y => if isZeroF y then .nan else .inf (x != signF y)
  | x, .inf y => if isZeroF x then .nan else .inf (y != signF x)
  | .num x m e, .num y n g => .num (x != y) (m * n) (e + g)

/-- A value rounded once to the format, nearest-even, with infinity on overflow. -/
def rneF (f : Fmt) : FVal → Nat
  | .nan => nanCode f
  | .inf s => signCode f s (infCode f)
  | .num s m e => encodeM f .near .toInf s m e

/-- The IEEE 754 fused multiply-add a × b + c, rounded once. -/
def fmaF (f : Fmt) (a b c : FVal) : Nat := addF f (mulExact a b) c

/-- A less-than order on values, with −0 below +0; false if either is a NaN. -/
def ltF (a b : FVal) : Bool :=
  match a, b with
  | .nan, _ => false
  | _, .nan => false
  | .inf x, .inf y => x && !y
  | .inf x, _ => x
  | _, .inf y => !y
  | .num x m e, .num y n g =>
    let u := dyOf (.num x m e)
    let v := dyOf (.num y n g)
    if m = 0 ∧ n = 0 then x && !y else dyLt u v

/-- Nearest integer to m · 2^e, ties to even (rne_int of R80, R81, R94). -/
def rneInt (m e : Int) : Int :=
  let k := roundQ .near (m.natAbs * pow2 e) (pow2 (-e))
  if m < 0 then -(k : Int) else k

/-- m · 2^e rounded to an integer in a mode, the sign being that of m. -/
def roundInt (r : Rnd) (m e : Int) : Int :=
  let k := roundQ r (m.natAbs * pow2 e) (pow2 (-e))
  if m < 0 then -(k : Int) else k

/-! ### The long accumulator (R74 to R81) -/

/-- One accumulator element: v, N and V (R74). -/
structure Acc where
  v : BitVec 160
  n : Bool
  o : Bool
  deriving DecidableEq, Repr

def Acc.zero : Acc := ⟨0, false, false⟩

/-- What an unlisted accumulator element reads as: value 0, flags clear (R75). -/
def zeroAcc : Nat → Acc := fun _ => Acc.zero

/-- An LA160 element in memory: the accumulator element with its anchor (R79). -/
structure La where
  acc : Acc
  anchor : Int
  deriving DecidableEq, Repr

/-- The range of v (R74). -/
def inRange160 (x : Int) : Bool := decide (-(2 ^ 159 : Int) ≤ x ∧ x < 2 ^ 159)

/-- An integer stored in 160 bits, V set when it is outside the range (R78). -/
def put160 (x : Int) (n o : Bool) : Acc := ⟨BitVec.ofInt 160 x, n, o || !inRange160 x⟩

/-- The two's-complement addition of R76 to R78. -/
def add160 (a : Acc) (x : Int) : Acc := put160 (a.v.toInt + x) a.n a.o

/-- R80: re-anchoring from anchor a to b. -/
def reanchor (x : Acc) (a b : Int) : Acc :=
  if b ≤ a then put160 (x.v.toInt * pow2 (a - b)) x.n x.o
  else put160 (rneInt x.v.toInt (a - b)) x.n x.o

/-- R79: the 32 bytes of an LA160 element. -/
def laBytes (x : La) : List Byte :=
  leBytes 20 x.acc.v.toNat
    ++ [BitVec.ofNat 8 ((if x.acc.n then 1 else 0) + (if x.acc.o then 2 else 0)),
        BitVec.ofNat 8 (unsigned 8 x.anchor)] ++ zeroBytes 10

/-- R79: the element that 32 bytes hold; the zero bytes are ignored. -/
def laOf (bs : List Byte) : La :=
  ⟨⟨BitVec.ofNat 160 (leAt bs 0 20), natBit (leAt bs 20 1) 0, natBit (leAt bs 20 1) 1⟩, signed 8 (leAt bs 21 1)⟩

/-- R81: preload of a floating-point value x into a tile of anchor a. -/
def preloadF (x : FVal) (a : Int) : Acc :=
  match x with
  | .num neg mag e =>
    let v := rneInt (if neg then -(mag : Int) else mag) (e + 64 - a)
    if v.natAbs < 2 ^ 159 then ⟨BitVec.ofInt 160 v, false, false⟩ else ⟨0, false, true⟩
  | _ => ⟨0, true, false⟩

/-- R84: the format of a drain's output code 1 to 5. -/
def drainFmt : Nat → Fmt
  | 1 => fp32 | 2 => bf16 | 3 => fp16 | 4 => e4m3 | _ => e5m2

/-- R84: bytes of an element of a drain's output code. -/
def drainSize : Nat → Nat
  | 0 => 32 | 1 => 4 | 2 => 2 | 3 => 2 | _ => 1

/-- R84: the FP8 formats saturate in both modes, the others overflow to infinity in nearest-even. -/
def drainOver (f : Fmt) (near : Bool) : Over :=
  if near ∧ (f = fp32 ∨ f = bf16 ∨ f = fp16) then .toInf else .saturate

/-- R84, R85: the bytes a drain writes for an element v (anchor a, shift k) in output code `out`. -/
def drainElem (out : Nat) (near : Bool) (x : Acc) (a k : Int) : List Byte :=
  if out = 0 then
    let b := a + k
    if -128 ≤ b ∧ b ≤ 127 then laBytes ⟨x, b⟩ else laBytes ⟨⟨x.v, x.n, true⟩, a⟩
  else
    let f := drainFmt out
    let c :=
      if x.n ∨ x.o then nanCode f
      else
        let v := x.v.toInt
        encodeM f (if near then .near else .zero) (drainOver f near) (decide (v < 0)) v.natAbs (a - 64 + k)
    leBytes (drainSize out) c

/-! ### Residues modulo 255 (R126 to R128) -/

/-- ρ of an operand element σ · 2^τ (R126). -/
def rho (sigma tau : Int) : Nat := ((sigma * ((2 ^ (tau % 8).toNat : Nat) : Int)) % 255).toNat

/-- The residue of a 160-bit value: (b − n) mod 255 (R128). -/
def residue160 (v : BitVec 160) : Nat := (v.toInt % 255).toNat

/-- The factor 2^(k mod 8) (R127). -/
def pow2mod8 (k : Int) : Nat := 2 ^ (k % 8).toNat

/-! ### Array input formats (R67 to R73) -/

/-- The format of input code 0 to 4. -/
def inFmt : Nat → Fmt
  | 0 => e4m3 | 1 => e5m2 | 2 => e3m2 | 3 => e2m3 | _ => e2m1

/-- An operand element at the array: σ · 2^τ with its scale exponent (R69, R126). -/
structure Elem where
  sigma : Int
  tau : Int
  scale : Int
  valid : Bool
  nonfinite : Bool
  deriving DecidableEq, Repr

def Elem.invalid : Elem := ⟨0, 0, 0, false, false⟩

/-- The element of a code of input code `c` (0 to 5) with scale exponent e. -/
def elemOf (c code : Nat) (e : Int) : Elem :=
  if c = 5 then ⟨signed 8 code, 0, e, true, false⟩
  else
    match decodeF (inFmt c) code with
    | .num neg mag x => ⟨if neg then -(mag : Int) else mag, x, e, true, false⟩
    | _ => ⟨0, 0, e, true, true⟩

/-- round_T of the feeder: the code of format T for a finite value (R73). -/
def feederRound (t : Nat) (neg : Bool) (mag : Nat) (e : Int) : Nat :=
  if t = 5 then
    let k : Int := roundQ .near (mag * pow2 e) (pow2 (-e))
    unsigned 8 (if neg then max (-k) (-128) else min k 127)
  else encodeM (inFmt t) .near .saturate neg mag e

/-- R73: feeder conversion of a BF16 (code 6) or FP32 (code 7) operand to target T with shift f. -/
def feederConvert (wide : Fmt) (code t : Nat) (f : Int) : Elem :=
  match decodeF wide code with
  | .num neg mag e => elemOf t (feederRound t neg mag (e - f)) f
  | _ => ⟨0, 0, f, true, true⟩

/-- Bits of an element of input code 0 to 7. -/
def inBits : Nat → Nat
  | 0 => 8 | 1 => 8 | 2 => 6 | 3 => 6 | 4 => 4 | 5 => 8 | 6 => 16 | _ => 32

/-- Dual rate (R70): both operands have codes 2 to 4 after feeder conversion. -/
def isDual (a b : Nat) : Bool := decide (2 ≤ a ∧ a ≤ 4 ∧ 2 ≤ b ∧ b ≤ 4)

/-! ### Carriers (R86 to R90) -/

/-- Bits of a carrier element by carrier width code 0 C32, 1 C40, 2 C48. -/
def carrierBits : Nat → Nat
  | 0 => 32 | 1 => 40 | _ => 48

/-- f_c of a carrier width code. -/
def carrierF : Nat → Int
  | 0 => 4 | 1 => 9 | _ => 16

/-- Bytes of a carrier group (R87). -/
def carrierGroupBytes (w : Nat) : Nat := 64 + 2048 * (carrierBits w / 8)

/-- Lines of a carrier group: U of R240. -/
def carrierLines : Nat → Nat
  | 0 => 129 | 1 => 161 | _ => 193

/-- The carrier width code of a layer format entry (R86, kind 1 of R208). -/
def widthOfFmt : Nat → Nat
  | 0 => 1 | 1 => 2 | _ => 0

/-- A carrier block: anchor and 32 elements. -/
structure Block where
  anchor : Int
  elems : List Int
  deriving DecidableEq, Repr

def blockAllZero (b : Block) : Bool := b.elems.all (· == 0)

/-- Whether x fits W bits in two's complement. -/
def fitsBits (w : Nat) (x : Int) : Bool := decide (-(2 ^ (w - 1) : Int) ≤ x ∧ x < 2 ^ (w - 1))

/-- R89: the sum of two blocks of one width, and whether E_CARRIER_OVERFLOW is raised. -/
def blockAdd (w : Nat) (a b : Block) : Block × Bool :=
  let za := blockAllZero a
  let zb := blockAllZero b
  let c : Int := if za ∧ zb then 127 else if za then b.anchor else if zb then a.anchor else min a.anchor b.anchor
  let al (x : Block) : List Int := x.elems.map fun e => e * pow2 (x.anchor - c)
  let la := al a
  let lb := al b
  let sums := List.zipWith (· + ·) la lb
  let bits := carrierBits w
  let bad := la.any (fun x => !fitsBits bits x) || lb.any (fun x => !fitsBits bits x) || sums.any (fun x => !fitsBits bits x)
  (⟨c, sums.map fun x => signed bits (unsigned bits x)⟩, bad)

/-- R87: block i of a carrier group's bytes. -/
def blockOf (w : Nat) (grp : List Byte) (i : Nat) : Block :=
  let sz := carrierBits w / 8
  ⟨signed 8 (leAt grp i 1), (List.range 32).map fun j => signed (carrierBits w) (leAt grp (64 + (32 * i + j) * sz) sz)⟩

/-- The bytes of a block's 32 elements (R87). -/
def blockElemBytes (w : Nat) (b : Block) : List Byte :=
  let sz := carrierBits w / 8
  (b.elems.map fun e => leBytes sz (unsigned (carrierBits w) e)).flatten

/-- The sum of two whole carrier groups, and whether any block overflowed. -/
def groupAdd (w : Nat) (g h : List Byte) : List Byte × Bool :=
  let bs := (List.range 64).map fun i => blockAdd w (blockOf w g i) (blockOf w h i)
  ((bs.map fun p => BitVec.ofNat 8 (unsigned 8 p.1.anchor)) ++ (bs.map fun p => blockElemBytes w p.1).flatten,
    bs.any (·.2))

/-! ### Parameter planes (R91 to R94) -/

/-- The spacing exponent of E4M3 at a code: spacing is 2^(this) (R93). -/
def e4m3Spacing (code : Nat) : Int :=
  let e := natBits code 6 3
  if e = 0 then -9 else (e : Int) - 10

/-- R93: the master weight A · 2^s + r · q · 2^−23, exactly. -/
def masterWeight (code scale : Nat) (r : Int) : Dy :=
  let s : Int := (scale : Int) - 127
  dyAdd (let d := dyOf (decodeF e4m3 code); ⟨d.m, d.e + s⟩) ⟨r, e4m3Spacing code + s - 23⟩

/-- rne_e4m3(m / 2^s) with no saturation: its code, above `maxCode e4m3` when it is not finite. -/
def e4m3At (m : Dy) (s : Int) : Nat :=
  roundCode e4m3 .near (m.m.natAbs * pow2 (m.e - s)) (pow2 (s - m.e))

/-- The smallest s from `s` up to 127 at which every new weight fits (R94). -/
def splitScaleFrom (ms : List Dy) : Nat → Int → Int
  | 0, s => s
  | k + 1, s => if ms.all fun m => decide (e4m3At m s ≤ maxCode e4m3) then s else splitScaleFrom ms k (s + 1)

/-- R94: the split of 32 new master weights: scale byte, codes and residuals. -/
def splitBlock (ms : List Dy) : Nat × List Nat × List Int :=
  let s : Int := if ms.all fun m => decide (m.m = 0) then -127 else splitScaleFrom ms 254 (-127)
  let codes := ms.map fun m => e4m3At m s + (if m.m < 0 then 128 else 0)
  let rs := List.zipWith (fun m c =>
      let d := dyOf (decodeF e4m3 c)
      let x := dyAdd m (dyNeg ⟨d.m, d.e + s⟩)
      rneInt x.m (x.e - (e4m3Spacing c + s - 23))) ms codes
  ((s + 127).toNat, codes, rs)

end Sys2Proof.Machine
end

