-- ==== Sys2Proof/Machine/StallTypes.lean ====
section
/-!
DEFINITION. What one stall holds: sequencer, tack, outer-product engine, vector engine and scratchpad (02 to 07). Cycles are
core cycles since reset (`State.cyc`); shot cycles are formed where a register or an event shows one.
-/
namespace Sys2Proof.Machine

/-- The tack index that stands for none in event detail (R507). -/
def noTack : Nat := 0xFFFF

/-- A scoreboard tag (R55): a write to scratchpad bytes from its issue to its completion cycle. `wid` names the writer. -/
structure Tag where
  issue : Nat
  fin : Nat
  addr : Nat
  len : Nat
  wid : Nat
  /-- the write reaches the tile window where it is mapped: any write but the OPE's (R110, R124) -/
  win : Bool
  deriving DecidableEq, Repr

/-- A scratchpad write waiting for its completion cycle. `rank` is the order of R173; `pool` 0 writes to the banks, 1 to the
scheduled pool and 2 to the unscheduled pool of the gather buffer (R180). -/
structure PWrite where
  fin : Nat
  issue : Nat
  rank : Nat
  wid : Nat
  tack : Nat
  pool : Nat
  addr : Nat
  bytes : List Byte
  deriving DecidableEq, Repr

/-- A gather-buffer entry (R180): a line, a valid mark for each byte, the bytes. Entries stand oldest first. -/
structure Gather where
  line : Nat
  pool : Nat
  valid : List Bool
  bytes : List Byte
  /-- the first cycle in which it may drain -/
  since : Nat
  /-- accepted pony transfers that hold the entry and are not delivered yet (R183) -/
  held : Nat
  deriving DecidableEq, Repr

/-- Power state of a scratchpad bank (R186 to R190). -/
inductive BankPower where
  | on
  | waiting (issue : Nat)  -- powered down by SPD.PWR, not yet down
  | down
  | waking (ready : Nat)   -- filled with zeros, accepts accesses from `ready`
  deriving DecidableEq, Repr

/-- A column buffer of a feeder (R176): the block, the column group, the eight columns and the bytes that were lost. -/
structure ColBuf where
  block : Nat
  group : Nat
  fetched : Nat
  bytes : List Byte
  lost : List Bool
  /-- a write to a line of the block has completed since the fetch (R177) -/
  stale : Bool
  deriving DecidableEq, Repr

/-- SPD.COPY or SPD.FILL in progress (R192). -/
structure CopyOp where
  fill : Bool
  issue : Nat
  lines : Nat
  dst : Nat
  src : Nat
  value : Byte
  wid : Nat
  tack : Nat
  deriving DecidableEq, Repr

/-- The host's indirect access (R193): the line it waits to read. -/
structure Indirect where
  line : Nat
  waiting : Bool
  fin : Bool
  refused : Bool
  write : Bool
  data : List Byte
  deriving DecidableEq, Repr

def Indirect.reset : Indirect := ⟨0, false, false, false, false, zeroBytes 64⟩

/-- The scratchpad of a stall (06). -/
structure Spad where
  mem : Memory
  /-- two parity bits of a sector, kept as the difference from good parity: 0 is good (R184) -/
  badPar : Sparse (BitVec 2)
  writes : List PWrite
  tags : List Tag
  gather : List Gather
  banks : Sparse BankPower
  cancelled : List Nat
  copy : Option CopyOp
  ind : Indirect
  tmap : Nat
  err : Nat
  firstErr : Bool
  pcount : Nat
  pressure : Nat
  lastPressure : Nat
  /-- the last cycle in which reads held bank ports, and the banks whose read port they held (R171, R193) -/
  readPorts : Nat × List Nat
  /-- the last cycle in which gather entries drained: for each, its pool where its place is free from the next cycle on (else 0), and the
  port positions and words it claimed (R182) -/
  drains : Nat × List (Nat × List (Nat × Nat))
  deriving DecidableEq, Repr

def zeroPar : Nat → BitVec 2 := fun _ => 0

def bankOn : Nat → BankPower := fun _ => .on

def Spad.reset : Spad := ⟨[], [], [], [], [], [], [], none, .reset, 0, 0, false, 0, 0, 0, (0, []), (0, [])⟩

/-- An operand descriptor (R106 to R108): shadow and active copies, the step index of the active copy, how many copies have
become active, and the copies on their way (the cycle in which each becomes active). -/
structure Desc where
  shadow : Nat
  active : Nat
  index : Nat
  gen : Nat
  coming : List (Nat × Nat)
  deriving DecidableEq, Repr

def Desc.reset : Desc := ⟨0, 0, 0, 0, []⟩

def zeroDesc : Nat → Desc := fun _ => .reset

/-- One feeder of a pass (R108, R109): its descriptor, step index and copy at issue, the scale lines it holds for elements 0 to
63 and 64 to 127, and the half-vectors it holds for the steps of the present cycle (one list for each lane and half). -/
structure Feed where
  desc : Nat
  raw : Nat
  start : Nat
  gen : Nat
  scale0 : List (Byte × Bool)
  scale1 : List (Byte × Bool)
  half0 : List (List Elem)
  half1 : List (List Elem)
  deriving DecidableEq, Repr

/-- An accumulate pass whose reads are under way (R111, R112). -/
structure Pass where
  issue : Nat
  cycles : Nat
  steps : Nat
  dual : Bool
  lat : Nat
  shape : Nat
  groups : List Nat
  pass : Nat
  fp : Bool
  col : Feed
  row : Feed
  tack : Nat
  deriving DecidableEq, Repr

/-- The operands of one accumulate cycle on their way to the cells: for each lane the 64 column and 64 row elements. -/
structure PAdd where
  fin : Nat
  group : Nat
  pass : Nat
  fp : Bool
  lanes : List (List Elem × List Elem)
  tack : Nat
  deriving DecidableEq, Repr

/-- A row of 64 elements on its way into a group: added by a preload, written by a restore (R116, R121). -/
structure PRow where
  fin : Nat
  group : Nat
  row : Nat
  add : Bool
  elems : List Acc
  fpElems : List (BitVec 32)
  fp : Bool
  deriving DecidableEq, Repr

/-- A preload or drain on the move path, or a save or restore of the whole state (R115 to R121). -/
inductive MoveKind where
  | preload | drain | save | restore
  deriving DecidableEq, Repr

/-- A move operation: `word` is its instruction word, `wid` its writer name, `sums` the residue sums formed so far, `over` the
groups in which an element with V was read, `anchors` and `sizes` as at issue. -/
structure Move where
  kind : MoveKind
  issue : Nat
  shape : Nat
  groups : List Nat
  word : Insn
  fp : Bool
  sums : List (Nat × Nat)
  /-- groups with V in a sampled element -/
  ovf : List Nat
  /-- E_LA_OVERFLOW has been raised by this operation -/
  spilt : Bool
  wid : Nat
  tack : Nat
  deriving DecidableEq, Repr

/-- The residue of a group at the end of a drain or save (R128): group, expected, computed, whether the comparison is made. -/
structure Verdict where
  fin : Nat
  tack : Nat
  groups : List (Nat × Nat × Nat × Bool)
  deriving DecidableEq, Repr

/-- A pass or keep-warm whose broadcasts or products are outstanding: issue, last broadcast, last product, groups. -/
structure Flight where
  issue : Nat
  lastCast : Nat
  lastAdd : Nat
  groups : List Nat
  deriving DecidableEq, Repr

/-- The outer-product engine of a stall (04). -/
structure Ope where
  descs : Sparse Desc
  acc : Sparse Acc
  fpacc : Sparse (BitVec 32)
  /-- 0, or the number of the free values that unlisted elements hold since a change of mode -/
  laEra : Nat
  fpEra : Nat
  discard : BitVec 32
  anchors : Sparse Int
  minPass : Sparse Nat
  expect : Sparse Nat
  shape : Nat
  window : Bool
  fp : Bool
  passNo : Nat
  flights : List Flight
  passes : List Pass
  adds : List PAdd
  rows : List PRow
  move : Option Move
  verdicts : List Verdict
  colBufs : Sparse (Option ColBuf)
  rejected : List Nat
  err : Nat
  skipped : Nat
  macs : Nat
  warm : Nat
  lastWarm : Nat
  /-- descriptor reads issued in the present cycle: descriptor, byte address, tack index -/
  loads : List (Nat × Nat × Nat)
  /-- the cycle after the last yardmaster clear (R228) -/
  clearAt : Nat
  /-- issue and end of the last move operation that has ended -/
  lastMove : Nat × Nat
  deriving DecidableEq, Repr

def zeroInt : Nat → Int := fun _ => 0

def noBuf : Nat → Option ColBuf := fun _ => none

def zeroW32 : Nat → BitVec 32 := fun _ => 0

def Ope.reset : Ope :=
  ⟨[], [], [], 0, 0, 0, [], [], [], 0, false, false, 0, [], [], [], [], none, [], [], [], 0, 0, 0, 0, 0, [], 0, (0, 0)⟩

/-- A register of the vector engine that carries parity (R163): address, constant, random context, histogram counter, function-table entry
(slot, table 0 value or 1 derivative, index). -/
inductive VecReg where
  | addr (i : Nat)
  | konst (i : Nat)
  | rand (i : Nat)
  | hist (i : Nat)
  | entry (slot table i : Nat)
  deriving DecidableEq, Repr

/-- An address register (R135). -/
structure AddrReg where
  base : Nat
  step : Int
  deriving DecidableEq, Repr

def zeroAddr : Nat → AddrReg := fun _ => ⟨0, 0⟩

/-- A random-generator context (R157). -/
structure RandCtx where
  step : Nat
  layer : Nat
  purpose : Nat
  base : Nat
  deriving DecidableEq, Repr

def zeroRand : Nat → RandCtx := fun _ => ⟨0, 0, 0, 0⟩

/-- A change that takes effect in a later cycle: of a small register (R105, R139), or by a broadcast that arrives then (R225). -/
inductive Change where
  | addr (i : Nat) (r : AddrReg)
  | bump (i : Nat)
  | konst (i v : Nat)
  | randField (ctx field v : Nat)
  | randStep (ctx n : Nat)
  | shape (shape : Nat) (window fp : Bool)
  | slotLoad (slot : Nat)
  | fmt (entry code : Nat)
  | clear (tile : Nat) (anchor : Int)
  deriving DecidableEq, Repr

/-- A VEC instruction whose operands are read in the present cycle: the word, the addresses taken from the registers at issue
(by register number) and the constants and context as they stood. -/
structure VecOp where
  word : Insn
  issue : Nat
  addrs : List (Nat × Nat)
  konsts : List Nat
  rands : List RandCtx
  bases : List Int
  wid : Nat
  tack : Nat
  deriving DecidableEq, Repr

/-- A contribution to a histogram set on its way (R161). -/
structure PHist where
  fin : Nat
  set : Nat
  bins : List Nat
  deriving DecidableEq, Repr

/-- An HSTORE waiting for its sample cycle (R161). -/
structure PStore where
  fin : Nat
  word : Insn
  addr : Nat
  wid : Nat
  tack : Nat
  issue : Nat
  deriving DecidableEq, Repr

/-- The vector engine of a stall (05). -/
structure Vec where
  va : Sparse AddrReg
  vk : Sparse Nat
  rand : Sparse RandCtx
  hist : Sparse Nat
  histBase : Sparse Int
  slots : Sparse Byte
  valid : List Nat
  /-- slots being loaded, with the cycle of the broadcast's arrival -/
  loading : List (Nat × Nat)
  changes : List (Nat × Change)
  now : List VecOp
  phist : List PHist
  pstore : List PStore
  busyTo : Nat
  lastIssue : Option Nat
  /-- for each lane, cycles modulo 1,024 in which it was under check and a VEC instruction issued (R164) -/
  issues : Sparse Nat
  err : Nat
  skipped : Nat
  /-- registers and table entries whose parity is wrong (R163) -/
  badRegs : List VecReg
  /-- faults of the integer datapath: for a result element, the bits it inverts (R163) -/
  intFlips : Sparse Nat
  /-- a table entry has failed its parity: the groom reloads the slots before the rerun (R163) -/
  reload : Bool
  deriving DecidableEq, Repr

def Vec.reset : Vec := ⟨[], [], [], [], [], [], [], [], [], [], [], [], 0, none, [], 0, 0, [], [], false⟩

/-- A word of a tack or of a yardmaster program: as it was written, and the stored bits that have flipped since (64 data bits
and eight check bits, R202). -/
structure TackWord where
  word : Insn
  flips : BitVec 72
  deriving DecidableEq, Repr

def zeroTack : Nat → TackWord := fun _ => ⟨0, 0⟩

/-- An open loop (R204): first and last body index, iterations left after this one, call depth. -/
structure Loop where
  first : Nat
  last : Nat
  left : Nat
  depth : Nat
  deriving DecidableEq, Repr

/-- The course of a program: next index, open loops (innermost first), return stack. The sequencer has one and the fetcher has
its own copy (R216). -/
structure Course where
  index : Nat
  loops : List Loop
  rets : List Nat
  deriving DecidableEq, Repr

def Course.start (i : Nat) : Course := ⟨i, [], []⟩

/-- A fetched instruction in the run-ahead queue: index, fetch cycle, word, outcome of the check bits. -/
inductive FetchCheck where
  | good | corrected | bad
  deriving DecidableEq, Repr

structure Fetched where
  index : Nat
  cycle : Nat
  word : Insn
  check : FetchCheck
  deriving DecidableEq, Repr

/-- State of a sequencer (STL_SEQ_CTRL.state). -/
inductive SeqState where
  | idle | running | ended | halted
  deriving DecidableEq, Repr

/-- CTL.SUBST's patch for the next instruction (R208). -/
structure Patch where
  entry : Nat
  kind : Nat
  lo : Nat
  deriving DecidableEq, Repr

/-- A CSAVE or CREST in progress (R231): the sampled or gathered 24 lines. -/
structure CtxOp where
  save : Bool
  issue : Nat
  line : Nat
  data : List Byte
  wid : Nat
  tack : Nat
  deriving DecidableEq, Repr

/-- The sequencer of a stall (07). -/
structure Seq where
  state : SeqState
  entry : Nat
  ref : Nat
  course : Course
  patch : Option Patch
  placeCycle : Nat
  places : List Nat
  fetch : Course
  fetchOn : Bool
  fetchAt : Nat
  queue : List Fetched
  waiting : Option Nat
  arrived : Sparse Nat
  ctx : Option CtxOp
  /-- a cycle from which nothing issues (abort, audit halt, fence) -/
  stop : Option Nat
  lastCycle : Nat
  lastIndex : Nat
  illegal : Nat
  inconsistent : Nat
  skipFirst : Nat
  /-- the cycle in which the arrival at the barrier waited for takes effect (R268) -/
  arrCycle : Nat
  /-- the shot cycle of the last issue -/
  lastIn : Nat
  deriving DecidableEq, Repr

def Seq.reset : Seq :=
  ⟨.idle, 0, 0, .start 0, none, 0, [], .start 0, false, 0, [], none, [], none, none, 0, 0, 0, 0, 0, 0, 0⟩

/-- The tack of a stall (R210 to R215). -/
structure Tack where
  bank0 : Sparse TackWord
  bank1 : Sparse TackWord
  tag0 : Nat
  tag1 : Nat
  active : Bool
  pending : Bool
  /-- the banks a tack DMA is writing -/
  dma : List Nat
  fmt : Sparse Nat
  fmtPend : Sparse Nat
  err : Nat
  deriving DecidableEq, Repr

def Tack.reset : Tack := ⟨[], [], 0xFF, 0xFF, false, false, [], [], [], 0⟩

/-- An event that a stall has raised and the log writer has not taken yet. `fails`: the shot fails. -/
structure StallEvent where
  code : Nat
  cycle : Nat
  tack : Nat
  fails : Bool
  deriving DecidableEq, Repr

/-! ### Streams and the pony lane (08) -/

/-- A piece of an emit (R245): its memory lines and its local lines, line by line (byte addresses). -/
structure Piece where
  mems : List Nat
  locs : List Nat
  deriving DecidableEq, Repr

/-- A piece that has issued (R246, R247): `fin` is its landing or completion cycle, `quota` the stack and pseudo-channel it
counts against, `data` what has reached the staging buffer (a read), `drop` whether it is discarded at its landing. -/
structure Flying where
  id : Nat
  ctx : Nat
  emit : Nat
  piece : Nat
  issue : Nat
  fin : Nat
  write : Bool
  far : Bool
  quota : Option (Nat × Nat)
  body : Piece
  swap : Nat
  data : Option (List Byte)
  drop : Bool
  wid : Nat
  deriving DecidableEq, Repr

/-- State of a stream context (STL_STR_CTXn_STATUS.state). -/
inductive CtxState where
  | idle | active | ended | fault
  deriving DecidableEq, Repr

/-- A far page that a run's prefetch concerns (R256): promoted so far, and whether a demand piece has used it. -/
structure Page where
  page : Nat
  ready : Bool
  touched : Bool
  deriving DecidableEq, Repr

/-- The walk of a stream program over its emits (R241): indices i0 to i5, emit number, cycle of the next emit, whether the
await of this emit has been met, the pieces of the present emit not yet issued, the number of those issued, and `over` when
every emit has been generated. -/
structure Walk where
  ix : List Nat
  n : Nat
  t : Nat
  pieces : List Piece
  p : Nat
  opened : Bool
  closed : Bool
  deriving DecidableEq, Repr

def Walk.start (t : Nat) : Walk := ⟨[0, 0, 0, 0, 0, 0], 0, t, [], 0, false, false⟩

/-- A stream context (R233 to R262). `base` and `locBase` are the addresses at START, `steps` the words of the program. -/
structure Ctx where
  state : CtxState
  cause : Nat
  serving : Bool
  request : Nat
  desc : Nat
  piece : Nat
  emit : Nat
  start : Nat
  startTack : Nat
  raw : List Byte
  prog : List Nat
  unit : Nat
  base : Nat
  lo : Nat
  hi : Nat
  loc : Nat
  memOff : Int
  locOff : Int
  duration : Nat
  walk : Walk
  ahead : Walk
  halted : Option Nat
  endAt : Option Nat
  lastFin : Nat
  iterFin : Nat
  posts : List Nat
  pages : List Page
  seen : List Nat
  issued : Nat
  used : Nat
  dropped : Nat
  late : Nat
  wasted : Nat
  /-- pages whose promotion a HALT or an abort has cancelled (R255) -/
  cancelled : List Nat
  /-- the cycle in which the latest emit began to issue -/
  emitAt : Nat
  deriving DecidableEq, Repr

def Ctx.reset : Ctx :=
  ⟨.idle, 0, false, 0, 0, 0, 0, 0, 0, [], [], 129, 0, 0, 0, 0, 0, 0, 0, .start 0, .start 0, none, none, 0, 0, [], [], [],
    0, 0, 0, 0, 0, [], 0⟩

def zeroCtx : Nat → Ctx := fun _ => .reset

/-- What an issued piece still holds (R249): request slots and staging lines up to and including a cycle, and the stack and
pseudo-channel of its quota. -/
structure HeldRes where
  rel : Nat
  slots : Nat
  lines : Nat
  quota : Option (Nat × Nat)
  deriving DecidableEq, Repr

/-- The streams of a stall (08). -/
structure Streams where
  ctxs : Sparse Ctx
  flying : List Flying
  serial : Bool
  held : List HeldRes
  slotPeak : Nat
  linePeak : Nat
  lastSlotPeak : Nat
  lastLinePeak : Nat
  lastRead : Option Nat
  lastWrite : Option Nat
  err : Nat
  nextId : Nat
  /-- descriptors and programs in which a word has bad parity (R238) -/
  badDescs : List Nat
  badProgs : List Nat
  deriving DecidableEq, Repr

def Streams.reset : Streams := ⟨[], [], false, [], 0, 0, 0, 0, none, none, 0, 0, [], []⟩

/-- Where a pony transfer goes (R264, R265). -/
inductive PonyDest where
  | stall (stall addr : Nat)
  | hbm (addr : Nat)
  deriving DecidableEq, Repr

/-- A transfer of the pony lane (R264 to R268). -/
structure Pony where
  issue : Nat
  offer : Nat
  entry : Nat
  offset : Nat
  src : Nat
  len : Nat
  bytes : List Byte
  dest : Option PonyDest
  accepted : Option Nat
  fin : Nat
  tack : Nat
  wid : Nat
  deriving DecidableEq, Repr

/-- The pony port of a stall. -/
structure PonyPort where
  queue : List Pony
  flying : List Pony
  lastAccept : Option Nat
  delivered : Nat
  wait : Nat
  lastWait : Nat
  /-- the cycle up to which back-pressure of the gather buffer has been counted -/
  waitedTo : Nat
  err : Nat
  /-- the copies of the queue's pointers disagree (R427) -/
  bad : Bool
  deriving DecidableEq, Repr

def PonyPort.reset : PonyPort := ⟨[], [], none, 0, 0, 0, 0, 0, false⟩

/-! ### What the admitted image gives a stall -/

/-- The stall profile of an image (R233, R265, R105, R174): stream descriptors and programs by number, channel mode, pony
destination table, shape, window bit and mode, transposed segments, the function pair of each slot. -/
structure Profile where
  descs : List (Nat × List Byte)
  progs : List (Nat × List Nat)
  serial : Bool
  pony : List (List Byte)
  shape : Nat
  window : Bool
  fp : Bool
  tmap : Nat
  slots : List (Nat × Nat)
  deriving DecidableEq, Repr

def Profile.empty : Profile := ⟨[], [], false, [], 0, false, false, 0, []⟩

/-- An entry of a plan's barrier table (R219): module scope or one barn, members, the release shot cycle of each occurrence (in an
image that is not admitted yet only how many there are counts: the loader computes the cycles), the commit flag. -/
structure Barrier where
  id : Nat
  module : Bool
  members : List Nat
  releases : List Nat
  commit : Bool
  deriving DecidableEq, Repr

/-- What an instruction of a stall needs from outside the stall. -/
structure StallEnv where
  profile : Profile
  bars : List Barrier
  /-- the duration that the loader computed for a START: context, shot cycle of the START, core cycles (R262) -/
  durations : List (Nat × Nat × Nat)
  deriving DecidableEq, Repr

/-! ### The stall -/

/-- The shadow scoreboard's registers and the strikes of a stall (R55 to R59, R472, R473). -/
structure Audit where
  strict : Bool
  violations : Nat
  firstCycle : Nat
  firstInfo : Nat
  firstAddr : Nat
  strikes : Nat
  quiet : Nat
  /-- the most strikes of an event raised in the present shot -/
  earned : Nat
  deriving DecidableEq, Repr

def Audit.reset : Audit := ⟨false, 0, 0, 0, 0, 0, 0, 0⟩

/-- One stall. `clk`: every cycle before it is complete in the stall. `once`: the events already raised in the present shot
that are raised once per shot. `shotStart`: the cycle of the present shot's tick. `works`: the shot runs plan work on it. -/
structure Stall where
  clk : Nat
  seq : Seq
  tack : Tack
  ope : Ope
  vec : Vec
  spd : Spad
  str : Streams
  pony : PonyPort
  aud : Audit
  events : List StallEvent
  once : List Nat
  shotStart : Nat
  works : Bool
  logical : Option Nat
  fenced : Bool
  wids : Nat
  seed : Nat
  deriving DecidableEq, Repr

/-- A stall after reset. -/
def Stall.reset : Stall :=
  ⟨0, .reset, .reset, .reset, .reset, .reset, .reset, .reset, .reset, [], [], 0, false, none, false, 0, 0⟩

end Sys2Proof.Machine
end

