-- ==== Sys2Proof/Machine/ImageTypes.lean ====
section
/-!
DEFINITION. What an Emsor image holds (14, and the chapters its sections name). The header, section table and trailer are read
from the staged bytes; the contents of the sections whose byte layout the spec does not give come in this structured form with
the CFG_LOAD command.
-/
namespace Sys2Proof.Machine

/-- A region record (R278). -/
structure Region where
  base : Nat
  size : Nat
  stackBase : Nat
  kind : Nat
  place : Nat
  purpose : Nat
  hostWrite : Bool
  order : Bool
  kblocks : Nat
  ncols : Nat
  deriving DecidableEq, Repr

/-- R278: a region record, from its 32 bytes. -/
def Region.ofBytes (b : List Byte) : Region :=
  let flags := leAt b 21 1
  ⟨leAt b 0 6, leAt b 6 6, leAt b 12 6, leAt b 18 1, leAt b 19 1, leAt b 20 1, natBit flags 0, natBit flags 1, leAt b 22 2, leAt b 24 2⟩

/-- R278: whether a region record has the length and the zeros of its layout. -/
def regionForm (b : List Byte) : Bool := decide (b.length = 32) && decide (natBits (leAt b 21 1) 7 2 = 0) && decide (leAt b 26 6 = 0)

/-- A slice of a shot plan (R37). `serving` false is a training slice. -/
structure Slice where
  serving : Bool
  members : List Nat
  cls : Nat
  cutOff : Nat
  start : Nat
  delivery : Nat
  fin : Nat
  capacity : Nat
  preempt : Bool
  deriving DecidableEq, Repr

/-- A transfer record (R374). `kind` 0 write, 1 carrier sum, 2 exchange. -/
structure Transfer where
  number : Nat
  recv : Bool
  ge : Bool
  kind : Nat
  op : Nat
  peer : Nat
  target : Nat
  source : Nat
  place : Nat
  c : Nat
  count : Nat
  h : Nat
  pgroup : Nat
  fmt : Nat
  deriving DecidableEq, Repr

/-- R374: a transfer record, from its 32 bytes. -/
def Transfer.ofBytes (b : List Byte) : Transfer :=
  let mode := leAt b 2 1
  { number := leAt b 0 2, recv := natBit mode 0, ge := natBit mode 1, kind := natBits mode 3 2, op := leAt b 3 1, peer := leAt b 4 2
    target := leAt b 6 2, source := leAt b 8 6, place := leAt b 14 6, c := leAt b 20 4, count := leAt b 24 3, h := leAt b 27 1
    pgroup := leAt b 28 2, fmt := natBits (leAt b 30 1) 5 0 }

/-- R374: whether a transfer record has the length and the zeros of its layout. -/
def transferForm (b : List Byte) : Bool :=
  decide (b.length = 32) && decide (natBits (leAt b 2 1) 7 4 = 0) && decide (natBits (leAt b 30 1) 7 6 = 0) && decide (leAt b 31 1 = 0)

/-- A program that a plan runs on a logical stall: overlay and entry index (R36). -/
structure Prog where
  logical : Nat
  overlay : Nat
  entry : Nat
  deriving DecidableEq, Repr

/-- A shot plan (R36). `num`: its plan number. `buffers`: named ranges of a logical stall's scratchpad or of HBM (R446): stall or none,
address, length. `gaps`: logical stall, first shot cycle, length (R131). `refresh`: stack, quarter, shot cycle (R293). `reserve`: lines that
the plan reserves through an interface in a count (R18, R19, R36): interface (0 to 7 into barn b, 8 to 15 out of it, 16 and 17 into GW and
GE, 18 and 19 out of them, 20 to 51 read from stack j, 52 to 83 written to it), count of the shot, lines. The loader computes `durations`
(logical stall, context, shot cycle of the START, core cycles: R262), the release cycles of `bars` (R219), the regions that the plan
reads, and whether the last two conditions of R467 hold. -/
structure Plan where
  num : Nat
  period : Nat
  progs : List Prog
  ymEntries : List Nat
  slices : List Slice
  bars : List Barrier
  refresh : List (Nat × Nat × Nat)
  transfers : List Transfer
  /-- the transfer records as the image holds them (R374) -/
  transferRecs : List (List Byte)
  gaps : List (Nat × Nat × Nat)
  energy : List Nat
  reserve : List (Nat × Nat × Nat)
  durations : List (Nat × Nat × Nat × Nat)
  buffers : List (Option Nat × Nat × Nat)
  reads : List Nat
  idempotent : Bool
  deriving DecidableEq, Repr

/-- The logical stalls that a plan names (R27): in its programs, slices, barriers, gaps and buffers. -/
def Plan.names (p : Plan) : List Nat :=
  (p.progs.map fun g => g.logical) ++ (p.slices.map fun l => l.members).flatten ++ (p.bars.map fun b => b.members).flatten ++
    (p.gaps.map fun g => g.1) ++ p.buffers.filterMap fun b => b.1

/-- A PROFILE section: the logical stalls, the profile, the initial overlay. -/
structure ProfileSec where
  logicals : List Nat
  profile : Profile
  overlay : Nat
  deriving DecidableEq, Repr

/-- An OVERLAY section: for each logical stall it covers, its bank image. -/
structure Overlay where
  num : Nat
  images : List (Nat × List Insn)
  deriving DecidableEq, Repr

/-- A YMPROG section: program words and the function-table pairs of the barn's store (R224, R226). -/
structure YmSec where
  prog : List Insn
  pairs : List Nat
  deriving DecidableEq, Repr

/-- An update record (R315). -/
structure UpdRecord where
  aRegion : Nat
  bRegion : Nat
  gRegion : Nat
  jRegion : Nat
  aFirst : Nat
  bFirst : Nat
  n : Nat
  pgroup : Nat
  fmtEntry : Nat
  start : Nat
  deriving DecidableEq, Repr

/-- R315: an update record, from its 32 bytes. -/
def UpdRecord.ofBytes (b : List Byte) : UpdRecord :=
  { aRegion := leAt b 0 1, bRegion := leAt b 1 1, gRegion := leAt b 2 1, jRegion := leAt b 3 1, aFirst := leAt b 4 4, bFirst := leAt b 8 4
    n := leAt b 12 4, pgroup := leAt b 16 2, fmtEntry := natBits (leAt b 18 2) 5 0, start := leAt b 20 4 }

/-- R315: whether an update record has the length and the zeros of its layout. -/
def updForm (b : List Byte) : Bool := decide (b.length = 32) && decide (natBits (leAt b 18 2) 15 6 = 0) && decide (leAt b 24 8 = 0)

/-- Format policy of an entry (R314): allowed mask, tail shift, histogram base. -/
structure FmtPolicy where
  allowed : Nat
  tail : Nat
  base : Int
  deriving DecidableEq, Repr

/-- The UPDATE section. `groupTable`, `histTable`: region indices (R313, R317). `shadows`: snapshot shadow regions (R333).
`thresh`: E2M1, E2M3, E3M2, E4M3. `initial`: the initial layer format table. -/
structure UpdSec where
  records : List UpdRecord
  /-- the update records as the image holds them (R315) -/
  recs : List (List Byte)
  groupTable : Nat
  histTable : Nat
  policy : List FmtPolicy
  thresh : List Nat
  initial : List Nat
  shadows : List Nat
  deriving DecidableEq, Repr

/-- A destination entry (R348). -/
structure Dest where
  kind : Nat
  active : Bool
  ident : Nat
  window : Nat
  base : Nat
  size : Nat
  deriving DecidableEq, Repr

/-- R348: a destination entry, from its 32 bytes. -/
def Dest.ofBytes (b : List Byte) : Dest :=
  { kind := leAt b 0 1, active := natBit (leAt b 1 1) 0, ident := leAt b 2 2, window := leAt b 4 2, base := leAt b 8 8, size := leAt b 16 8 }

/-- R348: whether a destination entry has the length and the zeros of its layout; a host's base is a multiple of 4 KiB. -/
def destForm (b : List Byte) : Bool :=
  let d := Dest.ofBytes b
  decide (b.length = 32) && decide (natBits (leAt b 1 1) 7 1 = 0) && decide (leAt b 6 2 = 0) && decide (leAt b 24 8 = 0) &&
    (decide (d.kind = 2) || decide (d.window = 0)) && (decide (d.kind ≠ 3) || (decide (d.ident = 0) && decide (d.base % 4096 = 0)))

/-- The checkpoint policy (R337). -/
structure CkptPolicy where
  mode : Nat
  maxLost : Nat
  window : Nat
  priorRate : Nat
  initCost : Nat
  initStep : Nat
  momentEvery : Nat
  threshold : Nat
  depth : Nat
  journalHdr : Nat
  shadow : List Nat
  tensorMap : List Nat
  dests : List Dest
  /-- the destination entries as the image holds them (R348) -/
  destRecs : List (List Byte)
  deriving DecidableEq, Repr

/-- A window record (R380). -/
structure WindowRec where
  openAt : Bool
  rights : Nat
  op : Nat
  target : Nat
  stall : Nat
  base : Nat
  size : Nat
  operand : Nat
  deriving DecidableEq, Repr

/-- Settings of an outer port (R390). Addresses are numbers; `v4` says which kind. -/
structure Outer where
  v4 : Bool
  addr : Nat
  plen : Nat
  nextHop : Nat
  tport : Nat
  sport : Nat
  dscp : Nat
  deriving DecidableEq, Repr

/-- The FABRIC section (R363, R365, R371, R379, R380, R382, R390, R393, R395). `cases`: failed and spare index of cases 1 on.
`field`: each paddock's base address. `cascade`: in quarters of a nanosecond. -/
structure Fabric where
  dims : List Nat
  coord : List Nat
  paddock : Nat
  modes : List Nat
  etype : Nat
  outers : List Outer
  windows : List WindowRec
  bindings : List (Nat × Nat × Nat)
  cases : List (Nat × Nat)
  tickSource : Nat
  master : Nat
  domain : Nat
  cascade : Nat
  field : List Nat
  deriving DecidableEq, Repr

/-- An area of the SERVE section: class, number of the slice in its plan, input and output area and slot sizes (R391, R415). -/
structure ServeArea where
  cls : Nat
  inst : Nat
  inBase : Nat
  inSlot : Nat
  outBase : Nat
  outSlot : Nat
  deriving DecidableEq, Repr

/-- The POWER section (R491). -/
structure PowerSec where
  budget : Nat
  ramp : Nat
  tol : Nat
  coeffs : List Nat
  deriving DecidableEq, Repr

/-- An image. `map`: the physical stall (barn-local) each logical stall names; `far`: region of the far table and its length. -/
structure Image where
  seed : Nat
  plans : List Plan
  map : List (Option Nat)
  profiles : List ProfileSec
  overlays : List Overlay
  ymprogs : List YmSec
  ftab : List (List Byte)
  regions : List Region
  /-- the region records as the image holds them (R278) -/
  regionRecs : List (List Byte)
  farReserve : List Nat
  tables : List (Nat × List Byte)
  far : Option (Nat × Nat)
  update : Option UpdSec
  ckpt : Option CkptPolicy
  fabric : Fabric
  serve : List ServeArea
  power : PowerSec
  strict : Bool
  injPorts : List Nat
  deriving DecidableEq, Repr

/-- The image with what its records of a stated layout hold (R278, R315, R348, R374). -/
def Image.decoded (im : Image) : Image :=
  { im with
    regions := im.regionRecs.map Region.ofBytes
    plans := im.plans.map fun p => { p with transfers := p.transferRecs.map Transfer.ofBytes }
    update := im.update.map fun u => { u with records := u.recs.map UpdRecord.ofBytes }
    ckpt := im.ckpt.map fun c => { c with dests := c.destRecs.map Dest.ofBytes } }

end Sys2Proof.Machine
end

