-- ==== Sys2Proof/Machine/Types.lean ====
section
/-!
DEFINITION. The state of the module outside its stalls, one structure per chapter: events and shots (02, 15), yardmasters (07),
stacks, far tier and loft (09), training (10), securing (11), fabric (12), host interface (13), boot and identity (14), power (16).
-/
namespace Sys2Proof.Machine

/-! ### Events (02, 13) -/

/-- An event (R61, R429, R430): code, source, shot number, time count, the record's bytes from 24 on. -/
structure Event where
  code : Nat
  src : Nat
  shot : Nat
  count : Nat
  detail : List Byte
  deriving DecidableEq, Repr

/-- The event log (R427 to R432). `held`: events of the writer's 64 counts. `full`: events held while the log was full.
`lost`: since the last overflow record. `starts`: the pointers at which records and pads start, oldest first. `last`: count of
the event placed last. `lostCodes`: codes of the events lost since the last overflow record. -/
structure Log where
  held : List Event
  full : List Event
  ring : Memory
  wptr : Nat
  rptr : Nat
  wptr2 : Nat
  rptr2 : Nat
  lostNow : Nat
  lostEver : Nat
  starts : List Nat
  last : Nat
  lostCodes : List Nat
  deriving DecidableEq, Repr

def Log.reset : Log := ⟨[], [], [], 0, 0, 0, 0, 0, 0, [], 0, []⟩

/-! ### Frames (12) -/

/-- A frame on a torus link or outer port (R371, R372). `good`: its FCS is right. `mine`: it is addressed to the port.
`peer`, `pport`: address and UDP port of the other end on an outer port. -/
structure Frame where
  etype : Nat
  good : Bool
  mine : Bool
  kind : Nat
  flags : Nat
  src : Nat
  dst : Nat
  window : Nat
  hops : Nat
  gen : Nat
  length : Nat
  lseq : Nat
  number : Nat
  offset : Nat
  pgroup : Nat
  sigma : Nat
  whenC : Nat
  whenS : Nat
  payload : List Byte
  peer : Nat
  pport : Nat
  deriving DecidableEq, Repr

def Frame.sched (f : Frame) : Bool := natBit f.flags 0
def Frame.isLast (f : Frame) : Bool := natBit f.flags 1
def Frame.refusedFlag (f : Frame) : Bool := natBit f.flags 2

/-- An empty frame of the torus EtherType. -/
def Frame.blank : Frame := ⟨0x88B5, true, true, 0, 0, 0, 0, 0, 0, 0, 0, 0, 0, 0, 0xFFFF, 0, 0, 0, [], 0, 0⟩

/-- Secured-message transports of the responder (R457). -/
inductive Transport where
  | doe | mctp
  deriving DecidableEq, Repr

/-- An SPDM VENDOR_DEFINED_REQUEST (R426): the vendor ID and what follows it. -/
structure VendorRequest where
  vendor : BitVec 16
  data : List Byte
  deriving DecidableEq, Repr

/-- A read of BAR0 (R7): its address, and whether it is of 64 bits. -/
structure BarRead where
  addr : Nat
  wide : Bool
  deriving DecidableEq, Repr

/-- What a write of BAR0 carries (R7): 32 bits, and the upper half where it is of 64. -/
structure BarValue where
  low : Word
  upper : Option Word
  deriving DecidableEq, Repr

/-- What the module drives outward, in order. -/
inductive Out where
  | hostWrite (addr : Nat) (bytes : List Byte)
  | hostRead (addr len : Nat)
  | msix (vector : Nat)
  | bar0 (v : Nat)
  | bar2Data (bytes : List Byte)
  | bar2Abort
  | frame (port : Nat) (f : Frame)
  | tickOut (shot count crc : Nat)
  | nvme (op cid nsid lba blocks : Nat)
  | auxData (bytes : List Byte)
  | auxUnsupported
  | spdm (t : Transport) (code : Nat) (bytes : List Byte)
  | pldm (type sensor : Nat) (reading : Option Int)
  | arpReply (port addr mac : Nat)
  | neighborAdvert (port addr mac : Nat)
  | ptp (port kind : Nat)
  | pin (name : Nat) (level : Bool)
  deriving DecidableEq, Repr

/-- Pins that the module drives (R502): numbers for `Out.pin`. -/
def pinReplace : Nat := 0
def pinAlert : Nat := 1
def pinTherm : Nat := 2
def pinAuxPerst : Nat := 3

/-! ### Shots (02, 15) -/

/-- A tick announcement (R393). -/
structure Announce where
  shot : Nat
  count : Nat
  deriving DecidableEq, Repr

/-- An occurrence of a barrier entry in the present shot (R219 to R221). -/
structure BarInst where
  id : Nat
  k : Nat
  released : Option Nat
  late : Bool
  deriving DecidableEq, Repr

/-- A failure of the shot: cycle of its detection, event code and source. -/
structure Cause where
  at_ : Nat
  code : Nat
  src : Nat
  deriving DecidableEq, Repr

/-- The shot in progress and the ticks. `epoch`: T(0). `begun`: a shot occupies the present time. `begin_`: its first cycle. `no`:
its number. `plan`: the plan it runs, none in an empty shot. `sidx`: its index in its invocation. `step`: the step number. `fail`: its
first failure. `margin`: its closing margin's work is done. `gone`: cycle of an abort. `halt`: cycle from which issue is halted
under audit. `skewed`: the first skew of an audit is logged. `noTicks`: ticks are withheld. `missAt`: cycle of a tick that did not
fire. `anns`: announcements held. `bars`: barrier occurrences. `linkRetry`, `injectEvt`, `loftEvt`, `corrected`: events raised once
per shot. `declared`, `measured`: energy in nJ. `nextNo`: n of the next boundary, counted from T(0). `ownFrom`: cycle from which the
stacks refresh on their own timers, where no shot runs (R295). -/
structure Shot where
  epoch : Option Nat
  begun : Bool
  begin_ : Nat
  no : Nat
  plan : Option Nat
  sidx : Nat
  step : Nat
  fail : Option Cause
  margin : Bool
  gone : Option Nat
  halt : Option Nat
  skewed : Bool
  noTicks : Bool
  missAt : Option Nat
  anns : List Announce
  bars : List BarInst
  linkRetry : List Nat
  injectEvt : Bool
  loftEvt : Bool
  corrected : List Nat
  declared : Nat
  measured : Nat
  nextNo : Nat
  ownFrom : Nat
  deriving DecidableEq, Repr

def Shot.reset : Shot :=
  ⟨none, false, 0, 0, none, 0, 0, none, false, none, none, false, false, none, [], [], [], false, false, [], 0, 0, 0, 0⟩

/-- A move of a logical stall to a spare (R474, R475). `copied`: its copy is complete, and the next tick carries it. -/
structure StallMove where
  logical : Nat
  spare : Nat
  tag0 : Nat
  tag1 : Nat
  active : Bool
  pending : Bool
  started : Bool
  copied : Bool
  deriving DecidableEq, Repr

/-- Fencing and reruns (15). `fenced`: physical stalls in the flash fence list (kept across resets). `requests`: fences the host
asked for. `map`: physical stall of each logical stall. `rerun`: a shot waits to be rerun. -/
structure Safe where
  fenced : List Nat
  requests : List Nat
  map : Sparse Nat
  moves : List StallMove
  rerun : Bool
  reruns : Nat
  holding : Bool
  abort : Option Nat
  deriving DecidableEq, Repr

def noStall : Nat → Nat := fun _ => 640

def Safe.reset : Safe := ⟨[], [], [], [], false, 0, false, none⟩

/-! ### Yardmasters (07) -/

/-- A tack DMA in progress: the target stalls of each aisle that are not complete, in logical order; the next write of the first
of each aisle; stalls that dropped a write. -/
structure TackDma where
  bank : Bool
  overlay : Nat
  todo : List (List Nat)
  next : List Nat
  dropped : List Nat
  deriving DecidableEq, Repr

/-- A mode 1 selection under way (R227): entry, issue cycle, the override at issue (R314). -/
structure FmtSel where
  entry : Nat
  issue : Nat
  override_ : Nat
  deriving DecidableEq, Repr

/-- A function-table load under way (R155, R226): issue cycle of its YM.FTAB, slot, pair of the store. -/
structure FtabLoad where
  issue : Nat
  slot : Nat
  pair : Nat
  deriving DecidableEq, Repr

/-- A yardmaster: program, function-table pairs of its store, state, entry index, next index, reference cycle, last issue, the
cycle from which it issues nothing, issue of the last YM.FTAB, loads and selection under way, tack DMA, and the events already
raised in the present shot that are raised once per shot. -/
structure Barn where
  prog : Sparse TackWord
  pairs : List Nat
  state : SeqState
  entry : Nat
  index : Nat
  ref : Nat
  lastIssue : Option Nat
  stop : Option Nat
  ftabAt : Option Nat
  loads : List FtabLoad
  sel : Option FmtSel
  dma : Option TackDma
  once : List Nat
  deriving DecidableEq, Repr

def Barn.reset : Barn :=
  ⟨[], [], .idle, 0, 0, 0, none, none, none, [], none, none, []⟩

def zeroBarn : Nat → Barn := fun _ => .reset

/-! ### Stacks, far tier, loft (09) -/

/-- A unit of 32 bytes whose stored symbols are in error (R288): the number of bad symbols, and what the unit reads as where the
code does not restore it. -/
structure BadUnit where
  symbols : Nat
  raw : List Byte
  deriving DecidableEq, Repr

def noBad : Nat → BadUnit := fun _ => ⟨0, []⟩

/-- An entry of a base die's pony buffer (R287): unit, valid bytes, bytes, whether a scheduled transfer wrote it. -/
structure PonyEntry where
  unit : Nat
  bytes : List (Option Byte)
  sched : Bool
  /-- accepted transfers that hold the entry and are not delivered yet -/
  held : Nat
  deriving DecidableEq, Repr

/-- A request on its way to a base die (R285): arrival cycle, arrival order among equals, the stall piece that it serves. -/
structure Arrival where
  at_ : Nat
  issue : Nat
  stall : Nat
  id : Nat
  lines : List Nat
  write : Bool
  far : Bool
  deriving DecidableEq, Repr

/-- A base die and its stack. `walk`: next line of each pseudo-channel's scrub. `refreshes`: refreshes of each pseudo-channel.
`lastRef`: cycle after its last refresh, 0 for none. `passes`: scrub passes of each pseudo-channel. -/
structure Stack where
  failed : Bool
  repair : List Nat
  pony : List PonyEntry
  arrivals : List Arrival
  walk : Sparse Nat
  refreshes : Sparse Nat
  lastRef : Sparse Nat
  passes : Sparse Nat
  /-- far lines that the stack has sent of its far reservation: the latest count in which it sent some, and how many (R301) -/
  farSent : Nat × Nat
  deriving DecidableEq, Repr

def Stack.reset : Stack := ⟨false, [], [], [], [], [], [], [], (0, 0)⟩

def zeroStack : Nat → Stack := fun _ => .reset

/-- State of a loft frame (R302). -/
inductive FrameState where
  | free | promoting | resident
  deriving DecidableEq, Repr

/-- A run of a stream context that holds a page: stall, context, the cycle of its START. -/
structure Holder where
  stall : Nat
  ctx : Nat
  start : Nat
  deriving DecidableEq, Repr

/-- What stands for the mark `resident` of a page's entry, among requests for promotions (R306). -/
def Holder.groom : Holder := ⟨640, 0, 0⟩

/-- A loft frame (R302): page and state, the runs that hold it, whether its page is marked resident. -/
structure LoftFrame where
  page : Nat
  state : FrameState
  holders : List Holder
  permanent : Bool
  ref : Bool
  deriving DecidableEq, Repr

def LoftFrame.empty : LoftFrame := ⟨0, .free, [], false, false⟩

/-- A pin count (R302). -/
def LoftFrame.pins (f : LoftFrame) : Nat := f.holders.length + (if f.permanent then 1 else 0)

/-- An accepted FAR_MAP change (R298): first page, entries, tag of its command. -/
structure FarChange where
  first : Nat
  entries : List (List Byte)
  tag : Nat
  deriving DecidableEq, Repr

/-- A far read piece served from its source (R300): stall, piece, kind, source address, bytes, what has arrived, command. -/
structure FarRead where
  stall : Nat
  id : Nat
  ctx : Nat
  kind : Nat
  ident : Nat
  window : Nat
  addr : Nat
  len : Nat
  got : List (Nat × List Byte)
  tagNo : Nat
  deriving DecidableEq, Repr

/-- The far tier (R296 to R307). `asks`: promotion requests not served yet, each with its page. -/
structure Far where
  frames : List LoftFrame
  hand : Nat
  change : Option FarChange
  reads : List FarRead
  asks : List (Holder × Nat)
  promoted : Nat
  evicted : Nat
  refused : Nat
  tags : Nat
  deriving DecidableEq, Repr

def Far.reset : Far := ⟨[], 0, none, [], [], 0, 0, 0, 0⟩

/-! ### Training (10) -/

/-- The step record (R509). -/
structure StepRec where
  step : Nat
  failed : Bool
  far : Bool
  deriving DecidableEq, Repr

/-- What remains of an update record after a commit (R323): its index, its stack, the carrier width of its plane G, the next of its
`n` groups, the first cycle in which that group's window may begin. -/
structure UpdPass where
  record : Nat
  stack : Nat
  width : Nat
  next : Nat
  n : Nat
  at_ : Nat
  deriving DecidableEq, Repr

/-- Training state (10). `skew`: parameter groups with their skew bit set; `skewRaised`: E_STEP_SKEW raised in this step. `freeze`:
pending request. `passes`: records under way. `commits`: commits since admission (R345). `result`: what the commit exchange brought.
`vetoCause`: this module's own veto at the injection. `rangeRaised`: E_UPD_RANGE raised in this commit. `header`: step, shot and
count of the commit whose journal header is due in the closing margin (R346). -/
structure Train where
  mark : StepRec
  diverged : Bool
  skew : List Nat
  skewRaised : Bool
  freeze : Option (Nat × Bool)
  passes : List UpdPass
  commits : Nat
  result : Option (List Byte)
  vetoCause : Nat
  rangeRaised : Bool
  header : Option (Nat × Nat × Nat)
  deriving DecidableEq, Repr

def Train.reset : Train := ⟨⟨0, false, false⟩, false, [], false, none, [], 0, none, 0, false, none⟩

/-! ### Securing (11) -/

/-- How a tensor goes into a point (R342, R343). -/
inductive Method where
  | full | journal (moment : Bool)
  deriving DecidableEq, Repr

/-- What the journal of a tensor has shipped since its last full copy (R343): step of that copy, step of its last full or moment
copy, bytes shipped, whether its chain is broken. -/
structure Chain where
  tensor : Nat
  fullStep : Option Nat
  momentStep : Nat
  shipped : Nat
  broken : Bool
  deriving DecidableEq, Repr

/-- A segment of a point (R352): kind (0 full copy, 1 moment copy, 2 journal slot, 3 header slot), tensor and update record, the commit count
of its step, its length. -/
structure Seg where
  kind : Nat
  tensor : Nat
  record : Nat
  count : Nat
  len : Nat
  deriving DecidableEq, Repr

/-- Bytes that a point takes at a destination (R350): the point's step, the segment's kind (4 the manifest), tensor, offset, length. -/
structure Extent where
  step : Nat
  kind : Nat
  tensor : Nat
  off : Nat
  len : Nat
  deriving DecidableEq, Repr

/-- A destination as the ring that the engine uses it as (R350, R352): its write position, the points written to it, what they take. -/
structure DestRing where
  pos : Nat
  seqNo : Nat
  kept : List Extent
  deriving DecidableEq, Repr

def zeroRingOf : Nat → DestRing := fun _ => ⟨0, 0, []⟩

/-- A securing point (R336, R349): step, shot and commit count of its release, count of its start, methods by tensor, whether it is
a full point, the destinations where it is durable and those that have failed, groups saved in the shadow (record, group), commit
count of the first journal slot it ships, the journal and moment bytes it ships for each journal tensor, and the chains as they
stand once it is durable. -/
structure Point where
  step : Nat
  shot : Nat
  count : Nat
  start : Nat
  methods : List (Nat × Method)
  full : Bool
  durableAt : List Nat
  failedAt : List Nat
  shadowed : List (Nat × Nat)
  firstSlot : Nat
  bytes : List (Nat × Nat)
  chains : List Chain
  /-- what the point writes, before its manifest (R352) -/
  segs : List Seg
  /-- the layer format table as at its step -/
  fmts : List Nat
  /-- offsets of the segments and the manifest at each destination (R350) -/
  places : List (Nat × List Nat)
  /-- tensors repaired since the point's start (R342) -/
  repaired : List Nat
  deriving DecidableEq, Repr

/-- A restore in progress (R353, R354). -/
structure Restore where
  step : Nat
  source : Nat
  deriving DecidableEq, Repr

/-- Securing state (11). `admitted`: count at admission. `fails`: counts of failure events, newest first. `costs`: times in counts from
start to durability of the last points, newest first. `releases`: counts of the last commits, newest first. `due`: step, shot and
commit count of a point that starts when its step's update passes have completed. `cur`: point in progress. `done`: the latest
durable points, newest first. `retry`: the last point became durable nowhere. `owed`: a point fell due while one was in progress (R341).
`repairs`: records under tensor repair. `rings`: the destinations. -/
structure Ckpt where
  admitted : Nat
  fails : List Nat
  costs : List Nat
  releases : List Nat
  due : Option (Nat × Nat × Nat)
  cur : Option Point
  done : List Point
  chains : List Chain
  retry : Bool
  restore : Option Restore
  repairs : List Nat
  owed : Bool
  rings : Sparse DestRing
  deriving DecidableEq, Repr

def Ckpt.reset : Ckpt := ⟨0, [], [], [], none, none, [], [], false, none, [], false, []⟩

/-- A destination's ring. -/
def Ckpt.ring (k : Ckpt) (d : Nat) : DestRing := sget zeroRingOf k.rings d

/-! ### Fabric (12) -/

/-- A data frame in a replay buffer (R368): the frame, the cycle in which its slot began, its resends. -/
structure Replay where
  f : Frame
  slot : Nat
  resends : Nat
  deriving DecidableEq, Repr

/-- A port (R362 to R370, R398). `inj`, `param`: FAB_INJ_CTRL and FAB_INJ_PARAM. `sent`: data frames sent since injection was set. -/
structure Port where
  up : Bool
  training : Bool
  cable : Bool
  peer : Option (Nat × Nat)
  seqNo : Nat
  replay : List Replay
  expect : Nat
  got : List Nat
  sent : Nat
  swapHeld : Option Frame
  back : Nat
  deriving DecidableEq, Repr

def Port.reset : Port := ⟨false, false, false, none, 0, [], 0, [], 0, none, 0⟩

def zeroPort : Nat → Port := fun _ => .reset

/-- A window (R380, R381). -/
structure Window where
  isOpen : Bool
  gen : Nat
  pend : Option Bool
  deriving DecidableEq, Repr

def zeroWindow : Nat → Window := fun _ => ⟨false, 0, none⟩

/-- A binding (R382). -/
structure Binding where
  peer : Nat
  window : Nat
  gen : Nat
  pend : Option Nat
  deriving DecidableEq, Repr

def zeroBinding : Nat → Binding := fun _ => ⟨0, 0, 0, none⟩

/-- A scheduled frame held at this gate for its landing or for its next slot: the port and cycle of its arrival, the cycle for
which it is held. -/
structure Held where
  port : Nat
  f : Frame
  arr : Nat
  due : Nat
  deriving DecidableEq, Repr

/-- Frames of a carrier sum that have landed in the present shot: transfer, peer, frame number and bytes of each (R385). -/
structure SumBuf where
  number : Nat
  peer : Nat
  frames : List (Nat × List Byte)
  deriving DecidableEq, Repr

/-- A frame of an exchange under way (R387): transfer, frame, accumulator, steps whose frame has been combined. -/
structure Exch where
  number : Nat
  frame : Nat
  acc : List Byte
  steps : List Nat
  deriving DecidableEq, Repr

/-- An unscheduled message frame awaiting its acknowledgement (R388). `why`: the securing destination it serves. -/
structure Message where
  f : Frame
  port : Nat
  sentAt : Nat
  resends : Nat
  why : Option Nat
  deriving DecidableEq, Repr

/-- The fabric (12). `landed`: frames of receive records that have landed or been missed in the present shot (peer, transfer,
frame). `injected`: frames sent (transfer, frame). `offset`: offset from the master in ps; `aligned`: it lies within 4 ns. `synced`:
the synchronisation that steps the count has been made (R66). -/
structure Fab where
  ports : Sparse Port
  windows : Sparse Window
  bindings : Sparse Binding
  held : List Held
  landed : List (Nat × Nat × Nat)
  injected : List (Nat × Nat)
  sums : List SumBuf
  exchs : List Exch
  msgs : List Message
  offset : Int
  aligned : Bool
  synced : Bool
  msgNo : Nat
  deriving DecidableEq, Repr

def Fab.reset : Fab := ⟨[], [], [], [], [], [], [], [], [], 0, true, false, 0⟩

/-! ### Host interface (13) -/

/-- State of a ring (GLB_RINGn_STATUS.state). -/
inductive RingState where
  | disabled | enabled | error | draining
  deriving DecidableEq, Repr

/-- A ring (R408 to R411): its base and size as enabled, its state and cause, its counts (`fetched` and `written` without their
reduction modulo 65,536), and how often it has been enabled. -/
structure Ring where
  base : Nat
  size : Nat
  state : RingState
  cause : Nat
  tail : Nat
  fetched : Nat
  written : Nat
  head : Nat
  outstanding : Nat
  pass : Nat
  deriving DecidableEq, Repr

def Ring.reset : Ring := ⟨0, 4, .disabled, 0, 0, 0, 0, 0, 0, 0⟩

def zeroRing : Nat → Ring := fun _ => .reset

/-- A fetched entry (R410, R412): its ring and the pass of that ring, sequence number, 64 bytes, the count at which it was read. -/
structure Entry where
  ring : Nat
  pass : Nat
  seq : Nat
  bytes : List Byte
  count : Nat
  deriving DecidableEq, Repr

/-- A snapshot sweep (R332, R333): its entry, port, destination address and UDP port, number; whether a commit has been made since it
was accepted and whether it runs; the next frame of the sweep's stream; groups in it; groups saved in the shadow; the shot in which
it started. -/
structure Sweep where
  entry : Entry
  port : Nat
  addr : Nat
  udp : Nat
  number : Nat
  armed : Bool
  running : Bool
  next : Nat
  total : Nat
  shadowed : List Nat
  startShot : Nat
  deriving DecidableEq, Repr

/-- A RUN in the run queue (R414). `notBefore`: the cycle of its fetch. `ran`, `failed`: shots run and failed (R470). `first`: its
first shot. `status`: the first event that failed a shot of it. `result`: result of its last commit barrier. `sidx`: the shot of the invocation that runs next. `started`: its first shot has begun. -/
structure RunEntry where
  entry : Entry
  plan : Nat
  count : Nat
  startShot : Nat
  step : Nat
  stepStart : Bool
  notBefore : Nat
  ran : Nat
  failed : Nat
  first : Option Nat
  status : Nat
  result : Nat
  sidx : Nat
  started : Bool
  deriving DecidableEq, Repr

/-- A serving request (R39, R391, R415). `host`: its SERVE entry. `inst`: slice of the plan of shot `shot`. `input`: what has come of
its input. `plan`: the plan it was accepted for. -/
structure Request where
  id : Nat
  host : Option Entry
  addr : Nat
  udp : Nat
  token : Nat
  port : Nat
  cls : Nat
  shot : Nat
  inst : Nat
  slot : Nat
  arrival : Nat
  plan : Nat
  size : Option Nat
  accepted : Bool
  fail : Option Nat
  input : List (Nat × List Byte)
  firstShot : Nat
  deriving DecidableEq, Repr

/-- A completion to be written (R418): ring and its pass, bytes 0 to 27, sequence number, whether it interrupts, the code of the event that the
log must hold first (R64), the cycle before which it is not written. -/
structure Completion where
  ring : Nat
  pass : Nat
  body : List Byte
  seq : Nat
  irq : Bool
  cause : Option Nat
  due : Nat
  deriving DecidableEq, Repr

/-- What waits, in order, until requests to host memory are allowed (R406). -/
inductive HostWait where
  | msg (vector : Nat)
  | comp (c : Completion)
  deriving DecidableEq, Repr

/-- A command packet in the command queue (R422): its words; `sealed_` when its length word is written. -/
structure Packet where
  words : List Nat
  len : Nat
  sealed_ : Bool
  deriving DecidableEq, Repr

/-- A mailbox command whose completion is due (R424): tag and return code. -/
structure AckDue where
  tag : Nat
  code : Nat
  deriving DecidableEq, Repr

/-- A command outstanding at the NVMe device (R435): identifier, queue, opcode, namespace, first block, blocks, what it serves. -/
inductive NvmeUse where
  | far (stall id : Nat)
  | promote (page : Nat)
  | secure (dest : Nat)
  | restore
  deriving DecidableEq, Repr

structure NvmeCmd where
  cid : Nat
  qid : Nat
  op : Nat
  nsid : Nat
  lba : Nat
  blocks : Nat
  use : NvmeUse
  deriving DecidableEq, Repr

/-- A BAR2 read that is not served yet (R405). -/
structure Bar2Read where
  off : Nat
  len : Nat
  at_ : Nat
  deriving DecidableEq, Repr

/-- The identifiers of the configuration header (R401), and the size of BAR2 as a power of two that its Resizable BAR capability holds (R402). -/
structure PciHeader where
  vendor : Nat
  device : Nat
  revision : Nat
  classCode : Nat
  subVendor : Nat
  subsystem : Nat
  bar2 : Nat
  deriving DecidableEq, Repr

/-- R401, R402: no write changes the identifiers; BAR2 has its default size. -/
def PciHeader.reset : PciHeader := ⟨0x1F4E, 0x3200, 0x01, 0x120000, 0x1F4E, 0x0001, 36⟩

/-- The host interface (13). `entries`: entries fetched and not executed yet. `pba`: MSI-X vectors pending; `unmasked`: vectors whose mask bit is clear (R433: PCI Express sets every
mask bit at reset); `fmask`: function mask. `cmdBad`,
`snapBad`: the pointer copies of the command queue, of a gate's snapshot-out queue disagree (R427). -/
structure HostIf where
  rings : Sparse Ring
  entries : List Entry
  runs : List RunEntry
  reqs : List Request
  comps : List Completion
  waiting : List HostWait
  packets : List Packet
  acks : List AckDue
  nvmeTag : Option Nat
  busMaster : Bool
  d3hot : Bool
  unmasked : List Nat
  fmask : Bool
  pba : List Nat
  nvme : List NvmeCmd
  auxUp : Bool
  auxReady : Bool
  bar2 : List Bar2Read
  sweep : Option Sweep
  reqNo : Nat
  cid : Nat
  cmdBad : Bool
  snapBad : List Nat
  pci : PciHeader
  deriving DecidableEq, Repr

def HostIf.reset : HostIf :=
  ⟨[], [], [], [], [], [], [], [], none, false, false, [], false, [], [], false, false, [], none, 0, 0, false, [], .reset⟩

/-! ### Boot, images, identity (14) -/

/-- What GLB_STATUS.state reports; STANDBY answers no register (R486). -/
inductive Mode where
  | standby | boot | ready | run | hold | fault
  deriving DecidableEq, Repr

def Mode.code : Mode → Nat | .standby => 0 | .boot => 1 | .ready => 2 | .run => 3 | .hold => 4 | .fault => 5

/-- A secured session (R457). -/
inductive SessState where
  | none | handshaking | secured
  deriving DecidableEq, Repr

structure Session where
  state : SessState
  id : Nat
  mutual_ : Bool
  keyDigest : List Byte
  version : Bool
  caps : Bool
  algs : Bool
  updates : Nat
  deriving DecidableEq, Repr

def Session.reset : Session := ⟨.none, 0, false, [], false, false, false, 0⟩

/-- The secure mailbox (R426): operation running, sequence, result. -/
structure Secure where
  running : Option Nat
  pendCode : Nat
  seqNo : Nat
  code : Nat
  ready : Bool
  doe : Session
  mctp : Session
  sessions : Nat
  deriving DecidableEq, Repr

def Secure.reset : Secure := ⟨none, 0, 0, 0, false, .reset, .reset, 0⟩

/-- What the flash and the fuses keep (R450, R452): the two firmware copies (as the boot ROM finds them: a version that verifies,
or none), the preference record, the staged copy's state, the fuse minimum, the key slots. -/
structure Flash where
  copies : List (Option Nat)
  prefer_ : Nat
  bytes : Memory
  staging : Bool
  raise_ : Bool
  minimum : Nat
  keys : List (Option (List Byte))
  running : Nat
  deriving DecidableEq, Repr

def Flash.reset : Flash := ⟨[some 0, some 0], 0, [], false, false, 0, [none, none, none, none], 0⟩

/-- The loader and authority (14). `stage`: GLB_STATUS.boot_stage. `clockGe`: GE's PLL is the clock source. `takeover`: GE becomes
primary at the next closing margin. `split`: the token has been found inconsistent. `releasing`: 0 none, 1 asked by CFG_CTRL.release,
2 by a Function Level Reset. `fwFail`: no gate started its groom. `gwSilent`: GW does not answer as SPDM responder (R16). -/
structure Boot where
  mode : Mode
  stage : Nat
  token : BitVec 2
  clockGe : Bool
  primaryGe : Bool
  takeover : Bool
  split : Bool
  image : Option Image
  releasing : Nat
  fwFail : Bool
  gwSilent : Bool
  deriving DecidableEq, Repr

def Boot.reset : Boot := ⟨.standby, 0, 0b01, false, false, false, false, none, 0, false, false⟩

/-! ### Power (16) -/

/-- A sensor (R497): last valid reading in the unit of PWR_SENSOR_DATA (1/16 °C, mV, 10 mA), whether the latest sample was valid,
consecutive samples without a valid reading, `hot`: consecutive readings at 110 °C or more (junctions) or in range (input voltage),
whether it is failed. -/
structure Sensor where
  value : Int
  valid : Bool
  bad : Nat
  hot : Nat
  failed : Bool
  deriving DecidableEq, Repr

def zeroSensor : Nat → Sensor := fun _ => ⟨0, false, 0, 0, false⟩

/-- Power and thermal state (16). `lowSince`: cycle in which PWR_EN fell last. `latch`, `locked`: the latched cause of a cut, and that
the hot-swap switch stays open. `vin`: input voltage in mV. `excursion`: E_INPUT_VOLTAGE has been raised for the present excursion.
`resumeAt`: cycle from which a tick ends HOLD. `runAbove`: intervals above budget up to the last. `recent`: measured energy of the last
intervals in nJ, newest first. `i3c`: GW's address. `faults`: PMBus status. `calibrated`: the module's own coefficients. `stopped`: the
core, yard and HBM controller clocks are stopped. -/
structure Power where
  pwrEn : Bool
  lowSince : Nat
  latch : Nat
  locked : Bool
  vin : Nat
  excursion : Bool
  sensors : Sparse Sensor
  warned : Bool
  thermOut : Bool
  resumeAt : Option Nat
  cool : Bool
  runAbove : Nat
  recent : List Nat
  i3c : Nat
  faults : Nat
  calibrated : List Nat
  stopped : Bool
  deriving DecidableEq, Repr

def Power.reset : Power :=
  ⟨false, 0, 0, false, 52000, false, [], false, false, none, false, 0, [], 0x3A, 0, [], false⟩

end Sys2Proof.Machine
end

