-- ==== Sys2Proof/Syntax.lean ====
section
/-!
DEFINITION. The commands of the block: one constructor for each row of the table of operations and events. A stall instruction
names the stall, a register write carries the written value, an arrival carries what arrives, and an operation of an outside
agent carries its outcome.
-/
namespace Sys2Proof

open Sys2Proof.Machine (Frame Transport VendorRequest BarRead BarValue Image)

/-- A physical stall: barn times 80 plus the barn-local index (R21). -/
abbrev StallId := Fin 640
/-- A barn (R12). -/
abbrev BarnId := Fin 8
/-- A stack (R13). -/
abbrev StackId := Fin 32
/-- A gate port (R15). -/
abbrev PortId := Fin 20
/-- A submission ring (R408). -/
abbrev RingId := Fin 64
/-- A stream context of a stall (R233). -/
abbrev CtxId := Fin 8

/-- A point at a destination (R352): the bytes of its manifest, and those of its segments in the order of the manifest's entries. A segment
that is absent, or empty, is not read. -/
structure StoredPoint where
  manifest : List Byte
  segs : List (List Byte)
  deriving DecidableEq, Repr

/-- What the source of a restore holds (R353, R354): its durable points. -/
structure RestoreSource where
  points : List StoredPoint
  deriving DecidableEq, Repr

/-- How a restore ends (R354, R356): `src` holds what has been read and written by then. -/
inductive RestoreOutcome where
  | completed (src : RestoreSource)
  | readError (src : RestoreSource)
  | disagree (src : RestoreSource)
  deriving DecidableEq, Repr

/-- What a start-up finds (R451, R452, R477): the firmware copies that verify, with their versions, for each gate; stacks that
fail training; stalls that fail the long-accumulator self-test; junction and auxiliary findings; the latched cause of a cut. -/
structure StartFindings where
  gw : Option (Nat × Nat)
  ge : Option (Nat × Nat)
  fallback : Option (Nat × Nat × Nat)
  failedStacks : List Nat
  badStalls : List Nat
  aux : Bool
  settled : Bool
  deriving DecidableEq, Repr

/-- A command. -/
inductive Instr where
  /-- CTL_NOP (R203). Stall instruction that does nothing except set the reference cycle. -/
  | ctlNop (st : StallId)
  /-- CTL_END (R203). Ends the stall's program for the shot; this is the end-of-shot instruction. -/
  | ctlEnd (st : StallId)
  /-- CTL_WAIT (R196). Adds count cycles to the stall's reference cycle. -/
  | ctlWait (st : StallId)
  /-- CTL_JUMP (R203). Sets the next tack index to a fixed target, within the current loop bounds. -/
  | ctlJump (st : StallId)
  /-- CTL_LOOP (R204). Opens a loop whose body runs count times, nested up to four deep. -/
  | ctlLoop (st : StallId)
  /-- CTL_CALL (R205). Pushes the return index on the four-entry stack and jumps to the target. -/
  | ctlCall (st : StallId)
  /-- CTL_RET (R205). Pops the return index and ends the loops opened at the routine's call depth. -/
  | ctlRet (st : StallId)
  /-- CTL_SUBST (R208). Patches a field of the next instruction with a mapping of a current layer format table entry. -/
  | ctlSubst (st : StallId)
  /-- CTL_CSAVE (R231). Saves the stall's small state into a 24-line context block. -/
  | ctlCsave (st : StallId)
  /-- CTL_CREST (R231). Restores the stall's small state from a context block at issue plus 27. -/
  | ctlCrest (st : StallId)
  /-- SYN_BAR (R219). Records the stall's arrival at the next occurrence of a barrier entry. -/
  | synBar (st : StallId)
  /-- BARRIER_RELEASE (R220). A barrier occurrence releases 12 or 96 ccyc after its last arrival, and every member resumes. -/
  | barrierRelease (id : BitVec 8)
  /-- BARRIER_LATE (R221). An occurrence is not released by its computed cycle, so E_BARRIER_LATE is raised and the shot fails. -/
  | barrierLate (id : BitVec 8)
  /-- OPE_ACC (R111). Runs an accumulate pass of n reduction steps into a tile. -/
  | opeAcc (st : StallId)
  /-- OPE_LDDESC (R106). Loads an operand descriptor into its shadow copy, which becomes active 5 ccyc later. -/
  | opeLddesc (st : StallId)
  /-- OPE_PRELOAD (R116). Sets a tile's anchor, clears the tile and adds converted source rows into it. -/
  | opePreload (st : StallId)
  /-- OPE_DRAIN (R118). Flushes a tile, then samples, converts and writes its rows, with optional clear or check only. -/
  | opeDrain (st : StallId)
  /-- OPE_SAVE (R121). Writes the whole accumulator state to the scratchpad over 262 ccyc. -/
  | opeSave (st : StallId)
  /-- OPE_RESTORE (R121). Reloads the whole accumulator state from the scratchpad over 262 ccyc. -/
  | opeRestore (st : StallId)
  /-- OPE_SHAPE (R105). Sets the tile shape, the tile-window bit and the mode from the next cycle. -/
  | opeShape (st : StallId)
  /-- OPE_KEEPWARM (R130). Runs dummy multiply-adds into the discard slot at a given level. -/
  | opeKeepwarm (st : StallId)
  /-- RESIDUE_VERDICT (R128). At the end of a drain or save, the residue of each group is compared with its expected residue. -/
  | residueVerdict (st : StallId)
  /-- VEC_OP (R140). Applies an elementwise or reduction operation in FP32, BF16 or INT32. -/
  | vecOp (st : StallId)
  /-- VEC_CVT (R143). Converts elements between formats, with a shift, a rounding mode and optional MX block scales. -/
  | vecCvt (st : StallId)
  /-- VEC_FUNC (R153). Applies the value or derivative table of a function slot. -/
  | vecFunc (st : StallId)
  /-- VEC_DFUNC (R153). Multiplies an incoming gradient by the table derivative at the saved input. -/
  | vecDfunc (st : StallId)
  /-- VEC_MASKF (R156). Applies a piecewise-linear activation and writes one mask bit per element. -/
  | vecMaskf (st : StallId)
  /-- VEC_MASKB (R156). Applies a saved mask to an incoming gradient. -/
  | vecMaskb (st : StallId)
  /-- VEC_DROP (R159). Keeps or drops elements by comparing keyed random numbers with a threshold. -/
  | vecDrop (st : StallId)
  /-- VEC_LADD (R147). Adds 16 LA160 elements exactly at the smaller anchor. -/
  | vecLadd (st : StallId)
  /-- VEC_PACK (R148). Rounds 32 elements to a gradient format and writes them as one carrier block. -/
  | vecPack (st : StallId)
  /-- VEC_UNPACK (R149). Reads one carrier block and writes its values as LA160 or FP32. -/
  | vecUnpack (st : StallId)
  /-- VEC_CADD (R150). Adds one block of two carrier groups exactly. -/
  | vecCadd (st : StallId)
  /-- VEC_HIST (R160). Counts values into the exponent bins of a histogram set. -/
  | vecHist (st : StallId)
  /-- VEC_HSTORE (R161). Writes a histogram set's counters, optionally clearing them and loading a new base. -/
  | vecHstore (st : StallId)
  /-- VEC_SETA (R135). Sets the base and step of an address register. -/
  | vecSeta (st : StallId)
  /-- VEC_SETK (R139). Sets an FP32 constant register. -/
  | vecSetk (st : StallId)
  /-- VEC_SETR (R157). Sets one field of a random-generator context. -/
  | vecSetr (st : StallId)
  /-- LANE_SELFTEST (R164). In a cycle without a VEC issue, the checker drives lane k with its next stored pattern. -/
  | laneSelftest (st : StallId) (agree : Bool)
  /-- SPD_COPY (R192). Copies n whole lines within the scratchpad. -/
  | spdCopy (st : StallId)
  /-- SPD_FILL (R192). Fills n whole lines with one byte value. -/
  | spdFill (st : StallId)
  /-- SPD_PWR (R186). Powers down, or wakes, the scratchpad banks named in a mask. -/
  | spdPwr (st : StallId)
  /-- BANK_POWER_DOWN (R186). A bank goes down in the first cycle in which none of its writes is in flight and no gather entry holds one of its lines. -/
  | bankPowerDown (st : StallId) (bank : Fin 32)
  /-- BANK_POWER_DOWN_CANCEL (R187). A power-down not reached within 2,048 ccyc is cancelled, and E_SPD_PWR_CANCEL is raised. -/
  | bankPowerDownCancel (st : StallId) (bank : Fin 32)
  /-- BANK_WAKE_DONE (R188). A waking bank, filled with zeros, accepts accesses from 64 ccyc after the wake. -/
  | bankWakeDone (st : StallId) (bank : Fin 32)
  /-- GATHER_DRAIN (R182). A gather-buffer entry drains into its bank in the first cycle in which no scheduled write claims its sectors. -/
  | gatherDrain (st : StallId) (line : BitVec 16)
  /-- SPD_INDIRECT_READ (R193). A host write of go with write 0 starts an indirect read of a scratchpad line. -/
  | spdIndirectRead (st : StallId) (v : Word)
  /-- INDIRECT_READ_SAMPLE (R193). The indirect read samples its line in the first free read-port cycle and sets done. -/
  | indirectReadSample (st : StallId)
  /-- SPD_INDIRECT_WRITE (R193). A host write of go with write 1 places a line into an unscheduled gather entry, or is refused. -/
  | spdIndirectWrite (st : StallId) (v : Word)
  /-- STR_START (R236). Binds a stream descriptor and an owner to a context, and starts its program. -/
  | strStart (st : StallId)
  /-- STR_HALT (R236). Stops a stream context; no piece due after the halt issues. -/
  | strHalt (st : StallId)
  /-- STR_PONY (R264). Reads 4 to 256 bytes and offers them to the pony lane for one destination. -/
  | strPony (st : StallId)
  /-- STR_SETCTX (R235). Sets a context's memory or local relocation offset for its next START. -/
  | strSetctx (st : StallId)
  /-- STREAM_PIECE_ISSUE (R246). A stream piece issues at its computed cycle after its bound, slot and mapping checks. -/
  | streamPieceIssue (st : StallId) (ctx : CtxId)
  /-- PIECE_LANDING (R246). A read piece's lines are written to the scratchpad at its landing cycle, or E_LATE_LANDING or E_FAR_TIMEOUT is raised. -/
  | pieceLanding (st : StallId) (ctx : CtxId) (arrived : Bool)
  /-- RUN_AHEAD_STEP (R254). The run-ahead cursor covers an emit and requests loft promotion of new far pages. -/
  | runAheadStep (st : StallId) (ctx : CtxId)
  /-- STREAM_DEADLOCK_CHECK (R262). A context still active after twice its duration raises E_STREAM_DEADLOCK and aborts the shot. -/
  | streamDeadlockCheck (st : StallId) (ctx : CtxId)
  /-- PONY_ACCEPT (R266). The head pony transfer is accepted when its destination can take it. -/
  | ponyAccept (st : StallId)
  /-- PONY_DELIVERY (R54). A pony transfer is delivered exactly 40 or 110 ccyc after its acceptance. -/
  | ponyDelivery (st : StallId)
  /-- BASE_DIE_PONY_DRAIN (R287). A base-die pony buffer entry drains by read-merge-write in unscheduled time. -/
  | baseDiePonyDrain (j : StackId)
  /-- BASE_DIE_ARRIVAL (R285). A request reaches its stack's base die at its fixed arrival offset, and a write takes effect there. -/
  | baseDieArrival (j : StackId)
  /-- YM_NOP (R229). Yardmaster instruction that does nothing. -/
  | ymNop (b : BarnId)
  /-- YM_END (R224). Ends the yardmaster program for the shot. -/
  | ymEnd (b : BarnId)
  /-- YM_WAIT (R229). Adds count cycles to the yardmaster's reference cycle. -/
  | ymWait (b : BarnId)
  /-- YM_FTAB (R226). Broadcasts a function-table pair into a slot of every stall of the barn. -/
  | ymFtab (b : BarnId)
  /-- FTAB_LOAD_END (R155). A function-table load ends 257 ccyc after its broadcast's arrival. -/
  | ftabLoadEnd (b : BarnId)
  /-- YM_FMT (R227). Writes a pending layer format entry, immediately or by selection from a histogram. -/
  | ymFmt (b : BarnId)
  /-- FORMAT_SELECTION_WRITE (R314). A mode 1 selection writes its chosen code into every stall 847 ccyc after issue. -/
  | formatSelectionWrite (b : BarnId)
  /-- YM_ANCHOR (R228). Sets a tile's anchor and clears the tile in the named aisles. -/
  | ymAnchor (b : BarnId)
  /-- YM_TDMA_GO (R212). A host write of go starts a tack DMA, or sets refused. -/
  | ymTdmaGo (b : BarnId) (v : Word)
  /-- TACK_DMA_WRITE (R212). A tack DMA writes 64 bytes of a stall's bank in unreserved capacity, or drops the write on an active bank. -/
  | tackDmaWrite (b : BarnId) (st : StallId)
  /-- YM_TACK_SWITCH_REQUEST (R214). Marks a tack bank switch pending in the named aisles. -/
  | ymTackSwitchRequest (b : BarnId) (v : Word)
  /-- TICK (R29). The tick for shot n fires at count T(n) and begins the shot. -/
  | tick
  /-- CLOSING_MARGIN (R33). The last 512 ccyc of a shot start; faults are collected and margin work is done. -/
  | closingMargin
  /-- MOVE_COPY_DONE (R474). The spare's tack copy completes, and the spare carries the logical stall from the next tick. -/
  | moveCopyDone (logical : Fin 576)
  /-- STRIKE_DECAY (R473). A stall's strikes fall by one after 65,536 consecutive plan shots without a strike. -/
  | strikeDecay (st : StallId)
  /-- TICK_LOSS_DETECT (R60). No announcement arrives within the detection interval, so E_TICK_LOST is raised and ticks are withheld. -/
  | tickLossDetect
  /-- AUDIT_HALT (R59). Under audit strictness, every stall stops issuing 96 ccyc after the first skew or skip. -/
  | auditHalt
  /-- SHOT_ABORT (R466). The abort broadcast arrives; stalls and streams stop and the commit veto is set. -/
  | shotAbort
  /-- SAFE_CTRL_ABORT (R465). A host write of abort aborts the current shot and raises E_HOST_ABORT. -/
  | safeCtrlAbort (v : Word)
  /-- SAFE_FENCE_REQ_GO (R476). A host write fences the named physical stall as if its strikes had reached 2. -/
  | safeFenceReqGo (v : Word)
  /-- GLB_AUDIT_RELEASE (R59). A host write of release fails the halted shot and resumes issue at the next tick. -/
  | glbAuditRelease (v : Word)
  /-- UPDATE_WINDOW (R323). The update engine updates one group in its 32 ccyc window. -/
  | updateWindow (j : StackId) (agree : Bool)
  /-- UPD_FREEZE_GO (R320). A host write posts a freeze or unfreeze request for a parameter group. -/
  | updFreezeGo (v : Word)
  /-- SWEEP_START (R332). A snapshot sweep starts once the update passes of the first commit after its command have completed. -/
  | sweepStart
  /-- SNAPSHOT_SEND (R392). The sweep sends SNAPSHOT frames of group records in unscheduled time. -/
  | snapshotSend
  /-- POINT_DURABLE (R349). A securing point's manifest becomes durable at a destination. -/
  | pointDurable (dest : Fin 4)
  /-- DEST_TIMEOUT (R351). A destination that has not completed within 10 s fails with cause timeout. -/
  | destTimeout (dest : Fin 4)
  /-- CKP_FAIL_REPORT (R338). A host write adds k host-reported failure events. -/
  | ckpFailReport (v : Word)
  /-- CKP_RESTORE_GO (R353). A host write starts a restore to step S from a source entry. -/
  | ckpRestoreGo (v : Word) (src : RestoreSource)
  /-- RESTORE_END (R357). A completed restore clears the diverged state and makes S the latest point. -/
  | restoreEnd (outcome : RestoreOutcome)
  /-- TENSOR_REPAIR (R358). After an uncorrectable unit in a plane, the groom rebuilds the affected tensor. -/
  | tensorRepair (j : StackId) (addr : BitVec 36)
  /-- REFRESH_SLOT (R293). A refresh slot refreshes a quarter of a stack's pseudo-channels. -/
  | refreshSlot (j : StackId) (q : Fin 4)
  /-- OWN_TIMER_REFRESH (R295). Outside running shots, the base die refreshes each pseudo-channel on its own timer. -/
  | ownTimerRefresh (j : StackId) (pc : Fin 64)
  /-- LOFT_PROMOTION_REQUEST (R303). A promotion request joins a frame or takes one and starts copying the page. -/
  | loftPromotionRequest
  /-- PROMOTION_COPY_DONE (R303). A page's copy completes and its frame becomes resident. -/
  | promotionCopyDone (page : Nat) (data : List Byte)
  /-- FRAME_INJECT (R375). A scheduled frame is injected at its cycle, after its source read has landed. -/
  | frameInject (number : BitVec 16) (frame : Nat)
  /-- FRAME_FORWARD (R375). An intermediate gate forwards a scheduled frame in its slot, or discards it if the slot has begun. -/
  | frameForward (p : PortId) (lseq : BitVec 16)
  /-- FRAME_LANDING (R376). A held scheduled frame is written or combined at its landing cycle. -/
  | frameLanding (number : BitVec 16) (frame : Nat)
  /-- EXCHANGE_RESULT_WRITE (R387). Each module writes its exchange accumulator to the destination. -/
  | exchangeResultWrite (number : BitVec 16)
  /-- WRITE_FRAME (R383). A received WRITE frame is checked against its window and accepted or refused. -/
  | writeFrame (p : PortId) (f : Frame)
  /-- CSUM_FRAME (R386). A received CSUM frame is checked, including its step counter. -/
  | csumFrame (p : PortId) (f : Frame)
  /-- EXCH_FRAME (R387). A received exchange frame is combined into the accumulator and forwarded. -/
  | exchFrame (p : PortId) (f : Frame)
  /-- READ_REQ (R389). A remote read request is served from a window with READ_RESP frames. -/
  | readReq (p : PortId) (f : Frame)
  /-- READ_RESP (R389). A read response delivers far data to the requesting stall's staging buffer. -/
  | readResp (p : PortId) (f : Frame)
  /-- ACK_FRAME (R388). An end-to-end acknowledgement retires an unscheduled frame. -/
  | ackFrame (p : PortId) (f : Frame)
  /-- NACK_FRAME (R383). A refusal reaches the sender, which raises the carried event. -/
  | nackFrame (p : PortId) (f : Frame)
  /-- LINK_FRAME (R368). A link frame carries acknowledgements, NACKs or the peer's identity. -/
  | linkFrame (p : PortId) (f : Frame)
  /-- TICK_FRAME (R394). A tick announcement is validated, forwarded and used to fire the tick. -/
  | tickFrame (p : PortId) (f : Frame)
  /-- REQUEST_FRAME (R391). A serving request frame is placed in its input slot, and the request is accepted or refused. -/
  | requestFrame (p : PortId) (f : Frame)
  /-- SERVE_DELIVERY (R40). Output of an accepted request leaves by its delivery cycle. -/
  | serveDelivery (id : Nat)
  /-- LINK_ACK_TIMEOUT (R368). A frame unacknowledged 434 ccyc after its slot is resent in the next slot. -/
  | linkAckTimeout (p : PortId) (lseq : BitVec 16)
  /-- UNSCHEDULED_RESEND (R388). An unscheduled frame unacknowledged after 17,500 ccyc is resent, or its message fails. -/
  | unscheduledResend (number : BitVec 16)
  /-- LINK_DOWN (R370). A link whose PCS has lost lock for 1,750 ccyc goes down. -/
  | linkDown (p : PortId)
  /-- LINK_UP (R370). A retrained link comes up and its peer is recorded. -/
  | linkUp (p : PortId) (mod : BitVec 16) (port : BitVec 5)
  /-- ARP_REQUEST (R390). The module answers an ARP request for its own address. -/
  | arpRequest (p : PortId) (addr : Nat)
  /-- NEIGHBOR_SOLICITATION (R390). The module answers an IPv6 Neighbor Solicitation for its own address. -/
  | neighborSolicitation (p : PortId) (addr : Nat)
  /-- PTP_SYNC (R395). A PTP synchronisation steers the PLL, or steps the count where allowed. -/
  | ptpSync (offset : Int)
  /-- PDELAY_REQ (R395). A peer delay request is answered with Pdelay_Resp and Pdelay_Resp_Follow_Up. -/
  | pdelayReq (p : PortId)
  /-- PTP_MESSAGE_INTERVAL (R395). Every 2^−7 s the boundary clock sends its PTP messages. -/
  | ptpMessageInterval
  /-- TICK_IN_WORD (R397). A TICK_IN word is checked and used as an announcement. -/
  | tickInWord (w : BitVec 128)
  /-- FAB_WIN_CTRL_GO (R381). A host write requests that a window be opened or closed. -/
  | fabWinCtrlGo (v : Word)
  /-- FAB_BIND_CTRL_GO (R382). A host write requests a new generation for a binding. -/
  | fabBindCtrlGo (v : Word)
  /-- FAB_INJ_CTRL_WRITE (R398). Sets link fault injection on a listed port, or sets refused. -/
  | fabInjCtrlWrite (p : PortId) (v : Word)
  /-- NOP_ENTRY (R413). A NOP submission entry completes without doing anything else. -/
  | nopEntry (r : RingId)
  /-- RUN (R414). A RUN entry joins the run queue for a plan, a shot count and a step number. -/
  | run (r : RingId)
  /-- RUN_START (R414). The head RUN starts at the earliest eligible shot, after it is checked again for the present state. -/
  | runStart
  /-- SERVE (R415). A SERVE entry asks for one request of a class to be accepted into a slice occurrence. -/
  | serve (r : RingId)
  /-- SERVE_INPUT_COPY (R415). GW copies a SERVE input into its slot, and the request fails if the copy is late. -/
  | serveInputCopy (id : Nat) (data : List Byte) (ok : Bool)
  /-- SNAPSHOT_SHIP (R416). A SNAPSHOT_SHIP entry asks for a snapshot sweep to a destination. -/
  | snapshotShip (r : RingId)
  /-- RING_ENABLE (R408). Setting a ring's enable zeroes its counts and enables the ring. -/
  | ringEnable (r : RingId) (v : Word)
  /-- RING_DISABLE (R411). Clearing a ring's enable stops fetching, and the ring drains. -/
  | ringDisable (r : RingId) (v : Word)
  /-- DB_SQ_TAIL_WRITE (R409). A write of the submission tail posts entries, or puts the ring in error. -/
  | dbSqTailWrite (r : RingId) (v : Word)
  /-- DB_CQ_HEAD_WRITE (R409). A write of the completion head frees completion slots, or puts the ring in error. -/
  | dbCqHeadWrite (r : RingId) (v : Word)
  /-- RING_FETCH (R410). The primary groom fetches a fetchable entry from host memory. -/
  | ringFetch (r : RingId) (data : List Byte) (ok : Bool)
  /-- COMPLETION_WRITE (R407). The module writes a completion record in two writes, then the ring's MSI-X message. -/
  | completionWrite
  /-- HOST_REQUESTS_ALLOWED (R406). When Bus Master Enable and D0 return, waiting completions and messages are sent in order. -/
  | hostRequestsAllowed
  /-- MSIX_MASK_CLEAR (R433). Clearing a vector mask sends the pending message. -/
  | msixMaskClear (vector : BitVec 11)
  /-- MBX_CMD_DATA_WRITE (R422). A host word enters the command queue, and the first one reserves the length word. -/
  | mbxCmdDataWrite (v : Word)
  /-- MBX_CMD_PUSH (R422). Ends a command packet and writes its length word. -/
  | mbxCmdPush (v : Word)
  /-- NOP_COMMAND (R423). The mailbox NOP command completes at once. -/
  | nopCommand
  /-- FAR_MAP (R423). A FAR_MAP command asks for new far translation entries to be applied. -/
  | farMap
  /-- NVME_RESET (R435). An NVME_RESET command re-enumerates the auxiliary device and re-creates its queues. -/
  | nvmeReset
  /-- MBX_HDB_CLEAR (R424). A host W1C clear of doorbell bit 0 lets the groom complete the next command. -/
  | mbxHdbClear (v : Word)
  /-- MBX_HDB_MASK_WRITE (R425). Clearing the mask of a set doorbell bit sends the mailbox MSI-X message. -/
  | mbxHdbMaskWrite (v : Word)
  /-- POLL (R459). A secure POLL returns the secure acknowledge register and clears ready. -/
  | poll (t : Transport)
  /-- FW_STAGE (R459). Writes firmware bytes into the copy that is not running. -/
  | fwStage (t : Transport) (off : Nat) (data : List Byte)
  /-- FW_ACTIVATE (R459). Verifies the staged copy and names it for the next reset. -/
  | fwActivate (t : Transport) (commit : Bool) (found : Option Nat)
  /-- KEY_ENROLL (R459). Writes a signer key digest into an image-key slot. -/
  | keyEnroll (t : Transport) (slot : Nat) (key : List Byte)
  /-- KEY_REVOKE (R459). Empties an image-key slot. -/
  | keyRevoke (t : Transport) (slot : Nat)
  /-- INFO (R459). Returns the module ID, serial number, running copy and versions. -/
  | info (t : Transport)
  /-- GET_VERSION (R457). An SPDM GET_VERSION request is answered with version 1.3 only. -/
  | getVersion (t : Transport) (version : BitVec 8)
  /-- GET_CAPABILITIES (R457). An SPDM GET_CAPABILITIES request is answered. -/
  | getCapabilities (t : Transport) (version : BitVec 8)
  /-- NEGOTIATE_ALGORITHMS (R457). An SPDM algorithm negotiation is answered with the supported algorithms. -/
  | negotiateAlgorithms (t : Transport) (supported : Bool)
  /-- GET_DIGESTS (R457). An SPDM GET_DIGESTS request is answered for certificate slot 0. -/
  | getDigests (t : Transport)
  /-- GET_CERTIFICATE (R456). An SPDM request returns the three-certificate chain of slot 0. -/
  | getCertificate (t : Transport) (slot : BitVec 8) (off len : BitVec 16)
  /-- CHALLENGE (R457). An SPDM CHALLENGE is answered with a signature by the module key. -/
  | challenge (t : Transport) (slot : BitVec 8) (nonce : List Byte)
  /-- GET_MEASUREMENTS (R458). Returns the measurement blocks, signed on request. -/
  | getMeasurements (t : Transport) (index : BitVec 8) (sign : Bool) (nonce : List Byte)
  /-- KEY_EXCHANGE (R457). An SPDM KEY_EXCHANGE begins a secured session. -/
  | keyExchange (t : Transport) (mutual_ : Bool) (exchange : List Byte)
  /-- FINISH (R457). An SPDM FINISH completes a secured session's set-up. -/
  | finish (t : Transport) (valid : Bool) (keyDigest : List Byte)
  /-- HEARTBEAT (R457). An SPDM HEARTBEAT keeps a session alive. -/
  | heartbeat (t : Transport)
  /-- KEY_UPDATE (R457). An SPDM KEY_UPDATE renews a session's keys. -/
  | keyUpdate (t : Transport)
  /-- END_SESSION (R457). An SPDM END_SESSION closes a secured session. -/
  | endSession (t : Transport)
  /-- VENDOR_DEFINED_REQUEST (R426). A vendor-defined SPDM request carries a secure operation, or is answered busy. -/
  | vendorDefinedRequest (t : Transport) (secured : Bool) (payload : VendorRequest)
  /-- EVT_RPTR_WRITE (R431). A host write of the event log read pointer is taken or ignored. -/
  | evtRptrWrite (v : Word)
  /-- EVENT_LOG_PLACE (R63). The log writer places an event after holding it for 64 counts, in rank order. -/
  | eventLogPlace
  /-- EVT_OVERFLOW_RECORD (R431). When room returns, an E_EVT_OVERFLOW record reports the events lost. -/
  | evtOverflowRecord
  /-- BAR2_READ (R403). A host read of HBM through BAR2 is served in unscheduled time. -/
  | bar2Read (off len : Nat)
  /-- BAR2_READ_TIMEOUT (R405). A BAR2 read not served within 1 ms completes with Completer Abort. -/
  | bar2ReadTimeout
  /-- BAR2_WRITE (R404). A host write to HBM through BAR2 takes effect or is discarded. -/
  | bar2Write (off : Nat) (data : List Byte)
  /-- BAR0_BAD_ACCESS (R7). A BAR0 access of another size or alignment is discarded or returns zero, and an event is logged. -/
  | bar0BadAccess (addr size : Nat) (write : Bool)
  /-- WIDE_LOW_READ (R9). A read of the low word of a wide value refreshes the holding copy of its upper words. The read is of 32
  or 64 bits (R7). -/
  | wideLowRead (addr : BarRead)
  /-- REGISTER_WRITE (R4). A write to a register without a row of its own acts as its access codes state. The write is of
  32 or 64 bits (R7). -/
  | registerWrite (addr : Nat) (v : BarValue)
  /-- NVME_COMPLETION (R436). An NVMe command completes, with or without error status. -/
  | nvmeCompletion (cid : Nat) (status : BitVec 15) (data : List Byte)
  /-- AUX_LINK_DOWN (R436). The auxiliary link or controller fails; commands in flight fail and the port restarts. -/
  | auxLinkDown
  /-- CFG_LOAD (R443). A host write of load starts admission of a staged image, or is refused. -/
  | cfgLoad (v : Word) (image : Image)
  /-- CFG_RELEASE (R449). A host write asks for the admitted image to be released. -/
  | cfgRelease (v : Word)
  /-- FUNCTION_LEVEL_RESET (R449). A Function Level Reset aborts the shot and releases the image without completions. -/
  | functionLevelReset
  /-- PWR_EN_RISE (R484). PWR_EN rising with the input present powers up the rails and starts the module. -/
  | pwrEnRise (found : StartFindings)
  /-- PWR_EN_FALL (R485). PWR_EN falling removes the rails in reverse order. -/
  | pwrEnFall
  /-- PERST_N (R450). Assertion of PERST_N causes a module reset. -/
  | perstN (found : StartFindings)
  /-- GLB_RESET_MODULE (R450). A host write of GLB_RESET.module causes a module reset. -/
  | glbResetModule (v : Word) (found : StartFindings)
  /-- I3C_TARGET_RESET (R450). An I3C reset from the board management controller causes a module reset. -/
  | i3cTargetReset (found : StartFindings)
  /-- GROOM_WATCHDOG_EXPIRE (R454). GW's watchdog expires and the token passes to GE; if both expire, the module resets. -/
  | groomWatchdogExpire (both : Bool) (found : StartFindings)
  /-- GLB_AUTH_RELEASE (R454). A write by GW's groom passes the authority token to GE. -/
  | glbAuthRelease (v : Word)
  /-- TOKEN_INCONSISTENT (R455). An inconsistent token raises E_MGMT_SPLIT and the module enters FAULT. -/
  | tokenInconsistent (token : BitVec 2)
  /-- INPUT_VOLTAGE_EXCURSION (R481). An input outside 46 V to 56 V for 1 ms raises E_INPUT_VOLTAGE once. -/
  | inputVoltageExcursion (mv : Nat)
  /-- POWER_CUT (R482). A cut condition opens the hot-swap switch, removes every rail and latches a cause. -/
  | powerCut (cause : BitVec 4)
  /-- ANALOG_THERMAL_TRIP (R500). A comparator at 125 °C cuts power with cause 6. -/
  | analogThermalTrip
  /-- SENSOR_SAMPLE (R497). Every sensor is sampled every 100 µs. -/
  | sensorSample (readings : List (Nat × Option Int))
  /-- SENSOR_FAULT (R497). A sensor without a valid reading for 300 µs is failed. -/
  | sensorFault (index : Nat)
  /-- PWR_CTRL_RESUME (R488). A host write asks to leave HOLD, and is taken when junctions are below 90 °C. -/
  | pwrCtrlResume (v : Word)
  /-- PWR_CTRL_PEAK_CLEAR (R506). A host write zeroes the recorded peak power. -/
  | pwrCtrlPeakClear (v : Word)
  /-- ENERGY_INTERVAL (R494). GW integrates input energy for one energy interval and watches for excursions. -/
  | energyInterval (nj : Nat)
  /-- CABLE_PRESENT_CHANGE (R503). A port's CBLq_PRSNT_N changes, so the port reads as link down or becomes eligible, and CBL_3V3 is given or withheld in mode 2. -/
  | cablePresentChange (p : PortId) (present : Bool)
  /-- INPUT_VOLTAGE_RISE (R484). The 52 V input reaches 46 V while PWR_EN is already high, and power-up begins. -/
  | inputVoltageRise (mv : Nat) (found : StartFindings)
  /-- BUS_MASTER_ENABLE_CLEAR (R406). The host clears Bus Master Enable or puts the function in D3hot, and the module stops issuing requests to host memory. -/
  | busMasterEnableClear
  /-- HOST_READ_COMPLETION (R300). Completion data of a GW read of host memory for a far piece or loft promotion arrives and enters the staging buffer or frame. -/
  | hostReadCompletion (tag : Nat) (data : List Byte) (ok : Bool)
  /-- TENSOR_REPAIR_DONE (R358). A tensor repair ends, and invocations that read the affected regions are no longer refused. -/
  | tensorRepairDone (record : Nat) (src : RestoreSource) (ok : Bool)
  /-- AUX_LINK_READY (R436). The auxiliary link comes back up and the NVMe queues are re-created, so GLB_AUX_STATUS.ready returns to 1 and NVME_RESET can complete. -/
  | auxLinkReady (ok : Bool)
  /-- AUX_DEVICE_MEMORY_REQUEST (R434). The NVMe controller reads or writes module memory over the root port, and accesses outside the HBM range complete with Unsupported Request. -/
  | auxDeviceMemoryRequest (addr : Nat) (len : Nat) (data : Option (List Byte))
  /-- SECURE_OPERATION_END (R426). A running secure operation ends, its result enters the secure acknowledge register and MBX_SEC_FLAG.ready is set. -/
  | secureOperationEnd
  /-- UNKNOWN_FRAME (R373). A frame of unknown kind, foreign EtherType or unaddressed traffic arrives, and it is discarded, counted and, for unknown kinds, E_FRAME_DISCARD is raised. -/
  | unknownFrame (p : PortId) (f : Frame)
  /-- PLDM_REQUEST (R505). A PLDM type 0 or type 2 request over MCTP on I3C is answered by GW. -/
  | pldmRequest (type : BitVec 8) (sensor : Nat)
  /-- CLEAR_FAULTS (R505). A PMBus CLEAR_FAULTS command clears the power stage's status, leaving the latched cause. -/
  | clearFaults
  /-- DYNAMIC_ADDRESS_ASSIGNMENT (R505). The I3C controller assigns GW a dynamic address. -/
  | dynamicAddressAssignment (addr : BitVec 7)
  deriving DecidableEq, Repr

end Sys2Proof
end

