-- ==== Sys2Proof/Config.lean ====
section
/-!
DEFINITION. The free values: what the spec leaves open and the machine goes on. None has a body, so that a statement holds
whatever they are. Each is named in a row of notes/assumptions.
-/
namespace Sys2Proof.Config

/-- R202: what a stored word with three or more flipped bits is found to be: 0 detected, 1 miscorrected, 2 good. -/
opaque tackOutcome : Insn → BitVec 72 → BitVec 2

/-- R202: the word that a miscorrected stored word is taken for. -/
opaque tackMiscorrect : Insn → BitVec 72 → Insn

/-- The bits of an accumulator element (160 value bits, N, V) that a change from FP32 to LA160 mode leaves. -/
opaque accBits : Nat → Nat → BitVec 162

/-- The bits of a binary32 slot that a change from LA160 to FP32 mode leaves. -/
opaque fpBits : Nat → Nat → BitVec 32

/-- The discard slot after a keep-warm (R130 gives its operands, not its arithmetic). -/
opaque discard : Nat → BitVec 32

/-- R288: what a unit of HBM with four or more bad symbols is found to be, by its number and stored bytes: 0 uncorrectable,
1 miscorrected, 2 free of error. -/
opaque hbmOutcome : Nat → List Byte → BitVec 2

/-- R288: the bytes that a miscorrected unit of HBM delivers. -/
opaque hbmMiscorrect : Nat → List Byte → List Byte

/-- R226: byte i of the image of a pair of a yardmaster's store to which admission has loaded nothing: byte 16,448 p + i. -/
opaque storeByte : Nat → Byte

/-- R93: the value of a parameter whose plane A code is a NaN or whose scale byte is 0xFF, as the update engine takes it: integer and
power of two, by code, scale byte and residual. -/
opaque badWeight : Nat → Nat → Int → Int × Int

/-- R290: a byte that a snapshot sweep sends for one that HBM withholds, by the number of the free value and its place. -/
opaque withheld : Nat → Nat → Byte

/-- R290: a byte of a table of the module in a unit that the code does not restore, by the unit's key and its place. -/
opaque peeked : Nat → Nat → Byte

/-- R445: the item with which the loader refuses an image, where the code's item is an offset in a section whose byte layout the spec
does not give, or the check names no one item: by the number of the free value. -/
opaque refusalItem : Nat → BitVec 32

/-- R451: the counts that pass from a reset to READY, by the number of the free value; the spec gives a bound of 12 s only. -/
opaque startCounts : Nat → Nat

/-- R455: an inconsistent token reads 0b11 where this is true, 0b00 where not, by the number of the free value. -/
opaque splitToken : Nat → Bool

/-- R456: the certificate chain of slot 0. -/
opaque certChain : List Byte

/-- R456: the signature of the module key over a message. -/
opaque moduleSign : List Byte → List Byte

/-- R457: the responder's part of a key exchange, by the requester's part and the number of the session. -/
opaque keyExchange : List Byte → Nat → List Byte

/-- R458: the digest of the boot ROM. -/
opaque romDigest : List Byte

/-- R458: the digest of a firmware copy, by the copy and its security version. -/
opaque fwDigest : Nat → Nat → List Byte

/-- R458: what stands for an empty image-key slot in the digest of the slots. -/
opaque emptySlot : List Byte

/-- R505: the bytes of the FRU EEPROM, by address: IPMI FRU information with the serial number, the part number and the port MAC addresses. -/
opaque fru : Nat → Byte

/-- R459: the serial number. -/
opaque serial : List Byte

/-- R459: the return code of an operation on a key slot above 3, which the spec does not name, by the number of the free value. -/
opaque secureCode : Nat → BitVec 8

/-- R459: what verification of a staged firmware copy finds where the command does not carry it: a security version, or none. -/
opaque stagedVersion : Nat → Option Nat

/-- Whether the n-th event to cross between clock domains is usable after 3 receiving cycles rather than 2 (R47: not fixed). -/
opaque lateCrossing : Nat → Bool

end Sys2Proof.Config
end

