-- ==== Sys2Proof/Machine/EventCodes.lean ====
section
/-!
DEFINITION. The event codes of R479.
-/
namespace Sys2Proof.Machine.Ev

/-- E_STALL_HUNG: Stall or yardmaster not ended at the closing margin, and not stopped by an abort, an audit halt or HOLD (R34, R224) -/
def stallHung : Nat := 0x0101

/-- E_SCHEDULE_SKEW: Read before write completion, or write collision (R57 to R59) -/
def scheduleSkew : Nat := 0x0102

/-- E_TICK_LOST: No tick announcement within the interval (R60) -/
def tickLost : Nat := 0x0103

/-- E_SLICE_FULL: Serving request finds no occurrence of its slice (R39) -/
def sliceFull : Nat := 0x0104

/-- E_INSTR_ILLEGAL: Illegal instruction skipped (R200) -/
def instrIllegal : Nat := 0x0105

/-- E_INSTR_INCONSISTENT: Inconsistent instruction skipped, or missing at issue (R201, R217) -/
def instrInconsistent : Nat := 0x0106

/-- E_TACK_ECC: Uncorrectable program word (R202) -/
def tackEcc : Nat := 0x0107

/-- E_TACK_CORRECTED: Single-bit tack error corrected (R202) -/
def tackCorrected : Nat := 0x0108

/-- E_TACK_ACTIVE_WRITE: Tack DMA write to the active bank dropped (R213) -/
def tackActiveWrite : Nat := 0x0109

/-- E_BARRIER_LATE: Barrier not released by its computed cycle (R221) -/
def barrierLate : Nat := 0x010A

/-- E_STALL_FENCED: Stall fenced (R474) -/
def stallFenced : Nat := 0x010B

/-- E_STALL_ABSENT: Shot uses a logical stall that no physical stall carries (R469, R475) -/
def stallAbsent : Nat := 0x010C

/-- E_RERUN_LIMIT: Shot failed on its last allowed rerun (R468) -/
def rerunLimit : Nat := 0x010D

/-- E_HOST_ABORT: Shot aborted by a host write of SAFE_CTRL.abort (R465) -/
def hostAbort : Nat := 0x010E

/-- E_SCALE_RANGE: Product outside the anchor window (R71) -/
def scaleRange : Nat := 0x0201

/-- E_NONFINITE_OPERAND: Product with a non-finite operand (R72) -/
def nonfiniteOperand : Nat := 0x0202

/-- E_LA_OVERFLOW: LA160 overflow (R78) -/
def laOverflow : Nat := 0x0203

/-- E_CARRIER_OVERFLOW: Carrier alignment or sum overflow (R89) -/
def carrierOverflow : Nat := 0x0204

/-- E_RESIDUE_MISMATCH: Residue or converter check failed (R128, R464) -/
def residueMismatch : Nat := 0x0205

/-- E_VEC_LANE_FAULT: Checker lane disagrees (R164) -/
def vecLaneFault : Nat := 0x0206

/-- E_VEC_CHECK: Vector residue or parity mismatch (R163) -/
def vecCheck : Nat := 0x0207

/-- E_VEC_NONFINITE: Non-finite value to a format that cannot hold it (R145) -/
def vecNonfinite : Nat := 0x0208

/-- E_VEC_SCALE_CLAMP: Block scale clamped (R146) -/
def vecScaleClamp : Nat := 0x0209

/-- E_SPD_PORT_CONFLICT: Bank port claims collide (R173) -/
def spdPortConflict : Nat := 0x0301

/-- E_SPD_LAYOUT: Transposed read outside its layout (R175) -/
def spdLayout : Nat := 0x0302

/-- E_SPD_GATHER_FULL: Scalar write finds no entry (R183) -/
def spdGatherFull : Nat := 0x0303

/-- E_SPD_PARITY: Scratchpad parity error (R185) -/
def spdParity : Nat := 0x0304

/-- E_SPD_PWR_CANCEL: Bank power-down cancelled (R187) -/
def spdPwrCancel : Nat := 0x0305

/-- E_SPD_BANK_OFF: Access to a bank that is down (R189) -/
def spdBankOff : Nat := 0x0306

/-- E_FAR_FAULT: Far read of an unmapped page (R252) -/
def farFault : Nat := 0x0307

/-- E_FAR_TIMEOUT: Far data late (R252) -/
def farTimeout : Nat := 0x0308

/-- E_HBM_CORRECTED: Corrected HBM read (R289) -/
def hbmCorrected : Nat := 0x0309

/-- E_HBM_UNCORRECTABLE: Uncorrectable unit read or merged (R290, R291) -/
def hbmUncorrectable : Nat := 0x030A

/-- E_HBM_SCRUB_UNCORRECTABLE: Scrub finds an uncorrectable unit (R292) -/
def hbmScrubUncorrectable : Nat := 0x030B

/-- E_HBM_UNASSIGNED: Access outside every region (R281) -/
def hbmUnassigned : Nat := 0x030C

/-- E_HBM_STACK_FAILED: Stack failed training (R277) -/
def hbmStackFailed : Nat := 0x030D

/-- E_LOFT_NO_FRAME: No loft frame for a promotion (R304) -/
def loftNoFrame : Nat := 0x030E

/-- E_LATE_LANDING: Data not in place at its landing cycle (R51, R53) -/
def lateLanding : Nat := 0x0401

/-- E_STR_BOUND: Piece outside the stream bound (R251) -/
def strBound : Nat := 0x0402

/-- E_STR_SLOT: Piece lacks engine, slot, quota or staging (R250) -/
def strSlot : Nat := 0x0403

/-- E_STR_CHECK: Descriptor or program parity error (R238) -/
def strCheck : Nat := 0x0404

/-- E_STREAM_DEADLOCK: Context active past twice its duration (R262) -/
def streamDeadlock : Nat := 0x0405

/-- E_PONY_FULL: Pony queue full (R269) -/
def ponyFull : Nat := 0x0406

/-- E_PONY_DEST: Pony destination invalid (R270) -/
def ponyDest : Nat := 0x0407

/-- E_LINK_RETRY: First resend on a port in a shot (R368) -/
def linkRetry : Nat := 0x0501

/-- E_LINK_DOWN: Link down (R370) -/
def linkDown : Nat := 0x0502

/-- E_WINDOW_CLOSED: Frame refused by a closed window or old generation (R383) -/
def windowClosed : Nat := 0x0503

/-- E_FRAME_DISCARD: Frame unmatched, out of range or of unknown kind (R373, R376, R384) -/
def frameDiscard : Nat := 0x0504

/-- E_TIME_ALIGN: Offset from the master beyond ±4 ns (R396) -/
def timeAlign : Nat := 0x0505

/-- E_LINK_INJECT: Fault injection enabled (R398) -/
def linkInject : Nat := 0x0506

/-- E_BAR_ACCESS_SIZE: BAR0 access of a wrong size or alignment (R7) -/
def barAccessSize : Nat := 0x0601

/-- E_STATE: Entry not possible in the present state (R417) -/
def state : Nat := 0x0602

/-- E_CMD_INVALID: Entry invalid in itself (R413) -/
def cmdInvalid : Nat := 0x0603

/-- E_RING_DOORBELL: Invalid doorbell write (R409) -/
def ringDoorbell : Nat := 0x0604

/-- E_HOST_DMA: Host memory access failed or not allowed (R406, R411) -/
def hostDma : Nat := 0x0605

/-- E_SERVE_INPUT_LATE: SERVE input not copied in time (R415) -/
def serveInputLate : Nat := 0x0606

/-- E_BAR2_DENIED: BAR2 write discarded (R404) -/
def bar2Denied : Nat := 0x0607

/-- E_BAR2_TIMEOUT: BAR2 read not served in 1 ms (R405) -/
def bar2Timeout : Nat := 0x0608

/-- E_QUEUE_PTR: Queue pointer copies disagree (R427) -/
def queuePtr : Nat := 0x0609

/-- E_EVT_OVERFLOW: Events lost while the log was full (R431) -/
def evtOverflow : Nat := 0x060A

/-- E_AUX_LINK_DOWN: Auxiliary link or controller failed (R436) -/
def auxLinkDown : Nat := 0x060B

/-- E_NVME_ERROR: NVMe command error status (R436) -/
def nvmeError : Nat := 0x060C

/-- E_CDC_OVERRUN: Crossing overrun flag set (R48) -/
def cdcOverrun : Nat := 0x0701

/-- E_STALL_REMAP: Loader substituted a named stall (R23) -/
def stallRemap : Nat := 0x0702

/-- E_CFG_REFUSED: Image refused (R444) -/
def cfgRefused : Nat := 0x0703

/-- E_FW_FALLBACK: Preferred firmware copy failed (R452) -/
def fwFallback : Nat := 0x0704

/-- E_AUTH_TRANSFER: Authority passed to GE (R454) -/
def authTransfer : Nat := 0x0705

/-- E_MGMT_SPLIT: Token inconsistent (R455) -/
def mgmtSplit : Nat := 0x0706

/-- E_REPLACE_REQUEST: An aisle has no spare; REPLACE_N asserted (R477) -/
def replaceRequest : Nat := 0x0707

/-- E_OVERCURRENT: Input or rail current beyond its limit; power cut -/
def overcurrent : Nat := 0x0801

/-- E_INPUT_VOLTAGE: 52 V input outside 46 to 56 V -/
def inputVoltage : Nat := 0x0802

/-- E_EXCURSION: Power beyond 4,000 W longer than allowed, or beyond 4,800 W -/
def excursion : Nat := 0x0803

/-- E_ENERGY_EXCESS: Measured shot energy beyond the admitted budget -/
def energyExcess : Nat := 0x0804

/-- E_THERMAL_WARNING: Junction at 95 °C; lower-energy plan requested -/
def thermalWarning : Nat := 0x0805

/-- E_THERMAL_CRITICAL: Junction at 110 °C; shot aborted, HOLD -/
def thermalCritical : Nat := 0x0806

/-- E_SENSOR_FAULT: A voltage, current or temperature sensor gives no valid reading -/
def sensorFault : Nat := 0x0807

/-- E_STEP_SKEW: Step counters differ (R324) -/
def stepSkew : Nat := 0x0901

/-- E_UPD_RANGE: Moment or weight clamped (R322) -/
def updRange : Nat := 0x0902

/-- E_UPD_ABANDONED: Update pass stopped (R325) -/
def updAbandoned : Nat := 0x0903

/-- E_COMMIT_VOTE_LOST: Commit exchange late (R329) -/
def commitVoteLost : Nat := 0x0904

/-- E_CKP_DEST_FAIL: Securing destination failed (R351) -/
def ckpDestFail : Nat := 0x0905

/-- E_CKP_JOURNAL_OVERRUN: Journal slot reused before shipping (R347) -/
def ckpJournalOverrun : Nat := 0x0906

/-- E_CKP_RESTORE_FAIL: Restore read or replay failed (R356) -/
def ckpRestoreFail : Nat := 0x0907

/-- E_CKP_SOURCE: Restore point missing or mismatched (R353) -/
def ckpSource : Nat := 0x0908

/-- E_CKP_REPAIR_FAIL: Tensor repair impossible (R358) -/
def ckpRepairFail : Nat := 0x0909

/-- Every code that the module raises (R479). -/
def all : List Nat :=
  [stallHung, scheduleSkew, tickLost, sliceFull, instrIllegal, instrInconsistent, tackEcc, tackCorrected, tackActiveWrite, barrierLate, stallFenced, stallAbsent] ++
  [rerunLimit, hostAbort, scaleRange, nonfiniteOperand, laOverflow, carrierOverflow, residueMismatch, vecLaneFault, vecCheck, vecNonfinite, vecScaleClamp, spdPortConflict] ++
  [spdLayout, spdGatherFull, spdParity, spdPwrCancel, spdBankOff, farFault, farTimeout, hbmCorrected, hbmUncorrectable, hbmScrubUncorrectable, hbmUnassigned, hbmStackFailed] ++
  [loftNoFrame, lateLanding, strBound, strSlot, strCheck, streamDeadlock, ponyFull, ponyDest, linkRetry, linkDown, windowClosed, frameDiscard] ++
  [timeAlign, linkInject, barAccessSize, state, cmdInvalid, ringDoorbell, hostDma, serveInputLate, bar2Denied, bar2Timeout, queuePtr, evtOverflow] ++
  [auxLinkDown, nvmeError, cdcOverrun, stallRemap, cfgRefused, fwFallback, authTransfer, mgmtSplit, replaceRequest, overcurrent, inputVoltage, excursion] ++
  [energyExcess, thermalWarning, thermalCritical, sensorFault, stepSkew, updRange, updAbandoned, commitVoteLost, ckpDestFail, ckpJournalOverrun, ckpRestoreFail, ckpSource] ++
  [ckpRepairFail]

/-- Strikes that an event earns its stall (R472); E_STALL_HUNG is judged where it is raised. -/
def strikes (code : Nat) : Nat :=
  if code = vecLaneFault then 2
  else if code = residueMismatch ∨ code = vecCheck ∨ code = spdParity ∨ code = tackEcc ∨ code = instrIllegal
      ∨ code = instrInconsistent ∨ code = spdPortConflict ∨ code = strSlot ∨ code = strCheck
      ∨ code = streamDeadlock then 1
  else 0

end Sys2Proof.Machine.Ev
end

