-- ==== Sys2Proof/Machine/Spad.lean ====
section
/-!
DEFINITION. The scratchpad of a stall (06): placement in banks, port claims, parity, the gather buffer, bank power, and the
shadow scoreboard (02). Every function here works on one stall.
-/
namespace Sys2Proof.Machine

/-- Bytes of a scratchpad. -/
def spdSize : Nat := 0x400000

/-- A register with bit `i` set. -/
def orBit (r i : Nat) : Nat := r ||| 2 ^ i

/-- A counter that stops at `top`. -/
def satAdd (top x k : Nat) : Nat := min top (x + k)

/-! ### Raising events in a stall -/

/-- The stall raises an event at a cycle (R61, R472): `fails` where the shot fails for it. -/
def Stall.raise (st : Stall) (code cycle tack : Nat) (fails : Bool) : Stall :=
  { st with
    events := st.events ++ [⟨code, cycle, tack, fails⟩]
    aud := if st.works then { st.aud with earned := max st.aud.earned (Ev.strikes code) } else st.aud }

/-- An event that is raised at its first occurrence in the shot only. -/
def Stall.raiseOnce (st : Stall) (code cycle tack : Nat) (fails : Bool) : Stall :=
  if code ∈ st.once then st else { st.raise code cycle tack fails with once := st.once ++ [code] }

/-! ### Skips (R200, R201, R217) -/

/-- Whether the stall has skipped an instruction, or issued one late, in the present shot. -/
def Stall.skipped (st : Stall) : Bool :=
  decide (Ev.instrIllegal ∈ st.once) || decide (Ev.instrInconsistent ∈ st.once) || decide (Ev.tackEcc ∈ st.once)

/-- Kinds of STL_SEQ_SKIP_FIRST. -/
inductive SkipKind where
  | illegal | inconsistent | tack
  deriving DecidableEq, Repr

def SkipKind.code : SkipKind → Nat | .illegal => 0 | .inconsistent => 1 | .tack => 2

def SkipKind.event : SkipKind → Nat
  | .illegal => Ev.instrIllegal | .inconsistent => Ev.instrInconsistent | .tack => Ev.tackEcc

/-- One bit of a register. -/
def bitIf (c : Bool) (i : Nat) : Nat := if c then 2 ^ i else 0

/-- STL_SEQ_TACK_ERR with the index of a word whose fetch failed its check bits: the first since the flags were last clear stays. Bit 32,
which no register shows, says that one is held (R232). -/
def Tack.firstBad (t : Tack) (index : Nat) : Tack :=
  if natBit t.err 32 then t else { t with err := orBit (setBits t.err 28 16 (index % 2 ^ 13)) 32 }

/-- Sets a flag of STL_SEQ_TACK_ERR as its event is raised (R232). -/
def Tack.flag (t : Tack) (i : Nat) : Tack := { t with err := orBit t.err i }

/-- STL_SEQ_TACK_ERR after a write: where a flag was set and none is set any more, the next bad word is the first again (R232). -/
def Tack.wroteErr (t : Tack) (err : Nat) : Tack :=
  let held := natBit t.err 32 && !(decide (natBits t.err 31 30 ≠ 0) && decide (natBits err 31 30 = 0))
  { t with err := err % 2 ^ 32 + bitIf held 32 }

/-- Counts a skip (or a late issue) and, at the first of the shot, raises its event and records it. `index` is the tack index,
`opcode` the skipped opcode. -/
def Stall.countSkip (st : Stall) (x : Nat) (k : SkipKind) (index opcode : Nat) : Stall :=
  let s := st.seq
  let s := match k with
    | .inconsistent => { s with inconsistent := satAdd 0xFFFF s.inconsistent 1 }
    | _ => { s with illegal := satAdd 0xFFFF s.illegal 1 }
  if st.skipped then { st with seq := s }
  else
    let r := 2 ^ 31 + k.code * 2 ^ 29 + opcode * 2 ^ 21 + index % 2 ^ 13
    let tack := if k = .tack then st.tack.flag 31 else st.tack
    ({ st with seq := { s with skipFirst := r }, tack := tack } : Stall).raiseOnce k.event x index true

/-- A skipped instruction of an engine counts in its engine's register too. -/
def Stall.engineSkip (st : Stall) (cls : Nat) : Stall :=
  if cls = 2 then { st with ope := { st.ope with skipped := satAdd 0xFFFF st.ope.skipped 1 } }
  else if cls = 3 then { st with vec := { st.vec with skipped := satAdd 0xFFFF st.vec.skipped 1 } }
  else st

/-- Sets bits of STL_OPE_ERR. -/
def Stall.opeBit (st : Stall) (i : Nat) : Stall := { st with ope := { st.ope with err := orBit st.ope.err i } }

/-- Sets bits of STL_VEC_ERR. -/
def Stall.vecBit (st : Stall) (i : Nat) : Stall := { st with vec := { st.vec with err := orBit st.vec.err i } }

/-- Sets bits of STL_SPD_ERR. -/
def Stall.spdBit (st : Stall) (i : Nat) : Stall := { st with spd := { st.spd with err := orBit st.spd.err i } }

/-- The shot cycle of a cycle in the stall's present shot. -/
def Stall.shotCycle (st : Stall) (x : Nat) : Nat := (x - st.shotStart) % 2 ^ 32

/-- R57 to R59: a skew of kind 0 to 2 at `line`, found at cycle x by the instruction at tack index `tack`. -/
def Stall.skew (st : Stall) (kind line x early tack : Nat) : Stall :=
  let a := { st.aud with violations := satAdd 0xFFFF st.aud.violations 1 }
  if Ev.scheduleSkew ∈ st.once then { st with aud := a }
  else
    let a := { a with
      firstCycle := st.shotCycle x
      firstInfo := 2 ^ 31 + kind * 2 ^ 28 + min early 0xFFF * 2 ^ 16 + tack % 2 ^ 13
      firstAddr := (line % 2 ^ 16) * 64 }
    ({ st with aud := a } : Stall).raiseOnce Ev.scheduleSkew x tack true

/-! ### Placement (R169, R174) -/

/-- Bank, sector position and word of the sector with number A[21:3]. -/
def placeOf (tmap sector : Nat) : Nat × Nat × Nat :=
  let a := (sector % 2 ^ 19) * 8
  let n := a / 0x20000
  if natBit tmap n then
    let k := natBits a 16 12
    let i := natBits a 11 6
    let c := natBits a 5 3
    (8 * (k % 4) + i % 8, (c + i / 8) % 8, 64 * n + 8 * (k / 4) + i / 8)
  else (natBits a 10 6, natBits a 5 3, a / 0x800)

/-- The bank of a line. -/
def bankOfLine (tmap line : Nat) : Nat := (placeOf tmap (line * 8)).1

/-- A byte address of the mapped 128 × 128 tile window (R124). -/
def Stall.inWindow (st : Stall) (a : Nat) : Bool := st.ope.window && decide (0x380000 ≤ a % spdSize)

/-- Whether the bank of a byte accepts accesses at cycle x (R188, R189). -/
def Stall.bankUp (st : Stall) (x line : Nat) : Bool :=
  match sget bankOn st.spd.banks (bankOfLine st.spd.tmap line) with
  | .on => true
  | .waiting _ => true
  | .down => false
  | .waking r => decide (r ≤ x)

/-! ### The accumulators seen through the tile window (R124, R125) -/

/-- What an unlisted accumulator element reads as: zero, or a free value since a change of mode. -/
def accDefault (era : Nat) : Nat → Acc := fun k =>
  if era = 0 then Acc.zero
  else
    let w := (Config.accBits era k).toNat
    ⟨BitVec.ofNat 160 w, natBit w 160, natBit w 161⟩

/-- What an unlisted binary32 slot reads as. -/
def fpDefault (era : Nat) : Nat → BitVec 32 := fun k => if era = 0 then 0 else Config.fpBits era k

/-- Accumulator element (i, j) of slot group g. -/
def Ope.getAcc (o : Ope) (g i j : Nat) : Acc := sget (accDefault o.laEra) o.acc (g * 4096 + i * 64 + j)

/-- Writes accumulator element (i, j) of slot group g. -/
def Ope.setAcc (o : Ope) (g i j : Nat) (v : Acc) : Ope :=
  { o with acc := sset (accDefault o.laEra) o.acc (g * 4096 + i * 64 + j) v }

/-- The binary32 slot of cell (i, j) in group g. -/
def Ope.getFp (o : Ope) (g i j : Nat) : BitVec 32 := sget (fpDefault o.fpEra) o.fpacc (g * 4096 + i * 64 + j)

/-- Writes a binary32 slot. -/
def Ope.setFp (o : Ope) (g i j : Nat) (v : BitVec 32) : Ope :=
  { o with fpacc := sset (fpDefault o.fpEra) o.fpacc (g * 4096 + i * 64 + j) v }

/-- Anchor of a group. -/
def Ope.anchor (o : Ope) (g : Nat) : Int := sget zeroInt o.anchors g

/-- Expected residue of a group. -/
def Ope.expected (o : Ope) (g : Nat) : Nat := sget zeroNat o.expect g

def Ope.setExpected (o : Ope) (g v : Nat) : Ope := { o with expect := sset zeroNat o.expect g (v % 255) }

/-- Group and cell of element (R, C) of a tile whose groups, in sweep order, are `gs` (R102). -/
def cellOf (shape : Nat) (gs : List Nat) (r c : Nat) : Nat × Nat × Nat :=
  let k := match shape with
    | 0 => 0
    | 1 => c / 64
    | 2 => r / 64
    | _ => 2 * (r / 64) + c / 64
  (gs.getD k 0, r % 64, c % 64)

/-- The slot groups of tile t in sweep order (R102). -/
def tileGroups (shape t : Nat) : List Nat :=
  match shape with
  | 0 => [t]
  | 1 => [2 * t, 2 * t + 1]
  | 2 => [2 * t, 2 * t + 1]
  | _ => [4 * t, 4 * t + 1, 4 * t + 2, 4 * t + 3]

/-- R103: whether a tile index is valid. -/
def tileValid (shape : Nat) (fp : Bool) (t : Nat) : Bool :=
  decide (t * (tileGroups shape t).length < (if fp then 20 else 4))

/-- The tile-window element that a byte address falls in, and the byte within it (R124). -/
def windowElem (a : Nat) : (Nat × Nat × Nat) × Nat :=
  let o := a % spdSize - 0x380000
  (cellOf 3 [0, 1, 2, 3] (o / 32 / 128) (o / 32 % 128), o % 32)

/-- A byte of the tile window. -/
def Ope.windowByte (o : Ope) (a : Nat) : Byte :=
  let ((g, i, j), b) := windowElem a
  (laBytes ⟨o.getAcc g i j, o.anchor g⟩).getD b 0

/-- A byte written through the tile window: v and flag bits take it, the anchor byte and bytes 22 to 31 ignore it, and the
group's expected residue follows v (R125). -/
def Ope.putWindowByte (o : Ope) (a : Nat) (v : Byte) : Ope :=
  let ((g, i, j), b) := windowElem a
  let old := o.getAcc g i j
  let x := laOf (overlay (laBytes ⟨old, o.anchor g⟩) b [v])
  if b ≤ 20 then
    (o.setAcc g i j x.acc).setExpected g (o.expected g + residue160 x.acc.v + (255 - residue160 old.v))
  else o

/-- Whether an OPE operation on a tile is active at cycle x (R105, R125); a KEEPWARM is on none. -/
def Ope.activeAt (o : Ope) (x : Nat) : Bool :=
  o.flights.any (fun f => !f.groups.isEmpty && decide (f.issue ≤ x ∧ x ≤ f.lastAdd)) ||
  (match o.move with | some m => decide (m.issue ≤ x) | none => false) || decide (o.lastMove.1 ≤ x ∧ x < o.lastMove.2)

/-! ### Reads -/

/-- A read access of one cycle (R172): its rank, the tack index and the writer name of its instruction, whether it reaches the
tile window, and the byte ranges (address, length) it reads in order. -/
structure ReadReq where
  rank : Nat
  tack : Nat
  wid : Nat
  win : Bool
  segs : List (Nat × Nat)
  deriving DecidableEq, Repr

/-- Ranks of R173, with room for the operands of one access. -/
def rankCol : Nat := 0
def rankRow : Nat := 10
def rankMove : Nat := 20
def rankVec : Nat := 30
def rankSpd : Nat := 40
def rankStr : Nat := 50
def rankPony : Nat := 60
def rankHost : Nat := 700

/-- The byte addresses of a read, in order. -/
def ReadReq.addrs (r : ReadReq) : List Nat :=
  (r.segs.map fun p => (List.range p.2).map fun i => (p.1 + i) % spdSize).flatten

/-- Consecutive repeats removed. -/
def squash : List Nat → List Nat
  | [] => []
  | [a] => [a]
  | a :: b :: t => if a = b then squash (b :: t) else a :: squash (b :: t)

/-- The sectors (A[21:3]) that a read claims in the banks, each once. -/
def Stall.claimed (st : Stall) (r : ReadReq) : List Nat :=
  (squash ((r.addrs.filter fun a => !(r.win && st.inWindow a)).map fun a => a / 8)).eraseDups

/-- The claims of a cycle: rank, port position (bank and sector position), word. -/
def claimsOf (tmap : Nat) (cs : List (Nat × List Nat)) : List (Nat × Nat × Nat) :=
  (cs.map fun p => p.2.map fun s => let q := placeOf tmap s; (p.1, q.1 * 8 + q.2.1, q.2.2)).flatten

/-- R173: whether a claim on a sector loses: the best-ranked claim on its port position names another word. -/
def losesTo (claims : List (Nat × Nat × Nat)) (tmap sector : Nat) : Bool :=
  let q := placeOf tmap sector
  let here := claims.filter fun c => decide (c.2.1 = q.1 * 8 + q.2.1)
  match here with
  | [] => false
  | c :: t =>
    let best := t.foldl (fun b d => if d.1 < b.1 then d else b) c
    decide (best.2.2 ≠ q.2.2)

/-- The byte a read of address a sees in the banks, the gather buffer merged (R181, R189). -/
def Stall.spdByte (st : Stall) (x a : Nat) : Byte :=
  let base := if st.bankUp x (a / 64) then st.spd.mem.get a else 0
  match st.spd.gather.find? (fun g => g.line = a / 64 && g.valid.getD (a % 64) false) with
  | some g => g.bytes.getD (a % 64) 0
  | none => base

/-- The tags of writes that a read of a line at x is early against (R57): issued by x, not complete, of another writer, and reaching the
same place, the tile window (`win`) or the banks. Writer 0 is none. -/
def Stall.pendingAt (st : Stall) (x wid line : Nat) (win : Bool) : List Tag :=
  st.spd.tags.filter fun t =>
    decide (t.issue ≤ x ∧ x < t.fin ∧ (t.wid ≠ wid ∨ wid = 0) ∧ t.addr / 64 ≤ line ∧ line * 64 < t.addr + t.len) &&
      ((t.win && st.inWindow (line * 64)) == win)

/-- The greatest wait of a list of pending writes at x. -/
def longestWait (x : Nat) (l : List Tag) : Nat := l.foldl (fun m t => max m (t.fin - x)) 0

/-- Cycles from x until the tile holds what a preload or restore writes (R55); 0 where none is under way. -/
def Ope.loadWait (o : Ope) (x : Nat) : Nat :=
  match o.move with
  | some m =>
    match m.kind with
    | .preload => m.issue + 3 + 64 * m.groups.length - x
    | .restore => m.issue + 262 - x
    | _ => 0
  | none => 0

/-- R57: the skews of a read issued at x against the writes not complete, line by line; in the tile window also against the engine's
operations on the tile (R125). -/
def Stall.checkRead (st : Stall) (x : Nat) (r : ReadReq) : Stall :=
  let lines := (squash ((r.addrs.filter fun a => !(r.win && st.inWindow a)).map (· / 64))).eraseDups
  let wins := (squash ((r.addrs.filter fun a => r.win && st.inWindow a).map (· / 64))).eraseDups
  let st := lines.foldl (fun st l =>
    let late := st.pendingAt x r.wid l false
    if late.isEmpty then st else st.skew 0 l x (longestWait x late) r.tack) st
  let op := st.ope.activeAt x
  wins.foldl (fun st l =>
    let late := st.pendingAt x r.wid l true
    if late.isEmpty && !op then st
    else st.skew 2 l x (max (longestWait x late) (if op then st.ope.loadWait x else 0)) r.tack) st

/-- One read access issued at x, given the claims of the cycle: its bytes, each with a mark where the port lost it. -/
def Stall.readOne (st : Stall) (x : Nat) (claims : List (Nat × Nat × Nat)) (r : ReadReq) :
    Stall × List (Byte × Bool) :=
  let secs := st.claimed r
  let lostSecs := secs.filter (losesTo claims st.spd.tmap)
  let out := r.addrs.map fun a =>
    if r.win && st.inWindow a then (st.ope.windowByte a, false)
    else if (a / 8) ∈ lostSecs then (0, true)
    else (st.spdByte x a, false)
  let st := st.checkRead x r
  let st := if lostSecs.isEmpty then st
    else (st.spdBit 30).raise Ev.spdPortConflict (x + 1) r.tack true
  let st := if (r.addrs.any fun a => !(r.win && st.inWindow a) && !st.bankUp (x + 1) (a / 64)) then
      (st.spdBit 28).raise Ev.spdBankOff (x + 1) r.tack true else st
  let bad := secs.filter fun s => decide (s ∉ lostSecs) && decide (sget zeroPar st.spd.badPar s ≠ 0)
  match bad with
  | [] => (st, out)
  | s0 :: rest =>
    let low := rest.foldl min s0
    let spd := { st.spd with pcount := satAdd 0xFFFFFFFF st.spd.pcount bad.length }
    let spd := if r.rank < rankHost && !spd.firstErr then
        { spd with firstErr := true, err := setBits (setBits spd.err 15 0 (low / 8)) 18 16 (low % 8) }
      else if r.rank < rankHost then spd
      else { spd with err := setBits (setBits spd.err 15 0 (low / 8)) 18 16 (low % 8) }
    ((({ st with spd := spd } : Stall).spdBit 31).raise Ev.spdParity (x + 1) r.tack (decide (r.rank < rankHost)), out)

/-- R172, R173: all read accesses issued in cycle x, their claims ranked together. -/
def Stall.readAll (st : Stall) (x : Nat) (rs : List ReadReq) : Stall × List (List (Byte × Bool)) :=
  let claims := claimsOf st.spd.tmap (rs.map fun r => (r.rank, st.claimed r))
  let st : Stall := if claims.isEmpty then st
    else { st with spd := { st.spd with readPorts := (x + 1, (claims.map fun c => c.2.1 / 8).eraseDups) } }
  rs.foldl (fun acc r =>
    let (st, out) := acc.1.readOne x claims r
    (st, acc.2 ++ [out])) (st, [])

/-- A plain read of `len` bytes at `addr`. -/
def plainRead (rank tack wid : Nat) (win : Bool) (addr len : Nat) : ReadReq := ⟨rank, tack, wid, win, [(addr % spdSize, len)]⟩

/-- A read of `len` bytes at `a` for another module (R389), line by line: it sees the tile window and the gather buffer, and checks parity and
bank power as any other read access (R181, R184, R189). -/
def Stall.remoteRead (st : Stall) (x a len : Nat) : Stall × List Byte :=
  (List.range ((a % 64 + len + 63) / 64)).foldl (fun (acc : Stall × List Byte) k =>
    let lo := max a (a / 64 * 64 + 64 * k)
    let n := min (a + len) (a / 64 * 64 + 64 * k + 64) - lo
    let (st, outs) := acc.1.readAll x [plainRead rankStr noTack 0 true lo n]
    (st, acc.2 ++ (outs.headD []).map fun b => b.1)) (st, [])

/-! ### Writes completing in a cycle -/

/-- Entries that hold nothing and that no accepted transfer holds are free. -/
def dropDead (gs : List Gather) : List Gather := gs.filter fun g => g.valid.any id || decide (0 < g.held)

/-- One byte of a write: into the tile window where the writer reaches it (`win`), else into the banks: discarded in a bank that is down
(R189), and taken out of any gather entry (R182). -/
def Stall.putByte (st : Stall) (x : Nat) (win : Bool) (a : Nat) (v : Byte) : Stall :=
  let a := a % spdSize
  if win && st.inWindow a then { st with ope := st.ope.putWindowByte a v }
  else if st.bankUp x (a / 64) then
    { st with spd := { st.spd with
        mem := st.spd.mem.set a v
        gather := dropDead (st.spd.gather.map fun g =>
          if g.line = a / 64 then { g with valid := g.valid.set (a % 64) false } else g) } }
  else st

/-- The bytes of a write that stand in a list of addresses. -/
def PWrite.cells (w : PWrite) : List (Nat × Byte) := w.bytes.zipIdx.map fun p => ((w.addr + p.2) % spdSize, p.1)

/-- Whether a write reaches the tile window where it is mapped: any but the OPE's (R110, R124). -/
def PWrite.win (w : PWrite) : Bool := decide (w.rank ≠ rankMove)

/-- Whether a byte of a write falls in the tile window. -/
def Stall.toWindow (st : Stall) (w : PWrite) (a : Nat) : Bool := w.win && st.inWindow a

/-- The sectors that a write claims in the banks. -/
def Stall.writeSectors (st : Stall) (w : PWrite) : List Nat :=
  squash ((w.cells.filter fun c => !st.toWindow w c.1).map fun c => c.1 / 8)

/-- R184: parity of the sectors a write covers: a partial write checks the old sector, and every write leaves good parity. -/
def Stall.parityWrite (st : Stall) (x : Nat) (w : PWrite) (secs : List Nat) : Stall :=
  let part := secs.filter fun s => !decide ((s * 8 + spdSize - w.addr % spdSize) % spdSize + 8 ≤ w.bytes.length)
  let bad := part.filter fun s => decide (sget zeroPar st.spd.badPar s ≠ 0)
  let st' : Stall := { st with spd := { st.spd with
    badPar := secs.foldl (fun m s => sset zeroPar m s 0) st.spd.badPar
    pcount := satAdd 0xFFFFFFFF st.spd.pcount bad.length } }
  match bad with
  | [] => st'
  | s0 :: rest =>
    let low := rest.foldl min s0
    let spd := if st'.spd.firstErr then st'.spd else
      { st'.spd with firstErr := true, err := setBits (setBits st'.spd.err 15 0 (low / 8)) 18 16 (low % 8) }
    (({ st' with spd := spd } : Stall).spdBit 31).raise Ev.spdParity x w.tack true

/-- R177: column buffers whose block holds one of the lines just written become stale; addresses wrap at 4 MiB. -/
def Stall.staleBufs (st : Stall) (addr len : Nat) : Stall :=
  let lo := addr % spdSize / 64 * 64
  let span := (addr % spdSize + len + 63) / 64 * 64 - lo
  { st with ope := { st.ope with colBufs := st.ope.colBufs.map fun p =>
      (p.1, p.2.map fun b =>
        if (b.block + spdSize - lo) % spdSize < span ∨ (lo + spdSize - b.block) % spdSize < 4096 then { b with stale := true }
        else b) } }

/-- A write that goes straight to the banks. -/
def Stall.bankWrite (st : Stall) (x : Nat) (claims : List (Nat × Nat × Nat)) (w : PWrite) : Stall :=
  let cells := w.cells
  let secs := st.writeSectors w
  let lost := secs.filter (losesTo claims st.spd.tmap)
  let off := cells.any fun c => !st.toWindow w c.1 && !st.bankUp x (c.1 / 64)
  let win := (cells.filter fun c => st.toWindow w c.1).map (·.1)
  let st := if !win.isEmpty && st.ope.activeAt (x - 2) then st.skew 1 (win.headD 0 / 64) x 0 w.tack else st
  let st := if lost.isEmpty then st else (st.spdBit 30).raise Ev.spdPortConflict x w.tack true
  let st := if off then (st.spdBit 28).raise Ev.spdBankOff x w.tack true else st
  let st := st.parityWrite x w (secs.filter fun s => decide (s ∉ lost))
  let st := cells.foldl (fun st c =>
    if !st.toWindow w c.1 && decide (c.1 / 8 ∈ lost) then st else st.putByte x w.win c.1 c.2) st
  if secs.isEmpty then st else st.staleBufs w.addr w.bytes.length

/-- Entries of a pool in use (R180). -/
def Spad.poolUsed (s : Spad) (pool : Nat) : Nat := (s.gather.filter fun g => g.pool = pool).length

/-- Entries of a pool that are not free at cycle x: those in use, and those that drained in x (R182). -/
def Spad.poolTaken (s : Spad) (x pool : Nat) : Nat :=
  s.poolUsed pool + (if s.drains.1 = x then (s.drains.2.filter fun d => d.1 = pool).length else 0)

/-- Merges bytes into the gather entry of a line. -/
def mergeLine (g : Gather) (off : Nat) (bs : List Byte) : Gather :=
  { g with
    valid := g.valid.zipIdx.map fun p => p.1 || decide (off ≤ p.2 ∧ p.2 < off + bs.length)
    bytes := overlay g.bytes off bs }

/-- A narrow write within one line into the gather buffer (R180): false where no entry is free. -/
def Spad.gatherPut (s : Spad) (x pool addr : Nat) (bs : List Byte) : Spad × Bool :=
  let line := addr % spdSize / 64
  if s.gather.any (fun g => g.line = line) then
    ({ s with gather := s.gather.map fun g => if g.line = line then mergeLine g (addr % 64) bs else g }, true)
  else if s.poolTaken x pool < (if pool = 1 then 4 else 12) then
    ({ s with gather := s.gather ++
        [mergeLine ⟨line, pool, List.replicate 64 false, zeroBytes 64, x, 0⟩ (addr % 64) bs] }, true)
  else (s, false)

/-- A write that passes through the gather buffer, or reaches the tile window (R124, R125). -/
def Stall.gatherWrite (st : Stall) (x : Nat) (w : PWrite) : Stall :=
  if st.inWindow w.addr then
    let st := if st.ope.activeAt (x - 2) then st.skew 1 (w.addr % spdSize / 64) x 0 w.tack else st
    w.cells.foldl (fun st c => st.putByte x true c.1 c.2) st
  else if st.bankUp x (w.addr % spdSize / 64) then
    let (spd, ok) := st.spd.gatherPut x w.pool w.addr w.bytes
    if ok then ({ st with spd := spd } : Stall).staleBufs w.addr w.bytes.length
    else (st.spdBit 26).raise Ev.spdGatherFull x w.tack true
  else (st.spdBit 28).raise Ev.spdBankOff x w.tack true

/-- The order in which writes of one cycle are laid down, the prevailing one last (R58). Of two pony transfers that of the lower-numbered
logical stall prevails, whenever they issued (R271). -/
def writeBefore (a b : PWrite) : Bool :=
  if rankPony ≤ a.rank ∧ a.rank < rankHost ∧ rankPony ≤ b.rank ∧ b.rank < rankHost then decide (b.rank ≤ a.rank)
  else decide (a.issue < b.issue ∨ (a.issue = b.issue ∧ b.rank ≤ a.rank))

/-- Insertion into the order of R58, keeping a writer's own element order. -/
def insertWrite (w : PWrite) : List PWrite → List PWrite
  | [] => [w]
  | v :: t => if v.wid = w.wid || writeBefore v w then v :: insertWrite w t else w :: v :: t

def sortWrites (ws : List PWrite) : List PWrite := ws.foldl (fun acc w => insertWrite w acc) []

/-- The lines a write touches, each with whether it is one of the tile window. -/
def Stall.writeLines (st : Stall) (w : PWrite) : List (Nat × Bool) :=
  (squash (w.cells.map fun c => c.1 / 64)).map fun l => (l, st.toWindow w (l * 64))

/-- R58: collisions of writes that complete in one line in one cycle. -/
def Stall.collisions (st : Stall) (x : Nat) : List PWrite → Stall
  | [] => st
  | w :: rest =>
    let hit := rest.filter fun v => v.wid ≠ w.wid && (st.writeLines v).any (· ∈ st.writeLines w)
    let st := match hit with
      | [] => st
      | v :: _ => st.skew 1 (((st.writeLines v).filter (· ∈ st.writeLines w)).headD (0, false)).1 x 0 v.tack
    Stall.collisions st x rest

/-- R58, R171, R173, R182: every write that completes in cycle x. -/
def Stall.finishWrites (st : Stall) (x : Nat) : Stall :=
  let due := sortWrites (st.spd.writes.filter fun w => w.fin = x)
  if due.isEmpty then st
  else
    let st : Stall := { st with spd := { st.spd with writes := st.spd.writes.filter fun w => w.fin ≠ x } }
    let st := st.collisions x due
    let direct := due.filter fun w => w.pool = 0
    let claims := claimsOf st.spd.tmap (direct.map fun w => (w.rank, st.writeSectors w))
    due.foldl (fun st w => if w.pool = 0 then st.bankWrite x claims w else st.gatherWrite x w) st

/-- Adds a write with its scoreboard tag (R55), tagged from its issue. -/
def Stall.addWrite (st : Stall) (w : PWrite) : Stall :=
  { st with spd := { st.spd with
    writes := st.spd.writes ++ [w]
    tags := st.spd.tags ++ [⟨w.issue, w.fin, w.addr, w.bytes.length, w.wid, w.win⟩] } }

/-- Adds a write whose tag stands since its instruction's issue. What is written into a fenced stall, which is powered down (R24), is lost. -/
def Stall.queueWrite (st : Stall) (w : PWrite) : Stall :=
  if st.fenced then st else { st with spd := { st.spd with writes := st.spd.writes ++ [w] } }

/-- A scoreboard tag for a write whose data is not formed yet. -/
def Stall.addTag (st : Stall) (issue fin addr len wid : Nat) : Stall :=
  { st with spd := { st.spd with tags := st.spd.tags ++ [⟨issue, fin, addr % spdSize, len, wid, true⟩] } }

/-- A scoreboard tag of a drain's or save's row: it reaches the banks (R110). -/
def Stall.addOpeTag (st : Stall) (issue fin addr len wid : Nat) : Stall :=
  { st with spd := { st.spd with tags := st.spd.tags ++ [⟨issue, fin, addr % spdSize, len, wid, false⟩] } }

/-- A new writer name. -/
def Stall.newWid (st : Stall) : Stall × Nat := ({ st with wids := st.wids + 1 }, st.wids + 1)

/-! ### Gather drains, bank power, host access -/

/-- The bytes that an entry drains. -/
def Gather.cells (g : Gather) : List (Nat × Byte) :=
  (g.valid.zipIdx.filter (·.1)).map fun p => (g.line * 64 + p.2, g.bytes.getD p.2 0)

/-- The sectors that an entry covers. -/
def Gather.sectors (g : Gather) : List Nat := squash (g.cells.map fun c => c.1 / 8)

/-- The port positions and words that an entry claims in its bank. -/
def Gather.places (g : Gather) (tmap : Nat) : List (Nat × Nat) :=
  g.sectors.map fun s => let q := placeOf tmap s; (q.1 * 8 + q.2.1, q.2.2)

/-- Whether two lists of port positions name a position at different words. -/
def clash (a b : List (Nat × Nat)) : Bool := a.any fun p => b.any fun q => decide (p.1 = q.1 ∧ p.2 ≠ q.2)

/-- Whether an entry could drain at cycle x (R182): no scheduled write that completes in x claims its sectors, and no entry that has
drained in x claims them at other words. -/
def Stall.drainable (st : Stall) (x : Nat) (g : Gather) : Bool :=
  g.valid.any id && decide (g.since ≤ x) &&
    !((claimsOf st.spd.tmap ((st.spd.writes.filter fun w => w.fin = x && w.pool = 0).map fun w => (w.rank, st.writeSectors w))).any
      fun c => (g.places st.spd.tmap).any fun p => decide (c.2.1 = p.1)) &&
    !(decide (st.spd.drains.1 = x) && st.spd.drains.2.any fun d => clash d.2 (g.places st.spd.tmap))

/-- Whether an entry that goes before g could drain at cycle x and shares a port position with it: the scheduled pool's before the
unscheduled pool's, within a pool the oldest first (R182). -/
def Stall.outranked (st : Stall) (x : Nat) (g : Gather) : Bool :=
  let before := st.spd.gather.takeWhile fun h => decide (h.line ≠ g.line)
  let rivals := if g.pool = 1 then before.filter fun h => h.pool = 1
    else before ++ (st.spd.gather.filter fun h => h.pool = 1)
  rivals.any fun h => st.drainable x h && clash (h.places st.spd.tmap) (g.places st.spd.tmap)

/-- The entry g has drained at cycle x: its bytes lose their marks, and where nothing holds it, its place is free from x + 1 on. -/
def Spad.drained (s : Spad) (x : Nat) (g : Gather) : Spad :=
  { s with
    gather := dropDead (s.gather.map fun h => if h.line = g.line then { h with valid := List.replicate 64 false } else h)
    drains := (x, (if s.drains.1 = x then s.drains.2 else []) ++ [(if g.held = 0 then g.pool else 0, g.places s.tmap)]) }

/-- R182: the entry of a line drains at cycle x, where its sectors are free and no entry that goes before it takes them. -/
def Stall.gatherDrain (st : Stall) (x line : Nat) : Stall :=
  match st.spd.gather.find? (fun g => g.line = line && g.valid.any id && decide (g.since ≤ x)) with
  | none => st
  | some g =>
    let cells := g.cells
    let secs := g.sectors
    if !st.drainable x g || st.outranked x g then st
    else
      let st : Stall := { st with spd := st.spd.drained x g }
      if st.bankUp x line then
        let full (s : Nat) : Bool := (List.range 8).all fun i => g.valid.getD (s % 8 * 8 + i) false
        let bad := secs.filter fun s => !full s && decide (sget zeroPar st.spd.badPar s ≠ 0)
        let st : Stall := { st with spd := { st.spd with
          badPar := secs.foldl (fun m s => sset zeroPar m s 0) st.spd.badPar
          pcount := satAdd 0xFFFFFFFF st.spd.pcount bad.length } }
        let st := match bad with
          | [] => st
          | s0 :: _ =>
            let spd := if st.spd.firstErr then st.spd else
              { st.spd with firstErr := true, err := setBits (setBits st.spd.err 15 0 (s0 / 8)) 18 16 (s0 % 8) }
            (({ st with spd := spd } : Stall).spdBit 31).raise Ev.spdParity x noTack true
        cells.foldl (fun st c => { st with spd := { st.spd with mem := st.spd.mem.set c.1 c.2 } }) st
      else (st.spdBit 28).raise Ev.spdBankOff x noTack true

/-- R186: writes issued or accepted for a bank and not complete before cycle x, a write of x itself included; entries of the gather buffer. -/
def Stall.bankInFlight (st : Stall) (x b : Nat) : Bool :=
  (st.spd.tags.any fun t => decide (t.issue ≤ x ∧ x ≤ t.fin) &&
    ((List.range ((t.addr + t.len + 63) / 64 - t.addr / 64)).any fun i =>
      bankOfLine st.spd.tmap ((t.addr / 64 + i) % 65536) = b)) ||
  (st.spd.gather.any fun g => bankOfLine st.spd.tmap g.line = b)

/-- The bytes of a bank set to zero with good parity (R186, R188). -/
def Spad.clearBank (s : Spad) (b : Nat) : Spad :=
  { s with
    mem := s.mem.filter fun c => decide (bankOfLine s.tmap (c.1 / 64) ≠ b)
    badPar := s.badPar.filter fun c => decide (bankOfLine s.tmap (c.1 / 8) ≠ b) }

/-- Sets the power state of a bank. -/
def Spad.setBank (s : Spad) (b : Nat) (p : BankPower) : Spad := { s with banks := sset bankOn s.banks b p }

/-- BANK_POWER_DOWN (R186): a waiting bank goes down at x, in the 2,048 cycles after its issue. -/
def Stall.bankDown (st : Stall) (x b : Nat) : Stall :=
  match sget bankOn st.spd.banks b with
  | .waiting p =>
    if p < x ∧ x < p + 2048 ∧ !st.bankInFlight x b then
      { st with spd := (st.spd.clearBank b).setBank b .down }
    else st
  | _ => st

/-- BANK_POWER_DOWN_CANCEL (R187). -/
def Stall.bankCancel (st : Stall) (x b : Nat) : Stall :=
  match sget bankOn st.spd.banks b with
  | .waiting p =>
    if p + 2048 ≤ x then
      let st : Stall := { st with spd := st.spd.setBank b .on }
      if b ∈ st.spd.cancelled then st
      else
        (({ st with spd := { st.spd with cancelled := st.spd.cancelled ++ [b] } } : Stall).spdBit 27).raise
          Ev.spdPwrCancel x noTack false
    else st
  | _ => st

/-- BANK_WAKE_DONE (R188). -/
def Stall.bankWakeDone (st : Stall) (x b : Nat) : Stall :=
  match sget bankOn st.spd.banks b with
  | .waking r => if r ≤ x then { st with spd := st.spd.setBank b .on } else st
  | _ => st

/-- One bank of SPD.PWR issued at x (R186, R188). A power-down that finds its bank waking waits like any other (R186 names every bank of the
mask; what a waking bank does it does not say: DESIGN CHOICE, log 130). -/
def Spad.power (s : Spad) (x : Nat) (wake : Bool) (b : Nat) : Spad :=
  if wake then
    match sget bankOn s.banks b with
    | .down => (s.clearBank b).setBank b (.waking (x + 64))
    | .waiting _ => s.setBank b .on
    | _ => s
  else
    match sget bankOn s.banks b with
    | .on => s.setBank b (.waiting x)
    | .waking _ => s.setBank b (.waiting x)
    | _ => s

/-- R190: a bank that is not on wakes in the closing margin, holding zeros. -/
def Spad.wakeAll (s : Spad) : Spad :=
  (List.range 32).foldl (fun s b =>
    match sget bankOn s.banks b with
    | .down => (s.clearBank b).setBank b .on
    | .waking _ => s.setBank b .on
    | .waiting _ => s.setBank b .on
    | .on => s) s

end Sys2Proof.Machine
end

