-- ==== Sys2Proof/Machine/OpeEngine.lean ====
section
/-!
DEFINITION. The outer-product engine of a stall (03, 04): what it does in a cycle, and what each of its instructions does at its
issue.
-/
namespace Sys2Proof.Machine

/-- What the issue of an instruction comes to (R200). -/
inductive Issue where
  | done (st : Stall)
  | illegal
  | inconsistent
  deriving DecidableEq, Repr

/-! ### Descriptors (R107) -/

def dBase (d : Nat) : Nat := natBits d 17 0
def dStep (d : Nat) : Int := signed 18 (natBits d 35 18)
def dHalf (d : Nat) : Int := signed 18 (natBits d 53 36)
def dElem (d : Nat) : Nat := natBits d 69 54
def dScale (d : Nat) : Nat := natBits d 87 70
def dScaleStep (d : Nat) : Int := signed 18 (natBits d 105 88)
def dCode (d : Nat) : Nat := natBits d 109 106
def dTarget (d : Nat) : Nat := natBits d 112 110
def dShift (d : Nat) : Int := signed 7 (natBits d 119 113)
def dKind (d : Nat) : Nat := natBits d 121 120
def dScaled (d : Nat) : Bool := natBit d 122

/-- R110: whether a descriptor makes an accumulate illegal. -/
def descIllegal (d : Nat) : Bool :=
  decide (dKind d = 3) || decide (7 < dCode d) ||
  (decide (dKind d = 2) && decide (¬(dCode d = 0 ∨ dCode d = 1 ∨ dCode d = 5))) ||
  (dScaled d && decide (6 ≤ dCode d)) || decide (5 < dTarget d) || decide (dScale d % 4 ≠ 0) ||
  decide (natBits d 127 123 ≠ 0)

/-- The code of a descriptor's elements after feeder conversion (R70). -/
def dArrayCode (d : Nat) : Nat := if dCode d ≤ 5 then dCode d else dTarget d

/-- The read latency of a descriptor (R112). -/
def dLat (d : Nat) : Nat := match dKind d with | 1 => 5 | 2 => 6 | _ => 4

/-- The byte address of 16-byte unit u, modulo 4 MiB. -/
def unitAddr (u : Int) : Nat := ((u * 16) % (spdSize : Int)).toNat

/-- The unit address of element 0 of half h at step s (R108). -/
def vecUnit (d : Nat) (s h : Nat) : Int :=
  let st : Nat := if dKind d = 2 then s / 64 else s
  (dBase d : Int) + dHalf d * h + dStep d * st

/-- The bytes of a packed unit of the code (R179). -/
def unitBytes (c : Nat) : Nat := match c with | 2 => 3 | 3 => 3 | 6 => 2 | 7 => 4 | _ => 1

/-- The byte ranges of half h of the vector at step s for plain and strided reads (R108, R179). -/
def vecSegs (d s h : Nat) : List (Nat × Nat) :=
  let a := unitAddr (vecUnit d s h)
  if dKind d = 1 then
    (List.range 64).map fun i =>
      let b := (a + i * dElem d) % spdSize
      let k := unitBytes (dCode d)
      (if dCode d = 6 ∨ dCode d = 7 then b / k * k else b, k)
  else [(a, 64 * inBits (dCode d) / 8)]

/-- The code of element i and whether any of its bytes was lost, from a plain vector's bytes. -/
def plainCode (bits : Nat) (bs : List (Byte × Bool)) (i : Nat) : Nat × Bool :=
  let lo := i * bits / 8
  let hi := (i * bits + bits + 7) / 8
  let part := (bs.drop lo).take (hi - lo)
  (natBits (leNat (part.map (·.1)) >>> (i * bits % 8)) (bits - 1) 0, part.any (·.2))

/-- The code of element i of a strided vector: the first element in its unit. -/
def stridedCode (c : Nat) (bs : List (Byte × Bool)) (i : Nat) : Nat × Bool :=
  let k := unitBytes c
  let part := (bs.drop (i * k)).take k
  (leNat (part.map (·.1)) % 2 ^ inBits c, part.any (·.2))

/-- The element that a code and a scale byte make (R69, R73, R109). -/
def feedElem (d : Nat) (code : Nat × Bool) (scale : Byte × Bool) : Elem :=
  if code.2 || (dScaled d && scale.2) then Elem.invalid
  else if dCode d = 6 then feederConvert bf16 code.1 (dTarget d) (dShift d)
  else if dCode d = 7 then feederConvert fp32 code.1 (dTarget d) (dShift d)
  else if dScaled d then
    if scale.1.toNat = 0xFF then { elemOf (dCode d) code.1 0 with sigma := 0, nonfinite := true }
    else elemOf (dCode d) code.1 ((scale.1.toNat : Int) - (if dCode d = 5 then 133 else 127))
  else elemOf (dCode d) code.1 0

/-! ### Accumulation (R100, R126, R127) -/

/-- Sum of the residues of the elements that count (R126, R127). -/
def residueSum (es : List Elem) : Nat :=
  (es.foldl (fun n e => if e.valid && !e.nonfinite then n + rho e.sigma (e.tau + e.scale) else n) 0) % 255

/-- One product into cell (i, j) of a group in LA160 mode. -/
def Stall.cellAdd (st : Stall) (x tack g i j : Nat) (a b : Elem) : Stall :=
  if !a.valid || !b.valid then st
  else
    let old := st.ope.getAcc g i j
    if a.nonfinite || b.nonfinite then
      let st : Stall := { st with ope := st.ope.setAcc g i j { old with n := true } }
      (st.opeBit 29).raiseOnce Ev.nonfiniteOperand x tack false
    else
      let e := a.scale + b.scale
      let anc := st.ope.anchor g
      if e < anc - 16 ∨ anc + 16 < e then
        let st : Stall := { st with ope := { st.ope with
          rejected := if g ∈ st.ope.rejected then st.ope.rejected else st.ope.rejected ++ [g] } }
        (st.opeBit 30).raiseOnce Ev.scaleRange x tack true
      else
        let sh := a.tau + b.tau + e + 64 - anc
        { st with ope := { st.ope.setAcc g i j (add160 old (a.sigma * b.sigma * pow2 sh)) with macs := st.ope.macs + 1 } }

/-- One product into cell (i, j) of a group in FP32 mode (R82). -/
def Stall.cellAddFp (st : Stall) (x tack g i j : Nat) (a b : Elem) : Stall :=
  if !a.valid || !b.valid then st
  else if a.nonfinite || b.nonfinite then (st.opeBit 29).raiseOnce Ev.nonfiniteOperand x tack false
  else
    let p := a.sigma * b.sigma
    let v := addF fp32 (decodeF fp32 (st.ope.getFp g i j).toNat)
      (.num (decide (p < 0)) p.natAbs (a.tau + b.tau + a.scale + b.scale))
    { st with ope := { st.ope.setFp g i j (BitVec.ofNat 32 v) with macs := st.ope.macs + 1 } }

/-- One lane of an accumulate cycle: the outer product of 64 column and 64 row elements, and the term of R127. -/
def Stall.laneAdd (st : Stall) (x tack g : Nat) (fp : Bool) (col row : List Elem) : Stall :=
  let cs := col.zipIdx.filter fun p => p.1.valid
  let rs := row.zipIdx.filter fun p => p.1.valid
  let st := cs.foldl (fun st c => rs.foldl (fun st r =>
    if fp then st.cellAddFp x tack g c.2 r.2 c.1 r.1 else st.cellAdd x tack g c.2 r.2 c.1 r.1) st) st
  if fp then st
  else
    let term := residueSum col * residueSum row * pow2mod8 (64 - st.ope.anchor g)
    { st with ope := st.ope.setExpected g (st.ope.expected g + term) }

/-- The lanes of an accumulate cycle, unless its pass is older than the group accepts. -/
def Stall.padd (st : Stall) (x : Nat) (p : PAdd) : Stall :=
  if p.pass < sget zeroNat st.ope.minPass p.group then st
  else p.lanes.foldl (fun st l => st.laneAdd x p.tack p.group p.fp l.1 l.2) st

/-- A row of a preload added, or of a restore written (R116, R121). -/
def Stall.prow (st : Stall) (r : PRow) : Stall :=
  let o := if r.fp then
      r.fpElems.zipIdx.foldl (fun (o : Ope) p =>
        let v := addF fp32 (decodeF fp32 (o.getFp r.group r.row p.2).toNat) (decodeF fp32 p.1.toNat)
        o.setFp r.group r.row p.2 (BitVec.ofNat 32 v)) st.ope
    else
      r.elems.zipIdx.foldl (fun (o : Ope) p =>
        let old := o.getAcc r.group r.row p.2
        let new := if r.add then
            let y := add160 old p.1.v.toInt
            { y with n := y.n || p.1.n, o := y.o || p.1.o }
          else p.1
        (o.setAcc r.group r.row p.2 new).setExpected r.group (o.expected r.group + residue160 p.1.v)) st.ope
  { st with ope := o }

/-- Phase 1 of a cycle: what the accumulators take in cycle x. A preload row and a product that land in one cell in one cycle are added row
first; in FP32 mode, where the order decides the rounding, that is the model's choice (DESIGN CHOICE, log 131). -/
def Stall.accumulate (st : Stall) (x : Nat) : Stall :=
  let adds := st.ope.adds.filter fun p => p.fin = x
  let rows := st.ope.rows.filter fun p => p.fin = x
  if adds.isEmpty && rows.isEmpty then st
  else
    let st : Stall := { st with ope := { st.ope with
      adds := st.ope.adds.filter fun p => p.fin ≠ x
      rows := st.ope.rows.filter fun p => p.fin ≠ x } }
    let st := rows.foldl Stall.prow st
    adds.foldl (fun st p => st.padd x p) st

/-! ### Clearing groups -/

/-- Clears a group: values, flags, expected residue, and the lowest accepted pass (R116, R228). Rows of an earlier move that land in this
cycle come before the clear (R122). -/
def Ope.clearGroup (o : Ope) (fp : Bool) (g : Nat) : Ope :=
  let cells := (List.range 4096).map fun k => g * 4096 + k
  let o := if fp then
      (if o.fpEra = 0 then { o with fpacc := o.fpacc.filter fun c => decide (c.1 / 4096 ≠ g) }
       else { o with fpacc := cells.foldl (fun m k => sset (fpDefault o.fpEra) m k 0) o.fpacc })
    else
      (if o.laEra = 0 then { o with acc := o.acc.filter fun c => decide (c.1 / 4096 ≠ g) }
       else { o with acc := cells.foldl (fun m k => sset (accDefault o.laEra) m k Acc.zero) o.acc })
  { o with
    expect := sset zeroNat o.expect g 0, minPass := sset zeroNat o.minPass g (o.passNo + 1)
    rows := o.rows.filter fun r => r.group ≠ g }

/-- Sets the anchor of groups and clears them, as a preload and a yardmaster clear do. -/
def Ope.anchorClear (o : Ope) (gs : List Nat) (a : Int) : Ope :=
  gs.foldl (fun o g =>
    let o := o.clearGroup o.fp g
    if o.fp then o else { o with anchors := sset zeroInt o.anchors g a }) o

/-! ### The move path (R115 to R121) -/

/-- Rows of a move operation. -/
def Move.rows (m : Move) : Nat := 64 * m.groups.length

/-- The cycle at which a move operation ends and its paths are free. -/
def Move.ends (m : Move) : Nat :=
  match m.kind with
  | .preload => m.issue + 3 + m.rows
  | .drain => m.issue + 6 + m.rows
  | _ => m.issue + 262

/-- Group, tile row R and first tile column C of row ρ of the sweep. -/
def Move.rowOf (m : Move) (r : Nat) : Nat × Nat × Nat :=
  let k := r / 64
  let i := r % 64
  let (h, c) := match m.shape with
    | 0 => (0, 0)
    | 1 => (0, k)
    | 2 => (k, 0)
    | _ => (k / 2, k % 2)
  (m.groups.getD k 0, 64 * h + i, 64 * c)

/-- R117, R119: base, stride and element size to the byte address of (R, C). -/
def moveAddr (base stride size r c : Nat) : Nat := (16 * base + 64 * r * stride + c * size) % spdSize

/-- Bytes of a preload's source element (R132). -/
def preloadSize : Nat → Nat
  | 0 => 32 | 1 => 4 | 2 => 2 | 3 => 2 | 4 => 1 | 5 => 1 | _ => 0

/-- The format of a preload's source code 1 to 5. -/
def preloadFmt : Nat → Fmt
  | 1 => fp32 | 2 => bf16 | 3 => fp16 | 4 => e4m3 | _ => e5m2

/-- The read of row ρ of a preload or restore, and how many elements it delivers. -/
def Move.source (m : Move) (r : Nat) : List (Nat × Nat) :=
  match m.kind with
  | .preload =>
    let src := bitsOf m.word 30 28
    let size := preloadSize src
    let base := bitsOf m.word 25 8
    let stride := bitsOf m.word 7 0
    let (_, row, col) := m.rowOf r
    if src = 6 then []
    else match bitsOf m.word 27 26 with
      | 0 => [(moveAddr base stride size row col, 64 * size)]
      | 1 => [(moveAddr base stride size 0 col, 64 * size)]
      | _ => [((16 * base + row * size) % spdSize, size)]
  | .restore => [(16 * bitsOf m.word 43 26 + 2048 * r, 2048)]
  | _ => []

/-- The row of accumulator elements that the bytes of a source row make. -/
def Move.convert (m : Move) (o : Ope) (r : Nat) (bs : List Byte) : PRow :=
  let (g, _, _) := m.rowOf r
  match m.kind with
  | .preload =>
    let src := bitsOf m.word 30 28
    let size := preloadSize src
    let a := signed 8 (bitsOf m.word 38 31)
    let one (i : Nat) : List Byte := if bitsOf m.word 27 26 = 2 then bs else (bs.drop (i * size)).take size
    let elem (i : Nat) : Acc :=
      if src = 6 then Acc.zero
      else if src = 0 then
        let l := laOf (one i)
        reanchor l.acc l.anchor a
      else preloadF (decodeF (preloadFmt src) (leNat (one i))) a
    let fpE (i : Nat) : BitVec 32 :=
      if src = 6 then 0 else BitVec.ofNat 32 (rneF fp32 (decodeF (preloadFmt src) (leNat (one i))))
    ⟨0, g, r % 64, true, if m.fp then [] else (List.range 64).map elem, if m.fp then (List.range 64).map fpE else [], m.fp⟩
  | _ =>
    let _ := o
    ⟨0, r / 64, r % 64, false, (List.range 64).map fun i => (laOf ((bs.drop (32 * i)).take 32)).acc, [], false⟩

/-- What a drain in FP32 mode writes for an infinite slot: the code of R84's overflow to nearest-even, with its sign. -/
def drainInf (out : Nat) (s : Bool) : Nat :=
  let f := drainFmt out
  signCode f s (match out with | 4 => 0x7E | 5 => 0x7B | _ => infCode f)

/-- R118, R121: the sample of row ρ of a drain or save in cycle x, its write, and its part of the residue sum. -/
def Stall.sampleRow (st : Stall) (x : Nat) (m : Move) (r : Nat) : Stall :=
  let (g, row, col) := m.rowOf r
  let i := r % 64
  let g := if m.kind = .save then r / 64 else g
  let a := st.ope.anchor g
  let elems := (List.range 64).map fun j => st.ope.getAcc g i j
  let fps := (List.range 64).map fun j => st.ope.getFp g i j
  let out := bitsOf m.word 38 36
  let near := decide (bitsOf m.word 35 35 = 0)
  let k := signed 7 (bitsOf m.word 34 28)
  let clear := decide (bitsOf m.word 27 27 = 1) && decide (m.kind = .drain)
  let silent := decide (bitsOf m.word 26 26 = 1) && decide (m.kind = .drain)
  let fpDrain (c : BitVec 32) : List Byte :=
    let f := drainFmt out
    let code := match decodeF fp32 c.toNat with
      | .nan => nanCode f
      | .inf s => drainInf out s
      | .num s mg e =>
        let c := encodeM f (if near then .near else .zero) (drainOver f near) s mg (e + k)
        if mg = 0 then 0 else c
    leBytes (drainSize out) code
  let bytes : List Byte :=
    if m.kind = .save then (elems.map fun e => laBytes ⟨e, a⟩).flatten
    else if m.fp then (fps.map fpDrain).flatten
    else (elems.map fun e => drainElem out near e a k).flatten
  let addr := if m.kind = .save then (16 * bitsOf m.word 43 26 + 2048 * r) % spdSize
    else moveAddr (bitsOf m.word 25 8) (bitsOf m.word 7 0) (drainSize out) row col
  let st := if silent then st else st.queueWrite ⟨x + 1, m.issue, rankMove, m.wid, m.tack, 0, addr, bytes⟩
  let leaves := decide (m.kind = .drain) && decide (out = 0) && !m.fp && !silent &&
    decide (¬(-128 ≤ a + k ∧ a + k ≤ 127))
  let v := !m.fp && elems.any (·.o)
  let st := if (v || leaves) && !m.spilt then (st.opeBit 28).raise Ev.laOverflow x m.tack true else st
  let m' := { m with
    sums := if m.fp then m.sums
      else smod zeroNat m.sums g fun n => (elems.foldl (fun n e => n + residue160 e.v) n) % 255
    ovf := if v && !(m.ovf.any (· = g)) then m.ovf ++ [g] else m.ovf
    spilt := m.spilt || v || leaves }
  let o := if clear then
      (List.range 64).foldl (fun (o : Ope) j => if m.fp then o.setFp g i j 0 else o.setAcc g i j Acc.zero) st.ope
    else st.ope
  { st with ope := { o with move := some m' } }

/-- Phase 3 of a cycle: drains and saves sample the accumulators. -/
def Stall.sample (st : Stall) (x : Nat) : Stall :=
  match st.ope.move with
  | some m =>
    if m.kind = .drain ∨ m.kind = .save then
      if m.issue + 5 ≤ x ∧ x < m.issue + 5 + m.rows then st.sampleRow x m (x - m.issue - 5) else st
    else st
  | none => st

/-- Elements of V kept out of the comparison: a group with V or with a rejected product is not compared (R128). -/
def Move.verdict (m : Move) (o : Ope) : Verdict :=
  ⟨m.ends, m.tack, m.groups.map fun g =>
    (g, o.expected g, sget zeroNat m.sums g, !(m.ovf.any (· = g)) && !(o.rejected.any (· = g)) && !m.fp)⟩

/-- End of a cycle: a move operation whose paths are free from cycle x leaves them, with its verdict. -/
def Stall.endMove (st : Stall) (x : Nat) : Stall :=
  match st.ope.move with
  | some m =>
    if m.ends = x then
      let st : Stall := { st with ope := { st.ope with lastMove := (m.issue, x) } }
      match m.kind with
      | .preload => { st with ope := { st.ope with move := none } }
      | .restore => { st with ope := { st.ope with move := none } }
      | .save => { st with ope := { st.ope with move := none, verdicts := st.ope.verdicts ++ [m.verdict st.ope] } }
      | .drain =>
        let v := m.verdict st.ope
        let o := if bitsOf m.word 27 27 = 1 then m.groups.foldl (fun (o : Ope) g => o.setExpected g 0) st.ope else st.ope
        { st with ope := { o with move := none, verdicts := st.ope.verdicts ++ [v] } }
    else st
  | none => st

/-- RESIDUE_VERDICT (R128): the oldest verdict due at or before x is compared. -/
def Stall.residueVerdict (st : Stall) (x : Nat) : Stall :=
  match st.ope.verdicts with
  | [] => st
  | v :: rest =>
    if v.fin ≤ x then
      let st : Stall := { st with ope := { st.ope with verdicts := rest } }
      let bad := v.groups.filter fun g => g.2.2.2 && decide (g.2.1 ≠ g.2.2.1)
      match bad with
      | [] => st
      | g :: _ =>
        let st : Stall := if Ev.residueMismatch ∈ st.once then st
          else { st with
            once := st.once ++ [Ev.residueMismatch]
            ope := { st.ope with err := setBits (setBits (setBits st.ope.err 17 16 g.1) 15 8 g.2.1) 7 0 g.2.2.1 } }
        bad.foldl (fun st _ => (st.opeBit 31).raise Ev.residueMismatch v.fin v.tack true) st
    else st

/-! ### Reads of the feeders -/

/-- Which halves of the column and row vectors cycle q of a step reads, and which it uses (R102, R111). -/
def halvesRead (shape q : Nat) : List Nat × List Nat :=
  if q = 0 then ([0], [0])
  else match shape, q with
    | 1, 1 => ([], [1])
    | 2, 1 => ([1], [])
    | 3, 1 => ([], [1])
    | 3, 2 => ([1], [])
    | _, _ => ([], [])

def halvesUsed (shape q : Nat) : Nat × Nat :=
  match shape with
  | 1 => (0, q)
  | 2 => (q, 0)
  | 3 => (q / 2, q % 2)
  | _ => (0, 0)

/-- The reduction steps that cycle u of a pass carries, one for each lane. -/
def Pass.stepsAt (p : Pass) (u : Nat) : List Nat :=
  let k := u / p.groups.length
  if p.dual then (if 2 * k + 1 < p.steps then [2 * k, 2 * k + 1] else [2 * k]) else [k]

/-- A read that a feeder issues in a cycle: 0 column, 1 row; the half; the lane; what it reads. -/
inductive FeedRead where
  | scale (feeder half lane : Nat)
  | plain (feeder half lane step : Nat)
  | fetch (feeder half lane step block group : Nat)
  deriving DecidableEq, Repr

/-- R109: whether step k of a pass (index s) reads a scale line. -/
def readsScale (d : Nat) (k s : Nat) : Bool := dScaled d && (decide (k = 0) || decide (s % 32 = 0))

/-- R175: whether a transposed read is within its layout. -/
def Stall.layoutOk (st : Stall) (block : Nat) : Bool :=
  decide (block % 4096 = 0) && natBit st.spd.tmap (block / 0x20000)

/-- The block and column group that step s of a descriptor reads in half h. -/
def groupOf (d s h : Nat) : Nat × Nat := (unitAddr (vecUnit d s h), s % 64 / 8)

/-- R176: whether lane `lane` of half h finds the group of step s in its column buffer: what the buffer holds, or what the lane before it in
the same cycle has left there. -/
def Stall.bufferHolds (st : Stall) (f h d s lane : Nat) : Bool :=
  if lane ≠ 0 && st.layoutOk (groupOf d (s - 1) h).1 then decide (groupOf d (s - 1) h = groupOf d s h)
  else match sget noBuf st.ope.colBufs (f * 2 + h) with
    | some b => decide ((b.block, b.group) = groupOf d s h)
    | none => false

/-- The reads that feeder `f` issues for the halves `hs` in cycle u, with their requests. -/
def Stall.feedReads (st : Stall) (p : Pass) (f : Nat) (fd : Feed) (hs : List Nat) (ks : List Nat) :
    List (FeedRead × ReadReq) :=
  let rank := if f = 0 then rankCol else rankRow
  let d := fd.raw
  (hs.map fun h => (ks.zipIdx.map fun kl =>
    let k := kl.1
    let lane := kl.2
    let s := fd.start + k
    let sc : List (FeedRead × ReadReq) :=
      if readsScale d k s then
        [(.scale f h lane, ⟨rank + 5, p.tack, 0, false,
          [((unitAddr ((dScale d : Int) + dScaleStep d * ((s / 32 : Nat) : Int)) + 64 * h) % spdSize, 64)]⟩)]
      else []
    let body : List (FeedRead × ReadReq) :=
      if dKind d = 2 then
        let (block, grp) := groupOf d s h
        if st.layoutOk block && !st.bufferHolds f h d s lane then
          [(.fetch f h lane s block grp, ⟨rank + lane, p.tack, 0, false,
            (List.range 64).map fun i => ((block + 64 * i + 8 * grp) % spdSize, 8)⟩)]
        else []
      else [(.plain f h lane s, ⟨rank + lane, p.tack, 0, false, vecSegs d s h⟩)]
    sc ++ body).flatten).flatten

/-- The 64 elements of a half-vector. -/
def feedHalf (d : Nat) (scale : List (Byte × Bool)) (code : Nat → Nat × Bool) : List Elem :=
  (List.range 64).map fun i => feedElem d (code i) (scale.getD i (0, false))

/-- A transposed half-vector from its column buffer (R176, R177). -/
def Stall.fromBuffer (st : Stall) (x tack f h : Nat) (fd : Feed) (s : Nat) (scale : List (Byte × Bool)) :
    Stall × List Elem :=
  let block := unitAddr (vecUnit fd.raw s h)
  if !st.layoutOk block then
    ((st.spdBit 29).raise Ev.spdLayout x tack true, List.replicate 64 Elem.invalid)
  else
    match sget noBuf st.ope.colBufs (f * 2 + h) with
    | some b =>
      if b.block = block ∧ b.group = s % 64 / 8 then
        let st := if b.stale && decide (b.fetched < x) then st.skew 0 (block / 64) x 0 tack else st
        (st, feedHalf fd.raw scale fun i =>
          ((b.bytes.getD (8 * i + s % 8) 0).toNat, b.lost.getD (8 * i + s % 8) false))
      else (st, List.replicate 64 Elem.invalid)
    | none => (st, List.replicate 64 Elem.invalid)

/-- Scale line that a feeder holds for a half. -/
def Feed.scaleOf (f : Feed) (h : Nat) : List (Byte × Bool) := if h = 0 then f.scale0 else f.scale1

/-- Half-vectors that a feeder holds, by lane. -/
def Feed.half (f : Feed) (h : Nat) : List (List Elem) := if h = 0 then f.half0 else f.half1

/-- What a feeder's reads for one lane of a half leave: its scale line (R109) and its column buffer (R176). -/
def Stall.laneTake (st : Stall) (x f h lane : Nat) (fd : Feed) (got : List (FeedRead × List (Byte × Bool))) : Stall × Feed :=
  got.foldl (fun (acc : Stall × Feed) g =>
    let (st, fd) := acc
    match g.1 with
    | .scale f' h' l' =>
      if f' = f ∧ h' = h ∧ l' = lane then (st, if h = 0 then { fd with scale0 := g.2 } else { fd with scale1 := g.2 }) else acc
    | .fetch f' h' l' _ block grp =>
      if f' = f ∧ h' = h ∧ l' = lane then
        let buf : ColBuf := ⟨block, grp, x, g.2.map (·.1), g.2.map (·.2), false⟩
        ({ st with ope := { st.ope with colBufs := sset noBuf st.ope.colBufs (f * 2 + h) (some buf) } }, fd)
      else acc
    | _ => acc) (st, fd)

/-- What a feeder's reads of a cycle leave it holding: the half-vectors, lane by lane in step order. -/
def Stall.feedTake (st : Stall) (x : Nat) (p : Pass) (f : Nat) (fd : Feed) (hs ks : List Nat)
    (got : List (FeedRead × List (Byte × Bool))) : Stall × Feed :=
  hs.foldl (fun (acc : Stall × Feed) h =>
    let (st, fd) := acc
    let (st, fd, vs) := ks.zipIdx.foldl (fun (acc : Stall × Feed × List (List Elem)) kl =>
      let (st, fd, vs) := acc
      let (st, fd) := st.laneTake x f h kl.2 fd got
      let s := fd.start + kl.1
      if dKind fd.raw = 2 then
        let (st, v) := st.fromBuffer x p.tack f h fd s (fd.scaleOf h)
        (st, fd, vs ++ [v])
      else
        let bs := match got.find? (fun g => match g.1 with
            | .plain f' h' l' _ => decide (f' = f ∧ h' = h ∧ l' = kl.2)
            | _ => false) with
          | some g => g.2
          | none => []
        (st, fd, vs ++ [feedHalf fd.raw (fd.scaleOf h) fun i =>
          if dKind fd.raw = 1 then stridedCode (dCode fd.raw) bs i else plainCode (inBits (dCode fd.raw)) bs i])) (st, fd, [])
    (st, if h = 0 then { fd with half0 := vs } else { fd with half1 := vs })) (st, fd)

/-- The requests of a pass in cycle x. -/
def Stall.passReads (st : Stall) (x : Nat) (p : Pass) : List (FeedRead × ReadReq) :=
  let u := x - p.issue
  if p.cycles ≤ u then []
  else
    let q := u % p.groups.length
    let (hc, hr) := halvesRead p.shape q
    st.feedReads p 0 p.col hc (p.stepsAt u) ++ st.feedReads p 1 p.row hr (p.stepsAt u)

/-- A pass takes its reads of cycle x and sends the operands of the cycle to the array (R111, R112). -/
def Stall.passTake (st : Stall) (x : Nat) (p : Pass) (got : List (FeedRead × List (Byte × Bool))) : Stall × Pass :=
  let u := x - p.issue
  let q := u % p.groups.length
  let ks := p.stepsAt u
  let (hc, hr) := halvesRead p.shape q
  let (st, col) := st.feedTake x p 0 p.col hc ks got
  let (st, row) := st.feedTake x p 1 p.row hr ks got
  let (h, k) := halvesUsed p.shape q
  let lanes := (List.range ks.length).map fun l => ((col.half h).getD l [], (row.half k).getD l [])
  let add : PAdd := ⟨x + p.lat + (if p.dual then 8 else 7), p.groups.getD q 0, p.pass, p.fp, lanes, p.tack⟩
  ({ st with ope := { st.ope with adds := st.ope.adds ++ [add] } }, { p with col := col, row := row })

/-! ### Instructions -/

/-- R120, R121: a save or restore is active at c. -/
def Stall.wholeBusy (st : Stall) : Bool :=
  match st.ope.move with
  | some m => decide (m.kind = .save ∨ m.kind = .restore)
  | none => false

/-- R231: a CSAVE or CREST is active at c. -/
def Stall.ctxBusy (st : Stall) (c : Nat) : Bool :=
  match st.seq.ctx with
  | some k => decide (c ≤ k.issue + (if k.save then 25 else 27))
  | none => false

/-- R231: a CREST bars the instruction at c. -/
def Stall.crestBars (st : Stall) (c : Nat) : Bool :=
  match st.seq.ctx with
  | some k => !k.save && decide (k.issue < c ∧ c ≤ k.issue + 27)
  | none => false

/-- The last broadcast of any pass or keep-warm that is still remembered, plus one (R114). -/
def Ope.castEnd (o : Ope) : Nat := o.flights.foldl (fun m f => max m (f.lastCast + 1)) 0

/-- Descriptor n of the engine. -/
def Ope.desc (o : Ope) (n : Nat) : Desc := sget zeroDesc o.descs n

def Ope.setDesc (o : Ope) (n : Nat) (d : Desc) : Ope := { o with descs := sset zeroDesc o.descs n d }

/-- OPE.ACC at c (R103, R106 to R114, R122). -/
def issueAcc (st : Stall) (c : Nat) (w : Insn) (tack : Nat) : Issue :=
  let o := st.ope
  let t := bitsOf w 43 39
  let cd := bitsOf w 38 36
  let rd := bitsOf w 35 33
  let n := bitsOf w 32 17
  let cont := decide (bitsOf w 16 16 = 1)
  let dc := o.desc cd
  let dr := o.desc rd
  if bitsOf w 15 0 ≠ 0 ∨ n = 0 ∨ !tileValid o.shape o.fp t ∨ descIllegal dc.active ∨ descIllegal dr.active then .illegal
  else
    let gs := tileGroups o.shape t
    let dual := isDual (dArrayCode dc.active) (dArrayCode dr.active)
    let u := gs.length * (if dual then (n + 1) / 2 else n)
    let r := max (dLat dc.active) (dLat dr.active)
    let drains := match o.move with
      | some m => decide (m.kind = .drain) && m.groups.any (· ∈ gs)
      | none => false
    if st.wholeBusy || st.crestBars c || drains || decide (c + r + 3 < o.castEnd) then .inconsistent
    else
      let sc := if cont then dc.index else 0
      let sr := if cont then dr.index else 0
      let o := o.setDesc cd { dc with index := sc + n }
      let o := if rd = cd then o else o.setDesc rd { dr with index := sr + n }
      let feed (d : Nat) (x : Desc) (s : Nat) : Feed := ⟨d, x.active, s, x.gen, [], [], [], []⟩
      let p : Pass := ⟨c, u, n, dual, r, o.shape, gs, o.passNo + 1, o.fp, feed cd dc sc, feed rd dr sr, tack⟩
      .done { st with ope := { o with
        passNo := o.passNo + 1
        passes := o.passes ++ [p]
        flights := o.flights ++ [⟨c, c + u - 1 + r + 3, c + u - 1 + r + (if dual then 8 else 7), gs⟩] } }

/-- OPE.LDDESC at c (R106). -/
def issueLddesc (st : Stall) (c : Nat) (w : Insn) (tack : Nat) : Issue :=
  if bitsOf w 22 0 ≠ 0 then .illegal
  else if st.wholeBusy || st.crestBars c then .inconsistent
  else .done { st with ope := { st.ope with
    loads := st.ope.loads ++ [(bitsOf w 43 41, (16 * bitsOf w 40 23) % spdSize, tack)] } }

/-- Whether the move path is taken at c (R115, R228). -/
def Stall.moveBusy (st : Stall) (c : Nat) : Bool := st.ope.move.isSome || decide (st.ope.clearAt = c + 1)

/-- OPE.PRELOAD at c (R116, R117). -/
def issuePreload (st : Stall) (c : Nat) (w : Insn) (tack : Nat) : Issue :=
  let o := st.ope
  let t := bitsOf w 43 39
  let src := bitsOf w 30 28
  if !tileValid o.shape o.fp t ∨ src = 7 ∨ (src = 0 ∧ o.fp) ∨ bitsOf w 27 26 = 3 ∨ (src = 0 ∧ bitsOf w 25 8 % 4 ≠ 0) then
    .illegal
  else if st.moveBusy c then .inconsistent
  else
    let gs := tileGroups o.shape t
    let m : Move := ⟨.preload, c, o.shape, gs, w, o.fp, [], [], false, 0, tack⟩
    .done { st with ope := { o.anchorClear gs (signed 8 (bitsOf w 38 31)) with move := some m } }

/-- Whether a pass on one of the groups is still broadcasting at c (R122). -/
def Ope.casting (o : Ope) (gs : List Nat) (c : Nat) : Bool :=
  o.flights.any fun f => decide (c ≤ f.lastCast) && f.groups.any (· ∈ gs)

/-- OPE.DRAIN at c (R118, R119). -/
def issueDrain (st : Stall) (c : Nat) (w : Insn) (tack : Nat) : Issue :=
  let o := st.ope
  let t := bitsOf w 43 39
  let out := bitsOf w 38 36
  if !tileValid o.shape o.fp t ∨ 5 < out ∨ (out = 0 ∧ o.fp) then .illegal
  else
    let gs := tileGroups o.shape t
    if st.moveBusy c || o.casting gs c then .inconsistent
    else
      let (st, wid) := st.newWid
      let m : Move := ⟨.drain, c, o.shape, gs, w, o.fp, [], [], false, wid, tack⟩
      let st : Stall := { st with ope := { o with move := some m } }
      .done (if bitsOf w 26 26 = 1 then st
        else (List.range m.rows).foldl (fun st r =>
          let (_, row, col) := m.rowOf r
          st.addOpeTag c (c + 6 + r) (moveAddr (bitsOf w 25 8) (bitsOf w 7 0) (drainSize out) row col)
            (64 * drainSize out) wid) st)

/-- R120: whether a save or restore region is legal. A base that is no multiple of 4 is outside the values of R132's table, as is the base of
a PRELOAD from LA160; R132 names no outcome of its own for it, and the model takes it as a value marked illegal (DESIGN CHOICE, log 132). -/
def wholeLegal (st : Stall) (w : Insn) : Bool :=
  decide (bitsOf w 25 0 = 0) && decide (bitsOf w 43 26 % 4 = 0) && !st.ope.fp &&
  decide (16 * bitsOf w 43 26 + 0x80000 ≤ spdSize)

/-- OPE.SAVE at c (R120, R121). -/
def issueSave (st : Stall) (c : Nat) (w : Insn) (tack : Nat) : Issue :=
  if !wholeLegal st w then .illegal
  else if st.moveBusy c || st.ctxBusy c || st.ope.casting [0, 1, 2, 3] c then .inconsistent
  else
    let (st, wid) := st.newWid
    let m : Move := ⟨.save, c, 0, [0, 1, 2, 3], w, false, [], [], false, wid, tack⟩
    let st : Stall := { st with ope := { st.ope with move := some m } }
    .done ((List.range 256).foldl (fun st r => st.addOpeTag c (c + 6 + r) (16 * bitsOf w 43 26 + 2048 * r) 2048 wid) st)

/-- OPE.RESTORE at c (R120, R121). -/
def issueRestore (st : Stall) (c : Nat) (w : Insn) (tack : Nat) : Issue :=
  if !wholeLegal st w then .illegal
  else if st.moveBusy c || st.ctxBusy c then .inconsistent
  else
    let m : Move := ⟨.restore, c, 0, [0, 1, 2, 3], w, false, [], [], false, 0, tack⟩
    let o := [0, 1, 2, 3].foldl (fun (o : Ope) g => o.clearGroup false g) st.ope
    .done { st with ope := { o with move := some m } }

/-- OPE.SHAPE at c (R105, R124). -/
def issueShape (st : Stall) (c : Nat) (w : Insn) (_tack : Nat) : Issue :=
  let shape := bitsOf w 43 42
  let win := decide (bitsOf w 41 41 = 1)
  let fp := decide (bitsOf w 40 40 = 1)
  if bitsOf w 39 0 ≠ 0 ∨ (win = true ∧ (shape ≠ 3 ∨ fp = true)) then .illegal
  else if st.moveBusy c || (st.ope.flights.any fun f => decide (c ≤ f.lastAdd)) then .inconsistent
  else .done { st with vec := { st.vec with changes := st.vec.changes ++ [(c + 1, .shape shape win fp)] } }

/-- Cycles u below n with u mod 8 ≤ level (R130). -/
def warmCycles (n level : Nat) : Nat := n / 8 * (level + 1) + min (n % 8) (level + 1)

/-- OPE.KEEPWARM at c (R130). -/
def issueKeepwarm (st : Stall) (c : Nat) (w : Insn) (_tack : Nat) : Issue :=
  let n := bitsOf w 43 33 + 1
  let o := st.ope
  if bitsOf w 29 0 ≠ 0 then .illegal
  else if st.wholeBusy || decide (c + 7 < o.castEnd) then .inconsistent
  else .done { st with ope := { o with
    passNo := o.passNo + 1
    warm := (o.warm + warmCycles n (bitsOf w 32 30)) % 2 ^ 32
    discard := Config.discard (o.passNo + 1)
    flights := o.flights ++ [⟨c, c + 6 + n, c + 10 + n, []⟩] } }

/-- The yardmaster's anchor broadcast arriving at x (R228): true where the stall skips it. -/
def Stall.ymAnchor (st : Stall) (x t : Nat) (a : Int) : Stall × Bool :=
  let o := st.ope
  if st.moveBusy x || !tileValid o.shape o.fp t then (st, true)
  else ({ st with ope := { o.anchorClear (tileGroups o.shape t) a with clearAt := x + 1 } }, false)

end Sys2Proof.Machine
end

