-- ==== Sys2Proof/Machine/VecEngine.lean ====
section
/-!
DEFINITION. The vector engine of a stall (05): the operands each instruction names, what it computes from them, and its issue.
-/
namespace Sys2Proof.Machine

/-! ### Formats (R134, R142) -/

/-- Bits of an element in a VEC format code. -/
def vecBits : Nat → Nat
  | 0 => 32 | 1 => 16 | 2 => 16 | 3 => 8 | 4 => 8 | 5 => 6 | 6 => 6 | 7 => 4 | 8 => 8 | 9 => 32 | _ => 256

/-- The floating-point format of a VEC format code 0 to 7. -/
def vecFmt : Nat → Fmt
  | 0 => fp32 | 1 => bf16 | 2 => fp16 | 3 => e4m3 | 4 => e5m2 | 5 => e3m2 | 6 => e2m3 | _ => e2m1

/-- R134: elements of an instruction whose operands and results have these format codes. -/
def vecCount (codes : List Nat) : Nat :=
  if codes.any (· = 10) then 16 else if codes.any (fun c => vecBits c = 32) then 128 else 256

/-- R135: the alignment of an access of `len` bytes. -/
def alignOf (len : Nat) : Nat := if 64 ≤ len then 64 else if len ≤ 1 then 1 else 2 ^ (Nat.log2 (len - 1) + 1)

/-- One operand or result: address register, byte offset from its value, length, alignment of the register's value. -/
structure VecAccess where
  reg : Nat
  off : Nat
  len : Nat
  align : Nat
  deriving DecidableEq, Repr

def access (reg len : Nat) : VecAccess := ⟨reg, 0, len, alignOf len⟩

/-- What an instruction names: reads, writes, the registers it advances (once for each), latency, whether its result passes
through the gather buffer, and the random numbers it draws (context, count). -/
structure VecShape where
  reads : List VecAccess
  writes : List VecAccess
  bumps : List Nat
  lat : Nat
  scalar : Bool
  draws : Option (Nat × Nat)
  deriving DecidableEq, Repr

/-- The registers whose increment bit is set, of (register, bit) pairs. -/
def bumpsOf (w : Insn) (l : List (Nat × Nat)) : List Nat :=
  (l.filter fun p => decide (bitsOf w p.2 p.2 = 1)).map (·.1)

/-- R140: whether an operation exists in a format, and which of b and c it uses. -/
def opFits (op fmt : Nat) : Bool :=
  match op with
  | 3 => decide (fmt < 2) | 4 => decide (fmt < 2) | 9 => decide (fmt < 2) | 10 => decide (fmt < 2)
  | 12 => decide (fmt = 2) | 13 => decide (fmt = 2) | 14 => decide (fmt = 2)
  | 15 => decide (fmt = 0) | 16 => decide (fmt = 0) | 17 => decide (fmt = 0)
  | _ => decide (op < 18) && decide (fmt < 3)

def opUsesB (op : Nat) : Bool := op ∈ [0, 1, 2, 3, 4, 5, 6, 10, 12, 13, 14]

def opUsesC (op : Nat) : Bool := op ∈ [3, 4]

/-- VEC.OP's operands. -/
def shapeOp (w : Insn) : Option VecShape :=
  let op := bitsOf w 43 39
  let fmt := bitsOf w 38 37
  if bitsOf w 13 0 ≠ 0 ∨ fmt = 3 ∨ !opFits op fmt then none
  else
    let d := bitsOf w 36 33
    let a := bitsOf w 32 29
    let b := bitsOf w 28 25
    let c := bitsOf w 24 21
    let scalar := decide (15 ≤ op)
    some ⟨[access a 512] ++ (if opUsesB op then [access b 512] else []) ++ (if opUsesC op then [access c 512] else []),
      [access d (if scalar then 4 else 512)],
      bumpsOf w ([(d, 20), (a, 19)] ++ (if opUsesB op then [(b, 18)] else []) ++ (if opUsesC op then [(c, 17)] else [])),
      6, scalar, none⟩

/-- VEC.CVT's operands. -/
def shapeCvt (w : Insn) : Option VecShape :=
  let src := bitsOf w 33 30
  let dst := bitsOf w 29 26
  let rnd := bitsOf w 25 24
  let mx := decide (bitsOf w 8 8 = 1)
  if bitsOf w 1 0 ≠ 0 ∨ 10 < src ∨ 10 < dst ∨ rnd = 3 ∨ (mx = true ∧ (dst < 3 ∨ 8 < dst ∨ src = 10)) then none
  else
    let n := vecCount [src, dst]
    let d := bitsOf w 43 40
    let a := bitsOf w 39 36
    let s := bitsOf w 7 4
    some ⟨[access a (n * vecBits src / 8)],
      [access d (n * vecBits dst / 8)] ++ (if mx then [access s (n / 32)] else []),
      bumpsOf w [(d, 35), (a, 34)] ++ (if mx then [s] else []),
      if src = 10 ∨ dst = 10 then 10 else 6, false, if rnd = 2 then some (bitsOf w 3 2, n) else none⟩

/-- The VEC format code of a FUNC input code. -/
def funcFmt : Nat → Nat | 0 => 0 | 1 => 1 | _ => 3

/-- VEC.FUNC's operands. -/
def shapeFunc (w : Insn) : Option VecShape :=
  let fi := bitsOf w 29 28
  if bitsOf w 26 0 ≠ 0 ∨ fi = 3 then none
  else
    let fo := bitsOf w 27 27
    let n := vecCount [funcFmt fi, fo]
    let d := bitsOf w 43 40
    let a := bitsOf w 39 36
    some ⟨[access a (n * vecBits (funcFmt fi) / 8)], [access d (n * vecBits fo / 8)], bumpsOf w [(d, 35), (a, 34)], 8, false, none⟩

/-- VEC.DFUNC's operands. -/
def shapeDfunc (w : Insn) : Option VecShape :=
  let fx := bitsOf w 25 24
  if bitsOf w 22 0 ≠ 0 ∨ fx = 3 then none
  else
    let fg := bitsOf w 23 23
    let n := vecCount [funcFmt fx, fg]
    let d := bitsOf w 43 40
    let a := bitsOf w 39 36
    let b := bitsOf w 35 32
    some ⟨[access a (n * vecBits (funcFmt fx) / 8), access b (n * vecBits fg / 8)], [access d (n * vecBits fg / 8)],
      bumpsOf w [(d, 31), (a, 30), (b, 29)], 8, false, none⟩

/-- VEC.MASKF's operands. -/
def shapeMaskf (w : Insn) : Option VecShape :=
  if bitsOf w 24 0 ≠ 0 then none
  else
    let n := vecCount [bitsOf w 28 28]
    let d := bitsOf w 43 40
    let a := bitsOf w 39 36
    let m := bitsOf w 35 32
    some ⟨[access a 512], [access d 512, access m (n / 8)], bumpsOf w [(d, 31), (a, 30), (m, 29)], 6, false, none⟩

/-- VEC.MASKB's operands. -/
def shapeMaskb (w : Insn) : Option VecShape :=
  if bitsOf w 24 0 ≠ 0 then none
  else
    let n := vecCount [bitsOf w 28 28]
    let d := bitsOf w 43 40
    let a := bitsOf w 39 36
    let m := bitsOf w 35 32
    some ⟨[access a 512, access m (n / 8)], [access d 512], bumpsOf w [(d, 31), (a, 30), (m, 29)], 6, false, none⟩

/-- VEC.DROP's operands. -/
def shapeDrop (w : Insn) : Option VecShape :=
  if bitsOf w 24 0 ≠ 0 then none
  else
    let d := bitsOf w 43 40
    let a := bitsOf w 39 36
    some ⟨[access a 512], [access d 512], bumpsOf w [(d, 35), (a, 34)], 6, false,
      some (bitsOf w 33 32, vecCount [bitsOf w 31 31])⟩

/-- VEC.LADD's operands. -/
def shapeLadd (w : Insn) : Option VecShape :=
  if bitsOf w 28 0 ≠ 0 then none
  else
    let d := bitsOf w 43 40
    let a := bitsOf w 39 36
    let b := bitsOf w 35 32
    some ⟨[access a 512, access b 512], [access d 512], bumpsOf w [(d, 31), (a, 30), (b, 29)], 10, false, none⟩

/-- The carrier width code of a gradient code (R86). -/
def gradWidth (g : Nat) : Nat := widthOfFmt g

/-- Anchor byte and elements of block k of a carrier group at a register (R87). -/
def blockAccess (reg width k : Nat) : List VecAccess :=
  let sz := carrierBits width / 8
  [⟨reg, k, 1, 64⟩, ⟨reg, 64 + 32 * k * sz, 32 * sz, 64⟩]

/-- VEC.PACK's operands. -/
def shapePack (w : Insn) : Option VecShape :=
  let g := bitsOf w 28 26
  let rnd := bitsOf w 24 23
  if bitsOf w 16 0 ≠ 0 ∨ 4 < g ∨ rnd = 3 then none
  else
    let d := bitsOf w 43 40
    let a := bitsOf w 39 36
    some ⟨[access a (if bitsOf w 25 25 = 1 then 128 else 1024)], blockAccess d (gradWidth g) (bitsOf w 34 29),
      bumpsOf w [(a, 35)], 10, false, if rnd = 2 then some (bitsOf w 22 21, 32) else none⟩

/-- VEC.UNPACK's operands. -/
def shapeUnpack (w : Insn) : Option VecShape :=
  let wd := bitsOf w 28 27
  if bitsOf w 16 0 ≠ 0 ∨ wd = 3 then none
  else
    let d := bitsOf w 43 40
    let a := bitsOf w 39 36
    let fp := decide (bitsOf w 26 26 = 1)
    some ⟨blockAccess a wd (bitsOf w 34 29), [access d (if fp then 128 else 1024)], bumpsOf w [(d, 35)],
      if fp then 6 else 10, false, none⟩

/-- VEC.CADD's operands. -/
def shapeCadd (w : Insn) : Option VecShape :=
  let wd := bitsOf w 25 24
  if bitsOf w 23 0 ≠ 0 ∨ wd = 3 then none
  else
    let k := bitsOf w 31 26
    some ⟨blockAccess (bitsOf w 39 36) wd k ++ blockAccess (bitsOf w 35 32) wd k, blockAccess (bitsOf w 43 40) wd k,
      [], 6, false, none⟩

/-- VEC.HIST's operand. -/
def shapeHist (w : Insn) : Option VecShape :=
  if bitsOf w 33 0 ≠ 0 ∨ bitsOf w 38 37 = 3 then none
  else
    let a := bitsOf w 43 40
    some ⟨[access a 512], [], bumpsOf w [(a, 39)], 6, false, none⟩

/-- VEC.HSTORE's result. -/
def shapeHstore (w : Insn) : Option VecShape :=
  if bitsOf w 25 0 ≠ 0 then none
  else
    let d := bitsOf w 43 40
    if bitsOf w 26 26 = 1 then some ⟨[], [], [], 6, false, none⟩
    else some ⟨[], [access d 128], bumpsOf w [(d, 39)], 6, false, none⟩

/-! ### What the instructions compute -/

/-- Results: the bytes of each write in order, and what the instruction reports. -/
structure VecOut where
  data : List (List Byte)
  nonfinite : Bool
  clamp : Bool
  laOver : Bool
  carOver : Bool
  bins : Option (Nat × List Nat)
  deriving DecidableEq, Repr

def VecOut.of (d : List (List Byte)) : VecOut := ⟨d, false, false, false, false, none⟩

/-- Codes of n packed elements of `bits` bits (R68). -/
def unpackCodes (bits n : Nat) (bs : List Byte) : List Nat :=
  let v := leNat bs
  (List.range n).map fun i => natBits v (bits * i + bits - 1) (bits * i)

/-- Bytes of packed elements (R68). -/
def packCodes (bits : Nat) (cs : List Nat) : List Byte :=
  leBytes (cs.length * bits / 8) (cs.zipIdx.foldl (fun n p => n + p.1 * 2 ^ (bits * p.2)) 0)

/-- The value of an element of a VEC format code 0 to 9. -/
def vecValue (c code : Nat) : FVal :=
  if c ≤ 7 then decodeF (vecFmt c) code
  else
    let k := signed (vecBits c) code
    .num (decide (k < 0)) k.natAbs 0

/-- The value of an LA160 element (R144). R144 makes one with N or V non-finite and does not say which; the model takes a NaN (DESIGN CHOICE,
log 133). -/
def laValue (l : La) : FVal :=
  if l.acc.n || l.acc.o then .nan else .num (decide (l.acc.v.toInt < 0)) l.acc.v.toInt.natAbs (l.anchor - 64)

/-- The values of n elements of a VEC format code. -/
def vecValues (c n : Nat) (bs : List Byte) : List FVal :=
  if c = 10 then (List.range n).map fun i => laValue (laOf ((bs.drop (32 * i)).take 32))
  else (unpackCodes (vecBits c) n bs).map (vecValue c)

/-- A value multiplied by 2^k. -/
def scaleF (x : FVal) (k : Int) : FVal := match x with | .num s m e => .num s m (e + k) | y => y

def isFiniteF : FVal → Bool | .num _ _ _ => true | _ => false

/-- R143, R145: an element converted to a format code 0 to 9, and whether the format could not hold it. -/
def vecConvert (dst : Nat) (r : Rnd) (x : FVal) : Nat × Bool :=
  match x with
  | .num s m e =>
    if dst ≤ 7 then
      (encodeM (vecFmt dst) r (if dst ≤ 2 ∧ r = .near then .toInf else .saturate) s m e, false)
    else
      let bits := vecBits dst
      let k := roundInt r (if s then -(m : Int) else m) e
      (unsigned bits (max (-(2 ^ (bits - 1) : Nat) : Int) (min k ((2 ^ (bits - 1) : Nat) - 1 : Int))), false)
  | .inf s =>
    if dst ≤ 2 then (signCode (vecFmt dst) s (infCode (vecFmt dst)), false)
    else if dst = 3 then (0x7F, true) else if dst = 4 then (0x7E, false) else (0, true)
  | .nan =>
    if dst ≤ 2 then (nanCode (vecFmt dst), false)
    else if dst = 3 then (0x7F, false) else if dst = 4 then (0x7E, false) else (0, true)

/-- R144: an element converted to LA160 at anchor a. -/
def vecToLa (r : Rnd) (a : Int) (x : FVal) : Acc :=
  match x with
  | .num s m e =>
    let v := roundInt r (if s then -(m : Int) else m) (e + 64 - a)
    if v.natAbs < 2 ^ 159 then ⟨BitVec.ofInt 160 v, false, false⟩ else ⟨0, false, true⟩
  | _ => ⟨0, true, false⟩

/-- floor(log2 |x|) of a finite non-zero value. -/
def exponentF : FVal → Int
  | .num _ m e => (Nat.log2 m : Int) + e
  | _ => 0

/-- emax_F of R146 by VEC format code. -/
def emaxOf : Nat → Int
  | 3 => 8 | 4 => 15 | 5 => 4 | 6 => 2 | 7 => 2 | _ => 0

/-- R146: the scale exponent of a block's finite non-zero values, and whether it was clamped at +127. -/
def blockScale (dst : Nat) (xs : List FVal) : Option (Int × Bool) :=
  let es := (xs.filter fun x => isFiniteF x && !isZeroF x).map exponentF
  match es with
  | [] => none
  | e :: t =>
    let s := t.foldl max e - emaxOf dst
    if s < -127 then some (-127, false) else if 127 < s then some (127, true) else some (s, false)

/-- R146: one block of 32 elements with its scale byte: (scale byte, codes, non-finite, clamped). -/
def mxBlock (dst : Nat) (rs : List Rnd) (xs : List FVal) : Nat × List Nat × Bool × Bool :=
  if xs.any (fun x => !isFiniteF x) then (0xFF, xs.map fun _ => 0, true, false)
  else
    match blockScale dst xs with
    | none => (0, List.zipWith (fun r x => (vecConvert dst r x).1) rs xs, false, false)
    | some (s, cl) =>
      let k : Int := if dst = 8 then 6 - s else -s
      ((s + 127).toNat, List.zipWith (fun r x =>
        (vecConvert dst r (scaleF x k)).1) rs xs, false, cl)

/-- Lists of consecutive runs of `k` elements. -/
def chunks {α : Type} (k : Nat) : Nat → List α → List (List α)
  | 0, _ => []
  | n + 1, l => l.take k :: chunks k n (l.drop k)

/-- R158: the random number of an element. -/
def randomU (seed : Nat) (r : RandCtx) (elem : Nat) : Nat :=
  let m := 2 ^ 64
  let k0 := (r.step * 2 ^ 32 + seed) % m
  let k1 := (r.layer * 2 ^ 48 + r.purpose * 2 ^ 40 + elem) % m
  let x := [1, 2, 3, 4].foldl (fun x i =>
    let x := (x + k0 + i * 0x9E3779B97F4A7C15) % m
    let x := Nat.xor x (x >>> 30)
    let x := x * 0xBF58476D1CE4E5B9 % m
    let x := Nat.xor x (x >>> 27)
    let x := x * 0x94D049BB133111EB % m
    Nat.xor x (x >>> 31)) k1
  x >>> 32

/-- The random numbers that n elements of a context draw (R158). -/
def drawList (seed : Nat) (r : RandCtx) (n : Nat) : List Nat :=
  (List.range n).map fun i => randomU seed r (r.base + i)

/-- Rounding modes of n elements. -/
def modesOf (rnd n : Nat) (us : List Nat) : List Rnd :=
  match rnd with
  | 0 => List.replicate n .near
  | 1 => List.replicate n .zero
  | _ => (List.range n).map fun i => .stoch (us.getD i 0)

/-- R140: one floating-point operation on codes of format f; K is an FP32 code. -/
def opFloat (f : Fmt) (op k a b c : Nat) : Nat :=
  let va := decodeF f a
  let vb := decodeF f b
  let vc := decodeF f c
  let vk := decodeF fp32 k
  match op with
  | 0 => addF f va vb
  | 1 => addF f va (negF vb)
  | 2 => rneF f (mulExact va vb)
  | 3 => fmaF f va vb vc
  | 4 => fmaF f va vb (negF vc)
  | 5 => if va = .nan ∨ vb = .nan then nanCode f else if ltF va vb then b else a
  | 6 => if va = .nan ∨ vb = .nan then nanCode f else if ltF vb va then b else a
  | 7 => if va = .nan then nanCode f else a % 2 ^ (f.expBits + f.manBits)
  | 8 => if va = .nan then nanCode f else rneF f (negF va)
  | 9 => rneF f (mulExact vk va)
  | 10 => fmaF f vk va vb
  | _ => if va = .nan then nanCode f else a

/-- R140: one INT32 operation. -/
def opInt (op a b : Nat) : Nat :=
  let x := signed 32 a
  let y := signed 32 b
  let top : Int := 2 ^ 31 - 1
  match op with
  | 0 => unsigned 32 (x + y)
  | 1 => unsigned 32 (x - y)
  | 2 => unsigned 32 (x * y)
  | 5 => unsigned 32 (max x y)
  | 6 => unsigned 32 (min x y)
  | 7 => unsigned 32 (min (if x < 0 then -x else x) top)
  | 8 => unsigned 32 (min (-x) top)
  | 12 => Nat.land a b
  | 13 => Nat.lor a b
  | 14 => Nat.xor a b
  | _ => a

/-- One level of the tree of R141. -/
def treeLevel (f : Nat → Nat → Nat) : List Nat → List Nat
  | a :: b :: t => f a b :: treeLevel f t
  | l => l

/-- The seven levels of the tree of R141. -/
def treeSum (f : Nat → Nat → Nat) (xs : List Nat) : Nat :=
  ((List.range 7).foldl (fun l _ => treeLevel f l) xs).headD 0

def operand (ops : List (List Byte)) (i : Nat) : List Byte := ops.getD i []

/-- VEC.OP (R140 to R142). -/
def computeOp (v : VecOp) (ops : List (List Byte)) : VecOut :=
  let w := v.word
  let op := bitsOf w 43 39
  let fmt := bitsOf w 38 37
  let bits := if fmt = 1 then 16 else 32
  let n := if fmt = 1 then 256 else 128
  let a := unpackCodes bits n (operand ops 0)
  let b := if opUsesB op then unpackCodes bits n (operand ops 1) else a
  let c := if opUsesC op then unpackCodes bits n (operand ops 2) else a
  let k := v.konsts.getD (bitsOf w 16 14) 0
  let add (x y : Nat) : Nat := addF fp32 (decodeF fp32 x) (decodeF fp32 y)
  if op = 15 then .of [leBytes 4 (treeSum add a)]
  else if op = 16 then .of [leBytes 4 (treeSum (opFloat fp32 5 0 · · 0) (a.map fun x => opFloat fp32 11 0 x 0 0))]
  else if op = 17 then .of [leBytes 4 (treeSum add (a.map fun x => opFloat fp32 2 0 x x 0))]
  else
    let f := if fmt = 1 then bf16 else fp32
    .of [packCodes bits ((List.range n).map fun i =>
      let x := a.getD i 0
      let y := b.getD i 0
      if fmt = 2 then opInt op x y else opFloat f op k x y (c.getD i 0))]

/-- VEC.CVT (R143 to R146). -/
def computeCvt (seed : Nat) (v : VecOp) (ops : List (List Byte)) : VecOut :=
  let w := v.word
  let src := bitsOf w 33 30
  let dst := bitsOf w 29 26
  let n := vecCount [src, dst]
  let k := signed 7 (bitsOf w 23 17)
  let xs := (vecValues src n (operand ops 0)).map fun x => scaleF x k
  let us := if bitsOf w 25 24 = 2 then drawList seed (v.rands.getD (bitsOf w 3 2) ⟨0, 0, 0, 0⟩) n else []
  let rs := modesOf (bitsOf w 25 24) n us
  if dst = 10 then
    let a := signed 8 (bitsOf w 16 9)
    let ys := List.zipWith (fun r x => vecToLa r a x) rs xs
    ⟨[(ys.map fun y => laBytes ⟨y, a⟩).flatten], false, false, ys.any (·.o), false, none⟩
  else if bitsOf w 8 8 = 1 then
    let bl := List.zipWith (fun r x => mxBlock dst r x) (chunks 32 (n / 32) rs) (chunks 32 (n / 32) xs)
    ⟨[packCodes (vecBits dst) (bl.map fun b => b.2.1).flatten, bl.map fun b => BitVec.ofNat 8 b.1],
      bl.any (fun b => b.2.2.1), bl.any (fun b => b.2.2.2), false, false, none⟩
  else
    let ys := List.zipWith (fun r x => vecConvert dst r x) rs xs
    ⟨[packCodes (vecBits dst) (ys.map (·.1))], ys.any (·.2), false, false, false, none⟩

/-- A 4-byte word of a function table: slot, table (0 value, 1 derivative), entry, half. -/
def tableWord (slots : Sparse Byte) (slot table i half : Nat) : Nat :=
  leNat (sgetList zeroByte slots (slot * 16448 + 64 + table * 8192 + i * 8 + half * 4) 4)

/-- R152: the entry of a table that x goes through, and where its segment starts; none for a NaN. -/
def tableEntry (emin : Int) (x : FVal) : Option (Nat × Dy) :=
  let half (s : Bool) : Nat := if s then 512 else 0
  match x with
  | .nan => none
  | .inf s => some (half s + 16 * 31, ⟨1, emin + 31⟩)
  | .num s m e =>
    if m = 0 then some (half s, ⟨0, 0⟩)
    else
      let ex := exponentF x
      let k : Nat := if ex < emin + 1 then 0 else min 31 (ex - emin).toNat
      if k = 0 then
        let j := m * pow2 (e - (emin - 3)) / pow2 ((emin - 3) - e)
        some (half s + j, ⟨(j : Int), emin - 3⟩)
      else if k = 31 then some (half s + 16 * 31, ⟨1, emin + 31⟩)
      else
        let j := m * pow2 (e - (emin + k - 4)) / pow2 ((emin + k - 4) - e) - 16
        some (half s + 16 * k + j, ⟨16 + (j : Int), emin + k - 4⟩)

/-- emin of a table (R151). -/
def tableMin (slots : Sparse Byte) (slot table : Nat) : Int := signed 8 (sget zeroByte slots (slot * 16448 + table)).toNat

/-- R152, R154: a table applied to x, rounded once to format f. On a segment's start the result is y0, with no interpolation. Where the spec
states no value the model takes +0 for an exactly zero sum and a NaN for a NaN slope under an infinite input (DESIGN CHOICE, log 134). -/
def tableApply (slots : Sparse Byte) (slot table : Nat) (f : Fmt) (x : FVal) : Nat :=
  match tableEntry (tableMin slots slot table) x with
  | none => nanCode f
  | some (i, start) =>
    let y0 := decodeF fp32 (tableWord slots slot table i 0)
    let slope := decodeF fp32 (tableWord slots slot table i 1)
    match x with
    | .num _ m e =>
      let d := dyAdd ⟨(m : Int), e⟩ (dyNeg start)
      if d.m = 0 then rneF f y0 else addF f (mulExact slope (.num false d.m.natAbs d.e)) y0
    | _ =>
      if isZeroF slope then rneF f y0 else if slope = .nan then nanCode f
      else signCode f (signF slope != decide (512 ≤ i)) (infCode f)

/-- VEC.FUNC (R153). -/
def computeFunc (slots : Sparse Byte) (v : VecOp) (ops : List (List Byte)) : VecOut :=
  let w := v.word
  let fi := funcFmt (bitsOf w 29 28)
  let fo := bitsOf w 27 27
  let n := vecCount [fi, fo]
  .of [packCodes (vecBits fo) ((vecValues fi n (operand ops 0)).map
    (tableApply slots (bitsOf w 33 31) (bitsOf w 30 30) (vecFmt fo)))]

/-- VEC.DFUNC (R153). -/
def computeDfunc (slots : Sparse Byte) (v : VecOp) (ops : List (List Byte)) : VecOut :=
  let w := v.word
  let fx := funcFmt (bitsOf w 25 24)
  let fg := bitsOf w 23 23
  let n := vecCount [fx, fg]
  let xs := vecValues fx n (operand ops 0)
  let gs := vecValues fg n (operand ops 1)
  .of [packCodes (vecBits fg) (List.zipWith (fun x g =>
    rneF (vecFmt fg) (mulExact g (decodeF fp32 (tableApply slots (bitsOf w 28 26) 1 fp32 x)))) xs gs)]

/-- Bits packed eight to a byte, element 0 lowest (R156). -/
def packBits (bs : List Bool) : List Byte := packCodes 1 (bs.map fun b => if b then 1 else 0)

/-- VEC.MASKF (R156). -/
def computeMaskf (v : VecOp) (ops : List (List Byte)) : VecOut :=
  let w := v.word
  let fmt := bitsOf w 28 28
  let f := vecFmt fmt
  let n := vecCount [fmt]
  let k := decodeF fp32 (v.konsts.getD (bitsOf w 27 25) 0)
  let cs := unpackCodes (vecBits fmt) n (operand ops 0)
  let pos (c : Nat) : Bool := ltF (.num false 0 0) (decodeF f c)
  .of [packCodes (vecBits fmt) (cs.map fun c => if pos c then c else rneF f (mulExact k (decodeF f c))),
    packBits (cs.map pos)]

/-- VEC.MASKB (R156). -/
def computeMaskb (v : VecOp) (ops : List (List Byte)) : VecOut :=
  let w := v.word
  let fmt := bitsOf w 28 28
  let f := vecFmt fmt
  let n := vecCount [fmt]
  let k := decodeF fp32 (v.konsts.getD (bitsOf w 27 25) 0)
  let cs := unpackCodes (vecBits fmt) n (operand ops 0)
  let ms := unpackCodes 1 n (operand ops 1)
  .of [packCodes (vecBits fmt) (List.zipWith (fun c m => if m = 1 then c else rneF f (mulExact k (decodeF f c))) cs ms)]

/-- R159: the threshold of a keep probability. -/
def dropThreshold (p : FVal) : Nat :=
  match p with
  | .num false m e => min (2 ^ 32) (m * pow2 (e + 32) / pow2 (-(e + 32)))
  | .inf false => 2 ^ 32
  | _ => 0

/-- VEC.DROP (R159). -/
def computeDrop (seed : Nat) (v : VecOp) (ops : List (List Byte)) : VecOut :=
  let w := v.word
  let fmt := bitsOf w 31 31
  let f := vecFmt fmt
  let n := vecCount [fmt]
  let t := dropThreshold (decodeF fp32 (v.konsts.getD (bitsOf w 30 28) 0))
  let s := decodeF fp32 (v.konsts.getD (bitsOf w 27 25) 0)
  let us := drawList seed (v.rands.getD (bitsOf w 33 32) ⟨0, 0, 0, 0⟩) n
  .of [packCodes (vecBits fmt) (List.zipWith (fun x u => if u < t then rneF f (mulExact x s) else 0)
    (vecValues fmt n (operand ops 0)) us)]

/-- The LA160 elements of bytes. -/
def laList (n : Nat) (bs : List Byte) : List La := (List.range n).map fun i => laOf ((bs.drop (32 * i)).take 32)

/-- R147: the exact sum of two LA160 elements at the smaller anchor, and whether V is newly set (R78): the model counts a V as new where neither
operand has it, whatever the addition does (DESIGN CHOICE, log 135). -/
def laAdd (a b : La) : La × Bool :=
  let c := min a.anchor b.anchor
  let x := reanchor a.acc a.anchor c
  let y := reanchor b.acc b.anchor c
  let s := add160 x y.v.toInt
  (⟨⟨s.v, x.n || y.n, s.o || y.o⟩, c⟩, (s.o || y.o) && !(a.acc.o || b.acc.o))

/-- VEC.LADD (R147). -/
def computeLadd (_v : VecOp) (ops : List (List Byte)) : VecOut :=
  let rs := List.zipWith laAdd (laList 16 (operand ops 0)) (laList 16 (operand ops 1))
  ⟨[(rs.map fun r => laBytes r.1).flatten], false, false, rs.any (·.2), false, none⟩

/-- R160: the bin of a value under base b. -/
def histBin (b : Int) (x : FVal) : Nat :=
  match x with
  | .num _ m _ =>
    if m = 0 then 0
    else
      let e := exponentF x
      if e ≤ b then 1 else if e < b + 30 then (e - b + 1).toNat else 31
  | _ => 31

/-- VEC.PACK (R148). A block whose finite elements are not all zero keeps the anchor c = s where its elements all round to zero, at the clamped
s = -127 too: R148 takes +127 by the source elements and R88 by the block's (DESIGN CHOICE, log 136). -/
def computePack (seed : Nat) (v : VecOp) (ops : List (List Byte)) : VecOut :=
  let w := v.word
  let g := bitsOf w 28 26
  let dst := g + 3
  let wd := gradWidth g
  let xs := vecValues (if bitsOf w 25 25 = 1 then 0 else 10) 32 (operand ops 0)
  let us := if bitsOf w 24 23 = 2 then drawList seed (v.rands.getD (bitsOf w 22 21) ⟨0, 0, 0, 0⟩) 32 else []
  let rs := modesOf (bitsOf w 24 23) 32 us
  let bad := xs.any fun x => !isFiniteF x
  let hset := bitsOf w 20 18
  let bins := if bitsOf w 17 17 = 1 then some (hset, xs.map (histBin (v.bases.getD hset 0))) else none
  match blockScale dst xs with
  | none => ⟨[[BitVec.ofNat 8 127], zeroBytes (32 * (carrierBits wd / 8))], bad, false, false, false, bins⟩
  | some (s, cl) =>
    let es := List.zipWith (fun r x =>
      if isFiniteF x then
        let d := dyOf (decodeF (vecFmt dst) (vecConvert dst r (scaleF x (-s))).1)
        d.m * pow2 (d.e + carrierF wd)
      else 0) rs xs
    ⟨[[BitVec.ofNat 8 (unsigned 8 s)], blockElemBytes wd ⟨s, es⟩], bad, cl, false, false, bins⟩

/-- VEC.UNPACK (R149). -/
def computeUnpack (v : VecOp) (ops : List (List Byte)) : VecOut :=
  let w := v.word
  let wd := bitsOf w 28 27
  let sz := carrierBits wd / 8
  let c := signed 8 (leNat (operand ops 0))
  let es := (List.range 32).map fun i => signed (carrierBits wd) (leAt (operand ops 1) (sz * i) sz)
  if bitsOf w 26 26 = 1 then
    let r : Rnd := if bitsOf w 17 17 = 1 then .zero else .near
    .of [(es.map fun e => leBytes 4 (encodeM fp32 r (if r = .near then .toInf else .saturate) (decide (e < 0)) e.natAbs
      (c - carrierF wd))).flatten]
  else
    let a := signed 8 (bitsOf w 25 18)
    let ys := es.map fun e => reanchor (put160 (e * pow2 (64 - carrierF wd)) false false) c a
    ⟨[(ys.map fun y => laBytes ⟨y, a⟩).flatten], false, false, ys.any (·.o), false, none⟩

/-- VEC.CADD (R150). -/
def computeCadd (v : VecOp) (ops : List (List Byte)) : VecOut :=
  let wd := bitsOf v.word 25 24
  let sz := carrierBits wd / 8
  let blk (i : Nat) : Block := ⟨signed 8 (leNat (operand ops i)),
    (List.range 32).map fun j => signed (carrierBits wd) (leAt (operand ops (i + 1)) (sz * j) sz)⟩
  let (b, ovf) := blockAdd wd (blk 0) (blk 2)
  ⟨[[BitVec.ofNat 8 (unsigned 8 b.anchor)], blockElemBytes wd b], false, false, false, ovf, none⟩

/-- VEC.HIST (R160). A counting instruction bins with the base as it stood at its issue, also where an HSTORE loads a new base before the
contribution is added (DESIGN CHOICE, log 137). -/
def computeHist (v : VecOp) (ops : List (List Byte)) : VecOut :=
  let w := v.word
  let fmt := match bitsOf w 38 37 with | 2 => 10 | k => k
  let hset := bitsOf w 36 34
  let xs := vecValues fmt (vecCount [fmt]) (operand ops 0)
  ⟨[], false, false, false, false, some (hset, xs.map (histBin (v.bases.getD hset 0)))⟩

/-- The operands of a VEC instruction by opcode; none where its encoding is illegal (R167). -/
def vecShape (w : Insn) : Option VecShape :=
  match bitsOf w 63 56 with
  | 0x30 => shapeOp w | 0x31 => shapeCvt w | 0x32 => shapeFunc w | 0x33 => shapeDfunc w
  | 0x34 => shapeMaskf w | 0x35 => shapeMaskb w | 0x36 => shapeDrop w | 0x37 => shapeLadd w
  | 0x38 => shapePack w | 0x39 => shapeUnpack w | 0x3A => shapeCadd w | 0x3B => shapeHist w
  | _ => none

/-- The result of a VEC instruction by opcode. -/
def vecCompute (seed : Nat) (slots : Sparse Byte) (v : VecOp) (ops : List (List Byte)) : VecOut :=
  match bitsOf v.word 63 56 with
  | 0x30 => computeOp v ops
  | 0x31 => computeCvt seed v ops
  | 0x32 => computeFunc slots v ops
  | 0x33 => computeDfunc slots v ops
  | 0x34 => computeMaskf v ops
  | 0x35 => computeMaskb v ops
  | 0x36 => computeDrop seed v ops
  | 0x37 => computeLadd v ops
  | 0x38 => computePack seed v ops
  | 0x39 => computeUnpack v ops
  | 0x3A => computeCadd v ops
  | _ => computeHist v ops

/-! ### The checks of integer paths, registers and tables (R163) -/

/-- Where the integer results of an instruction stand: the write, the bytes of an element that are checked, the distance of elements, and
whether they are LA160 elements. -/
def intPath (w : Insn) : Option (Nat × Nat × Nat × Bool) :=
  match bitsOf w 63 56 with
  | 0x30 => if bitsOf w 38 37 = 2 ∧ bitsOf w 43 39 ≤ 1 then some (0, 4, 4, false) else none
  | 0x37 => some (0, 20, 32, true)
  | 0x39 => if bitsOf w 26 26 = 1 then none else some (0, 20, 32, true)
  | 0x3A => let sz := carrierBits (bitsOf w 25 24) / 8; some (1, sz, sz, false)
  | _ => none

/-- The result bytes of an integer path with the inversions of its datapath, and whether the residue of an element that counts differs from
the residue its operands give (R163). A residue is of the element's bytes as R128 forms it; a sum that wraps (R140) carries no mismatch. -/
def flipped (flips : Sparse Nat) (n step : Nat) (la : Bool) (bs : List Byte) : List Byte × Bool :=
  flips.foldl (fun acc q =>
    let o := step * q.1
    let old := leAt acc.1 o n
    let new := Nat.xor old (q.2 % 2 ^ (8 * n))
    if bs.length < o + n then acc
    else
      let v := la && (laOf (bytesAt bs o 32)).acc.o
      let res (k : Nat) : Int := signed (8 * n) k % 255
      (overlay acc.1 o (leBytes n new), acc.2 || (!v && decide (res old ≠ res new)))) (bs, false)

/-- An instruction's results as the integer datapath gives them, and whether their check fails (DEDUCED, log 155). -/
def intResult (flips : Sparse Nat) (w : Insn) (data : List (List Byte)) : List (List Byte) × Bool :=
  match intPath w with
  | none => (data, false)
  | some (k, n, step, la) =>
    let (bs, bad) := flipped flips n step la (data.getD k [])
    (data.set k bs, bad)

/-- The constant registers an instruction reads. -/
def konstsOf (w : Insn) : List Nat :=
  match bitsOf w 63 56 with
  | 0x30 => if bitsOf w 43 39 = 9 ∨ bitsOf w 43 39 = 10 then [bitsOf w 16 14] else []
  | 0x34 => [bitsOf w 27 25]
  | 0x35 => [bitsOf w 27 25]
  | 0x36 => [bitsOf w 30 28, bitsOf w 27 25]
  | _ => []

/-- The table entries an instruction goes through. -/
def entriesOf (slots : Sparse Byte) (w : Insn) (ops : List (List Byte)) : List VecReg :=
  let entries (slot table fi n : Nat) : List VecReg := ((vecValues fi n (operand ops 0)).filterMap
    (tableEntry (tableMin slots slot table))).map fun p => .entry slot table p.1
  match bitsOf w 63 56 with
  | 0x32 => let fi := funcFmt (bitsOf w 29 28); entries (bitsOf w 33 31) (bitsOf w 30 30) fi (vecCount [fi, bitsOf w 27 27])
  | 0x33 => let fx := funcFmt (bitsOf w 25 24); entries (bitsOf w 28 26) 1 fx (vecCount [fx, bitsOf w 23 23])
  | _ => []

/-- The registers and table entries whose parity an instruction checks: those it reads, its histogram counters included. -/
def VecShape.checked (s : VecShape) (slots : Sparse Byte) (w : Insn) (ops : List (List Byte)) (bins : Option (Nat × List Nat)) :
    List VecReg :=
  (s.reads ++ s.writes).map (fun a => .addr a.reg) ++ (konstsOf w).map .konst ++
    (match s.draws with | some (k, _) => [.rand k] | none => []) ++
    (match bins with | some (k, bs) => bs.map fun b => .hist (k * 32 + b) | none => []) ++ entriesOf slots w ops

/-- A VecReg that is a function-table entry. -/
def VecReg.isEntry : VecReg → Bool | .entry _ _ _ => true | _ => false

/-- Parity of what an instruction reads (R163): a failure raises E_VEC_CHECK and fails the shot; after one of a table entry the slots are
loaded again before the rerun. -/
def Stall.parityCheck (st : Stall) (x tack : Nat) (used : List VecReg) : Stall :=
  let bad := st.vec.badRegs.filter fun r => used.contains r
  if bad.isEmpty then st
  else
    let st := if bad.any fun r => !r.isEntry then st.vecBit 30 else st
    let st : Stall := if bad.any VecReg.isEntry then { st.vecBit 29 with vec := { (st.vecBit 29).vec with reload := true } } else st
    st.raise Ev.vecCheck x tack true

/-- A register is written: its parity is good again. -/
def Vec.wrote (v : Vec) (r : VecReg) : Vec := { v with badRegs := v.badRegs.filter fun q => decide (q ≠ r) }

/-! ### Issue and completion -/

/-- The address of an access, from the registers at issue. -/
def Vec.addrOf (v : Vec) (a : VecAccess) : Nat := ((sget zeroAddr v.va a.reg).base + a.off) % spdSize

/-- R135: whether the registers are aligned for every access. -/
def Vec.aligned (v : Vec) (as : List VecAccess) : Bool :=
  as.all fun a => decide ((sget zeroAddr v.va a.reg).base % a.align = 0)

/-- The instruction as its operands are read: addresses and small registers as at issue (R135, R139). -/
def Vec.capture (v : Vec) (w : Insn) (c wid tack : Nat) (as : List VecAccess) : VecOp :=
  ⟨w, c, as.map fun a => (v.addrOf a, a.len), (List.range 8).map (sget zeroNat v.vk),
    (List.range 4).map (sget zeroRand v.rand), (List.range 8).map (sget zeroInt v.histBase), wid, tack⟩

/-- Register advances and context advances of an instruction (R135, R158). -/
def VecShape.after (s : VecShape) : List Change :=
  s.bumps.map Change.bump ++ (match s.draws with | some (x, n) => [.randStep x n] | none => [])

/-- The lane under check in cycle x (R164). -/
def laneAt (x : Nat) : Nat := x / 4096 % 128

/-- A VEC instruction issues in cycle c: the checker drives no pattern in it (R164). -/
def Vec.issued (v : Vec) (c : Nat) : Vec :=
  { v with
    lastIssue := some c
    issues := if v.lastIssue = some c then v.issues else smod zeroNat v.issues (laneAt c) fun n => (n + 1) % 1024 }

/-- The pattern pointer of lane k at cycle x (R164): the cycles before x in which the lane was under check and no VEC instruction issued,
modulo 1,024. Resets fall on multiples of 524,288 cycles, each of which drives every lane a multiple of 1,024 times. -/
def Vec.pattern (v : Vec) (k x : Nat) : Nat := (1024 + min 4096 (x % 524288 - 4096 * k) - sget zeroNat v.issues k % 1024) % 1024

/-- Issue of a VEC instruction with operands and a result (R134 to R136). -/
def issueVec (sh : Option VecShape) (st : Stall) (c : Nat) (w : Insn) (tack : Nat) : Issue :=
  match sh with
  | none => .illegal
  | some s =>
    if !st.vec.aligned (s.reads ++ s.writes) then .illegal
    else if st.crestBars c then .inconsistent
    else
      let (st, wid) := st.newWid
      let vec := { st.vec with
        now := st.vec.now ++ [st.vec.capture w c wid tack s.reads]
        changes := st.vec.changes ++ s.after.map fun x => (c + 1, x)
        busyTo := max st.vec.busyTo (c + s.lat) }
      let st : Stall := { st with vec := vec.issued c }
      .done (s.writes.foldl (fun st a => st.addTag c (c + s.lat) (st.vec.addrOf a) a.len wid) st)

/-- R155: whether a function slot may be used. -/
def Vec.slotReady (v : Vec) (n : Nat) : Bool := decide (n ∈ v.valid) && !(v.loading.any fun l => l.1 = n)

/-- VEC.FUNC at c: skipped as inconsistent while its slot is loading or not valid (R155). -/
def issueFunc (st : Stall) (c : Nat) (w : Insn) (tack : Nat) : Issue :=
  match issueVec (shapeFunc w) st c w tack with
  | .done st' => if st.vec.slotReady (bitsOf w 33 31) then .done st' else .inconsistent
  | r => r

/-- VEC.DFUNC at c (R155). -/
def issueDfunc (st : Stall) (c : Nat) (w : Insn) (tack : Nat) : Issue :=
  match issueVec (shapeDfunc w) st c w tack with
  | .done st' => if st.vec.slotReady (bitsOf w 28 26) then .done st' else .inconsistent
  | r => r

/-- VEC.HSTORE at c (R161). -/
def issueHstore (st : Stall) (c : Nat) (w : Insn) (tack : Nat) : Issue :=
  match shapeHstore w with
  | none => .illegal
  | some s =>
    if !st.vec.aligned s.writes then .illegal
    else if st.crestBars c then .inconsistent
    else
      let (st, wid) := st.newWid
      let addr := match s.writes with | a :: _ => st.vec.addrOf a | [] => 0
      let vec : Vec := { st.vec with
        pstore := st.vec.pstore ++ [⟨c + 4, w, addr, wid, tack, c⟩]
        changes := st.vec.changes ++ s.after.map fun x => (c + 1, x)
        busyTo := max st.vec.busyTo (c + 6) }
      let st : Stall := { st with vec := vec.issued c }
      .done (s.writes.foldl (fun st a => st.addTag c (c + 6) (st.vec.addrOf a) a.len wid) st)

/-- A change of a small register at the next cycle (R139). -/
def issueChange (st : Stall) (c : Nat) (x : Change) : Issue :=
  if st.crestBars c then .inconsistent
  else .done { st with vec := Vec.issued { st.vec with changes := st.vec.changes ++ [(c + 1, x)] } c }

/-- VEC.SETA at c. -/
def issueSeta (st : Stall) (c : Nat) (w : Insn) (_tack : Nat) : Issue :=
  issueChange st c (.addr (bitsOf w 43 40) ⟨bitsOf w 39 18, signed 18 (bitsOf w 17 0)⟩)

/-- VEC.SETK at c. -/
def issueSetk (st : Stall) (c : Nat) (w : Insn) (_tack : Nat) : Issue :=
  if bitsOf w 40 32 ≠ 0 then .illegal else issueChange st c (.konst (bitsOf w 43 41) (bitsOf w 31 0))

/-- Width of a VEC.SETR field. -/
def setrWidth : Nat → Nat | 0 => 40 | 1 => 16 | 2 => 8 | _ => 32

/-- VEC.SETR at c (R157, R167). -/
def issueSetr (st : Stall) (c : Nat) (w : Insn) (_tack : Nat) : Issue :=
  let f := bitsOf w 41 40
  let v := bitsOf w 39 0
  if 2 ^ setrWidth f ≤ v then .illegal else issueChange st c (.randField (bitsOf w 43 42) f v)

/-- Field f of a random context set (R157). -/
def RandCtx.put (f v : Nat) (r : RandCtx) : RandCtx :=
  match f with | 0 => { r with base := v } | 1 => { r with layer := v } | 2 => { r with purpose := v } | _ => { r with step := v }

/-- A change that takes effect in cycle y (R105, R135, R139, R157, R158, R225). -/
def Stall.apply (st : Stall) (y : Nat) (x : Change) : Stall :=
  match x with
  | .addr i r => { st with vec := ({ st.vec with va := sset zeroAddr st.vec.va i r } : Vec).wrote (.addr i) }
  | .bump i => { st with vec := ({ st.vec with va := smod zeroAddr st.vec.va i fun r =>
      { r with base := (((r.base : Int) + r.step) % (spdSize : Int)).toNat } } : Vec).wrote (.addr i) }
  | .konst i v => { st with vec := ({ st.vec with vk := sset zeroNat st.vec.vk i v } : Vec).wrote (.konst i) }
  | .randField k f v => { st with vec := ({ st.vec with rand := smod zeroRand st.vec.rand k (RandCtx.put f v) } : Vec).wrote (.rand k) }
  | .randStep k n => { st with vec := ({ st.vec with rand := smod zeroRand st.vec.rand k fun r =>
      { r with base := (r.base + n) % 2 ^ 40 } } : Vec).wrote (.rand k) }
  | .shape s w fp =>
    let (st, era) := if fp = st.ope.fp then (st, 0) else st.newWid
    let o := st.ope
    { st with ope :=
      if fp = o.fp then { o with shape := s, window := w }
      else if fp then { o with shape := s, window := w, fp := true, fpacc := [], fpEra := era }
      else { o with shape := s, window := w, fp := false, acc := [], laEra := era } }
  | .slotLoad n => { st with vec := { st.vec with loading := st.vec.loading ++ [(n, y)] } }
  | .fmt e v => { st with tack := { st.tack with fmtPend := sset zeroNat st.tack.fmtPend e v } }
  | .clear t a =>
    let (st, skip) := st.ymAnchor y t a
    if skip then (st.countSkip y .inconsistent noTack 0xE5).engineSkip 2 else st

/-- The read requests of the VEC instructions of a cycle: one for each operand, ranked in operand order. -/
def VecOp.requests (v : VecOp) : List ReadReq :=
  v.addrs.zipIdx.map fun p => plainRead (rankVec + p.2) v.tack v.wid true p.1.1 p.1.2

/-- A VEC instruction has read its operands: its checks and events, its histogram counts and its writes. Only a scalar result goes through the
gather buffer; the 4 scale bytes of a CVT of 128 elements are no scalar result and go to the banks (DESIGN CHOICE, log 138). -/
def Stall.vecTake (st : Stall) (x : Nat) (v : VecOp) (ops : List (List (Byte × Bool))) : Stall :=
  match vecShape v.word with
  | none => st
  | some s =>
    let raw := ops.map fun o => o.map (·.1)
    let out := vecCompute st.seed st.vec.slots v raw
    let fin := x + s.lat
    let st := st.parityCheck x v.tack (s.checked st.vec.slots v.word raw out.bins)
    let (data, bad) := intResult st.vec.intFlips v.word out.data
    let st := if bad then (st.vecBit 30).raise Ev.vecCheck fin v.tack true else st
    let st := if out.nonfinite then (st.vecBit 28).raiseOnce Ev.vecNonfinite fin v.tack false else st
    let st := if out.clamp then (st.vecBit 27).raiseOnce Ev.vecScaleClamp fin v.tack false else st
    let st := if out.laOver then (st.opeBit 28).raise Ev.laOverflow fin v.tack true else st
    let st := if out.carOver then st.raise Ev.carrierOverflow fin v.tack true else st
    let st := match out.bins with
      | some (h, bs) => { st with vec := { st.vec with phist := st.vec.phist ++ [⟨fin, h, bs⟩] } }
      | none => st
    data.zipIdx.foldl (fun st p =>
      match (s.writes.zip (st.spd.tags.filter fun t => t.wid = v.wid && t.issue = x))[p.2]? with
      | some (_, t) =>
        st.queueWrite ⟨fin, x, rankVec, v.wid, v.tack, if s.scalar then 1 else 0, t.addr, p.1⟩
      | none => st) st

/-- Histogram contributions and HSTORE samples of cycle x (R161): contributions first. -/
def Stall.histograms (st : Stall) (x : Nat) : Stall :=
  let due := st.vec.phist.filter fun p => p.fin = x
  let v := { st.vec with phist := st.vec.phist.filter fun p => p.fin ≠ x }
  let v := due.foldl (fun (v : Vec) p => p.bins.foldl (fun (v : Vec) b =>
    let old := sget zeroNat v.hist (p.set * 32 + b)
    let new := min 0xFFFFFFFF (old + 1)
    let v := if new = 0xFFFFFFFF then { v with err := orBit v.err 26 } else v
    { v with hist := sset zeroNat v.hist (p.set * 32 + b) new }) v) v
  let hs := v.pstore.filter fun p => p.fin = x
  let st : Stall := { st with vec := { v with pstore := v.pstore.filter fun p => p.fin ≠ x } }
  hs.foldl (fun (st : Stall) p =>
    let k := bitsOf p.word 38 36
    let bytes := ((List.range 32).map fun b => leBytes 4 (sget zeroNat st.vec.hist (k * 32 + b))).flatten
    let st := st.parityCheck x p.tack ((List.range 32).map fun b => .hist (k * 32 + b))
    let st := if bitsOf p.word 26 26 = 1 then st
      else st.queueWrite ⟨x + 2, p.issue, rankVec, p.wid, p.tack, 0, p.addr, bytes⟩
    if bitsOf p.word 35 35 = 1 then
      { st with vec := { st.vec with
        hist := (List.range 32).foldl (fun m b => sset zeroNat m (k * 32 + b) 0) st.vec.hist
        badRegs := st.vec.badRegs.filter fun r => match r with | .hist j => decide (j / 32 ≠ k) | _ => true
        histBase := sset zeroInt st.vec.histBase k (signed 8 (bitsOf p.word 34 27)) } }
    else st) st

/-- LANE_SELFTEST (R164): what the checker finds in cycle x, of the lane k under check: in a cycle without a VEC issue against the lane's
next pattern, otherwise against the lane's work. -/
def Stall.laneSelftest (st : Stall) (x : Nat) (agree : Bool) : Stall :=
  if agree then st
  else
    let e := st.vec.err
    let st : Stall := { st with vec := { st.vec with err := if natBit e 31 then e else setBits (orBit e 31) 6 0 (laneAt x) } }
    st.raise Ev.vecLaneFault x noTack true

/-- R138, R157: what every shot begin clears. -/
def Vec.shotBegin (v : Vec) (step : Nat) : Vec :=
  { v with
    va := [], vk := [], hist := [], histBase := []
    rand := (List.range 4).foldl (fun m k => sset zeroRand m k ⟨step % 2 ^ 32, 0, 0, 0⟩) []
    badRegs := v.badRegs.filter VecReg.isEntry
    changes := [], now := [], phist := [], pstore := [], skipped := 0 }

end Sys2Proof.Machine
end

