-- ==== Sys2Proof/Machine/Clock.lean ====
section
/-!
DEFINITION. Program order and fetch (07), and the stall's clock: what one core cycle does in a stall, and running a stall up to
a cycle.
-/
namespace Sys2Proof.Machine

/-! ### Check bits (R202) -/

/-- The number of bits set among the low n bits of v. -/
def popCount : Nat → Nat → Nat
  | 0, _ => 0
  | n + 1, v => v % 2 + popCount n (v / 2)

/-- What a fetch makes of a stored word: the word it uses and the outcome of its check bits (R202). -/
def TackWord.read (t : TackWord) : Insn × FetchCheck :=
  let raw : Insn := t.word ^^^ BitVec.ofNat 64 t.flips.toNat
  match popCount 72 t.flips.toNat with
  | 0 => (t.word, .good)
  | 1 => (t.word, .corrected)
  | 2 => (raw, .bad)
  | _ =>
    let o := Config.tackOutcome t.word t.flips
    if o = 0 then (raw, .bad) else if o = 1 then (Config.tackMiscorrect t.word t.flips, .corrected) else (raw, .good)

/-- A bank of the tack. -/
def Tack.bank (t : Tack) (b : Bool) : Sparse TackWord := if b then t.bank1 else t.bank0

/-- The stored word at an index of the active bank. -/
def Tack.at_ (t : Tack) (i : Nat) : TackWord := sget zeroTack (t.bank t.active) i

/-! ### Program order (R203 to R206) -/

def opcodeOf (w : Insn) : Nat := bitsOf w 63 56

def deltaOf (w : Insn) : Nat := bitsOf w 55 44

/-- The class of an opcode by its range alone (R197): 0 CTL to 5 STR, 6 none. -/
def classOf (op : Nat) : Nat := min (op / 16) 6

/-- R209, R223: whether a CTL or SYN word at index i is legal. -/
def ctlLegal (i : Nat) (w : Insn) : Bool :=
  match opcodeOf w with
  | 0x00 => decide (bitsOf w 43 0 = 0)
  | 0x01 => decide (bitsOf w 43 0 = 0)
  | 0x02 => decide (bitsOf w 43 32 = 0) && decide (bitsOf w 31 0 ≠ 0)
  | 0x03 => decide (bitsOf w 30 0 = 0)
  | 0x04 => decide (bitsOf w 14 0 = 0) && decide (i < bitsOf w 43 31)
  | 0x05 => decide (bitsOf w 30 0 = 0)
  | 0x06 => decide (bitsOf w 43 0 = 0)
  | 0x07 =>
    let k := bitsOf w 37 36
    let wd := match k with | 0 => 3 | 1 => 2 | _ => 4
    decide (bitsOf w 29 0 = 0) && decide (k < 3) && decide (bitsOf w 35 30 + wd ≤ 44)
  | 0x08 => decide (bitsOf w 27 0 = 0)
  | 0x09 => decide (bitsOf w 27 0 = 0)
  | 0x10 => decide (bitsOf w 35 0 = 0)
  | _ => false

/-- The innermost loop opened at the present call depth (R204). -/
def Course.inner (c : Course) : Option Loop := c.loops.find? fun l => l.depth = c.rets.length

/-- R204, R205: whether a control instruction is consistent with the loops and the return stack. -/
def Course.allows (c : Course) (w : Insn) : Bool :=
  match opcodeOf w with
  | 0x03 => match c.inner with
    | some l => decide (l.first ≤ bitsOf w 43 31 ∧ bitsOf w 43 31 ≤ l.last)
    | none => true
  | 0x04 => decide (c.loops.length < 4) && (match c.inner with
    | some l => decide (bitsOf w 43 31 ≤ l.last)
    | none => true)
  | 0x05 => decide (c.rets.length < 4)
  | 0x06 => decide (c.rets ≠ [])
  | _ => true

/-- Falling through from index i: the loop-backs of the loops whose last index is i (R204). -/
def fallLoops (i depth : Nat) : List Loop → Nat × List Loop
  | [] => (i + 1, [])
  | l :: t =>
    if l.depth = depth ∧ l.last = i then
      if 0 < l.left then (l.first, { l with left := l.left - 1 } :: t) else fallLoops i depth t
    else (i + 1, l :: t)

/-- The course after the instruction w at its index, taken or skipped. -/
def Course.step (c : Course) (w : Insn) (skip : Bool) : Course :=
  let i := c.index
  let (n, ls) := fallLoops i c.rets.length c.loops
  if skip then ⟨n, ls, c.rets⟩
  else
    match opcodeOf w with
    | 0x03 => ⟨bitsOf w 43 31, c.loops, c.rets⟩
    | 0x04 => ⟨i + 1, ⟨i + 1, bitsOf w 43 31, bitsOf w 30 15, c.rets.length⟩ :: c.loops, c.rets⟩
    | 0x05 => ⟨bitsOf w 43 31, ls, n :: c.rets⟩
    | 0x06 => match c.rets with
      | r :: t => ⟨r, c.loops.filter (fun l => l.depth ≠ c.rets.length), t⟩
      | [] => ⟨n, ls, []⟩
    | _ => ⟨n, ls, c.rets⟩

/-! ### Fetch (R216) -/

/-- Whether the fetcher takes a word as skipped. -/
def fetchSkips (c : Course) (w : Insn) (k : FetchCheck) : Bool :=
  decide (k = .bad) || !ctlLegal c.index w || !c.allows w

/-- Fetches up to n instructions in cycle x; a taken transfer ends the group. -/
def fetchGroup (t : Tack) (x : Nat) : Nat → Course → List Fetched → Course × List Fetched × Bool
  | 0, c, q => (c, q, true)
  | n + 1, c, q =>
    if 8192 ≤ c.index then (c, q, false)
    else
      let (w, k) := (t.at_ c.index).read
      let skip := fetchSkips c w k
      let q := q ++ [⟨c.index, x, w, k⟩]
      let c' := c.step w skip
      if opcodeOf w = 0x01 ∧ !skip then (c', q, false)
      else if c'.index = c.index + 1 then fetchGroup t x n c' q
      else (c', q, true)

/-- Instructions that took a place in cycle x: their queue entries are free from the next cycle. -/
def Seq.issuedAt (s : Seq) (x : Nat) : Nat := if s.placeCycle = x then s.places.length else 0

/-- The fetch of cycle x, with its tack errors (R202, R216). -/
def Stall.fetchCycle (st : Stall) (x : Nat) : Stall :=
  let s := st.seq
  if !s.fetchOn || decide (x < s.fetchAt) || decide (s.state ≠ .running) then st
  else
    let room := min 4 (512 - (s.queue.length + s.issuedAt x))
    let (c, q, on) := fetchGroup st.tack x room s.fetch []
    let st : Stall := { st with seq := { s with fetch := c, queue := s.queue ++ q, fetchOn := on } }
    q.foldl (fun st f =>
      if f.check = .corrected then
        let t := st.tack.firstBad f.index
        let t := if Ev.tackCorrected ∈ st.once then t else t.flag 30
        let t : Tack := { t with err := setBits t.err 15 0 (min 0xFFFF (t.err % 2 ^ 16 + 1)) }
        ({ st with tack := t } : Stall).raiseOnce Ev.tackCorrected x f.index false
      else if f.check = .bad then { st with tack := st.tack.firstBad f.index }
      else st) st

/-! ### Context save and restore (R230, R231) -/

/-- Line `l` of the context block as 64 bytes. -/
def lineOf (bs : List Byte) : List Byte := bytesAt bs 0 64

/-- The step index of a descriptor at cycle c: the steps of a pass under way that have not been read are taken off. -/
def Ope.indexAt (o : Ope) (n c : Nat) : Nat :=
  let d := o.desc n
  let left := o.passes.foldl (fun m p =>
    if (p.col.desc = n ∧ p.col.gen = d.gen) ∨ (p.row.desc = n ∧ p.row.gen = d.gen) then
      let cyc := p.groups.length
      let read := if c ≤ p.issue then 0 else (if p.dual then 2 else 1) * ((c - p.issue + cyc - 1) / cyc)
      m + (p.steps - min p.steps read)
    else m) 0
  d.index - left

/-- The 24 lines of the context block as the state stands at cycle c (R230). -/
def Stall.contextBlock (st : Stall) (c : Nat) : List Byte :=
  let va (i : Nat) : List Byte :=
    let r := sget zeroAddr st.vec.va i
    leBytes 4 r.base ++ leBytes 4 (unsigned 32 r.step)
  let rnd (i : Nat) : List Byte :=
    let r := sget zeroRand st.vec.rand i
    leBytes 4 r.step ++ leBytes 2 r.layer ++ leBytes 1 r.purpose ++ [0] ++ leBytes 5 r.base ++ zeroBytes 3
  let l01 := ((List.range 16).map va).flatten
  let l2 := lineOf (((List.range 8).map fun i => leBytes 4 (sget zeroNat st.vec.vk i)).flatten
    ++ ((List.range 8).map fun i => BitVec.ofNat 8 (unsigned 8 (sget zeroInt st.vec.histBase i))))
  let l3 := ((List.range 4).map rnd).flatten
  let l45 := ((List.range 8).map fun i => leBytes 16 (st.ope.desc i).active).flatten
  let l6 := lineOf ((List.range 8).map fun i => leBytes 4 (st.ope.indexAt i c)).flatten
  let hist := ((List.range 256).map fun k => leBytes 4 (sget zeroNat st.vec.hist k)).flatten
  l01 ++ l2 ++ l3 ++ l45 ++ l6 ++ zeroBytes 64 ++ hist

/-- The whole state written back from a context block (R231). -/
def Stall.putContext (st : Stall) (bs : List Byte) : Stall :=
  let va := (List.range 16).foldl (fun m i =>
    sset zeroAddr m i ⟨leAt bs (8 * i) 4 % 2 ^ 22, signed 18 (leAt bs (8 * i + 4) 4)⟩) st.vec.va
  let vk := (List.range 8).foldl (fun m i => sset zeroNat m i (leAt bs (128 + 4 * i) 4)) st.vec.vk
  let hb := (List.range 8).foldl (fun m i => sset zeroInt m i (signed 8 (leAt bs (160 + i) 1))) st.vec.histBase
  let rnd := (List.range 4).foldl (fun m i =>
    let b := 192 + 16 * i
    sset zeroRand m i ⟨leAt bs b 4, leAt bs (b + 4) 2, leAt bs (b + 6) 1, leAt bs (b + 8) 5⟩) st.vec.rand
  let descs := (List.range 8).foldl (fun m i =>
    smod zeroDesc m i fun d =>
      let v := leAt bs (256 + 16 * i) 16
      ⟨v, v, leAt bs (384 + 4 * i) 4, d.gen + 1, []⟩) st.ope.descs
  let hist := (List.range 256).foldl (fun m k => sset zeroNat m k (leAt bs (512 + 4 * k) 4)) st.vec.hist
  { st with
    vec := { st.vec with
      va := va, vk := vk, histBase := hb, rand := rnd, hist := hist, badRegs := st.vec.badRegs.filter VecReg.isEntry }
    ope := { st.ope with descs := descs } }

/-! ### One cycle -/

/-- R248: a swap of the bytes of each aligned word. -/
def swapWords (swap : Nat) : List Byte → List Byte
  | a :: b :: c :: d :: t =>
    (match swap with
      | 0 => [a, b, c, d]
      | 1 => [b, a, d, c]
      | 2 => [c, d, a, b]
      | _ => [d, c, b, a]) ++ swapWords swap t
  | l => l

/-- A read of the cycle and what it is for. -/
inductive Reader where
  | pass (i : Nat) (r : FeedRead)
  | desc (n : Nat)
  | move (r : Nat)
  | vec (i : Nat)
  | copy (u : Nat)
  | crest (u : Nat)
  | piece (id : Nat)
  | pony (wid : Nat)
  deriving DecidableEq, Repr

/-- Every read access that the stall issues in cycle x, with its reader. -/
def Stall.readsAt (st : Stall) (x : Nat) : List (Reader × ReadReq) :=
  let passes := (st.ope.passes.zipIdx.map fun p => (st.passReads x p.1).map fun r => (Reader.pass p.2 r.1, r.2)).flatten
  let descs := st.ope.loads.map fun l => (Reader.desc l.1, plainRead rankMove l.2.2 0 false l.2.1 16)
  let move := match st.ope.move with
    | some m =>
      let first := match m.kind with | .preload => m.issue | _ => m.issue + 2
      if (m.kind = .preload ∨ m.kind = .restore) ∧ first ≤ x ∧ x < first + m.rows then
        [(Reader.move (x - first), (⟨rankMove, m.tack, 0, false, m.source (x - first)⟩ : ReadReq))]
      else []
    | none => []
  let vecs := (st.vec.now.zipIdx.map fun v => v.1.requests.map fun r => (Reader.vec v.2, r)).flatten
  let copies := match st.spd.copy with
    | some c =>
      if !c.fill && decide (c.issue ≤ x ∧ x < c.issue + c.lines) then
        [(Reader.copy (x - c.issue), plainRead rankSpd c.tack 0 true (((c.src + (x - c.issue)) % 65536) * 64) 64)]
      else []
    | none => []
  let crests := match st.seq.ctx with
    | some k =>
      if !k.save && decide (k.issue ≤ x ∧ x < k.issue + 24) then
        [(Reader.crest (x - k.issue), plainRead rankSpd k.tack 0 true (((k.line + (x - k.issue)) % 65536) * 64) 64)]
      else []
    | none => []
  let pieces := (st.str.flying.filter fun f => f.write && decide (f.issue = x) && f.data.isNone).map fun f =>
    (Reader.piece f.id, (⟨rankStr, (sget zeroCtx st.str.ctxs f.ctx).startTack, 0, true, f.body.locs.map fun a => (a, 64)⟩ : ReadReq))
  let ponies := (st.pony.queue.filter fun p => decide (p.issue = x)).map fun p =>
    (Reader.pony p.wid, plainRead rankStr p.tack 0 true p.src p.len)
  passes ++ descs ++ move ++ vecs ++ copies ++ crests ++ pieces ++ ponies

/-- The reads of a cycle with what they delivered. -/
abbrev Got := List (Reader × List (Byte × Bool))

/-- The bytes that a reader's reads delivered, read by read. -/
def Got.bytes (got : Got) (f : Reader → Bool) : List (List Byte) :=
  (got.filter fun g => f g.1).map fun g => g.2.map fun b => b.1

/-- The passes take their reads of cycle x. -/
def Stall.takePasses (st : Stall) (x : Nat) (got : Got) : Stall :=
  let step (acc : Stall × List Pass) (p : Pass × Nat) : Stall × List Pass :=
    if x - p.1.issue < p.1.cycles then
      let mine := got.filterMap fun g => match g.1 with
        | .pass i r => if i = p.2 then some (r, g.2) else none
        | _ => none
      let (st, q) := acc.1.passTake x p.1 mine
      (st, acc.2 ++ [q])
    else acc
  let (st, passes) := st.ope.passes.zipIdx.foldl step (st, [])
  { st with ope := { st.ope with passes := passes.filter fun p => decide (x + 1 < p.issue + p.cycles) } }

/-- Descriptors read in cycle x reach the shadow copies, and become active at x + 5 (R106). -/
def Stall.takeDescs (st : Stall) (x : Nat) (got : Got) : Stall :=
  let load (m : Sparse Desc) (g : Reader × List (Byte × Bool)) : Sparse Desc :=
    match g.1 with
    | .desc n =>
      let v := leNat (g.2.map fun b => b.1)
      smod zeroDesc m n fun d => { d with shadow := v, coming := d.coming ++ [(x + 5, v)] }
    | _ => m
  { st with ope := { st.ope with loads := [], descs := got.foldl load st.ope.descs } }

/-- The source row of a preload or restore read in cycle x (R116, R121). -/
def Stall.takeMove (st : Stall) (x : Nat) (got : Got) : Stall :=
  match st.ope.move with
  | none => st
  | some m =>
    let take (st : Stall) (g : Reader × List (Byte × Bool)) : Stall :=
      match g.1 with
      | .move r =>
        let bs := g.2.map fun b => b.1
        let row := { m.convert st.ope r bs with fin := x + 4 }
        let anchors := if m.kind = .restore ∧ r % 64 = 0 then sset zeroInt st.ope.anchors (r / 64) (laOf (bs.take 32)).anchor
          else st.ope.anchors
        { st with ope := { st.ope with rows := st.ope.rows ++ [row], anchors := anchors } }
      | _ => st
    got.foldl take st

/-- The VEC instruction of cycle x has its operands (R136). -/
def Stall.takeVec (st : Stall) (x : Nat) (got : Got) : Stall :=
  let now := st.vec.now
  let st : Stall := { st with vec := { st.vec with now := [] } }
  let take (st : Stall) (v : VecOp × Nat) : Stall :=
    st.vecTake x v.1 ((got.filter fun g => decide (g.1 = .vec v.2)).map fun g => g.2)
  now.zipIdx.foldl take st

/-- The source line of a COPY read in cycle x is written at x + 6 (R192). -/
def Stall.takeCopy (st : Stall) (x : Nat) (got : Got) : Stall :=
  match st.spd.copy with
  | none => st
  | some c =>
    let take (st : Stall) (g : Reader × List (Byte × Bool)) : Stall :=
      match g.1 with
      | .copy u =>
        st.queueWrite ⟨x + 6, c.issue, rankSpd, c.wid, c.tack, 0, (c.dst + u) % 65536 * 64, g.2.map fun b => b.1⟩
      | _ => st
    got.foldl take st

/-- The line of a context block read in cycle x (R231). -/
def Stall.takeCrest (st : Stall) (got : Got) : Stall :=
  match st.seq.ctx with
  | none => st
  | some k =>
    let bs := (got.bytes fun r => match r with | .crest _ => true | _ => false).flatten
    if k.save then st else
      let k' := { k with data := k.data ++ bs }
      { st with seq := { st.seq with ctx := some k' } }

/-- Source data of write pieces and pony transfers (R247, R264). -/
def Stall.takeSources (st : Stall) (got : Got) : Stall :=
  let piece (f : Flying) : Flying :=
    match got.bytes (fun r => decide (r = .piece f.id)) with
    | d :: _ => { f with data := some (swapWords f.swap d) }
    | [] => f
  let pony (p : Pony) : Pony :=
    match got.bytes (fun r => decide (r = .pony p.wid)) with
    | d :: _ => { p with bytes := d }
    | [] => p
  { st with
    str := { st.str with flying := st.str.flying.map piece }
    pony := { st.pony with queue := st.pony.queue.map pony } }

/-- Phase 5 of a cycle: the reads issued in x, taken by their readers. -/
def Stall.doReads (st : Stall) (x : Nat) : Stall :=
  let reqs := st.readsAt x
  let (st, outs) := st.readAll x (reqs.map fun r => r.2)
  let got : Got := (reqs.map fun r => r.1).zip outs
  let st := st.takePasses x got
  let st := st.takeDescs x got
  let st := st.takeMove x got
  let st := st.takeVec x got
  let st := st.takeCopy x got
  let st := st.takeCrest got
  st.takeSources got

/-- End of cycle x: what takes effect from cycle x + 1 on. -/
def Stall.close (st : Stall) (x : Nat) : Stall :=
  let st := st.endMove (x + 1)
  let due := st.vec.changes.filter fun c => decide (c.1 ≤ x + 1)
  let st : Stall := { st with vec := { st.vec with changes := st.vec.changes.filter fun c => decide (x + 1 < c.1) } }
  let st := due.foldl (fun st c => st.apply (x + 1) c.2) st
  let st : Stall := { st with
    ope := { st.ope with
      descs := (List.range 8).foldl (fun m n =>
        match (sget zeroDesc m n).coming.find? (fun c => decide (c.1 ≤ x + 1)) with
        | some c => smod zeroDesc m n fun d =>
          { d with active := c.2, index := 0, gen := d.gen + 1, coming := d.coming.filter fun k => decide (x + 1 < k.1) }
        | none => m) st.ope.descs
      flights := st.ope.flights.filter fun f => decide (x < f.lastAdd + 4) }
    spd := { st.spd with
      tags := st.spd.tags.filter fun t => decide (x < t.fin)
      copy := match st.spd.copy with
        | some c => if x + 1 < c.issue + c.lines + (if c.fill then 1 else 5) then some c else none
        | none => none } }
  match st.seq.ctx with
  | some k =>
    if k.save then (if k.issue + 25 ≤ x then { st with seq := { st.seq with ctx := none } } else st)
    else if k.issue + 27 ≤ x then { st.putContext k.data with seq := { st.seq with ctx := none } } else st
  | none => st

/-- One core cycle of a stall: accumulator updates, completing writes, histogram counts, accumulator samples, reads, fetch. -/
def Stall.tick (st : Stall) : Stall :=
  let x := st.clk
  let st := st.accumulate x
  let st := st.finishWrites x
  let st := st.histograms x
  let st := st.sample x
  let st := st.doReads x
  let st := st.fetchCycle x
  { st.close x with clk := x + 1 }

/-- Whether nothing changes in the stall with the passing of a cycle but that tags of the scoreboard end. -/
def Stall.quiet (st : Stall) : Bool :=
  st.spd.writes.isEmpty && st.spd.copy.isNone && st.ope.adds.isEmpty && st.ope.rows.isEmpty &&
  st.ope.move.isNone && st.ope.passes.isEmpty && st.ope.loads.isEmpty && st.ope.flights.isEmpty &&
  (st.ope.descs.all fun d => d.2.coming.isEmpty) && st.vec.changes.isEmpty && st.vec.now.isEmpty &&
  st.vec.phist.isEmpty && st.vec.pstore.isEmpty && st.seq.ctx.isNone &&
  (st.str.flying.all fun f => !f.write || f.data.isSome) && (st.pony.queue.all fun p => decide (p.offer ≤ st.clk)) &&
  (!st.seq.fetchOn || decide (512 ≤ st.seq.queue.length) || decide (st.seq.state ≠ .running))

/-- Runs a stall until every cycle before x is complete; `fuel` bounds the number of cycles. -/
def Stall.runFor : Nat → Nat → Stall → Stall
  | 0, _, st => st
  | n + 1, x, st =>
    if x ≤ st.clk then st
    else if st.quiet then { st with clk := x, spd := { st.spd with tags := st.spd.tags.filter fun t => decide (x ≤ t.fin) } }
    else Stall.runFor n x st.tick

/-- A stall with every cycle before x complete. -/
def Stall.runTo (st : Stall) (x : Nat) : Stall := Stall.runFor (x - st.clk) x st

end Sys2Proof.Machine
end

