-- ==== Sys2Proof/Machine/StreamEngine.lean ====
section
/-!
DEFINITION. Stream programs and contexts of a stall, and the STR instructions (08).
-/
namespace Sys2Proof.Machine

/-! ### Descriptors and programs (R234, R239, R240) -/

def sdMemBase (d : List Byte) : Nat := leAt d 0 6
def sdLo (d : List Byte) : Nat := leAt d 6 6
def sdHi (d : List Byte) : Nat := leAt d 12 6
def sdLocal (d : List Byte) : Nat := leAt d 18 3 % spdSize
def sdProgram (d : List Byte) : Nat := leAt d 21 1 % 32
def sdWrite (d : List Byte) : Bool := natBit (leAt d 22 1) 0
def sdFmtEn (d : List Byte) : Bool := natBit (leAt d 22 1) 1
def sdFmtEntry (d : List Byte) : Nat := leAt d 23 1 % 64
def sdBudget (d : List Byte) : Nat := leAt d 24 2
def sdDistance (d : List Byte) : Nat := leAt d 26 2
def sdPartner (d : List Byte) : Nat := leAt d 28 1 % 8

/-- The words before the first END. -/
def beforeEnd : List Nat → List Nat
  | [] => []
  | w :: t => if natBits w 31 28 = 7 then [] else w :: beforeEnd t

/-- The words of a program, at most 16 with its END (R239). -/
def progBody (ws : List Nat) : List Nat := beforeEnd (ws.take 16)

/-- The words of a program with an opcode. -/
def progOp (ws : List Nat) (op : Nat) : List Nat := (progBody ws).filter fun w => natBits w 31 28 = op

/-- The LOOP word of a level. -/
def loopWord (ws : List Nat) (k : Nat) : Option Nat := (progOp ws 1).find? fun w => natBits w 27 25 = k

def loopCount (ws : List Nat) (k : Nat) : Nat := match loopWord ws k with | some w => natBits w 24 8 + 1 | none => 1

def loopGap (ws : List Nat) (k : Nat) : Nat := match loopWord ws k with | some w => natBits w 7 0 | none => 0

/-- The STRIDE of a level and cursor in bytes, carrier groups being `u` lines (R241). -/
def strideOf (ws : List Nat) (u k cursor : Nat) : Int :=
  match (progOp ws 2).find? fun w => natBits w 27 25 = k && natBits w 24 24 = cursor with
  | some w => signed 23 (natBits w 22 0) * (if natBit w 23 then 64 * u else 64 : Nat)
  | none => 0

/-- The EMIT word. -/
def emitWord (ws : List Nat) : Nat := (progOp ws 3).headD 0

def emitGroup (ws : List Nat) : Bool := natBit (emitWord ws) 8

def emitLines (ws : List Nat) (u : Nat) : Nat := if emitGroup ws then u else natBits (emitWord ws) 27 23 + 1

def emitPace (ws : List Nat) : Nat := natBits (emitWord ws) 22 11 + 1

def emitSwap (ws : List Nat) : Nat := natBits (emitWord ws) 10 9

/-- log2 of the buffer of a WRAP on a cursor. -/
def wrapOf (ws : List Nat) (cursor : Nat) : Option Nat :=
  ((progOp ws 4).find? fun w => natBits w 27 27 = cursor).map fun w => natBits w 26 22

/-- The MARK of a kind: level and signed offset. -/
def markOf (ws : List Nat) (kind : Nat) : Option (Nat × Int) :=
  ((progOp ws 6).find? fun w => natBits w 27 27 = kind).map fun w => (natBits w 26 24, signed 16 (natBits w 23 8))

/-- R243: whether the emit with these indices is skipped. -/
def skipsEmit (ws : List Nat) (ix : List Nat) : Bool :=
  (progOp ws 5).any fun w =>
    let i := ix.getD (natBits w 27 25) 0
    decide (natBits w 24 13 ≤ i ∧ i ≤ natBits w 24 13 + natBits w 12 1)

/-- Reserved bits of a program word are zero and its fields lie in their ranges (R239). -/
def wordOk (w : Nat) : Bool :=
  match natBits w 31 28 with
  | 1 => decide (natBits w 27 25 ≤ 5)
  | 2 => decide (natBits w 27 25 ≤ 5)
  | 3 => decide (natBits w 7 0 = 0) && (!natBit w 8 || decide (natBits w 27 23 = 0))
  | 4 => decide (natBits w 21 0 = 0) &&
      decide (8 ≤ natBits w 26 22 ∧ natBits w 26 22 ≤ (if natBits w 27 27 = 1 then 22 else 30))
  | 5 => decide (natBits w 27 25 ≤ 5) && decide (natBits w 0 0 = 0)
  | 6 => decide (natBits w 26 24 ≤ 5) && decide (natBits w 7 0 = 0) &&
      (natBit w 27 || decide (natBits w 23 8 = 0))
  | _ => false

/-- No value occurs twice. -/
def distinct : List Nat → Bool
  | [] => true
  | a :: t => decide (a ∉ t) && distinct t

/-- R240: a well-formed program, for a descriptor with fmt_en as given. -/
def progOk (ws : List Nat) (fmtEn : Bool) : Bool :=
  let b := progBody ws
  let named (w : Nat) : Bool := (loopWord ws (natBits w 27 25)).isSome
  (ws.take 16).any (fun w => natBits w 31 28 = 7) && b.all wordOk &&
  decide ((progOp ws 3).length = 1) &&
  distinct ((progOp ws 1).map fun w => natBits w 27 25) &&
  distinct ((progOp ws 2).map fun w => natBits w 27 24) &&
  distinct ((progOp ws 4).map fun w => natBits w 27 27) &&
  decide ((progOp ws 5).length ≤ 4) &&
  distinct ((progOp ws 6).map fun w => natBits w 27 27) &&
  (progOp ws 2).all named && (progOp ws 5).all named &&
  (progOp ws 6).all (fun w => (loopWord ws (natBits w 26 24)).isSome) &&
  (fmtEn || (!(progOp ws 2).any (fun w => natBit w 23) && !emitGroup ws))

/-! ### Emits and pieces (R241 to R245) -/

/-- R242: an address confined to the aligned block of 2^w bytes that holds the cursor's base. -/
def wrapAddr (w : Option Nat) (base : Nat) (x : Int) : Int :=
  match w with
  | none => x
  | some k =>
    let b : Int := ((base / 2 ^ k * 2 ^ k : Nat) : Int)
    b + (x - b) % ((2 ^ k : Nat) : Int)

/-- The memory and local line addresses of an emit with indices `ix`. -/
def Ctx.emitLinesOf (c : Ctx) (ix : List Nat) : List (Nat × Nat) :=
  let sum (cursor : Nat) : Int := (List.range 6).foldl (fun a k =>
    a + (ix.getD k 0 : Int) * strideOf c.prog c.unit k cursor) 0
  (List.range (emitLines c.prog c.unit)).map fun (i : Nat) =>
    ((wrapAddr (wrapOf c.prog 0) c.base ((c.base : Int) + sum 0 + 64 * (i : Int)) % (2 ^ 48 : Int)).toNat,
     (wrapAddr (wrapOf c.prog 1) c.loc ((c.loc : Int) + sum 1 + 64 * (i : Int)) % (spdSize : Int)).toNat)

/-- R245: lines cut into pieces at 2 KiB boundaries and at wrap points of the memory cursor. -/
def cutPieces : List (Nat × Nat) → List Piece
  | [] => []
  | a :: t =>
    match t, cutPieces t with
    | b :: _, p :: ps =>
      if b.1 = a.1 + 64 ∧ b.1 % 2048 ≠ 0 then ⟨a.1 :: p.mems, a.2 :: p.locs⟩ :: ps else ⟨[a.1], [a.2]⟩ :: p :: ps
    | _, ps => ⟨[a.1], [a.2]⟩ :: ps

/-- The indices of the next emit in nested order, i0 fastest, and the levels whose iteration ends with the present one;
none after the last emit. -/
def nextIx (ws : List Nat) : Nat → List Nat → List Nat → Option (List Nat) × List Nat
  | _, [], done => (none, done)
  | k, i :: t, done =>
    if i + 1 < loopCount ws k then (some (List.replicate k 0 ++ (i + 1) :: t), done ++ [k])
    else nextIx ws (k + 1) t (done ++ [k])

/-- Insertion into a rising list. -/
def insertNat (a : Nat) : List Nat → List Nat
  | [] => [a]
  | b :: t => if a ≤ b then a :: b :: t else b :: insertNat a t

/-- The cycle at which a context's mark count reaches m (R244). -/
def Ctx.markCycle (c : Ctx) (m : Int) : Option Nat :=
  if m ≤ 0 then some 0 else (c.posts.foldr insertNat [])[m.toNat - 1]?

/-- The mark count at cycle x. -/
def Ctx.marksAt (c : Ctx) (x : Nat) : Nat := (c.posts.filter fun p => decide (p ≤ x)).length

/-- The emit at a walk's position ends: time and indices move on, and a completed iteration of the posting level posts in the cycle of its
last request, or of its last emit slot where it issued none (R244). -/
def Ctx.advance (c : Ctx) : Ctx :=
  let w := c.walk
  let (nx, ended) := nextIx c.prog 0 w.ix []
  let gap := ended.foldl (fun g k => g + loopGap c.prog k) 0
  let posts := match markOf c.prog 0 with
    | some (k, _) => if k ∈ ended then c.posts ++ [if c.iterFin = 0 then w.t else c.iterFin] else c.posts
    | none => c.posts
  let iterFin := match markOf c.prog 0 with
    | some (k, _) => if k ∈ ended then 0 else c.iterFin
    | none => c.iterFin
  let t := w.t + emitPace c.prog + gap
  { c with
    posts := posts
    iterFin := iterFin
    walk := match nx with
      | some ix => ⟨ix, w.n + 1, t, [], 0, false, false⟩
      | none => { w with n := w.n + 1, t := t, pieces := [], p := 0, opened := false, closed := true } }

/-- The present emit opened at its cycle: awaits (R244), skips (R243), pieces; `partner` is the context whose marks it awaits.
None while an await holds it. -/
def Ctx.openEmit (c : Ctx) (partner : Ctx) : Option Ctx :=
  if c.walk.closed || c.walk.opened then some c
  else
    let w := c.walk
    let fresh (k : Nat) : Bool := (List.range k).all fun j => decide (w.ix.getD j 0 = 0)
    let t? : Option Nat := match markOf c.prog 1 with
      | some (k, off) =>
        if fresh k then (partner.markCycle ((w.ix.getD k 0 : Int) + off)).map fun m => max w.t (1 + m) else some w.t
      | none => some w.t
    t?.map fun t =>
      if skipsEmit c.prog w.ix then Ctx.advance { c with walk := { w with t := t } }
      else { c with walk := { w with t := t, pieces := cutPieces (c.emitLinesOf w.ix), p := 0, opened := true } }

/-- Skipped emits passed over, at most `fuel` of them. -/
def Ctx.openNext : Nat → Ctx → Ctx → Option Ctx
  | 0, c, _ => some c
  | n + 1, c, partner =>
    match c.openEmit partner with
    | none => none
    | some c' => if c'.walk.closed || c'.walk.opened then some c' else Ctx.openNext n c' partner

/-- Emits that are skipped passed over, as far as awaits and a HALT allow (R236, R243, R244). -/
def Ctx.passSkips : Nat → Ctx → Ctx → Ctx
  | 0, c, _ => c
  | n + 1, c, partner =>
    let held := match c.halted with | some h => decide (h < c.walk.t) | none => false
    if held then c
    else
      match c.openEmit partner with
      | none => c
      | some c' => if c'.walk.closed || c'.walk.opened then c' else Ctx.passSkips n c' partner

/-- The next emit of a walk that is not skipped. -/
def Ctx.nextAhead : Nat → Ctx → Walk → Option Walk
  | 0, _, _ => none
  | k + 1, c, w =>
    if w.closed then none
    else if skipsEmit c.prog w.ix then
      match nextIx c.prog 0 w.ix [] with
      | (some ix, _) => Ctx.nextAhead k c { w with ix := ix, n := w.n + 1 }
      | (none, _) => none
    else some w

/-- Emits of a program. -/
def progEmits (ws : List Nat) : Nat := (List.range 6).foldl (fun n k => n * loopCount ws k) 1

/-- The context with its next piece ready: the piece and its cycle. -/
def Ctx.nextPiece (c : Ctx) (partner : Ctx) : Option (Ctx × Piece × Nat) :=
  match c.openNext (progEmits c.prog + 1 - c.walk.n) partner with
  | none => none
  | some c =>
    match c.walk.pieces with
    | p :: _ => if c.walk.closed then none else some (c, p, c.walk.t + c.walk.p)
    | [] => none

/-- The piece at the head has issued and finishes at `fin` (its source sample, for a write's mark, at `mark`). -/
def Ctx.took (c : Ctx) (fin mark : Nat) : Ctx :=
  let w := c.walk
  let w' := { w with pieces := w.pieces.drop 1, p := w.p + 1 }
  let c := { c with iterFin := max c.iterFin mark, lastFin := max c.lastFin fin, walk := w' }
  if c.walk.pieces.isEmpty then c.advance else c

/-! ### The contexts of a stall -/

def Streams.ctx (s : Streams) (n : Nat) : Ctx := sget zeroCtx s.ctxs n

def Stall.ctx (st : Stall) (n : Nat) : Ctx := st.str.ctx n

def Stall.setCtx (st : Stall) (n : Nat) (c : Ctx) : Stall :=
  { st with str := { st.str with ctxs := sset zeroCtx st.str.ctxs n c } }

/-- Whether no request is left to issue: every emit has been generated, or those left are all skipped (R236, R243). -/
def Ctx.spent (c : Ctx) : Bool :=
  c.walk.closed || (!c.walk.opened && (c.nextAhead (progEmits c.prog + 1) c.walk).isNone)

/-- R236: a context with nothing left to issue is active up to the cycle in which its last request finishes. -/
def Ctx.endCycle (c : Ctx) : Option Nat :=
  match c.endAt with
  | some e => some e
  | none =>
    match c.halted with
    | some h => some (max h c.lastFin)
    | none => if c.spent then some (max c.lastFin c.start) else none

/-- Whether a context is active at cycle x (R236). -/
def Ctx.activeAt (c : Ctx) (x : Nat) : Bool :=
  decide (c.state = .active) && (match c.endCycle with | some e => decide (x ≤ e) | none => true)

/-- Pages that a run promoted and that no demand piece used (R256). -/
def Ctx.unusedPages (c : Ctx) : Nat := (c.pages.filter fun p => p.ready && !p.touched).length

/-- A context whose last request has finished before x leaves the active state: it posts no more marks (R244), and counts the promotions
still under way as dropped and those no piece used as wasted (R255, R256). -/
def Ctx.settle (c : Ctx) (x : Nat) : Ctx :=
  if c.state = .active ∧ !c.activeAt x then
    { c with
      state := if c.cause = 0 then .ended else .fault
      posts := c.posts.filter fun p => match c.endCycle with | some e => decide (p ≤ e) | none => true
      dropped := satAdd 0xFFFF c.dropped (c.pages.filter fun p => !p.ready).length
      wasted := satAdd 0xFFFF c.wasted c.unusedPages }
  else c

/-- Every context settled at x. -/
def Stall.settleCtxs (st : Stall) (x : Nat) : Stall :=
  (List.range 8).foldl (fun st n => st.setCtx n ((st.ctx n).settle x)) st

/-- Sets a flag of STL_STR_ERR, and first_ctx when no flag was set. -/
def Stall.strBit (st : Stall) (i n : Nat) : Stall :=
  let e := st.str.err
  let e := if natBits e 31 26 = 0 then setBits e 2 0 n else e
  { st with str := { st.str with err := orBit e i } }

/-- The position of a piece in its run: emit and number in it. -/
def Ctx.place (c : Ctx) : Nat × Nat := (c.walk.n, c.walk.p)

/-- R257, R258: context n ends by fault at cycle x with a cause, at a place (emit, piece): of the reads it has issued those of that place
and later ones are discarded at their landing; its issued writes complete. -/
def Stall.endFault (st : Stall) (n cause x : Nat) (place : Nat × Nat) : Stall :=
  let c := st.ctx n
  let c := { c with
    cause := cause
    emit := place.1
    piece := place.2
    walk := { c.walk with closed := true, pieces := [], opened := false }
    ahead := { c.ahead with closed := true }
    posts := c.posts.filter fun p => decide (p ≤ x)
    endAt := some (max x c.lastFin) }
  let st := st.setCtx n c
  let from_ (f : Flying) : Bool := decide (place.1 < f.emit ∨ (place.1 = f.emit ∧ place.2 ≤ f.piece))
  let flying := st.str.flying.map fun f => if f.ctx = n && !f.write && from_ f then { f with drop := true } else f
  { st with str := { st.str with flying := flying } }

/-- Contexts that await the marks of those in `bad`, directly or through others (R258). -/
def Stall.awaiters (st : Stall) (x : Nat) : Nat → List Nat → List Nat
  | 0, bad => bad
  | k + 1, bad =>
    let more := (List.range 8).filter fun n =>
      let c := st.ctx n
      c.activeAt x && (markOf c.prog 1).isSome && decide (sdPartner c.raw ∈ bad) && decide (n ∉ bad)
    if more.isEmpty then bad else Stall.awaiters st x k (bad ++ more)

/-- R257, R258: a fault of context n at a place and the ends of the contexts linked to it. -/
def Stall.ctxFault (st : Stall) (n cause x : Nat) (place : Nat × Nat) : Stall :=
  let linked := (st.awaiters x 8 [n]).filter (· ≠ n)
  linked.foldl (fun st k => st.endFault k 6 x (st.ctx k).place) (st.endFault n cause x place)

/-- R255: the promotions of a run that are under way are cancelled and counted as dropped. -/
def Ctx.cancel (c : Ctx) : Ctx :=
  let gone := c.pages.filter fun p => !p.ready
  { c with
    cancelled := c.cancelled ++ gone.map fun p => p.page
    pages := c.pages.filter fun p => p.ready
    dropped := satAdd 0xFFFF c.dropped gone.length }

/-! ### STR instructions -/

/-- The duration of a run without waits: from the START to the end of its last request (R262). -/
def Ctx.ideal (c : Ctx) : Nat :=
  2 + progEmits c.prog * emitPace c.prog + max 832 (sdBudget c.raw) +
  (List.range 6).foldl (fun n k =>
    n + loopGap c.prog k * ((List.range 6).foldl (fun m j => if k ≤ j then m * loopCount c.prog j else m) 1)) 0

/-- STR.START at c (R235 to R241). -/
def issueStart (e : StallEnv) (st : Stall) (c : Nat) (w : Insn) (tack : Nat) : Issue :=
  let n := bitsOf w 43 41
  let k := bitsOf w 40 35
  let serving := decide (bitsOf w 34 34 = 1)
  let req := bitsOf w 33 26
  match e.profile.descs.find? (fun d => d.1 = k) with
  | none => .illegal
  | some (_, d) =>
    if bitsOf w 25 0 ≠ 0 ∨ (serving = false ∧ req ≠ 0) then .illegal
    else if (st.ctx n).activeAt c || (st.str.serial && (List.range 8).any fun m => (st.ctx m).activeAt c) then .inconsistent
    else
      let st := st.settleCtxs c
      let old := st.ctx n
      let prog := match e.profile.progs.find? (fun p => p.1 = sdProgram d) with | some p => p.2 | none => []
      let u := carrierLines (widthOfFmt (sget zeroNat st.tack.fmt (sdFmtEntry d)))
      let mv (x : Nat) : Nat := (((x : Int) + old.memOff * 64) % (2 ^ 48 : Int)).toNat
      let dur := match e.durations.find? (fun q => decide (q.1 = n ∧ q.2.1 = c - st.shotStart)) with
        | some q => q.2.2
        | none => 0
      let new : Ctx := { Ctx.reset with
        state := .active, serving := serving, request := req, desc := k, start := c, startTack := tack, raw := d,
        prog := prog, unit := u, base := mv (sdMemBase d), lo := mv (sdLo d), hi := mv (sdHi d),
        loc := (((sdLocal d : Int) + old.locOff * 64) % (spdSize : Int)).toNat,
        memOff := old.memOff, locOff := old.locOff, emit := old.emit, walk := .start (c + 2), ahead := .start c }
      let st := st.setCtx n { new with duration := if dur = 0 then new.ideal else dur }
      if k ∈ st.str.badDescs ∨ sdProgram d ∈ st.str.badProgs ∨ !progOk prog (sdFmtEn d) then
        .done (((st.ctxFault n 3 c (0, 0)).strBit 29 n).raise Ev.strCheck c tack true)
      else .done st

/-- STR.HALT at c (R236, R255). -/
def issueHalt (st : Stall) (c : Nat) (w : Insn) (_tack : Nat) : Issue :=
  let n := bitsOf w 43 41
  let x := st.ctx n
  if bitsOf w 40 0 ≠ 0 then .illegal
  else if !x.activeAt c then .inconsistent
  else
    let h := match x.halted with | some h => min h c | none => c
    .done (st.setCtx n { x.cancel with halted := some h })

/-- STR.SETCTX at c (R235). -/
def issueSetctx (st : Stall) (_c : Nat) (w : Insn) (_tack : Nat) : Issue :=
  let n := bitsOf w 43 41
  if bitsOf w 39 36 ≠ 0 then .illegal
  else
    let v := signed 36 (bitsOf w 35 0)
    let x := st.ctx n
    .done (st.setCtx n (if bitsOf w 40 40 = 1 then { x with locOff := v } else { x with memOff := v }))

/-- STL_PONY_ERR with the index of a dropped PONY, where no flag was set (R274). -/
def ponyFirst (e tack : Nat) : Nat := if natBits e 31 29 = 0 then setBits e 12 0 tack else e

/-- An access to a queue whose pointer copies disagree empties it, and the shot fails (R269, R427). -/
def Stall.ponyCheck (st : Stall) (c tack : Nat) : Stall :=
  if st.pony.bad then
    let e := match st.pony.queue with | p :: _ => ponyFirst st.pony.err p.tack | [] => st.pony.err
    ({ st with pony := { st.pony with queue := [], bad := false, err := orBit e 29 } } : Stall).raise Ev.queuePtr c tack true
  else st

/-- R270: the transfers offered by cycle x that have nowhere to go, as `lost` says, are dropped, each at its offer. -/
def Stall.dropPonies (st : Stall) (x : Nat) (lost : Pony → Bool) : Stall :=
  let gone (p : Pony) : Bool := decide (p.offer ≤ x) && lost p
  let drop (st : Stall) (p : Pony) : Stall :=
    ({ st with pony := { st.pony with err := orBit (ponyFirst st.pony.err p.tack) 30 } } : Stall).raise Ev.ponyDest p.offer p.tack true
  let dropped := st.pony.queue.filter gone
  dropped.foldl drop { st with pony := { st.pony with queue := st.pony.queue.filter fun p => !gone p } }

/-- STR.PONY at c (R264, R269): the transfer joins the queue, or is dropped where the queue is full. `lost`: the transfers that have
nowhere to go. -/
def issuePony (lost : Pony → Bool) (st : Stall) (c : Nat) (w : Insn) (tack : Nat) : Issue :=
  let src := bitsOf w 39 18
  let st := if src % 4 = 0 then (st.ponyCheck c tack).dropPonies c lost else st
  if src % 4 ≠ 0 then .illegal
  else if 16 ≤ st.pony.queue.length then
    .done (({ st with pony := { st.pony with err := orBit (ponyFirst st.pony.err tack) 31 } } : Stall).raise Ev.ponyFull c tack true)
  else
    let (st, wid) := st.newWid
    let p : Pony := ⟨c, c + 4, bitsOf w 43 40, bitsOf w 11 0, src, 4 * (bitsOf w 17 12 + 1), [], none, none, 0, tack, wid⟩
    .done { st with pony := { st.pony with queue := st.pony.queue ++ [p] } }

end Sys2Proof.Machine
end

