-- ==== Sys2Proof/Machine/Sequencer.lean ====
section
/-!
DEFINITION. Issue of a stall's instructions (07): the next instruction and its cycle, places, skips, and the effects of the CTL,
SYN and SPD instructions.
-/
namespace Sys2Proof.Machine

/-! ### CTL and SYN instructions (R203 to R209, R219, R222, R231) -/

/-- A control instruction whose whole effect is on program order. -/
def issueFlow (st : Stall) (_c : Nat) (w : Insn) (tack : Nat) : Issue :=
  if !ctlLegal tack w then .illegal else if !st.seq.course.allows w then .inconsistent else .done st

/-- CTL.NOP: nothing (R203). -/
def issueNop (st : Stall) (c : Nat) (w : Insn) (tack : Nat) : Issue := issueFlow st c w tack

/-- CTL.END: the stall's program ends for the shot. -/
def issueEnd (st : Stall) (c : Nat) (w : Insn) (tack : Nat) : Issue :=
  match issueFlow st c w tack with
  | .done st => .done { st with seq := { st.seq with state := .ended, fetchOn := false } }
  | r => r

/-- CTL.WAIT: the reference cycle is the issue cycle plus count (R196, applied at the end of the issue). -/
def issueWait (st : Stall) (c : Nat) (w : Insn) (tack : Nat) : Issue := issueFlow st c w tack

/-- CTL.JUMP. -/
def issueJump (st : Stall) (c : Nat) (w : Insn) (tack : Nat) : Issue := issueFlow st c w tack

/-- CTL.LOOP. -/
def issueLoop (st : Stall) (c : Nat) (w : Insn) (tack : Nat) : Issue := issueFlow st c w tack

/-- CTL.CALL. -/
def issueCall (st : Stall) (c : Nat) (w : Insn) (tack : Nat) : Issue := issueFlow st c w tack

/-- CTL.RET. -/
def issueRet (st : Stall) (c : Nat) (w : Insn) (tack : Nat) : Issue := issueFlow st c w tack

/-- CTL.SUBST: the next instruction is patched (R208). -/
def issueSubst (st : Stall) (c : Nat) (w : Insn) (tack : Nat) : Issue :=
  match issueFlow st c w tack with
  | .done st => .done { st with seq := { st.seq with patch := some ⟨bitsOf w 43 38, bitsOf w 37 36, bitsOf w 35 30⟩ } }
  | r => r

/-- The 64-byte pieces of a byte list. -/
def lineChunks : Nat → List Byte → List (List Byte)
  | 0, _ => []
  | n + 1, bs => bs.take 64 :: lineChunks n (bs.drop 64)

/-- CTL.CSAVE at c (R231): the state is sampled and line u is written complete at c + 2 + u. -/
def issueCsave (st : Stall) (c : Nat) (w : Insn) (tack : Nat) : Issue :=
  if !ctlLegal tack w then .illegal
  else if st.ctxBusy c || st.wholeBusy then .inconsistent
  else
    let line := bitsOf w 43 28
    let (st, wid) := st.newWid
    let block := st.contextBlock c
    let st := st.parityCheck c tack (st.vec.badRegs.filter fun r => !r.isEntry)
    let st : Stall := { st with seq := { st.seq with ctx := some ⟨true, c, line, [], wid, tack⟩ } }
    .done ((lineChunks 24 block).zipIdx.foldl (fun st p =>
      st.addWrite ⟨c + 2 + p.2, c, rankSpd, wid, tack, 0, (line + p.2) % 65536 * 64, p.1⟩) st)

/-- CTL.CREST at c (R231): line u is read at c + u, and the state is written in cycle c + 27. -/
def issueCrest (st : Stall) (c : Nat) (w : Insn) (tack : Nat) : Issue :=
  if !ctlLegal tack w then .illegal
  else if st.ctxBusy c || st.wholeBusy then .inconsistent
  else .done { st with seq := { st.seq with ctx := some ⟨false, c, bitsOf w 43 28, [], 0, tack⟩ } }

/-- The pony transfers that the stall has issued and that are not delivered. -/
def Stall.poniesOut (st : Stall) : Bool := !st.pony.queue.isEmpty || !st.pony.flying.isEmpty

/-- SYN.BAR at c (R219, R222, R268): the stall arrives at the next occurrence of the entry and waits. -/
def issueBar (e : StallEnv) (st : Stall) (c : Nat) (w : Insn) (tack : Nat) : Issue :=
  if !ctlLegal tack w then .illegal
  else
    let id := bitsOf w 43 36
    match e.bars.find? (fun b => b.id = id) with
    | none => .inconsistent
    | some b =>
      let member := match st.logical with | some l => decide (l ∈ b.members) | none => false
      let k := sget zeroNat st.seq.arrived id
      if !member || decide (b.releases.length ≤ k) then .inconsistent
      else .done { st with seq := { st.seq with
        waiting := some id, arrived := sset zeroNat st.seq.arrived id (k + 1), arrCycle := c } }

/-! ### SPD instructions (R186 to R192) -/

/-- A COPY or FILL is active at c (R192). -/
def Stall.copyBusy (st : Stall) : Bool := st.spd.copy.isSome

/-- SPD.COPY at c. -/
def issueCopy (st : Stall) (c : Nat) (w : Insn) (tack : Nat) : Issue :=
  if bitsOf w 3 0 ≠ 0 then .illegal
  else if st.copyBusy then .inconsistent
  else
    let n := bitsOf w 11 4 + 1
    let dst := bitsOf w 43 28
    let (st, wid) := st.newWid
    let op : CopyOp := ⟨false, c, n, dst, bitsOf w 27 12, 0, wid, tack⟩
    let st : Stall := { st with spd := { st.spd with copy := some op } }
    .done ((List.range n).foldl (fun st u => st.addTag c (c + u + 6) ((dst + u) % 65536 * 64) 64 wid) st)

/-- SPD.FILL at c. -/
def issueFill (st : Stall) (c : Nat) (w : Insn) (tack : Nat) : Issue :=
  if bitsOf w 11 0 ≠ 0 then .illegal
  else if st.copyBusy then .inconsistent
  else
    let n := bitsOf w 27 20 + 1
    let dst := bitsOf w 43 28
    let v : Byte := BitVec.ofNat 8 (bitsOf w 19 12)
    let (st, wid) := st.newWid
    let op : CopyOp := ⟨true, c, n, dst, 0, v, wid, tack⟩
    let st : Stall := { st with spd := { st.spd with copy := some op } }
    .done ((List.range n).foldl (fun st u =>
      st.addWrite ⟨c + u + 2, c, rankSpd, wid, tack, 0, (dst + u) % 65536 * 64, List.replicate 64 v⟩) st)

/-- SPD.PWR at c. -/
def issuePwr (st : Stall) (c : Nat) (w : Insn) (_tack : Nat) : Issue :=
  let mask := bitsOf w 43 12
  if bitsOf w 10 0 ≠ 0 ∨ mask = 0 then .illegal
  else
    let wake := decide (bitsOf w 11 11 = 1)
    let banks := (List.range 32).filter fun b => natBit mask b
    .done { st with spd := banks.foldl (fun s b => s.power c wake b) st.spd }

/-! ### The next instruction (R196, R216, R217) -/

/-- Whether the sequencer has an instruction to issue: running, not waiting at a barrier, not stopped. -/
def Seq.ready (s : Seq) : Bool := decide (s.state = .running) && s.waiting.isNone && decide (s.course.index < 8192)

/-- The fetcher set to the sequencer's own course, where what it fetched does not stand at the next index. -/
def Seq.refetch (s : Seq) (x : Nat) : Seq :=
  { s with fetch := s.course, fetchOn := true, fetchAt := x, queue := [] }

/-- A stall with its next instruction at the head of the run-ahead queue. -/
def Stall.withHead (st : Stall) : Stall :=
  match st.seq.queue with
  | f :: _ =>
    if f.index = st.seq.course.index then st
    else
      let st : Stall := { st with seq := st.seq.refetch st.clk }
      st.runTo (st.clk + 1)
  | [] =>
    let st : Stall := if st.seq.fetchOn && decide (st.seq.fetch = st.seq.course) then st
      else { st with seq := st.seq.refetch (max st.clk st.seq.fetchAt) }
    st.runTo (max st.clk st.seq.fetchAt + 1)

/-- The next instruction as fetched, and its issue cycle: the reference cycle plus delta, or 2 cycles after its fetch. -/
def Stall.head (st : Stall) : Option (Fetched × Nat) :=
  if !st.seq.ready then none
  else
    match st.seq.queue with
    | f :: _ => if f.index = st.seq.course.index then some (f, max (st.seq.ref + deltaOf f.word) (f.cycle + 2)) else none
    | [] => none

/-- R208: the patched word; none where the format entry holds no code. -/
def Stall.patched (st : Stall) (w : Insn) : Option Insn :=
  match st.seq.patch with
  | none => some w
  | some p =>
    let v := sget zeroNat st.tack.fmt p.entry
    if 4 < v then none
    else
      let (m, wd) := match p.kind with
        | 0 => (v, 3)
        | 1 => (widthOfFmt v, 2)
        | _ => (v + 3, 4)
      some (BitVec.ofNat 64 (setBits w.toNat (p.lo + wd - 1) p.lo m))

/-- The end of an issue at c: reference cycle, program order, the queue, and the record of the last issue. -/
def Stall.retire (st : Stall) (c ref : Nat) (course : Course) (index : Nat) : Stall :=
  { st with seq := { st.seq with
    ref := ref, course := course, queue := st.seq.queue.drop 1, lastCycle := c, lastIndex := index
    lastIn := c - st.shotStart } }

/-- A skip at c: no effect but the reference cycle (R196, R200). It is no issue: STL_SEQ_LAST stands, STL_SEQ_PC names it (R232). -/
def Stall.skip (st : Stall) (c : Nat) (k : SkipKind) (f : Fetched) (w : Insn) : Stall :=
  let st := (st.countSkip c k f.index (opcodeOf w)).engineSkip (classOf (opcodeOf w))
  let before := st.seq.lastIn
  let st := st.retire c c (st.seq.course.step w true) f.index
  { st with seq := { st.seq with patch := none, lastIn := before } }

/-- R197: places taken so far in cycle c. -/
def Seq.placesAt (s : Seq) (c : Nat) : List Nat := if s.placeCycle = c then s.places else []

/-- R197: whether an instruction of a class finds a place. -/
def Seq.hasPlace (s : Seq) (c cls : Nat) : Bool :=
  decide ((s.placesAt c).length < 4) && (decide (cls = 6) || decide (cls ∉ s.placesAt c))

/-- The issue of the fetched word f at cycle c, with the effect `eff` of its opcode. -/
def Stall.issueAt (st : Stall) (eff : Stall → Nat → Insn → Nat → Issue) (f : Fetched) (c : Nat) : Stall :=
  let cls := classOf (opcodeOf f.word)
  let st := if st.seq.ref + deltaOf f.word < c then st.countSkip c .inconsistent f.index (opcodeOf f.word) else st
  if !st.seq.hasPlace c cls then st.skip c .inconsistent f f.word
  else
    let st : Stall := { st with seq := { st.seq with placeCycle := c, places := st.seq.placesAt c ++ [cls] } }
    if f.check = .bad then st.skip c .tack f f.word
    else
      match st.patched f.word with
      | none => st.skip c .illegal f f.word
      | some w =>
        match eff { st with seq := { st.seq with patch := none } } c w f.index with
        | .illegal => st.skip c .illegal f w
        | .inconsistent => st.skip c .inconsistent f w
        | .done st' =>
          let ref := if opcodeOf w = 0x02 then c + bitsOf w 31 0 else c
          st'.retire c ref (st.seq.course.step w false) f.index

/-- A stall's next instruction issues, if its word is one that `sel` selects; the stall is otherwise as it was. `sel` sees the
word and the outcome of its check bits. -/
def Stall.issueIf (st : Stall) (sel : Insn → FetchCheck → Bool) (eff : Stall → Nat → Insn → Nat → Issue) : Stall :=
  if !st.seq.ready then st
  else
    let st1 := st.withHead
    match st1.head with
    | none => st
    | some (f, c) =>
      if !sel f.word f.check then st
      else
        let stopped := match st1.seq.stop with | some x => decide (x ≤ c) | none => false
        if stopped then st else (st1.runTo c).issueAt eff f c

/-- The words that an opcode's row stands for: a good or corrected word with that opcode. -/
def selOp (op : Nat) (w : Insn) (k : FetchCheck) : Bool := decide (opcodeOf w = op) && decide (k ≠ .bad)

/-- Whether an opcode is legal in a stall tack (R199). -/
def stallOpcode (op : Nat) : Bool :=
  decide (op ≤ 0x09) || decide (op = 0x10) || decide (0x20 ≤ op ∧ op ≤ 0x27) || decide (0x30 ≤ op ∧ op ≤ 0x3F) ||
  decide (0x40 ≤ op ∧ op ≤ 0x42) || decide (0x50 ≤ op ∧ op ≤ 0x53)

/-- The words that CTL_NOP stands for: its own opcode, an illegal opcode, and a word with an uncorrectable error. -/
def selNop (w : Insn) (k : FetchCheck) : Bool :=
  decide (k = .bad) || decide (opcodeOf w = 0) || !stallOpcode (opcodeOf w)

/-- The effect of a word that `selNop` selects. -/
def issueNopOrIllegal (st : Stall) (c : Nat) (w : Insn) (tack : Nat) : Issue :=
  if opcodeOf w = 0 then issueNop st c w tack else .illegal

/-! ### Shot begin, abort, stop -/

/-- R32, R138, R176, R190, R201, R235: shot begin arrives in a stall at cycle x + 7 of a shot that starts at x. `entry` is the
entry index, none where the stall runs nothing; `step` the training step number. -/
def Stall.shotBegin (st : Stall) (x : Nat) (entry : Option Nat) (step : Nat) : Stall :=
  let st := st.runTo x
  let seq := st.seq
  let seq := match entry with
    | some e => { seq with
        state := .running, entry := e, ref := x + 7, course := .start e, patch := none, placeCycle := 0, places := [],
        fetch := .start e, fetchOn := true, fetchAt := x + 7, queue := [], waiting := none, arrived := [],
        ctx := none, stop := none, lastCycle := 0, illegal := 0, inconsistent := 0, arrCycle := 0 }
    | none => { seq with
        state := .idle, fetchOn := false, queue := [], waiting := none, arrived := [], stop := none,
        illegal := 0, inconsistent := 0, patch := none }
  { st with
    seq := seq,
    vec := st.vec.shotBegin step,
    ope := { st.ope with colBufs := [], rejected := [], skipped := 0, warm := 0 },
    spd := { st.spd with
      firstErr := false, cancelled := [], pressure := 0,
      banks := st.spd.wakeAll.banks },
    str := { st.str with
      ctxs := (List.range 8).foldl (fun m n => smod zeroCtx m n fun c => { c with memOff := 0, locOff := 0, posts := [] }) st.str.ctxs,
      slotPeak := 0, linePeak := 0 },
    pony := { st.pony with wait := 0 },
    aud := { st.aud with violations := 0, earned := 0 },
    once := [], shotStart := x, works := entry.isSome }

/-- The shot has completed: what the registers show of the last completed shot (R133, R194, R274). -/
def Stall.shotDone (st : Stall) : Stall :=
  { st with
    ope := { st.ope with lastWarm := st.ope.warm }
    spd := { st.spd with lastPressure := st.spd.pressure }
    str := { st.str with lastSlotPeak := st.str.slotPeak, lastLinePeak := st.str.linePeak }
    pony := { st.pony with lastWait := st.pony.wait } }

/-- R190: the banks that are not on wake in the closing margin. -/
def Stall.wakeBanks (st : Stall) : Stall := { st with spd := st.spd.wakeAll }

/-- R218, R260, R272: an abort arrives at cycle x. -/
def Stall.abort (st : Stall) (x : Nat) : Stall :=
  let st := st.runTo x
  let q := st.pony.queue.filter fun p => p.accepted.isSome
  let st : Stall := { st with
    seq := { st.seq with
      state := if st.seq.state = .running then .idle else st.seq.state,
      queue := [], fetchOn := false, course := .start 0, fetch := .start 0, waiting := none, patch := none },
    tack := { st.tack with fmtPend := st.tack.fmt },
    ope := { st.ope with colBufs := [] },
    pony := { st.pony with queue := q } }
  let flying := st.str.flying.map fun f => if f.write then f else { f with drop := true }
  let st : Stall := { st with str := { st.str with flying := flying } }
  (List.range 8).foldl (fun st n =>
    let c := st.ctx n
    if c.activeAt x then
      st.setCtx n { c.cancel with
        walk := { c.walk with closed := true, pieces := [] },
        ahead := { c.ahead with closed := true },
        halted := some (match c.halted with | some h => min h (x - 1) | none => x - 1) }
    else st) st

end Sys2Proof.Machine
end

