-- ==== Sys2Proof/Machine/Regs.lean ====
section
/-!
DEFINITION. The registers of BAR0 by address: where each stands, what it holds after reset and which of its bits each access code
covers (the register tables of the chapters; R3 to R6, R402). `A.<name>` is the address of a register; of the first of a group.
-/
namespace Sys2Proof.Machine

/-- A register or a group of like registers: address of the first, three levels of repetition (how many, how far apart), reset
value, masks of the bits with access code RW, W1C and RWL. Every other bit is RO, WO or reserved. -/
structure RegRow where
  base : Nat
  n1 : Nat
  s1 : Nat
  n2 : Nat
  s2 : Nat
  n3 : Nat
  s3 : Nat
  reset : Nat
  rw : Nat
  w1c : Nat
  rwl : Nat
  deriving DecidableEq, Repr

/-- Whether a register of the row stands at address a. -/
def RegRow.holds (r : RegRow) (a : Nat) : Bool :=
  decide (r.base ≤ a) &&
    (let d := a - r.base
     decide (d / r.s1 < r.n1) && decide (d % r.s1 / r.s2 < r.n2) && decide (d % r.s1 % r.s2 / r.s3 < r.n3) &&
       decide (d % r.s1 % r.s2 % r.s3 = 0))

namespace A
/-- GLB_TIME_LO (R66). -/
def glbTimeLo : Nat := 0x200
/-- GLB_TIME_HI (R66). -/
def glbTimeHi : Nat := 0x204
/-- GLB_SHOT_LO (R66). -/
def glbShotLo : Nat := 0x208
/-- GLB_SHOT_HI (R66). -/
def glbShotHi : Nat := 0x20C
/-- GLB_SHOT_PERIOD (R66). -/
def glbShotPeriod : Nat := 0x210
/-- GLB_TICK_STATUS (R66). -/
def glbTickStatus : Nat := 0x214
/-- GLB_CDC_STATUS (R66). -/
def glbCdcStatus : Nat := 0x220
/-- GLB_AUDIT (R66). -/
def glbAudit : Nat := 0x228
/-- STL_AUD_CTRL (R66). -/
def stlAudCtrl : Nat := 0x1043000
/-- STL_AUD_FIRST_CYCLE (R66). -/
def stlAudFirstCycle : Nat := 0x1043004
/-- STL_AUD_FIRST_INFO (R66). -/
def stlAudFirstInfo : Nat := 0x1043008
/-- STL_AUD_FIRST_ADDR (R66). -/
def stlAudFirstAddr : Nat := 0x104300C
/-- STL_OPE_CTRL (R133). -/
def stlOpeCtrl : Nat := 0x1040800
/-- STL_OPE_STATUS (R133). -/
def stlOpeStatus : Nat := 0x1040804
/-- STL_OPE_ANCHOR (R133). -/
def stlOpeAnchor : Nat := 0x1040808
/-- STL_OPE_RESIDUE (R133). -/
def stlOpeResidue : Nat := 0x104080C
/-- STL_OPE_ERR (R133). -/
def stlOpeErr : Nat := 0x1040810
/-- STL_OPE_MACS_LO (R133). -/
def stlOpeMacsLo : Nat := 0x1040818
/-- STL_OPE_MACS_HI (R133). -/
def stlOpeMacsHi : Nat := 0x104081C
/-- STL_OPE_KEEPWARM (R133). -/
def stlOpeKeepwarm : Nat := 0x1040820
/-- STL_VEC_STATUS (R168). -/
def stlVecStatus : Nat := 0x1041000
/-- STL_VEC_ERR (R168). -/
def stlVecErr : Nat := 0x1041004
/-- STL_VEC_SELFTEST (R168). -/
def stlVecSelftest : Nat := 0x1041008
/-- STL_VEC_FTAB (R168). -/
def stlVecFtab : Nat := 0x104100C
/-- STL_SPD_TMAP (R194). -/
def stlSpdTmap : Nat := 0x1041800
/-- STL_SPD_PWR (R194). -/
def stlSpdPwr : Nat := 0x1041804
/-- STL_SPD_ERR (R194). -/
def stlSpdErr : Nat := 0x1041808
/-- STL_SPD_GATHER (R194). -/
def stlSpdGather : Nat := 0x104180C
/-- STL_SPD_PCOUNT (R194). -/
def stlSpdPcount : Nat := 0x1041810
/-- STL_SPD_IADDR (R194). -/
def stlSpdIaddr : Nat := 0x1041814
/-- STL_SPD_IDATAn (R194). -/
def stlSpdIdata : Nat := 0x1041840
/-- STL_SEQ_CTRL (R232). -/
def stlSeqCtrl : Nat := 0x1040000
/-- STL_SEQ_TACK (R232). -/
def stlSeqTack : Nat := 0x1040004
/-- STL_SEQ_ENTRY (R232). -/
def stlSeqEntry : Nat := 0x1040008
/-- STL_SEQ_STATUS (R232). -/
def stlSeqStatus : Nat := 0x104000C
/-- STL_SEQ_LAST (R232). -/
def stlSeqLast : Nat := 0x1040010
/-- STL_SEQ_PC (R232). -/
def stlSeqPc : Nat := 0x1040014
/-- STL_SEQ_SKIP (R232). -/
def stlSeqSkip : Nat := 0x1040018
/-- STL_SEQ_SKIP_FIRST (R232). -/
def stlSeqSkipFirst : Nat := 0x104001C
/-- STL_SEQ_TACK_ERR (R232). -/
def stlSeqTackErr : Nat := 0x1040020
/-- STL_SEQ_FMTn (R232). -/
def stlSeqFmt : Nat := 0x1040040
/-- YM_STATUS (R232). -/
def ymStatus : Nat := 0x1000000
/-- YM_TDMA_CTRL (R232). -/
def ymTdmaCtrl : Nat := 0x1000010
/-- YM_TDMA_STATUS (R232). -/
def ymTdmaStatus : Nat := 0x1000014
/-- YM_TACK_SWITCH (R232). -/
def ymTackSwitch : Nat := 0x1000018
/-- YM_BAR_STATUS (R232). -/
def ymBarStatus : Nat := 0x1000020
/-- YM_ERR (R232). -/
def ymErr : Nat := 0x1000024
/-- YM_FMT_PENDn (R232). -/
def ymFmtPend : Nat := 0x1000040
/-- STL_STR_MODE (R274). -/
def stlStrMode : Nat := 0x1042000
/-- STL_STR_ERR (R274). -/
def stlStrErr : Nat := 0x1042004
/-- STL_STR_USE (R274). -/
def stlStrUse : Nat := 0x1042008
/-- STL_STR_CTXn_STATUS (R274). -/
def stlStrCtxStatus : Nat := 0x1042100
/-- STL_STR_CTXn_FAULT (R274). -/
def stlStrCtxFault : Nat := 0x1042104
/-- STL_STR_CTXn_PF0 (R274). -/
def stlStrCtxPf0 : Nat := 0x1042108
/-- STL_STR_CTXn_PF1 (R274). -/
def stlStrCtxPf1 : Nat := 0x104210C
/-- STL_STR_CTXn_PF2 (R274). -/
def stlStrCtxPf2 : Nat := 0x1042110
/-- STL_PONY_STATUS (R274). -/
def stlPonyStatus : Nat := 0x1042800
/-- STL_PONY_COUNT (R274). -/
def stlPonyCount : Nat := 0x1042804
/-- STL_PONY_WAIT (R274). -/
def stlPonyWait : Nat := 0x1042808
/-- STL_PONY_ERR (R274). -/
def stlPonyErr : Nat := 0x104280C
/-- HBM_STATUS (R308). -/
def hbmStatus : Nat := 0x900000
/-- HBM_ECC_COUNT (R308). -/
def hbmEccCount : Nat := 0x900004
/-- HBM_ECC_ERR (R308). -/
def hbmEccErr : Nat := 0x900008
/-- HBM_ERR_ADDR_LO (R308). -/
def hbmErrAddrLo : Nat := 0x90000C
/-- HBM_ERR_ADDR_HI (R308). -/
def hbmErrAddrHi : Nat := 0x900010
/-- HBM_SCRUB (R308). -/
def hbmScrub : Nat := 0x900014
/-- HBM_REFRESH (R308). -/
def hbmRefresh : Nat := 0x900018
/-- FAR_TABLE (R308). -/
def farTable : Nat := 0x902000
/-- LOFT_FRAMES (R308). -/
def loftFrames : Nat := 0x902004
/-- LOFT_PINS (R308). -/
def loftPins : Nat := 0x902008
/-- LOFT_PROMOTED (R308). -/
def loftPromoted : Nat := 0x90200C
/-- LOFT_EVICTED (R308). -/
def loftEvicted : Nat := 0x902010
/-- UPD_STATUS (R334). -/
def updStatus : Nat := 0x800000
/-- UPD_LAST_STEP_LO (R334). -/
def updLastStepLo : Nat := 0x800004
/-- UPD_LAST_STEP_HI (R334). -/
def updLastStepHi : Nat := 0x800008
/-- UPD_LAST_RESULT (R334). -/
def updLastResult : Nat := 0x80000C
/-- UPD_LAST_COUNTS (R334). -/
def updLastCounts : Nat := 0x800010
/-- UPD_PASS (R334). -/
def updPass : Nat := 0x800014
/-- UPD_ERR (R334). -/
def updErr : Nat := 0x800018
/-- UPD_SKEW_FIRST (R334). -/
def updSkewFirst : Nat := 0x80001C
/-- UPD_FREEZE (R334). -/
def updFreeze : Nat := 0x800020
/-- UPD_FMT_OVRn (R334). -/
def updFmtOvr : Nat := 0x800040
/-- UPD_FMT_THRESH (R334). -/
def updFmtThresh : Nat := 0x800060
/-- UPD_SNAP (R334). -/
def updSnap : Nat := 0x800070
/-- CKP_STATUS (R361). -/
def ckpStatus : Nat := 0x700000
/-- CKP_CTRL (R361). -/
def ckpCtrl : Nat := 0x700004
/-- CKP_INTERVAL (R361). -/
def ckpInterval : Nat := 0x700008
/-- CKP_FAIL (R361). -/
def ckpFail : Nat := 0x70000C
/-- CKP_COST (R361). -/
def ckpCost : Nat := 0x700010
/-- CKP_STEP_TIME (R361). -/
def ckpStepTime : Nat := 0x700014
/-- CKP_RATE (R361). -/
def ckpRate : Nat := 0x700018
/-- CKP_POINT_LO (R361). -/
def ckpPointLo : Nat := 0x700020
/-- CKP_POINT_HI (R361). -/
def ckpPointHi : Nat := 0x700024
/-- CKP_FULL_LO (R361). -/
def ckpFullLo : Nat := 0x700028
/-- CKP_FULL_HI (R361). -/
def ckpFullHi : Nat := 0x70002C
/-- CKP_RESTORE_LO (R361). -/
def ckpRestoreLo : Nat := 0x700030
/-- CKP_RESTORE_HI (R361). -/
def ckpRestoreHi : Nat := 0x700034
/-- CKP_RESTORE_CTRL (R361). -/
def ckpRestoreCtrl : Nat := 0x700038
/-- CKP_ERR (R361). -/
def ckpErr : Nat := 0x70003C
/-- FAB_PORT_CTRL (R399). -/
def fabPortCtrl : Nat := 0x600000
/-- FAB_PORT_STATUS (R399). -/
def fabPortStatus : Nat := 0x600004
/-- FAB_PORT_PEER (R399). -/
def fabPortPeer : Nat := 0x600008
/-- FAB_PORT_RETRY (R399). -/
def fabPortRetry : Nat := 0x60000C
/-- FAB_PORT_FEC (R399). -/
def fabPortFec : Nat := 0x600010
/-- FAB_PORT_ERR (R399). -/
def fabPortErr : Nat := 0x600014
/-- FAB_INJ_CTRL (R399). -/
def fabInjCtrl : Nat := 0x600100
/-- FAB_INJ_PARAM (R399). -/
def fabInjParam : Nat := 0x600104
/-- FAB_ID (R399). -/
def fabId : Nat := 0x602000
/-- FAB_DIMS (R399). -/
def fabDims : Nat := 0x602004
/-- FAB_COORD (R399). -/
def fabCoord : Nat := 0x602008
/-- FAB_TICK (R399). -/
def fabTick : Nat := 0x60200C
/-- FAB_TIME_OFFSET (R399). -/
def fabTimeOffset : Nat := 0x602010
/-- FAB_SUBST (R399). -/
def fabSubst : Nat := 0x602014
/-- FAB_SUBST_SHOT_LO (R399). -/
def fabSubstShotLo : Nat := 0x602018
/-- FAB_SUBST_SHOT_HI (R399). -/
def fabSubstShotHi : Nat := 0x60201C
/-- FAB_WIN_CTRL (R399). -/
def fabWinCtrl : Nat := 0x602020
/-- FAB_WIN_DROPS (R399). -/
def fabWinDrops : Nat := 0x602024
/-- FAB_BIND_CTRL (R399). -/
def fabBindCtrl : Nat := 0x602028
/-- FAB_ERR (R399). -/
def fabErr : Nat := 0x602030
/-- GLB_BAR2_WINDOW (R437). -/
def glbBar2Window : Nat := 0x300
/-- GLB_PCIE_STATUS (R437). -/
def glbPcieStatus : Nat := 0x304
/-- GLB_HOST_ERR (R437). -/
def glbHostErr : Nat := 0x308
/-- GLB_AUX_STATUS (R437). -/
def glbAuxStatus : Nat := 0x30C
/-- GLB_RINGn_BASE_LO (R437). -/
def glbRingBaseLo : Nat := 0x40000
/-- GLB_RINGn_BASE_HI (R437). -/
def glbRingBaseHi : Nat := 0x40004
/-- GLB_RINGn_CFG (R437). -/
def glbRingCfg : Nat := 0x40008
/-- GLB_RINGn_STATUS (R437). -/
def glbRingStatus : Nat := 0x4000C
/-- GLB_RINGn_COUNT (R437). -/
def glbRingCount : Nat := 0x40010
/-- MBX_CMD_DATA (R437). -/
def mbxCmdData : Nat := 0x100000
/-- MBX_CMD_PUSH (R437). -/
def mbxCmdPush : Nat := 0x100004
/-- MBX_CMD_SPACE (R437). -/
def mbxCmdSpace : Nat := 0x100008
/-- MBX_ACK (R437). -/
def mbxAck : Nat := 0x10000C
/-- MBX_HDB (R437). -/
def mbxHdb : Nat := 0x100010
/-- MBX_HDB_MASK (R437). -/
def mbxHdbMask : Nat := 0x100014
/-- MBX_CFG (R437). -/
def mbxCfg : Nat := 0x100018
/-- MBX_SEC_FLAG (R437). -/
def mbxSecFlag : Nat := 0x10001C
/-- EVT_WPTR (R437). -/
def evtWptr : Nat := 0x200000
/-- EVT_RPTR (R437). -/
def evtRptr : Nat := 0x200004
/-- EVT_CTRL (R437). -/
def evtCtrl : Nat := 0x200008
/-- EVT_LOST (R437). -/
def evtLost : Nat := 0x20000C
/-- GLB_ID (R460). -/
def glbId : Nat := 0x0
/-- GLB_STATUS (R460). -/
def glbStatus : Nat := 0x4
/-- GLB_RESET (R460). -/
def glbReset : Nat := 0x8
/-- GLB_RESET_CAUSE (R460). -/
def glbResetCause : Nat := 0xC
/-- GLB_AUTH (R460). -/
def glbAuth : Nat := 0x10
/-- GLB_FW (R460). -/
def glbFw : Nat := 0x14
/-- CFG_CTRL (R460). -/
def cfgCtrl : Nat := 0x500000
/-- CFG_STATUS (R460). -/
def cfgStatus : Nat := 0x500004
/-- CFG_IMG_ADDR_LO (R460). -/
def cfgImgAddrLo : Nat := 0x500008
/-- CFG_IMG_ADDR_HI (R460). -/
def cfgImgAddrHi : Nat := 0x50000C
/-- CFG_IMG_LEN (R460). -/
def cfgImgLen : Nat := 0x500010
/-- CFG_REFUSAL (R460). -/
def cfgRefusal : Nat := 0x500014
/-- CFG_REFUSAL_AT (R460). -/
def cfgRefusalAt : Nat := 0x500018
/-- CFG_DIGESTn (R460). -/
def cfgDigest : Nat := 0x500040
/-- CFG_CONF_DIGESTn (R460). -/
def cfgConfDigest : Nat := 0x500060
/-- SAFE_STATUS (R478). -/
def safeStatus : Nat := 0x400000
/-- SAFE_CTRL (R478). -/
def safeCtrl : Nat := 0x400004
/-- SAFE_FENCE_LAST (R478). -/
def safeFenceLast : Nat := 0x400008
/-- SAFE_FENCE_REQ (R478). -/
def safeFenceReq : Nat := 0x40000C
/-- SAFE_SPARESn (R478). -/
def safeSpares : Nat := 0x400010
/-- SAFE_FAIL_SHOT_LO (R478). -/
def safeFailShotLo : Nat := 0x400020
/-- SAFE_FAIL_SHOT_HI (R478). -/
def safeFailShotHi : Nat := 0x400024
/-- SAFE_FAIL_CAUSE (R478). -/
def safeFailCause : Nat := 0x400028
/-- SAFE_COUNTS (R478). -/
def safeCounts : Nat := 0x40002C
/-- STL_AUD_STRIKES (R478). -/
def stlAudStrikes : Nat := 0x1043010
/-- PWR_STATUS (R506). -/
def pwrStatus : Nat := 0x300000
/-- PWR_CTRL (R506). -/
def pwrCtrl : Nat := 0x300004
/-- PWR_VIN (R506). -/
def pwrVin : Nat := 0x300008
/-- PWR_IIN (R506). -/
def pwrIin : Nat := 0x30000C
/-- PWR_PIN (R506). -/
def pwrPin : Nat := 0x300010
/-- PWR_BUDGET (R506). -/
def pwrBudget : Nat := 0x300014
/-- PWR_SHOT_DECL (R506). -/
def pwrShotDecl : Nat := 0x300018
/-- PWR_SHOT_MEAS (R506). -/
def pwrShotMeas : Nat := 0x30001C
/-- PWR_ABOVE (R506). -/
def pwrAbove : Nat := 0x300020
/-- PWR_ERR (R506). -/
def pwrErr : Nat := 0x300024
/-- PWR_SENSOR_SEL (R506). -/
def pwrSensorSel : Nat := 0x300028
/-- PWR_SENSOR_DATA (R506). -/
def pwrSensorData : Nat := 0x30002C
end A

/-- Part 1 of the register table. -/
def regRows1 : List RegRow := [
  ⟨A.glbTimeLo, 1, 134217728, 1, 134217728, 1, 134217728, 0x0, 0x0, 0x0, 0x0⟩,
  ⟨A.glbTimeHi, 1, 134217728, 1, 134217728, 1, 134217728, 0x0, 0x0, 0x0, 0x0⟩,
  ⟨A.glbShotLo, 1, 134217728, 1, 134217728, 1, 134217728, 0xFFFFFFFF, 0x0, 0x0, 0x0⟩,
  ⟨A.glbShotHi, 1, 134217728, 1, 134217728, 1, 134217728, 0xFFFF, 0x0, 0x0, 0x0⟩,
  ⟨A.glbShotPeriod, 1, 134217728, 1, 134217728, 1, 134217728, 0x0, 0x0, 0x0, 0x0⟩,
  ⟨A.glbTickStatus, 1, 134217728, 1, 134217728, 1, 134217728, 0x0, 0x0, 0x80000000, 0x0⟩,
  ⟨A.glbCdcStatus, 1, 134217728, 1, 134217728, 1, 134217728, 0x0, 0x0, 0x3F, 0x0⟩,
  ⟨A.glbAudit, 1, 134217728, 1, 134217728, 1, 134217728, 0x0, 0x0, 0x0, 0x0⟩,
  ⟨A.stlAudCtrl, 1, 134217728, 8, 2097152, 80, 16384, 0x0, 0x0, 0x0, 0x0⟩,
  ⟨A.stlAudFirstCycle, 1, 134217728, 8, 2097152, 80, 16384, 0x0, 0x0, 0x0, 0x0⟩,
  ⟨A.stlAudFirstInfo, 1, 134217728, 8, 2097152, 80, 16384, 0x0, 0x0, 0x0, 0x0⟩,
  ⟨A.stlAudFirstAddr, 1, 134217728, 8, 2097152, 80, 16384, 0x0, 0x0, 0x0, 0x0⟩,
  ⟨A.stlOpeCtrl, 1, 134217728, 8, 2097152, 80, 16384, 0x0, 0x0, 0x0, 0x0⟩,
  ⟨A.stlOpeStatus, 1, 134217728, 8, 2097152, 80, 16384, 0x0, 0x0, 0x0, 0x0⟩,
  ⟨A.stlOpeAnchor, 1, 134217728, 8, 2097152, 80, 16384, 0x0, 0x0, 0x0, 0x0⟩,
  ⟨A.stlOpeResidue, 1, 134217728, 8, 2097152, 80, 16384, 0x0, 0x0, 0x0, 0x0⟩,
  ⟨A.stlOpeErr, 1, 134217728, 8, 2097152, 80, 16384, 0x0, 0x0, 0xF0000000, 0x0⟩,
  ⟨A.stlOpeMacsLo, 1, 134217728, 8, 2097152, 80, 16384, 0x0, 0x0, 0x0, 0x0⟩,
  ⟨A.stlOpeMacsHi, 1, 134217728, 8, 2097152, 80, 16384, 0x0, 0x0, 0x0, 0x0⟩,
  ⟨A.stlOpeKeepwarm, 1, 134217728, 8, 2097152, 80, 16384, 0x0, 0x0, 0x0, 0x0⟩]

/-- Part 2 of the register table. -/
def regRows2 : List RegRow := [
  ⟨A.stlVecStatus, 1, 134217728, 8, 2097152, 80, 16384, 0x0, 0x0, 0x0, 0x0⟩,
  ⟨A.stlVecErr, 1, 134217728, 8, 2097152, 80, 16384, 0x0, 0x0, 0xFC000000, 0x0⟩,
  ⟨A.stlVecSelftest, 1, 134217728, 8, 2097152, 80, 16384, 0x0, 0x0, 0x0, 0x0⟩,
  ⟨A.stlVecFtab, 1, 134217728, 8, 2097152, 80, 16384, 0x0, 0x0, 0x0, 0x0⟩,
  ⟨A.stlSpdTmap, 1, 134217728, 8, 2097152, 80, 16384, 0x0, 0x0, 0x0, 0x0⟩,
  ⟨A.stlSpdPwr, 1, 134217728, 8, 2097152, 80, 16384, 0xFFFFFFFF, 0x0, 0x0, 0x0⟩,
  ⟨A.stlSpdErr, 1, 134217728, 8, 2097152, 80, 16384, 0x0, 0x0, 0xFC000000, 0x0⟩,
  ⟨A.stlSpdGather, 1, 134217728, 8, 2097152, 80, 16384, 0x0, 0x0, 0x0, 0x0⟩,
  ⟨A.stlSpdPcount, 1, 134217728, 8, 2097152, 80, 16384, 0x0, 0x0, 0x0, 0x0⟩,
  ⟨A.stlSpdIaddr, 1, 134217728, 8, 2097152, 80, 16384, 0x0, 0x4000FFFF, 0x0, 0x0⟩,
  ⟨A.stlSpdIdata, 8, 2097152, 80, 16384, 16, 4, 0x0, 0xFFFFFFFF, 0x0, 0x0⟩,
  ⟨A.stlSeqCtrl, 1, 134217728, 8, 2097152, 80, 16384, 0x0, 0x0, 0x0, 0x0⟩,
  ⟨A.stlSeqTack, 1, 134217728, 8, 2097152, 80, 16384, 0xFFFF00, 0x0, 0x0, 0x0⟩,
  ⟨A.stlSeqEntry, 1, 134217728, 8, 2097152, 80, 16384, 0x3FF0000, 0x0, 0x0, 0x0⟩,
  ⟨A.stlSeqStatus, 1, 134217728, 8, 2097152, 80, 16384, 0x0, 0x0, 0x0, 0x0⟩,
  ⟨A.stlSeqLast, 1, 134217728, 8, 2097152, 80, 16384, 0x0, 0x0, 0x0, 0x0⟩,
  ⟨A.stlSeqPc, 1, 134217728, 8, 2097152, 80, 16384, 0x0, 0x0, 0x0, 0x0⟩,
  ⟨A.stlSeqSkip, 1, 134217728, 8, 2097152, 80, 16384, 0x0, 0x0, 0x0, 0x0⟩,
  ⟨A.stlSeqSkipFirst, 1, 134217728, 8, 2097152, 80, 16384, 0x0, 0x0, 0x0, 0x0⟩,
  ⟨A.stlSeqTackErr, 1, 134217728, 8, 2097152, 80, 16384, 0x0, 0x0, 0xE0000000, 0x0⟩]

/-- Part 3 of the register table. -/
def regRows3 : List RegRow := [
  ⟨A.stlSeqFmt, 8, 2097152, 80, 16384, 8, 4, 0x0, 0x0, 0x0, 0x0⟩,
  ⟨A.ymStatus, 1, 134217728, 1, 134217728, 8, 2097152, 0x0, 0x0, 0x0, 0x0⟩,
  ⟨A.ymTdmaCtrl, 1, 134217728, 1, 134217728, 8, 2097152, 0xFF, 0x7FFC00FF, 0x0, 0x0⟩,
  ⟨A.ymTdmaStatus, 1, 134217728, 1, 134217728, 8, 2097152, 0x0, 0x0, 0x0, 0x0⟩,
  ⟨A.ymTackSwitch, 1, 134217728, 1, 134217728, 8, 2097152, 0x0, 0xF, 0x0, 0x0⟩,
  ⟨A.ymBarStatus, 1, 134217728, 1, 134217728, 8, 2097152, 0x0, 0x0, 0x80000000, 0x0⟩,
  ⟨A.ymErr, 1, 134217728, 1, 134217728, 8, 2097152, 0x0, 0x0, 0xE0000000, 0x0⟩,
  ⟨A.ymFmtPend, 1, 134217728, 8, 2097152, 8, 4, 0x0, 0x0, 0x0, 0x0⟩,
  ⟨A.stlStrMode, 1, 134217728, 8, 2097152, 80, 16384, 0x0, 0x0, 0x0, 0x0⟩,
  ⟨A.stlStrErr, 1, 134217728, 8, 2097152, 80, 16384, 0x0, 0x0, 0xFC000000, 0x0⟩,
  ⟨A.stlStrUse, 1, 134217728, 8, 2097152, 80, 16384, 0x0, 0x0, 0x0, 0x0⟩,
  ⟨A.stlStrCtxStatus, 8, 2097152, 80, 16384, 8, 32, 0x0, 0x0, 0x0, 0x0⟩,
  ⟨A.stlStrCtxFault, 8, 2097152, 80, 16384, 8, 32, 0x0, 0x0, 0x0, 0x0⟩,
  ⟨A.stlStrCtxPf0, 8, 2097152, 80, 16384, 8, 32, 0x0, 0x0, 0x0, 0x0⟩,
  ⟨A.stlStrCtxPf1, 8, 2097152, 80, 16384, 8, 32, 0x0, 0x0, 0x0, 0x0⟩,
  ⟨A.stlStrCtxPf2, 8, 2097152, 80, 16384, 8, 32, 0x0, 0x0, 0x0, 0x0⟩,
  ⟨A.stlPonyStatus, 1, 134217728, 8, 2097152, 80, 16384, 0x0, 0x0, 0x0, 0x0⟩,
  ⟨A.stlPonyCount, 1, 134217728, 8, 2097152, 80, 16384, 0x0, 0x0, 0x0, 0x0⟩,
  ⟨A.stlPonyWait, 1, 134217728, 8, 2097152, 80, 16384, 0x0, 0x0, 0x0, 0x0⟩,
  ⟨A.stlPonyErr, 1, 134217728, 8, 2097152, 80, 16384, 0x0, 0x0, 0xE0000000, 0x0⟩]

/-- Part 4 of the register table. -/
def regRows4 : List RegRow := [
  ⟨A.hbmStatus, 1, 134217728, 1, 134217728, 32, 16384, 0x0, 0x0, 0x0, 0x0⟩,
  ⟨A.hbmEccCount, 1, 134217728, 1, 134217728, 32, 16384, 0x0, 0x0, 0x0, 0x0⟩,
  ⟨A.hbmEccErr, 1, 134217728, 1, 134217728, 32, 16384, 0x0, 0x0, 0xF8000000, 0x0⟩,
  ⟨A.hbmErrAddrLo, 1, 134217728, 1, 134217728, 32, 16384, 0x0, 0x0, 0x0, 0x0⟩,
  ⟨A.hbmErrAddrHi, 1, 134217728, 1, 134217728, 32, 16384, 0x0, 0x0, 0x0, 0x0⟩,
  ⟨A.hbmScrub, 1, 134217728, 1, 134217728, 32, 16384, 0x0, 0x0, 0x0, 0x0⟩,
  ⟨A.hbmRefresh, 1, 134217728, 1, 134217728, 32, 16384, 0x0, 0x0, 0x0, 0x0⟩,
  ⟨A.farTable, 1, 134217728, 1, 134217728, 1, 134217728, 0x0, 0x0, 0x0, 0x0⟩,
  ⟨A.loftFrames, 1, 134217728, 1, 134217728, 1, 134217728, 0x0, 0x0, 0x0, 0x0⟩,
  ⟨A.loftPins, 1, 134217728, 1, 134217728, 1, 134217728, 0x0, 0x0, 0x0, 0x0⟩,
  ⟨A.loftPromoted, 1, 134217728, 1, 134217728, 1, 134217728, 0x0, 0x0, 0x0, 0x0⟩,
  ⟨A.loftEvicted, 1, 134217728, 1, 134217728, 1, 134217728, 0x0, 0x0, 0x0, 0x0⟩,
  ⟨A.updStatus, 1, 134217728, 1, 134217728, 1, 134217728, 0x0, 0x0, 0x0, 0x0⟩,
  ⟨A.updLastStepLo, 1, 134217728, 1, 134217728, 1, 134217728, 0x0, 0x0, 0x0, 0x0⟩,
  ⟨A.updLastStepHi, 1, 134217728, 1, 134217728, 1, 134217728, 0x0, 0x0, 0x0, 0x0⟩,
  ⟨A.updLastResult, 1, 134217728, 1, 134217728, 1, 134217728, 0x0, 0x0, 0x0, 0x0⟩,
  ⟨A.updLastCounts, 1, 134217728, 1, 134217728, 1, 134217728, 0x0, 0x0, 0x0, 0x0⟩,
  ⟨A.updPass, 1, 134217728, 1, 134217728, 1, 134217728, 0x0, 0x0, 0x0, 0x0⟩,
  ⟨A.updErr, 1, 134217728, 1, 134217728, 1, 134217728, 0x0, 0x0, 0xF0000000, 0x0⟩,
  ⟨A.updSkewFirst, 1, 134217728, 1, 134217728, 1, 134217728, 0x0, 0x0, 0x0, 0x0⟩]

/-- Part 5 of the register table. -/
def regRows5 : List RegRow := [
  ⟨A.updFreeze, 1, 134217728, 1, 134217728, 1, 134217728, 0x0, 0x40000FFF, 0x0, 0x0⟩,
  ⟨A.updFmtOvr, 1, 134217728, 1, 134217728, 8, 4, 0x0, 0xFFFFFFFF, 0x0, 0x0⟩,
  ⟨A.updFmtThresh, 1, 134217728, 1, 134217728, 1, 134217728, 0x0, 0x0, 0x0, 0x0⟩,
  ⟨A.updSnap, 1, 134217728, 1, 134217728, 1, 134217728, 0x0, 0x0, 0x0, 0x0⟩,
  ⟨A.ckpStatus, 1, 134217728, 1, 134217728, 1, 134217728, 0x0, 0x0, 0x0, 0x0⟩,
  ⟨A.ckpCtrl, 1, 134217728, 1, 134217728, 1, 134217728, 0x10001, 0xFFFFFFFF, 0x0, 0x0⟩,
  ⟨A.ckpInterval, 1, 134217728, 1, 134217728, 1, 134217728, 0x0, 0x0, 0x0, 0x0⟩,
  ⟨A.ckpFail, 1, 134217728, 1, 134217728, 1, 134217728, 0x0, 0x0, 0x0, 0x0⟩,
  ⟨A.ckpCost, 1, 134217728, 1, 134217728, 1, 134217728, 0x0, 0x0, 0x0, 0x0⟩,
  ⟨A.ckpStepTime, 1, 134217728, 1, 134217728, 1, 134217728, 0x0, 0x0, 0x0, 0x0⟩,
  ⟨A.ckpRate, 1, 134217728, 1, 134217728, 1, 134217728, 0x0, 0x0, 0x0, 0x0⟩,
  ⟨A.ckpPointLo, 1, 134217728, 1, 134217728, 1, 134217728, 0x0, 0x0, 0x0, 0x0⟩,
  ⟨A.ckpPointHi, 1, 134217728, 1, 134217728, 1, 134217728, 0x0, 0x0, 0x0, 0x0⟩,
  ⟨A.ckpFullLo, 1, 134217728, 1, 134217728, 1, 134217728, 0x0, 0x0, 0x0, 0x0⟩,
  ⟨A.ckpFullHi, 1, 134217728, 1, 134217728, 1, 134217728, 0x0, 0x0, 0x0, 0x0⟩,
  ⟨A.ckpRestoreLo, 1, 134217728, 1, 134217728, 1, 134217728, 0x0, 0xFFFFFFFF, 0x0, 0x0⟩,
  ⟨A.ckpRestoreHi, 1, 134217728, 1, 134217728, 1, 134217728, 0x0, 0xFFFFFFFF, 0x0, 0x0⟩,
  ⟨A.ckpRestoreCtrl, 1, 134217728, 1, 134217728, 1, 134217728, 0x0, 0x7, 0x0, 0x0⟩,
  ⟨A.ckpErr, 1, 134217728, 1, 134217728, 1, 134217728, 0x0, 0x0, 0xF8000000, 0x0⟩,
  ⟨A.fabPortCtrl, 1, 134217728, 1, 134217728, 20, 16384, 0x0, 0x0, 0x0, 0x0⟩]

/-- Part 6 of the register table. -/
def regRows6 : List RegRow := [
  ⟨A.fabPortStatus, 1, 134217728, 1, 134217728, 20, 16384, 0x0, 0x0, 0x0, 0x0⟩,
  ⟨A.fabPortPeer, 1, 134217728, 1, 134217728, 20, 16384, 0x0, 0x0, 0x0, 0x0⟩,
  ⟨A.fabPortRetry, 1, 134217728, 1, 134217728, 20, 16384, 0x0, 0x0, 0x0, 0x0⟩,
  ⟨A.fabPortFec, 1, 134217728, 1, 134217728, 20, 16384, 0x0, 0x0, 0x0, 0x0⟩,
  ⟨A.fabPortErr, 1, 134217728, 1, 134217728, 20, 16384, 0x0, 0x0, 0xF0000000, 0x0⟩,
  ⟨A.fabInjCtrl, 1, 134217728, 1, 134217728, 20, 16384, 0x0, 0x4007FFFF, 0x0, 0x0⟩,
  ⟨A.fabInjParam, 1, 134217728, 1, 134217728, 20, 16384, 0x0, 0xFFFF3FFF, 0x0, 0x0⟩,
  ⟨A.fabId, 1, 134217728, 1, 134217728, 1, 134217728, 0x0, 0x0, 0x0, 0x0⟩,
  ⟨A.fabDims, 1, 134217728, 1, 134217728, 1, 134217728, 0x0, 0x0, 0x0, 0x0⟩,
  ⟨A.fabCoord, 1, 134217728, 1, 134217728, 1, 134217728, 0x0, 0x0, 0x0, 0x0⟩,
  ⟨A.fabTick, 1, 134217728, 1, 134217728, 1, 134217728, 0x0, 0x0, 0x0, 0x0⟩,
  ⟨A.fabTimeOffset, 1, 134217728, 1, 134217728, 1, 134217728, 0x0, 0x0, 0x0, 0x0⟩,
  ⟨A.fabSubst, 1, 134217728, 1, 134217728, 1, 134217728, 0x0, 0xF, 0x0, 0x0⟩,
  ⟨A.fabSubstShotLo, 1, 134217728, 1, 134217728, 1, 134217728, 0x0, 0xFFFFFFFF, 0x0, 0x0⟩,
  ⟨A.fabSubstShotHi, 1, 134217728, 1, 134217728, 1, 134217728, 0x0, 0xFFFF, 0x0, 0x0⟩,
  ⟨A.fabWinCtrl, 1, 134217728, 1, 134217728, 1, 134217728, 0x0, 0x400000FF, 0x0, 0x0⟩,
  ⟨A.fabWinDrops, 1, 134217728, 1, 134217728, 1, 134217728, 0x0, 0x0, 0x0, 0x0⟩,
  ⟨A.fabBindCtrl, 1, 134217728, 1, 134217728, 1, 134217728, 0x0, 0x3FFFFFF, 0x0, 0x0⟩,
  ⟨A.fabErr, 1, 134217728, 1, 134217728, 1, 134217728, 0x0, 0x0, 0xF0000000, 0x0⟩,
  ⟨A.glbBar2Window, 1, 134217728, 1, 134217728, 1, 134217728, 0x0, 0x7FF, 0x0, 0x0⟩]

/-- Part 7 of the register table. -/
def regRows7 : List RegRow := [
  ⟨A.glbPcieStatus, 1, 134217728, 1, 134217728, 1, 134217728, 0x0, 0x0, 0x0, 0x0⟩,
  ⟨A.glbHostErr, 1, 134217728, 1, 134217728, 1, 134217728, 0x0, 0x0, 0xF0000000, 0x0⟩,
  ⟨A.glbAuxStatus, 1, 134217728, 1, 134217728, 1, 134217728, 0x0, 0x0, 0x0, 0x0⟩,
  ⟨A.glbRingBaseLo, 1, 134217728, 1, 134217728, 64, 64, 0x0, 0xFFFFF000, 0x0, 0x0⟩,
  ⟨A.glbRingBaseHi, 1, 134217728, 1, 134217728, 64, 64, 0x0, 0xFFFFFFFF, 0x0, 0x0⟩,
  ⟨A.glbRingCfg, 1, 134217728, 1, 134217728, 64, 64, 0x2, 0xC7FF000F, 0x0, 0x0⟩,
  ⟨A.glbRingStatus, 1, 134217728, 1, 134217728, 64, 64, 0x0, 0x0, 0x0, 0x0⟩,
  ⟨A.glbRingCount, 1, 134217728, 1, 134217728, 64, 64, 0x0, 0x0, 0x0, 0x0⟩,
  ⟨A.mbxCmdData, 1, 134217728, 1, 134217728, 1, 134217728, 0x0, 0x0, 0x0, 0x0⟩,
  ⟨A.mbxCmdPush, 1, 134217728, 1, 134217728, 1, 134217728, 0x0, 0x0, 0x0, 0x0⟩,
  ⟨A.mbxCmdSpace, 1, 134217728, 1, 134217728, 1, 134217728, 0x400, 0x0, 0x0, 0x0⟩,
  ⟨A.mbxAck, 1, 134217728, 1, 134217728, 1, 134217728, 0x0, 0x0, 0x0, 0x0⟩,
  ⟨A.mbxHdb, 1, 134217728, 1, 134217728, 1, 134217728, 0x0, 0x0, 0xFFFFFFFF, 0x0⟩,
  ⟨A.mbxHdbMask, 1, 134217728, 1, 134217728, 1, 134217728, 0xFFFFFFFF, 0xFFFFFFFF, 0x0, 0x0⟩,
  ⟨A.mbxCfg, 1, 134217728, 1, 134217728, 1, 134217728, 0x0, 0x7FF, 0x0, 0x0⟩,
  ⟨A.mbxSecFlag, 1, 134217728, 1, 134217728, 1, 134217728, 0x0, 0x0, 0x0, 0x0⟩,
  ⟨A.evtWptr, 1, 134217728, 1, 134217728, 1, 134217728, 0x0, 0x0, 0x0, 0x0⟩,
  ⟨A.evtRptr, 1, 134217728, 1, 134217728, 1, 134217728, 0x0, 0x7FFFF, 0x0, 0x0⟩,
  ⟨A.evtCtrl, 1, 134217728, 1, 134217728, 1, 134217728, 0x0, 0x800007FF, 0x40000000, 0x0⟩,
  ⟨A.evtLost, 1, 134217728, 1, 134217728, 1, 134217728, 0x0, 0x0, 0x0, 0x0⟩]

/-- Part 8 of the register table. -/
def regRows8 : List RegRow := [
  ⟨A.glbId, 1, 134217728, 1, 134217728, 1, 134217728, 0x32000001, 0x0, 0x0, 0x0⟩,
  ⟨A.glbStatus, 1, 134217728, 1, 134217728, 1, 134217728, 0x0, 0x0, 0x0, 0x0⟩,
  ⟨A.glbReset, 1, 134217728, 1, 134217728, 1, 134217728, 0x0, 0x0, 0x0, 0x0⟩,
  ⟨A.glbResetCause, 1, 134217728, 1, 134217728, 1, 134217728, 0x0, 0x0, 0x0, 0x0⟩,
  ⟨A.glbAuth, 1, 134217728, 1, 134217728, 1, 134217728, 0x1, 0x0, 0x0, 0x0⟩,
  ⟨A.glbFw, 1, 134217728, 1, 134217728, 1, 134217728, 0x0, 0x0, 0x0, 0x0⟩,
  ⟨A.cfgCtrl, 1, 134217728, 1, 134217728, 1, 134217728, 0x0, 0x0, 0x0, 0x0⟩,
  ⟨A.cfgStatus, 1, 134217728, 1, 134217728, 1, 134217728, 0x0, 0x0, 0x0, 0x0⟩,
  ⟨A.cfgImgAddrLo, 1, 134217728, 1, 134217728, 1, 134217728, 0x0, 0x0, 0x0, 0xFFFFFFC0⟩,
  ⟨A.cfgImgAddrHi, 1, 134217728, 1, 134217728, 1, 134217728, 0x0, 0x0, 0x0, 0x1FF⟩,
  ⟨A.cfgImgLen, 1, 134217728, 1, 134217728, 1, 134217728, 0x0, 0x0, 0x0, 0xFFFFFFFF⟩,
  ⟨A.cfgRefusal, 1, 134217728, 1, 134217728, 1, 134217728, 0x0, 0x0, 0x0, 0x0⟩,
  ⟨A.cfgRefusalAt, 1, 134217728, 1, 134217728, 1, 134217728, 0x0, 0x0, 0x0, 0x0⟩,
  ⟨A.cfgDigest, 1, 134217728, 1, 134217728, 8, 4, 0x0, 0x0, 0x0, 0x0⟩,
  ⟨A.cfgConfDigest, 1, 134217728, 1, 134217728, 8, 4, 0x0, 0x0, 0x0, 0x0⟩,
  ⟨A.safeStatus, 1, 134217728, 1, 134217728, 1, 134217728, 0x0, 0x0, 0x0, 0x0⟩,
  ⟨A.safeCtrl, 1, 134217728, 1, 134217728, 1, 134217728, 0x2, 0x3, 0x0, 0x0⟩,
  ⟨A.safeFenceLast, 1, 134217728, 1, 134217728, 1, 134217728, 0x0, 0x0, 0x0, 0x0⟩,
  ⟨A.safeFenceReq, 1, 134217728, 1, 134217728, 1, 134217728, 0x0, 0x3FF, 0x0, 0x0⟩,
  ⟨A.safeSpares, 1, 134217728, 1, 134217728, 4, 4, 0x22222222, 0x0, 0x0, 0x0⟩]

/-- Part 9 of the register table. -/
def regRows9 : List RegRow := [
  ⟨A.safeFailShotLo, 1, 134217728, 1, 134217728, 1, 134217728, 0x0, 0x0, 0x0, 0x0⟩,
  ⟨A.safeFailShotHi, 1, 134217728, 1, 134217728, 1, 134217728, 0x0, 0x0, 0x0, 0x0⟩,
  ⟨A.safeFailCause, 1, 134217728, 1, 134217728, 1, 134217728, 0x0, 0x0, 0x0, 0x0⟩,
  ⟨A.safeCounts, 1, 134217728, 1, 134217728, 1, 134217728, 0x0, 0x0, 0x0, 0x0⟩,
  ⟨A.stlAudStrikes, 1, 134217728, 8, 2097152, 80, 16384, 0x0, 0x0, 0x0, 0x0⟩,
  ⟨A.pwrStatus, 1, 134217728, 1, 134217728, 1, 134217728, 0x0, 0x0, 0x0, 0x0⟩,
  ⟨A.pwrCtrl, 1, 134217728, 1, 134217728, 1, 134217728, 0x0, 0x0, 0x0, 0x0⟩,
  ⟨A.pwrVin, 1, 134217728, 1, 134217728, 1, 134217728, 0x0, 0x0, 0x0, 0x0⟩,
  ⟨A.pwrIin, 1, 134217728, 1, 134217728, 1, 134217728, 0x0, 0x0, 0x0, 0x0⟩,
  ⟨A.pwrPin, 1, 134217728, 1, 134217728, 1, 134217728, 0x0, 0x0, 0x0, 0x0⟩,
  ⟨A.pwrBudget, 1, 134217728, 1, 134217728, 1, 134217728, 0x0, 0x0, 0x0, 0x0⟩,
  ⟨A.pwrShotDecl, 1, 134217728, 1, 134217728, 1, 134217728, 0x0, 0x0, 0x0, 0x0⟩,
  ⟨A.pwrShotMeas, 1, 134217728, 1, 134217728, 1, 134217728, 0x0, 0x0, 0x0, 0x0⟩,
  ⟨A.pwrAbove, 1, 134217728, 1, 134217728, 1, 134217728, 0x0, 0x0, 0x0, 0x0⟩,
  ⟨A.pwrErr, 1, 134217728, 1, 134217728, 1, 134217728, 0x0, 0x0, 0xFE000000, 0x0⟩,
  ⟨A.pwrSensorSel, 1, 134217728, 1, 134217728, 1, 134217728, 0x0, 0xFF, 0x0, 0x0⟩,
  ⟨A.pwrSensorData, 1, 134217728, 1, 134217728, 1, 134217728, 0x0, 0x0, 0x0, 0x0⟩]

/-- Every register of BAR0. -/
def regRows : List RegRow :=
  regRows1 ++ regRows2 ++ regRows3 ++ regRows4 ++ regRows5 ++ regRows6 ++ regRows7 ++ regRows8 ++ regRows9

/-- The row of the register at an address. -/
def regRow (a : Nat) : Option RegRow := regRows.find? fun r => r.holds a

/-- What the register at an address holds after reset; zero where none stands (R6). -/
def regReset (a : Nat) : Nat := match regRow a with | some r => r.reset | none => 0

/-- The registers that software has written or the module has changed, by address. -/
abbrev RegBank := Sparse Nat

/-- The value held for the register at an address. -/
def RegBank.get (m : RegBank) (a : Nat) : Nat := sget regReset m a

/-- Sets the value held for the register at an address. -/
def RegBank.set (m : RegBank) (a v : Nat) : RegBank := sset regReset m a (v % 2 ^ 32)

/-- Bits hi to lo of a register. -/
def RegBank.field (m : RegBank) (a hi lo : Nat) : Nat := natBits (m.get a) hi lo

/-- A register with bits hi to lo replaced. -/
def RegBank.setField (m : RegBank) (a hi lo v : Nat) : RegBank := m.set a (setBits (m.get a) hi lo v)

/-- A counting field that stops at its greatest value. -/
def RegBank.count (m : RegBank) (a hi lo k : Nat) : RegBank :=
  m.setField a hi lo (min (2 ^ (hi + 1 - lo) - 1) (m.field a hi lo + k))

/-- What a write of v leaves in a register that held old (R4, R5): `locked` while an image is admitted. -/
def RegRow.write (r : RegRow) (locked : Bool) (old v : Nat) : Nat :=
  let rw := if locked then r.rw else r.rw ||| r.rwl
  let kept := old &&& (0xFFFFFFFF ^^^ rw)
  (kept ||| (v &&& rw)) &&& (0xFFFFFFFF ^^^ (v &&& r.w1c))

end Sys2Proof.Machine
end

