-- ==== Sys2Proof/Machine/State.lean ====
section
/-!
DEFINITION. The state of the block as plain data, what it is after reset, and the reasons for which a step can stop.
-/
namespace Sys2Proof.Machine

/-- The state. Kept apart: `pending` is the queue of commands; `free` is the model's own count of free values taken. Every other
field is the module's. -/
structure State where
  /-- commands that are waiting, first in first out -/
  pending : List Instr
  /-- the core cycle, counted since the model's start -/
  cyc : Nat
  /-- the time count is `cyc / 7 + off` modulo 2^64 (R42, R66) -/
  off : Nat
  /-- registers of BAR0 that are not read from the structured state -/
  regs : RegBank
  /-- holding copies of the upper words of wide values (R9) -/
  hold : Sparse Nat
  /-- bits of registers that the module has set, each with its cycle: those of the present cycle (R10) -/
  sets : List (Nat × Nat × Nat)
  /-- crossings between clock domains, by 64 × group + signal: the cycle at which the last event on each is usable (R44 to R48) -/
  cdc : Sparse Nat
  /-- the 640 stalls, by 80 b + s -/
  stalls : Sparse Stall
  /-- the eight yardmasters -/
  barns : Sparse Barn
  /-- the 32 base dies -/
  dies : Sparse Stack
  /-- HBM: byte a of stack j at j 2^36 + a -/
  hbm : Memory
  /-- units of HBM whose stored symbols are in error, by key / 32 -/
  bad : Sparse BadUnit
  far : Far
  log : Log
  shot : Shot
  safe : Safe
  train : Train
  ckpt : Ckpt
  fab : Fab
  host : HostIf
  flash : Flash
  sec : Secure
  boot : Boot
  power : Power
  /-- free values taken so far (the model's own field) -/
  free : Nat
  /-- what the module has driven outward, oldest first -/
  out : List Out
  deriving DecidableEq, Repr

/-- What an unlisted stall is. -/
def zeroStall : Nat → Stall := fun _ => .reset

/-- Reasons for a fault. There is none: every command has an effect the spec gives it, or finds nothing to act on. -/
inductive Fault where
  deriving DecidableEq, Repr

/-- Reasons for a refusal. -/
inductive Refusal where
  /-- A command without a meaning yet; answered by an arm of `exec` only. Safe: nothing is claimed of it. -/
  | notModelled (mnemonic : String)
  deriving DecidableEq, Repr

/-- The machine right after reset: STANDBY with 52 V present and PWR_EN low (R486), registers at the values of their tables,
the authority token at 0b01 (R453), memories with nothing listed, no command waiting. -/
def State.reset : State :=
  ⟨[], 0, 0, [], [], [], [], [], [], [], [], [], .reset, .reset, .reset, .reset, .reset, .reset, .reset, .reset, .reset, .reset,
    .reset, .reset, 0, []⟩

end Sys2Proof.Machine
end

