-- ==== Sys2Proof/Machine/Ops.lean ====
section
/-!
DEFINITION. The named operations that every meaning is made of: time, registers, stalls, events and shot failure, doorbell bits,
interrupts, what leaves the module.
-/
namespace Sys2Proof.Machine

/-! ### Time (R29, R42, R66) -/

/-- The time count at core cycle x. -/
def State.countAt (s : State) (x : Nat) : Nat := (x / 7 + s.off) % 2 ^ 64

/-- The present time count. -/
def State.now (s : State) : Nat := s.countAt s.cyc

/-- The first core cycle of the count t. -/
def State.cycleOf (s : State) (t : Nat) : Nat := ((t + 2 ^ 64 - s.off % 2 ^ 64) % 2 ^ 64) * 7

/-- A command that happens at cycle x: time has reached x. -/
def State.at_ (s : State) (x : Nat) : State := { s with cyc := max s.cyc x }

/-- The step of an empty queue: a core cycle passes. -/
def State.idle (s : State) : State := { s with cyc := s.cyc + 1 }

/-! ### Registers (R3 to R5) -/

def State.reg (s : State) (a : Nat) : Nat := s.regs.get a

def State.setReg (s : State) (a v : Nat) : State := { s with regs := s.regs.set a v }

def State.field (s : State) (a hi lo : Nat) : Nat := s.regs.field a hi lo

def State.setField (s : State) (a hi lo v : Nat) : State := { s with regs := s.regs.setField a hi lo v }

def State.bit (s : State) (a i : Nat) : Bool := natBit (s.reg a) i

/-- The module sets bit i of a register, in the present cycle. -/
def State.setBit (s : State) (a i : Nat) : State :=
  { s.setReg a (orBit (s.reg a) i) with
    sets := (a, i, s.cyc) :: s.sets.filter fun q => decide (q.2.2 = s.cyc ∧ ¬(q.1 = a ∧ q.2.1 = i)) }

/-- The bits of a register that the module has set in the present cycle (R10). -/
def State.setNow (s : State) (a : Nat) : Nat :=
  (s.sets.filter fun q => decide (q.1 = a ∧ q.2.2 = s.cyc)).foldl (fun w q => orBit w q.2.1) 0

def State.putBit (s : State) (a i : Nat) (v : Bool) : State := s.setField a i i (if v then 1 else 0)

/-- Adds to a counting field that stops at its greatest value. -/
def State.bump (s : State) (a hi lo k : Nat) : State := { s with regs := s.regs.count a hi lo k }

/-- A counter of 32 bits that wraps (where its register says no stop). -/
def State.wrapAdd (s : State) (a k : Nat) : State := s.setReg a (s.reg a + k)

/-- Address of a barn's register, from the register of barn 0. -/
def barnReg (a b : Nat) : Nat := a + b * 0x200000

/-- Address of a stall's register, from the register of stall 0 (R21). -/
def stallReg (a i : Nat) : Nat := a + i / 80 * 0x200000 + i % 80 * 0x4000

/-- Address of a stack's register. -/
def stackReg (a j : Nat) : Nat := a + j * 0x4000

/-- Address of a port's register. -/
def portReg (a p : Nat) : Nat := a + p * 0x4000

/-- Address of a ring's register. -/
def ringReg (a n : Nat) : Nat := a + n * 0x40

/-! ### Sources (R61, R508) -/

def srcStall (i : Nat) : Nat := i / 80 * 512 + i % 80
def srcYard (b : Nat) : Nat := 0x1000 + b * 512
def srcStack (j : Nat) : Nat := 0x2000 + j
def srcPort (p : Nat) : Nat := 0x3000 + (if 10 ≤ p then 0x100 else 0) + p
def srcGateLogic : Nat := 0x301F
def srcPowerStage : Nat := 0x5000
def srcHotSwap : Nat := 0x5001
def srcFlash : Nat := 0x5002

/-- The primary groom as a source. -/
def State.srcGroom (s : State) : Nat := if s.boot.primaryGe then 0x4100 else 0x4000

/-! ### Shot numbers (R31) -/

/-- The shot number of the last tick. -/
def State.shotNo (s : State) : Nat := s.reg A.glbShotLo + 2 ^ 32 * s.field A.glbShotHi 15 0

def State.setShotNo (s : State) (n : Nat) : State :=
  (s.setReg A.glbShotLo (n % 2 ^ 32)).setField A.glbShotHi 15 0 (n / 2 ^ 32)

/-- The period P in counts (R30). -/
def State.period (s : State) : Nat := s.field A.glbShotPeriod 25 0

/-- The first cycle of the closing margin (R33). -/
def State.marginAt (s : State) : Nat := s.shot.begin_ + 7 * s.period - 512

/-- The first cycle after the shot. -/
def State.shotEnd (s : State) : Nat := s.shot.begin_ + 7 * s.period

/-- Shot cycle of a cycle. -/
def State.shotCycle (s : State) (x : Nat) : Nat := x - s.shot.begin_

/-- The plan with a number in an image. -/
def Image.planNo (im : Image) (i : Nat) : Option Plan := im.plans.find? fun p => decide (p.num = i)

/-- The plan with a number in the admitted image. -/
def State.planAt (s : State) (i : Nat) : Option Plan := s.boot.image.bind fun im => im.planNo i

def State.plan (s : State) : Option Plan := s.shot.plan.bind s.planAt

/-- A shot with plan work is running: not in an empty shot, an audit halt or between shots (R52). -/
def State.running (s : State) : Bool := s.shot.begun && s.shot.plan.isSome && !s.bit A.glbAudit 0

/-- A host write of a register (R4, R5). A W1C bit that the module has set in the same cycle stays set (R10). -/
def State.writeReg (s : State) (a v : Nat) : State :=
  match regRow a with
  | some r => s.setReg a (r.write s.boot.image.isSome (s.reg a) (v &&& (0xFFFFFFFF ^^^ (r.w1c &&& s.setNow a))))
  | none => s

/-! ### Events (R61 to R63, R430, R431, R508) -/

/-- Enters an event detected at cycle x into the log writer. -/
def State.event (s : State) (code src x : Nat) (detail : List Byte) : State :=
  { s with log := { s.log with held := s.log.held ++ [⟨code, src, s.shotNo, s.countAt x, detail⟩] } }

/-- The detail of an event whose source is a stall (R430). -/
def stallDetail (logical : Option Nat) (tack cycle : Nat) : List Byte :=
  leBytes 2 (logical.getD 0xFFFF) ++ leBytes 2 tack ++ leBytes 4 cycle

/-- The detail of E_QUEUE_PTR (R427): 0 event log, 1 command queue, 2 and 3 snapshot-out of GW and GE, 4 pony queue. -/
def queueDetail (q : Nat) : List Byte := leBytes 8 q

/-- The detail of an event whose source is a gate port (R430). -/
def portDetail (number module_ cycle : Nat) : List Byte := leBytes 2 number ++ leBytes 2 module_ ++ leBytes 4 cycle

/-- An event of a gate port at cycle x, about a frame. -/
def State.portEvent (s : State) (code p x : Nat) (f : Option Frame) : State :=
  let (n, m) := match f with | some f => (f.number, f.src) | none => (0xFFFF, 0xFFFF)
  s.event code (srcPort p) x (portDetail n m (s.shotCycle x))

/-- The shot in progress fails for an event detected at cycle x, unless its decision no longer takes it (R35). The first failure
in time stands. -/
def State.failShot (s : State) (x code src : Nat) : State :=
  if !s.shot.begun || decide (s.marginAt < x) || s.shot.margin then s
  else
    match s.shot.fail with
    | some f => if x < f.at_ then { s with shot := { s.shot with fail := some ⟨x, code, src⟩ } } else s
    | none => { s with shot := { s.shot with fail := some ⟨x, code, src⟩ } }

/-- An event that fails the shot. -/
def State.failEvent (s : State) (code src x : Nat) (detail : List Byte) : State :=
  (s.event code src x detail).failShot x code src

/-! ### Stalls -/

def State.stall (s : State) (i : Nat) : Stall := sget zeroStall s.stalls i

def State.setStall (s : State) (i : Nat) (st : Stall) : State := { s with stalls := sset zeroStall s.stalls i st }

def State.modStall (s : State) (i : Nat) (f : Stall → Stall) : State := s.setStall i (f (s.stall i))

def State.barn (s : State) (b : Nat) : Barn := sget zeroBarn s.barns b

def State.setBarn (s : State) (b : Nat) (v : Barn) : State := { s with barns := sset zeroBarn s.barns b v }

def State.stack (s : State) (j : Nat) : Stack := sget zeroStack s.dies j

def State.setStack (s : State) (j : Nat) (v : Stack) : State := { s with dies := sset zeroStack s.dies j v }

def State.port (s : State) (p : Nat) : Port := sget zeroPort s.fab.ports p

def State.setPort (s : State) (p : Nat) (v : Port) : State :=
  { s with fab := { s.fab with ports := sset zeroPort s.fab.ports p v } }

def State.ring (s : State) (r : Nat) : Ring := sget zeroRing s.host.rings r

def State.setRing (s : State) (r : Nat) (v : Ring) : State :=
  { s with host := { s.host with rings := sset zeroRing s.host.rings r v } }

/-- All stalls. -/
def allStalls : List Nat := List.range 640

/-- The physical stalls that are not fenced. -/
def State.goodStalls (s : State) : List Nat := allStalls.filter fun i => !(s.stall i).fenced

/-- The stalls of a barn that are not fenced. -/
def State.barnStalls (s : State) (b : Nat) : List Nat := ((List.range 80).map (b * 80 + ·)).filter fun i => !(s.stall i).fenced

/-- An operation on each stall of a list. -/
def State.eachStall (s : State) (l : List Nat) (f : Stall → Stall) : State := l.foldl (fun s i => s.modStall i f) s

/-- Whether an event halts issue under audit strictness (R59, R201). -/
def halts (code : Nat) : Bool :=
  decide (code = Ev.scheduleSkew ∨ code = Ev.instrIllegal ∨ code = Ev.instrInconsistent ∨ code = Ev.tackEcc)

/-- Whether the module runs at audit strictness. -/
def State.strict (s : State) : Bool := match s.boot.image with | some im => im.strict | none => false

/-- The earlier of a stop and cycle x. -/
def stopAt (o : Option Nat) (x : Nat) : Option Nat := some (match o with | some y => min x y | none => x)

/-- Nothing in the module issues from cycle x on (R59, R201). -/
def State.haltFrom (s : State) (x : Nat) : State :=
  let s : State := { s with shot := { s.shot with halt := some x } }
  let s := s.eachStall s.goodStalls fun st => { st with seq := { st.seq with stop := stopAt st.seq.stop x } }
  (List.range 8).foldl (fun s b => s.setBarn b { s.barn b with stop := stopAt (s.barn b).stop x }) s

/-- One event of a stall taken by the log writer, with what follows from it (R59, R201, R472). -/
def State.takeEvent (s : State) (i : Nat) (e : StallEvent) : State :=
  let st := s.stall i
  let dup := s.strict && s.shot.skewed && decide (e.code = Ev.scheduleSkew)
  let detail := if e.code = Ev.queuePtr then queueDetail 4 else stallDetail st.logical e.tack (e.cycle - st.shotStart)
  let s := if dup then s else s.event e.code (srcStall i) e.cycle detail
  let s := if e.fails then s.failShot e.cycle e.code (srcStall i) else s
  let s := if s.strict && decide (e.code = Ev.scheduleSkew) then { s with shot := { s.shot with skewed := true } } else s
  if s.strict && halts e.code && s.shot.halt.isNone && s.shot.begun then
    s.haltFrom (e.cycle + 96)
  else s

/-- Insertion of an event of a stall by its cycle. -/
def insertEvent (e : Nat × StallEvent) : List (Nat × StallEvent) → List (Nat × StallEvent)
  | [] => [e]
  | f :: t => if e.2.cycle < f.2.cycle then e :: f :: t else f :: insertEvent e t

/-- The events of the stalls in `l`, taken in order of their cycles. -/
def State.flush (s : State) (l : List Nat) : State :=
  let es := (l.map fun i => (s.stall i).events.map fun e => (i, e)).flatten
  let s := s.eachStall (l.filter fun i => !(s.stall i).events.isEmpty) fun st => { st with events := [] }
  (es.foldl (fun acc e => insertEvent e acc) []).foldl (fun s e => s.takeEvent e.1 e.2) s

/-- Every stall that differs from a stall after reset, brought forward to cycle x, and their events taken. -/
def State.syncAll (s : State) (x : Nat) : State :=
  let l := s.stalls.map (·.1)
  (s.eachStall l fun st => st.runTo x).flush l

/-- A change reaches a stall in cycle x: at once where the stall has completed the cycles before it (R225). -/
def Stall.later (st : Stall) (x : Nat) (c : Change) : Stall :=
  if x ≤ st.clk then st.apply (max x st.clk) c else { st with vec := { st.vec with changes := st.vec.changes ++ [(x, c)] } }

/-- Stall i brought forward to cycle x and its events taken; under audit strictness every stall, for the first skew counts. -/
def State.sync (s : State) (i x : Nat) : State :=
  if s.strict then (s.modStall i fun st => st.runTo x).syncAll x else (s.modStall i fun st => st.runTo x).flush [i]

/-- An operation on stall i at cycle x. -/
def State.onStall (s : State) (i x : Nat) (f : Stall → Stall) : State :=
  let s := s.sync i x
  (s.modStall i f).flush [i]

/-! ### Logical stalls (R22, R23) -/

/-- The physical stall that carries a logical stall, if one does. -/
def State.phys (s : State) (l : Nat) : Option Nat :=
  let p := sget noStall s.safe.map l
  if p < 640 then some p else none

/-- Whether a logical stall is carried now: mapped, and no move of it under way (R474). -/
def State.carried (s : State) (l : Nat) : Bool := (s.phys l).isSome && !(s.safe.moves.any fun m => m.logical = l)

/-- The aisle of a physical stall: stack j serves aisle j (R13). -/
def aisleOf (i : Nat) : Nat := i / 80 * 4 + i % 80 / 20

/-- The aisle of a logical stall (R22). -/
def logicalAisle (l : Nat) : Nat := l / 18

/-- The physical stalls of an aisle. -/
def aisleStalls (j : Nat) : List Nat := (List.range 20).map (j * 20 + ·)

/-- The spares of an aisle in ascending order (R24). -/
def State.spares (s : State) (j : Nat) : List Nat :=
  (aisleStalls j).filter fun i => !(s.stall i).fenced && !(s.safe.fenced.contains i) && !(s.safe.map.any fun m => m.2 = i)

/-- The stall profile that an image gives a logical stall. -/
def Image.profileOf (im : Image) (l : Nat) : ProfileSec :=
  match im.profiles.find? fun p => p.logicals.contains l with
  | some p => p
  | none => ⟨[], .empty, 0xFF⟩

/-- What stall i's instructions need from the image and the plan. -/
def State.env (s : State) (i : Nat) : StallEnv :=
  match s.boot.image, (s.stall i).logical with
  | some im, some l =>
    let (bars, durs) := match s.plan with
      | some p => (p.bars, (p.durations.filter fun d => d.1 = l).map fun d => (d.2.1, d.2.2.1, d.2.2.2))
      | none => ([], [])
    ⟨(im.profileOf l).profile, bars, durs⟩
  | _, _ => ⟨.empty, [], []⟩

/-- The core, yard and HBM controller clocks run: the module is powered, and no critical temperature has stopped them (R486, R487,
R489). -/
def State.clocked (s : State) : Bool := decide (s.boot.mode ≠ .standby) && !s.power.stopped

/-- The module is powered: the sideband and the boot ROM answer (R451, R486, R505). -/
def State.alive (s : State) : Bool := decide (s.boot.mode ≠ .standby)

/-- The module answers accesses of the host: powered, and a groom runs (R451, R486). -/
def State.awake (s : State) : Bool := decide (s.boot.mode ≠ .standby) && decide (s.boot.mode ≠ .boot)

/-! ### Outward -/

def State.emit (s : State) (o : Out) : State := { s with out := s.out ++ [o] }

/-- Whether requests to host memory are allowed (R406). -/
def State.hostOk (s : State) : Bool := s.host.busMaster && !s.host.d3hot

/-- An MSI-X message is due (R406, R433). -/
def State.msix (s : State) (v : Nat) : State :=
  if s.host.fmask || !s.host.unmasked.contains v then
    if s.host.pba.contains v then s else { s with host := { s.host with pba := s.host.pba ++ [v] } }
  else if s.hostOk && s.host.waiting.isEmpty then s.emit (.msix v)
  else { s with host := { s.host with waiting := s.host.waiting ++ [.msg v] } }

/-- A doorbell bit becomes set (R425). -/
def State.doorbell (s : State) (i : Nat) : State :=
  if s.bit A.mbxHdb i then s.setBit A.mbxHdb i
  else
    let s := s.setBit A.mbxHdb i
    if s.bit A.mbxHdbMask i then s else s.msix (s.field A.mbxCfg 10 0)

/-- A fresh free value's number. -/
def State.fresh (s : State) : State × Nat := ({ s with free := s.free + 1 }, s.free)

/-! ### Crossings between clock domains (R44 to R48) -/

/-- Groups of crossings, by their bit in GLB_CDC_STATUS. -/
def cdcHost : Nat := 0
def cdcAux : Nat := 1
def cdcSerdes : Nat := 2
def cdcSensor : Nat := 3
def cdcSideband : Nat := 4
def cdcPmbus : Nat := 5

/-- Whether the last event on a crossing is not usable yet (R48). -/
def State.crossing (s : State) (g k : Nat) : Bool := decide (s.cyc < sget zeroNat s.cdc (64 * g + k))

/-- An overrun of group g (R48): counted, its flag set, and its event logged where the flag was 0. -/
def State.overrun (s : State) (g : Nat) : State :=
  let t := s.bump A.glbCdcStatus 31 16 1
  if t.bit A.glbCdcStatus g then t.setBit A.glbCdcStatus g
  else (t.setBit A.glbCdcStatus g).event Ev.cdcOverrun s.srcGroom s.cyc []

/-- An event reaches signal k of crossing group g. It is usable 2 or 3 receiving cycles later, which of them the module does not fix (R47):
4 or 6 core cycles (DESIGN CHOICE, log 140). -/
def State.cross (s : State) (g k : Nat) : State :=
  let t : State := if s.crossing g k then s.overrun g else s
  let (t, n) := t.fresh
  { t with cdc := sset zeroNat t.cdc (64 * g + k) (s.cyc + (if Config.lateCrossing n then 6 else 4)) }

/-- A field of a wide value split over two registers. -/
def State.setWide (s : State) (lo hi v : Nat) : State := (s.setReg lo (v % 2 ^ 32)).setReg hi (v / 2 ^ 32)

def State.wide (s : State) (lo hi : Nat) : Nat := s.reg lo + 2 ^ 32 * s.reg hi

/-- The supply of an active cable of port p (R503): a pin number for `Out.pin`. -/
def pinCable (p : Nat) : Nat := 16 + p

end Sys2Proof.Machine
end

