-- ==== Sys2Proof/Machine/Hbm.lean ====
section
/-!
DEFINITION. HBM (09): how addresses fall onto stacks, the code and its checks, reads and writes at a base die.
-/
namespace Sys2Proof.Machine

/-! ### Addresses (R276, R278 to R282) -/

/-- The key of a byte of HBM. -/
def hkey (j a : Nat) : Nat := j * 2 ^ 36 + a % 2 ^ 36

/-- The pseudo-channel of a stack address (R276). -/
def pcOf (a : Nat) : Nat := a / 2048 % 64

/-- How many stacks share a region. -/
def Region.ways (r : Region) : Nat := match r.kind with | 0 => 1 | 1 => 4 | _ => 32

/-- R279: stack and stack address of a module address inside a region. -/
def Region.locate (r : Region) (x : Nat) : Nat × Nat :=
  let off := x - r.base
  let u := off / 2048
  let stack := match r.kind with
    | 0 => r.place
    | 1 => 4 * r.place + u % 4
    | _ => u % 32
  (stack, r.stackBase + u / r.ways * 2048 + off % 2048)

/-- The region that holds a module address. -/
def Image.regionOf (im : Image) (x : Nat) : Option Region :=
  im.regions.find? fun r => decide (r.base ≤ x ∧ x < r.base + r.size)

/-- R279, R281, R282: where a module address of the HBM range lies; none where it is unassigned. -/
def State.locate (s : State) (x : Nat) : Option (Nat × Nat) :=
  if 2 ^ 41 ≤ x then none
  else
    match s.boot.image with
    | none => some (x / 2 ^ 36, x % 2 ^ 36)
    | some im => (im.regionOf x).map fun r => r.locate x

/-! ### Events of a base die (R289, R290) -/

/-- The detail of an event of a memory unit (R430). -/
def unitDetail (a : Nat) : List Byte := leBytes 5 (a % 2 ^ 36) ++ leBytes 1 (pcOf a) ++ zeroBytes 2

/-- A failure event of R338. -/
def State.failureEvent (s : State) (k : Nat) : State :=
  let s : State := { s with ckpt := { s.ckpt with fails := List.replicate k s.now ++ s.ckpt.fails } }
  s.bump A.ckpFail 31 16 k

/-- An unlisted unit of the plane regions A and B. -/
def State.isPlane (s : State) (j a : Nat) : Bool :=
  match s.boot.image with
  | some im => im.regions.any fun r => decide (r.purpose = 1 ∨ r.purpose = 2) &&
      (match r.kind with
        | 0 => decide (j = r.place)
        | 1 => decide (j / 4 = r.place)
        | _ => true) && decide (r.stackBase ≤ a ∧ a < r.stackBase + r.size / r.ways)
  | none => false

/-- R290: records an uncorrectable unit, where neither flag was set, and sets flag bit `flag`. -/
def State.recordUnit (s : State) (j a flag : Nat) : State :=
  let e := stackReg A.hbmEccErr j
  let s := if s.bit e 30 || s.bit e 29 then s
    else
      let s := (s.setReg (stackReg A.hbmErrAddrLo j) (a % 2 ^ 32 / 32 * 32)).setReg (stackReg A.hbmErrAddrHi j) (a / 2 ^ 32 % 16)
      s.setField e 5 0 (pcOf a)
  s.setBit e flag

/-- R290: a read or merge meets an uncorrectable unit at cycle x. -/
def State.uncorrectable (s : State) (j a x : Nat) : State :=
  let s := s.bump (stackReg A.hbmEccCount j) 31 16 1
  let s := s.event Ev.hbmUncorrectable (srcStack j) x (unitDetail a)
  let s := s.recordUnit j a 30
  if s.isPlane j a then s.failureEvent 1 else s

/-- R289: a correction is counted at cycle x, and raises its event at the first of the shot. -/
def State.correction (s : State) (j a x : Nat) : State :=
  let s := (s.bump (stackReg A.hbmEccCount j) 15 0 1).setBit (stackReg A.hbmEccErr j) 31
  if s.shot.corrected.contains j then s
  else
    { s with shot := { s.shot with corrected := s.shot.corrected ++ [j] } }.event Ev.hbmCorrected (srcStack j) x (unitDetail a)

/-- R289: a unit enters the repair list of its stack. -/
def State.enlist (s : State) (j a : Nat) : State :=
  let k := s.stack j
  if k.repair.contains a then s
  else if k.repair.length < 16 then
    (s.setStack j { k with repair := k.repair ++ [a] }).setField (stackReg A.hbmStatus j) 20 16 (k.repair.length + 1)
  else s.setBit (stackReg A.hbmEccErr j) 28

/-! ### The code (R288) -/

/-- What decoding a unit finds. -/
inductive UnitKind where
  | clean | fixed | lost
  deriving DecidableEq, Repr

/-- The stored bytes of a unit that is not in error. -/
def State.unitBytes (s : State) (j a : Nat) : List Byte := s.hbm.read (hkey j (a / 32 * 32)) 32

def unitKey (j a : Nat) : Nat := hkey j a / 32

/-- R288: decoding the unit at stack address a of stack j. -/
def State.decodeUnit (s : State) (j a : Nat) : List Byte × UnitKind :=
  let b := sget noBad s.bad (unitKey j a)
  match b.symbols with
  | 0 => (s.unitBytes j a, .clean)
  | 1 => (s.unitBytes j a, .fixed)
  | 2 => (s.unitBytes j a, .fixed)
  | 3 => (s.unitBytes j a, .lost)
  | _ =>
    let k := unitKey j a
    let o := Config.hbmOutcome k b.raw
    if o = 1 then (bytesAt (Config.hbmMiscorrect k b.raw) 0 32, .fixed)
    else if o = 2 then (bytesAt b.raw 0 32, .clean)
    else (s.unitBytes j a, .lost)

/-- Puts a unit with a fresh code. -/
def State.encodeUnit (s : State) (j a : Nat) (bs : List Byte) : State :=
  { s with
    hbm := s.hbm.write (hkey j (a / 32 * 32)) (bytesAt bs 0 32)
    bad := sset noBad s.bad (unitKey j a) ⟨0, []⟩ }

/-- R287: the valid bytes of the pony buffer's entry for a unit laid over it. -/
def State.ponyMerge (s : State) (j a : Nat) (bs : List Byte) : List Byte :=
  match (s.stack j).pony.find? fun e => e.unit = a / 32 with
  | some e => (bs.zip e.bytes).map fun p => p.2.getD p.1
  | none => bs

/-- One unit read by the base die at cycle x: its bytes, and whether its data is withheld. -/
def State.readUnit (s : State) (j a x : Nat) : State × List Byte × Bool :=
  let (bs, k) := s.decodeUnit j a
  match k with
  | .clean => (s, s.ponyMerge j a bs, false)
  | .fixed => ((s.correction j a x).enlist j (a / 32 * 32), s.ponyMerge j a bs, false)
  | .lost => (s.uncorrectable j a x, bs, true)

/-- Consecutive units read; the flag says that some unit's data is withheld, the list says which byte belongs to such a unit. -/
def State.readUnits (s : State) (j x : Nat) : Nat → Nat → State × List Byte × List Bool
  | _, 0 => (s, [], [])
  | a, n + 1 =>
    let (s, bs, lost) := s.readUnit j a x
    let (s, rest, ls) := s.readUnits j x (a + 32) n
    (s, bs ++ rest, List.replicate 32 lost ++ ls)

/-- Bytes a to a + n − 1 of stack j read at cycle x, with a mark on each byte that is withheld. -/
def State.readStack (s : State) (j a n x : Nat) : State × List Byte × List Bool :=
  let a0 := a / 32 * 32
  let (s, bs, ls) := s.readUnits j x a0 ((a + n + 31) / 32 - a / 32)
  (s, (bs.drop (a - a0)).take n, (ls.drop (a - a0)).take n)

/-- A write of bytes into one unit (R288, R291): a whole unit is encoded afresh; a part is merged. `sched`: a scheduled pony
transfer caused it. -/
def State.writeUnit (s : State) (j a x : Nat) (bs : List Byte) (sched : Bool) : State :=
  if bs.length = 32 then s.encodeUnit j a bs
  else
    let (old, k) := s.decodeUnit j a
    match k with
    | .clean => s.encodeUnit j a (overlay old (a % 32) bs)
    | .fixed => (s.correction j a x).encodeUnit j a (overlay old (a % 32) bs)
    | .lost =>
      let s := s.uncorrectable j a x
      let s : State := { s with bad := sset noBad s.bad (unitKey j a) ⟨3, []⟩ }
      if sched then s.failShot x Ev.hbmUncorrectable (srcStack j) else s

/-- Bytes written from stack address a on, unit by unit; fuel bounds the units. -/
def State.writeUnits (s : State) (j x : Nat) (sched : Bool) : Nat → Nat → List Byte → State
  | 0, _, _ => s
  | n + 1, a, bs =>
    if bs.isEmpty then s
    else
      let k := 32 - a % 32
      (s.writeUnit j a x (bs.take k) sched).writeUnits j x sched n (a + k) (bs.drop k)

/-- Bytes written to stack j. -/
def State.writeStack (s : State) (j a x : Nat) (bs : List Byte) (sched : Bool) : State :=
  s.writeUnits j x sched (bs.length / 32 + 2) a bs

/-- R287: a write that reaches a unit held in the pony buffer clears the valid marks of its bytes. -/
def State.ponyClear (s : State) (j a n : Nat) : State :=
  let k := s.stack j
  let es := k.pony.map fun e =>
    { e with bytes := e.bytes.zipIdx.map fun p => if a ≤ e.unit * 32 + p.2 ∧ e.unit * 32 + p.2 < a + n then none else p.1 }
  s.setStack j { k with pony := es.filter fun e => e.bytes.any (·.isSome) || decide (0 < e.held) }

/-! ### By module address -/

/-- Lengths of the parts of a range that lie within one 2 KiB unit each. -/
def spans : Nat → Nat → Nat → List (Nat × Nat)
  | 0, _, _ => []
  | f + 1, a, n => if n = 0 then [] else
      let k := min n (2048 - a % 2048)
      (a, k) :: spans f (a + k) (n - k)

/-- The parts of a range of n bytes from module address a on. -/
def partsOf (a n : Nat) : List (Nat × Nat) := spans (n / 2048 + 2) a n

/-- A range of module addresses read at cycle x: bytes (zero where unassigned), marks of withheld bytes, whether part of it is
unassigned. -/
def State.readMem (s : State) (a n x : Nat) : State × List Byte × List Bool × Bool :=
  (partsOf a n).foldl (fun acc p =>
    let (s, bs, ls, un) := acc
    match s.locate p.1 with
    | some (j, sa) =>
      let (s, b, l) := s.readStack j sa p.2 x
      (s, bs ++ b, ls ++ l, un)
    | none => (s, bs ++ zeroBytes p.2, ls ++ List.replicate p.2 false, true)) (s, [], [], false)

/-- A range read at cycle x, with a mark on each byte that is withheld or lies in no region. -/
def State.readMarked (s : State) (a n x : Nat) : State × List Byte × List Bool :=
  (partsOf a n).foldl (fun acc p =>
    let (s, bs, ls) := acc
    match s.locate p.1 with
    | some (j, sa) =>
      let (s, b, l) := s.readStack j sa p.2 x
      (s, bs ++ b, ls ++ l)
    | none => (s, bs ++ zeroBytes p.2, ls ++ List.replicate p.2 true)) (s, [], [])

/-- A range read by a reader for which the spec does not say what it gets of a marked byte: that byte is a free value. -/
def State.readFree (s : State) (a n x : Nat) : State × List Byte :=
  let (s, bs, ls) := s.readMarked a n x
  let (s, k) := s.fresh
  (s, (bs.zip ls).zipIdx.map fun p => if p.1.2 then Config.withheld k p.2 else p.1.1)

/-- Bytes written from module address a on at cycle x; what is unassigned is discarded. -/
def State.writeMem (s : State) (a x : Nat) (bs : List Byte) (sched : Bool) : State :=
  ((partsOf a bs.length).foldl (fun acc p =>
    let (s, rest) := acc
    let s := match s.locate p.1 with
      | some (j, sa) => (s.ponyClear j sa p.2).writeStack j sa x (rest.take p.2) sched
      | none => s
    (s, rest.drop p.2)) (s, bs)).1

/-- R287, R288: n units from unit u of stack j on as a read decodes and merges them. A unit that the code does not restore is a free value. -/
def State.peekUnits (s : State) (j : Nat) : Nat → Nat → List Byte
  | _, 0 => []
  | u, n + 1 =>
    let a := 32 * u
    (match s.decodeUnit j a with
      | (bs, .lost) => (List.range bs.length).map fun i => Config.peeked (unitKey j a) i
      | (bs, _) => s.ponyMerge j a bs) ++ s.peekUnits j (u + 1) n

/-- R287, R288: bytes of stack j as a read decodes and merges them. -/
def State.peekStack (s : State) (j a n : Nat) : List Byte :=
  let u := a / 32
  ((s.peekUnits j u ((a + n + 31) / 32 - u)).drop (a % 32)).take n

/-- The bytes of a range as a read of the module's own tables gets them: decoded and merged; such a read raises and counts nothing (log 64). -/
def State.peek (s : State) (a n : Nat) : List Byte :=
  ((partsOf a n).map fun p =>
    match s.locate p.1 with
    | some (j, sa) => s.peekStack j sa p.2
    | none => zeroBytes p.2).flatten

/-- The base of a region by index. -/
def State.regionBase (s : State) (k : Nat) : Nat :=
  match s.boot.image.bind fun im => im.regions[k]? with | some r => r.base | none => 0

/-- Latencies of a request by the position of its stack (R17, R285): arrival at the base die, landing. -/
def latency (stall j : Nat) : Nat × Nat :=
  if aisleOf stall = j then (288, 640) else if aisleOf stall / 4 = j / 4 then (320, 704) else (384, 832)

end Sys2Proof.Machine
end

