-- ==== Sys2Proof/Machine/Routes.lean ====
section
/-!
DEFINITION. Positions, module IDs, routes and the tick tree of a paddock (R362 to R364, R378, R379, R393), and which port a frame
leaves by.
-/
namespace Sys2Proof.Machine

/-- The fabric of a module without an image: alone, its own master. -/
def Fabric.alone : Fabric := ⟨[1, 1, 1, 1], [0, 0, 0, 0], 0, [], 0x88B5, [], [], [], [], 0, 0, 0, 0, []⟩

/-- The size of dimension d. -/
def Fabric.dim (fb : Fabric) (d : Nat) : Nat := max 1 (fb.dims.getD d 1)

/-- The number of positions (R363). -/
def Fabric.size (fb : Fabric) : Nat := fb.dim 0 * fb.dim 1 * fb.dim 2 * fb.dim 3

/-- The paddock index of coordinates (R363). -/
def Fabric.indexOf (fb : Fabric) (c : List Nat) : Nat :=
  c.getD 0 0 + fb.dim 0 * (c.getD 1 0 + fb.dim 1 * (c.getD 2 0 + fb.dim 2 * c.getD 3 0))

/-- The coordinates of a paddock index. -/
def Fabric.coordsOf (fb : Fabric) (i : Nat) : List Nat :=
  [i % fb.dim 0, i / fb.dim 0 % fb.dim 1, i / (fb.dim 0 * fb.dim 1) % fb.dim 2, i / (fb.dim 0 * fb.dim 1 * fb.dim 2) % fb.dim 3]

/-- The module's physical paddock index. -/
def Fabric.me (fb : Fabric) : Nat := fb.indexOf fb.coord

/-- The module ID of a paddock index (R363). -/
def Fabric.idOf (fb : Fabric) (i : Nat) : Nat := fb.paddock * 8192 + i

/-- A substitution case: failed and spare index (R379). -/
def Fabric.caseAt (fb : Fabric) (k : Nat) : Option (Nat × Nat) := if k = 0 then none else fb.cases[k - 1]?

/-- The physical index that carries a logical position under case k. -/
def Fabric.physOf (fb : Fabric) (k l : Nat) : Nat :=
  match fb.caseAt k with | some c => if l = c.1 then c.2 else l | none => l

/-- The logical position that a physical index carries under case k. -/
def Fabric.logicalOf (fb : Fabric) (k p : Nat) : Nat :=
  match fb.caseAt k with | some c => if p = c.2 then c.1 else p | none => p

/-- One link of a route: dimension, whether it is taken from the plus port. -/
abbrev Hop := Nat × Bool

/-- The links from coordinate a to b in dimension d of size n: the shorter way, plus when both are equal; the longer way where
`long` (R378, R379). -/
def ringHops (d n a b : Nat) (long : Bool) : List Hop :=
  let fwd := (b + n - a % n) % n
  if fwd = 0 then []
  else
    let plus := decide (2 * fwd ≤ n) != long
    List.replicate (if plus then fwd else n - fwd) (d, plus)

/-- The route from index a to b in the given order of dimensions; `long` names the dimension taken the longer way. -/
def Fabric.hops (fb : Fabric) (order : List Nat) (a b : Nat) (long : Option Nat) : List Hop :=
  (order.map fun d => ringHops d (fb.dim d) ((fb.coordsOf a).getD d 0) ((fb.coordsOf b).getD d 0) (decide (long = some d))).flatten

/-- The neighbour of an index across one link. -/
def Fabric.next (fb : Fabric) (i : Nat) (h : Hop) : Nat :=
  let c := fb.coordsOf i
  let n := fb.dim h.1
  let x := c.getD h.1 0
  fb.indexOf (c.set h.1 (if h.2 then (x + 1) % n else (x + n - 1) % n))

/-- The positions that a route passes before its end. -/
def Fabric.between (fb : Fabric) : Nat → List Hop → List Nat
  | _, [] => []
  | _, [_] => []
  | i, h :: t => fb.next i h :: fb.between (fb.next i h) t

/-- R378, R379: the route from physical index a to b under case k. -/
def Fabric.route (fb : Fabric) (k a b : Nat) : List Hop :=
  let r := fb.hops [0, 1, 2, 3] a b none
  match fb.caseAt k with
  | none => r
  | some c =>
    if !(fb.between a r).contains c.1 then r
    else
      let r' := fb.hops [3, 2, 1, 0] a b none
      if !(fb.between a r').contains c.1 then r'
      else fb.hops [3, 2, 1, 0] a b (r'.head?.map fun h => h.1)

/-- The port of a hop on GW, or on GE (R362). -/
def hopPort (ge : Bool) (h : Hop) : Nat := (if ge then 10 else 0) + 2 * h.1 + (if h.2 then 0 else 1)

/-- Whether a port is a torus port (R362). -/
def isTorus (p : Nat) : Bool := decide (p % 10 < 8)

/-- The hop that a torus port begins. -/
def portHop (p : Nat) : Hop := (p % 10 / 2, decide (p % 2 = 0))

/-- The port at the other end of a torus link. -/
def farPort (p : Nat) : Nat := if p % 2 = 0 then p + 1 else p - 1

def State.fabric (s : State) : Fabric := match s.boot.image with | some im => im.fabric | none => .alone

/-- The substitution case in force (R379). -/
def State.caseNow (s : State) : Nat := s.field A.fabSubst 7 4

/-- The module's physical ID. -/
def State.myId (s : State) : Nat := s.fabric.idOf s.fabric.me

/-- The links on which tick announcements go to the module's children (R393). -/
def State.childHops (s : State) : List Hop :=
  let fb := s.fabric
  let k := s.caseNow
  let all : List Hop := ((List.range 4).map fun d => if 1 < fb.dim d then [(d, true), (d, false)] else []).flatten
  all.filter fun h =>
    let n := fb.next fb.me h
    decide (n ≠ fb.me) && (match (fb.route k n fb.master).head? with | some g => decide (g = (h.1, !h.2)) | none => false)

/-- The mode of a port: that of the image (R365), and 0 for a torus port of a dimension of size 1 (R364). -/
def Fabric.modeOf (fb : Fabric) (p : Nat) : Nat := if isTorus p && decide (fb.dim (p % 10 / 2) = 1) then 0 else fb.modes.getD p 0

def State.portMode (s : State) (p : Nat) : Nat := s.fabric.modeOf p

/-- R379: whether a physical index carries no logical position under case k: a spare of another case, or the failed index of case k. -/
def Fabric.idleAt (fb : Fabric) (k i : Nat) : Bool :=
  match fb.caseAt k with
  | some c => decide (i = c.1) || (decide (i ≠ c.2) && fb.cases.any fun q => decide (q.2 = i))
  | none => fb.cases.any fun q => decide (q.2 = i)

/-- R390: the address, on an outer port, of a module of another paddock: for IPv4 the field base of its paddock plus its index, for IPv6 the
base with the index in its low 16 bits. -/
def Fabric.fieldAddress (fb : Fabric) (v4 : Bool) (id : Nat) : Nat :=
  let base := fb.field.getD (id / 8192) 0
  if v4 then (base + id % 8192) % 2 ^ 32 else base / 2 ^ 16 * 2 ^ 16 + id % 8192

/-- The settings of an outer port (R390). -/
def Fabric.outerOf (fb : Fabric) (p : Nat) : Option Outer := if isTorus p then none else fb.outers[p / 10 * 2 + (p % 10 - 8)]?

/-- A frame as it leaves by port p: field traffic to another paddock is addressed to the module's field address and its transport port
(R390; DEDUCED, log 156). Serving replies and snapshots carry addresses of their own. -/
def Fabric.toField (fb : Fabric) (p : Nat) (f : Frame) : Frame :=
  match fb.outerOf p with
  | some o =>
    if f.dst / 8192 = fb.paddock ∨ 9 ≤ f.kind then f else { f with peer := fb.fieldAddress o.v4 f.dst, pport := o.tport }
  | none => f

/-- Whether scheduled frames use a link: it is up, its peer recorded, and a shot boundary has passed since (R370). -/
def State.portScheduled (s : State) (p : Nat) : Bool :=
  (s.port p).up && (s.port p).peer.isSome && decide ((s.port p).back < s.shot.nextNo)

/-- R388, R390: the port by which an unscheduled frame to a module ID leaves; none for the module's own ID. -/
def State.portTo (s : State) (dst number : Nat) : Option Nat :=
  let fb := s.fabric
  if dst / 8192 ≠ fb.paddock then
    let m := dst % 4
    let l := [8, 9, 18, 19]
    let l := l.drop m ++ l.take m
    some ((l.find? fun p => (s.port p).up).getD (l.headD 8))
  else
    match fb.route s.caseNow fb.me (dst % 8192) with
    | [] => none
    | h :: _ =>
      let p := hopPort (number % 2 = 1) h
      let q := hopPort (number % 2 = 0) h
      some (if (s.port p).up || !(s.port q).up then p else q)

end Sys2Proof.Machine
end

