-- ==== Sys2Proof/Machine/Loft.lean ====
section
/-!
DEFINITION. The far tier and the loft (09): translation, promotion, eviction.
-/
namespace Sys2Proof.Machine

/-- The bytes of a far page. -/
def pageSize : Nat := 2097152

/-- The far page of a far address (R296). -/
def farPage (x : Nat) : Nat := x % 2 ^ 47 / pageSize

/-- The place of a far address in its page (R296). -/
def farOffset (x : Nat) : Nat := x % 2 ^ 47 % pageSize

/-- The entry of a far page in the far translation table; zeros, an unmapped entry, at or beyond its length (R296). -/
def State.farEntry (s : State) (p : Nat) : List Byte :=
  match s.boot.image.bind fun im => im.far with
  | some (r, n) => if p < n then s.peek (s.regionBase r + 16 * p) 16 else zeroBytes 16
  | none => zeroBytes 16

/-- Kind of a far translation entry; kinds above 3 read as unmapped (R297). -/
def farKind (e : List Byte) : Nat := let k := leAt e 0 1; if k ≤ 3 then k else 0

def farLoft (e : List Byte) : Bool := natBit (leAt e 1 1) 0
def farResident (e : List Byte) : Bool := natBit (leAt e 1 1) 1
def farIdent (e : List Byte) : Nat := leAt e 2 2
def farWindow (e : List Byte) : Nat := leAt e 4 2
def farSource (e : List Byte) : Nat := leAt e 8 8

/-- The module addresses of the loft's frames, region by region (R302). -/
def Image.loftFrames (im : Image) : List Nat :=
  ((im.regions.filter fun r => r.purpose = 5).map fun r =>
    (List.range (r.size / pageSize)).map fun k => r.base + k * pageSize).flatten.take 65535

def State.frameAddr (s : State) (k : Nat) : Nat :=
  match s.boot.image with | some im => im.loftFrames.getD k 0 | none => 0

/-- The frame that holds a page, promoting or resident. -/
def Far.frameOf (f : Far) (p : Nat) : Option Nat :=
  f.frames.findIdx? fun x => decide (x.state ≠ .free ∧ x.page = p)

def Far.frame (f : Far) (k : Nat) : LoftFrame := f.frames.getD k .empty

def Far.setFrame (f : Far) (k : Nat) (v : LoftFrame) : Far := { f with frames := f.frames.set k v }

/-- Whether a page is resident in the loft. -/
def Far.resident (f : Far) (p : Nat) : Bool :=
  match f.frameOf p with | some k => decide ((f.frame k).state = .resident) | none => false

/-- R304: the evictor's hand advances at most `n` frames to a victim. -/
def Far.evict : Nat → Far → Far × Option Nat
  | 0, f => (f, none)
  | n + 1, f =>
    let k := if f.hand < f.frames.length then f.hand else 0
    let x := f.frame k
    let f' := { f with hand := (k + 1) % max 1 f.frames.length }
    if x.state ≠ .resident ∨ 0 < x.pins then Far.evict n f'
    else if x.ref then Far.evict n (f'.setFrame k { x with ref := false })
    else ({ f'.setFrame k .empty with evicted := f'.evicted + 1 }, some k)

/-- A context joins a frame, once (R302, R303). -/
def LoftFrame.join (x : LoftFrame) (h : Holder) : LoftFrame :=
  if x.holders.contains h then x else { x with holders := x.holders ++ [h] }

/-- The present run of a context, as a holder of pages. -/
def State.holder (s : State) (i n : Nat) : Holder := ⟨i, n, ((s.stall i).ctx n).start⟩

/-- Whether a run still holds a page: until its context ends, or its promotion of the page, under way, is cancelled (R302, R305). -/
def State.holds (s : State) (h : Holder) (p : Nat) (promoting : Bool) : Bool :=
  let c := (s.stall h.stall).ctx h.ctx
  decide (c.start = h.start) && c.activeAt s.cyc && !(promoting && c.cancelled.contains p)

/-- The contexts that have ended, and those whose promotion is cancelled, release their pins; a promotion whose pins fall to zero stops, and
its frame is free (R302, R305). -/
def State.loftSettle (s : State) : State :=
  let fs := s.far.frames.map fun x =>
    let y := { x with holders := x.holders.filter fun h => s.holds h x.page (decide (x.state = .promoting)) }
    if y.state = .promoting ∧ y.pins = 0 then .empty else y
  { s with far := { s.far with
    frames := fs, asks := s.far.asks.filter fun a => decide (a.1 = .groom) || s.holds a.1 a.2 true } }

/-- A page of a context's run becomes ready, or is counted dropped, in that context. -/
def Stall.pageReady (t : Stall) (n p : Nat) : Stall :=
  let c := t.ctx n
  t.setCtx n { c with pages := c.pages.map fun q => if q.page = p then { q with ready := true } else q }

def Stall.pageDropped (t : Stall) (n p : Nat) : Stall :=
  let c := t.ctx n
  t.setCtx n { c with
    pages := c.pages.filter fun q => q.page ≠ p
    dropped := if c.pages.any (fun q => q.page = p) then satAdd 0xFFFF c.dropped 1 else c.dropped }

/-- A READ_REQ frame for bytes of an exported window (R389), under the next tag. -/
def State.readFrame (s : State) (e : List Byte) (off len : Nat) : Frame :=
  { Frame.blank with
    etype := s.fabric.etype, kind := 3, window := farWindow e, src := s.myId, dst := farIdent e,
    offset := off, number := s.far.tags % 65536, sigma := len }

/-- A frame of the far tier leaves by its route. -/
def State.sendFar (s : State) (f : Frame) : State :=
  match s.portTo f.dst f.number with
  | some p => s.emit (.frame p (s.fabric.toField p f))
  | none => s

/-- A read of an exported window for a promotion. -/
def State.readReq (s : State) (e : List Byte) (off len : Nat) : State :=
  let f := s.readFrame e off len
  ({ s with far := { s.far with tags := s.far.tags + 1 } } : State).sendFar f

/-- The requests of a promotion's copy to the source of its page (R300, R303, R435): of a remote page one for each 2 KiB, as far pieces ask
(DEDUCED, log 145). -/
def State.askCopy (s : State) (p : Nat) : State :=
  let e := s.farEntry p
  match farKind e with
  | 1 => if s.hostOk then s.emit (.hostRead (farSource e) pageSize) else s
  | 2 =>
    if s.host.auxReady then
      let c : NvmeCmd := ⟨s.host.cid, 1, 2, farIdent e, farSource e, 512, .promote p⟩
      { s with host := { s.host with nvme := s.host.nvme ++ [c], cid := s.host.cid + 1 } }.emit
        (.nvme 2 c.cid c.nsid c.lba c.blocks)
    else s
  | 3 => (List.range (pageSize / 2048)).foldl (fun s k => s.readReq e (farSource e + 2048 * k) 2048) s
  | _ => s

/-- R303, R304, R306: one promotion request of a run, or of the groom for a page marked resident. A page without the loft flag is not
promoted. -/
def State.promote (s : State) (who : Holder) (p : Nat) : State :=
  let permanent := decide (who = .groom)
  let join (x : LoftFrame) : LoftFrame := if permanent then { x with permanent := true } else x.join who
  match s.far.frameOf p with
  | some k =>
    let s : State := { s with far := s.far.setFrame k (join (s.far.frame k)) }
    if (s.far.frame k).state = .resident ∧ !permanent then s.modStall who.stall fun t => t.pageReady who.ctx p else s
  | none =>
    if !farLoft (s.farEntry p) then s
    else
    let (f, k) := match s.far.frames.findIdx? (fun x => decide (x.state = .free)) with
      | some k => (s.far, some k)
      | none => Far.evict (2 * s.far.frames.length) s.far
    let s : State := { s with far := f }
    match k with
    | some k =>
      let fr : LoftFrame := { LoftFrame.empty with page := p, state := .promoting }
      ({ s with far := s.far.setFrame k (join fr) } : State).askCopy p
    | none =>
      let s : State := { s with far := { s.far with refused := s.far.refused + 1 } }
      let s := if permanent then s else s.modStall who.stall fun t => t.pageDropped who.ctx p
      if s.shot.loftEvt then s
      else { s with shot := { s.shot with loftEvt := true } }.event Ev.loftNoFrame s.srcGroom s.cyc []

/-- LOFT_PROMOTION_REQUEST (R303): the oldest promotion request is served. -/
def execLoftPromotionRequest (s : State) : Host.Outcome State Fault Refusal :=
  .next (let s := s.loftSettle
    match s.far.asks with
    | [] => s
    | a :: r => ({ s with far := { s.far with asks := r } } : State).promote a.1 a.2)

/-- PROMOTION_COPY_DONE (R303, R305): the copy of a page ends and its frame is resident. `data`: the bytes of the page. -/
def execPromotionCopyDone (page : Nat) (data : List Byte) (s : State) : Host.Outcome State Fault Refusal :=
  .next (let s := s.loftSettle
    match s.far.frameOf page with
    | none => s
    | some k =>
      let x := s.far.frame k
      if x.state ≠ .promoting then s
      else
        let s := s.writeMem (s.frameAddr k) s.cyc (bytesAt data 0 pageSize) false
        let s : State := { s with far := { s.far.setFrame k { x with state := .resident } with promoted := s.far.promoted + 1 } }
        x.holders.foldl (fun s h => s.modStall h.stall fun t => t.pageReady h.ctx page) s)

end Sys2Proof.Machine
end

