-- ==== Sys2Proof/Machine/StallCtl.lean ====
section
/-!
DEFINITION. The CTL and SYN instructions of a stall (07) as commands, and the issue of a stall's next instruction.
-/
namespace Sys2Proof.Machine

/-- Stall i issues its next instruction with the effect `eff`, where `sel` selects its word: the command finds nothing to act on
where the clocks stand, or the stall has no such instruction next (R196, R197, R216). -/
def State.issue (s : State) (i : Nat) (sel : Insn → FetchCheck → Bool) (eff : Stall → Nat → Insn → Nat → Issue) : State :=
  if !s.clocked then s
  else
    let s := if s.strict then s.syncAll s.cyc else s
    let st := (s.stall i).issueIf sel eff
    ((s.setStall i st).at_ st.seq.lastCycle).flush [i]

/-- CTL_NOP (R203): CTL.NOP, and the issue of a word with an illegal opcode or an uncorrectable error (R199, R200, R202). -/
def execCtlNop (st : StallId) (s : State) : Host.Outcome State Fault Refusal :=
  .next (s.issue st.val selNop issueNopOrIllegal)

/-- CTL_END (R203): the stall's next instruction, of opcode 0x01, issues. -/
def execCtlEnd (st : StallId) (s : State) : Host.Outcome State Fault Refusal :=
  .next (s.issue st.val (selOp 0x01) issueEnd)

/-- CTL_WAIT (R196): the stall's next instruction, of opcode 0x02, issues. -/
def execCtlWait (st : StallId) (s : State) : Host.Outcome State Fault Refusal :=
  .next (s.issue st.val (selOp 0x02) issueWait)

/-- CTL_JUMP (R203): the stall's next instruction, of opcode 0x03, issues. -/
def execCtlJump (st : StallId) (s : State) : Host.Outcome State Fault Refusal :=
  .next (s.issue st.val (selOp 0x03) issueJump)

/-- CTL_LOOP (R204): the stall's next instruction, of opcode 0x04, issues. -/
def execCtlLoop (st : StallId) (s : State) : Host.Outcome State Fault Refusal :=
  .next (s.issue st.val (selOp 0x04) issueLoop)

/-- CTL_CALL (R205): the stall's next instruction, of opcode 0x05, issues. -/
def execCtlCall (st : StallId) (s : State) : Host.Outcome State Fault Refusal :=
  .next (s.issue st.val (selOp 0x05) issueCall)

/-- CTL_RET (R205): the stall's next instruction, of opcode 0x06, issues. -/
def execCtlRet (st : StallId) (s : State) : Host.Outcome State Fault Refusal :=
  .next (s.issue st.val (selOp 0x06) issueRet)

/-- CTL_SUBST (R208): the stall's next instruction, of opcode 0x07, issues. -/
def execCtlSubst (st : StallId) (s : State) : Host.Outcome State Fault Refusal :=
  .next (s.issue st.val (selOp 0x07) issueSubst)

/-- CTL_CSAVE (R231): the stall's next instruction, of opcode 0x08, issues. -/
def execCtlCsave (st : StallId) (s : State) : Host.Outcome State Fault Refusal :=
  .next (s.issue st.val (selOp 0x08) issueCsave)

/-- CTL_CREST (R231): the stall's next instruction, of opcode 0x09, issues. -/
def execCtlCrest (st : StallId) (s : State) : Host.Outcome State Fault Refusal :=
  .next (s.issue st.val (selOp 0x09) issueCrest)

/-- SYN_BAR (R219): the stall's next instruction, of opcode 0x10, issues. -/
def execSynBar (st : StallId) (s : State) : Host.Outcome State Fault Refusal :=
  .next (s.issue st.val (selOp 0x10) (issueBar (s.env st.val)))

end Sys2Proof.Machine
end

