-- ==== Sys2Proof/Machine/StallSpd.lean ====
section
/-!
DEFINITION. The SPD instructions and the scratchpad's own events as commands (06).
-/
namespace Sys2Proof.Machine

/-- SPD_COPY (R192): the stall's next instruction, of opcode 0x40, issues. -/
def execSpdCopy (st : StallId) (s : State) : Host.Outcome State Fault Refusal :=
  .next (s.issue st.val (selOp 0x40) issueCopy)

/-- SPD_FILL (R192): the stall's next instruction, of opcode 0x41, issues. -/
def execSpdFill (st : StallId) (s : State) : Host.Outcome State Fault Refusal :=
  .next (s.issue st.val (selOp 0x41) issueFill)

/-- SPD_PWR (R186): the stall's next instruction, of opcode 0x42, issues. -/
def execSpdPwr (st : StallId) (s : State) : Host.Outcome State Fault Refusal :=
  .next (s.issue st.val (selOp 0x42) issuePwr)

/-- The present cycle of a stall: never one that it has completed. -/
def State.stallNow (s : State) (i : Nat) : Nat := max s.cyc (s.stall i).clk

/-- BANK_POWER_DOWN (R186): a bank that waits goes down, if no write to it is in flight. -/
def execBankPowerDown (st : StallId) (bank : Fin 32) (s : State) : Host.Outcome State Fault Refusal :=
  .next (match sget bankOn (s.stall st.val).spd.banks bank.val with
    | .waiting p =>
      let x := max (s.stallNow st.val) (p + 1)
      if s.clocked then (s.at_ x).onStall st.val x fun t => t.bankDown x bank.val else s
    | _ => s)

/-- BANK_POWER_DOWN_CANCEL (R187): a bank still waiting 2,048 cycles after its SPD.PWR stays on. -/
def execBankPowerDownCancel (st : StallId) (bank : Fin 32) (s : State) : Host.Outcome State Fault Refusal :=
  .next (match sget bankOn (s.stall st.val).spd.banks bank.val with
    | .waiting p =>
      let x := max (s.stallNow st.val) (p + 2048)
      if s.clocked then (s.at_ x).onStall st.val x fun t => t.bankCancel x bank.val else s
    | _ => s)

/-- BANK_WAKE_DONE (R188): a waking bank accepts accesses. -/
def execBankWakeDone (st : StallId) (bank : Fin 32) (s : State) : Host.Outcome State Fault Refusal :=
  .next (match sget bankOn (s.stall st.val).spd.banks bank.val with
    | .waking r =>
      let x := max (s.stallNow st.val) r
      if s.clocked then (s.at_ x).onStall st.val x fun t => t.bankWakeDone x bank.val else s
    | _ => s)

/-- Changes the host's indirect access of a stall. -/
def Stall.setInd (t : Stall) (f : Indirect → Indirect) : Stall := { t with spd := { t.spd with ind := f t.spd.ind } }

/-- The host's indirect write takes an unscheduled gather entry; it waits where none is free (R180, R193). Column buffers of its block become
stale (R177). -/
def Stall.putInd (t : Stall) (x : Nat) : Stall :=
  let (spd, ok) := t.spd.gatherPut x 2 (t.spd.ind.line * 64) t.spd.ind.data
  let t' : Stall := { t with spd := { spd with ind := { t.spd.ind with waiting := !ok, fin := ok } } }
  if ok then t'.staleBufs (t.spd.ind.line * 64) 64 else t'

/-- A waiting indirect write tries again. -/
def Stall.retryInd (t : Stall) (x : Nat) : Stall := if t.spd.ind.waiting && t.spd.ind.write then t.putInd x else t

/-- GATHER_DRAIN (R182): a gather entry drains into its line where the bank's write port is free. -/
def execGatherDrain (st : StallId) (line : BitVec 16) (s : State) : Host.Outcome State Fault Refusal :=
  .next (if s.clocked then
    let x := s.stallNow st.val
    (s.at_ x).onStall st.val x fun t => (t.gatherDrain x line.toNat).retryInd x
  else s)

/-- A go that is refused (R193, R194): done is clear, and the data registers read zero after a refused read. -/
def Stall.refuseInd (t : Stall) (line : Nat) (write : Bool) : Stall :=
  t.setInd fun d => ⟨line, false, false, true, write, if write then d.data else zeroBytes 64⟩

/-- SPD_INDIRECT_READ (R193): a write of STL_SPD_IADDR with go = 1 and write = 0. -/
def execSpdIndirectRead (st : StallId) (v : Word) (s : State) : Host.Outcome State Fault Refusal :=
  .next (if s.awake && natBit v.toNat 31 && !natBit v.toNat 30 then
    let x := s.stallNow st.val
    let line := natBits v.toNat 15 0
    (s.writeReg (stallReg A.stlSpdIaddr st.val) v.toNat).onStall st.val x fun t =>
      if t.bankUp x line then t.setInd fun d => ⟨line, true, false, false, false, d.data⟩ else t.refuseInd line false
  else s)

/-- Whether a claim of cycle x holds the read port of the bank of a line (R171, R193): a read that issued in the cycle before. -/
def Stall.readPortHeld (t : Stall) (x line : Nat) : Bool :=
  decide (t.spd.readPorts.1 = x) && t.spd.readPorts.2.contains (bankOfLine t.spd.tmap line)

/-- A host read whose line has bad parity (R184, R185, R193): recorded as any, but no shot fails. -/
def Stall.hostParity (t : Stall) (x line : Nat) : Stall :=
  match (List.range 8).filter fun k => decide (sget zeroPar t.spd.badPar (line * 8 + k) ≠ 0) with
  | [] => t
  | k :: r =>
    let spd := if t.spd.firstErr then t.spd else
      { t.spd with firstErr := true, err := setBits (setBits t.spd.err 15 0 line) 18 16 k }
    (({ t with spd := { spd with pcount := satAdd 0xFFFFFFFF spd.pcount (r.length + 1) } } : Stall).spdBit 31).raise
      Ev.spdParity x noTack false

/-- INDIRECT_READ_SAMPLE (R193): the waiting read samples its line, merged with any gather entry, in a cycle in which no claim
holds the bank's read port. -/
def execIndirectReadSample (st : StallId) (s : State) : Host.Outcome State Fault Refusal :=
  .next (if s.clocked && (s.stall st.val).spd.ind.waiting && !(s.stall st.val).spd.ind.write then
    let x := s.stallNow st.val
    (s.at_ x).onStall st.val x fun t =>
      let line := t.spd.ind.line
      if t.readPortHeld x line then t
      else if !t.bankUp x line then t.refuseInd line false
      else
        let data := (List.range 64).map fun i => t.spdByte x (line * 64 + i)
        (t.hostParity x line).setInd fun d => { d with waiting := false, fin := true, data := data }
  else s)

/-- SPD_INDIRECT_WRITE (R193): a write of STL_SPD_IADDR with go = 1 and write = 1 puts the data registers into an unscheduled
gather entry, while no shot runs or issue is halted. -/
def execSpdIndirectWrite (st : StallId) (v : Word) (s : State) : Host.Outcome State Fault Refusal :=
  .next (if s.awake && natBit v.toNat 31 && natBit v.toNat 30 then
    let x := s.stallNow st.val
    let line := natBits v.toNat 15 0
    let open_ := !s.running
    (s.writeReg (stallReg A.stlSpdIaddr st.val) v.toNat).onStall st.val x fun t =>
      if !open_ || !t.bankUp x line then t.refuseInd line true
      else (t.setInd fun d => ⟨line, true, false, false, true, d.data⟩).putInd x
  else s)

end Sys2Proof.Machine
end

