-- ==== Sys2Proof/Machine/StallStr.lean ====
section
/-!
DEFINITION. The STR instructions as commands (08).
-/
namespace Sys2Proof.Machine

/-- STR_START (R236): the stall's next instruction, of opcode 0x50, issues. -/
def execStrStart (st : StallId) (s : State) : Host.Outcome State Fault Refusal :=
  .next (s.issue st.val (selOp 0x50) (issueStart (s.env st.val)))

/-- STR_HALT (R236): the stall's next instruction, of opcode 0x51, issues. -/
def execStrHalt (st : StallId) (s : State) : Host.Outcome State Fault Refusal :=
  .next (s.issue st.val (selOp 0x51) issueHalt)

/-- The destination of a transfer, resolved through the stall map; none where the entry is not valid. -/
def State.ponyDest (s : State) (i : Nat) (p : Pony) : Option PonyDest :=
  let e := (s.env i).profile.pony.getD p.entry []
  let a := leAt e 4 6 + 4 * p.offset
  match leAt e 0 1 with
  | 1 => (s.phys (leAt e 2 2)).map fun k => .stall k (a % spdSize)
  | 2 => if a + p.len ≤ 2 ^ 41 then some (.hbm a) else none
  | _ => none

/-- Whether a transfer of stall i has nowhere to go (R270). -/
def State.ponyLost (s : State) (i : Nat) (p : Pony) : Bool := (s.ponyDest i p).isNone

/-- STR_PONY (R264): the stall's next instruction, of opcode 0x52, issues. -/
def execStrPony (st : StallId) (s : State) : Host.Outcome State Fault Refusal :=
  .next (s.issue st.val (selOp 0x52) (issuePony (s.ponyLost st.val)))

/-- STR_SETCTX (R235): the stall's next instruction, of opcode 0x53, issues. -/
def execStrSetctx (st : StallId) (s : State) : Host.Outcome State Fault Refusal :=
  .next (s.issue st.val (selOp 0x53) issueSetctx)

end Sys2Proof.Machine
end

