-- ==== Sys2Proof/Machine/StreamCommands.lean ====
section
/-!
DEFINITION. Stream pieces, run-ahead, the pony lane and the base dies' side of both, as commands (08, 09).
-/
namespace Sys2Proof.Machine

/-- The abort broadcast is issued at cycle x and reaches the stalls 7 cycles later (R466); a shot aborts once. -/
def State.orderAbort (s : State) (x : Nat) : State :=
  if s.shot.begun && s.safe.abort.isNone && s.shot.gone.isNone then { s with safe := { s.safe with abort := some (x + 7) } } else s

/-- Requests (R39) of the occurrence that a serving stall runs at cycle x, with a number. -/
def State.requestOf (s : State) (i x r : Nat) : Option Request :=
  match s.plan, (s.stall i).logical with
  | some p, some l =>
    s.host.reqs.find? fun q => q.accepted && decide (q.shot = s.shotNo ∧ q.slot = r) &&
      (match p.slices[q.inst]? with
        | some sl => sl.serving && sl.members.contains l && decide (sl.start ≤ s.shotCycle x ∧ s.shotCycle x ≤ sl.fin)
        | none => false)
  | _, _ => none

/-- R253: only the work of a context's owner fails. -/
def State.failOwner (s : State) (i n x code : Nat) : State :=
  let c := (s.stall i).ctx n
  if c.serving then
    match s.requestOf i x c.request with
    | some q => { s with host := { s.host with reqs := s.host.reqs.map fun r =>
        if r.id = q.id then { r with fail := some (r.fail.getD code) } else r } }
    | none => s
  else if s.train.mark.step = s.shot.step then { s with train := { s.train with mark := { s.train.mark with far := true } } }
  else s

/-- A fault of a context with its event and flag (R250 to R253, R257, R258). -/
def State.ctxFaultAt (s : State) (i n cause bit code x : Nat) (fails : Bool) : State :=
  s.onStall i x fun t => ((t.ctxFault n cause x (t.ctx n).place).strBit bit n).raise code x (t.ctx n).startTack fails

/-- R252, R257: a far piece has not its data at its landing. -/
def State.farTimeout (s : State) (i x : Nat) (f : Flying) : State :=
  s.onStall i x fun t =>
    ((t.ctxFault f.ctx 5 x (f.emit, f.piece)).strBit 26 f.ctx).raise Ev.farTimeout x (t.ctx f.ctx).startTack false

/-! ### Resources (R249, R250) -/

def Streams.live (t : Streams) (x : Nat) : List HeldRes := t.held.filter fun h => decide (x ≤ h.rel)

def sumBy (f : HeldRes → Nat) (l : List HeldRes) : Nat := l.foldl (fun n h => n + f h) 0

/-- Whether a piece of n lines finds its engine, a slot, staging lines and its quota at cycle x. -/
def Streams.room (t : Streams) (x n : Nat) (write : Bool) (quota : Option (Nat × Nat)) : Bool :=
  let l := t.live x
  decide ((if write then t.lastWrite else t.lastRead) ≠ some x) && decide (sumBy (·.slots) l < 64) &&
    decide (sumBy (·.lines) l + n ≤ 1024) &&
    (match quota with
      | some q => decide ((l.filter fun h => h.quota = some q).length < 8)
      | none => true)

/-- The piece takes what R249 gives it; the peaks follow. -/
def Streams.take (t : Streams) (x n lat : Nat) (write : Bool) (quota : Option (Nat × Nat)) : Streams :=
  let l := t.live x ++ (if write then [⟨x + lat, 1, 0, quota⟩, ⟨x + 63, 0, n, none⟩] else [⟨x + lat, 1, n, quota⟩])
  { t with
    held := l
    slotPeak := max t.slotPeak (sumBy (·.slots) l)
    linePeak := max t.linePeak (sumBy (·.lines) l)
    lastRead := if write then t.lastRead else some x
    lastWrite := if write then some x else t.lastWrite }

/-! ### Issue (R246, R247, R251, R252) -/

/-- A far demand piece counts its page's prefetch (R256), and the context holds the page (R302). -/
def Stall.demandPage (t : Stall) (n p : Nat) (resident : Bool) : Stall :=
  let c := t.ctx n
  match c.pages.find? fun q => q.page = p && !q.touched with
  | none => t
  | some _ =>
    t.setCtx n { c with
      pages := c.pages.map fun q => if q.page = p then { q with touched := true } else q
      used := if resident then satAdd 0xFFFF c.used 1 else c.used
      late := if resident then c.late else satAdd 0xFFFF c.late 1 }

/-- A far read that waits for its data joins the others, under the next tag. -/
def State.addFarRead (s : State) (r : FarRead) : State :=
  { s with far := { s.far with reads := s.far.reads ++ [r], tags := s.far.tags + 1 } }

/-- A demand request of a context for a page that is not resident: it joins the page's promotion, or asks for one (R303). -/
def State.askFar (s : State) (i n p : Nat) : State :=
  match s.far.frameOf p with
  | some k => { s with far := s.far.setFrame k ((s.far.frame k).join (s.holder i n)) }
  | none => if farLoft (s.farEntry p) then { s with far := { s.far with asks := s.far.asks ++ [(s.holder i n, p)] } } else s

/-- The far reservation of a stack (R301). -/
def State.farLimit (s : State) (j : Nat) : Nat := match s.boot.image with | some im => im.farReserve.getD j 0 | none => 0

/-- R301: n lines of the far tier leave a stack whose reservation is `f` lines for each count, no earlier than cycle x: those sent before and
the cycle in which the last of them leaves; none where nothing is reserved. -/
def farSend (sent : Nat × Nat) (f x n : Nat) : Option ((Nat × Nat) × Nat) :=
  if f = 0 then none
  else
    let (c0, u0) := if sent.1 < x / 7 then (x / 7, 0) else sent
    let all := u0 + n
    let c := c0 + (all - 1) / f
    some ((c, all - (all - 1) / f * f), if c = x / 7 then x else 7 * c)

/-- A far piece whose page is in frame k of the loft is read from there, within the far reservation of its stack (R301). Where nothing is
reserved its data never arrives. -/
def State.serveLoft (s : State) (i n id x k a : Nat) (mems : List Nat) : State :=
  let s : State := { s with far := s.far.setFrame k { (s.far.frame k).join (s.holder i n) with ref := true } }
  match s.locate (s.frameAddr k + farOffset a) with
  | some (j, sa) =>
    let k := s.stack j
    match farSend k.farSent (s.farLimit j) (x + (latency i j).1) mems.length with
    | some (sent, y) =>
      s.setStack j { k with
        farSent := sent
        arrivals := k.arrivals ++ [⟨y, x, i, id, mems.map fun m => sa + (m - a), false, true⟩] }
    | none => s
  | none => s

/-- R300: the request of a far piece to its source, by the kind of its page's entry; `rd` is the read from an address on. -/
def State.askSource (s : State) (i id off len : Nat) (e : List Byte) (rd : Nat → FarRead) : State :=
  match farKind e with
  | 1 => if s.hostOk then (s.addFarRead (rd (farSource e + off))).emit (.hostRead (farSource e + off) len) else s
  | 2 =>
    if s.host.auxReady then
      let c : NvmeCmd := ⟨s.host.cid, 1, 2, farIdent e, farSource e + off / 4096, 1, .far i id⟩
      let s := s.addFarRead (rd (off % 4096))
      ({ s with host := { s.host with nvme := s.host.nvme ++ [c], cid := s.host.cid + 1 } } : State).emit
        (.nvme 2 c.cid c.nsid c.lba 1)
    else s.addFarRead (rd (off % 4096))
  | _ =>
    (s.addFarRead (rd (farSource e + off))).sendFar (s.readFrame e (farSource e + off) len)

/-- R300: a far piece is served from the loft, or a request goes to its source. -/
def State.serveFar (s : State) (i n id x : Nat) (body : Piece) : State :=
  let a := body.mems.headD 0
  let p := farPage a
  let res := s.far.resident p
  let s := s.modStall i fun t => t.demandPage n p res
  match s.far.frameOf p, res with
  | some k, true => s.serveLoft i n id x k a body.mems
  | _, _ =>
    let e := s.farEntry p
    let s := s.askFar i n p
    let len := 64 * body.mems.length
    s.askSource i id (farOffset a) len e fun addr => ⟨i, id, n, farKind e, farIdent e, farWindow e, addr, len, [], s.far.tags⟩

/-- A piece of context n issues at cycle x with its body and latency. -/
def State.launch (s : State) (i n x lat : Nat) (write far : Bool) (quota : Option (Nat × Nat)) (body : Piece) : State :=
  let t := s.stall i
  let c := t.ctx n
  let id := t.str.nextId
  let (t, wid) := t.newWid
  let f : Flying := ⟨id, n, c.walk.n, c.walk.p, x, x + lat, write, far, quota, body, emitSwap c.prog, none, false, wid⟩
  let t := t.setCtx n { c.took (x + lat) (if write then x + 1 else x + lat) with emitAt := if c.walk.p = 0 then x else c.emitAt }
  let t : Stall := { t with str := { t.str.take x body.mems.length lat write quota with
    flying := t.str.flying ++ [f], nextId := id + 1 } }
  let t := if write then t else body.locs.foldl (fun t a => t.addTag x (x + lat) a 64 wid) t
  let s := s.setStall i t
  if far then s.serveFar i n id x body
  else
    match s.locate (body.mems.headD 0) with
    | some (j, sa) =>
      let k := s.stack j
      let a0 := body.mems.headD 0
      s.setStack j { k with arrivals := k.arrivals ++
        [⟨x + (latency i j).1, x, i, id, body.mems.map fun m => sa + (m - a0), write, false⟩] }
    | none =>
      -- R281: lines land as zeros, a write is discarded
      let s := s.setBit (stackReg A.hbmEccErr (aisleOf i)) 27
      let s := s.onStall i x fun t => t.raise Ev.hbmUnassigned x c.startTack true
      s.modStall i fun t => { t with str := { t.str with
        flying := if write then t.str.flying.filter (·.id ≠ id)
          else t.str.flying.map fun f => if f.id = id then { f with data := some (zeroBytes (64 * body.mems.length)) } else f } }

/-! ### Run-ahead (R254 to R256) -/

/-- A page that the run-ahead cursor enters for the first time in the run. After a HALT the promotion asked for is cancelled at once. -/
def State.runAheadPage (s : State) (i n : Nat) (inBound : Bool) (p : Nat) : State :=
  let e := s.farEntry p
  let drop (s : State) : State := s.modStall i fun t =>
    let c := t.ctx n
    t.setCtx n { c with dropped := satAdd 0xFFFF c.dropped 1 }
  if !inBound || decide (farKind e = 0) then drop s
  else if s.far.resident p then s
  else
    let s := s.modStall i fun t =>
      let c := t.ctx n
      let c := { c with
        issued := satAdd 0xFFFF c.issued 1
        pages := if farLoft e then c.pages ++ [(⟨p, false, false⟩ : Page)] else c.pages }
      t.setCtx n (if c.halted.isSome then c.cancel else c)
    { s with far := { s.far with asks := s.far.asks ++ [(s.holder i n, p)] } }

/-- Whether emit m of a run has begun to issue, or has been passed over (DEDUCED, log 144). -/
def Ctx.begunEmit (c : Ctx) (m : Nat) : Bool := decide (m < c.walk.n + (if c.walk.opened ∧ 0 < c.walk.p then 1 else 0))

/-- R254: the next emit that the run-ahead cursor covers, and its cycle: of the first `distance` emits one in each cycle from the START,
then emit m + distance as emit m issues. None where there is none yet, or a HALT came first. -/
def Ctx.aheadAt (c : Ctx) : Option (Walk × Nat) :=
  match c.nextAhead (progEmits c.prog + 1) c.ahead with
  | none => none
  | some w =>
    let d := sdDistance c.raw
    let y := if w.n < d then c.ahead.t else max c.ahead.t c.emitAt
    let halted := match c.halted with | some h => decide (h < y) | none => false
    if halted || (decide (d ≤ w.n) && !c.begunEmit (w.n - d)) then none else some (w, y)

/-- Whether a run's cursor moves ahead of it. -/
def Ctx.runsAhead (c : Ctx) : Bool := decide (c.state = .active) && c.endAt.isNone && decide (sdDistance c.raw ≠ 0) && !c.ahead.closed

/-- The cursor of a run covers the emit at w in cycle y. -/
def State.coverEmit (s : State) (i n : Nat) (w : Walk) (y : Nat) : State :=
  let c := (s.stall i).ctx n
  let lines := (c.emitLinesOf w.ix).map (·.1)
  let pages := squash (lines.map (· / pageSize))
  let fresh := pages.filter fun p => !c.seen.contains p
  let next := match nextIx c.prog 0 w.ix [] with
    | (some ix, _) => { w with ix := ix, n := w.n + 1, t := y + 1 }
    | (none, _) => { w with closed := true, n := w.n + 1, t := y + 1 }
  let s := s.modStall i fun t => t.setCtx n { t.ctx n with ahead := next, seen := c.seen ++ fresh }
  fresh.foldl (fun s p =>
    let inBound := (lines.filter fun a => decide (a / pageSize = p)).all fun a => decide (c.lo ≤ a ∧ a < c.hi)
    if 2 ^ 47 ≤ p * pageSize then s.runAheadPage i n inBound (farPage (p * pageSize))
    else if inBound then s
    else s.modStall i fun t => t.setCtx n { t.ctx n with dropped := satAdd 0xFFFF (t.ctx n).dropped 1 }) s

/-- What the cursor of a run covers before cycle x; `fuel` bounds the emits. -/
def State.aheadTo (s : State) (i n x : Nat) : Nat → State
  | 0 => s
  | k + 1 =>
    let c := (s.stall i).ctx n
    if !c.runsAhead then s
    else
      match c.aheadAt with
      | some (w, y) => if y < x then ((s.at_ y).coverEmit i n w y).aheadTo i n x k else s
      | none => s

/-- RUN_AHEAD_STEP (R254): the run-ahead cursor covers its next emit, at its cycle. -/
def execRunAheadStep (st : StallId) (ctx : CtxId) (s : State) : Host.Outcome State Fault Refusal :=
  .next (let i := st.val
    let n := ctx.val
    let c := (s.stall i).ctx n
    if !s.clocked || !c.runsAhead then s
    else
      match c.aheadAt with
      | some (w, y) => (s.at_ y).coverEmit i n w y
      | none => s)

/-- STREAM_PIECE_ISSUE (R246): the next piece of a context issues at its cycle, or meets the fault that the spec names. The emits skipped on
the way to it are passed over; where no piece is left, those alone (R236, R243, R244). -/
def execStreamPieceIssue (st : StallId) (ctx : CtxId) (s : State) : Host.Outcome State Fault Refusal :=
  .next (let i := st.val
    let n := ctx.val
    let t := s.stall i
    let c := t.ctx n
    if !s.clocked || decide (c.state ≠ .active) || c.endAt.isSome then s
    else
      let partner := t.ctx (sdPartner c.raw)
      let pass := s.modStall i fun t => t.setCtx n (c.passSkips (progEmits c.prog + 1 - c.walk.n) partner)
      match c.nextPiece partner with
      | none => pass
      | some (c', body, x) =>
        let late := match c.halted with | some h => decide (h < x) | none => false
        if late then pass
        else
          let s := (s.aheadTo i n x (x + 1 - c.ahead.t)).sync i x
          let s := (s.at_ x).modStall i fun t => t.setCtx n { t.ctx n with walk := c'.walk, posts := c'.posts, iterFin := c'.iterFin }
          let write := sdWrite c.raw
          let isFar := decide (2 ^ 47 ≤ body.mems.headD 0)
          let bad := body.mems.any fun m => decide (m < c.lo ∨ c.hi ≤ m) || decide (2 ^ 41 ≤ m ∧ m < 2 ^ 47)
          if bad || (write && isFar) then s.ctxFaultAt i n 1 31 Ev.strBound x true
          else if isFar && decide (farKind (s.farEntry (farPage (body.mems.headD 0))) = 0) then
            (s.failOwner i n x Ev.farFault).ctxFaultAt i n 4 27 Ev.farFault x false
          else
            let where_ := if isFar then none else s.locate (body.mems.headD 0)
            let quota := where_.map fun w => (w.1, pcOf w.2)
            let lat := if isFar then sdBudget c.raw else match where_ with | some w => (latency i w.1).2 | none => 640
            if !(s.stall i).str.room x body.mems.length write quota then s.ctxFaultAt i n 2 30 Ev.strSlot x true
            else s.launch i n x lat write isFar quota body)

/-! ### At the base die (R247, R285) -/

/-- The order in which a base die serves arrivals: cycle, reads first, earlier issue first, and of one issue the source that
ranks last first, so that the prevailing write is laid down last. -/
def servedBefore (a b : Arrival) : Bool :=
  if a.at_ ≠ b.at_ then decide (a.at_ < b.at_)
  else if a.write ≠ b.write then !a.write
  else if a.issue ≠ b.issue then decide (a.issue < b.issue)
  else decide (b.stall ≤ a.stall)

/-- The arrival that is served next. -/
def firstArrival : List Arrival → Option Arrival
  | [] => none
  | a :: t => match firstArrival t with | some b => if servedBefore a b then some a else some b | none => some a

/-- Changes a piece in flight. -/
def Stall.setFlying (t : Stall) (id : Nat) (f : Flying → Option Flying) : Stall :=
  { t with str := { t.str with flying := t.str.flying.filterMap fun p => if p.id = id then f p else some p } }

/-- One request served by base die j. -/
def State.serveArrival (s : State) (j : Nat) (a : Arrival) : State :=
  let k := s.stack j
  let s := s.setStack j { k with arrivals := k.arrivals.filter fun b => !(b.stall = a.stall && b.id = a.id) }
  let s := s.sync a.stall a.at_
  match (s.stall a.stall).str.flying.find? fun p => p.id = a.id with
  | none => s
  | some p =>
    if a.write then
      let data := p.data.getD (zeroBytes (64 * a.lines.length))
      let s := (a.lines.zipIdx).foldl (fun s l =>
        (s.ponyClear j l.1 64).writeStack j l.1 a.at_ (bytesAt data (64 * l.2) 64) false) s
      s.modStall a.stall fun t => t.setFlying a.id fun _ => none
    else
      let (s, bs, lost) := a.lines.foldl (fun (acc : State × List Byte × Bool) l =>
        let (s, b, w) := acc.1.readStack j l 64 a.at_
        (s, acc.2.1 ++ b, acc.2.2 || w.any id)) (s, [], false)
      if lost then s else s.modStall a.stall fun t => t.setFlying a.id fun p => some { p with data := some bs }

/-- Every request that has reached base die j by cycle x, served in order; fuel bounds their number. -/
def State.serveArrivals (s : State) (j x : Nat) : Nat → State
  | 0 => s
  | n + 1 =>
    match firstArrival (s.stack j).arrivals with
    | some a => if a.at_ ≤ x then (s.serveArrival j a).serveArrivals j x n else s
    | none => s

/-- BASE_DIE_ARRIVAL (R285): the next request of a stack is served at its arrival cycle. -/
def execBaseDieArrival (j : StackId) (s : State) : Host.Outcome State Fault Refusal :=
  .next (match firstArrival (s.stack j.val).arrivals with
    | some a => if s.clocked then (s.at_ a.at_).serveArrival j.val a else s
    | none => s)

/-! ### Landing (R51, R246, R252) -/

/-- The read piece of context n that lands first. -/
def Streams.firstLanding (t : Streams) (n : Nat) : Option Flying :=
  (t.flying.filter fun f => f.ctx = n && !f.write).foldl (fun b f =>
    match b with | none => some f | some g => if f.fin < g.fin then some f else some g) none

/-- PIECE_LANDING (R246): a read piece lands at its cycle. `arrived`: nothing on the way (the interface, the yard) kept its data
from the staging buffer. -/
def execPieceLanding (st : StallId) (ctx : CtxId) (arrived : Bool) (s : State) : Host.Outcome State Fault Refusal :=
  .next (let i := st.val
    match (s.stall i).str.firstLanding ctx.val with
    | none => s
    | some f0 =>
      if !s.clocked then s
      else
        let s := (List.range 32).foldl (fun s j =>
          if (s.stack j).arrivals.any fun a => a.stall = i && a.id = f0.id then s.serveArrivals j f0.fin (s.stack j).arrivals.length
          else s) s
        let x := max f0.fin (s.stall i).clk
        let s := (s.at_ x).sync i x
        match (s.stall i).str.flying.find? fun f => f.id = f0.id with
        | none => s
        | some f =>
          let s := s.modStall i fun t => t.setFlying f.id fun _ => none
          let s : State := { s with far := { s.far with reads := s.far.reads.filter fun r => !(r.stall = i && r.id = f.id) } }
          let tack := ((s.stall i).ctx f.ctx).startTack
          if f.drop then s
          else
            match f.data, arrived || f.far with
            | some d, true =>
              s.modStall i fun t => (f.body.locs.zipIdx).foldl (fun t l =>
                t.queueWrite ⟨x, f.issue, rankStr, f.wid, tack, 0, l.1, swapWords f.swap (bytesAt d (64 * l.2) 64)⟩) t
            | _, _ =>
              if f.far then (s.failOwner i f.ctx x Ev.farTimeout).farTimeout i x f
              else s.onStall i x fun t => t.raise Ev.lateLanding x tack true)

/-! ### Deadlock (R262) -/

/-- STREAM_DEADLOCK_CHECK (R262): a context still active after twice its duration, or at the closing margin, ends with cause
deadlock, and the shot aborts. -/
def execStreamDeadlockCheck (st : StallId) (ctx : CtxId) (s : State) : Host.Outcome State Fault Refusal :=
  .next (let i := st.val
    let n := ctx.val
    let c := (s.stall i).ctx n
    let x := min (c.start + 2 * c.duration) s.marginAt
    if s.clocked && s.running && decide (c.state = .active) && c.activeAt x && s.shot.gone.isNone then
      (((s.at_ x).sync i x).ctxFaultAt i n 7 28 Ev.streamDeadlock x true).orderAbort x
    else s)

/-! ### The pony lane (R264 to R272) -/

/-- The parts of a transfer by scratchpad line, wrapping modulo 4 MiB: address, offset in the transfer, length. -/
def lineParts (addr : Nat) : Nat → Nat → Nat → List (Nat × Nat × Nat)
  | 0, _, _ => []
  | f + 1, off, n =>
    if n = 0 then []
    else
      let a := (addr + off) % spdSize
      let k := min n (64 - a % 64)
      (a, off, k) :: lineParts addr f (off + k) (n - k)

/-- R183: entries of the unscheduled pool reserved for the lines of a transfer; none where the pool, of `room` entries, cannot take them. -/
def Stall.reserve (t : Stall) (x addr len room : Nat) : Option Stall :=
  let lines := squash (((lineParts addr 8 0 len).filter fun q => !t.inWindow q.1).map fun q => q.1 / 64)
  let new := lines.filter fun l => !(t.spd.gather.any fun g => g.line = l)
  if t.spd.poolTaken x 2 + new.length ≤ room then
    let g := t.spd.gather.map fun g => if lines.contains g.line then { g with held := g.held + 1 } else g
    let add := new.map fun l => (⟨l, 2, List.replicate 64 false, zeroBytes 64, x, 1⟩ : Gather)
    some { t with spd := { t.spd with gather := g ++ add } }
  else none

/-- R287: the pony buffer of a stack, of `room` entries, takes the units of a transfer; none where it cannot. -/
def Stack.reserve (k : Stack) (a len room : Nat) : Option Stack :=
  let units := (List.range ((a + len + 31) / 32 - a / 32)).map (a / 32 + ·)
  let new := units.filter fun u => !(k.pony.any fun e => e.unit = u)
  if k.pony.length + new.length ≤ room then
    let old := k.pony.map fun e => if units.contains e.unit then { e with held := e.held + 1 } else e
    some { k with pony := old ++ new.map fun u => ⟨u, List.replicate 32 none, true, 1⟩ }
  else none

/-- The parts of a transfer into HBM that are assigned (R279, R281): offset in the transfer, length, stack, stack address. -/
def State.ponyParts (s : State) (a len : Nat) : List (Nat × Nat × Nat × Nat) :=
  (partsOf a len).filterMap fun p => (s.locate p.1).map fun w => (p.1 - a, p.2, w.1, w.2)

/-- The pony buffers take every assigned part of a transfer; none where one of them cannot. -/
def State.reserveHbm (s : State) (room : Nat) : List (Nat × Nat × Nat × Nat) → Option State
  | [] => some s
  | (_, n, j, sa) :: t =>
    match (s.stack j).reserve sa n room with
    | some k => (s.setStack j k).reserveHbm room t
    | none => none

/-- The transfer at the head of the queue, accepted at cycle x for delivery at `fin`. -/
def Stall.acceptPony (t : Stall) (x fin : Nat) (p : Pony) (d : PonyDest) : Stall :=
  let from_ := max p.offer (match t.pony.lastAccept with | some y => y + 1 | none => 0)
  { t with pony := { t.pony with
    queue := t.pony.queue.drop 1
    flying := t.pony.flying ++ [{ p with dest := some d, accepted := some x, fin := fin }]
    lastAccept := some x
    wait := satAdd 0xFFFFFFFF t.pony.wait (x - from_) } }

/-- R194: the cycles in which a handshake into the stall has waited for entries, from `from_` to x, each counted once. -/
def Stall.pressed (t : Stall) (from_ x : Nat) : Stall :=
  let a := max from_ t.pony.waitedTo
  { t with
    spd := { t.spd with pressure := satAdd 0xFFFF t.spd.pressure (x - a) }
    pony := { t.pony with waitedTo := max x t.pony.waitedTo } }

/-- R270: the transfers of stall i offered by cycle x that have nowhere to go are dropped. -/
def State.dropPonies (s : State) (i x : Nat) : State :=
  if (s.stall i).pony.queue.isEmpty then s else s.onStall i x fun t => t.dropPonies x (s.ponyLost i)

/-- R281: a transfer of stall i covers bytes of no region at cycle x. -/
def State.ponyUnassigned (s : State) (i x tack : Nat) : State :=
  (s.setBit (stackReg A.hbmEccErr (aisleOf i)) 27).onStall i x fun t => t.raise Ev.hbmUnassigned x tack true

/-- The head transfer of stall i's queue goes to a stack at cycle x: what of it lies in no region is discarded (R281). -/
def State.acceptHbm (s : State) (i x a room : Nat) (p : Pony) : State :=
  let parts := s.ponyParts a p.len
  let whole := decide (parts.foldl (fun n q => n + q.2.1) 0 = p.len)
  match parts with
  | [] => ((s.at_ x).ponyUnassigned i x p.tack).modStall i fun t => { t with pony := { t.pony with queue := t.pony.queue.drop 1 } }
  | (_, _, j, _) :: _ =>
    match s.reserveHbm room parts with
    | none => s
    | some u =>
      let u := (u.at_ x).modStall i fun t => t.acceptPony x (x + (if j / 4 = i / 80 then 40 else 110)) p (.hbm a)
      if whole then u else u.ponyUnassigned i x p.tack

/-- The head transfer of stall i's queue goes to stall k at cycle x. -/
def State.acceptStall (s : State) (i k x a room : Nat) (p : Pony) : State :=
  let s := s.sync k (max x (s.stall k).clk)
  let fin := x + (if k / 80 = i / 80 then 40 else 110)
  match (s.stall k).reserve x a p.len room with
  | none => s
  | some t =>
    let (t, wid) := t.newWid
    let t := (t.addTag x fin a p.len wid).pressed (max p.offer (match (s.stall i).pony.lastAccept with
      | some y => y + 1
      | none => 0)) x
    ((s.at_ x).setStall k t).modStall i fun t => t.acceptPony x fin { p with wid := wid } (.stall k a)

/-- R266: the head transfer of stall i is accepted when its destination can take it; `free` where buffers are taken as never full, as the
loader does (R268). -/
def State.acceptNext (s : State) (i : Nat) (free : Bool) : State :=
  match (s.stall i).pony.queue with
  | [] => s
  | p0 :: _ =>
    if !s.clocked then s
    else
      let x := max (s.stallNow i) (max p0.offer (match (s.stall i).pony.lastAccept with | some y => y + 1 | none => 0))
      let s := (s.onStall i x fun t => t.ponyCheck x noTack).dropPonies i x
      match (s.stall i).pony.queue with
      | [] => s.at_ x
      | p :: _ =>
        let x := max x p.offer
        match s.ponyDest i p with
        | none => s.at_ x
        | some (.stall k a) => s.acceptStall i k x a (if free then 4096 else 12) p
        | some (.hbm a) => s.acceptHbm i x a (if free then 4096 else 32) p

/-- PONY_ACCEPT (R266): the head transfer is accepted when its destination can take it. -/
def execPonyAccept (st : StallId) (s : State) : Host.Outcome State Fault Refusal := .next (s.acceptNext st.val false)

/-- Bytes of a delivery enter a stack's pony buffer. -/
def Stack.fill (k : Stack) (a : Nat) (bs : List Byte) : Stack :=
  { k with pony := k.pony.map fun e =>
    if e.unit * 32 + 32 ≤ a ∨ a + bs.length ≤ e.unit * 32 then e
    else { e with
      held := e.held - 1
      bytes := e.bytes.zipIdx.map fun p =>
        let b := e.unit * 32 + p.2
        if a ≤ b ∧ b < a + bs.length then some (bs.getD (b - a) 0) else p.1 } }

/-- The transfer of a stall that is delivered next. -/
def PonyPort.first (p : PonyPort) : Option Pony :=
  p.flying.foldl (fun b f => match b with | none => some f | some g => if f.fin < g.fin then some f else some g) none

/-- A delivered transfer leaves the port; a stall that waits at a barrier arrives no earlier (R268). -/
def Stall.deliverPony (t : Stall) (p : Pony) : Stall :=
  { t with
    pony := { t.pony with
      flying := t.pony.flying.filter fun f => !(f.issue = p.issue && f.tack = p.tack && f.fin = p.fin)
      delivered := satAdd 0xFFFFFFFF t.pony.delivered 1 }
    seq := if t.seq.waiting.isSome then { t.seq with arrCycle := max t.seq.arrCycle p.fin } else t.seq }

/-- A delivered transfer is written in the destination stall; its gather entries lose a holder. -/
def Stall.landPony (t : Stall) (x src a : Nat) (p : Pony) : Stall :=
  let parts : List (Nat × Nat × Nat) := lineParts a 8 0 p.len
  let t : Stall := parts.foldl (fun (t : Stall) (q : Nat × Nat × Nat) =>
    t.queueWrite ⟨x, p.issue, rankPony + src, p.wid, noTack, 2, q.1, bytesAt p.bytes q.2.1 q.2.2⟩) t
  let lines := squash (parts.map fun (q : Nat × Nat × Nat) => q.1 / 64)
  let gather := t.spd.gather.map fun (g : Gather) => if lines.contains g.line then { g with held := g.held - 1 } else g
  { t with spd := { t.spd with gather := gather } }

/-- PONY_DELIVERY (R54): a transfer is delivered 40 or 110 cycles after its acceptance. -/
def execPonyDelivery (st : StallId) (s : State) : Host.Outcome State Fault Refusal :=
  .next (let i := st.val
    match (s.stall i).pony.first with
    | none => s
    | some p =>
      if !s.clocked then s
      else
        let s := s.at_ p.fin
        let s := match p.dest with
          | some (.stall k a) =>
            let x := max p.fin (s.stall k).clk
            let s := s.sync k x
            let src := ((s.stall i).logical).getD 576
            s.modStall k fun t => t.landPony x src a p
          | some (.hbm a) =>
            (s.ponyParts a p.len).foldl (fun (s : State) (q : Nat × Nat × Nat × Nat) =>
              s.setStack q.2.2.1 ((s.stack q.2.2.1).fill q.2.2.2 (bytesAt p.bytes q.1 q.2.1))) s
          | none => s
        s.onStall i (max p.fin (s.stall i).clk) fun t => t.deliverPony p)

/-- BASE_DIE_PONY_DRAIN (R287, R291): a pony buffer entry drains into its unit as a read, a merge and a write, all of whose bytes may be new. -/
def execBaseDiePonyDrain (j : StackId) (s : State) : Host.Outcome State Fault Refusal :=
  .next (match (s.stack j.val).pony.find? fun e => e.bytes.any (·.isSome) with
    | none => s
    | some e =>
      if !s.clocked then s
      else
        let k := s.stack j.val
        let s := s.setStack j.val { k with pony := k.pony.filterMap fun f =>
          if f.unit = e.unit then (if f.held = 0 then none else some { f with bytes := List.replicate 32 none }) else some f }
        let a := e.unit * 32
        let (old, kind) := s.decodeUnit j.val a
        let new := (old.zip e.bytes).map fun p => p.2.getD p.1
        match kind with
        | .clean => s.encodeUnit j.val a new
        | .fixed => (s.correction j.val a s.cyc).encodeUnit j.val a new
        | .lost =>
          let s := s.uncorrectable j.val a s.cyc
          let s : State := { s with bad := sset noBad s.bad (unitKey j.val a) ⟨3, []⟩ }
          if e.sched then s.failShot s.cyc Ev.hbmUncorrectable (srcStack j.val) else s)

end Sys2Proof.Machine
end

