-- ==== Sys2Proof/Machine/Yard.lean ====
section
/-!
DEFINITION. The yardmasters (07): their programs, the broadcasts, format selection, tack DMA and bank switches, as commands.
-/
namespace Sys2Proof.Machine

/-! ### Program issue (R224, R229) -/

/-- What becomes of an instruction of a yardmaster: the state, and the reference cycle it leaves. -/
inductive YmIssue where
  | illegal
  | inconsistent
  | done (s : State) (ref : Nat)

/-- A change that reaches every stall of a barn that is not fenced in cycle x (R225). -/
def State.broadcast (s : State) (b x : Nat) (c : Change) : State := s.eachStall (s.barnStalls b) fun t => t.later x c

/-- An event with a yardmaster as source that fails the shot, at its first occurrence in the shot; under audit strictness it
halts issue as a stall's event does (R201, R224). -/
def State.yardEvent (s : State) (b code x : Nat) : State :=
  let s := s.failEvent code (srcYard b) x []
  if s.strict && halts code && s.shot.halt.isNone && s.shot.begun then s.haltFrom (x + 96) else s

/-- The bits of YM_ERR for a kind of skip. -/
def SkipKind.ymBit : SkipKind → Nat | .illegal => 30 | .inconsistent => 29 | .tack => 31

/-- A skip at c by the yardmaster of barn b (R200, R201, R224, R232). -/
def State.ymSkip (s : State) (b c : Nat) (k : SkipKind) : State :=
  let y := s.barn b
  let e := barnReg A.ymErr b
  let s := if s.field e 31 29 = 0 then s.setField e 10 0 y.index else s
  let s := (s.setBit e k.ymBit).bump (barnReg A.ymStatus b) 15 0 1
  let first := !(y.once.contains Ev.instrIllegal || y.once.contains Ev.instrInconsistent || y.once.contains Ev.tackEcc)
  let s := s.setBarn b { y with index := y.index + 1, ref := c, lastIssue := some c, once := if first then k.event :: y.once else y.once }
  if first then s.yardEvent b k.event c else s

/-- The words that YM_NOP stands for: its own opcode, every opcode illegal in a yardmaster program, and a word with an
uncorrectable error (R199, R202). -/
def selYmNop (w : Insn) (k : FetchCheck) : Bool :=
  decide (k = .bad) || decide (opcodeOf w = 0xE0) || !decide (0xE1 ≤ opcodeOf w ∧ opcodeOf w ≤ 0xE5)

/-- A single-bit error in a word of the program (R202). -/
def State.ymCorrected (s : State) (b c : Nat) : State :=
  let y := s.barn b
  if y.once.contains Ev.tackCorrected then s
  else (s.setBarn b { y with once := Ev.tackCorrected :: y.once }).event Ev.tackCorrected (srcYard b) c []

/-! ### Format selection (R227, R314) -/

/-- Format codes from widest to narrowest (R314). -/
def widestFirst : List Nat := [1, 0, 2, 3, 4]

/-- The selection rule of R314. `h` holds the 32 bins; `cur` is the current code; `thresh` stands in the order E2M1, E2M3, E3M2,
E4M3. -/
def selectFormat (ovr : Nat) (h : List Nat) (cur : Nat) (p : FmtPolicy) (thresh : List Nat) : Nat :=
  let widest := (widestFirst.find? fun f => natBit p.allowed f).getD cur
  let bin (i : Nat) : Nat := h.getD i 0
  let sumTo (i : Nat) : Nat := (List.range i).foldl (fun n k => n + bin (k + 1)) 0
  if natBit ovr 3 && decide (ovr % 8 ≤ 4) then ovr % 8
  else if sumTo 31 = 0 then cur
  else if 0 < bin 31 then widest
  else
    let tail := sumTo 30 >>> p.tail
    let idx := (List.range 30).map (· + 1)
    let lo := (idx.find? fun i => decide (tail < sumTo i)).getD 30
    let hi := (idx.reverse.find? fun i => decide (0 < bin i)).getD 1
    match ([(4, 0), (3, 1), (2, 2), (0, 3)].find? fun f => natBit p.allowed f.1 && decide (hi - lo ≤ thresh.getD f.2 0)) with
    | some f => f.1
    | none => widest

/-- The histogram record of an entry (R313): what is read, and whether every unit of it was delivered. -/
def State.histRecord (s : State) (e x : Nat) : State × List Nat × Bool :=
  match s.boot.image.bind (·.update) with
  | some u =>
    let (s, bs, lost, _) := s.readMem (s.regionBase u.histTable + 256 * e) 256 x
    (s, (List.range 32).map (fun i => leAt bs (8 * i) 8), !lost.any id)
  | none => (s, [], false)

/-- A mode 1 selection of barn b ends: its code goes to every stall 847 cycles after issue. Where the record does not arrive
nothing is written (the shot has failed by R290's event and the pending table is reset with it). -/
def State.selectWrite (s : State) (b : Nat) (f : FmtSel) : State :=
  let x := f.issue + 847
  let y := s.barn b
  let s := s.setBarn b { y with sel := none }
  let (s, h, ok) := s.histRecord f.entry (f.issue + 384)
  match s.boot.image.bind (·.update), s.barnStalls b with
  | some u, i :: _ =>
    let cur := sget zeroNat (s.stall i).tack.fmt f.entry
    if !ok then s
    else s.broadcast b x (.fmt f.entry (selectFormat f.override_ h cur (u.policy.getD f.entry ⟨0, 0, 0⟩) u.thresh))
  | _, _ => s

/-- A selection of barn b that ends by cycle x is written. -/
def State.settleSel (s : State) (b x : Nat) : State :=
  match (s.barn b).sel with
  | some f => if f.issue + 847 ≤ x then s.selectWrite b f else s
  | none => s

/-- FORMAT_SELECTION_WRITE (R227, R314). -/
def execFormatSelectionWrite (b : BarnId) (s : State) : Host.Outcome State Fault Refusal :=
  .next (match (s.barn b.val).sel with
    | some f => if s.clocked then (s.at_ (f.issue + 847)).selectWrite b.val f else s
    | none => s)

/-! ### The instructions -/

/-- The yardmaster of barn b issues its next instruction, where `sel` selects its word, with the effect `eff` (R196, R224). -/
def State.ymIssue (s : State) (b : Nat) (sel : Insn → FetchCheck → Bool) (eff : State → Nat → Insn → YmIssue) : State :=
  let y := s.barn b
  let (w, k) := (sget zeroTack y.prog y.index).read
  let c := y.ref + deltaOf w
  let stopped := match y.stop with | some x => decide (x ≤ c) | none => false
  if !s.clocked || decide (y.state ≠ .running) || decide (2048 ≤ y.index) || !sel w k || stopped then s
  else
    let s := (s.at_ c).settleSel b c
    let s := if k = .corrected then s.ymCorrected b c else s
    if y.lastIssue = some c then s.ymSkip b c .inconsistent
    else if k = .bad then s.ymSkip b c .tack
    else
      match eff s c w with
      | .illegal => s.ymSkip b c .illegal
      | .inconsistent => s.ymSkip b c .inconsistent
      | .done s ref =>
        let y := s.barn b
        s.setBarn b { y with index := y.index + 1, ref := ref, lastIssue := some c }

/-- YM_NOP (R229): nothing; also the issue of a word that is illegal or in error. -/
def execYmNop (b : BarnId) (s : State) : Host.Outcome State Fault Refusal :=
  .next (s.ymIssue b.val selYmNop fun s c w => if opcodeOf w ≠ 0xE0 ∨ bitsOf w 43 0 ≠ 0 then .illegal else .done s c)

/-- YM_END (R224): the program ends for the shot. -/
def execYmEnd (b : BarnId) (s : State) : Host.Outcome State Fault Refusal :=
  .next (s.ymIssue b.val (selOp 0xE1) fun s c w =>
    if bitsOf w 43 0 ≠ 0 then .illegal else .done (s.setBarn b.val { s.barn b.val with state := .ended }) c)

/-- YM_WAIT (R229): the reference cycle is the issue cycle plus count. -/
def execYmWait (b : BarnId) (s : State) : Host.Outcome State Fault Refusal :=
  .next (s.ymIssue b.val (selOp 0xE2) fun s c w =>
    if bitsOf w 43 32 ≠ 0 ∨ bitsOf w 31 0 = 0 then .illegal else .done s (c + bitsOf w 31 0))

/-- YM_FTAB (R226): a pair of the store is broadcast into a slot; the load begins at arrival. -/
def execYmFtab (b : BarnId) (s : State) : Host.Outcome State Fault Refusal :=
  .next (s.ymIssue b.val (selOp 0xE3) fun s c w =>
    let y := s.barn b.val
    let early := match y.ftabAt with | some p => decide (c < p + 257) | none => false
    if bitsOf w 35 0 ≠ 0 then .illegal
    else if y.sel.isSome || early then .inconsistent
    else
      let slot := bitsOf w 43 41
      .done ((s.setBarn b.val { y with ftabAt := some c, loads := y.loads ++ [⟨c, slot, bitsOf w 40 36⟩] }).broadcast
        b.val (c + 7) (.slotLoad slot)) c)

/-- The image of pair p of a yardmaster's store (R151, R226). -/
def State.storePair (s : State) (b p : Nat) : List Byte :=
  let image := (s.barn b).pairs[p]?.bind fun k => s.boot.image.bind fun im => im.ftab[k]?
  match image with
  | some bs => bytesAt bs 0 16448
  | none => (List.range 16448).map fun i => Config.storeByte (16448 * p + i)

/-- A load ends in a stall (R155): its slot holds the pair and is valid. -/
def Stall.slotDone (t : Stall) (slot : Nat) (bs : List Byte) : Stall :=
  { t with vec := { t.vec with
    slots := ssetList zeroByte t.vec.slots (slot * 16448) bs
    valid := if t.vec.valid.contains slot then t.vec.valid else t.vec.valid ++ [slot]
    loading := t.vec.loading.filter fun l => l.1 ≠ slot
    badRegs := t.vec.badRegs.filter fun r => match r with | .entry k _ _ => decide (k ≠ slot) | _ => true } }

/-- FTAB_LOAD_END (R155): the load under way ends 257 cycles after its broadcast's arrival. -/
def execFtabLoadEnd (b : BarnId) (s : State) : Host.Outcome State Fault Refusal :=
  .next (match (s.barn b.val).loads with
    | [] => s
    | l :: rest =>
      if !s.clocked then s
      else
        let x := l.issue + 264
        let s := (s.at_ x).setBarn b.val { s.barn b.val with loads := rest }
        let bs := s.storePair b.val l.pair
        (s.barnStalls b.val).foldl (fun s i => s.onStall i x fun t => t.slotDone l.slot bs) s)

/-- YM_FMT (R227): mode 0 writes a pending entry at arrival; mode 1 begins a selection. -/
def execYmFmt (b : BarnId) (s : State) : Host.Outcome State Fault Refusal :=
  .next (s.ymIssue b.val (selOp 0xE4) fun s c w =>
    let y := s.barn b.val
    let e := bitsOf w 43 38
    let g := bitsOf w 37 35
    let mode := bitsOf w 34 34
    if bitsOf w 33 0 ≠ 0 ∨ 4 < g ∨ (mode = 1 ∧ g ≠ 0) then .illegal
    else if y.sel.isSome then .inconsistent
    else if mode = 0 then .done (s.broadcast b.val (c + 7) (.fmt e g)) c
    else
      let ovr := natBits (s.reg (A.updFmtOvr + 4 * (e / 8))) (4 * (e % 8) + 3) (4 * (e % 8))
      .done (s.setBarn b.val { y with sel := some ⟨e, c, ovr⟩ }) c)

/-- YM_ANCHOR (R228): a tile's anchor is set and the tile cleared in the stalls of the named aisles. -/
def execYmAnchor (b : BarnId) (s : State) : Host.Outcome State Fault Refusal :=
  .next (s.ymIssue b.val (selOp 0xE5) fun s c w =>
    let aisles := bitsOf w 30 27
    if bitsOf w 26 0 ≠ 0 ∨ aisles = 0 then .illegal
    else if (s.barn b.val).sel.isSome then .inconsistent
    else
      let l := (s.barnStalls b.val).filter fun i => natBit aisles (i % 80 / 20)
      .done (s.eachStall l fun t => t.later (c + 7) (.clear (bitsOf w 43 39) (signed 8 (bitsOf w 38 31)))) c)

/-- A yardmaster stops (R218, R224, R466). -/
def Barn.abort (y : Barn) : Barn :=
  { y with state := if y.state = .running then .idle else y.state, sel := none }

/-! ### Tack DMA (R212, R213, R475) -/

/-- A bank of a tack as an overlay gives it to a logical stall: zero words where the overlay holds no image for it (R211). -/
def Image.bankImage (im : Image) (overlay : Nat) (l : Option Nat) : List Insn :=
  match im.overlays.find? fun o => o.num = overlay, l with
  | some o, some l => match o.images.find? fun p => p.1 = l with | some p => p.2 | none => []
  | _, _ => []

/-- A tack with words of a bank replaced from index i on. -/
def Tack.fill (t : Tack) (bank : Bool) (i : Nat) (ws : List Insn) : Tack :=
  let put (m : Sparse TackWord) : Sparse TackWord := ssetList zeroTack m i (ws.map fun w => ⟨w, 0⟩)
  if bank then { t with bank1 := put t.bank1 } else { t with bank0 := put t.bank0 }

/-- A tack with a whole bank replaced. -/
def Tack.load (t : Tack) (bank : Bool) (ws : List Insn) (tag : Nat) : Tack :=
  let m : Sparse TackWord := ssetList zeroTack [] 0 (ws.map fun w => ⟨w, 0⟩)
  if bank then { t with bank1 := m, tag1 := tag } else { t with bank0 := m, tag0 := tag }

def Tack.setTag (t : Tack) (bank : Bool) (tag : Nat) : Tack := if bank then { t with tag1 := tag } else { t with tag0 := tag }

def bankNo (bank : Bool) : Nat := if bank then 1 else 0

/-- Marks or unmarks a bank as being written by a tack DMA. -/
def Tack.mark (t : Tack) (bank on : Bool) : Tack :=
  let l := t.dma.filter (· ≠ bankNo bank)
  { t with dma := if on then l ++ [bankNo bank] else l }

/-- The stalls that the DMA writes now: the first of each aisle. -/
def TackDma.current (d : TackDma) : List Nat := d.todo.filterMap fun l => l.head?

/-- The state with the stalls that a DMA writes now marked. -/
def State.markDma (s : State) (d : TackDma) : State :=
  s.eachStall d.current fun t => { t with tack := t.tack.mark d.bank true }

/-- Whether a move's copy is pending or running in a barn (R475). -/
def State.movePending (s : State) (b : Nat) : Bool := s.safe.moves.any fun m => !m.copied && decide (m.spare / 80 = b)

/-- A move's copy begins in its spare: both banks are being written and name no overlay (R212, R214). -/
def Tack.opened (t : Tack) : Tack := { (t.mark false true).mark true true with tag0 := 0xFF, tag1 := 0xFF }

/-- The copies of moves in a barn run one after another, each when no other DMA runs there (R475). -/
def State.startMoves (s : State) (b : Nat) : State :=
  if (s.barn b).dma.isSome || (s.safe.moves.any fun m => m.started && !m.copied && decide (m.spare / 80 = b)) then s
  else
    match s.safe.moves.find? fun m => !m.started && decide (m.spare / 80 = b) with
    | some m =>
      let moves := s.safe.moves.map fun k => if k.logical = m.logical then { k with started := true } else k
      let s := ({ s with safe := { s.safe with moves := moves } } : State).modStall m.spare fun t => { t with tack := t.tack.opened }
      (s.setBit (barnReg A.ymTdmaStatus b) 31).setField (barnReg A.ymTdmaStatus b) 30 30 0
    | none => s

/-- The DMA of barn b has ended. -/
def State.endDma (s : State) (b : Nat) : State :=
  let r := barnReg A.ymTdmaStatus b
  let s := (s.setBarn b { s.barn b with dma := none }).setField r 31 30 1
  s.startMoves b

/-- Target stalls of a host DMA, aisle by aisle (R212, R232). -/
def State.dmaTargets (s : State) (b v : Nat) : List (List Nat) :=
  if natBit v 30 then
    let i := natBits v 28 22
    if i < 80 ∧ (s.stall (80 * b + i)).fenced = false then [[80 * b + i]] else []
  else
    let aisle (a : Nat) : List Nat := (List.range 18).filterMap fun k => s.phys (18 * (4 * b + a) + k)
    (((List.range 4).filter fun a => natBit v (18 + a)).map aisle).filter fun l => !l.isEmpty

/-- YM_TDMA_GO (R212, R213): a write of YM_TDMA_CTRL with go = 1 starts a tack DMA, or sets refused. A copy from a raw address that groom
firmware makes before admission is started by no command and is left out (log 143). -/
def execYmTdmaGo (b : BarnId) (v : Word) (s : State) : Host.Outcome State Fault Refusal :=
  .next (if !s.awake then s
    else
      let s := s.writeReg (barnReg A.ymTdmaCtrl b.val) v.toNat
      if !natBit v.toNat 31 || !s.clocked then s
      else
        let r := barnReg A.ymTdmaStatus b.val
        let s := s.setField r 30 29 0
        let ov := natBits v.toNat 7 0
        let known := match s.boot.image with | some im => im.overlays.any fun o => o.num = ov | none => false
        if (s.barn b.val).dma.isSome || s.movePending b.val || !known then s.setBit r 29
        else
          let todo := s.dmaTargets b.val v.toNat
          let d : TackDma := ⟨natBit v.toNat 29, ov, todo, todo.map fun _ => 0, []⟩
          let s := (s.setField r 6 0 0).setBit r 31
          if todo.isEmpty then s.endDma b.val
          else (s.setBarn b.val { s.barn b.val with dma := some d }).markDma d)

/-- Write k of a DMA in a stall at cycle x (R212, R213): true where the stall drops it. `clean`: it has dropped none before. -/
def Stall.dmaWrite (t : Stall) (x : Nat) (bank : Bool) (k : Nat) (ws : List Insn) (tag : Nat) (clean : Bool) : Stall × Bool :=
  if t.logical.isSome && decide (t.tack.active = bank) then
    (if clean then ({ t with tack := t.tack.flag 29 } : Stall).raise Ev.tackActiveWrite x noTack false else t, true)
  else
    let tk := (t.tack.fill bank (8 * k) ws).setTag bank (if k = 1023 ∧ clean then tag else 0xFF)
    ({ t with tack := tk }, false)

/-- TACK_DMA_WRITE (R212, R213): the DMA's next write of 64 bytes of a stall that it writes now. -/
def execTackDmaWrite (b : BarnId) (st : StallId) (s : State) : Host.Outcome State Fault Refusal :=
  .next (match (s.barn b.val).dma with
    | none => s
    | some d =>
      let i := st.val
      match d.todo.findIdx? fun l => l.head? = some i with
      | none => s
      | some a =>
        if !s.clocked then s
        else
          let k := d.next.getD a 0
          let x := s.stallNow i
          let s := (s.at_ x).sync i x
          let words := match s.boot.image with | some im => im.bankImage d.overlay (s.stall i).logical | none => []
          let ws := (List.range 8).map fun u => words.getD (8 * k + u) 0
          let (t, drop) := (s.stall i).dmaWrite x d.bank k ws d.overlay (!d.dropped.contains i)
          let s := (s.setStall i t).flush [i]
          let r := barnReg A.ymTdmaStatus b.val
          let s := if drop && !d.dropped.contains i then s.setField r 6 0 (d.dropped.length + 1) else s
          let dropped := if drop && !d.dropped.contains i then d.dropped ++ [i] else d.dropped
          if k < 1023 then s.setBarn b.val { s.barn b.val with dma := some { d with next := d.next.set a (k + 1), dropped := dropped } }
          else
            let s := s.modStall i fun t => { t with tack := t.tack.mark d.bank false }
            let d' : TackDma := { d with
              todo := d.todo.set a ((d.todo.getD a []).drop 1), next := d.next.set a 0, dropped := dropped }
            if d'.todo.all (·.isEmpty) then s.endDma b.val
            else (s.setBarn b.val { s.barn b.val with dma := some d' }).markDma d')

/-! ### Bank switches (R214) -/

/-- YM_TACK_SWITCH_REQUEST (R214): a switch is marked pending in every mapped logical stall of the named aisles. -/
def execYmTackSwitchRequest (b : BarnId) (v : Word) (s : State) : Host.Outcome State Fault Refusal :=
  .next (if !s.awake then s
    else
      let s := s.writeReg (barnReg A.ymTackSwitch b.val) v.toNat
      if !natBit v.toNat 31 || !s.clocked then s
      else
        let aisles := (List.range 4).filter fun a => natBit v.toNat a
        let l := (aisles.map fun a => (List.range 18).filterMap fun k => s.phys (18 * (4 * b.val + a) + k)).flatten
        s.eachStall l fun t => { t with tack := { t.tack with pending := true } })

/-- A pending switch in a closing margin (R214). -/
def Tack.switch (t : Tack) : Tack :=
  let other := if t.active then t.tag0 else t.tag1
  if t.pending && t.dma.isEmpty && decide (other ≠ 0xFF) then { t with active := !t.active, pending := false } else t

end Sys2Proof.Machine
end

