-- ==== Sys2Proof/Machine/HostOps.lean ====
section
/-!
DEFINITION. The event log, completions and interrupts (13), and the operations by which every part of the module reports to the
host.
-/
namespace Sys2Proof.Machine

/-! ### Order of events (R62) -/

/-- Rank of a source among events of one count (R62): barns in order, each yardmaster first, then stalls, then stacks; GW: gate
logic, ports, groom; GE the same; the carrier. -/
def srcRank (src : Nat) : Nat :=
  match src / 4096 with
  | 0 => src / 512 * 1000 + 1 + src % 128
  | 1 => src % 4096 / 512 * 1000
  | 2 => src % 32 / 4 * 1000 + 100 + src % 4
  | 3 => 10000 + src / 256 % 2 * 1000 + (if src % 32 = 31 then 0 else 1 + src % 32)
  | 4 => 10000 + src / 256 % 2 * 1000 + 100
  | _ => 20000 + src % 16

def eventBefore (a b : Event) : Bool :=
  decide (a.count < b.count) || (decide (a.count = b.count) && decide (srcRank a.src < srcRank b.src))

/-- The event that comes first in the order of R62; of one source and count, the one detected first. -/
def firstEvent : List Event → Option Event
  | [] => none
  | e :: t => match firstEvent t with | some f => if eventBefore f e then some f else some e | none => some e

/-! ### The ring of the log (R428, R429) -/

def logSize : Nat := 0x40000

/-- The bytes of an event record (R429). -/
def Event.record (e : Event) (late : Bool) : List Byte :=
  let n := 24 + (e.detail.length + 7) / 8 * 8
  bytesAt (leBytes 2 n ++ [if late then 1 else 0, 0] ++ leBytes 2 e.code ++ leBytes 2 e.src ++ leBytes 6 e.shot ++ zeroBytes 2 ++
    leBytes 8 e.count ++ e.detail) 0 n

/-- Bytes of the ring in use. -/
def Log.used (l : Log) : Nat := (l.wptr + 2 * logSize - l.rptr) % (2 * logSize)

/-- Moves both copies of the write pointer. -/
def Log.advance (l : Log) (n : Nat) : Log :=
  let w := (l.wptr + n) % (2 * logSize)
  { l with wptr := w, wptr2 := w }

/-- A record of n bytes at the write pointer: the pad record that fills to the end first, where it would cross it (R428). -/
def Log.padFor (l : Log) (n : Nat) : Nat :=
  let o := l.wptr % logSize
  if logSize < o + n then logSize - o else 0

/-- Whether a record of n bytes, with the pad it needs, finds room. -/
def Log.fits (l : Log) (n : Nat) : Bool := decide (l.used + l.padFor n + n ≤ logSize)

/-- Places a record (R428). -/
def Log.put (l : Log) (bs : List Byte) : Log :=
  let pad := l.padFor bs.length
  let l := if pad = 0 then l
    else ({ l with ring := l.ring.write (l.wptr % logSize) (bytesAt (leBytes 2 pad ++ [2]) 0 pad), starts := l.starts ++ [l.wptr] } :
      Log).advance pad
  ({ l with ring := l.ring.write (l.wptr % logSize) bs, starts := l.starts ++ [l.wptr] } : Log).advance bs.length

/-- Places an event's record, with the late flag where an event of a later count stands before it (R63). -/
def Log.place (l : Log) (e : Event) : Log :=
  let l' := l.put (e.record (decide (e.count < l.last)))
  { l' with last := max l.last e.count }

/-- R432: a message when the log becomes non-empty. -/
def State.logPlaced (s : State) (l : Log) : State :=
  let was := s.log.used
  let s : State := { s with log := l }
  if was = 0 && s.bit A.evtCtrl 31 then s.msix (s.field A.evtCtrl 10 0) else s

/-- R427: an access to a log whose pointer copies disagree empties it, and E_QUEUE_PTR is its first record. -/
def State.logCheck (s : State) : State :=
  if s.log.rptr = s.log.rptr2 ∧ s.log.wptr = s.log.wptr2 then s
  else
    let l : Log := { s.log with ring := [], wptr := 0, rptr := 0, wptr2 := 0, rptr2 := 0, starts := [] }
    ({ s with log := l } : State).logPlaced (l.place ⟨Ev.queuePtr, s.srcGroom, s.shotNo, s.now, queueDetail 0⟩)

/-- The core cycle at which the count t is reached: now where it has passed. -/
def State.reach (s : State) (t : Nat) : Nat :=
  if (s.now + 2 ^ 64 - t % 2 ^ 64) % 2 ^ 64 < 2 ^ 63 then s.cyc else max s.cyc (s.cycleOf t)

/-- An event that finds the log full is held, or lost where 256 are held (R431). -/
def Log.overflow (l : Log) (e : Event) : Log :=
  if l.full.length < 256 then { l with full := l.full ++ [e] }
  else { l with
    lostNow := l.lostNow + 1, lostEver := min 0xFFFFFFFF (l.lostEver + 1)
    lostCodes := if l.lostCodes.contains e.code then l.lostCodes else l.lostCodes ++ [e.code] }

/-- Time comes to the end of the 64 counts of the event whose turn it is, and every source has delivered what it detected before (R63). -/
def State.logDue (s : State) : State :=
  match firstEvent s.log.held with
  | none => s
  | some e => let x := s.reach (e.count + 64); (s.at_ x).syncAll x

/-- EVENT_LOG_PLACE (R63): the log writer places the event whose turn it is, 64 counts after its time; an event held while the log
was full comes first. -/
def execEventLogPlace (s : State) : Host.Outcome State Fault Refusal :=
  .next (let s := s.logDue.logCheck
    let l := s.log
    match l.full with
    | e :: rest =>
      if l.lostNow = 0 ∧ l.fits (e.record false).length then
        s.logPlaced (({ l with full := rest } : Log).place e)
      else
        match firstEvent l.held with
        | none => s
        | some e => { s.at_ (s.reach (e.count + 64)) with log := ({ l with held := l.held.erase e } : Log).overflow e }
    | [] =>
      match firstEvent l.held with
      | none => s
      | some e =>
        let s := s.at_ (s.reach (e.count + 64))
        let l : Log := { l with held := l.held.erase e }
        if l.lostNow = 0 ∧ l.fits (e.record false).length then s.logPlaced (l.place e) else { s with log := l.overflow e })

/-- EVT_OVERFLOW_RECORD (R431): when room has returned, the record of the events lost is placed. -/
def execEvtOverflowRecord (s : State) : Host.Outcome State Fault Refusal :=
  .next (let s := s.logCheck
    let l := s.log
    if l.lostNow = 0 ∨ !l.fits 32 then s
    else
      let e : Event := ⟨Ev.evtOverflow, s.srcGroom, s.shotNo, s.now, leBytes 8 (l.lostNow % 2 ^ 32)⟩
      s.logPlaced (({ l with lostNow := 0, lostCodes := [] } : Log).place e))

/-- EVT_RPTR_WRITE (R431, R432): a write is taken where it names the start of an unread record or pad, or the write pointer. -/
def execEvtRptrWrite (v : Word) (s : State) : Host.Outcome State Fault Refusal :=
  .next (if !s.awake then s
    else
      let s := s.logCheck
      let p := natBits v.toNat 18 0
      if p = s.log.wptr ∨ s.log.starts.contains p then
        let starts := s.log.starts.dropWhile fun q => decide (q ≠ p)
        let s : State := { s with log := { s.log with rptr := p, rptr2 := p, starts := starts } }
        if s.log.used ≠ 0 && s.bit A.evtCtrl 31 then s.msix (s.field A.evtCtrl 10 0) else s
      else s.setBit A.evtCtrl 30)

/-! ### Completions (R407, R418 to R421) -/

/-- An event of the primary groom, now. -/
def State.groomEvent (s : State) (code : Nat) (detail : List Byte) : State := s.event code s.srcGroom s.cyc detail

/-- Bytes 0 to 27 of a completion (R418). -/
def Entry.body (e : Entry) (status cause info shot result lat : Nat) : List Byte :=
  leBytes 2 status ++ leBytes 1 cause ++ bytesAt e.bytes 0 1 ++ leBytes 4 info ++ leBytes 6 shot ++ leBytes 1 result ++ zeroBytes 1 ++
    bytesAt e.bytes 16 8 ++ leBytes 4 lat

/-- An invocation completes: its record is written from cycle `due` on. -/
def State.complete (s : State) (e : Entry) (status cause info shot result lat due : Nat) : State :=
  let c : Completion := ⟨e.ring, e.pass, e.body status cause info shot result lat, e.seq, !natBit (leAt e.bytes 1 1) 0,
    if status = 0 then none else some status, due⟩
  { s with host := { s.host with comps := s.host.comps ++ [c] } }

/-- An entry completes with an event that its refusal raises (R413, R417, R39, R415). -/
def State.refuse (s : State) (e : Entry) (code cause : Nat) : State :=
  (s.groomEvent code []).complete e code cause 0 0 0 0 s.cyc

/-- R407: the event that a completion reports is in the log, or the record of its loss is. -/
def State.causePlaced (s : State) (c : Completion) : Bool :=
  match c.cause with
  | none => true
  | some k =>
    let waits (e : Event) : Bool := decide (e.code = k ∧ e.count ≤ s.countAt c.due)
    !(s.log.held.any waits) && !(s.log.full.any waits) && !s.log.lostCodes.contains k

/-- Whether a completion can be written: its cause is logged, and for a RUN no update pass is outstanding (R414). -/
def State.compReady (s : State) (c : Completion) : Bool :=
  s.causePlaced c && (decide (leAt c.body 3 1 ≠ 1) || s.train.passes.isEmpty)

/-- The completion whose turn it is: the one due first, of those due alike the one that completed first. -/
def firstComp : List Completion → Option Completion
  | [] => none
  | c :: t => match firstComp t with | some d => if d.due < c.due then some d else some c | none => some c

/-- Entries of a ring. -/
def Ring.entries (r : Ring) : Nat := 2 ^ r.size

/-- The two writes of a completion, and its message (R407, R419 to R421). A completion of an earlier pass of its ring has nowhere to go. -/
def State.writeComp (s : State) (c : Completion) : State :=
  let r := s.ring c.ring
  if r.pass ≠ c.pass then s
  else
    let n := r.entries
    let addr := r.base + 64 * n + r.written % n * 32
    let phase := if r.written / n % 2 = 0 then 2 ^ 31 else 0
    let s := (s.emit (.hostWrite addr c.body)).emit (.hostWrite (addr + 28) (leBytes 4 (c.seq % 2 ^ 31 + phase)))
    let r' : Ring := { r with
      written := r.written + 1, outstanding := r.outstanding - 1
      state := if r.state = .draining ∧ r.outstanding ≤ 1 then .disabled else r.state }
    let s := s.setRing c.ring r'
    let cfg := ringReg A.glbRingCfg c.ring
    if c.irq && s.bit cfg 30 then s.msix (s.field cfg 26 16) else s

/-- COMPLETION_WRITE (R407): the completion whose turn it is is written, or waits until requests are allowed (R406). -/
def execCompletionWrite (s : State) : Host.Outcome State Fault Refusal :=
  .next (match firstComp s.host.comps with
    | none => s
    | some c =>
      if !s.compReady c then s
      else
        let s := s.at_ c.due
        let s : State := { s with host := { s.host with comps := s.host.comps.erase c } }
        if s.hostOk && s.host.waiting.isEmpty then s.writeComp c
        else { s with host := { s.host with waiting := s.host.waiting ++ [.comp c] } })

/-- HOST_REQUESTS_ALLOWED (R406): what waited is sent in order. -/
def execHostRequestsAllowed (s : State) : Host.Outcome State Fault Refusal :=
  .next (if !s.awake then s
    else
      let s := s.cross cdcHost 0
      let w := s.host.waiting
      let s : State := { s with host := { s.host with busMaster := true, d3hot := false, waiting := [] } }
      w.foldl (fun s x => match x with | .msg v => s.msix v | .comp c => s.writeComp c) s)

/-- BUS_MASTER_ENABLE_CLEAR (R406). -/
def execBusMasterEnableClear (s : State) : Host.Outcome State Fault Refusal :=
  .next (if !s.awake then s
    else
      let s := s.cross cdcHost 0
      { s with host := { s.host with busMaster := false } })

/-- A vector's mask bit is cleared (R433): a pending message is sent. -/
def State.unmask (s : State) (v : Nat) : State :=
  let s : State := if s.host.unmasked.contains v then s else { s with host := { s.host with unmasked := s.host.unmasked ++ [v] } }
  if s.host.pba.contains v && !s.host.fmask then
    ({ s with host := { s.host with pba := s.host.pba.erase v } } : State).msix v
  else s

/-- MSIX_MASK_CLEAR (R433). -/
def execMsixMaskClear (vector : BitVec 11) (s : State) : Host.Outcome State Fault Refusal :=
  .next (if s.awake then s.unmask vector.toNat else s)

/-! ### Refusals of a RUN in the present state (R417) -/

/-- Whether a restore is running, or a repair affects a region that the plan reads (R417). -/
def State.underRepair (s : State) (p : Plan) : Bool :=
  s.ckpt.restore.isSome ||
    (match s.boot.image.bind (·.update) with
      | some u => s.ckpt.repairs.any fun k =>
          match u.records[k]? with
          | some r => p.reads.contains r.aRegion || p.reads.contains r.bRegion
          | none => false
      | none => false)

/-- R211: the active bank of a carried stall that the plan names does not hold the plan's overlay. -/
def State.bankBad (s : State) (p : Plan) : Bool :=
  p.progs.any fun g => s.carried g.logical &&
    (match s.phys g.logical with
      | some i =>
        let t := (s.stall i).tack
        decide ((if t.active then t.tag1 else t.tag0) ≠ g.overlay)
      | none => false)

/-- A release of the image has been asked for (R449). -/
def State.releasing (s : State) : Bool := decide (s.boot.releasing ≠ 0)

/-- The module is in HOLD or FAULT (R417). -/
def State.stopped (s : State) : Bool := decide (s.boot.mode = .hold ∨ s.boot.mode = .fault)

/-- R414: the number of the first boundary, counted from T(0), of the earliest shot in which a RUN fetched at cycle x can start. -/
def State.firstOpen (s : State) (x : Nat) : Nat :=
  if s.shot.begun && decide (s.marginAt ≤ x) then s.shot.nextNo + 1 else s.shot.nextNo

/-- The cause with which a RUN is refused in the present state, 0 where it is not (R417). `from_`: the number of the earliest shot it
could start in, were nothing before it in the queue. -/
def State.runCause (s : State) (q : RunEntry) (from_ : Nat) : Nat :=
  if s.stopped then 12
  else
    match s.boot.image with
    | none => 1
    | some im =>
      if s.releasing then 1
      else
        match im.planNo q.plan with
        | none => 7
        | some p =>
          if s.train.diverged && p.slices.any (fun l => !l.serving) then 2
          else if s.underRepair p then 3
          else if q.startShot ≠ 0 && decide (q.startShot < from_) then 6
          else if p.names.any (fun l => (s.phys l).isNone) then 5
          else if s.bankBad p then 4
          else 0

/-- The completion of a RUN (R418). -/
def State.completeRun (s : State) (q : RunEntry) (status cause due : Nat) : State :=
  s.complete q.entry status cause (min 0xFFFF q.ran + 65536 * min 0xFFFF q.failed) (q.first.getD 0) q.result 0 due

/-- A RUN completes with E_STATE (R417). -/
def State.refuseRun (s : State) (q : RunEntry) (cause : Nat) : State := (s.groomEvent Ev.state []).completeRun q Ev.state cause s.cyc

/-- The plan of the shot after the present one, as the run queue stands: that of the running RUN while it has shots left, or of the
RUN that starts next. -/
def State.nextPlan (s : State) : Option Nat :=
  let n := s.shot.nextNo
  let starts (q : RunEntry) : Bool := decide (q.startShot = 0 ∨ q.startShot = n)
  match s.host.runs with
  | [] => none
  | q :: t =>
    if q.started then
      if s.safe.rerun || decide (q.sidx + (if s.running then 1 else 0) < q.count) then some q.plan
      else match t with | r :: _ => if starts r then some r.plan else none | [] => none
    else if starts q then some q.plan else none

end Sys2Proof.Machine
end

