-- ==== Sys2Proof/Machine/CkptOps.lean ====
section
/-!
DEFINITION. What ends a securing point (R349 to R351), and the vote of the commit exchange (R324, R326).
-/
namespace Sys2Proof.Machine

def State.policy (s : State) : Option CkptPolicy := s.boot.image.bind (·.ckpt)

/-- The destinations to which every point is written (R348). -/
def CkptPolicy.active (c : CkptPolicy) : List Nat :=
  (List.range 4).filter fun d => match c.dests[d]? with | some e => e.active && decide (e.kind ≠ 0) | none => false

/-- R351: a point that every active destination has completed or failed is no longer in progress; if it is durable at none, the next
commit makes a new one. -/
def State.settlePoint (s : State) : State :=
  match s.ckpt.cur, s.policy with
  | some p, some c =>
    if c.active.all fun d => p.durableAt.contains d || p.failedAt.contains d then
      { s with ckpt := { s.ckpt with cur := none, retry := s.ckpt.retry || p.durableAt.isEmpty } }
    else s
  | _, _ => s

/-- R351: a destination fails the point in progress. Causes: 1 full, 2 write error, 3 closed window, 4 timeout. -/
def State.destFail (s : State) (d cause : Nat) : State :=
  match s.ckpt.cur, s.policy with
  | some p, some c =>
    if !c.active.contains d || p.durableAt.contains d || p.failedAt.contains d then s
    else
      let s := s.groomEvent Ev.ckpDestFail (leBytes 1 d ++ leBytes 1 cause ++ zeroBytes 6)
      let s := if s.bit A.ckpErr 31 then s else s.setField A.ckpErr 5 0 (d * 16 + cause)
      let s := s.setBit A.ckpErr 31
      ({ s with ckpt := { s.ckpt with cur := some { p with failedAt := p.failedAt ++ [d] } } } : State).settlePoint
  | _, _ => s

/-- The record of a parameter group in the group table (R317). -/
def State.groupRecord (s : State) (g : Nat) : List Byte :=
  match s.boot.image.bind (·.update) with
  | some u => s.peek (s.regionBase u.groupTable + 64 * g) 64
  | none => zeroBytes 64

/-- The step counter of a parameter group, as held at the last commit. -/
def State.sigmaOf (s : State) (g : Nat) : Nat := leAt (s.groupRecord g) 0 4

/-- R324: a contribution whose counter differs from the owner's suppresses its parameter group for the step. -/
def State.stepSkew (s : State) (g sigma : Nat) : State :=
  let s : State := { s with train := { s.train with skew := if s.train.skew.contains g then s.train.skew else s.train.skew ++ [g] } }
  if s.train.skewRaised then s
  else
    let s : State := { s with train := { s.train with skewRaised := true } }
    let s := s.groomEvent Ev.stepSkew (leBytes 2 g ++ zeroBytes 2 ++ leBytes 4 sigma)
    let s := if s.bit A.updErr 31 then s else (s.setField A.updErr 12 0 g).setReg A.updSkewFirst sigma
    s.setBit A.updErr 31

/-- R326: the cause for which the module vetoes the commit, coded as UPD_LAST_RESULT.cause; 0 for none. -/
def State.vetoNow (s : State) : Nat :=
  let m := s.train.mark
  let mine := decide (m.step = s.shot.step)
  if (mine && m.failed) || s.shot.fail.isSome || s.shot.gone.isSome then 1
  else if mine && m.far then 2
  else if s.train.diverged then 5
  else 0

/-- The 520 bytes of the commit exchange's record (R326), in 576. -/
def State.vote (s : State) : List Byte :=
  let byte (i : Nat) : Byte := BitVec.ofNat 8 ((List.range 8).foldl (fun n k => if s.train.skew.contains (8 * i + k) then n + 2 ^ k else n) 0)
  (List.range 512).map byte ++ leBytes 64 (if s.vetoNow = 0 then 0 else 1)

end Sys2Proof.Machine
end

