-- ==== Sys2Proof/Machine/Links.lean ====
section
/-!
DEFINITION. The links (12): slots, link sequence numbers, acknowledgements and resends, fault injection, links going down and up;
and the operations by which frames are sent.
-/
namespace Sys2Proof.Machine

/-! ### Slots (R366, R367, R375, R387) -/

/-- The current layer format table of the module: every stall that is not fenced holds the same (R207). -/
def State.fmtNow (s : State) (e : Nat) : Nat :=
  match s.goodStalls with | i :: _ => sget zeroNat (s.stall i).tack.fmt e | [] => 0

/-- R375: the first slot of a frame injected at shot cycle c. -/
def firstSlot (c : Nat) : Nat := (c + 36 + 34) / 35 * 35

/-- The dimension of each step of an exchange. -/
def Fabric.steps (fb : Fabric) : List Nat := ((List.range 4).map fun d => List.replicate (fb.dim d - 1) d).flatten

/-- The lines of an exchange's accumulator. -/
def accLines (t : Transfer) : Nat := if t.op = 2 then 2 * t.count else t.count

/-- Lines and frames of a record, for a format code. -/
def Transfer.linesAs (t : Transfer) (code : Nat) : Nat :=
  if t.kind = 1 then t.count * carrierLines (widthOfFmt code) else if t.kind = 2 then accLines t else t.count

def Transfer.framesAs (t : Transfer) (code : Nat) : Nat := (t.linesAs code + 27) / 28

/-- The slots that a record's frames take at this module's ports under case k: port, whether they come in, slot. -/
def Fabric.slotsOf (fb : Fabric) (k : Nat) (t : Transfer) (code : Nat) : List (Nat × Bool × Nat) :=
  let slot (f : Nat) : Nat := firstSlot (t.c + 35 * f) / 35
  let ks := List.range (t.framesAs code)
  if t.kind = 2 then
    (fb.steps.zipIdx.map fun d => (ks.map fun f =>
      [(hopPort t.ge (d.1, true), false, slot f + 25 * d.2), (hopPort t.ge (d.1, false), true, slot f + 25 * d.2)]).flatten).flatten
  else if t.recv then
    let l := fb.route k (fb.physOf k t.peer) fb.me
    match l.getLast? with
    | some h => ks.map fun f => (farPort (hopPort t.ge h), true, slot f + 25 * (l.length - 1))
    | none => []
  else
    match (fb.route k fb.me (fb.physOf k t.peer)).head? with
    | some h => ks.map fun f => (hopPort t.ge h, false, slot f)
    | none => []

/-- The first slot that begins at or after cycle x; a slot of the present shot while one runs, the short slot at its end left out. -/
def State.slotFrom (s : State) (x : Nat) : Nat :=
  let t := x - s.shot.begin_
  let k := (t + 34) / 35 * 35
  if s.shot.begun && decide (7 * s.period < k + 35) then max s.shotEnd x else s.shot.begin_ + k

/-- R367: whether the slot that would come next is the short slot of the present shot. -/
def State.fallsShort (s : State) (x : Nat) : Bool :=
  let k := (x - s.shot.begin_ + 34) / 35 * 35
  s.shot.begun && decide (k < 7 * s.period ∧ 7 * s.period < k + 35)

/-- The slot after one. -/
def State.slotAfter (s : State) (q : Nat) : Nat := if q < s.shotEnd then s.slotFrom (q + 35) else q + 35

/-- The port by which a held frame goes on (R369). -/
def State.heldPort (s : State) (h : Held) : Option Nat :=
  ((s.fabric.route s.caseNow s.fabric.me (h.f.dst % 8192)).head?).map fun g => hopPort (10 ≤ h.port) g

/-- Whether a frame of the replay buffer of port p holds a slot. -/
def State.replaySlot (s : State) (p q : Nat) : Bool := (s.port p).replay.any fun r => decide (r.slot = q)

/-- Whether a plan whose shot begins at cycle x sends a scheduled data frame of its own in the slot q of port p. -/
def State.planSlot (s : State) (p q x : Nat) (pl : Plan) : Bool :=
  pl.transfers.any fun t => (s.fabric.slotsOf s.caseNow t (s.fmtNow t.fmt)).any fun w => decide (w.1 = p ∧ w.2.1 = false ∧ x + 35 * w.2.2 = q)

/-- R366, R388: whether the slot q of port p carries a data frame: one of the replay buffer, one that is held for it, or a scheduled frame of
the present or the next shot. -/
def State.slotTaken (s : State) (p q : Nat) : Bool :=
  s.replaySlot p q || (s.fab.held.any fun h => decide (h.due = q ∧ s.heldPort h = some p)) ||
    match if s.shot.begun && decide (q < s.shotEnd) then s.plan else s.nextPlan.bind s.planAt with
    | some pl => s.planSlot p q (if s.shot.begun && decide (q < s.shotEnd) then s.shot.begin_ else s.shotEnd) pl
    | none => false

/-- The first slot from q on of which `taken` does not hold; fuel bounds the slots that are taken. -/
def State.slotPast (s : State) (taken : Nat → Bool) : Nat → Nat → Nat
  | 0, q => q
  | fuel + 1, q => if taken q then s.slotPast taken fuel (s.slotAfter q) else q

/-- R388: the first slot from cycle x on that carries no other data frame. R377 lets no 8 slots in a row carry scheduled frames. -/
def State.freeSlot (s : State) (p x : Nat) : Nat :=
  s.slotPast (s.slotTaken p) (8 * ((s.port p).replay.length + s.fab.held.length + 2)) (s.slotFrom x)

/-- R368: the slot of a scheduled frame: its own, or, while resends hold it, the next that they leave. -/
def State.schedSlot (s : State) (p q : Nat) : Nat := s.slotPast (s.replaySlot p) ((s.port p).replay.length + 1) q

/-- The slot of a resend at the present cycle: the first that begins, whatever it carries; and past a short slot the first of the next shot that
carries no data frame (R367, R368). -/
def State.resendSlot (s : State) (p : Nat) : Nat := if s.fallsShort s.cyc then s.freeSlot p s.shotEnd else s.slotFrom s.cyc

/-! ### Events of the fabric -/

/-- R399: FAB_ERR records the number of the first of its events since its flags were last clear. -/
def State.fabErr (s : State) (bit number : Nat) : State :=
  let s := if s.field A.fabErr 31 28 = 0 then s.setField A.fabErr 15 0 number else s
  s.setBit A.fabErr bit

/-- E_FRAME_DISCARD at port p (R373, R376, R384). -/
def State.discard (s : State) (p : Nat) (f : Frame) : State :=
  ((s.portEvent Ev.frameDiscard p s.cyc (some f)).setBit (portReg A.fabPortErr p) 29).fabErr 30 f.number

/-- A frame discarded for its EtherType or its address (R371, R390). -/
def State.foreign (s : State) (p : Nat) : State := s.setBit (portReg A.fabPortErr p) 28

/-! ### Sending -/

/-- Whether a frame kind is a data frame's (R373). -/
def isData (kind : Nat) : Bool := decide (kind ≤ 2 ∨ kind = 4 ∨ kind = 9 ∨ kind = 10 ∨ kind = 11)

/-- R398: the frame as a port with fault injection puts it on the wire. `first`: it is a first transmission. -/
def State.transmit (s : State) (p : Nat) (f : Frame) (first : Bool) : State :=
  let r := s.reg (portReg A.fabInjCtrl p)
  let mode := natBits r 18 16
  let n := max 2 (natBits r 15 0)
  let k := s.port p
  if mode = 0 ∨ 4 < mode ∨ (!first && !natBit r 30) = true then
    let s := s.emit (.frame p f)
    match k.swapHeld with
    | some g => (s.setPort p { k with swapHeld := none }).emit (.frame p g)
    | none => s
  else
    let k := { k with sent := k.sent + 1 }
    let hit := decide (k.sent % n = 0)
    let after (s : State) : State :=
      match k.swapHeld with
      | some g => (s.setPort p { k with swapHeld := none }).emit (.frame p g)
      | none => s.setPort p k
    if mode = 1 ∧ hit = true then s.setPort p k
    else if mode = 2 ∧ hit = true then after (s.emit (.frame p { f with good := false }))
    else if mode = 3 ∧ hit = true then s.setPort p { k with swapHeld := some f }
    else after (s.emit (.frame p f))

/-- The slot in which a frame goes out under mode 4 of R398: d gate cycles later. -/
def State.delayed (s : State) (p slot : Nat) : Nat :=
  if natBits (s.reg (portReg A.fabInjCtrl p)) 18 16 = 4 then slot + natBits (s.reg (portReg A.fabInjParam p)) 31 16 * 7 / 5 else slot

/-- A data frame is sent on port p (R368): a scheduled one in the slot that begins at cycle `at_`, or the next that resends leave; any other
in the first slot from that cycle on that carries none (R388). On an outer port no link protocol runs. -/
def State.sendData (s : State) (p at_ : Nat) (f : Frame) : State :=
  let k := s.port p
  if !k.up then s
  else if !isTorus p then s.emit (.frame p (s.fabric.toField p f))
  else
    let slot := if f.sched then s.schedSlot p at_ else s.freeSlot p at_
    let f := { f with lseq := k.seqNo }
    let s := s.setPort p { k with seqNo := (k.seqNo + 1) % 65536, replay := k.replay ++ [⟨f, s.delayed p slot, 0⟩] }
    s.transmit p f true

/-- A control frame is sent on port p. -/
def State.sendControl (s : State) (p : Nat) (f : Frame) : State :=
  if (s.port p).up then s.emit (.frame p (s.fabric.toField p f)) else s

/-- A frame that originates here. -/
def State.newFrame (s : State) (kind dst : Nat) : Frame :=
  { Frame.blank with etype := s.fabric.etype, kind := kind, src := s.myId, dst := dst }

/-- A link frame (R368): what = 0 acknowledges every number below `lseq`, 1 reports `lseq` missing, 2 gives the peer's identity
(module in src, port in number). -/
def State.sendLink (s : State) (p what lseq : Nat) : State :=
  s.sendControl p { s.newFrame 7 0 with lseq := lseq, number := p, payload := leBytes 1 what, length := 1 }

/-- The answer to a frame that came in on port p: an acknowledgement or a refusal (R383, R388). -/
def State.answer (s : State) (p : Nat) (f : Frame) (kind : Nat) (payload : List Byte) : State :=
  let g := { s.newFrame kind f.src with
    number := f.number, window := f.window, gen := 0, flags := f.flags % 2, offset := f.offset, pgroup := f.pgroup,
    whenC := f.whenC, whenS := f.whenS, payload := payload, length := payload.length, peer := f.peer, pport := f.pport }
  s.sendControl p g

/-! ### Receiving (R368, R371) -/

/-- The lowest missing number after `n`, where the numbers in `l` have come. -/
def nextMissing : Nat → Nat → List Nat → Nat
  | 0, n, _ => n
  | k + 1, n, l => if l.contains n then nextMissing k ((n + 1) % 65536) l else n

/-- A data frame on a torus link: the state after the link protocol, and whether the frame is new. -/
def State.linkTake (s : State) (p : Nat) (f : Frame) : State × Bool :=
  let k := s.port p
  if !f.good then (s.sendLink p 1 k.expect, false)
  else
    let ahead := (f.lseq + 65536 - k.expect) % 65536
    if 32768 ≤ ahead ∨ k.got.contains f.lseq then (s.sendLink p 0 k.expect, false)
    else
      let got := f.lseq :: k.got
      let e := nextMissing (got.length + 1) k.expect got
      let got := got.filter fun n => decide ((n + 65536 - e) % 65536 < 32768)
      let s := s.setPort p { k with expect := e, got := got }
      let s := s.sendLink p 0 e
      (if 0 < ahead then s.sendLink p 1 k.expect else s, true)

/-- Whether a frame is for one of the module's own addresses and comes in on a port that is up; what it does on the way in (R371,
R388, R390). -/
def State.takeFrame (s : State) (p : Nat) (f : Frame) : State × Bool :=
  if !s.awake || !(s.port p).up then (s, false)
  else if isTorus p then
    if f.etype ≠ s.fabric.etype ∨ !f.mine then (s.foreign p, false)
    else if isData f.kind then s.linkTake p f
    else (s, f.good)
  else if !f.mine then (s.foreign p, false)
  else if f.sched ∨ f.kind = 2 ∨ f.kind = 7 ∨ f.kind = 8 then (s, false)
  else (s, f.good)

/-! ### Resends (R368 to R370) -/

/-- R368: slots of replayed frames from `slot` on move one slot later until a free slot absorbs the move. -/
def slip : Nat → Nat → List Replay → List Replay
  | 0, _, l => l
  | n + 1, slot, l =>
    if l.any fun r => decide (r.slot = slot) then
      (slip n (slot + 35) l).map fun r => if r.slot = slot then { r with slot := slot + 35 } else r
    else l

/-- A link goes down (R370). -/
def State.downLink (s : State) (p : Nat) : State :=
  let k := s.port p
  if !k.up then s
  else
    let s := s.setPort p { k with up := false, training := true, replay := [], swapHeld := none, peer := none }
    let s := (s.portEvent Ev.linkDown p s.cyc none).setBit (portReg A.fabPortErr p) 30
    (s.bump (portReg A.fabPortStatus p) 15 0 1).setField (portReg A.fabPortPeer p) 20 0 0

/-- A frame of the replay buffer is resent (R368, R370): an unscheduled frame at most seven times. -/
def State.resend (s : State) (p : Nat) (r : Replay) : State :=
  if !r.f.sched && decide (7 ≤ r.resends) then s.downLink p
  else
    let k := s.port p
    let slot := s.resendSlot p
    let rest := slip k.replay.length slot (k.replay.filter fun q => q.f.lseq ≠ r.f.lseq)
    let s := s.setPort p { k with replay := rest ++ [{ r with slot := slot, resends := r.resends + 1 }] }
    let s := s.bump (portReg A.fabPortRetry p) 15 0 1
    let s := if s.shot.linkRetry.contains p then s
      else (({ s with shot := { s.shot with linkRetry := s.shot.linkRetry ++ [p] } } : State).portEvent Ev.linkRetry p s.cyc
        (some r.f)).setBit (portReg A.fabPortErr p) 31
    s.transmit p r.f false

/-- LINK_ACK_TIMEOUT (R368): a frame not acknowledged 434 cycles after its slot began is resent. -/
def execLinkAckTimeout (p : PortId) (lseq : BitVec 16) (s : State) : Host.Outcome State Fault Refusal :=
  .next (match (s.port p.val).replay.find? fun r => r.f.lseq = lseq.toNat with
    | some r => if s.awake then (s.at_ (r.slot + 434)).resend p.val r else s
    | none => s)

/-- LINK_FRAME (R364, R368): acknowledges cumulatively, reports a missing frame, or gives the peer's identity. -/
def execLinkFrame (p : PortId) (f : Frame) (s : State) : Host.Outcome State Fault Refusal :=
  .next (if !s.awake || !(s.port p.val).up || !isTorus p.val || !f.good || decide (f.kind ≠ 7) then s
    else if f.etype ≠ s.fabric.etype ∨ !f.mine then s.foreign p.val
    else
      let k := s.port p.val
      match leAt f.payload 0 1 with
      | 0 => s.setPort p.val { k with replay := k.replay.filter fun r => decide ((r.f.lseq + 65536 - f.lseq) % 65536 < 32768) }
      | 1 => match k.replay.find? fun r => r.f.lseq = f.lseq with
        | some r => s.resend p.val r
        | none => s
      | 2 => (s.setPort p.val { k with peer := some (f.src, f.number % 32) }).setField (portReg A.fabPortPeer p.val) 20 0
          (f.number % 32 * 65536 + f.src)
      | _ => s)

/-- LINK_DOWN (R370): the PCS has lost lock for 1,750 cycles. -/
def execLinkDown (p : PortId) (s : State) : Host.Outcome State Fault Refusal :=
  .next (if s.awake then (s.cross cdcSerdes p.val).downLink p.val else s)

/-- LINK_UP (R364, R370): a port that is enabled, with its cable present, comes up; each end sends its identity, and the peer's is
recorded. Link sequence numbers begin afresh. -/
def execLinkUp (p : PortId) (mod : BitVec 16) (port : BitVec 5) (s : State) : Host.Outcome State Fault Refusal :=
  .next (let k := s.port p.val
    let off := s.boot.image.isSome && decide (s.portMode p.val = 0)
    if !s.awake || k.up || off || !k.cable then s
    else
      let s := (s.cross cdcSerdes p.val).setPort p.val { k with
        up := true, training := false, seqNo := 0, replay := [], expect := 0, got := [], swapHeld := none, back := s.shot.nextNo
        peer := if isTorus p.val then some (mod.toNat, port.toNat) else none }
      if isTorus p.val then
        (s.setField (portReg A.fabPortPeer p.val) 20 0 (port.toNat * 65536 + mod.toNat)).sendLink p.val 2 0
      else s)

/-! ### Fault injection (R398) -/

/-- FAB_INJ_CTRL_WRITE (R398): taken for a port that the image's debug section lists, and otherwise refused. -/
def execFabInjCtrlWrite (p : PortId) (v : Word) (s : State) : Host.Outcome State Fault Refusal :=
  .next (if !s.awake then s
    else
      let a := portReg A.fabInjCtrl p.val
      let listed := match s.boot.image with | some im => im.injPorts.contains p.val | none => false
      if !listed then s.setBit a 31
      else
        let s := (s.writeReg a v.toNat).setField a 31 31 0
        let s := s.setPort p.val { s.port p.val with sent := 0 }
        let mode := natBits v.toNat 18 16
        if mode = 0 ∨ 4 < mode ∨ s.shot.injectEvt then s
        else
          let s : State := { s with shot := { s.shot with injectEvt := true } }
          (s.portEvent Ev.linkInject p.val s.cyc none).fabErr 28 0xFFFF)

end Sys2Proof.Machine
end

