-- ==== Sys2Proof/Machine/Frames.lean ====
section
/-!
DEFINITION. Frames (12): scheduled transfers, collectives, windows, and unscheduled traffic between modules.
-/
namespace Sys2Proof.Machine

/-! ### Transfers (R374 to R376) -/

/-- Lines of a carrier group of a transfer (R240). -/
def State.unitLines (s : State) (t : Transfer) : Nat := carrierLines (widthOfFmt (s.fmtNow t.fmt))

/-- Lines of a transfer (R375). -/
def State.linesOf (s : State) (t : Transfer) : Nat := if t.kind = 1 then t.count * s.unitLines t else t.count

def State.transfers (s : State) : List Transfer := match s.plan with | some p => p.transfers | none => []

/-- Bytes of frame f of a transfer of n lines. -/
def frameBytes (n f : Nat) : Nat := 64 * min 28 (n - 28 * f)

/-- The module's windows (R380). -/
def State.windowRec (s : State) (w : Nat) : Option WindowRec := s.fabric.windows[w]?

def State.window (s : State) (w : Nat) : Window := sget zeroWindow s.fab.windows w

def State.binding (s : State) (b : Nat) : Binding := sget zeroBinding s.fab.bindings b

/-- R383: whether a window accepts a frame: open, of the frame's generation, with the right it needs (0 scheduled, 1 unscheduled
write, 2 remote read). -/
def State.windowTakes (s : State) (f : Frame) : Bool :=
  let right := if f.kind = 3 then 2 else if f.sched then 0 else 1
  match s.windowRec f.window with
  | some r => let w := s.window f.window; w.isOpen && decide (w.gen = f.gen) && natBit r.rights right
  | none => false

/-- R384: whether a frame of n bytes at its offset lies within the window and fits its operation. -/
def State.windowFits (s : State) (f : Frame) (n : Nat) : Bool :=
  match s.windowRec f.window with
  | some r => decide (f.offset + n ≤ r.size) && (decide (f.kind = 3) || decide ((f.kind = 1) = (r.op = 1)))
  | none => false

/-- R383: a frame refused by its window is dropped and counted, and the sender told. -/
def State.closedWindow (s : State) (p : Nat) (f : Frame) : State :=
  (s.bump A.fabWinDrops 31 0 1).answer p f 6 (leBytes 2 Ev.windowClosed ++ zeroBytes 2)

/-- R384: a frame that its window cannot take. -/
def State.badFit (s : State) (p : Nat) (f : Frame) : State :=
  let s := (s.discard p f).answer p f 6 (leBytes 2 Ev.frameDiscard ++ zeroBytes 2)
  if f.sched then s.failShot s.cyc Ev.frameDiscard (srcPort p) else s

/-- The receive record of a scheduled frame (R376), and the frame's number within the transfer. -/
def State.matchRecord (s : State) (f : Frame) : Option (Transfer × Nat) :=
  let src := s.fabric.logicalOf s.caseNow (f.src % 8192)
  match s.transfers.find? fun t => t.recv && decide (t.kind = f.kind ∧ t.number = f.number ∧ t.peer = src) with
  | some t =>
    let k := (f.whenC - t.c) / 35
    if t.c ≤ f.whenC ∧ (f.whenC - t.c) % 35 = 0 ∧ 28 * k < s.linesOf t ∧ f.hops = t.h ∧ f.whenS = s.shotNo % 8 then some (t, k)
    else none
  | none => none

/-- FRAME_INJECT for a write or carrier sum (R375). -/
def State.injectSend (s : State) (t : Transfer) (k : Nat) : State :=
  let fb := s.fabric
  let b := s.binding t.target
  let n := s.linesOf t
  let dst := fb.physOf s.caseNow t.peer
  match fb.route s.caseNow fb.me dst with
  | [] => s
  | h :: _ =>
    let c := t.c + 35 * k
    let x := s.shot.begin_ + c
    let s := s.at_ x
    let (s, data, lost, un) := s.readMem (t.source + 1792 * k) (frameBytes n k) x
    let s := if un then s.failEvent Ev.hbmUnassigned (srcPort (hopPort t.ge h)) x (portDetail t.number s.myId c) else s
    if lost.any id then s.failShot x Ev.hbmUncorrectable (srcPort (hopPort t.ge h))
    else
      let last := decide (n ≤ 28 * (k + 1))
      let f : Frame := { s.newFrame t.kind (fb.idOf dst) with
        flags := 1 + (if last then 2 else 0), window := b.window, gen := b.gen, hops := t.h, length := data.length, number := t.number
        offset := t.place + 1792 * k, pgroup := t.pgroup, sigma := if t.pgroup = 0xFFFF then 0 else s.sigmaOf t.pgroup
        whenC := c, whenS := s.shotNo % 8, payload := data }
      if s.portScheduled (hopPort t.ge h) then s.sendData (hopPort t.ge h) (s.shot.begin_ + firstSlot c) f else s

/-! ### Exchanges (R387) -/

/-- Whether an exchange is the step's commit exchange (R326): an OR of 520 bytes in a plan with a commit barrier. -/
def State.isCommitExch (s : State) (t : Transfer) : Bool :=
  decide (t.kind = 2 ∧ t.op = 0 ∧ t.count = 9) && (match s.plan with | some p => p.bars.any (·.commit) | none => false)

/-- 32-bit values widened into 64-bit lanes. -/
def widen32 (bs : List Byte) : List Byte := ((List.range (bs.length / 4)).map fun i => leBytes 8 (leAt bs (4 * i) 4)).flatten

/-- R387: a frame combined into an accumulator. -/
def combine (op : Nat) (a b : List Byte) : List Byte :=
  if op = 0 then (a.zip b).map fun p => p.1 ||| p.2
  else ((List.range (a.length / 8)).map fun i => leBytes 8 ((leAt a (8 * i) 8 + leAt b (8 * i) 8) % 2 ^ 64)).flatten

/-- The module's own contribution to frame k of an exchange, as it stands at the injection cycle x; whether part of it is withheld,
whether part of it is unassigned. The vote counts every fault met before that cycle (R326). -/
def State.exchSource (s : State) (t : Transfer) (k x : Nat) : State × List Byte × Bool × Bool :=
  let n := frameBytes (accLines t) k
  if s.isCommitExch t then
    let s := s.syncAll x
    ({ s with train := { s.train with vetoCause := s.vetoNow } }, bytesAt s.vote (1792 * k) n, false, false)
  else if t.op = 2 then
    let (s, bs, lost, un) := s.readMem (t.source + 896 * k) (n / 2) x
    (s, widen32 bs, lost.any id, un)
  else
    let (s, bs, lost, un) := s.readMem (t.source + 1792 * k) n x
    (s, bs, lost.any id, un)

/-- Frame k of an exchange sent at step j. -/
def State.sendExch (s : State) (t : Transfer) (k j : Nat) (data : List Byte) : State :=
  match s.fabric.steps[j]? with
  | none => s
  | some d =>
    let c := t.c + 35 * k
    let p := hopPort t.ge (d, true)
    let f : Frame := { s.newFrame 2 (s.fabric.idOf (s.fabric.next s.fabric.me (d, true))) with
      flags := 1, hops := t.h, length := data.length, number := t.number, offset := 1792 * k, whenC := c, whenS := s.shotNo % 8
      payload := data }
    if s.portScheduled p then s.sendData p (s.shot.begin_ + firstSlot c + 875 * j) f else s

def State.exch (s : State) (n k : Nat) : Option Exch := s.fab.exchs.find? fun e => decide (e.number = n ∧ e.frame = k)

def State.setExch (s : State) (e : Exch) : State :=
  { s with fab := { s.fab with exchs := e :: s.fab.exchs.filter fun g => !(g.number = e.number && g.frame = e.frame) } }

/-- FRAME_INJECT for an exchange: the accumulator takes the source, and goes out at the first step. Where the source is withheld there is
no frame, as for a send. -/
def State.injectExch (s : State) (t : Transfer) (k : Nat) : State :=
  if (s.exch t.number k).isSome then s
  else
    let x := s.shot.begin_ + t.c + 35 * k
    let p := if t.ge then 10 else 0
    let (s, bs, lost, un) := (s.at_ x).exchSource t k x
    let s := if un then s.failEvent Ev.hbmUnassigned (srcPort p) x (portDetail t.number s.myId (t.c + 35 * k)) else s
    if lost then s.failShot x Ev.hbmUncorrectable (srcPort p)
    else
      let s := s.setExch ⟨t.number, k, bs, []⟩
      s.sendExch t k 0 bs

/-- FRAME_INJECT (R375, R387): a frame of a send or exchange record of the running plan is injected at its cycle. -/
def execFrameInject (number : BitVec 16) (frame : Nat) (s : State) : Host.Outcome State Fault Refusal :=
  .next (let n := number.toNat
    if !s.clocked || !s.running || s.fab.injected.contains (n, frame) then s
    else
      match s.transfers.find? fun t => !t.recv && decide (t.number = n) with
      | none => s
      | some t =>
        if 28 * frame < (if t.kind = 2 then accLines t else s.linesOf t) then
          let s : State := { s with fab := { s.fab with injected := s.fab.injected ++ [(n, frame)] } }
          if t.kind = 2 then s.injectExch t frame else s.injectSend t frame
        else s)

/-! ### Arrival and forwarding (R369, R375, R376) -/

/-- R369: a scheduled frame for another module is held for its slot on the next link of its route. -/
def State.holdForward (s : State) (p : Nat) (f : Frame) : State :=
  let fb := s.fabric
  let r := fb.route s.caseNow (f.src % 8192) (f.dst % 8192)
  match (fb.between (f.src % 8192) r).findIdx? fun i => decide (i = fb.me) with
  | none => s.discard p f
  | some i => { s with fab := { s.fab with held := s.fab.held ++ [⟨p, f, s.cyc, s.shot.begin_ + firstSlot f.whenC + 875 * (i + 1)⟩] } }

/-- An unscheduled frame for another module goes on at once. -/
def State.relay (s : State) (f : Frame) : State :=
  match s.portTo f.dst f.number with
  | some q => if isData f.kind then s.sendData q s.cyc f else s.sendControl q f
  | none => s

/-- FRAME_FORWARD (R369, R375): a held frame goes out in its slot on the next link, or is discarded if that slot had begun when it
came. -/
def execFrameForward (p : PortId) (lseq : BitVec 16) (s : State) : Host.Outcome State Fault Refusal :=
  .next (match s.fab.held.find? fun h => decide (h.port = p.val ∧ h.f.lseq = lseq.toNat ∧ h.f.dst ≠ s.myId) with
    | none => s
    | some h =>
      let s : State := { s with fab := { s.fab with held := s.fab.held.erase h } }
      if h.due < h.arr then s.bump (portReg A.fabPortRetry p.val) 31 16 1
      else
        match s.heldPort h with
        | none => s
        | some q =>
          if s.portScheduled q then (s.at_ h.due).sendData q h.due h.f else s.at_ h.due)

/-- A frame of kind WRITE or CSUM for this module (R376, R383, R384, R386). Its tag (R55) is entered here (DEDUCED, log 141). -/
def State.takeWrite (s : State) (p : Nat) (f : Frame) : State :=
  if !s.windowTakes f then s.closedWindow p f
  else if !s.windowFits f f.length then s.badFit p f
  else if !f.sched then
    let s := match s.windowRec f.window with
      | some r =>
        if r.target = 0 then s.writeMem (r.base + f.offset) s.cyc f.payload false
        else match s.phys r.stall with
          | some i =>
            let x := max s.cyc (s.stall i).clk
            (s.sync i x).modStall i fun t =>
              let (t, wid) := t.newWid
              (List.range ((f.length + 63) / 64)).foldl (fun (t : Stall) k =>
                t.queueWrite ⟨x, x, rankStr, wid, noTack, 0, (r.base + f.offset + 64 * k) % spdSize,
                  (f.payload.drop (64 * k)).take 64⟩) t
          | none => s
      | none => s
    s.answer p f 5 []
  else
    match s.matchRecord f with
    | none => (s.discard p f).failShot s.cyc Ev.frameDiscard (srcPort p)
    | some (t, _) =>
      let s := if f.kind = 1 ∧ f.pgroup ≠ 0xFFFF ∧ f.sigma ≠ s.sigmaOf f.pgroup then s.stepSkew f.pgroup f.sigma else s
      let due := s.shot.begin_ + f.whenC + 350 + 875 * t.h
      -- the scoreboard's tag of a landing in a scratchpad (R55)
      let s := match s.windowRec f.window with
        | some r => if r.target = 1 then match s.phys r.stall with
            | some i => s.modStall i fun t => t.addTag (s.shot.begin_ + f.whenC) due (r.base + f.offset) f.length 0
            | none => s
          else s
        | none => s
      { s with fab := { s.fab with held := s.fab.held ++ [⟨p, f, s.cyc, due⟩] } }

/-- A frame that came in: taken here, held for its next link, or passed on. -/
def State.deliver (s : State) (p : Nat) (f : Frame) (here : State → State) : State :=
  let (s, new) := s.takeFrame p f
  if !new then s
  else if f.dst ≠ s.myId ∧ isTorus p = true then (if f.sched then s.holdForward p f else s.relay f)
  else here s

/-- WRITE_FRAME (R383). -/
def execWriteFrame (p : PortId) (f : Frame) (s : State) : Host.Outcome State Fault Refusal :=
  .next (if f.kind = 0 then s.deliver p.val f fun s => s.takeWrite p.val f else s)

/-- CSUM_FRAME (R386). -/
def execCsumFrame (p : PortId) (f : Frame) (s : State) : Host.Outcome State Fault Refusal :=
  .next (if f.kind = 1 then s.deliver p.val f fun s => s.takeWrite p.val f else s)

/-! ### Landing (R376, R385) -/

/-- A scheduled write lands at cycle x. -/
def State.landWrite (s : State) (h : Held) (r : WindowRec) : State :=
  let f := h.f
  if r.target = 0 then s.writeMem (r.base + f.offset) h.due f.payload false
  else
    match s.phys r.stall with
    | some i =>
      let x := max h.due (s.stall i).clk
      (s.sync i x).modStall i fun t =>
        let (t, wid) := t.newWid
        (List.range ((f.length + 63) / 64)).foldl (fun (t : Stall) k =>
          t.queueWrite ⟨x, s.shot.begin_ + f.whenC, rankStr, wid, noTack, 0, (r.base + f.offset + 64 * k) % spdSize,
            (f.payload.drop (64 * k)).take 64⟩) t
    | none => s

/-- The lines `first` to `first + n − 1` of a transfer whose frames have landed; none where one is missing. -/
def SumBuf.lines (b : SumBuf) (first n : Nat) : Option (List Byte) :=
  (List.range n).foldl (fun acc i =>
    let l := first + i
    match acc, b.frames.find? fun q => q.1 = l / 28 with
    | some bs, some q => some (bs ++ bytesAt q.2 (64 * (l % 28)) 64)
    | _, _ => none) (some [])

/-- R385: the carrier groups whose last line lies in a frame that lands: each is added to its operand group and written. -/
def State.landSum (s : State) (h : Held) (t : Transfer) (k : Nat) (r : WindowRec) : State :=
  let f := h.f
  let u := s.unitLines t
  let w := widthOfFmt (s.fmtNow t.fmt)
  let old := (s.fab.sums.find? fun b => decide (b.number = t.number ∧ b.peer = t.peer)).getD ⟨t.number, t.peer, []⟩
  let b : SumBuf := { old with frames := old.frames ++ [(k, f.payload)] }
  let s : State := { s with fab := { s.fab with sums := b :: s.fab.sums.filter fun q => !(q.number = b.number && q.peer = b.peer) } }
  let start := f.offset - 1792 * k
  let groups := (List.range t.count).filter fun g => decide (((g + 1) * u - 1) / 28 = k)
  groups.foldl (fun s g =>
    match b.lines (g * u) u with
    | none => s
    | some bs =>
      let at_ := start + 64 * g * u
      let (s, own, lost, _) := s.readMem (r.operand + at_) (64 * u) (h.due - 900)
      if lost.any id then s.failShot h.due Ev.hbmUncorrectable (srcPort h.port)
      else
        let (sum, ovf) := groupAdd w (own.take (carrierGroupBytes w)) (bs.take (carrierGroupBytes w))
        let s := if ovf then
            s.failEvent Ev.carrierOverflow (srcPort h.port) h.due (portDetail f.number f.src (s.shotCycle h.due))
          else s
        s.writeMem (r.base + at_) h.due (bytesAt sum 0 (64 * u)) false) s

/-- One held frame lands. -/
def State.landHeld (s : State) (h : Held) : State :=
  let s : State := { s with fab := { s.fab with held := s.fab.held.erase h } }
  match s.matchRecord h.f, s.windowRec h.f.window with
  | some (t, k), some r =>
    let s : State := { s with fab := { s.fab with landed := s.fab.landed ++ [(t.peer, t.number, k)] } }
    if t.kind = 1 then s.landSum h t k r else s.landWrite h r
  | _, _ => s

/-- Insertion of a held frame by descending source, so that the lower source module prevails (R377). -/
def insertHeld (h : Held) : List Held → List Held
  | [] => [h]
  | g :: t => if g.f.src < h.f.src then h :: g :: t else g :: insertHeld h t

/-- FRAME_LANDING (R376): the frames of the landing cycle of a frame of a receive record are written or combined; one that is not in
place raises E_LATE_LANDING. -/
def execFrameLanding (number : BitVec 16) (frame : Nat) (s : State) : Host.Outcome State Fault Refusal :=
  .next (if !s.clocked || !s.running then s
    else
      match s.transfers.find? fun t => t.recv && decide (t.number = number.toNat ∧ 28 * frame < s.linesOf t) &&
          !s.fab.landed.contains (t.peer, t.number, frame) with
      | none => s
      | some t =>
        let due := s.shot.begin_ + t.c + 35 * frame + 350 + 875 * t.h
        let s := s.at_ due
        let here := s.fab.held.filter fun h => decide (h.due = due ∧ h.arr ≤ due ∧ h.f.dst = s.myId)
        let s := (here.foldl (fun l h => insertHeld h l) []).foldl State.landHeld s
        if s.fab.landed.contains (t.peer, t.number, frame) then s
        else
          let s : State := { s with fab := { s.fab with
            landed := s.fab.landed ++ [(t.peer, t.number, frame)]
            held := s.fab.held.filter fun h => !(h.due = due && h.f.number = t.number && h.f.dst = s.myId) } }
          let p := if t.ge then 10 else 0
          s.failEvent Ev.lateLanding (srcPort p) due (portDetail t.number 0xFFFF (s.shotCycle due)))

/-- EXCH_FRAME (R387): a frame of an exchange is combined into the accumulator and forwarded. The step is the one whose slot the time
of its arrival follows. -/
def execExchFrame (p : PortId) (f : Frame) (s : State) : Host.Outcome State Fault Refusal :=
  .next (if f.kind ≠ 2 then s
    else s.deliver p.val f fun s =>
      let k := f.offset / 1792
      let now := s.shotCycle s.cyc
      match s.transfers.find? fun t => !t.recv && decide (t.kind = 2 ∧ t.number = f.number) with
      | none => (s.discard p.val f).failShot s.cyc Ev.frameDiscard (srcPort p.val)
      | some t =>
        let c := t.c + 35 * k
        let j := (now - firstSlot c) / 875
        let dims := s.fabric.steps
        let fits := decide (f.whenC = c ∧ f.hops = t.h ∧ f.whenS = s.shotNo % 8 ∧ 28 * k < accLines t ∧ firstSlot c ≤ now) &&
          decide (some (portHop p.val) = (dims[j]?.map fun d => (d, false)))
        if !fits then (s.discard p.val f).failShot s.cyc Ev.frameDiscard (srcPort p.val)
        else
          let s := s.injectExch t k
          match s.exch t.number k with
          | none => s
          | some e =>
            if e.steps.contains j then s
            else
              let e : Exch := { e with acc := combine t.op e.acc (bytesAt f.payload 0 e.acc.length), steps := e.steps ++ [j] }
              let s := s.setExch e
              if dims[j + 1]? = dims[j]? then s.sendExch t k (j + 1) f.payload
              else if (List.range (j + 1)).all fun i => e.steps.contains i then s.sendExch t k (j + 1) e.acc
              else s)

/-- EXCHANGE_RESULT_WRITE (R387): the accumulator is written to the destination at its landing cycle; a frame that lacks a step
raises E_LATE_LANDING. -/
def execExchangeResultWrite (number : BitVec 16) (s : State) : Host.Outcome State Fault Refusal :=
  .next (if !s.clocked || !s.running || s.fab.landed.contains (8192, number.toNat, 0) then s
    else
      match s.transfers.find? fun t => !t.recv && decide (t.kind = 2 ∧ t.number = number.toNat) with
      | none => s
      | some t =>
        let n := (accLines t + 27) / 28
        let h := s.fabric.steps.length
        let due := s.shot.begin_ + t.c + 35 * (n - 1) + 350 + 875 * h
        let s := s.at_ due
        let s : State := { s with fab := { s.fab with landed := s.fab.landed ++ [(8192, t.number, 0)] } }
        let whole (k : Nat) : Bool :=
          match s.exch t.number k with | some e => (List.range h).all fun j => e.steps.contains j | none => false
        let s := (List.range n).foldl (fun s k =>
          match s.exch t.number k with
          | some e => if whole k then s.writeMem (t.place + 1792 * k) due e.acc false else s
          | none => s) s
        if (List.range n).all whole then
          match s.isCommitExch t, s.exch t.number 0 with
          | true, some e => { s with train := { s.train with result := some e.acc } }
          | _, _ => s
        else s.failEvent Ev.lateLanding (srcPort (if t.ge then 10 else 0)) due (portDetail t.number 0xFFFF (s.shotCycle due)))

/-! ### Remote reads (R389) and acknowledgements (R383, R388) -/

/-- Bytes of a stall's scratchpad read for another module at the present cycle (R389). -/
def State.readStall (s : State) (i a len : Nat) : State × Option (List Byte) :=
  let x := max s.cyc (s.stall i).clk
  let s := s.sync i x
  let (t, bs) := (s.stall i).remoteRead x a len
  ((s.setStall i t).flush [i], some bs)

/-- READ_REQ (R389): `sigma` bytes from `offset` on are read from the window and sent in frames of 1,792 bytes. -/
def execReadReq (p : PortId) (f : Frame) (s : State) : Host.Outcome State Fault Refusal :=
  .next (if f.kind ≠ 3 then s
    else s.deliver p.val f fun s =>
      if !s.windowTakes f then s.closedWindow p.val f
      else if !s.windowFits f f.sigma then s.badFit p.val f
      else
        match s.windowRec f.window with
        | none => s
        | some r =>
          let (s, data) := if r.target = 0 then
              let (s, bs, lost, _) := s.readMem (r.base + f.offset) f.sigma s.cyc
              (s, if lost.any id then none else some bs)
            else match s.phys r.stall with
              | some i => s.readStall i (r.base + f.offset) f.sigma
              | none => (s, none)
          match data with
          | none => s
          | some bs =>
            (List.range ((f.sigma + 1791) / 1792)).foldl (fun s k =>
              let part := (bs.drop (1792 * k)).take 1792
              let g : Frame := { s.newFrame 4 f.src with
                flags := if f.sigma ≤ 1792 * (k + 1) then 2 else 0, length := part.length, number := f.number
                offset := f.offset + 1792 * k, payload := part, peer := f.peer, pport := f.pport }
              match s.portTo f.src f.number with
              | some q => s.sendData q s.cyc g
              | none => s) s)

/-- Data for a far piece enters the staging buffer, where it comes before the piece lands (R300); late data is discarded. -/
def State.deliverFar (s : State) (r : FarRead) (bs : List Byte) : State :=
  let s : State := { s with far := { s.far with reads := s.far.reads.filter fun q => q.tagNo ≠ r.tagNo } }
  s.modStall r.stall fun t => t.setFlying r.id fun f => if s.cyc ≤ f.fin then some { f with data := some bs } else some f

/-- READ_RESP (R389). -/
def execReadResp (p : PortId) (f : Frame) (s : State) : Host.Outcome State Fault Refusal :=
  .next (if f.kind ≠ 4 then s
    else s.deliver p.val f fun s =>
      match s.far.reads.find? fun r => decide (r.kind = 3 ∧ r.tagNo % 65536 = f.number ∧ r.ident = f.src) with
      | none => s
      | some r =>
        let r' : FarRead := { r with got := r.got ++ [(f.offset - r.addr, f.payload)] }
        let n := r'.got.foldl (fun n g => n + g.2.length) 0
        if r.len ≤ n then s.deliverFar r (r'.got.foldl (fun bs g => overlay bs g.1 g.2) (zeroBytes r.len))
        else { s with far := { s.far with reads := s.far.reads.map fun q => if q.tagNo = r.tagNo then r' else q } })

/-- ACK_FRAME (R388): the acknowledged frame is retired. -/
def execAckFrame (p : PortId) (f : Frame) (s : State) : Host.Outcome State Fault Refusal :=
  .next (if f.kind ≠ 5 then s
    else s.deliver p.val f fun s =>
      { s with fab := { s.fab with msgs := s.fab.msgs.filter fun m => !(m.f.number = f.number && m.f.dst = f.src) } })

/-- A message fails (R383, R388): one that carried securing data fails its destination. -/
def State.failMessage (s : State) (m : Message) (cause : Nat) : State :=
  let s : State := { s with fab := { s.fab with msgs := s.fab.msgs.filter fun q => q.f.number ≠ m.f.number || q.f.dst ≠ m.f.dst } }
  match m.why with | some d => s.destFail d cause | none => s

/-- NACK_FRAME (R383): the sender raises the carried event. -/
def execNackFrame (p : PortId) (f : Frame) (s : State) : Host.Outcome State Fault Refusal :=
  .next (if f.kind ≠ 6 then s
    else s.deliver p.val f fun s =>
      let code := leAt f.payload 0 2
      if code ≠ Ev.windowClosed ∧ code ≠ Ev.frameDiscard then s
      else
        let s := (s.portEvent code p.val s.cyc (some f)).fabErr (if code = Ev.windowClosed then 31 else 30) f.number
        let s := if code = Ev.frameDiscard then s.setBit (portReg A.fabPortErr p.val) 29 else s
        if f.sched then s.failShot s.cyc code (srcPort p.val)
        else
          match s.fab.msgs.find? fun m => decide (m.f.number = f.number ∧ m.f.dst = f.src) with
          | some m => s.failMessage m 3
          | none => { s with far := { s.far with reads := s.far.reads.filter fun r =>
              !(r.kind = 3 && r.tagNo % 65536 = f.number && r.ident = f.src) } })

/-- UNSCHEDULED_RESEND (R388): a frame not acknowledged after 17,500 cycles is resent, up to three times; then its message fails. -/
def execUnscheduledResend (number : BitVec 16) (s : State) : Host.Outcome State Fault Refusal :=
  .next (match s.fab.msgs.find? fun m => m.f.number = number.toNat with
    | none => s
    | some m =>
      if !s.awake then s
      else
        let s := s.at_ (m.sentAt + 17500)
        if 3 ≤ m.resends then s.failMessage m 2
        else
          let m' : Message := { m with sentAt := s.cyc, resends := m.resends + 1 }
          let s : State := { s with fab := { s.fab with msgs := s.fab.msgs.map fun q => if q = m then m' else q } }
          match s.portTo m.f.dst m.f.number with
          | some q => s.sendData q s.cyc m.f
          | none => s)

/-- UNKNOWN_FRAME (R371, R373, R390): a frame of unknown kind is discarded with its event; foreign or unaddressed traffic is
discarded and counted. -/
def execUnknownFrame (p : PortId) (f : Frame) (s : State) : Host.Outcome State Fault Refusal :=
  .next (let (s, new) := s.takeFrame p.val f
    if new && decide (12 ≤ f.kind) then s.discard p.val f else s)

/-! ### Windows and bindings (R381, R382) -/

/-- A window opened or closed. -/
def Window.change (w : Window) (isOpen : Bool) : Window :=
  if isOpen then ⟨true, if w.gen = 0xFFFF then 1 else w.gen + 1, none⟩ else ⟨false, w.gen, none⟩

def State.setWindow (s : State) (n : Nat) (w : Window) : State :=
  { s with fab := { s.fab with windows := sset zeroWindow s.fab.windows n w } }

def State.setBinding (s : State) (n : Nat) (b : Binding) : State :=
  { s with fab := { s.fab with bindings := sset zeroBinding s.fab.bindings n b } }

/-- FAB_WIN_CTRL_GO (R381): a change of a window takes effect in the next closing margin, or at once when no shot runs. -/
def execFabWinCtrlGo (v : Word) (s : State) : Host.Outcome State Fault Refusal :=
  .next (if !s.awake then s
    else
      let s := s.writeReg A.fabWinCtrl v.toNat
      let n := natBits v.toNat 7 0
      if !natBit v.toNat 31 || (s.windowRec n).isNone then s
      else if s.running then s.setWindow n { s.window n with pend := some (natBit v.toNat 30) }
      else s.setWindow n ((s.window n).change (natBit v.toNat 30)))

/-- FAB_BIND_CTRL_GO (R382). -/
def execFabBindCtrlGo (v : Word) (s : State) : Host.Outcome State Fault Refusal :=
  .next (if !s.awake then s
    else
      let s := s.writeReg A.fabBindCtrl v.toNat
      let n := natBits v.toNat 25 16
      let g := natBits v.toNat 15 0
      if !natBit v.toNat 31 || decide (s.fabric.bindings.length ≤ n) then s
      else if s.running then s.setBinding n { s.binding n with pend := some g }
      else s.setBinding n { s.binding n with gen := g })

/-- R381, R382: the pending changes take effect. -/
def State.applyWindows (s : State) : State :=
  let s := s.fab.windows.foldl (fun s w => match w.2.pend with | some o => s.setWindow w.1 (w.2.change o) | none => s) s
  s.fab.bindings.foldl (fun s b => match b.2.pend with | some g => s.setBinding b.1 { b.2 with gen := g, pend := none } | none => s) s

/-! ### Outer ports (R390) -/

/-- Whether an address is the module's own on an outer port. -/
def State.ownAddress (s : State) (p addr : Nat) (v4 : Bool) : Bool :=
  match s.fabric.outerOf p with
  | some o => decide (o.v4 = v4 ∧ o.addr = addr)
  | none => false

/-- ARP_REQUEST (R390). -/
def execArpRequest (p : PortId) (addr : Nat) (s : State) : Host.Outcome State Fault Refusal :=
  .next (if !s.awake || !(s.port p.val).up then s
    else if s.ownAddress p.val addr true then s.emit (.arpReply p.val addr p.val)
    else s.foreign p.val)

/-- NEIGHBOR_SOLICITATION (R390). -/
def execNeighborSolicitation (p : PortId) (addr : Nat) (s : State) : Host.Outcome State Fault Refusal :=
  .next (if !s.awake || !(s.port p.val).up then s
    else if s.ownAddress p.val addr false then s.emit (.neighborAdvert p.val addr p.val)
    else s.foreign p.val)

end Sys2Proof.Machine
end

