-- ==== Sys2Proof/Machine/Crypto.lean ====
section
/-!
DEFINITION. The digest and the signature check of the loader (R441, R442): SHA-256 (FIPS 180-4), MGF1 and RSASSA-PSS verification
(PKCS #1 v2.2) with SHA-256 and a salt of 32 bytes.
-/
namespace Sys2Proof.Machine

/-! ### SHA-256 -/

/-- A word of the digest. -/
abbrev ShaWord := BitVec 32

/-- The fraction bits of the cube roots of the 64 smallest primes, 32 bits of each, the smallest prime's first. -/
def cubeRootBits : Nat :=
  0x428a2f9871374491b5c0fbcfe9b5dba53956c25b59f111f1923f82a4ab1c5ed5d807aa9812835b01243185be550c7dc372be5d7480deb1fe9bdc06a7c19bf174e49b69c1efbe47860fc19dc6240ca1cc2de92c6f4a7484aa5cb0a9dc76f988da983e5152a831c66db00327c8bf597fc7c6e00bf3d5a7914706ca63511429296727b70a852e1b21384d2c6dfc53380d13650a7354766a0abb81c2c92e92722c85a2bfe8a1a81a664bc24b8b70c76c51a3d192e819d6990624f40e3585106aa07019a4c1161e376c082748774c34b0bcb5391c0cb34ed8aa4a5b9cca4f682e6ff3748f82ee78a5636f84c878148cc7020890befffaa4506cebbef9a3f7c67178f2

/-- The constant of round i. -/
def roundKey (i : Nat) : ShaWord := BitVec.ofNat 32 (cubeRootBits >>> (32 * (63 - i)))

/-- The state of the digest. -/
structure Sha where
  a : ShaWord
  b : ShaWord
  c : ShaWord
  d : ShaWord
  e : ShaWord
  f : ShaWord
  g : ShaWord
  h : ShaWord
  deriving DecidableEq, Repr

def Sha.first : Sha :=
  ⟨0x6a09e667, 0xbb67ae85, 0x3c6ef372, 0xa54ff53a, 0x510e527f, 0x9b05688c, 0x1f83d9ab, 0x5be0cd19⟩

/-- One round with constant k and schedule word w. -/
def Sha.round (x : Sha) (kw : ShaWord) : Sha :=
  let s1 := x.e.rotateRight 6 ^^^ x.e.rotateRight 11 ^^^ x.e.rotateRight 25
  let ch := (x.e &&& x.f) ^^^ (~~~x.e &&& x.g)
  let t1 := x.h + s1 + ch + kw
  let s0 := x.a.rotateRight 2 ^^^ x.a.rotateRight 13 ^^^ x.a.rotateRight 22
  let maj := (x.a &&& x.b) ^^^ (x.a &&& x.c) ^^^ (x.b &&& x.c)
  ⟨t1 + (s0 + maj), x.a, x.b, x.c, x.d + t1, x.e, x.f, x.g⟩

def Sha.add (x y : Sha) : Sha := ⟨x.a + y.a, x.b + y.b, x.c + y.c, x.d + y.d, x.e + y.e, x.f + y.f, x.g + y.g, x.h + y.h⟩

/-- The message schedule, newest word first: n more words. -/
def shaExtend : Nat → List ShaWord → List ShaWord
  | 0, l => l
  | n + 1, l =>
    let w2 := l.getD 1 0
    let w15 := l.getD 14 0
    let s1 := w2.rotateRight 17 ^^^ w2.rotateRight 19 ^^^ (w2 >>> 10)
    let s0 := w15.rotateRight 7 ^^^ w15.rotateRight 18 ^^^ (w15 >>> 3)
    shaExtend n ((s1 + l.getD 6 0 + s0 + l.getD 15 0) :: l)

/-- The 16 words of a block of 64 bytes. -/
def shaWords (bs : List Byte) : List ShaWord := (List.range 16).map fun i => BitVec.ofNat 32 (beNat (bytesAt bs (4 * i) 4))

/-- A block taken into the digest. -/
def Sha.block (x : Sha) (bs : List Byte) : Sha :=
  let ws := (shaExtend 48 (shaWords bs).reverse).reverse
  x.add (ws.zipIdx.foldl (fun y p => y.round (p.1 + roundKey p.2)) x)

/-- Blocks of 64 bytes, at most n of them. -/
def Sha.blocks : Nat → Sha → List Byte → Sha
  | 0, x, _ => x
  | n + 1, x, bs => if bs.isEmpty then x else Sha.blocks n (x.block (bs.take 64)) (bs.drop 64)

/-- The SHA-256 digest of a byte string. -/
def sha256 (bs : List Byte) : List Byte :=
  let m := bs ++ [0x80] ++ zeroBytes ((119 - bs.length % 64) % 64) ++ beBytes 8 (8 * bs.length)
  let x := Sha.blocks (m.length / 64) .first m
  ([x.a, x.b, x.c, x.d, x.e, x.f, x.g, x.h].map fun w => beBytes 4 w.toNat).flatten

/-! ### RSASSA-PSS -/

/-- MGF1: the first n bytes. -/
def mgf1 (seed : List Byte) (n : Nat) : List Byte :=
  (((List.range ((n + 31) / 32)).map fun i => sha256 (seed ++ beBytes 4 i)).flatten).take n

/-- s to the power 65,537 modulo n. -/
def power65537 (s n : Nat) : Nat :=
  ((List.range 16).foldl (fun x _ => x * x % n) (s % n)) * (s % n) % n

/-- The number of bits of n. -/
def bitLength (n : Nat) : Nat := if n = 0 then 0 else n.log2 + 1

/-- EMSA-PSS verification of an encoded message of `bits` bits against a digest (PKCS #1 v2.2, 9.1.2). -/
def pssVerify (digest em : List Byte) (bits : Nat) : Bool :=
  let n := em.length
  if n < 66 then false
  else
    let masked := em.take (n - 33)
    let h := bytesAt em (n - 33) 32
    let top := 8 * n - bits
    let first := ((masked.headD 0).toNat)
    let db := (masked.zip (mgf1 h (n - 33))).map fun p => p.1 ^^^ p.2
    let db : List Byte := match db with | b :: t => BitVec.ofNat 8 (b.toNat % 2 ^ (8 - top)) :: t | [] => []
    decide (em.getLastD 0 = 0xBC) && decide (first < 2 ^ (8 - top)) &&
      (db.take (n - 66)).all (fun b => decide (b = 0)) && decide (db.getD (n - 66) 0 = 1) &&
      decide (sha256 (zeroBytes 8 ++ digest ++ bytesAt db (n - 65) 32) = h)

/-- Whether a signature over a message verifies with a modulus and the exponent 65,537. -/
def rsaVerify (modulus signature message : List Byte) : Bool :=
  let n := beNat modulus
  let s := beNat signature
  let bits := bitLength n - 1
  let len := (bits + 7) / 8
  let m := power65537 s n
  decide (s < n) && decide (m < 256 ^ len) && pssVerify (sha256 message) (beBytes len m) bits

end Sys2Proof.Machine
end

