-- ==== Sys2Proof/Machine/Securing.lean ====
section
/-!
DEFINITION. What a commit leaves to securing (11): update records and their places, the interval, a point's segments and their places at the
destinations, what is read and written for it.
-/
namespace Sys2Proof.Machine

/-- A value rounded once to binary64. -/
def rne64 (x : FVal) : FVal := decodeF fp64 (rneF fp64 x)

/-! ### Records and regions (R315, R345) -/

def State.upd (s : State) : Option UpdSec := s.boot.image.bind (·.update)

def State.records (s : State) : List UpdRecord := match s.upd with | some u => u.records | none => []

/-- Addresses of group i of a record: planes A and B. -/
def State.addrA (s : State) (r : UpdRecord) (i : Nat) : Nat := s.regionBase r.aRegion + 2112 * (r.aFirst + i)
def State.addrB (s : State) (r : UpdRecord) (i : Nat) : Nat := s.regionBase r.bRegion + 10240 * (r.bFirst + i)

/-- Address of group i of a record in plane G, for a carrier width (R284). -/
def State.addrG (s : State) (r : UpdRecord) (w i : Nat) : Nat := s.regionBase r.gRegion + 64 * carrierLines w * (r.bFirst + i)

/-- The journal's depth in steps. -/
def State.depth (s : State) : Nat := match s.policy with | some c => max 1 c.depth | none => 1

/-- R345: the journal bytes of group i of record k at commit c. -/
def State.addrJ (s : State) (k c i : Nat) : Nat :=
  let rs := s.records
  match rs[k]? with
  | some r =>
    let same (l : List UpdRecord) : Nat := l.foldl (fun n q => if q.jRegion = r.jRegion then n + q.n else n) 0
    s.regionBase r.jRegion + c % s.depth * (same rs * 256) + (same (rs.take k) + i) * 256
  | none => 0

/-- The stack of a record: that of its plane B region (R316). -/
def State.recordStack (s : State) (r : UpdRecord) : Nat :=
  match s.boot.image.bind fun im => im.regions[r.bRegion]? with | some g => g.place | none => 0

/-- Groups of the records before record k. -/
def State.groupsBefore (s : State) (k : Nat) : Nat := (s.records.take k).foldl (fun n r => n + r.n) 0

/-- The group table record of a parameter group rewritten. -/
def State.setGroup (s : State) (g : Nat) (bs : List Byte) : State :=
  match s.upd with
  | some u => s.writeMem (s.regionBase u.groupTable + 64 * g) s.cyc (bytesAt bs 0 64) false
  | none => s

/-- The parameter groups of the module's records, each once. -/
def State.pgroups (s : State) : List Nat :=
  s.records.foldl (fun l r => if l.contains r.pgroup then l else l ++ [r.pgroup]) []

/-! ### The diverged state (R329) -/

/-- The module enters the diverged state (R425 bit 7). -/
def State.diverge (s : State) : State :=
  if s.train.diverged then s else ({ s with train := { s.train with diverged := true } } : State).doorbell 7

/-- The result of the running RUN's last commit barrier (R418). -/
def State.runResult (s : State) (r : Nat) : State :=
  match s.host.runs with
  | q :: t => if q.started then { s with host := { s.host with runs := { q with result := r } :: t } } else s
  | [] => s

/-! ### Securing's share of a commit (R338 to R343, R347) -/

/-- Counts in an hour. -/
def hourCounts : Nat := 900000000000

/-- Failure events of the last W hours. -/
def State.failsNow (s : State) (w : Nat) : Nat :=
  (s.ckpt.fails.filter fun t => decide ((s.now + 2 ^ 64 - t) % 2 ^ 64 ≤ w * hourCounts)).length

/-- A quotient of naturals in binary64. -/
def quot64 (a b : Nat) : FVal := decodeF fp64 (encodeQ fp64 .near .toInf false a (max 1 b))

/-- A quotient of two values, rounded once. -/
def div64 (x y : FVal) : FVal :=
  match x, y with
  | .num _ a e, .num _ b f =>
    if b = 0 then .num false 0 0
    else decodeF fp64 (encodeQ fp64 .near .toInf false (a * pow2 (e - f)) (b * pow2 (f - e)))
  | _, _ => .num false 0 0

/-- The square root of a value that is not negative, rounded once. -/
def sqrt64 (x : FVal) : FVal :=
  match x with
  | .num _ m e =>
    let k := 120 + (e % 2).toNat
    let n := m * 2 ^ k
    let r := Nat.sqrt n
    rne64 (.num false (2 * r + (if r * r = n then 0 else 1)) ((e - k) / 2 - 1))
  | v => v

/-- The integer part of a value that is not negative. -/
def floorVal (x : FVal) : Nat := match x with | .num _ m e => m * pow2 e / pow2 (-e) | _ => 2 ^ 64

/-- R338: the failure rate λ in events per hour, exactly, as a fraction: (n + λ0 W) / (e + W). -/
def State.failRate (s : State) (c : CkptPolicy) : Nat × Nat :=
  let e := min (c.window * hourCounts) ((s.now + 2 ^ 64 - s.ckpt.admitted) % 2 ^ 64)
  ((s.failsNow c.window * 65536 + c.priorRate * c.window) * hourCounts, 65536 * (e + c.window * hourCounts))

/-- R339: securing cost and step time in µs, each a mean of time counts. -/
def State.costUs (s : State) (c : CkptPolicy) : Nat :=
  if s.ckpt.costs.isEmpty then c.initCost else s.ckpt.costs.foldl (· + ·) 0 / (250 * s.ckpt.costs.length)

def State.stepUs (s : State) (c : CkptPolicy) : Nat :=
  let l := s.ckpt.releases
  match l.head?, l.getLast? with
  | some a, some b => if 2 ≤ l.length then (a + 2 ^ 64 - b) % 2 ^ 64 / (l.length - 1) / 250 else c.initStep
  | _, _ => c.initStep

/-- R340: the proposed interval. -/
def State.proposal (s : State) (c : CkptPolicy) : Nat :=
  let cap := min (s.field A.ckpCtrl 31 16) (c.depth / 2)
  let (n, d) := s.failRate c
  if n = 0 then max 1 cap
  else
    let two : FVal := .num false 2 0
    let a := rne64 (mulExact two (quot64 (s.costUs c) 1000000))
    let a := rne64 (mulExact a (.num false 3600 0))
    let t := sqrt64 (div64 a (quot64 n d))
    max 1 (min (floorVal (div64 t (quot64 (s.stepUs c) 1000000))) cap)

/-- R339 to R341: the registers of the interval at a commit release. -/
def State.updateInterval (s : State) (c : CkptPolicy) : State :=
  let s : State := { s with ckpt := { s.ckpt with releases := (s.now :: s.ckpt.releases).take 64 } }
  let (n, d) := s.failRate c
  let s := s.setReg A.ckpRate (min 0xFFFFFFFF (n * 65536 / max 1 d))
  let s := (s.setReg A.ckpCost (s.costUs c)).setReg A.ckpStepTime (s.stepUs c)
  let p := s.proposal c
  let host := max 1 (min (s.field A.ckpCtrl 15 0) (min (s.field A.ckpCtrl 31 16) (c.depth / 2)))
  s.setReg A.ckpInterval (p % 65536 * 65536 + (if c.mode = 0 then p else host) % 65536)

/-- R347: the point in progress is abandoned, and every journal tensor takes a full copy at the next point. -/
def State.abandonPoint (s : State) : State :=
  let s := (s.groomEvent Ev.ckpJournalOverrun []).setBit A.ckpErr 30
  { s with ckpt := { s.ckpt with cur := none, chains := s.ckpt.chains.map fun c => { c with broken := true } } }

/-- R347: slot c mod D holds a step that the point in progress has yet to ship. -/
def State.overruns (s : State) (c : Nat) : Bool :=
  match s.ckpt.cur with
  | some p =>
    (p.methods.any fun m => match m.2 with | .journal _ => true | .full => false) &&
      decide (s.depth ≤ c ∧ p.firstSlot ≤ c - s.depth ∧ c - s.depth ≤ p.count)
  | none => false

/-- Groups of a tensor. -/
def State.tensorGroups (s : State) (c : CkptPolicy) (t : Nat) : Nat :=
  (s.records.zip c.tensorMap).foldl (fun n p => if p.2 = t then n + p.1.n else n) 0

def Ckpt.chain (k : Ckpt) (t : Nat) : Chain := (k.chains.find? fun c => c.tensor = t).getD ⟨t, none, 0, 0, false⟩

/-- R342, R343: how tensor t goes into a point of step S, and the bytes its journal ships. -/
def State.methodOf (s : State) (c : CkptPolicy) (t step : Nat) : Method × Nat :=
  let g := s.tensorGroups c t
  let f := g * 12352
  let k := s.ckpt.chain t
  match k.fullStep with
  | none => (.full, 0)
  | some _ =>
    let prev := match s.ckpt.done.head? with | some p => p.step | none => 0
    let due := decide (k.momentStep + c.momentEvery ≤ step + s.field A.ckpInterval 15 0)
    let j := (step - prev) * g * 256 + (if due then g * 4096 else 0)
    if f < 67108864 ∨ k.broken ∨ c.threshold * f < (k.shipped + j) * 256 then (.full, 0) else (.journal due, j)

/-- The securing shadow's place for group i of record k, which lies in stack j (R344). -/
def State.secureShadow (s : State) (j k i : Nat) : Option Nat :=
  (s.policy.bind fun c => c.shadow[j]?).map fun x =>
    s.regionBase x + 12352 * ((s.records.take k).foldl (fun n r => if s.recordStack r = j then n + r.n else n) 0 + i)

/-! ### What a point writes, and where (R343, R349, R350, R352) -/

/-- The update records of a tensor, with their numbers. -/
def State.recordsOf (s : State) (c : CkptPolicy) (t : Nat) : List (Nat × UpdRecord) :=
  (s.records.zipIdx.filter fun p => c.tensorMap[p.2]? = some t).map fun p => (p.2, p.1)

/-- The segments of a tensor in a point of commit count `count` whose first journal slot is that of `first`. -/
def State.segsOf (s : State) (c : CkptPolicy) (first count : Nat) (m : Nat × Method) : List Seg :=
  let rs := s.recordsOf c m.1
  match m.2 with
  | .full => rs.map fun r => ⟨0, m.1, r.1, count, 12352 * r.2.n⟩
  | .journal moment =>
    ((List.range (count + 1 - first)).map fun i => rs.map fun r => (⟨2, m.1, r.1, first + i, 256 * r.2.n⟩ : Seg)).flatten ++
      (if moment then rs.map fun r => (⟨1, m.1, r.1, count, 4096 * r.2.n⟩ : Seg) else [])

/-- The header slots of a point: its own step's, and those of the steps whose journals it writes. -/
def headerSegs (first count : Nat) (ms : List (Nat × Method)) : List Seg :=
  let some_ := ms.any fun m => match m.2 with | .journal _ => true | .full => false
  (if some_ then (List.range (count + 1 - first)).map (first + ·) else [count]).map fun c => ⟨3, 0, 0, c, 262208⟩

/-- Bytes in whole blocks of 4 KiB. -/
def inBlocks (n : Nat) : Nat := (n + 4095) / 4096 * 4096

/-- R350: the offsets of parts of the given lengths, one after the other from a position of a ring of `size` bytes, in whole blocks. A part that
does not fit before the ring's end stands at its base; none where one is longer than the ring (log 149). -/
def ringPlaces (size : Nat) : Nat → List Nat → Option (List Nat)
  | _, [] => some []
  | pos, n :: t =>
    let l := inBlocks n
    if size < l then none
    else
      let o := if pos + l ≤ size then pos else 0
      (ringPlaces size (o + l) t).map fun r => o :: r

/-- The lengths of a point's segments and of its manifest. -/
def Point.lens (p : Point) : List Nat := p.segs.map (fun q => q.len) ++ [4096 + 32 * p.segs.length]

/-- Whether two ranges meet. -/
def meetsRange (a b : Nat × Nat) : Bool := decide (a.1 < b.1 + b.2 ∧ b.1 < a.1 + a.2)

/-- Whether two of several ranges meet. -/
def overlapping : List (Nat × Nat) → Bool
  | [] => false
  | a :: t => t.any (meetsRange a) || overlapping t

/-- R350: whether bytes at a destination belong to one of the two latest durable points, or to what those depend on: the full copies, moments
and journals of their tensors' chains, with the headers and manifests of the points between (log 149). -/
def State.protects (s : State) (e : Extent) : Bool :=
  (s.ckpt.done.take 2).any fun p => decide (e.step = p.step) || p.chains.any fun c =>
    match c.fullStep with
    | some b => decide (b ≤ e.step ∧ e.step ≤ p.step) && (decide (3 ≤ e.kind) || decide (e.tensor = c.tensor))
    | none => false

/-- R350: where a point goes at destination d; none where it would overwrite bytes that are protected, or its own. -/
def State.placeAt (s : State) (p : Point) (e : Dest) (d : Nat) : Option (List Nat) :=
  let k := s.ckpt.ring d
  match ringPlaces e.size k.pos p.lens with
  | none => none
  | some l =>
    let mine := l.zip (p.lens.map inBlocks)
    let kept := (k.kept.filter s.protects).map fun x => (x.off, inBlocks x.len)
    if overlapping mine || mine.any (fun a => kept.any (meetsRange a)) then none else some l

/-- R344: a group's records as a point copies them: from the shadow where the engine has put them there. -/
def State.copyGroup (s : State) (p : Point) (k i : Nat) (r : UpdRecord) : State × List Byte :=
  match p.shadowed.contains (k, i), s.secureShadow (s.recordStack r) k i with
  | true, some a => s.readFree a 12352 s.cyc
  | _, _ =>
    let (s, a) := s.readFree (s.addrA r i) 2112 s.cyc
    let (s, b) := s.readFree (s.addrB r i) 10240 s.cyc
    (s, a ++ b)

/-- The moment bytes of a group's plane B record. -/
def momentsOf (b : List Byte) : List Byte := ((List.range 2048).map fun j => bytesAt b (5 * j + 3) 2).flatten

/-- The place of header slot c (R346). -/
def State.headerAddr (s : State) (c : Nat) : Nat :=
  match s.policy with | some p => s.regionBase p.journalHdr + 262208 * (c % s.depth) | none => 0

/-- The bytes of a segment, of its first n groups where it has groups, and whether a unit of a journal or header slot is uncorrectable
(R347). A full copy holds plane A and plane B of each group in turn (log 150). -/
def State.readSeg (s : State) (p : Point) (q : Seg) (n : Nat) : State × List Byte × Bool :=
  let r := s.records.getD q.record ⟨0, 0, 0, 0, 0, 0, 0, 0, 0, 0⟩
  match q.kind with
  | 0 => (List.range n).foldl (fun acc i =>
      let (s, b) := acc.1.copyGroup p q.record i r
      (s, acc.2.1 ++ b, false)) (s, [], false)
  | 1 => (List.range n).foldl (fun acc i =>
      let (s, b) := acc.1.copyGroup p q.record i r
      (s, acc.2.1 ++ momentsOf (b.drop 2112), false)) (s, [], false)
  | 2 => (List.range n).foldl (fun acc i =>
      let (s, b, l, _) := acc.1.readMem (acc.1.addrJ q.record q.count i) 256 acc.1.cyc
      (s, acc.2.1 ++ b, acc.2.2 || l.any id)) (s, [], false)
  | _ =>
    let (s, b, l, _) := s.readMem (s.headerAddr q.count) 262208 s.cyc
    (s, b, l.any id)

/-- The groups of a segment. -/
def State.segGroups (s : State) (q : Seg) : Nat := match s.records[q.record]? with | some r => r.n | none => 0

/-! ### The destinations (R349 to R351) -/

/-- A WRITE frame into a buddy's reserve. Its generation is the one that a binding to that window has, else that of an open window of a new
image (log 151). -/
def State.buddyFrame (s : State) (e : Dest) (off : Nat) (bs : List Byte) : Frame :=
  let k := s.fabric.bindings.findIdx? fun b => decide (b.1 = e.ident ∧ b.2.1 = e.window)
  { s.newFrame 0 e.ident with
    window := e.window, gen := (match k with | some k => (s.binding k).gen | none => 1), length := bs.length
    number := s.fab.msgNo % 65536, offset := e.base + off, payload := bs }

/-- An unscheduled frame leaves, under the next message number. -/
def State.sendMessage (s : State) (f : Frame) : State :=
  let s : State := { s with fab := { s.fab with msgNo := s.fab.msgNo + 1 } }
  match s.portTo f.dst f.number with
  | some q => s.sendData q s.cyc f
  | none => s

/-- The first write of a point to a destination, which stays outstanding until its answer comes: an NVMe Write of the first segment, or the
first frame to the buddy's reserve (log 68). -/
def State.firstWrite (s : State) (p : Point) (e : Dest) (d off : Nat) : State :=
  match p.segs.head? with
  | none => s
  | some q =>
    if e.kind = 1 then
      if s.host.auxReady then
        let c : NvmeCmd := ⟨s.host.cid, 1, 1, e.ident, e.base + off / 4096, inBlocks q.len / 4096, .secure d⟩
        ({ s with host := { s.host with nvme := s.host.nvme ++ [c], cid := s.host.cid + 1 } } : State).emit (.nvme 1 c.cid c.nsid c.lba c.blocks)
      else s
    else if e.kind = 2 then
      let (s, bs, _) := s.readSeg p q (min (s.segGroups q) (if q.kind = 2 then 7 else 1))
      let f := s.buddyFrame e off (bs.take 1792)
      let s := s.sendMessage f
      { s with fab := { s.fab with msgs := s.fab.msgs ++ [⟨f, (s.portTo f.dst f.number).getD 0, s.cyc, 0, some d⟩] } }
    else s

/-- The point in progress begins at destination d, or the destination is full (R350, R351). -/
def State.openDest (s : State) (d : Nat) : State :=
  match s.ckpt.cur, s.policy.bind fun c => c.dests[d]? with
  | some p, some e =>
    match s.placeAt p e d with
    | none => s.destFail d 1
    | some l =>
      (({ s with ckpt := { s.ckpt with cur := some { p with places := p.places ++ [(d, l)] } } } : State).firstWrite p e d (l.headD 0))
  | _, _ => s

/-- The layer format table (R207). -/
def State.formats (s : State) : List Nat := (List.range 64).map s.fmtNow

/-- A point begins (R336, R341): every update record of its step has completed. -/
def State.startPoint (s : State) (step shot count : Nat) : State :=
  match s.policy with
  | none => s
  | some c =>
    if s.train.diverged || s.ckpt.restore.isSome || s.ckpt.cur.isSome then s
    else
      let ts := c.tensorMap.foldl (fun l t => if l.contains t then l else l ++ [t]) []
      let ms := ts.map fun t => (t, s.methodOf c t step)
      let isFull := ms.all fun m => match m.2.1 with | .full => true | .journal d => d
      let first := match s.ckpt.done.head? with | some p => p.count + 1 | none => count
      let methods := ms.map fun m => (m.1, m.2.1)
      let p : Point := {
        step := step, shot := shot, count := count, start := s.now, methods := methods, full := isFull, durableAt := [], failedAt := []
        shadowed := [], firstSlot := first, bytes := ms.map fun m => (m.1, m.2.2), chains := []
        segs := (methods.map (s.segsOf c first count)).flatten ++ headerSegs first count methods, fmts := s.formats, places := [], repaired := [] }
      let s : State := { s with ckpt := { s.ckpt with cur := some p, retry := false, owed := false } }
      (c.active.foldl State.openDest s).settlePoint

/-- Whether S − P ≥ T at the commit of step S, P the step of the latest point made or in progress (R341). -/
def State.intervalDue (s : State) (step : Nat) : Bool :=
  match s.ckpt.cur.or s.ckpt.done.head? with
  | some p => decide (s.field A.ckpInterval 15 0 ≤ step - p.step)
  | none => true

/-- Whether a point is due at the commit of step S (R341, R351). -/
def State.pointDue (s : State) (step : Nat) : Bool :=
  s.ckpt.cur.isNone && s.ckpt.restore.isNone && !s.train.diverged && (s.ckpt.retry || s.ckpt.owed || s.intervalDue step)

/-- When no update pass is outstanding, a point that is due begins. -/
def State.passesDone (s : State) : State :=
  if !s.train.passes.isEmpty then s
  else
    match s.ckpt.due with
    | some (step, shot, count) =>
      ({ s with ckpt := { s.ckpt with due := none } } : State).startPoint step shot count
    | none => s

end Sys2Proof.Machine
end

