-- ==== Sys2Proof/Machine/Train.lean ====
section
/-!
DEFINITION. The parameter update (10): the arithmetic of the update engine, schedule curves, update windows, the commit at a
barrier's release, freeze requests, snapshot sweeps.
-/
namespace Sys2Proof.Machine

/-! ### Arithmetic (R319, R321, R322) -/

/-- A dyadic number as a value. -/
def dyVal (d : Dy) : FVal := .num (decide (d.m < 0)) d.m.natAbs d.e

def oneVal : FVal := .num false 1 0

def fma64 (a b c : FVal) : FVal := decodeF fp64 (fmaF fp64 a b c)

/-- The values with which a parameter group is updated: lr, λ, β1, β2, as FP32 codes. -/
structure Rates where
  lr : Nat
  lam : Nat
  b1 : Nat
  b2 : Nat
  deriving DecidableEq, Repr

/-- Bytes 16 to 31 of a group record (R317). -/
def Rates.bytes (r : Rates) : List Byte := leBytes 4 r.lr ++ leBytes 4 r.lam ++ leBytes 4 r.b1 ++ leBytes 4 r.b2

def ratesAt (bs : List Byte) (a : Nat) : Rates := ⟨leAt bs a 4, leAt bs (a + 4) 4, leAt bs (a + 8) 4, leAt bs (a + 12) 4⟩

/-- The greatest magnitude of a master weight: 448 × 2^127. -/
def weightLimit : Dy := ⟨448, 127⟩

/-- R322: a weight clamped to ±448 × 2^127, and whether it was. -/
def clampWeight (w : FVal) : Dy × Bool :=
  match w with
  | .num n m e =>
    let d := dyOf (.num n m e)
    if dyLt weightLimit ⟨m, e⟩ then (if n then dyNeg weightLimit else weightLimit, true) else (d, false)
  | .inf n => (if n then dyNeg weightLimit else weightLimit, true)
  | .nan => (⟨0, 0⟩, true)

/-- The weight path of R321, which the replay of R354 repeats: `down` when sg = −1. -/
def newWeight (r : Rates) (w : Dy) (down : Bool) : Dy × Bool :=
  let t := fma64 (decodeF fp32 r.lam) (dyVal w) (.num down 1 0)
  clampWeight (fma64 (negF (decodeF fp32 r.lr)) t (dyVal w))

/-- A moment as the engine takes it: NaN and infinity as 0 (R322). -/
def momentOf (code : Nat) : FVal × Bool :=
  match decodeF bf16 code with
  | .num n m e => (.num n m e, false)
  | _ => (.num false 0 0, true)

/-- R321: the sign sg of a parameter, true for −1. -/
def signDown (r : Rates) (g m : FVal) : Bool :=
  let b1 := decodeF fp32 r.b1
  let ob1 := rne64 (decodeF fp64 (addF fp64 oneVal (negF b1)))
  match fma64 b1 m (rne64 (mulExact ob1 g)) with
  | .num n k _ => n && decide (k ≠ 0)
  | .inf n => n
  | .nan => false

/-- R321, R322: the new moment. -/
def newMoment (r : Rates) (g m : FVal) : Nat × Bool :=
  let b2 := decodeF fp32 r.b2
  let ob2 := rne64 (decodeF fp64 (addF fp64 oneVal (negF b2)))
  let c := rneF bf16 (fma64 b2 m (rne64 (mulExact ob2 g)))
  if natBits c 14 7 = 0xFF then (c / 0x8000 * 0x8000 + 0x7F7F, true) else (c, false)

/-- R319: the values of a group's curve at counter σ; `point i` are the 32 bytes of point i of P. -/
def curveAt (point : Nat → List Byte) (p sigma : Nat) : Rates :=
  let stepOf (i : Nat) : Nat := leAt (point i) 0 4
  if p ≤ 1 ∨ sigma ≤ stepOf 0 then ratesAt (point 0) 4
  else if stepOf (p - 1) ≤ sigma then ratesAt (point (p - 1)) 4
  else
    let i := ((List.range p).reverse.find? fun i => decide (stepOf i ≤ sigma)).getD 0
    let n := decodeF fp32 (rneDy fp32 false ⟨(sigma - stepOf i : Nat), 0⟩)
    let d := decodeF fp32 (rneDy fp32 false ⟨(stepOf (i + 1) - stepOf i : Nat), 0⟩)
    let f : FVal := match n, d with
      | .num _ a x, .num _ b y => decodeF fp32 (encodeQ fp32 .near .toInf false (a * pow2 (x - y)) (b * pow2 (y - x)))
      | _, _ => .num false 0 0
    let mix (k : Nat) : Nat :=
      let v := decodeF fp32 (leAt (point i) k 4)
      let w := decodeF fp32 (leAt (point (i + 1)) k 4)
      fmaF fp32 f (decodeF fp32 (addF fp32 w (negF v))) v
    ⟨mix 4, mix 8, mix 12, mix 16⟩

/-! ### A group (R91 to R94, R321, R323) -/

/-- Master weight of parameter j of a group's plane A and plane B bytes. -/
def weightAt (a b : List Byte) (j : Nat) : Dy :=
  let code := leAt a (64 + 64 * (j % 32) + j / 32) 1
  let scale := leAt a (j / 32) 1
  let r := signed 24 (leAt b (5 * j) 3)
  if code % 128 = 127 ∨ scale = 255 then let p := Config.badWeight code scale r; ⟨p.1, p.2⟩ else masterWeight code scale r

/-- The bytes of planes A and B from the splits of 64 blocks and the moments of 2,048 parameters (R91, R92, R94). -/
def groupBytes (blocks : List (Nat × List Nat × List Int)) (moments : List Nat) : List Byte × List Byte :=
  let scales := blocks.map fun b => (BitVec.ofNat 8 b.1 : Byte)
  let codes := ((List.range 32).map fun r => blocks.map fun b => (BitVec.ofNat 8 (b.2.1.getD r 0) : Byte)).flatten
  let rs := (blocks.map fun b => b.2.2).flatten
  (scales ++ codes, ((rs.zip moments).map fun p => leBytes 3 (unsigned 24 p.1) ++ leBytes 2 p.2).flatten)

/-- What the engine writes for a group: planes A and B, journal, and whether a value was clamped. -/
structure NewGroup where
  a : List Byte
  b : List Byte
  journal : List Byte
  range_ : Bool
  deriving DecidableEq, Repr

/-- R321: the update of a group of 2,048 parameters; `w` is the carrier width of plane G. -/
def updateGroup (r : Rates) (w : Nat) (a b g : List Byte) : NewGroup :=
  let block (i : Nat) : (Nat × List Nat × List Int) × List Nat × List Bool × Bool :=
    let gb := blockOf w g i
    let one (k : Nat) : Dy × Nat × Bool × Bool :=
      let j := 32 * i + k
      let gv := dyVal ⟨gb.elems.getD k 0, gb.anchor - carrierF w⟩
      let (m, x) := momentOf (leAt b (5 * j + 3) 2)
      let down := signDown r gv m
      let (nw, y) := newWeight r (weightAt a b j) down
      let (nm, z) := newMoment r gv m
      (nw, nm, down, x || y || z)
    let l := (List.range 32).map one
    (splitBlock (l.map fun p => p.1), l.map (fun p => p.2.1), l.map (fun p => p.2.2.1), l.any fun p => p.2.2.2)
  let bs := (List.range 64).map block
  let (na, nb) := groupBytes (bs.map fun p => p.1) (bs.map fun p => p.2.1).flatten
  ⟨na, nb, packBits (bs.map fun p => p.2.2.1).flatten, bs.any fun p => p.2.2.2⟩

/-! ### Snapshot sweeps (R332, R333, R392) -/

/-- A sweep whose commit has been made and whose passes have ended begins. -/
def State.beginSweep (s : State) : State :=
  match s.host.sweep with
  | some w =>
    if w.armed && !w.running && s.train.passes.isEmpty then
      let w' : Sweep := { w with
        running := true, next := 0, total := s.groupsBefore s.records.length, shadowed := [], startShot := s.shotNo }
      ({ s with host := { s.host with sweep := some w' } } : State).setReg A.updSnap (2 ^ 31)
    else s
  | none => s

/-- SWEEP_START (R332). -/
def execSweepStart (s : State) : Host.Outcome State Fault Refusal := .next (if s.clocked then s.beginSweep else s)

/-- Record and group of the g-th owned group, in record order. -/
def ownedGroup : Nat → List UpdRecord → Nat → Option (Nat × UpdRecord × Nat)
  | _, [], _ => none
  | k, r :: t, g => if g < r.n then some (k, r, g) else ownedGroup (k + 1) t (g - r.n)

/-- The snapshot shadow of a stack (R333), and where group g of the sweep lies in it. -/
def State.snapShadow (s : State) (j g : Nat) : Option Nat :=
  match s.boot.image, s.upd with
  | some im, some u => (u.shadows.find? fun k => (im.regions[k]?.map fun r => r.place) = some j).map fun k =>
      s.regionBase k + 12352 * g
  | _, _ => none

/-- The 12,352 bytes that the sweep sends for a group: from the shadow where the engine has put them there. -/
def State.sweepGroup (s : State) (w : Sweep) (g : Nat) : State × List Byte × List Bool :=
  match ownedGroup 0 s.records g with
  | none => (s, [], [])
  | some (_, r, i) =>
    match w.shadowed.contains g, s.snapShadow (s.recordStack r) g with
    | true, some a =>
      let (s, bs, l, _) := s.readMem a 12352 s.cyc
      (s, bs, l)
    | _, _ =>
      let (s, a, la, _) := s.readMem (s.addrA r i) 2112 s.cyc
      let (s, b, lb, _) := s.readMem (s.addrB r i) 10240 s.cyc
      (s, a ++ b, la ++ lb)

/-- R427: the pointer copies of a gate's snapshot-out queue disagree: the sweep ends. -/
def State.sweepLost (s : State) (w : Sweep) : State :=
  let g := if w.port < 10 then 0 else 1
  let s : State := { s with host := { s.host with sweep := none, snapBad := s.host.snapBad.filter fun k => decide (k ≠ g) } }
  ((s.setReg A.updSnap 0).groomEvent Ev.queuePtr (queueDetail (2 + g))).complete w.entry Ev.queuePtr 0 0 0 0 0 s.cyc

/-- SNAPSHOT_SEND (R332, R392): the next frame of the sweep's stream. -/
def execSnapshotSend (s : State) : Host.Outcome State Fault Refusal :=
  .next (match s.host.sweep with
    | none => s
    | some w =>
      if !w.running || !s.clocked then s
      else if s.host.snapBad.contains (if w.port < 10 then 0 else 1) then s.sweepLost w
      else
        let size := 12352 * w.total
        let off := 1792 * w.next
        let len := min 1792 (size - off)
        let g0 := off / 12352
        let g1 := (off + len - 1) / 12352
        let (s, bs, lost) := (List.range (g1 + 1 - g0)).foldl (fun acc k =>
          let (s, b, l) := acc.1.sweepGroup w (g0 + k)
          (s, acc.2.1 ++ b, acc.2.2 ++ l)) (s, [], [])
        let (s, n) := s.fresh
        let data := (((bs.zip lost).zipIdx.map fun p => if p.1.2 then Config.withheld n p.2 else p.1.1).drop (off - 12352 * g0)).take len
        let last := decide (size ≤ off + len)
        let f : Frame := { s.newFrame 11 0 with
          flags := if last then 2 else 0, length := len, number := w.number, offset := off, sigma := w.total, payload := data
          peer := w.addr, pport := w.udp }
        let s := s.sendData w.port s.cyc f
        if last then
          let s := s.setReg A.updSnap (2 ^ 30 + 0xFFFF)
          ({ s with host := { s.host with sweep := none } } : State).complete w.entry 0 0 w.total w.startShot 0 0 s.cyc
        else
          let s := s.setField A.updSnap 15 0 (min 0xFFFF ((off + len) * 65536 / size))
          { s with host := { s.host with sweep := some { w with next := w.next + 1 } } })

/-! ### Update windows (R323, R325, R333, R344) -/

/-- The quarters of a stack whose pseudo-channels hold a byte of the given ranges (R323). -/
def State.quartersOf (s : State) (ranges : List (Nat × Nat)) : List Nat :=
  ((ranges.map fun r => partsOf r.1 r.2).flatten.filterMap fun p => s.locate p.1).map fun q => pcOf q.2 / 16

/-- R323: the first window from shot cycle c on that no refresh slot of a quarter in `qs` overlaps; `fuel` bounds the windows tried. -/
def windowFrom (slots : List (Nat × Nat × Nat)) (j : Nat) (qs : List Nat) : Nat → Nat → Nat
  | 0, c => c
  | fuel + 1, c =>
    if slots.any fun r => decide (r.1 = j ∧ r.2.2 < c + 32 ∧ c < r.2.2 + 384) && qs.contains r.2.1 then windowFrom slots j qs fuel (c + 32)
    else c

/-- The first cycle of the window in which a pass takes its next group. -/
def State.passWindow (s : State) (u : UpdPass) : Nat :=
  match s.records[u.record]? with
  | some r =>
    let ranges := [(s.addrA r u.next, 2112), (s.addrB r u.next, 10240), (s.addrG r u.width u.next, 64 * carrierLines u.width),
      (s.addrJ u.record s.train.commits u.next, 256)]
    let slots := match s.plan with | some p => p.refresh | none => []
    s.shot.begin_ + windowFrom slots u.stack (s.quartersOf ranges) (16 * slots.length + 16) (u.at_ - s.shot.begin_)
  | none => u.at_

/-- The pass of stack j whose next window comes first. -/
def State.nextPass (s : State) (j : Nat) : Option (UpdPass × Nat) :=
  (s.train.passes.filter fun u => u.stack = j).foldl (fun acc u =>
    let x := s.passWindow u
    match acc with
    | some (_, y) => if x < y then some (u, x) else acc
    | none => some (u, x)) none

/-- R325: the pass of stack j stops; every group that it has not written takes code ABANDONED. -/
def State.stopPass (s : State) (j : Nat) : State :=
  let gone := s.train.passes.filter fun u => u.stack = j
  let gs := gone.foldl (fun l u => match s.records[u.record]? with
    | some r => if l.contains r.pgroup then l else l ++ [r.pgroup]
    | none => l) []
  let s := gs.foldl (fun s g =>
    let bs := s.groupRecord g
    let s := if leAt bs 5 1 = 0 then s.setField A.updLastCounts 12 0 (s.field A.updLastCounts 12 0 - 1) else s
    s.setGroup g (overlay bs 5 [3])) s
  let s : State := { s with
    train := { s.train with passes := s.train.passes.filter fun u => u.stack ≠ j }
    ckpt := { s.ckpt with due := none } }
  let s := (s.event Ev.updAbandoned (srcStack j) s.cyc []).setBit A.updErr 30
  (((s.failureEvent 1).setField A.updLastResult 31 30 3).runResult 3).diverge

/-- R333: the record of a group that a sweep has not passed is saved first, once. -/
def State.saveSnapshot (s : State) (j g : Nat) (bytes : List Byte) : State :=
  match s.host.sweep with
  | some w =>
    if w.running && decide (1792 * w.next < 12352 * (g + 1)) && !w.shadowed.contains g then
      match s.snapShadow j g with
      | some a =>
        let s := s.writeMem a s.cyc bytes false
        { s with host := { s.host with sweep := some { w with shadowed := w.shadowed ++ [g] } } }
      | none => s
    else s
  | none => s

/-- R344: the records of a group of a tensor that the point in progress copies are saved first, once. -/
def State.saveSecuring (s : State) (j k i : Nat) (bytes : List Byte) : State :=
  match s.ckpt.cur, s.policy with
  | some p, some c =>
    let copied := match c.tensorMap[k]? with
      | some t => p.methods.any fun m => decide (m.1 = t) && (match m.2 with | .full => true | .journal d => d)
      | none => false
    match s.secureShadow j k i with
    | some a =>
      if copied && !p.shadowed.contains (k, i) then
        let s := s.writeMem a s.cyc bytes false
        { s with ckpt := { s.ckpt with cur := some { p with shadowed := p.shadowed ++ [(k, i)] } } }
      else s
    | none => s
  | _, _ => s

/-- The group of a pass is rewritten. -/
def State.writeGroup (s : State) (u : UpdPass) (r : UpdRecord) (old : List Byte) (n : NewGroup) : State :=
  let i := u.next
  let s := s.saveSnapshot u.stack (s.groupsBefore u.record + i) old
  let s := s.saveSecuring u.stack u.record i old
  let s := s.writeMem (s.addrA r i) s.cyc n.a false
  let s := s.writeMem (s.addrB r i) s.cyc n.b false
  let s := s.writeMem (s.addrJ u.record s.train.commits i) s.cyc n.journal false
  let s := s.bump A.updPass 31 0 1
  if n.range_ && !s.train.rangeRaised then
    (({ s with train := { s.train with rangeRaised := true } } : State).event Ev.updRange (srcStack u.stack) s.cyc []).setBit A.updErr 29
  else s

/-- UPDATE_WINDOW (R321 to R325): the next group of a stack's records is updated, complete 1,024 cycles after its window begins.
`agree`: the engine's two datapaths agree. -/
def execUpdateWindow (j : StackId) (agree : Bool) (s : State) : Host.Outcome State Fault Refusal :=
  .next (match s.nextPass j.val with
    | none => s
    | some (u, x) =>
      if !s.clocked then s
      else
        match s.records[u.record]? with
        | none => s
        | some r =>
          let i := u.next
          let s := s.at_ (x + 1024)
          let (s, a, la, _) := s.readMem (s.addrA r i) 2112 x
          let (s, b, lb, _) := s.readMem (s.addrB r i) 10240 x
          let (s, g, lg, _) := s.readMem (s.addrG r u.width i) (carrierGroupBytes u.width) x
          if !agree || la.any id || lb.any id || lg.any id then s.stopPass j.val
          else
            let s := s.writeGroup u r (a ++ b) (updateGroup (ratesAt (s.groupRecord r.pgroup) 16) u.width a b g)
            let passes := s.train.passes.map fun v => if v.record = u.record then { v with next := i + 1, at_ := x + 32 } else v
            let s : State := { s with train := { s.train with passes := passes.filter fun v => decide (v.next < v.n) } }
            s.passesDone)

/-! ### The commit (R320, R326 to R329, R509) -/

/-- An operation on every stall that is not fenced at cycle x. -/
def State.onGood (s : State) (x : Nat) (f : Stall → Stall) : State :=
  let l := s.goodStalls
  (s.eachStall l fun t => f (t.runTo x)).flush l

/-- R207: the pending layer format table becomes the current one, or is reset to it. -/
def Stall.fmtCommit (t : Stall) : Stall := { t with tack := { t.tack with fmt := t.tack.fmtPend } }
def Stall.fmtReset (t : Stall) : Stall := { t with tack := { t.tack with fmtPend := t.tack.fmt } }

/-- The step record is cleared and takes a step number (R509); the skew mask is that of the step (R324). -/
def State.clearMark (s : State) (step : Nat) : State :=
  { s with train := { s.train with mark := ⟨step, false, false⟩, skew := [], skewRaised := false, result := none, vetoCause := 0 } }

/-- UPD_LAST_STEP and UPD_LAST_RESULT. -/
def State.lastResult (s : State) (step result cause suppressed : Nat) : State :=
  let s := s.setWide A.updLastStepLo A.updLastStepHi step
  (s.setReg A.updLastResult (result * 2 ^ 30 + cause * 2 ^ 24 + suppressed)).runResult result

/-- The module does not commit (R328). -/
def State.commitNot (s : State) (x step cause : Nat) : State :=
  ((s.onGood x Stall.fmtReset).lastResult step 2 cause 0).clearMark step

/-- What a parameter group becomes at a commit whose skew mask is `mask`: its code (R317). -/
def State.commitGroup (s : State) (mask : List Byte) (g : Nat) : State × Nat :=
  let bs := s.groupRecord g
  if natBit (leAt bs 4 1) 0 then (s.setGroup g (overlay bs 5 [1]), 1)
  else if natBit (leAt mask (g / 8) 1) (g % 8) then (s.setGroup g (overlay bs 5 [2]), 2)
  else
    let curve := leAt bs 8 6
    let r := curveAt (fun i => s.peek (curve + 32 * i) 32) (leAt bs 6 2) (leAt bs 0 4)
    let bs := overlay (overlay bs 0 (leBytes 4 (leAt bs 0 4 + 1))) 5 [0]
    (s.setGroup g (overlay bs 16 r.bytes), 0)

/-- R320: the pending freeze request is applied. -/
def State.applyFreeze (s : State) : State :=
  match s.train.freeze with
  | some (g, on) =>
    let bs := s.groupRecord g
    { s.setGroup g (overlay bs 4 [BitVec.ofNat 8 (setBits (leAt bs 4 1) 0 0 (if on then 1 else 0))]) with
      train := { s.train with freeze := none } }
  | none => s

/-- The passes of the update records of the groups with code UPDATED; they take the formats of the step, not those that follow. -/
def State.newPasses (s : State) (updated : List Nat) : List UpdPass :=
  (s.records.zipIdx.filter fun p => updated.contains p.1.pgroup).map fun p =>
    ⟨p.2, s.recordStack p.1, widthOfFmt (s.fmtNow p.1.fmtEntry), 0, p.1.n, s.shot.begin_ + p.1.start⟩

/-- The module commits at cycle x (R328). -/
def State.commitYes (s : State) (x step : Nat) (mask : List Byte) : State :=
  let s := s.beginSweep.applyFreeze
  let (s, codes) := s.pgroups.foldl (fun acc g =>
    let (s, c) := acc.1.commitGroup mask g
    (s, acc.2 ++ [(g, c)])) (s, [])
  let with_ (c : Nat) : List Nat := (codes.filter fun p => p.2 = c).map fun p => p.1
  let passes := s.newPasses (with_ 0)
  let c := s.train.commits + 1
  let s : State := { s with train := { s.train with
    passes := passes, commits := c, rangeRaised := false, header := some (step, s.shotNo, c) } }
  let s := (s.onGood x Stall.fmtCommit).lastResult step 1 0 (with_ 2).length
  let s := (s.setReg A.updLastCounts ((with_ 1).length * 65536 + (with_ 0).length)).setReg A.updPass 0
  let s := match s.host.sweep with
    | some w => { s with host := { s.host with sweep := some { w with armed := true } } }
    | none => s
  let s := if s.overruns c then s.abandonPoint else s
  let s := match s.policy with
    | some p =>
      let s := s.updateInterval p
      if s.pointDue step then { s with ckpt := { s.ckpt with due := some (step, s.shotNo, c) } }
      else if s.ckpt.cur.isSome && s.intervalDue step then { s with ckpt := { s.ckpt with owed := true } }
      else s
    | none => s
  (s.clearMark step).passesDone

/-- The release of a commit barrier at cycle x (R326, R328, R329). A module alone in its paddock forms the result itself. -/
def State.commitRelease (s : State) (x : Nat) : State :=
  let step := s.shot.step
  let alone := decide (s.fabric.size = 1)
  let s := if alone then s.syncAll x else s
  let own := if alone then s.vetoNow else s.train.vetoCause
  let result := if alone then some s.vote else s.train.result
  match result with
  | none =>
    let s := (s.groomEvent Ev.commitVoteLost []).setBit A.updErr 28
    ((s.failureEvent 1).commitNot x step 4).diverge
  | some r =>
    if natBit (leAt r 512 1) 0 then s.commitNot x step (if own = 0 then 3 else own)
    else s.commitYes x step (r.take 512)

/-! ### Barriers (R219 to R222, R268) -/

/-- Occurrences of a barrier entry released in this shot. -/
def State.releasedOf (s : State) (id : Nat) : Nat := (s.shot.bars.filter fun b => b.id = id && b.released.isSome).length

/-- Whether a stall has arrived at occurrence k of an entry, its pony transfers delivered (R268). -/
def Stall.arrivedAt (t : Stall) (id k : Nat) : Bool :=
  decide (t.seq.waiting = some id ∧ sget zeroNat t.seq.arrived id = k + 1) && !t.poniesOut

/-- Barns with members of a barrier. -/
def Barrier.barns (b : Barrier) : List Nat := (List.range 8).filter fun n => b.members.any fun l => l / 72 = n

/-- R221: occurrence k of a barrier has not released by its computed cycle. -/
def State.barrierLate (s : State) (b : Barrier) (k : Nat) : State :=
  let x := s.shot.begin_ + b.releases.getD k 0
  let done := s.shot.bars.any fun i => decide (i.id = b.id ∧ i.k = k) && i.late
  let stop := [s.shot.gone, s.safe.abort, s.shot.halt].any fun o => match o with | some y => decide (y ≤ x) | none => false
  if done || stop then s
  else
    let s : State := { s with shot := { s.shot with bars := s.shot.bars ++ [⟨b.id, k, none, true⟩] } }
    b.barns.foldl (fun s n => (s.yardEvent n Ev.barrierLate x).setBit (barnReg A.ymBarStatus n) 31) s

/-- The first occurrence of a barrier that is neither released nor marked late (R221). -/
def State.nextLate (s : State) (b : Barrier) : Nat :=
  let n := s.releasedOf b.id
  n + ((List.range (b.releases.length - n)).find? fun d =>
    !s.shot.bars.any fun i => decide (i.id = b.id ∧ i.k = n + d) && i.late).getD (b.releases.length - n)

/-- BARRIER_LATE (R221). -/
def execBarrierLate (id : BitVec 8) (s : State) : Host.Outcome State Fault Refusal :=
  .next (if !s.clocked || !s.running then s
    else
      match s.plan.bind fun p => p.bars.find? fun b => b.id = id.toNat with
      | none => s
      | some b =>
        let k := s.nextLate b
        if b.releases.length ≤ k then s else (s.at_ (s.shot.begin_ + b.releases.getD k 0)).barrierLate b k)

/-- BARRIER_RELEASE (R220, R328): the next occurrence of an entry releases 12 or 96 cycles after its last arrival. -/
def execBarrierRelease (id : BitVec 8) (s : State) : Host.Outcome State Fault Refusal :=
  .next (if !s.clocked || !s.running then s
    else
      match s.plan.bind fun p => p.bars.find? fun b => b.id = id.toNat with
      | none => s
      | some b =>
        let k := s.releasedOf b.id
        let ps := b.members.map s.phys
        let s := (ps.filterMap fun p => p).foldl (fun s i => s.dropPonies i (s.stallNow i)) s
        if b.releases.length ≤ k || !(ps.all fun p => match p with | some i => (s.stall i).arrivedAt b.id k | none => false) then s
        else
          let l := ps.filterMap fun p => p
          let x := l.foldl (fun x i => max x (s.stall i).seq.arrCycle) 0 + (if b.module then 96 else 12)
          let s := s.at_ x
          let s := if s.shot.begin_ + b.releases.getD k 0 < x then s.barrierLate b k else s
          let s : State := { s with shot := { s.shot with bars := s.shot.bars ++ [⟨b.id, k, some x, false⟩] } }
          let s := s.eachStall l fun t => { t with seq := { t.seq with waiting := none, ref := x } }
          let s := b.barns.foldl (fun s n =>
            (s.setField (barnReg A.ymBarStatus n) 23 16 b.id).bump (barnReg A.ymBarStatus n) 15 0 1) s
          if b.commit then s.commitRelease x else s)

/-- UPD_FREEZE_GO (R320): a freeze request is posted, or refused while one is pending. -/
def execUpdFreezeGo (v : Word) (s : State) : Host.Outcome State Fault Refusal :=
  .next (if !s.awake then s
    else
      let s := s.writeReg A.updFreeze v.toNat
      if !natBit v.toNat 31 then s
      else if s.train.freeze.isSome then s.setBit A.updFreeze 29
      else
        { s.setField A.updFreeze 29 29 0 with train := { s.train with freeze := some (natBits v.toNat 11 0, natBit v.toNat 30) } })

end Sys2Proof.Machine
end

