-- ==== Sys2Proof/Machine/Ckpt.lean ====
section
/-!
DEFINITION. Securing state and recovery (11) as commands: points, destinations, restores, tensor repair.
-/
namespace Sys2Proof.Machine

/-! ### Points (R339, R349, R351) -/

/-- The module's logical position (R353, R359). -/
def State.position (s : State) : List Nat := s.fabric.coordsOf (s.fabric.logicalOf s.caseNow s.fabric.me)

/-- The configuration digest (R448). -/
def State.confDigest (s : State) : List Byte := ((List.range 8).map fun n => leBytes 4 (s.reg (A.cfgConfDigest + 4 * n))).flatten

/-- The step of a segment (R352): that of the point, or the one that the header slot of its commit names. -/
def State.segStep (s : State) (p : Point) (q : Seg) : Nat :=
  if q.kind < 2 then p.step else if q.count = p.count then p.step else leAt (s.peek (s.headerAddr q.count) 8) 0 8

/-- R352: the entry of a segment at an offset of the destination. -/
def State.segEntry (s : State) (p : Point) (q : Seg) (off : Nat) : List Byte :=
  leBytes 1 q.kind ++ zeroBytes 1 ++ leBytes 2 q.tensor ++ leBytes 2 q.record ++ zeroBytes 2 ++ leBytes 8 (s.segStep p q) ++ leBytes 8 off ++
    leBytes 8 q.len

/-- R352: the manifest of a point that is the `no`th of its destination, its segments at the offsets given. -/
def State.manifest (s : State) (p : Point) (no : Nat) (offs : List Nat) : List Byte :=
  leBytes 8 p.step ++ leBytes 6 p.shot ++ leBytes 1 (if p.full then 1 else 0) ++ zeroBytes 1 ++
    ((List.range 4).map fun k => leBytes 2 (s.position.getD k 0)).flatten ++ bytesAt s.confDigest 0 32 ++ leBytes 8 no ++
    ((List.range 64).map fun k => leBytes 1 (p.fmts.getD k 0)).flatten ++ leBytes 4 p.segs.length ++ zeroBytes 3964 ++
    ((p.segs.zip offs).map fun q => s.segEntry p q.1 q.2).flatten

/-- Bytes written to a destination at an offset of its ring, by the path of its kind (R349): an NVMe Write, whose data the device reads out of
the module, frames to the buddy's reserve, or a write of host memory. -/
def State.writeDest (s : State) (e : Dest) (off : Nat) (bs : List Byte) : State :=
  if e.kind = 1 then
    ((({ s with host := { s.host with cid := s.host.cid + 1 } } : State).emit
      (.nvme 1 s.host.cid e.ident (e.base + off / 4096) (inBlocks bs.length / 4096))).emit (.auxData bs))
  else if e.kind = 2 then
    (List.range ((bs.length + 1791) / 1792)).foldl (fun s k =>
      s.sendMessage (s.buddyFrame e (off + 1792 * k) ((bs.drop (1792 * k)).take 1792))) s
  else s.emit (.hostWrite (e.base + off) bs)

/-- The segments of a point read, and whether a journal or header slot is unreadable (R347). -/
def State.shipment (s : State) (p : Point) : State × List (List Byte) × Bool :=
  p.segs.foldl (fun acc q =>
    let (s, b, bad) := acc.1.readSeg p q (acc.1.segGroups q)
    (s, acc.2.1 ++ [b], acc.2.2 || bad)) (s, [], false)

/-- R349, R350, R352: the segments, then the manifest, written to destination d at the offsets given; of host memory the manifest's last line is
read after it. The ring moves on, and keeps what is still protected. -/
def State.shipTo (s : State) (p : Point) (e : Dest) (d : Nat) (offs : List Nat) (data : List (List Byte)) : State :=
  let k := s.ckpt.ring d
  let man := s.manifest p (k.seqNo + 1) offs
  let at_ := offs.getD p.segs.length 0
  let s := (data.zip offs).foldl (fun s q => s.writeDest e q.2 q.1) s
  let s := s.writeDest e at_ man
  let s := if e.kind = 3 then s.emit (.hostRead (e.base + at_ + (man.length - 64) / 64 * 64) 64) else s
  let new := (p.segs.zip offs).map (fun q => (⟨p.step, q.1.kind, q.1.tensor, q.2, q.1.len⟩ : Extent)) ++ [⟨p.step, 4, 0, at_, man.length⟩]
  let k' : DestRing := ⟨at_ + inBlocks man.length, k.seqNo + 1, k.kept.filter s.protects ++ new⟩
  { s with ckpt := { s.ckpt with rings := sset zeroRingOf s.ckpt.rings d k' } }

/-- Whether a write of a point to destination d waits for its answer. -/
def State.destBusy (s : State) (d : Nat) : Bool :=
  s.host.nvme.any (fun c => decide (c.use = .secure d)) || s.fab.msgs.any fun m => decide (m.why = some d)

/-- Whether the point in progress can become durable at a destination: it has a place there, its step's header slot is written (R346), nothing
that went there waits for its answer, and the path stands. -/
def State.canShip (s : State) (p : Point) (e : Dest) (d : Nat) : Bool :=
  (p.places.any fun q => decide (q.1 = d)) && !s.destBusy d &&
    (match s.train.header with | some (_, _, c) => decide (c ≠ p.count) | none => true) &&
    (if e.kind = 1 then s.host.auxReady else if e.kind = 3 then s.hostOk else true)

/-- R339, R342, R343: what a point that has become durable does to the chain of a tensor. -/
def State.chainAfter (s : State) (p : Point) (m : Nat × Method) : Chain :=
  let k := s.ckpt.chain m.1
  match m.2 with
  | .full => ⟨m.1, some p.step, p.step, 0, p.repaired.contains m.1⟩
  | .journal moment =>
    let j := match p.bytes.find? fun b => b.1 = m.1 with | some b => b.2 | none => 0
    { k with shipped := k.shipped + j, momentStep := if moment then p.step else k.momentStep }

/-- Step and full-step registers of the durable points (R361). -/
def State.pointRegs (s : State) : State :=
  let s := match s.ckpt.done.head? with | some p => s.setWide A.ckpPointLo A.ckpPointHi p.step | none => s
  match s.ckpt.done.find? fun p => p.full with | some p => s.setWide A.ckpFullLo A.ckpFullHi p.step | none => s

/-- The point in progress becomes durable for the first time (R339, R425 bit 3). -/
def State.durable (s : State) (p : Point) : State :=
  let took := (s.now + 2 ^ 64 - p.start) % 2 ^ 64
  let cs := p.methods.map (s.chainAfter p)
  let p' : Point := { p with chains := cs }
  let older := s.ckpt.done.take 1
  let fulls := if p.full || older.any (fun q => q.full) then [] else (s.ckpt.done.drop 1).find? (fun q => q.full) |>.toList
  let s : State := { s with ckpt := { s.ckpt with
    cur := some p', done := p' :: older ++ fulls, costs := (took :: s.ckpt.costs).take 8, chains := cs } }
  s.pointRegs.doorbell 3

/-- The point in progress is durable at destination d. -/
def State.durableAt (s : State) (p : Point) (d : Nat) : State :=
  let p' : Point := { p with durableAt := p.durableAt ++ [d] }
  let s : State := { s with ckpt := { s.ckpt with cur := some p' } }
  (if p.durableAt.isEmpty then s.durable p' else s).settlePoint

/-- POINT_DURABLE (R349, R352): the point in progress has been written to a destination, its manifest last, and is durable there. The whole copy
is made at this command (log 68); an unreadable journal or header slot abandons the point (R347). -/
def execPointDurable (dest : Fin 4) (s : State) : Host.Outcome State Fault Refusal :=
  .next (match s.ckpt.cur, s.policy with
    | some p, some c =>
      if !s.awake || !c.active.contains dest.val || p.durableAt.contains dest.val || p.failedAt.contains dest.val then s
      else
        match c.dests[dest.val]? with
        | none => s
        | some e =>
          if !s.canShip p e dest.val then s
          else
            let offs := match p.places.find? fun q => q.1 = dest.val with | some q => q.2 | none => []
            let (s, data, bad) := s.shipment p
            if bad then s.abandonPoint else (s.shipTo p e dest.val offs data).durableAt p dest.val
    | _, _ => s)

/-- DEST_TIMEOUT (R351): a destination has not completed within 10 s of the point's start. -/
def execDestTimeout (dest : Fin 4) (s : State) : Host.Outcome State Fault Refusal :=
  .next (match s.ckpt.cur with
    | some p => if s.awake then (s.at_ (s.reach (p.start + 2500000000))).destFail dest.val 4 else s
    | none => s)

/-- CKP_FAIL_REPORT (R338). -/
def execCkpFailReport (v : Word) (s : State) : Host.Outcome State Fault Refusal :=
  .next (if s.awake then s.failureEvent (natBits v.toNat 7 0) else s)

/-! ### Restores (R353 to R357) -/

/-- What the manifest of a stored point says (R352). -/
def stStep (p : StoredPoint) : Nat := leAt p.manifest 0 8
def stFull (p : StoredPoint) : Bool := natBit (leAt p.manifest 14 1) 0
def stPosition (p : StoredPoint) : List Nat := (List.range 4).map fun k => leAt p.manifest (16 + 2 * k) 2
def stDigest (p : StoredPoint) : List Byte := bytesAt p.manifest 24 32
def stSeq (p : StoredPoint) : Nat := leAt p.manifest 56 8
def stFormats (p : StoredPoint) : List Nat := (List.range 64).map fun k => leAt p.manifest (64 + k) 1

/-- The segments of a stored point that hold something: kind, tensor, record, step, bytes. -/
def stSegs (p : StoredPoint) : List (Nat × Nat × Nat × Nat × List Byte) :=
  ((List.range (leAt p.manifest 128 4)).map fun n =>
    let o := 4096 + 32 * n
    (leAt p.manifest o 1, leAt p.manifest (o + 2) 2, leAt p.manifest (o + 4) 2, leAt p.manifest (o + 8) 8, p.segs.getD n [])).filter
      fun q => !q.2.2.2.2.isEmpty

/-- R353: the two latest points of a source, by their sequence numbers. -/
def latestTwo (src : RestoreSource) : List StoredPoint :=
  src.points.filter fun p => decide ((src.points.filter fun q => decide (stSeq p < stSeq q)).length < 2)

/-- R353: the point of a step at a source, where it is one of its two latest. -/
def pointOf (src : RestoreSource) (step : Nat) : Option StoredPoint := (latestTwo src).find? fun p => stStep p = step

/-- The segment with the latest step up to `step` among those that `sel` takes, over every point of a source. -/
def latestSeg (src : RestoreSource) (step : Nat) (sel : Nat × Nat × Nat × Nat × List Byte → Bool) : Option (Nat × Nat × Nat × Nat × List Byte) :=
  ((src.points.map stSegs).flatten.filter fun q => sel q && decide (q.2.2.2.1 ≤ step)).foldl (fun acc q =>
    match acc with
    | some b => if b.2.2.2.1 < q.2.2.2.1 then some q else some b
    | none => some q) none

/-- The group table records of the header of a step at a source. -/
def headerOf (src : RestoreSource) (step : Nat) : Option (List Byte) :=
  ((src.points.map stSegs).flatten.find? fun q => decide (q.1 = 3 ∧ q.2.2.2.1 = step)).map fun q => q.2.2.2.2.drop 64

/-- The steps whose headers a source holds, rising. -/
def headerSteps (src : RestoreSource) : List Nat :=
  (((src.points.map stSegs).flatten.filter fun q => q.1 = 3).foldl (fun l q => insertNat q.2.2.2.1 l) []).eraseDups

/-- An invocation is running: a RUN has started, or a shot with plan work is under way. -/
def State.busyRun (s : State) : Bool := s.running || s.host.runs.any fun q => q.started

/-- The control register after a restore has ended: done or failed, with a cause. -/
def State.restoreEnd (s : State) (ok : Bool) (cause : Nat) : State :=
  ((s.setField A.ckpRestoreCtrl 30 29 (if ok then 1 else 0)).setField A.ckpRestoreCtrl 28 28 (if ok then 0 else 1)).setField
    A.ckpRestoreCtrl 27 24 cause

/-- A restore that cannot start (R353). -/
def State.restoreSource (s : State) (cause : Nat) : State :=
  ((s.groomEvent Ev.ckpSource []).setBit A.ckpErr 28).restoreEnd false cause

/-- CKP_RESTORE_GO (R353). `src`: what the named source holds for the step. -/
def execCkpRestoreGo (v : Word) (src : RestoreSource) (s : State) : Host.Outcome State Fault Refusal :=
  .next (if !s.awake then s
    else
      let s := s.writeReg A.ckpRestoreCtrl v.toNat
      if !natBit v.toNat 31 || s.ckpt.restore.isSome then s
      else if s.boot.image.isNone || s.busyRun then s.restoreSource 6
      else
        let step := s.wide A.ckpRestoreLo A.ckpRestoreHi
        match pointOf src step with
        | none => s.restoreSource 1
        | some p =>
          if stDigest p ≠ s.confDigest then s.restoreSource 2
          else if stPosition p ≠ s.position then s.restoreSource 3
          else
            let r : Restore := ⟨step, natBits v.toNat 1 0⟩
            let s : State := { s with ckpt := { s.ckpt with restore := some r, cur := none, due := none, owed := false } }
            ((s.failureEvent 1).setField A.ckpRestoreCtrl 29 24 0).setField A.ckpRestoreCtrl 30 30 1)

/-- R354: one replayed group: the weights of its 64 blocks step by the journal's signs; the moment bytes are kept. -/
def replayGroup (r : Rates) (a b journal : List Byte) : List Byte × List Byte :=
  let block (i : Nat) : Nat × List Nat × List Int :=
    splitBlock ((List.range 32).map fun k =>
      let j := 32 * i + k
      (newWeight r (weightAt a b j) (natBit (leAt journal (j / 8) 1) (j % 8))).1)
  groupBytes ((List.range 64).map block) ((List.range 2048).map fun j => leAt b (5 * j + 3) 2)

/-- Record, group within it and addresses of an owned group. -/
def State.groupAddrs (s : State) (g : Nat) : Option (UpdRecord × Nat × Nat) :=
  (ownedGroup 0 s.records g).map fun p => (p.2.1, s.addrA p.2.1 p.2.2, s.addrB p.2.1 p.2.2)

/-- Plane A and plane B of an owned group written. -/
def State.putGroup (s : State) (g : Nat) (a b : List Byte) : State :=
  match s.groupAddrs g with
  | some (_, x, y) => (s.writeMem x s.cyc (bytesAt a 0 2112) false).writeMem y s.cyc (bytesAt b 0 10240) false
  | none => s

/-- R354: the groups of record k that a step's header marks as updated are replayed; `table` its group table records, `journal` the record's
journal of the step. -/
def State.replayRecord (s : State) (k : Nat) (table journal : List Byte) : State :=
  match s.records[k]? with
  | none => s
  | some r =>
    if leAt table (64 * r.pgroup + 5) 1 ≠ 0 then s
    else
      (List.range (journal.length / 256)).foldl (fun s i =>
        let g := s.groupsBefore k + i
        match s.groupAddrs g with
        | some (_, x, y) =>
          let (a, b) := replayGroup (ratesAt table (64 * r.pgroup + 16)) (s.peek x 2112) (s.peek y 10240) (bytesAt journal (256 * i) 256)
          s.putGroup g a b
        | none => s) s

/-- R354: the moment bytes of record k's groups from a full copy or a moment copy. -/
def State.putMoments (s : State) (k : Nat) (moments : List Byte) : State :=
  (List.range (moments.length / 4096)).foldl (fun s i =>
    let g := s.groupsBefore k + i
    match s.groupAddrs g with
    | some (_, x, y) =>
      let b := s.peek y 10240
      s.putGroup g (s.peek x 2112) ((List.range 2048).map fun j => bytesAt b (5 * j) 3 ++ bytesAt moments (4096 * i + 2 * j) 2).flatten
    | none => s) s

/-- R354: record k from its latest full copy up to a step, at step B: its planes, the journals of the steps from B + 1 on, its latest moments. -/
def State.rebuild (s : State) (src : RestoreSource) (step k : Nat) : State :=
  match latestSeg src step fun q => decide (q.1 = 0 ∧ q.2.2.1 = k) with
  | none => s
  | some (_, _, _, b, planes) =>
    let s := (List.range (planes.length / 12352)).foldl (fun s i =>
      s.putGroup (s.groupsBefore k + i) (bytesAt planes (12352 * i) 2112) (bytesAt planes (12352 * i + 2112) 10240)) s
    let s := ((headerSteps src).filter fun n => decide (b < n ∧ n ≤ step)).foldl (fun s n =>
      match headerOf src n, (src.points.map stSegs).flatten.find? fun q => decide (q.1 = 2 ∧ q.2.2.1 = k ∧ q.2.2.2.1 = n) with
      | some table, some q => s.replayRecord k table q.2.2.2.2
      | _, _ => s) s
    match latestSeg src step fun q => decide (q.1 = 1 ∧ q.2.2.1 = k ∧ b ≤ q.2.2.2.1) with
    | some q => s.putMoments k q.2.2.2.2
    | none => s

/-- R354: the group table and the layer format table of the point of a step, then every record; what has not been read is not written
(DEDUCED, log 152). -/
def State.restoreState (s : State) (src : RestoreSource) (step : Nat) : State :=
  let s := match s.upd, headerOf src step with
    | some u, some table => s.writeMem (s.regionBase u.groupTable) s.cyc (bytesAt table 0 262144) false
    | _, _ => s
  let s := match pointOf src step with
    | some p =>
      let fmt : Sparse Nat := ssetList zeroNat [] 0 (stFormats p)
      s.onGood s.cyc fun t => { t with tack := { t.tack with fmt := fmt, fmtPend := fmt } }
    | none => s
  (List.range s.records.length).foldl (fun s k => s.rebuild src step k) s

/-- R342, R343: the chain of a tensor as a source's points give it: its last full copy, its last full or moment copy, and the bytes of its journals
and moments since. -/
def sourceChain (src : RestoreSource) (step t : Nat) : Chain :=
  let full := latestSeg src step fun q => decide (q.1 = 0 ∧ q.2.1 = t)
  let b := match full with | some q => q.2.2.2.1 | none => 0
  let m := match latestSeg src step fun q => decide (q.1 < 2 ∧ q.2.1 = t) with | some q => q.2.2.2.1 | none => 0
  let l := (src.points.map stSegs).flatten.filter fun q => decide ((q.1 = 1 ∨ q.1 = 2) ∧ q.2.1 = t ∧ b < q.2.2.2.1 ∧ q.2.2.2.1 ≤ step)
  ⟨t, full.map fun q => q.2.2.2.1, m, l.foldl (fun n q => n + q.2.2.2.2.length) 0, false⟩

/-- R357: step S is the latest point; later ones are superseded, and journals begin afresh. -/
def State.latestPoint (s : State) (step : Nat) (src : RestoreSource) : State :=
  let kept := s.ckpt.done.filter fun p => decide (p.step < step)
  let p : Point := match s.ckpt.done.find? fun p => p.step = step with
    | some p => { p with count := 0 }
    | none =>
      let ts := match s.policy with | some c => c.tensorMap.eraseDups | none => []
      { step := step, shot := 0, count := 0, start := s.now, methods := [], full := (match pointOf src step with | some p => stFull p | none => false)
        durableAt := [], failedAt := [], shadowed := [], firstSlot := 0, bytes := [], chains := ts.map (sourceChain src step), segs := []
        fmts := [], places := [], repaired := [] }
  ({ s with
    train := { s.train with diverged := false, commits := 0 }
    ckpt := { s.ckpt with restore := none, done := p :: kept, chains := p.chains } } : State).pointRegs

/-- R356: a restore stops; what has been written stays. -/
def State.stopRestore (s : State) (src : RestoreSource) (step cause : Nat) : State :=
  let s := s.restoreState src step
  let s := (s.groomEvent Ev.ckpRestoreFail []).setBit A.ckpErr 29
  (({ s with ckpt := { s.ckpt with restore := none } } : State).restoreEnd false cause).doorbell 4

/-- RESTORE_END (R354 to R357): a restore ends. -/
def execRestoreEnd (outcome : RestoreOutcome) (s : State) : Host.Outcome State Fault Refusal :=
  .next (match s.ckpt.restore with
    | none => s
    | some r =>
      if !s.clocked then s
      else
        match outcome with
        | .completed src => (((s.restoreState src r.step).latestPoint r.step src).restoreEnd true 0).doorbell 4
        | .readError src => s.stopRestore src r.step 4
        | .disagree src => s.stopRestore src r.step 5)

/-! ### Tensor repair (R358) -/

/-- Whether a range of module addresses holds a byte of the unit at stack address a of stack j. -/
def State.holdsUnit (s : State) (x n j a : Nat) : Bool :=
  (partsOf x n).any fun p => match s.locate p.1 with
    | some (k, sa) => decide (k = j ∧ sa < a / 32 * 32 + 32 ∧ a / 32 * 32 < sa + p.2)
    | none => false

/-- The update records whose planes A or B hold a unit. -/
def State.recordsAt (s : State) (j a : Nat) : List Nat :=
  (s.records.zipIdx.filter fun p =>
    s.holdsUnit (s.addrA p.1 0) (2112 * p.1.n) j a || s.holdsUnit (s.addrB p.1 0) (10240 * p.1.n) j a).map fun p => p.2

/-- The tensor of a record. -/
def State.tensorOf (s : State) (k : Nat) : Option Nat := s.policy.bind fun c => c.tensorMap[k]?

/-- Whether the latest durable point secures a tensor by journal. -/
def State.journalled (s : State) (t : Nat) : Bool :=
  match s.ckpt.done.head? with
  | some p => p.methods.any fun m => decide (m.1 = t) && (match m.2 with | .journal _ => true | .full => false)
  | none => false

/-- R358: a repair cannot be made. -/
def State.repairFail (s : State) : State := (s.groomEvent Ev.ckpRepairFail []).setBit A.ckpErr 27

/-- TENSOR_REPAIR (R358): the records that hold an uncorrectable unit come under repair, where their tensor has a journal. -/
def execTensorRepair (j : StackId) (addr : BitVec 36) (s : State) : Host.Outcome State Fault Refusal :=
  .next (let a := addr.toNat
    let l := (s.recordsAt j.val a).filter fun k => !s.ckpt.repairs.contains k
    if !s.clocked || l.isEmpty || decide ((s.decodeUnit j.val a).2 ≠ .lost) then s
    else if l.all fun k => match s.tensorOf k with | some t => s.journalled t | none => false then
      { s with ckpt := { s.ckpt with repairs := s.ckpt.repairs ++ l } }
    else s.repairFail)

/-- R358: the journals of the commits since the latest durable point are replayed from the slots in HBM. The header of the last commit may not
be written yet: the group table then stands as it will say. -/
def State.replaySlots (s : State) (k : Nat) : State :=
  match s.records[k]?, s.ckpt.done.head?, s.upd with
  | some r, some p, some u =>
    (List.range (s.train.commits - p.count)).foldl (fun s i =>
      let c := p.count + 1 + i
      let last := match s.train.header with | some (_, _, h) => decide (h = c) | none => false
      let table := if last then s.peek (s.regionBase u.groupTable) 262144 else s.peek (s.headerAddr c + 64) 262144
      s.replayRecord k table ((List.range r.n).map fun g => s.peek (s.addrJ k c g) 256).flatten) s
  | _, _, _ => s

/-- R342: a repaired tensor's journal chain is broken, also where a point in progress is making a full copy of it. -/
def State.breakChain (s : State) (t : Nat) : State :=
  { s with ckpt := { s.ckpt with
    chains := s.ckpt.chains.map fun c => if c.tensor = t then { c with broken := true } else c
    cur := s.ckpt.cur.map fun p => { p with repaired := p.repaired ++ [t] } } }

/-- TENSOR_REPAIR_DONE (R342, R358): a repair ends: the record's groups are rebuilt from the latest durable point at the source and the journal
slots since, or cannot be. -/
def execTensorRepairDone (record : Nat) (src : RestoreSource) (ok : Bool) (s : State) : Host.Outcome State Fault Refusal :=
  .next (if !s.ckpt.repairs.contains record || !s.clocked then s
    else
      let s : State := { s with ckpt := { s.ckpt with repairs := s.ckpt.repairs.erase record } }
      if !ok then s.repairFail
      else
        let step := match s.ckpt.done.head? with | some p => p.step | none => 0
        let s := (s.rebuild src step record).replaySlots record
        match s.tensorOf record with
        | some t => s.breakChain t
        | none => s)

end Sys2Proof.Machine
end

