-- ==== Sys2Proof/Machine/Time.lean ====
section
/-!
DEFINITION. Time in a paddock (12): tick announcements, TICK_IN and TICK_OUT, PTP.
-/
namespace Sys2Proof.Machine

/-! ### Announcements (R60, R393, R394) -/

/-- T(n) as a count (R29). -/
def State.tickCount (s : State) (epoch n : Nat) : Nat := (epoch + n * s.period) % 2 ^ 64

/-- The number of the first boundary at or after the present count, for the epoch e. -/
def State.boundaryFrom (s : State) (e : Nat) : Nat :=
  let d := (s.now + 2 ^ 64 - e % 2 ^ 64) % 2 ^ 64
  if 2 ^ 63 ≤ d then 0 else (d + s.period - 1) / max 1 s.period

/-- T(0), taken from an announcement of shot n at a count: the shot number of the next boundary follows. -/
def State.setEpoch (s : State) (n count : Nat) : State :=
  let e := (count + 2 ^ 64 - n * s.period % 2 ^ 64) % 2 ^ 64
  let s : State := { s with shot := { s.shot with epoch := some e } }
  { s with shot := { s.shot with nextNo := s.boundaryFrom e } }

/-- An announcement that is not valid is counted (R394). -/
def State.badAnnounce (s : State) : State := s.bump A.fabTick 29 16 1

/-- A valid announcement is held; ticks may fire again (R60). -/
def State.holdAnnounce (s : State) (n count : Nat) : State :=
  { s with shot := { s.shot with anns := s.shot.anns ++ [⟨n, count⟩], missAt := none, noTicks := false } }

/-- Whether an announcement of shot n at a count is the module's own T(n) (R394). -/
def State.announceFits (s : State) (n count : Nat) : Bool :=
  match s.shot.epoch with | some e => decide (count = s.tickCount e n) | none => false

/-- R31: the boundary, counted from T(0), that shot number n of an announcement stands for: the one nearest to the next boundary. -/
def State.boundaryNo (s : State) (n : Nat) : Nat :=
  let k := s.shot.nextNo
  let d := (n + 2 ^ 48 - k % 2 ^ 48) % 2 ^ 48
  if d < 2 ^ 47 then k + d else k + d - 2 ^ 48

/-- A valid announcement of shot number n at a count, as its source gives it: held, unless it is of a boundary that has passed or is held. The
first one sets T(0) (R394). True where it is held now. -/
def State.takeAnnounce (s : State) (n count : Nat) : State × Bool :=
  let s := if s.shot.epoch.isNone then s.setEpoch n count else s
  let b := s.boundaryNo n
  if !s.announceFits b count then (s.badAnnounce, false)
  else if b < s.shot.nextNo ∨ s.shot.anns.any (fun a => a.shot = b) then (s, false)
  else (s.holdAnnounce b count, true)

/-- The payload of a TICK frame (R393). -/
def State.tickPayload (s : State) (n count : Nat) : List Byte :=
  leBytes 6 n ++ leBytes 8 count ++ leBytes 4 s.period ++ leBytes 2 (s.fabric.idOf s.fabric.master)

/-- An announcement goes to the module's children on both gates. -/
def State.announceChildren (s : State) (payload : List Byte) : State :=
  s.childHops.foldl (fun s h =>
    let f : Frame := { s.newFrame 8 (s.fabric.idOf (s.fabric.next s.fabric.me h)) with payload := payload, length := payload.length }
    (s.sendControl (hopPort false h) f).sendControl (hopPort true h) f) s

/-- TICK_FRAME (R393, R394): an announcement over the torus is validated, held, and passed on, the first valid copy of it. -/
def execTickFrame (p : PortId) (f : Frame) (s : State) : Host.Outcome State Fault Refusal :=
  .next (if f.kind ≠ 8 ∨ s.fabric.tickSource ≠ 1 ∨ s.boot.image.isNone then s
    else
      let (s, new) := s.takeFrame p.val f
      if !new then s
      else
        let n := leAt f.payload 0 6
        let count := leAt f.payload 6 8
        if leAt f.payload 14 4 ≠ s.period then s.badAnnounce
        else
          let (s, held) := s.takeAnnounce n count
          if held then s.announceChildren f.payload else s)

/-! ### TICK_IN and TICK_OUT (R397) -/

/-- One bit into the CRC. -/
def crcBit (c : Nat) (b : Bool) : Nat :=
  let top := natBit c 15
  let c := c * 2 % 65536
  if top != b then c ^^^ 0x1021 else c

/-- The CRC over the low n bits of v, most significant first. -/
def crcBits : Nat → Nat → Nat → Nat
  | 0, _, c => c
  | n + 1, v, c => crcBits n v (crcBit c (natBit v n))

/-- The CRC of a shot number and its count. -/
def tickCrc (shot count : Nat) : Nat := crcBits 112 (shot * 2 ^ 64 + count) 0xFFFF

/-- TICK_IN_WORD (R397): a source-2 module takes its announcements from it. -/
def execTickInWord (w : BitVec 128) (s : State) : Host.Outcome State Fault Refusal :=
  .next (let n := bitsOf w 127 80
    let count := bitsOf w 79 16
    if !s.awake || decide (s.fabric.tickSource ≠ 2) || s.boot.image.isNone then s
    else if bitsOf w 15 0 ≠ tickCrc n count then s.badAnnounce
    else
      (s.takeAnnounce n count).1)

/-! ### PTP (R66, R395, R396) -/

/-- 4 ns and a count, in ps. -/
def alignLimit : Int := 4000

/-- Counts by which an offset in ps is stepped: the nearest number. -/
def stepCounts (offset : Int) : Int := (offset + 2000) / 4000

/-- The offset from the master stands at o (R399). -/
def State.setOffset (s : State) (o : Int) : State :=
  { s with fab := { s.fab with offset := o } }.setReg A.fabTimeOffset (unsigned 32 o)

/-- R66: the count is stepped to the master's. -/
def State.stepTime (s : State) (offset : Int) : State :=
  let k := stepCounts offset
  let s : State := { s with off := (((s.off : Int) - k) % (2 ^ 64 : Int)).toNat }
  let s := s.setOffset (offset - 4000 * k)
  let s : State := { s with fab := { s.fab with synced := true, aligned := true } }
  match s.shot.epoch with | some e => { s with shot := { s.shot with nextNo := s.boundaryFrom e } } | none => s

/-- PTP_SYNC (R395, R396): a synchronisation finds the offset from the master, in ps. While no tick fires the count is stepped;
otherwise the PLL is steered, and an offset beyond 4 ns withholds ticks. -/
def execPtpSync (offset : Int) (s : State) : Host.Outcome State Fault Refusal :=
  .next (if !s.awake || s.boot.image.isNone || decide (s.fabric.tickSource = 0) then s
    else if !s.shot.begun && (!s.fab.synced || !s.fab.aligned) then s.stepTime offset
    else
      let s := s.setOffset offset
      let far := decide (offset < -alignLimit ∨ alignLimit < offset)
      if far && s.fab.aligned && decide (s.boot.mode = .run) then
        ({ s with fab := { s.fab with aligned := false } }.groomEvent Ev.timeAlign []).fabErr 29 0xFFFF
      else if !far then { s with fab := { s.fab with aligned := true } }
      else s)

/-- PDELAY_REQ (R395): answered on a torus port. -/
def execPdelayReq (p : PortId) (s : State) : Host.Outcome State Fault Refusal :=
  .next (if s.awake && (s.port p.val).up && isTorus p.val then (s.emit (.ptp p.val 3)).emit (.ptp p.val 4) else s)

/-- PTP_MESSAGE_INTERVAL (R395): Pdelay_Req goes out on every torus port, Sync and Follow_Up on the ports towards children. -/
def execPtpMessageInterval (s : State) : Host.Outcome State Fault Refusal :=
  .next (if !s.awake || s.boot.image.isNone then s
    else
      let kids := (s.childHops.map fun h => [hopPort false h, hopPort true h]).flatten
      (List.range 20).foldl (fun s p =>
        if !isTorus p || !(s.port p).up then s
        else
          let s := s.emit (.ptp p 2)
          if kids.contains p then (s.emit (.ptp p 0)).emit (.ptp p 1) else s) s)

end Sys2Proof.Machine
end

