-- ==== Sys2Proof/Machine/Serve.lean ====
section
/-!
DEFINITION. Serving requests (R39, R40, R391, R415): from outer ports and from the host, their acceptance, input and delivery.
-/
namespace Sys2Proof.Machine

/-! ### Acceptance (R39) -/

/-- Slices of a plan that serve a class, with their numbers. -/
def Plan.serves (p : Plan) (cls : Nat) : List (Nat × Slice) :=
  (p.slices.zipIdx.filter fun x => x.1.serving && decide (x.1.cls = cls)).map fun x => (x.2, x.1)

/-- Whether some plan of the image has a slice of a class. -/
def State.hasClass (s : State) (cls : Nat) : Bool :=
  match s.boot.image with | some im => im.plans.any fun p => !(p.serves cls).isEmpty | none => false

/-- Requests accepted for a slice of a shot and not failed. A request that has failed alone counts no more: the next is accepted in its place,
and may take a slot number that a live request holds (R39 does not say: DESIGN CHOICE, log 139). -/
def State.takenOf (s : State) (shot inst : Nat) : Nat :=
  (s.host.reqs.filter fun q => q.accepted && decide (q.shot = shot ∧ q.inst = inst)).length

/-- The earliest slice of class `cls` in a shot that takes a request that arrives at a count: shot, plan, slice and slot. -/
def State.sliceFor (s : State) (cls arrival shot tick : Nat) (plan : Option Nat) : Option (Nat × Nat × Nat × Nat) :=
  match plan, plan.bind s.planAt with
  | some k, some p =>
    let ok := (p.serves cls).filter fun x => decide (arrival ≤ tick + x.2.cutOff) && decide (s.takenOf shot x.1 < x.2.capacity)
    let best := ok.foldl (fun (b : Option (Nat × Slice)) x => match b with
      | some y => if x.2.start < y.2.start then some x else b
      | none => some x) none
    best.map fun x => (shot, k, x.1, s.takenOf shot x.1)
  | _, _ => none

/-- R39: the slice that a request is accepted into, in the present shot or the next. -/
def State.acceptInto (s : State) (cls arrival : Nat) : Option (Nat × Nat × Nat × Nat) :=
  let tick (n : Nat) : Nat := match s.shot.epoch with | some e => s.tickCount e n | none => 0
  let n := s.shot.nextNo
  match if s.running then s.sliceFor cls arrival s.shotNo (tick (n - 1)) s.shot.plan else none with
  | some x => some x
  | none => s.sliceFor cls arrival (n % 2 ^ 48) (tick n) s.nextPlan

/-- The area of a class and slice (R391). -/
def State.areaOf (s : State) (cls inst : Nat) : Option ServeArea :=
  s.boot.image.bind fun im => im.serve.find? fun a => decide (a.cls = cls ∧ a.inst = inst)

def State.modReq (s : State) (id : Nat) (f : Request → Request) : State :=
  { s with host := { s.host with reqs := s.host.reqs.map fun q => if q.id = id then f q else q } }

def State.dropReq (s : State) (id : Nat) : State :=
  { s with host := { s.host with reqs := s.host.reqs.filter fun q => q.id ≠ id } }

/-! ### Outcome -/

/-- A REPLY frame to a request's source. -/
def State.reply (s : State) (q : Request) (flags off : Nat) (bs : List Byte) : State :=
  s.sendData q.port s.cyc { s.newFrame 10 0 with
    flags := flags, window := q.cls, offset := off, sigma := q.token, payload := bs, length := bs.length, peer := q.addr, pport := q.udp }

/-- A request fails alone or with its shot (R40): its completion, or a REPLY with the refused flag and the code. -/
def State.failReq (s : State) (q : Request) (code : Nat) : State :=
  let s := s.dropReq q.id
  match q.host with
  | some e => s.complete e code 0 0 0 0 0 s.cyc
  | none => s.reply q 6 0 (leBytes 2 code)

/-- A REPLY's frames: 1,792 bytes each, the last with the last flag. -/
def State.replyAll (s : State) (q : Request) (bs : List Byte) : State :=
  (List.range (max 1 ((bs.length + 1791) / 1792))).foldl (fun s k =>
    s.reply q (if bs.length ≤ 1792 * (k + 1) then 2 else 0) (1792 * k) ((bs.drop (1792 * k)).take 1792)) s

/-- R40, R415: the output of an accepted request leaves at its delivery cycle. -/
def State.deliverReq (s : State) (q : Request) : State :=
  match if s.shot.plan = some q.plan then s.plan.bind fun p => p.slices[q.inst]? else none, s.areaOf q.cls q.inst with
  | some sl, some a =>
    let at_ := s.shot.begin_ + sl.delivery
    let s := s.at_ at_
    match q.fail with
    | some c => s.failReq q c
    | none =>
      if q.host.isSome && q.input.isEmpty then (s.groomEvent Ev.serveInputLate []).failReq q Ev.serveInputLate else
      let size := match q.host with | some e => min a.outSlot (leAt e.bytes 36 4) | none => a.outSlot
      let (s, bs, lost, _) := s.readMem (a.outBase + q.slot * a.outSlot) size s.cyc
      if lost.any id then s.failReq q Ev.hbmUncorrectable
      else
        match q.host with
        | some e =>
          if !s.hostOk then (s.event Ev.hostDma srcGateLogic s.cyc []).failReq q Ev.hostDma
          else ((s.dropReq q.id).emit (.hostWrite (leAt e.bytes 40 8) bs)).complete e 0 0 size s.shot.no 0
            ((s.countAt at_ + 2 ^ 64 - q.arrival) % 2 ^ 64) s.cyc
        | none => (s.dropReq q.id).replyAll q bs
  | _, _ => s.failReq q Ev.sliceFull

/-- The requests that the present shot serves. -/
def State.shotReqs (s : State) : List Request := s.host.reqs.filter fun q => q.accepted && decide (q.shot = s.shot.no)

/-- SERVE_DELIVERY (R40): an accepted request of the running shot is delivered, or reported as failed. -/
def execServeDelivery (id : Nat) (s : State) : Host.Outcome State Fault Refusal :=
  .next (match s.shotReqs.find? fun q => q.id = id with
    | some q => if s.clocked && s.running && s.shot.gone.isNone && s.shot.fail.isNone then s.deliverReq q else s
    | none => s)

/-- The end of the present shot for its requests (R40): all fail where the shot failed or was aborted; any other is delivered. A Function Level
Reset raises no event that a failure could name: the model names E_STATE (DESIGN CHOICE, log 142). -/
def State.settleReqs (s : State) : State :=
  s.shotReqs.foldl (fun s q =>
    match s.shot.fail with
    | some c => s.failReq q c.code
    | none =>
      if s.shot.gone.isSome then s.failReq q Ev.state
      else if s.shot.plan.isSome then s.deliverReq q
      else s.failReq q Ev.sliceFull) s

/-- R391: requests that are still incomplete at the end of the shot after their first frame came are discarded. -/
def State.dropStale (s : State) : State :=
  { s with host := { s.host with reqs := s.host.reqs.filter fun q => q.accepted || q.host.isSome || decide (s.shot.nextNo ≤ q.firstShot + 1) } }

/-! ### Requests from outer ports (R391) -/

/-- Whether bytes 0 to n − 1 have all come. -/
def covers (l : List (Nat × List Byte)) : Nat → Nat → Nat → Bool
  | 0, from_, n => decide (n ≤ from_)
  | fuel + 1, from_, n =>
    if n ≤ from_ then true
    else
      match l.find? fun p => decide (p.1 ≤ from_ ∧ from_ < p.1 + p.2.length) with
      | some p => covers l fuel (p.1 + p.2.length) n
      | none => false

/-- The input of a request, assembled. -/
def Request.data (q : Request) (n : Nat) : List Byte := q.input.foldl (fun bs p => overlay bs p.1 p.2) (zeroBytes n)

/-- A complete request from an outer port is accepted into a slice, or refused. -/
def State.takeRequest (s : State) (q : Request) (size : Nat) : State :=
  if !s.hasClass q.cls then s.failReq q Ev.frameDiscard
  else
    match s.acceptInto q.cls s.now with
    | none => (s.portEvent Ev.sliceFull q.port s.cyc none).failReq q Ev.sliceFull
    | some (shot, plan, inst, slot) =>
      match s.areaOf q.cls inst with
      | none => s.failReq q Ev.frameDiscard
      | some a =>
        if a.inSlot < size then s.failReq q Ev.frameDiscard
        else
          let s := s.writeMem (a.inBase + slot * a.inSlot) s.cyc (q.data size) false
          s.modReq q.id fun r => { r with
            accepted := true, shot := shot, plan := plan, inst := inst, slot := slot, arrival := s.now, size := some size }

/-- REQUEST_FRAME (R39, R391): a frame of a serving request. -/
def execRequestFrame (p : PortId) (f : Frame) (s : State) : Host.Outcome State Fault Refusal :=
  .next (if f.kind ≠ 9 ∨ isTorus p.val = true then s
    else
      let (s, new) := s.takeFrame p.val f
      if !new || s.boot.image.isNone then s
      else
        let same (q : Request) : Bool := q.host.isNone && !q.accepted && decide (q.addr = f.peer ∧ q.udp = f.pport ∧ q.token = f.sigma)
        let (s, q) := match s.host.reqs.find? same with
          | some q => (s, q)
          | none =>
            let q : Request := ⟨s.host.reqNo, none, f.peer, f.pport, f.sigma, p.val, f.window, 0, 0, 0, 0, 0, none, false, none, [],
              s.shot.nextNo⟩
            ({ s with host := { s.host with reqs := s.host.reqs ++ [q], reqNo := s.host.reqNo + 1 } }, q)
        let q' : Request := { q with
          input := q.input ++ [(f.offset, f.payload)]
          size := if f.isLast then some (f.offset + f.payload.length) else q.size }
        let s := s.modReq q.id fun _ => q'
        match q'.size with
        | some n => if covers q'.input q'.input.length 0 n then s.takeRequest q' n else s
        | none => s)

/-! ### Requests from the host (R415) -/

/-- The input and output sizes that a SERVE entry must fit: those of the areas of its class. -/
def State.serveFits (s : State) (cls inLen outCap : Nat) : Bool :=
  match s.boot.image with
  | some im => (im.serve.filter fun a => a.cls = cls).all fun a => decide (inLen ≤ a.inSlot ∧ a.outSlot ≤ outCap)
  | none => false

/-- The first fetched entry, where it stands on ring r with an opcode. -/
def State.headEntry (s : State) (r op : Nat) : Option Entry :=
  match s.host.entries with
  | e :: _ => if e.ring = r ∧ leAt e.bytes 0 1 = op then some e else none
  | [] => none

def State.dropEntry (s : State) : State := { s with host := { s.host with entries := s.host.entries.drop 1 } }

/-- SERVE (R39, R415, R417): the entry is accepted into a slice, and its input is read from host memory; or it is refused. -/
def execServe (r : RingId) (s : State) : Host.Outcome State Fault Refusal :=
  .next (match s.headEntry r.val 2 with
    | none => s
    | some e =>
      if !s.awake then s
      else
        let s := s.dropEntry
        let cls := leAt e.bytes 2 2
        let len := leAt e.bytes 32 4
        if s.stopped then s.refuse e Ev.state 12
        else if s.boot.image.isNone || s.releasing then s.refuse e Ev.state 1
        else if !s.hasClass cls then s.refuse e Ev.state 8
        else if !s.serveFits cls len (leAt e.bytes 36 4) then s.refuse e Ev.state 9
        else
          match s.acceptInto cls e.count with
          | none => s.refuse e Ev.sliceFull 0
          | some (shot, plan, inst, slot) =>
            let q : Request := ⟨s.host.reqNo, some e, 0, 0, 0, 0, cls, shot, inst, slot, e.count, plan, some len, true, none, [],
              s.shot.nextNo⟩
            let s : State := { s with host := { s.host with reqs := s.host.reqs ++ [q], reqNo := s.host.reqNo + 1 } }
            if s.hostOk then s.emit (.hostRead (leAt e.bytes 24 8) len) else s)

/-- The count of a cycle relative to a tick that has not come: the cycle at which a slice of a request's shot begins. -/
def State.sliceStart (s : State) (q : Request) : Option Nat :=
  match s.planAt q.plan, s.shot.epoch with
  | some p, some e =>
    let n := if q.shot = s.shotNo ∧ s.shot.begun = true then s.shot.nextNo - 1 else s.shot.nextNo
    (p.slices[q.inst]?).map fun sl => s.cycleOf (s.tickCount e n) + sl.start
  | _, _ => none

/-- SERVE_INPUT_COPY (R411, R415): the input of a SERVE has come from host memory and is written to its slot; a copy that is late,
whose read failed, or that falls due while requests are not allowed (R406), ends the request. -/
def execServeInputCopy (id : Nat) (data : List Byte) (ok : Bool) (s : State) : Host.Outcome State Fault Refusal :=
  .next (match s.host.reqs.find? fun q => q.id = id && q.host.isSome && q.input.isEmpty with
    | none => s
    | some q =>
      if !s.awake then s
      else
        let late := match s.sliceStart q with | some x => decide (x < s.cyc) | none => true
        let n := q.size.getD 0
        if !ok || !s.hostOk then (s.event Ev.hostDma srcGateLogic s.cyc []).failReq q Ev.hostDma
        else if late then (s.groomEvent Ev.serveInputLate []).failReq q Ev.serveInputLate
        else
          match s.areaOf q.cls q.inst with
          | some a =>
            (s.writeMem (a.inBase + q.slot * a.inSlot) s.cyc (bytesAt data 0 n) false).modReq q.id fun r =>
              { r with input := [(0, bytesAt data 0 n)] }
          | none => s)

end Sys2Proof.Machine
end

