-- ==== Sys2Proof/Machine/Fence.lean ====
section
/-!
DEFINITION. Strikes, fences and moves of stalls (15), and the change of the far table in a closing margin (R298).
-/
namespace Sys2Proof.Machine

/-! ### Acknowledgements of the command queue (R424) -/

/-- The oldest acknowledgement is shown, where the host has cleared the last one. -/
def State.showAck (s : State) : State :=
  match s.host.acks with
  | a :: t =>
    if s.bit A.mbxHdb 0 then s
    else
      (({ s with host := { s.host with acks := t } } : State).setReg A.mbxAck (a.code % 256 * 65536 + a.tag % 65536)).doorbell 0
  | [] => s

/-- A command has completed. -/
def State.ack (s : State) (tag code : Nat) : State :=
  ({ s with host := { s.host with acks := s.host.acks ++ [⟨tag, code⟩] } } : State).showAck

/-! ### The far table (R298, R306) -/

/-- Whether an entry asks for its page to be resident. -/
def farStays (e : List Byte) : Bool := farLoft e && farResident e && decide (farKind e ≠ 0)

/-- One entry of an accepted change is written. Its page loses its loft frame, where the entry stays as it was too: a host writes it so when
the data behind the page has changed (R307); a page that is marked resident is promoted. -/
def State.setFar (s : State) (base p : Nat) (e : List Byte) : State :=
  let s := s.writeMem (base + 16 * p) s.cyc (bytesAt e 0 16) false
  let s := match s.far.frameOf p with
    | some k => { s with far := s.far.setFrame k .empty }
    | none => s
  let asks := s.far.asks.filter fun a => decide (a.2 ≠ p)
  { s with far := { s.far with asks := if farStays e then asks ++ [(.groom, p)] else asks } }

/-- Whether a stream context of any stall is active at cycle x. -/
def State.streamsActive (s : State) (x : Nat) : Bool :=
  s.goodStalls.any fun i => (List.range 8).any fun n => ((s.stall i).ctx n).activeAt x

/-- R298: the accepted change is applied, and its command completes. -/
def State.applyFar (s : State) : State :=
  match s.far.change, s.boot.image.bind fun im => im.far with
  | some c, some (r, _) =>
    if s.streamsActive s.shotEnd then s
    else
      let s := c.entries.zipIdx.foldl (fun s e => s.setFar (s.regionBase r) (c.first + e.2) e.1) s
      ({ s with far := { s.far with change := none } } : State).ack c.tag 0
  | _, _ => s

/-! ### What a profile gives a stall (R105, R174, R233) -/

/-- The pair of the image's function tables with an index. -/
def Image.pair (im : Image) (k : Nat) : List Byte := bytesAt (im.ftab.getD k []) 0 16448

/-- A stall takes a logical stall with its profile: shape, window bit and mode, transposed segments, channel mode. -/
def Stall.carry (t : Stall) (l : Nat) (p : Profile) : Stall :=
  let t := t.apply t.clk (.shape p.shape p.window p.fp)
  { t with
    logical := some l
    spd := { t.spd with tmap := p.tmap }
    str := { t.str with serial := p.serial } }

/-- The function pairs of a profile, in the slots that hold none. -/
def Stall.fillSlots (t : Stall) (im : Image) (p : Profile) : Stall :=
  p.slots.foldl (fun t q => if t.vec.valid.contains q.1 then t else t.slotDone q.1 (im.pair q.2)) t

/-- R163: the slots of a stall loaded again from the image: those of its profile with their pairs; a slot that a broadcast has loaded holds a
pair of the image already, and its parity is made good. -/
def Stall.reloadSlots (t : Stall) (im : Image) : Stall :=
  let p := (match t.logical with | some l => (im.profileOf l).profile | none => Profile.empty)
  let t := p.slots.foldl (fun t q => if t.vec.valid.contains q.1 then t.slotDone q.1 (im.pair q.2) else t) t
  { t with vec := { t.vec with reload := false, badRegs := t.vec.badRegs.filter fun r => !r.isEntry } }

/-! ### Spares (R24 to R26, R477) -/

/-- Physical stalls of an aisle that are not fenced. -/
def State.goodIn (s : State) (j : Nat) : Nat := ((aisleStalls j).filter fun i => !s.safe.fenced.contains i).length

/-- Every aisle has a spare or not: REPLACE_N (R26, R477). -/
def State.checkReplace (s : State) : State :=
  if s.bit A.safeStatus 31 || (List.range 32).all (fun j => decide (18 < s.goodIn j)) then s
  else (((s.setBit A.safeStatus 31).groomEvent Ev.replaceRequest []).doorbell 2).emit (.pin pinReplace false)

/-! ### Fences (R472 to R476) -/

/-- Strikes of a stall after a shot in which it ran plan work (R472, R473). -/
def Stall.judge (t : Stall) : Stall :=
  if !t.works then t
  else if t.aud.earned = 0 then { t with aud := { t.aud with quiet := t.aud.quiet + 1 } }
  else { t with aud := { t.aud with strikes := min 2 (t.aud.strikes + t.aud.earned), quiet := 0, earned := 0 } }

/-- A bank's tag as the yardmaster has recorded it: 0xFF where a DMA was writing the bank (R215). -/
def Tack.recorded (t : Tack) (bank : Bool) : Nat := if t.dma.contains (bankNo bank) then 0xFF else if bank then t.tag1 else t.tag0

/-- The move of logical stall l from stall i to a spare (R215, R474, R475): of a stall that has not been given its tack yet, the move
that was under way goes on to the new spare. -/
def State.moveOf (s : State) (i l spare : Nat) : StallMove :=
  match s.safe.moves.find? fun m => m.logical = l && !m.copied with
  | some m => { m with spare := spare, started := false, pending := m.pending || (s.stall i).tack.pending }
  | none =>
    let k := (s.stall i).tack
    ⟨l, spare, k.recorded false, k.recorded true, k.active, k.pending, false, false⟩

/-- A stall that is fenced leaves the tack DMA of its barn. -/
def State.leaveDma (s : State) (i : Nat) : State :=
  let b := i / 80
  match (s.barn b).dma with
  | none => s
  | some d =>
    let keep := (d.todo.zip d.next).map fun p =>
      (p.1.filter fun k => decide (k ≠ i), if p.1.head? = some i then 0 else p.2)
    let d' : TackDma := { d with todo := keep.map fun p => p.1, next := keep.map fun p => p.2 }
    if d'.todo.all (·.isEmpty) then s.endDma b else (s.setBarn b { s.barn b with dma := some d' }).markDma d'

/-- A stall is fenced at cycle x and powered down (R24, R474): its banks are down, its engines stand as after reset; what it has issued
goes on as in an abort. Its records of errors and its audit registers stand (log 126). -/
def Stall.powerOff (t : Stall) (x : Nat) : Stall :=
  { t with
    fenced := true, logical := none, works := false
    seq := { t.seq with stop := some x, ctx := none }
    tack := { t.tack with dma := [] }
    ope := { Ope.reset with err := t.ope.err }
    vec := { Vec.reset with err := t.vec.err }
    spd := { Spad.reset with
      banks := (List.range 32).foldl (fun m b => sset bankOn m b .down) []
      err := t.spd.err, firstErr := t.spd.firstErr, pcount := t.spd.pcount }
    aud := { t.aud with strikes := 0 } }

/-- The fence of stall i at cycle x (R474): its event, the fence list, and the move of its logical stall. Outside a released image the
slot goes to the lowest spare; where an image was released and its map is kept, no profile is left to give a spare, so the slot is left
unmapped while the event names the spare (the model's choice, log 127). -/
def State.fenceOne (s : State) (i reason x : Nat) : State :=
  let l := (s.stall i).logical
  let spare := match l with | some _ => (s.spares (aisleOf i)).head? | none => none
  let move := match l, spare with | some l, some k => some (s.moveOf i l k) | _, _ => none
  let s := s.onStall i x fun t => t.abort x
  let s := s.modStall i fun t => t.powerOff x
  let s := s.leaveDma i
  let s := s.event Ev.stallFenced (srcStall i) x (leBytes 2 (l.getD 0xFFFF) ++
    [BitVec.ofNat 8 (i / 80), BitVec.ofNat 8 (i % 80), BitVec.ofNat 8 reason, BitVec.ofNat 8 (match spare with | some k => k % 80 | none => 0xFF)])
  let s := s.setReg A.safeFenceLast (2 ^ 31 + i / 80 * 2 ^ 28 + i % 80 * 2 ^ 21 + (l.getD 0x3FF) * 2 ^ 11 + reason * 2 ^ 9)
  let s := s.setField A.safeStatus 9 0 s.safe.fenced.length
  let s := if s.boot.mode = .run then s.failureEvent 1 else s
  match l with
  | none => s
  | some l =>
    let others := s.safe.moves.filter fun m => m.logical ≠ l
    match spare, move, s.boot.image with
    | some k, some m, some im =>
      let p := (im.profileOf l).profile
      let s := s.modStall k fun t => (({ t with
        tack := { t.tack with tag0 := 0xFF, tag1 := 0xFF, pending := false } } : Stall).carry l p).fillSlots im p
      let s : State := { s with safe := { s.safe with map := sset noStall s.safe.map l k, moves := others ++ [m] } }
      (s.setBit A.safeStatus 29).startMoves (k / 80)
    | _, _, _ => ({ s with safe := { s.safe with map := sset noStall s.safe.map l 640, moves := others } } : State).startMoves (i / 80)

/-- Place of a stall in the order in which fences of one margin are made (R475). -/
def State.fenceKey (s : State) (i : Nat) : Nat := match (s.stall i).logical with | some l => l | none => 576 + i

/-- Insertion by that order. -/
def State.insertFence (s : State) (p : Nat × Nat) : List (Nat × Nat) → List (Nat × Nat)
  | [] => [p]
  | q :: t => if s.fenceKey p.1 < s.fenceKey q.1 then p :: q :: t else q :: s.insertFence p t

/-- Several fences at cycle x, each a stall and a reason. A stall that is fenced already is passed over. -/
def State.fence (s : State) (l : List (Nat × Nat)) (x : Nat) : State :=
  let todo := (l.filter fun p => !s.safe.fenced.contains p.1).foldl (fun acc p => s.insertFence p acc) []
  let s : State := { s with safe := { s.safe with fenced := s.safe.fenced ++ todo.map fun p => p.1 } }
  (todo.foldl (fun s p => s.fenceOne p.1 p.2 x) s).checkReplace

/-- R455: no groom changes fences in FAULT. -/
def State.fencesOpen (s : State) : Bool := !s.boot.split && decide (s.boot.mode ≠ .fault)

/-- The fences of a closing margin at cycle x (R473, R474, R476). -/
def State.marginFences (s : State) (x : Nat) : State :=
  let s := s.eachStall s.goodStalls Stall.judge
  if !s.fencesOpen then s
  else
    let struck := (s.goodStalls.filter fun i => decide (2 ≤ (s.stall i).aud.strikes)).map fun i => (i, 0)
    let asked := (s.safe.requests.filter fun i => !(struck.any fun p => p.1 = i)).map fun i => (i, 1)
    ({ s with safe := { s.safe with requests := [] } } : State).fence (struck ++ asked) x

/-- STRIKE_DECAY (R473): a stall loses a strike after 65,536 quiet shots. -/
def execStrikeDecay (st : StallId) (s : State) : Host.Outcome State Fault Refusal :=
  .next (if (s.stall st.val).aud.quiet < 65536 then s
    else s.modStall st.val fun t => { t with aud := { t.aud with strikes := t.aud.strikes - 1, quiet := t.aud.quiet - 65536 } })

/-- SAFE_FENCE_REQ_GO (R455, R476): a host's request to fence a stall: in RUN at the next closing margin, otherwise at once. -/
def execSafeFenceReqGo (v : Word) (s : State) : Host.Outcome State Fault Refusal :=
  .next (if !s.awake then s
    else
      let s := s.writeReg A.safeFenceReq v.toNat
      let i := natBits v.toNat 9 7 * 80 + natBits v.toNat 6 0
      if !natBit v.toNat 31 || decide (80 ≤ natBits v.toNat 6 0) || s.safe.fenced.contains i || !s.fencesOpen then s
      else if s.boot.mode = .run then
        if s.safe.requests.contains i then s else { s with safe := { s.safe with requests := s.safe.requests ++ [i] } }
      else s.fence [(i, 1)] s.cyc)

/-! ### Moves (R215, R474, R475) -/

/-- A bank of a spare as a move leaves it: the overlay that the record names, or empty. -/
def Tack.rebuild (t : Tack) (im : Image) (bank : Bool) (tag l : Nat) : Tack :=
  if im.overlays.any fun o => o.num = tag then t.load bank (im.bankImage tag (some l)) tag else t.load bank [] 0xFF

/-- MOVE_COPY_DONE (R215, R474): the copy of a move ends; the next copy in the barn may start. -/
def execMoveCopyDone (logical : Fin 576) (s : State) : Host.Outcome State Fault Refusal :=
  .next (match s.safe.moves.find? fun m => decide (m.logical = logical.val) && m.started && !m.copied, s.boot.image with
    | some m, some im =>
      if !s.clocked then s
      else
        let s := s.modStall m.spare fun t =>
          let k := (t.tack.rebuild im false m.tag0 m.logical).rebuild im true m.tag1 m.logical
          { t with tack := { k with active := m.active, pending := m.pending || t.tack.pending, dma := [] } }
        let s : State := { s with safe := { s.safe with
          moves := s.safe.moves.map fun k => if k.logical = m.logical then { k with copied := true } else k } }
        let b := m.spare / 80
        let more := s.safe.moves.any fun k => !k.copied && decide (k.spare / 80 = b)
        let r := barnReg A.ymTdmaStatus b
        (if more then s else s.setField r 31 30 1).startMoves b
    | _, _ => s)

/-- A tick carries the moves whose copy is complete (R474). -/
def State.carryMoves (s : State) : State :=
  let left := s.safe.moves.filter fun m => !m.copied
  ({ s with safe := { s.safe with moves := left } } : State).putBit A.safeStatus 29 (!left.isEmpty)

end Sys2Proof.Machine
end

