-- ==== Sys2Proof/Machine/Shots.lean ====
section
/-!
DEFINITION. Shots (02, 15): the closing margin, the verdict, reruns, the run queue at a shot boundary, ticks, aborts, audit halts.
-/
namespace Sys2Proof.Machine

/-! ### Aborts (R218, R260, R272, R466) -/

/-- The abort broadcast reaches the stalls at cycle x. -/
def State.abortShot (s : State) (x : Nat) : State :=
  let s := s.onGood x fun t => t.abort x
  let s := (List.range 8).foldl (fun s b => s.setBarn b (s.barn b).abort) s
  { s with safe := { s.safe with abort := none }, shot := { s.shot with gone := some x } }

/-- SHOT_ABORT (R466): an abort that has been ordered arrives. -/
def execShotAbort (s : State) : Host.Outcome State Fault Refusal :=
  .next (match s.safe.abort with
    | some x => if s.shot.begun then (s.at_ x).abortShot x else { s with safe := { s.safe with abort := none } }
    | none => s)

/-- SAFE_CTRL_ABORT (R465): a host write of 1 to SAFE_CTRL.abort. -/
def execSafeCtrlAbort (v : Word) (s : State) : Host.Outcome State Fault Refusal :=
  .next (if !s.awake then s
    else
      let s := s.writeReg A.safeCtrl v.toNat
      if !natBit v.toNat 31 || !s.shot.begun || s.shot.gone.isSome || s.safe.abort.isSome || s.bit A.glbAudit 0 then s
      else (s.failEvent Ev.hostAbort s.srcGroom s.cyc []).orderAbort s.cyc)

/-! ### Release of an image (R449) -/

/-- The end of a snapshot sweep by a release: its entry completes with E_STATE cause 1 where completions are made. UPD_SNAP shows the last
sweep that began (R334). -/
def State.endSweep (s : State) (report : Bool) : State :=
  match s.host.sweep with
  | some w =>
    let s : State := { s with host := { s.host with sweep := none } }
    let s := if w.running then s.setReg A.updSnap 0 else s
    if report then s.refuse w.entry Ev.state 1 else s
  | none => s

/-- Tack banks and function tables keep their contents and are not valid. -/
def Stall.unload (t : Stall) : Stall :=
  { t with
    works := false
    seq := { t.seq with state := .idle, fetchOn := false, queue := [] }
    tack := { t.tack with tag0 := 0xFF, tag1 := 0xFF, pending := false, dma := [] }
    vec := { t.vec with valid := [], loading := [] } }

/-- Steps 3 and 4 of R449: the image is released, and the module is READY. `report`: invocations receive completions. -/
def State.releaseImage (s : State) (report : Bool) : State :=
  let s := s.endSweep report
  let s := s.host.reqs.foldl (fun s q => match q.host with
    | some e => if report then s.refuse e Ev.state 1 else s
    | none => s) s
  let s := s.eachStall (s.stalls.map fun p => p.1) Stall.unload
  let s := (List.range 8).foldl (fun s b => s.setBarn b { s.barn b with state := .idle, sel := none, loads := [], dma := none }) s
  let s := match s.far.change with
    | some c => if report then s.ack c.tag 3 else s
    | none => s
  let s : State := { s with
    boot := { s.boot with image := none, releasing := 0, mode := if s.boot.mode = .run then .ready else s.boot.mode }
    shot := { s.shot with epoch := none, begun := false, plan := none, missAt := none, anns := [],
                          ownFrom := if s.running then s.cyc else s.shot.ownFrom }
    safe := { s.safe with moves := [], rerun := false, reruns := 0, abort := none }
    train := { s.train with diverged := false, passes := [], freeze := none, header := none }
    ckpt := { s.ckpt with due := none, cur := none, done := [], chains := [], owed := false, repairs := [] }
    far := { s.far with frames := [], hand := 0, change := none, reads := [], asks := [] }
    fab := { s.fab with held := [], landed := [], injected := [], sums := [], exchs := [], msgs := [], windows := [], bindings := [] }
    host := { s.host with reqs := [] } }
  let s := (List.range 8).foldl (fun s n => (s.setReg (A.cfgDigest + 4 * n) 0).setReg (A.cfgConfDigest + 4 * n) 0) s
  let s := ((s.setReg A.glbShotPeriod 0).setReg A.updFmtThresh 0).setField A.cfgStatus 30 29 0
  let s := s.putBit A.glbTickStatus 16 false
  let s := (s.putBit A.safeStatus 30 false).putBit A.safeStatus 29 false
  let s := s.setReg A.farTable 0
  s.doorbell 6

/-- Whether a release that has been asked for can be made (R449 step 2). -/
def State.canRelease (s : State) : Bool := s.releasing && s.fencesOpen && s.host.runs.isEmpty && s.train.passes.isEmpty

/-! ### The closing margin (R33 to R35) -/

/-- R262: contexts still active at the start of the margin end with cause deadlock. -/
def State.marginStreams (s : State) (x : Nat) : State :=
  if s.shot.gone.isSome then s
  else
    let l := (s.goodStalls.map fun i => ((List.range 8).filter fun n =>
      let c := (s.stall i).ctx n
      decide (c.state = .active) && c.activeAt x).map fun n => (i, n)).flatten
    l.foldl (fun s p => (s.ctxFaultAt p.1 p.2 7 28 Ev.streamDeadlock x true).orderAbort x) s

/-- Whether a stall or yardmaster that has not ended has been stopped before cycle x by an abort or an audit halt, or stands with its clocks (R34). -/
def State.stoppedIssue (s : State) (x : Nat) : Bool :=
  s.power.stopped || [s.shot.gone, s.shot.halt].any fun o => match o with | some y => decide (y < x) | none => false

/-- R34: the watchdog at cycle x, and what stops a hung stall (R218). -/
def State.watchdog (s : State) (x : Nat) : State :=
  if s.stoppedIssue x then s
  else
    let hung := s.goodStalls.filter fun i => (s.stall i).works && decide ((s.stall i).seq.state = .running)
    let s := hung.foldl (fun s i =>
      s.onStall i x fun t =>
        let waits := t.seq.waiting.isSome
        let t := t.raise Ev.stallHung x noTack true
        let t : Stall := if waits then t else { t with aud := { t.aud with earned := max 1 t.aud.earned } }
        t.abort x) s
    (List.range 8).foldl (fun s b =>
      if (s.barn b).state = .running then (s.failEvent Ev.stallHung (srcYard b) x []).setBarn b (s.barn b).abort else s) s

/-- R346: the journal header of the commit made in this shot. -/
def State.journalHeader (s : State) : State :=
  match s.train.header, s.policy, s.upd with
  | some (step, shot, c), some _, some u =>
    let head := leBytes 8 step ++ leBytes 6 shot ++ zeroBytes 2 ++ leBytes 4 c ++ zeroBytes 44
    let body := s.peek (s.regionBase u.groupTable) 262144
    let s := s.writeMem (s.headerAddr c) s.cyc (head ++ body) false
    { s with train := { s.train with header := none } }
  | _, _, _ => { s with train := { s.train with header := none } }

/-- Switches of tack banks that are pending (R214), but in a stall to which a move still copies. -/
def State.marginSwitches (s : State) : State :=
  let moving (i : Nat) : Bool := s.safe.moves.any fun m => decide (m.spare = i) && !m.copied
  s.eachStall (s.goodStalls.filter fun i => !moving i) fun t => { t with tack := t.tack.switch }

/-- GE becomes primary at the closing margin after the token has passed (R454). -/
def State.takeOver (s : State) : State :=
  if s.boot.takeover then { s with boot := { s.boot with takeover := false, primaryGe := true } } else s

/-- The work of the closing margin that begins at cycle x (R33). -/
def State.marginWork (s : State) (x : Nat) : State :=
  let s := match s.safe.abort with | some a => if a ≤ x then s.abortShot a else s | none => s
  let s := s.syncAll (x + 1)
  let s := s.marginStreams x
  let s := s.watchdog x
  let s := match s.safe.abort with | some a => s.abortShot a | none => s
  let s := s.eachStall s.goodStalls Stall.wakeBanks
  let s := s.marginFences x
  let s := s.marginSwitches
  let s := s.applyFar.applyWindows
  let s := s.journalHeader.takeOver
  { s with shot := { s.shot with margin := true } }

/-! ### The verdict (R35, R465 to R470) -/

/-- Whether the shot has failed. -/
def Shot.failed (t : Shot) : Bool := t.fail.isSome || t.gone.isSome

/-- R467: a plan whose shot gives the same outputs whenever it runs again. -/
def Plan.repeatable (p : Plan) : Bool := p.idempotent && p.transfers.isEmpty && !p.bars.any (·.commit)

/-- The record of a failed shot. -/
def State.failRecord (s : State) : State :=
  let c := s.shot.fail.getD ⟨0, 0, 0⟩
  let s := (s.setReg A.safeFailShotLo (s.shot.no % 2 ^ 32)).setReg A.safeFailShotHi (s.shot.no / 2 ^ 32)
  (s.setReg A.safeFailCause (c.code * 65536 + c.src)).bump A.safeCounts 31 16 1

/-- A shot of a RUN that fails without a rerun that passes marks its step's record (R509). -/
def State.markFailed (s : State) (step : Nat) : State :=
  if s.train.mark.step = step then { s with train := { s.train with mark := { s.train.mark with failed := true } } } else s

/-- The head of the run queue changes, or leaves it. -/
def State.setHead (s : State) (q : Option RunEntry) : State :=
  { s with host := { s.host with runs := q.toList ++ s.host.runs.drop 1 } }

/-- A RUN goes on with its next shot, or completes with its last. -/
def State.nextShot (s : State) (q : RunEntry) : State :=
  let q : RunEntry := { q with sidx := q.sidx + 1 }
  let s : State := { s with safe := { s.safe with rerun := false, reruns := 0 } }
  if q.count ≤ q.sidx then (s.setHead none).completeRun q q.status 0 s.shotEnd else s.setHead (some q)

/-- R163: before a rerun the groom loads every slot of a stall again in which a table entry failed its parity. -/
def State.reloadTables (s : State) : State :=
  match s.boot.image with
  | none => s
  | some im => s.eachStall (s.goodStalls.filter fun i => (s.stall i).vec.reload) fun t => t.reloadSlots im

/-- The running RUN after a shot of it (R468 to R470). -/
def State.runVerdict (s : State) (q : RunEntry) (p : Plan) : State :=
  if !s.shot.failed then s.nextShot q
  else
    let code := match s.shot.fail with | some c => c.code | none => 0
    let q : RunEntry := { q with failed := q.failed + 1, status := if q.status = 0 then code else q.status }
    let limit := s.field A.safeCtrl 1 0
    if !p.repeatable || limit = 0 then (s.markFailed q.step).nextShot q
    else if s.safe.reruns < limit then
      let s := s.reloadTables.setHead (some q)
      { s with safe := { s.safe with rerun := true } }
    else
      let s := (s.groomEvent Ev.rerunLimit []).markFailed q.step
      let s : State := { s with safe := { s.safe with rerun := false, reruns := 0 } }
      (s.setHead none).completeRun q q.status 0 s.shotEnd

/-- R494: the measured energy of the shot against the declared. -/
def State.energyVerdict (s : State) : State :=
  let t := s.shot
  let tol := match s.boot.image with | some im => im.power.tol | none => 0
  let s := (s.setReg A.pwrShotDecl (t.declared / 1000000)).setReg A.pwrShotMeas (t.measured / 1000000)
  if t.measured * 256 ≤ t.declared * (256 + tol) then s
  else ((s.groomEvent Ev.energyExcess []).setBit A.pwrErr 28).doorbell 1

/-- The module enters FAULT (R455): what is queued completes with E_STATE cause 12. -/
def State.enterFault (s : State) : State :=
  let runs := s.host.runs
  let reqs := s.host.reqs
  let s : State := { s with boot := { s.boot with mode := .fault }, host := { s.host with runs := [], reqs := [] } }
  let s := runs.foldl (fun s q => s.refuseRun q 12) s
  reqs.foldl (fun s q => match q.host with
    | some e => s.refuse e Ev.state 12
    | none => s.failReq q Ev.state) s

/-- The end of the shot: its verdict (R35), its requests (R40) and its RUN. -/
def State.closeShot (s : State) : State :=
  if !s.shot.begun then s
  else
    let s := s.energyVerdict
    let s := if s.shot.failed then (s.failRecord).onGood s.shotEnd Stall.fmtReset else s
    let s := s.settleReqs
    let s := match s.host.runs, s.plan with
      | q :: _, some p => if q.started then s.runVerdict q p else s
      | _, _ => s
    let s := s.eachStall s.goodStalls Stall.shotDone
    let t := s.shot
    let s : State := { s with shot := { t with begun := false, ownFrom := if t.plan.isSome && t.halt.isNone then s.shotEnd else t.ownFrom } }
    if s.boot.split then s.enterFault else s

/-- The release is made, a shot that is in its closing margin ending with it. -/
def State.doRelease (s : State) : State := (s.closeShot).releaseImage (decide (s.boot.releasing = 1))

/-- CLOSING_MARGIN (R33): the work of the margin; a release waits for it. -/
def execClosingMargin (s : State) : Host.Outcome State Fault Refusal :=
  .next (if !s.shot.begun || s.shot.margin then s
    else
      let x := s.marginAt
      let s := (s.at_ x).marginWork x
      if s.canRelease then s.doRelease else s)

/-! ### The shot boundary (R211, R414, R417, R468) -/

/-- Cycle of the next boundary. -/
def State.boundaryAt (s : State) (e : Nat) : Nat := s.cycleOf (s.tickCount e s.shot.nextNo)

/-- Whether the module fires the tick of the next boundary (R60, R396). -/
def State.fires (s : State) : Bool :=
  decide (s.fabric.tickSource = 0) ||
    (s.shot.anns.any fun a => a.shot = s.shot.nextNo) && s.fab.synced && s.fab.aligned && !s.shot.noTicks

/-- Whether a shot can start at a tick at cycle x: not in HOLD, FAULT or a halt; HOLD ends where a resume has been taken (R488). -/
def State.startsShots (s : State) (x : Nat) : Bool :=
  !s.bit A.glbAudit 0 && !s.boot.split &&
    (decide (s.boot.mode = .run) ||
      (decide (s.boot.mode = .hold) && (match s.power.resumeAt with | some r => decide (r ≤ x) | none => false)))

/-- Whether a plan names a logical stall that a move has not yet carried (R414). -/
def State.movesOf (s : State) (p : Plan) : Bool := p.names.any fun l => s.safe.moves.any fun m => decide (m.logical = l)

/-- Whether a RUN in the queue can start in the shot of boundary n at cycle x (R414). A module at a position that carries no logical position
runs no plan (R379): its RUNs wait (R417 names no cause for it: DESIGN CHOICE, log 154). -/
def State.eligible (s : State) (q : RunEntry) (n x : Nat) : Bool :=
  decide (q.notBefore + 512 < x) && decide (q.startShot ≤ n) && !s.fabric.idleAt s.caseNow s.fabric.me &&
    (decide (q.startShot ≠ 0) || (match s.planAt q.plan with | some p => !s.movesOf p | none => true))

/-- The head of the queue starts, or RUNs at the head are refused and leave it (R414, R417); fuel bounds the RUNs. -/
def State.startHead (s : State) (n x : Nat) : Nat → State
  | 0 => s
  | fuel + 1 =>
    match s.host.runs with
    | [] => s
    | q :: _ =>
      if q.started || !s.eligible q n x then s
      else
        let c := s.runCause q n
        if c ≠ 0 then ((s.setHead none).refuseRun q c).startHead n x fuel
        else s.setHead (some { q with started := true })

/-- R211: a later shot of the running RUN finds a bank that does not hold the plan's overlay. -/
def State.checkBanks (s : State) : State :=
  match s.host.runs with
  | q :: _ =>
    if q.started && (match s.planAt q.plan with | some p => s.bankBad p | none => false) then
      let s : State := { s with safe := { s.safe with rerun := false, reruns := 0 } }
      let s := if q.result = 0 then s.markFailed q.step else s
      (s.setHead none).refuseRun q 4
    else s
  | [] => s

/-- HOLD ends at the first boundary from which shots start again (R488). -/
def State.leaveHold (s : State) : State :=
  if s.boot.mode = .hold then { s with boot := { s.boot with mode := .run }, power := { s.power with resumeAt := none } } else s

/-- What is settled at a boundary before its tick: the last shot's verdict, and where a shot starts, moves and the queue. -/
def State.boundary (s : State) (x : Nat) : State :=
  let s := if s.bit A.glbAudit 0 then s else s.closeShot
  if !s.fires || !s.startsShots x then s
  else
    let s := s.leaveHold.carryMoves.checkBanks
    if s.power.cool then s else s.startHead s.shot.nextNo x (s.host.runs.length + 1)

/-- Whether the shots of the running RUN wait (R414, R468): a logical stall of a repeatable plan has a move under way. -/
def State.waitsForMove (s : State) (p : Plan) : Bool :=
  p.repeatable && s.movesOf p

/-- RUN_START (R414, R417): the head of the queue is checked again and starts, at the boundary that comes next. -/
def execRunStart (s : State) : Host.Outcome State Fault Refusal :=
  .next (match s.shot.epoch with
    | some e =>
      if s.boot.image.isNone || (s.shot.begun && !s.shot.margin) then s
      else
        let x := s.boundaryAt e
        if s.fires && s.startsShots x then (s.at_ x).boundary x else s
    | none => s)

/-! ### Ticks (R29 to R32, R60) -/

/-- R312, R509: the first shot of a RUN clears the step record. -/
def State.firstShot (s : State) (q : RunEntry) (p : Plan) : State :=
  if q.first.isSome then s
  else
    let s := if q.stepStart || (p.slices.any (fun l => !l.serving) && decide (s.train.mark.step ≠ q.step)) then s.clearMark q.step else s
    s.setHead (some { q with first := some s.shotNo })

/-- The module base energy of a shot (R492, R494), in nJ. -/
def State.idleEnergy (s : State) : Nat :=
  let c := match s.boot.image with | some im => max (im.power.coeffs.getD 0 0) (s.power.calibrated.getD 0 0) | none => 0
  c * s.period / 1000

/-- Shot begin reaches every stall that is not fenced (R32); `entry` gives the entry index of each stall that runs the plan. -/
def State.stallsBegin (s : State) (x : Nat) (entry : Nat → Option Nat) (step : Nat) : State :=
  let l := s.goodStalls
  (l.foldl (fun s i => s.modStall i fun t => t.shotBegin x (entry i) step) s).flush l

/-- The yardmasters begin (R224). -/
def State.barnsBegin (s : State) (x : Nat) (p : Option Plan) : State :=
  (List.range 8).foldl (fun s b =>
    let e := p.bind fun p => p.ymEntries[b]?
    let run := match e with | some k => decide (k < 2048) | none => false
    let y := s.barn b
    let s := s.setBarn b { y with
      state := if run then .running else .idle, entry := e.getD 0, index := e.getD 0, ref := x, lastIssue := none, stop := none
      ftabAt := none, once := [] }
    (s.setReg (barnReg A.ymStatus b) (e.getD 0 * 65536)).setField (barnReg A.ymBarStatus b) 15 0 0) s

/-- A shot begins at cycle x: a plan's, or an empty one (R31). -/
def State.beginShot (s : State) (x : Nat) (q : Option RunEntry) (p : Option Plan) : State :=
  let s : State := { s with
    shot := { s.shot with
      begun := true, begin_ := x, no := s.shotNo, plan := q.bind fun q => p.map fun _ => q.plan
      sidx := match q with | some q => q.sidx | none => 0
      step := match q with | some q => q.step | none => 0
      fail := none, margin := false, gone := none, halt := none, skewed := false, bars := [], linkRetry := [], injectEvt := false
      loftEvt := false, corrected := []
      declared := match p with | some p => p.energy.foldl (· + ·) 0 | none => s.idleEnergy
      measured := 0 }
    safe := { s.safe with abort := none }
    fab := { s.fab with landed := [], injected := [], sums := [], exchs := [], held := [] } }
  let entry (i : Nat) : Option Nat :=
    match p, (s.stall i).logical with
    | some p, some l => if s.carried l then (p.progs.find? fun g => g.logical = l).map fun g => g.entry else none
    | _, _ => none
  let s := (s.stallsBegin x entry s.shot.step).barnsBegin x p
  match p.bind fun p => p.names.find? fun l => !s.carried l with
  | some l => s.failEvent Ev.stallAbsent s.srcGroom x (leBytes 2 l)
  | none => s

/-- The shot that the tick at cycle x begins (R31, R414, R468). -/
def State.startShot (s : State) (x : Nat) : State :=
  match s.host.runs with
  | q :: _ =>
    match s.planAt q.plan with
    | some p =>
      if !q.started || s.power.cool then (s.putBit A.safeStatus 30 false).beginShot x none none
      else if s.waitsForMove p then (s.putBit A.safeStatus 30 true).beginShot x none none
      else
        let s := s.firstShot q p
        let again := s.safe.rerun
        let q : RunEntry := { s.host.runs.headD q with ran := q.ran + 1 }
        let s := s.setHead (some q)
        let s := if again then
            ({ s with safe := { s.safe with rerun := false, reruns := s.safe.reruns + 1 } } : State).bump A.safeCounts 15 0 1
          else s
        let s := ((s.putBit A.safeStatus 30 false).putBit A.safeStatus 28 p.repeatable).setField A.safeStatus 27 26 s.safe.reruns
        s.beginShot x (some q) (some p)
    | none => (s.putBit A.safeStatus 30 false).beginShot x none none
  | [] => ((s.putBit A.safeStatus 30 false).setField A.safeStatus 28 26 0).beginShot x none none

/-- R379: the substitution case in force from a tick's shot number on. -/
def State.substitute (s : State) : State :=
  if s.wide A.fabSubstShotLo A.fabSubstShotHi ≤ s.shotNo then
    let k := s.field A.fabSubst 3 0
    s.setField A.fabSubst 7 4 (if k ≤ s.fabric.cases.length then k else 0)
  else s

/-- What leaves the module at a tick: the announcement of shot n + 2, where the module is the master, and TICK_OUT (R393, R397). -/
def State.tickOut (s : State) (e n : Nat) : State :=
  let c := s.tickCount e (n + 2)
  let k := (n + 2) % 2 ^ 48
  let s := if s.fabric.tickSource = 0 ∨ s.fabric.me = s.fabric.master then s.announceChildren (s.tickPayload k c) else s
  s.emit (.tickOut k c (tickCrc k c))

/-- The tick of boundary n fires at cycle x. -/
def State.fire (s : State) (e n x : Nat) : State :=
  let s := s.setShotNo (n % 2 ^ 48)
  let s : State := { s with shot := { s.shot with
    nextNo := n + 1, missAt := none, anns := s.shot.anns.filter fun a => decide (n < a.shot) } }
  let s := (s.substitute.tickOut e n).dropStale
  if s.startsShots x then s.startShot x else s

/-- R60: no tick fires at boundary n: the previous shot has ended, no shot starts, and a shot of the running RUN is missed. -/
def State.missTick (s : State) (n x : Nat) : State :=
  let lack := !s.shot.anns.any fun a => a.shot = n
  let s := if lack then s.bump A.glbTickStatus 15 0 1 else s
  let s : State := { s with shot := { s.shot with
    nextNo := n + 1
    missAt := if lack && !s.shot.noTicks then some (s.shot.missAt.getD x) else s.shot.missAt } }
  match s.host.runs with
  | q :: _ => if q.started && !s.safe.rerun then (s.markFailed q.step).nextShot q else s
  | [] => s

/-- TICK (R29 to R32, R60): the next boundary. -/
def execTick (s : State) : Host.Outcome State Fault Refusal :=
  .next (match s.shot.epoch with
    | some e =>
      if s.boot.image.isNone || (s.shot.begun && !s.shot.margin) then s
      else
        let n := s.shot.nextNo
        let x := s.boundaryAt e
        let s := (s.at_ x).boundary x
        if s.fires then s.fire e n x else s.missTick n x
    | none => s)

/-- TICK_LOSS_DETECT (R60): the detection interval of a missed tick has passed without an announcement. -/
def execTickLossDetect (s : State) : Host.Outcome State Fault Refusal :=
  .next (match s.shot.missAt with
    | some x =>
      let s := s.at_ (x + 7 * min (2 * s.period) 25000)
      let s := ((s.groomEvent Ev.tickLost []).setBit A.glbTickStatus 31).failureEvent 1
      { s with shot := { s.shot with missAt := none, noTicks := true }, fab := { s.fab with synced := false } }
    | none => s)

/-! ### Audit halts (R59) -/

/-- AUDIT_HALT (R59, R201): every sequencer stands halted. -/
def execAuditHalt (s : State) : Host.Outcome State Fault Refusal :=
  .next (match s.shot.halt with
    | some x =>
      if !s.shot.begun || s.bit A.glbAudit 0 then s
      else
        let s := s.at_ x
        let s := s.onGood x fun t =>
          if t.seq.state = .running then { t with seq := { t.seq with state := .halted, fetchOn := false } } else t
        let s := (List.range 8).foldl (fun s b =>
          let y := s.barn b
          if y.state = .running then s.setBarn b { y with state := .halted } else s) s
        ({ s with shot := { s.shot with ownFrom := x } } : State).setBit A.glbAudit 0
    | none => s)

/-- GLB_AUDIT_RELEASE (R59): the halted shot has failed, and shots start again at the next tick. -/
def execGlbAuditRelease (v : Word) (s : State) : Host.Outcome State Fault Refusal :=
  .next (if !s.awake || !natBit v.toNat 1 || !s.bit A.glbAudit 0 then s
    else
      let s := s.putBit A.glbAudit 0 false
      if s.shot.margin && decide (s.shotEnd ≤ s.cyc) then s.closeShot else s)

end Sys2Proof.Machine
end

