-- ==== Sys2Proof/Machine/Host.lean ====
section
/-!
DEFINITION. The host interface (13) as commands: rings and their entries, the command queue, BAR2, the auxiliary port.
-/
namespace Sys2Proof.Machine

/-! ### Rings (R408 to R411) -/

/-- RING_ENABLE (R408): a write of a ring's GLB_RINGn_CFG with enable 1. While the ring is enabled, its size is kept. -/
def execRingEnable (r : RingId) (v : Word) (s : State) : Host.Outcome State Fault Refusal :=
  .next (let n := r.val
    let a := ringReg A.glbRingCfg n
    if !s.awake || !natBit v.toNat 31 then s
    else if s.bit a 31 then s.writeReg a (setBits v.toNat 3 0 (s.field a 3 0))
    else
      let s := s.writeReg a v.toNat
      let k := s.field a 3 0
      let base := s.reg (ringReg A.glbRingBaseLo n) + 2 ^ 32 * s.reg (ringReg A.glbRingBaseHi n)
      s.setRing n ⟨base, if 2 ≤ k ∧ k ≤ 8 then k else 2, .enabled, 0, 0, 0, 0, 0, 0, (s.ring n).pass + 1⟩)

/-- RING_DISABLE (R411): a write with enable 0 stops fetching; the ring drains. -/
def execRingDisable (r : RingId) (v : Word) (s : State) : Host.Outcome State Fault Refusal :=
  .next (let n := r.val
    let a := ringReg A.glbRingCfg n
    if !s.awake || natBit v.toNat 31 then s
    else if !s.bit a 31 then s.writeReg a v.toNat
    else
      let s := s.writeReg a (setBits v.toNat 3 0 (s.field a 3 0))
      let q := s.ring n
      s.setRing n { q with state := if q.outstanding = 0 then .disabled else .draining, cause := 0 })

/-- A doorbell write that is not valid (R409). -/
def State.badDoorbell (s : State) (n : Nat) : State :=
  (s.setRing n { s.ring n with state := .error, cause := 1 }).event Ev.ringDoorbell srcGateLogic s.cyc []

/-- Whether a ring's doorbell page takes writes. -/
def Ring.open_ (q : Ring) : Bool := decide (q.state = .enabled ∨ q.state = .error)

/-- DB_SQ_TAIL_WRITE (R409). -/
def execDbSqTailWrite (r : RingId) (v : Word) (s : State) : Host.Outcome State Fault Refusal :=
  .next (let q := s.ring r.val
    let t := v.toNat % 65536
    if !s.awake || !q.open_ then s
    else if (t + 65536 - q.fetched % 65536) % 65536 ≤ q.entries then s.setRing r.val { q with tail := t }
    else s.badDoorbell r.val)

/-- DB_CQ_HEAD_WRITE (R409). -/
def execDbCqHeadWrite (r : RingId) (v : Word) (s : State) : Host.Outcome State Fault Refusal :=
  .next (let q := s.ring r.val
    let h := v.toNat % 65536
    if !s.awake || !q.open_ then s
    else if (h + 65536 - q.head) % 65536 ≤ q.entries ∧ (q.written % 65536 + 65536 - h) % 65536 ≤ q.entries then
      s.setRing r.val { q with head := h }
    else s.badDoorbell r.val)

/-- Whether the ring has an entry that can be fetched (R410). -/
def Ring.fetchable (q : Ring) : Bool :=
  decide (q.state = .enabled) && decide ((q.tail + 65536 - q.fetched % 65536) % 65536 ≠ 0) &&
    decide ((q.fetched % 65536 + 65536 - q.head) % 65536 < q.entries)

/-- Bytes a to b − 1 of an entry are zero. -/
def zeroSpan (bs : List Byte) (a b : Nat) : Bool := decide (leAt bs a (b - a) = 0)

/-- Whether an entry is valid in itself (R412, R413). -/
def validEntry (bs : List Byte) : Bool :=
  let op := leAt bs 0 1
  let flags := leAt bs 1 1
  decide (flags < (if op = 1 then 4 else 2)) &&
    (match op with
      | 0 => zeroSpan bs 2 16 && zeroSpan bs 24 64
      | 1 => decide (1 ≤ leAt bs 4 2) && zeroSpan bs 6 8 && zeroSpan bs 14 16 && zeroSpan bs 24 64
      | 2 => decide (leAt bs 2 2 ≤ 63) && zeroSpan bs 4 16 && decide (leAt bs 24 8 % 64 = 0) && decide (1 ≤ leAt bs 32 4) &&
          decide (1 ≤ leAt bs 36 4) && decide (leAt bs 40 8 % 64 = 0) && zeroSpan bs 48 64
      | 3 => [8, 9, 18, 19].contains (leAt bs 2 2) && zeroSpan bs 8 16 && zeroSpan bs 24 48
      | _ => false)

/-- RING_FETCH (R410, R411, R413): the ring's next entry is read from host memory; `data` is what the read brings, `ok` that it ends
without an error. -/
def execRingFetch (r : RingId) (data : List Byte) (ok : Bool) (s : State) : Host.Outcome State Fault Refusal :=
  .next (let n := r.val
    let q := s.ring n
    if !s.awake || !s.hostOk || !q.fetchable then s
    else
      let s := s.emit (.hostRead (q.base + 64 * (q.fetched % q.entries)) 64)
      if !ok then (s.setRing n { q with state := .error, cause := 2 }).event Ev.hostDma srcGateLogic s.cyc []
      else
        let e : Entry := ⟨n, q.pass, q.fetched, bytesAt data 0 64, s.now⟩
        let s := s.setRing n { q with fetched := q.fetched + 1, outstanding := q.outstanding + 1 }
        if validEntry e.bytes then { s with host := { s.host with entries := s.host.entries ++ [e] } }
        else s.refuse e Ev.cmdInvalid 0)

/-! ### Entries (R414, R416, R417) -/

/-- NOP_ENTRY (R412): completes at once. -/
def execNopEntry (r : RingId) (s : State) : Host.Outcome State Fault Refusal :=
  .next (match s.headEntry r.val 0 with
    | some e => if s.awake then s.dropEntry.complete e 0 0 0 0 0 0 s.cyc else s
    | none => s)

/-- The RUN that an entry asks for, fetched at cycle x. -/
def Entry.run (e : Entry) (x : Nat) : RunEntry :=
  ⟨e, leAt e.bytes 2 2, leAt e.bytes 4 2, leAt e.bytes 8 6, leAt e.bytes 16 8, natBit (leAt e.bytes 1 1) 1, x, 0, 0, none, 0, 0, 0, false⟩

/-- RUN (R414, R417): the entry joins the run queue, or completes with E_STATE. -/
def execRun (r : RingId) (s : State) : Host.Outcome State Fault Refusal :=
  .next (match s.headEntry r.val 1 with
    | none => s
    | some e =>
      if !s.awake then s
      else
        let s := s.dropEntry
        let x := s.cycleOf e.count
        let q := e.run x
        let c := s.runCause q (s.firstOpen x)
        if c ≠ 0 then s.refuseRun q c else { s with host := { s.host with runs := s.host.runs ++ [q] } })

/-- The cause with which a SNAPSHOT_SHIP is refused, 0 where it is not (R417). -/
def State.snapCause (s : State) : Nat :=
  if s.stopped then 12
  else if s.boot.image.isNone || s.releasing then 1
  else if s.host.sweep.isSome then 10
  else match s.upd with | some u => if u.shadows.isEmpty then 11 else 0 | none => 11

/-- SNAPSHOT_SHIP (R416): a sweep is accepted, or refused. -/
def execSnapshotShip (r : RingId) (s : State) : Host.Outcome State Fault Refusal :=
  .next (match s.headEntry r.val 3 with
    | none => s
    | some e =>
      if !s.awake then s
      else
        let s := s.dropEntry
        let c := s.snapCause
        if c ≠ 0 then s.refuse e Ev.state c
        else
          let w : Sweep := ⟨e, leAt e.bytes 2 2, beNat (bytesAt e.bytes 48 16), leAt e.bytes 4 2, leAt e.bytes 6 2, false, false, 0, 0, [], 0⟩
          { s with host := { s.host with sweep := some w } })

/-! ### The command queue (R422, R423, R427) -/

/-- Bytes of a packet in the queue, its first word included. -/
def Packet.bytes (p : Packet) : Nat := 4 + 4 * p.words.length

/-- Free bytes of the command queue. -/
def State.cmdSpace (s : State) : Nat := 1024 - s.host.packets.foldl (fun n p => n + p.bytes) 0

/-- R427: an access to a queue whose pointer copies disagree empties it; the host is told once. -/
def State.cmdCheck (s : State) : State :=
  if !s.host.cmdBad then s
  else
    let s : State := { s with host := { s.host with packets := [], cmdBad := false } }
    (s.groomEvent Ev.queuePtr (queueDetail 1)).ack 0xFFFF 8

/-- The packet that is being written, the last one. -/
def State.openPacket (s : State) : Option Packet :=
  match s.host.packets.getLast? with | some p => if p.sealed_ then none else some p | none => none

def State.setLast (s : State) (p : List Packet) : State :=
  { s with host := { s.host with packets := s.host.packets.dropLast ++ p } }

/-- MBX_CMD_DATA_WRITE (R422, R427): a word enters the queue; the first after a push reserves the length word. A write that finds no
room is held on the link: it does not enter yet. -/
def execMbxCmdDataWrite (v : Word) (s : State) : Host.Outcome State Fault Refusal :=
  .next (if !s.awake then s
    else
      let s := s.cmdCheck
      match s.openPacket with
      | some p => if s.cmdSpace < 4 then s else s.setLast [{ p with words := p.words ++ [v.toNat] }]
      | none =>
        if s.cmdSpace < 8 then s
        else { s with host := { s.host with packets := s.host.packets ++ [⟨[v.toNat], 0, false⟩] } })

/-- The tag and opcode of a packet (R423). -/
def Packet.tag (p : Packet) : Nat := natBits (p.words.headD 0) 31 16

def Packet.opcode (p : Packet) : Nat := natBits (p.words.headD 0) 7 0

/-- MBX_CMD_PUSH (R422): the packet ends; one of a wrong length is discarded and acknowledged with code 2. -/
def execMbxCmdPush (v : Word) (s : State) : Host.Outcome State Fault Refusal :=
  .next (if !s.awake || !natBit v.toNat 0 then s
    else
      let s := s.cmdCheck
      match s.openPacket with
      | none => s
      | some p =>
        if 12 ≤ p.bytes ∧ p.bytes ≤ 256 then s.setLast [{ p with len := p.bytes, sealed_ := true }]
        else (s.setLast []).ack p.tag 2)

/-- The command that the groom runs next, where none is running: its packet. -/
def State.nextCmd (s : State) : Option Packet :=
  if s.far.change.isSome || s.host.nvmeTag.isSome then none
  else match s.host.packets with | p :: _ => if p.sealed_ then some p else none | [] => none

def State.dropCmd (s : State) : State := { s with host := { s.host with packets := s.host.packets.drop 1 } }

/-- NOP_COMMAND (R423, R424): completes at once; also what becomes of an unknown opcode. -/
def execNopCommand (s : State) : Host.Outcome State Fault Refusal :=
  .next (if !s.awake then s
    else
      let s := s.cmdCheck
      match s.nextCmd with
      | some p =>
        if p.opcode = 1 ∨ p.opcode = 2 then s
        else s.dropCmd.ack p.tag (if p.opcode ≠ 0 then 1 else if p.len ≠ 12 then 2 else 0)
      | none => s)

/-- Whether a far entry has a kind above 3, or bits that should be zero (R424 code 6). -/
def badFarEntry (e : List Byte) : Bool := decide (3 < leAt e 0 1) || decide (3 < leAt e 1 1) || decide (leAt e 6 2 ≠ 0)

/-- FAR_MAP (R298, R423, R424): a change of the far table is accepted, or refused with a code. -/
def execFarMap (s : State) : Host.Outcome State Fault Refusal :=
  .next (if !s.awake then s
    else
      let s := s.cmdCheck
      match s.nextCmd with
      | some p =>
        if p.opcode ≠ 1 then s
        else
          let s := s.dropCmd
          let w (i : Nat) : Nat := p.words.getD (i - 1) 0
          let first := w 2
          let count := w 3
          let addr := w 4 + 2 ^ 32 * w 5
          if p.len ≠ 24 ∨ count = 0 ∨ 65536 < count then s.ack p.tag 2
          else
            match s.boot.image with
            | none => s.ack p.tag 3
            | some im =>
              if (match im.far with | some (_, n) => n | none => 0) < first + count then s.ack p.tag 4
              else
                let (s, bs, lost, un) := s.readMem addr (16 * count) s.cyc
                if un || lost.any id then s.ack p.tag 5
                else
                  let es := (List.range count).map fun k => bytesAt bs (16 * k) 16
                  if es.any badFarEntry then s.ack p.tag 6
                  else { s with far := { s.far with change := some ⟨first, es, p.tag⟩ } }
      | none => s)

/-- MBX_HDB_CLEAR (R424): a write of MBX_HDB; with bit 0 clear, the next command completes. -/
def execMbxHdbClear (v : Word) (s : State) : Host.Outcome State Fault Refusal :=
  .next (if s.awake then (s.writeReg A.mbxHdb v.toNat).showAck else s)

/-- MBX_HDB_MASK_WRITE (R425): a set bit whose mask is cleared sends the message. -/
def execMbxHdbMaskWrite (v : Word) (s : State) : Host.Outcome State Fault Refusal :=
  .next (if !s.awake then s
    else
      let old := s.reg A.mbxHdbMask
      let s := s.writeReg A.mbxHdbMask v.toNat
      let now := s.reg A.mbxHdbMask
      if (List.range 32).any fun i => natBit old i && !natBit now i && s.bit A.mbxHdb i then s.msix (s.field A.mbxCfg 10 0) else s)

/-! ### BAR2 (R281, R282, R290, R403 to R405) -/

/-- The size of BAR2 (R402), as Resizable BAR holds it: 1 GiB to 2 TiB. -/
def State.bar2Size (s : State) : Nat := 2 ^ s.host.pci.bar2

/-- The module address of a BAR2 offset (R403). -/
def State.bar2Addr (s : State) (off : Nat) : Nat := s.field A.glbBar2Window 10 0 * 2 ^ 30 / s.bar2Size * s.bar2Size + off

/-- R281: a BAR2 access names an unassigned address. -/
def State.bar2Unassigned (s : State) : State :=
  if s.bit A.glbHostErr 28 then s else (s.setBit A.glbHostErr 28).event Ev.hbmUnassigned srcGateLogic s.cyc []

/-- A read through BAR2 is served (R281, R290, R403). -/
def State.serveBar2 (s : State) (off len : Nat) : State :=
  let a := s.bar2Addr off
  let n := min len (2 ^ 41 - a)
  let (s, bs, lost, un) := s.readMem a n s.cyc
  let s := if un then s.bar2Unassigned else s
  s.emit (.bar2Data (((bs.zip lost).map fun p => if p.2 then 0xFF else p.1) ++ zeroBytes (len - n)))

/-- BAR2_READ (R403, R405): a read of HBM. It is served at once, or waits while the stacks are in self-refresh. -/
def execBar2Read (off len : Nat) (s : State) : Host.Outcome State Fault Refusal :=
  .next (if !s.awake then s
    else if s.clocked then s.serveBar2 off len
    else { s with host := { s.host with bar2 := s.host.bar2 ++ [⟨off, len, s.cyc⟩] } })

/-- BAR2_READ_TIMEOUT (R405): a read that has waited for 1 ms completes with Completer Abort. -/
def execBar2ReadTimeout (s : State) : Host.Outcome State Fault Refusal :=
  .next (match s.host.bar2 with
    | r :: t =>
      let s := s.at_ (r.at_ + 1750000)
      (({ s with host := { s.host with bar2 := t } } : State).setBit A.glbHostErr 30).event Ev.bar2Timeout srcGateLogic s.cyc []
        |>.emit .bar2Abort
    | [] => s)

/-- Whether a BAR2 write to a module address takes effect (R282, R298, R404). -/
def State.bar2Takes (s : State) (a : Nat) : Bool :=
  match s.boot.image with
  | none => true
  | some im => match im.regionOf a with | some r => r.hostWrite && decide (r.purpose ≠ 7) | none => false

/-- BAR2_WRITE (R403, R404). -/
def execBar2Write (off : Nat) (data : List Byte) (s : State) : Host.Outcome State Fault Refusal :=
  .next (if !s.awake then s
    else
      let a := s.bar2Addr off
      let n := min data.length (2 ^ 41 - a)
      let (s, _, denied, un) := (partsOf a n).foldl (fun (acc : State × List Byte × Bool × Bool) p =>
        let (s, rest, denied, un) := acc
        let bs := rest.take p.2
        if s.bar2Takes p.1 then (s.writeMem p.1 s.cyc bs false, rest.drop p.2, denied, un)
        else (s, rest.drop p.2, true, un || (s.locate p.1).isNone)) (s, data.take n, false, false)
      let s := if un then s.bar2Unassigned else s
      if !denied then s
      else
        let s := s.bump A.glbHostErr 15 0 1
        if s.bit A.glbHostErr 31 then s else (s.setBit A.glbHostErr 31).event Ev.bar2Denied srcGateLogic s.cyc [])

/-! ### Far reads from host memory (R300) -/

/-- HOST_READ_COMPLETION (R300): the data of a far piece arrives from host memory. -/
def execHostReadCompletion (tag : Nat) (data : List Byte) (ok : Bool) (s : State) : Host.Outcome State Fault Refusal :=
  .next (match s.far.reads.find? fun r => decide (r.kind = 1 ∧ r.tagNo = tag) with
    | some r =>
      if ok then s.deliverFar r (bytesAt data 0 r.len)
      else { s with far := { s.far with reads := s.far.reads.filter fun q => q.tagNo ≠ tag } }
    | none => s)

/-! ### The auxiliary port (R434 to R436) -/

/-- A command that fails (R436): a far piece gets nothing, a promotion stops, a securing write fails its destination. -/
def State.nvmeFail (s : State) (c : NvmeCmd) : State :=
  match c.use with
  | .far i id => { s with far := { s.far with reads := s.far.reads.filter fun r => !(decide (r.kind = 2) && r.stall == i && r.id == id) } }
  | .promote p =>
    match s.far.frameOf p with
    | some k => if (s.far.frame k).state = .promoting then { s with far := s.far.setFrame k .empty } else s
    | none => s
  | .secure d => s.destFail d 2
  | .restore => s

/-- A command that ends well: a far piece takes its part of the block. -/
def State.nvmeDone (s : State) (c : NvmeCmd) (data : List Byte) : State :=
  match c.use with
  | .far i id =>
    match s.far.reads.find? fun r => decide (r.kind = 2 ∧ r.stall = i ∧ r.id = id) with
    | some r => s.deliverFar r (bytesAt data r.addr r.len)
    | none => s
  | _ => s

/-- NVME_COMPLETION (R436): a command completes with a status. -/
def execNvmeCompletion (cid : Nat) (status : BitVec 15) (data : List Byte) (s : State) : Host.Outcome State Fault Refusal :=
  .next (match s.host.nvme.find? fun c => c.cid = cid with
    | none => s
    | some c =>
      let s : State := { s with host := { s.host with nvme := s.host.nvme.filter fun k => k.cid ≠ cid } }
      if status = 0 then s.nvmeDone c data
      else
        let s := s.groomEvent Ev.nvmeError (leBytes 2 status.toNat ++ leBytes 2 c.qid ++ leBytes 2 (c.cid % 65536) ++ leBytes 1 c.op ++
          zeroBytes 1 ++ leBytes 8 c.lba)
        s.nvmeFail c)

/-- Every command in flight fails. -/
def State.nvmeFailAll (s : State) : State :=
  let l := s.host.nvme
  l.foldl State.nvmeFail { s with host := { s.host with nvme := [] } }

/-- AUX_LINK_DOWN (R436). -/
def execAuxLinkDown (s : State) : Host.Outcome State Fault Refusal :=
  .next (if !s.awake || !s.host.auxUp then s
    else
      let s := s.cross cdcAux 0
      let s : State := { s with host := { s.host with auxUp := false, auxReady := false } }
      ((s.setField A.glbAuxStatus 31 30 0).groomEvent Ev.auxLinkDown []).nvmeFailAll)

/-- AUX_LINK_READY (R424, R435, R436): the link is up and the queues are created again, or are not; an NVME_RESET completes. -/
def execAuxLinkReady (ok : Bool) (s : State) : Host.Outcome State Fault Refusal :=
  .next (if !s.awake then s
    else
      let s := s.cross cdcAux 0
      let s : State := { s with host := { s.host with auxUp := ok, auxReady := ok } }
      let s := s.setField A.glbAuxStatus 31 30 (if ok then 3 else 0)
      match s.host.nvmeTag with
      | some t => ({ s with host := { s.host with nvmeTag := none } } : State).ack t (if ok then 0 else 7)
      | none => s)

/-- NVME_RESET (R423, R435): the device is enumerated afresh; the command completes when its queues are created again. -/
def execNvmeReset (s : State) : Host.Outcome State Fault Refusal :=
  .next (if !s.awake then s
    else
      let s := s.cmdCheck
      match s.nextCmd with
      | some p =>
        if p.opcode ≠ 2 then s
        else if p.len ≠ 12 then s.dropCmd.ack p.tag 2
        else
          let s := s.dropCmd.nvmeFailAll
          let s : State := { s with host := { s.host with auxReady := false, nvmeTag := some p.tag } }
          s.setField A.glbAuxStatus 30 30 0
      | none => s)

/-- AUX_DEVICE_MEMORY_REQUEST (R434): the controller reads or writes module memory. What it reads where a byte is withheld or
unassigned is free. -/
def execAuxDeviceMemoryRequest (addr len : Nat) (data : Option (List Byte)) (s : State) : Host.Outcome State Fault Refusal :=
  .next (if !s.awake || !s.host.auxUp then s
    else
      match data with
      | some bs => if 2 ^ 41 < addr + bs.length then s.emit .auxUnsupported else s.writeMem addr s.cyc bs false
      | none =>
        if 2 ^ 41 < addr + len then s.emit .auxUnsupported
        else
          let (s, bs) := s.readFree addr len s.cyc
          s.emit (.auxData bs))

end Sys2Proof.Machine
end

