-- ==== Sys2Proof/Machine/Loader.lean ====
section
/-!
DEFINITION. The loader (14): the checks of an image in their order (R438 to R446 and the rules that they name), and admission (R447,
R448).
-/
namespace Sys2Proof.Machine

/-! ### What a check finds -/

/-- A failure of a check: refusal code, section table entry or 0xFFFF, the item that CFG_REFUSAL_AT holds; none where the spec does
not fix which it is. -/
structure Found where
  code : Nat
  sec : Nat
  item : Option Nat
  deriving DecidableEq, Repr

/-- An entry of the section table (R439). -/
structure SecEntry where
  kind : Nat
  index : Nat
  off : Nat
  len : Nat
  zeros : Bool
  deriving DecidableEq, Repr

/-! ### Header and section table (R438 to R440) -/

/-- R438, code 0x0101: `len` is CFG_IMG_LEN. -/
def headerCheck (bs : List Byte) (len : Nat) : Option Found :=
  let bad (at_ : Nat) : Option Found := some ⟨0x0101, 0xFFFF, some at_⟩
  let l := leAt bs 8 8
  if leAt bs 0 4 ≠ 0x52534D45 then bad 0
  else if leAt bs 4 2 ≠ 1 then bad 4
  else if leAt bs 6 2 = 0 ∨ 4096 < leAt bs 6 2 then bad 6
  else if l ≠ len ∨ l % 64 ≠ 0 ∨ l < 4096 ∨ 2 ^ 31 < l then bad 8
  else none

/-- The section table. -/
def sectionTable (bs : List Byte) : List SecEntry :=
  (List.range (leAt bs 6 2)).map fun i =>
    let o := 64 + 32 * i
    ⟨leAt bs o 2, leAt bs (o + 2) 2, leAt bs (o + 8) 8, leAt bs (o + 16) 8, decide (leAt bs (o + 4) 4 = 0 ∧ leAt bs (o + 24) 8 = 0)⟩

/-- R440: the least and greatest count of each kind, and the greatest index. -/
def sectionKinds : List (Nat × Nat × Nat × Nat) :=
  [(0x01, 1, 256, 65535), (0x02, 1, 1, 0), (0x03, 1, 576, 65535), (0x04, 1, 255, 254), (0x05, 8, 8, 7), (0x06, 0, 1, 0), (0x07, 1, 1, 0),
    (0x08, 0, 256, 255), (0x09, 0, 1, 0), (0x0A, 0, 1, 0), (0x0B, 1, 1, 0), (0x0C, 0, 1, 0), (0x0D, 1, 1, 0), (0x0E, 0, 1, 0)]

/-- Whether entry e may follow the entries before it in an image of length l (R439, R440). -/
def entryFits (l : Nat) (tab : List SecEntry) (before : List SecEntry) (e : SecEntry) : Bool :=
  e.zeros && decide (e.off % 64 = 0) && decide (64 + 32 * tab.length ≤ e.off) && decide (e.off + e.len ≤ l - 1024) &&
    (match sectionKinds.find? fun k => k.1 = e.kind with
      | some k => decide (e.index ≤ k.2.2.2) && decide ((before.filter fun d => d.kind = e.kind).length < k.2.2.1)
      | none => false) &&
    before.all fun d => !(decide (d.kind = e.kind) && decide (d.index = e.index)) &&
      (decide (e.off + e.len ≤ d.off) || decide (d.off + d.len ≤ e.off))

/-- R439, R440, code 0x0102. -/
def tableCheck (l : Nat) (tab : List SecEntry) : Option Found :=
  match (List.range tab.length).find? fun i => match tab[i]? with | some e => !entryFits l tab (tab.take i) e | none => false with
  | some i => some ⟨0x0102, i, some i⟩
  | none =>
    if sectionKinds.all fun k => decide (k.2.1 ≤ (tab.filter fun e => e.kind = k.1).length) then none
    else some ⟨0x0102, 0xFFFF, some tab.length⟩

/-- The section table entry of the nth section of a kind; 0xFFFF where there is none. -/
def secAt (tab : List SecEntry) (kind n : Nat) : Nat :=
  let l := (List.range tab.length).filter fun i => match tab[i]? with | some e => decide (e.kind = kind) | none => false
  l.getD n 0xFFFF

/-- The bytes of the sections of a kind, in table order. -/
def secBytes (bs : List Byte) (tab : List SecEntry) (kind : Nat) : List (Nat × List Byte) :=
  (tab.filter fun e => e.kind = kind).map fun e => (e.index, bytesAt bs e.off e.len)

/-! ### Signature (R441, R442) -/

/-- The digest of a trailer's key. -/
def keyDigest (trailer : List Byte) : List Byte := sha256 (bytesAt trailer 0 388)

/-- The security version of the running firmware copy. -/
def Flash.version (f : Flash) : Nat := ((f.copies[f.running]?).join).getD 0

/-- Codes 0x0103 to 0x0105. -/
def State.signCheck (s : State) (bs : List Byte) (l : Nat) : Option Found :=
  let t := bytesAt bs (l - 1024) 1024
  if !s.flash.keys.contains (some (keyDigest t)) then some ⟨0x0103, 0xFFFF, some 0⟩
  else if beNat (bytesAt t 384 4) ≠ 65537 ∨ !rsaVerify (bytesAt t 0 384) (bytesAt t 640 384) (bytesAt bs 0 (l - 1024)) then
    some ⟨0x0104, 0xFFFF, some 0⟩
  else
    let v := s.flash.version
    if v < leAt bs 20 4 then some ⟨0x0105, 0xFFFF, some v⟩ else none

/-! ### Field values (code 0x0201) -/

/-- R491: the POWER section, from its bytes. -/
def powerOf (bs : List Byte) : PowerSec := ⟨leAt bs 0 2, leAt bs 2 2, leAt bs 4 1, (List.range 18).map fun i => leAt bs (8 + 4 * i) 4⟩

/-- R491: the first byte offset of the POWER section at which a field is out of its range. -/
def powerBad (bs : List Byte) : Option Nat :=
  let p := powerOf bs
  if p.budget = 0 ∨ 4000 < p.budget then some 0
  else if p.ramp = 0 ∨ 200 < p.ramp then some 2
  else if p.tol = 0 ∨ 64 < p.tol then some 4
  else ([5, 6, 7] ++ (List.range 48).map (· + 80)).find? fun i => decide (leAt bs i 1 ≠ 0)

/-- R23: a map entry that names a stall of another aisle. -/
def Image.mapBad (im : Image) : Bool :=
  im.map.zipIdx.any fun p => match p.1 with | some n => decide (n / 20 ≠ p.2 % 72 / 18) | none => false

/-- R440: a logical stall is listed in two profiles, or is none of the 576. -/
def Image.profileBad (im : Image) (n : Nat) : Bool :=
  match im.profiles[n]? with
  | some p =>
    let earlier := ((im.profiles.take n).map fun q => q.logicals).flatten
    !decide p.logicals.Nodup || p.logicals.any fun l => decide (576 ≤ l) || earlier.contains l
  | none => false

/-- R278: a field of a region record holds an illegal value. -/
def Region.bad (r : Region) : Bool :=
  decide (r.base % 2097152 ≠ 0) || decide (r.size % (2048 * r.ways) ≠ 0) || decide (r.stackBase % 2097152 ≠ 0) || decide (2 < r.kind) ||
    decide (7 < r.purpose) || decide (2 ^ 41 < r.base + r.size) ||
    (match r.kind with | 0 => decide (32 ≤ r.place) | 1 => decide (8 ≤ r.place) | _ => decide (r.place ≠ 0)) ||
    (!(decide (1 ≤ r.purpose) && decide (r.purpose ≤ 3)) && (decide (r.kblocks ≠ 0) || decide (r.ncols ≠ 0)))

/-- R234: a field of a stream descriptor holds an illegal value, or a byte written as zero does not. -/
def sdBad (d : List Byte) : Bool :=
  decide (d.length ≠ 32) || decide (sdMemBase d % 64 ≠ 0) || decide (leAt d 18 3 % 64 ≠ 0) || decide (2 ^ 22 ≤ leAt d 18 3) ||
    decide (32 ≤ leAt d 21 1) || decide (4 ≤ leAt d 22 1) || decide (leAt d 29 3 ≠ 0)

/-- R265: an entry of a pony destination table holds an illegal value. -/
def ponyBad (e : List Byte) : Bool :=
  let kind := leAt e 0 1
  decide (e.length ≠ 16) || decide (2 < kind) || decide (leAt e 1 1 ≠ 0) || decide (leAt e 10 6 ≠ 0) || decide (leAt e 4 6 % 4 ≠ 0) ||
    (decide (kind = 1) && (decide (576 ≤ leAt e 2 2) || decide (spdSize ≤ leAt e 4 6)))

/-- R233, R234, R239, R265: a field of a stall profile holds an illegal value. -/
def Profile.bad (p : Profile) : Bool :=
  (p.descs.any fun d => decide (64 ≤ d.1) || sdBad d.2) || (p.progs.any fun g => decide (32 ≤ g.1)) || decide (p.pony.length ≠ 16) ||
    p.pony.any ponyBad || decide (3 < p.shape)

/-- R37: a field of a serving slice outside its range. -/
def Slice.bad (l : Slice) : Bool := l.serving && (decide (64 ≤ l.cls) || decide (l.capacity = 0) || decide (256 < l.capacity))

/-- R363, R365, R379, R380, R382, R393: a field of the FABRIC section holds an illegal value. -/
def Fabric.bad (fb : Fabric) : Bool :=
  (List.range 4).any (fun d => decide (256 < fb.dim d) || decide (fb.dim d ≤ fb.coord.getD d 0)) || decide (8192 < fb.size) ||
    decide (8 ≤ fb.paddock) || fb.modes.any (fun m => decide (2 < m)) || decide (2 < fb.tickSource) || decide (fb.size ≤ fb.master) ||
    decide (256 < fb.windows.length) || decide (1024 < fb.bindings.length) || decide (15 < fb.cases.length) ||
    fb.windows.any fun w => decide (8 ≤ w.rights) || decide (1 < w.op) || decide (1 < w.target) || decide (w.base % 64 ≠ 0) ||
      decide (w.size % 64 ≠ 0) || (decide (w.target = 1) && decide (576 ≤ w.stall))

/-- R219: a barrier table outside its ranges: entries, their numbers, scopes, members, occurrences and commit flags. -/
def Plan.barsBad (p : Plan) : Bool :=
  decide (256 < p.bars.length) || !decide (p.bars.map fun b => b.id).Nodup || p.bars.any fun b =>
    decide (256 ≤ b.id) || decide (b.releases.length = 0 ∨ 65535 < b.releases.length) || (b.commit && !b.module) ||
      (b.members.any fun l => decide (576 ≤ l)) || (!b.module && b.members.any fun l => decide (l / 72 ≠ b.members.headD 0 / 72))

/-- R207, R314, R315: a field of the UPDATE section holds an illegal value. -/
def UpdSec.bad (u : UpdSec) : Bool :=
  decide (4096 < u.records.length) || u.initial.any (fun f => decide (4 < f)) ||
    u.records.any fun r => decide (4096 ≤ r.pgroup) || decide (64 ≤ r.fmtEntry)

/-- Code 0x0201. -/
def Image.fieldCheck (im : Image) (bs : List Byte) (tab : List SecEntry) : List Found :=
  let some_ (b : Bool) (kind n : Nat) : List Found := if b then [⟨0x0201, secAt tab kind n, none⟩] else []
  (im.plans.zipIdx.map fun p => some_ (p.1.slices.any Slice.bad || p.1.barsBad || !p.1.transferRecs.all transferForm) 1 p.2).flatten ++
    some_ im.mapBad 2 0 ++
    ((List.range im.profiles.length).map fun n => some_ (im.profileBad n) 3 n).flatten ++
    (im.profiles.zipIdx.map fun p => some_ p.1.profile.bad 3 p.2).flatten ++
    some_ (im.regions.any Region.bad || decide (256 < im.regions.length) || !im.regionRecs.all regionForm) 7 0 ++
    some_ (match im.update with | some u => u.bad || !u.recs.all updForm | none => false) 9 0 ++
    some_ (match im.ckpt with | some c => !c.destRecs.all destForm | none => false) 0x0A 0 ++
    some_ im.fabric.bad 0x0B 0 ++
    (match secBytes bs tab 0x0D with
      | p :: _ => match powerBad p.2 with | some o => [⟨0x0201, secAt tab 0x0D 0, some o⟩] | none => []
      | [] => [])

/-! ### The stall map (R22, R23, R27) -/

/-- R23, first pass: stalls placed so far, by slot, from the stalls that the image names. -/
def placeNamed (good : List Nat) : List (Option Nat) → List Nat → List (Option Nat)
  | [], _ => []
  | some p :: t, used =>
    if good.contains p && !used.contains p then some p :: placeNamed good t (p :: used) else none :: placeNamed good t used
  | none :: t, used => none :: placeNamed good t used

/-- R23, second pass: the slots left open take the lowest free stalls. -/
def placeOpen : List (Option Nat) → List Nat → List (Option Nat)
  | [], _ => []
  | some p :: t, free => some p :: placeOpen t free
  | none :: t, f :: free => some f :: placeOpen t free
  | none :: t, [] => none :: placeOpen t []

/-- R23: the physical stalls of the 18 logical stalls of aisle j. In an aisle with fewer than 18 good stalls, a slot at or above their
number for which the image names a good stall is placed by the first pass, although R27 calls those slots unmapped: the model follows R23
(log 128). -/
def State.aisleMap (s : State) (im : Image) (j : Nat) : List (Option Nat) :=
  let good := (aisleStalls j).filter fun i => !s.safe.fenced.contains i
  let named := (List.range 18).map fun k => ((im.map[18 * j + k]?).join).map fun n => j / 4 * 80 + n
  let first := placeNamed good named []
  placeOpen first (good.filter fun i => !first.contains (some i))

/-- R23: the whole map, by logical stall. -/
def State.stallMap (s : State) (im : Image) : List (Option Nat) := ((List.range 32).map fun j => s.aisleMap im j).flatten

/-- Code 0x0202. -/
def State.mapCheck (s : State) (im : Image) (tab : List SecEntry) : List Found :=
  let m := s.stallMap im
  (im.plans.zipIdx.map fun p => (p.1.names.filter fun l => (m.getD l none).isNone).map fun l =>
    (⟨0x0202, secAt tab 1 p.2, some l⟩ : Found)).flatten

/-! ### Regions (R277, R278, R280) -/

/-- The stacks that share a region. -/
def Region.dies (r : Region) : List Nat :=
  match r.kind with | 0 => [r.place] | 1 => (List.range 4).map (4 * r.place + ·) | _ => List.range 32

/-- The length of a region's share in a stack. -/
def Region.share (r : Region) : Nat := r.size / r.ways

/-- Whether two regions overlap, in module addresses or in a stack. -/
def Region.meets (r q : Region) : Bool :=
  (decide (r.base < q.base + q.size) && decide (q.base < r.base + r.size)) ||
    (decide (r.stackBase < q.stackBase + q.share) && decide (q.stackBase < r.stackBase + r.share) && r.dies.any q.dies.contains)

/-- Whether n bytes from module address a lie in regions; fuel bounds the regions. -/
def Image.covered (im : Image) : Nat → Nat → Nat → Bool
  | 0, _, n => decide (n = 0)
  | fuel + 1, a, n =>
    if n = 0 then true
    else match im.regionOf a with
      | some r => im.covered fuel (r.base + r.size) (n - (r.base + r.size - a))
      | none => false

/-- The regions that other sections name by index, with the section table entry of each (R280). A shadow that an image does not declare is
no name. -/
def Image.namedRegions (im : Image) (tab : List SecEntry) : List (Nat × Nat) :=
  (match im.update with
    | some u => ([u.groupTable, u.histTable] ++ u.shadows ++ (u.records.map fun r => [r.aRegion, r.bRegion, r.gRegion, r.jRegion]).flatten).map
        fun k => (secAt tab 9 0, k)
    | none => []) ++
    (match im.ckpt with | some c => (c.journalHdr :: c.shadow).map fun k => (secAt tab 0x0A 0, k) | none => [])

/-- R296: the far table lies in a region of purpose 7 that holds its entries, at most 1,048,576 of them. -/
def Image.farTableBad (im : Image) (k n : Nat) : Bool :=
  match im.regions[k]? with
  | some r => decide (r.purpose ≠ 7) || decide (1048576 < n) || decide (r.size < 16 * n)
  | none => true

/-- The lines of HBM that a plan's transfer records and buffers name (R280, R374, R446); a carrier sum at its widest. -/
def Plan.hbmRanges (p : Plan) (_im : Image) : List (Nat × Nat) :=
  (p.transfers.map fun t =>
    let n := 64 * (if t.kind = 1 then 193 * t.count else if t.kind = 2 ∧ t.op = 2 then 2 * t.count else t.count)
    if t.recv then [] else (t.source, if t.kind = 2 then 64 * t.count else n) :: (if t.kind = 2 then [(t.place, n)] else [])).flatten ++
    p.buffers.filterMap fun b => if b.1.isNone then some b.2 else none

/-- Code 0x0203. -/
def State.regionCheck (s : State) (im : Image) (bs : List Byte) (tab : List SecEntry) : List Found :=
  let sec := secAt tab 7 0
  let all (a n : Nat) : Bool := im.covered (im.regions.length + 1) a n
  (im.regions.zipIdx.filter fun p =>
      let r := p.1
      decide (2 ^ 36 < r.stackBase + r.share) || (r.dies.any fun j => (s.stack j).failed) ||
        (decide (1 ≤ r.purpose) && decide (r.purpose ≤ 3) && (decide (r.kblocks = 0) || decide (r.ncols = 0))) ||
        (im.regions.take p.2).any fun q => r.meets q).map (fun p => (⟨0x0203, sec, some p.2⟩ : Found)) ++
    ((secBytes bs tab 8).zipIdx.filter fun t =>
      match im.regions[t.1.1]? with | some r => decide (r.size < t.1.2.length) | none => true).map
        (fun t => (⟨0x0203, secAt tab 8 t.2, some t.1.1⟩ : Found)) ++
    ((im.namedRegions tab).filter fun q => decide (im.regions.length ≤ q.2)).map (fun q => (⟨0x0203, q.1, some q.2⟩ : Found)) ++
    (match im.far with
      | some (k, n) => if im.farTableBad k n then [(⟨0x0203, sec, some k⟩ : Found)] else []
      | none => []) ++
    (im.plans.zipIdx.filter fun p => (p.1.hbmRanges im).any fun a => !all a.1 a.2).map (fun p => (⟨0x0203, secAt tab 1 p.2, none⟩ : Found)) ++
    (if im.fabric.windows.any fun w => decide (w.target = 0) && !all w.base w.size then [⟨0x0203, secAt tab 0x0B 0, none⟩] else []) ++
    (if im.serve.any fun a => !all a.inBase a.inSlot || !all a.outBase a.outSlot then [⟨0x0203, secAt tab 0x0C 0, none⟩] else [])

/-! ### Function tables and modes (R83, R152, R226) -/

/-- A byte as a signed number. -/
def signedByte (bs : List Byte) (i : Nat) : Int := (bs.getD i 0).toInt

/-- Code 0x0204. -/
def Image.tableCheck (im : Image) (tab : List SecEntry) : List Found :=
  (im.ftab.zipIdx.filter fun p => [0, 1].any fun i => decide (signedByte p.1 i < -126 ∨ 96 < signedByte p.1 i)).map
      (fun p => (⟨0x0204, secAt tab 6 0, some p.2⟩ : Found)) ++
    (im.ymprogs.zipIdx.filter fun p => decide (32 < p.1.pairs.length)).map fun p => (⟨0x0204, secAt tab 5 p.2, some 32⟩ : Found)

/-- R83: a program's word that selects FP32 mode. -/
def selectsFp (w : Insn) : Bool := decide (bitsOf w 63 56 = 0x26) && decide (bitsOf w 40 40 = 1)

/-- Code 0x0205. -/
def Image.modeCheck (im : Image) (tab : List SecEntry) : List Found :=
  (im.profiles.zipIdx.filter fun p => p.1.profile.fp).map (fun p => (⟨0x0205, secAt tab 3 p.2, p.1.logicals.head?⟩ : Found)) ++
    (im.overlays.zipIdx.map fun p => (p.1.images.filter fun g => g.2.any selectsFp).map fun g =>
      (⟨0x0205, secAt tab 4 p.2, some g.1⟩ : Found)).flatten

/-! ### Plans (R30 to R41, R131, R293, R294, R446, R490, R493) -/

/-- The word at an index of an overlay's bank image for a logical stall; none where the overlay holds no bank image for it. -/
def Image.wordOf (im : Image) (overlay l index : Nat) : Option Insn :=
  match im.overlays.find? fun o => o.num = overlay with
  | some o => (o.images.find? fun g => g.1 = l).map fun g => g.2.getD index 0#64
  | none => none

/-- Code 0x0301: R30, R32, R224. -/
def Image.timeCheck (im : Image) (tab : List SecEntry) : List Found :=
  let p0 := match im.plans.head? with | some p => p.period | none => 0
  (im.plans.zipIdx.map fun q =>
    let p := q.1
    let sec := secAt tab 1 q.2
    (if p.period < 5000 ∨ 62500000 < p.period ∨ p.period ≠ p0 then [(⟨0x0301, sec, none⟩ : Found)] else []) ++
      (p.progs.filterMap fun g => match im.wordOf g.overlay g.logical g.entry with
        | some w => if deltaOf w < 2 then some ⟨0x0301, sec, some (7 + deltaOf w)⟩ else none
        | none => none) ++
      p.ymEntries.zipIdx.filterMap fun e => match (im.ymprogs[e.2]?).bind fun y => y.prog[e.1]? with
        | some w => if deltaOf w < 2 then some ⟨0x0301, sec, some (deltaOf w)⟩ else none
        | none => none).flatten

/-- R37, R38: whether slice n of a plan is badly declared. -/
def Plan.sliceBad (p : Plan) (serves : Bool) (n : Nat) : Bool :=
  match p.slices[n]? with
  | none => false
  | some l =>
    let clash (q : Slice) : Bool := decide (l.start < q.fin) && decide (q.start < l.fin) && l.members.any q.members.contains
    (l.serving && (!serves || decide (l.start ≤ 7 * l.cutOff) || decide (l.delivery ≤ l.start) || decide (l.fin < l.delivery))) ||
      decide (7 * p.period < l.fin + 513) || (l.serving && l.preempt && decide (l.fin - 262 < l.start + 262)) || (p.slices.take n).any clash

/-- Code 0x0302. -/
def Image.sliceCheck (im : Image) (tab : List SecEntry) : List Found :=
  (im.plans.zipIdx.map fun q => ((List.range q.1.slices.length).filter fun n => q.1.sliceBad (!im.serve.isEmpty) n).map fun n =>
    (⟨0x0302, secAt tab 1 q.2, some n⟩ : Found)).flatten

/-- Whether the refresh slots of a quarter, rising, keep R293 and R294. -/
def slotsKeep (last : Nat) : List Nat → Bool
  | [] => false
  | [a] => decide (last - 1750 ≤ a) && decide (a + 384 ≤ last)
  | a :: b :: t => decide (b ≤ a + 3400) && slotsKeep last (b :: t)

/-- Code 0x0305. -/
def Image.refreshCheck (im : Image) (tab : List SecEntry) : List Found :=
  (im.plans.zipIdx.map fun p => ((List.range 128).filter fun k =>
    let l := ((p.1.refresh.filter fun r => decide (r.1 = k / 4 ∧ r.2.1 = k % 4)).map fun r => r.2.2).foldl (fun acc x => insertNat x acc) []
    !(decide (l.headD 1651 ≤ 1650) && slotsKeep (7 * p.1.period) l)).map fun k => (⟨0x0305, secAt tab 1 p.2, some k⟩ : Found)).flatten

/-- Code 0x0306: R131. -/
def Image.gapCheck (im : Image) (tab : List SecEntry) : List Found :=
  (im.plans.zipIdx.map fun p => (p.1.gaps.filter fun g => decide (2048 < g.2.2)).map fun g =>
    (⟨0x0306, secAt tab 1 p.2, some g.2.1⟩ : Found)).flatten

/-- Edges that can lie on a cycle or between cycles: each round drops those into a buffer without successors or out of one without
predecessors. -/
def pruneEdges : Nat → List (Nat × Nat) → List (Nat × Nat)
  | 0, l => l
  | n + 1, l => pruneEdges n (l.filter fun e => (l.any fun f => decide (f.1 = e.2)) && l.any fun f => decide (f.2 = e.1))

/-- R446: whether a graph of buffers has a cycle. -/
def hasCycle (l : List (Nat × Nat)) : Bool :=
  let l := l.filter fun e => decide (e.1 ≠ e.2)
  !(pruneEdges l.length l).isEmpty

/-- The length of energy interval i of a plan, in ns (R490). -/
def Plan.spanNs (p : Plan) (i : Nat) : Nat := 4 * min 256 (p.period - 256 * i)

/-- Whether each interval of a plan lies above the budget (R493). -/
def Plan.above (p : Plan) (budget : Nat) : List Bool := p.energy.zipIdx.map fun e => decide (budget * p.spanNs e.2 < e.1)

/-- The first interval at which a run of intervals above budget, begun with n, exceeds 9,765. -/
def longRun : List Bool → Nat → Nat → Option Nat
  | [], _, _ => none
  | true :: t, n, i => if 9765 ≤ n then some i else longRun t (n + 1) (i + 1)
  | false :: t, _, i => longRun t 0 (i + 1)

/-- Intervals above budget at the end of a plan. -/
def trailing (l : List Bool) : Nat := (l.reverse.takeWhile id).length

/-- R493: the first shot cycle at which a plan's energy offends, `model` holding those at which the model does; `carry` is the longest run
that a plan of the image ends with. -/
def Plan.energyBad (p : Plan) (budget carry : Nat) (model : List Nat) : List (Option Nat) :=
  let above := p.above budget
  let tooHigh := ((List.range p.energy.length).find? fun i => decide (4800 * p.spanNs i < p.energy.getD i 0)).map (1792 * ·)
  let run := (longRun above carry 0).map (1792 * ·)
  let all := tooHigh.toList ++ run.toList ++ model
  (if all.isEmpty then [] else [some (all.foldl min (all.headD 0))]) ++
    (if budget * (4 * p.period) < p.energy.foldl (· + ·) 0 then [none] else [])

/-! ### Fabric (R360, R364, R393) -/

/-- Code 0x0601: a torus port whose recorded peer is not the one that the cabling rule names. -/
def State.peerCheck (s : State) (im : Image) (tab : List SecEntry) : List Found :=
  let fb := im.fabric
  ((List.range 20).filter fun p =>
    let h := portHop p
    isTorus p && decide (fb.modes.getD p 0 ≠ 0) && decide (1 < fb.dim h.1) &&
      (match (s.port p).peer with | some q => decide (q ≠ (fb.idOf (fb.next fb.me h), farPort p)) | none => false)).map fun p =>
    (⟨0x0601, secAt tab 0x0B 0, some p⟩ : Found)

/-- The depth of the tick tree under every case (R393). -/
def Fabric.depth (fb : Fabric) : Nat :=
  ((List.range (fb.cases.length + 1)).map fun k => ((List.range fb.size).map fun i => (fb.route k i fb.master).length).foldl max 0).foldl max 0

/-- Code 0x0602: R393. -/
def Image.treeCheck (im : Image) (tab : List SecEntry) : List Found :=
  let p := match im.plans.head? with | some p => p.period | none => 0
  if 14 * p < 875 * im.fabric.depth + 350 + 448 then [⟨0x0602, secAt tab 0x0B 0, none⟩] else []

/-- Code 0x0603: R360. -/
def Image.caseCheck (im : Image) (tab : List SecEntry) : List Found :=
  let ok := match im.ckpt with | some c => c.dests.any fun d => d.active && decide (d.kind = 2 ∨ d.kind = 3) | none => false
  if im.fabric.cases.isEmpty || ok then [] else [⟨0x0603, secAt tab 0x0B 0, some 1⟩]

/-! ### Training and securing (R314 to R318, R337, R341, R344, R345) -/

/-- R316: whether record r breaks a rule of its own. -/
def Image.recordBad (im : Image) (r : UpdRecord) : Bool :=
  match im.regions[r.aRegion]?, im.regions[r.bRegion]?, im.regions[r.gRegion]?, im.regions[r.jRegion]? with
  | some a, some b, some g, some j =>
    let groups (q : Region) : Nat := q.kblocks * q.ncols
    decide (r.n = 0) || decide (a.purpose ≠ 1 ∨ b.purpose ≠ 2 ∨ g.purpose ≠ 3 ∨ j.purpose ≠ 4) ||
      decide (b.kind ≠ 0 ∨ g.kind ≠ 0 ∨ j.kind ≠ 0 ∨ g.place ≠ b.place ∨ j.place ≠ b.place) ||
      decide (groups a < r.aFirst + r.n ∨ groups b < r.bFirst + r.n ∨ groups g < r.bFirst + r.n) ||
      (List.range (2112 * r.n / 2048 + 2)).any fun u =>
        let x := a.base + min (2112 * r.aFirst + 2048 * u) (2112 * (r.aFirst + r.n) - 1)
        decide ((a.locate x).1 ≠ b.place)
  | _, _, _, _ => true

/-- R316: whether two records hold a group in common; plane G has the group numbers of plane B. -/
def UpdRecord.meets (r q : UpdRecord) : Bool :=
  (decide (r.aRegion = q.aRegion) && decide (r.aFirst < q.aFirst + q.n) && decide (q.aFirst < r.aFirst + r.n)) ||
    ((decide (r.bRegion = q.bRegion) || decide (r.gRegion = q.gRegion)) && decide (r.bFirst < q.bFirst + q.n) &&
      decide (q.bFirst < r.bFirst + r.n))

/-- Code 0x0701. -/
def Image.updCheck (im : Image) (tab : List SecEntry) : List Found :=
  match im.update with
  | none => []
  | some u =>
    let sec := secAt tab 9 0
    (u.records.zipIdx.filter fun p => im.recordBad p.1 || (u.records.take p.2).any p.1.meets).map (fun p => (⟨0x0701, sec, some p.2⟩ : Found)) ++
      (if u.shadows.any fun k => match im.regions[k]? with | some r => decide (r.purpose ≠ 6 ∨ r.kind ≠ 0) | none => true
        then [(⟨0x0701, sec, none⟩ : Found)] else []) ++
      (u.policy.zipIdx.filter fun p => decide (p.1.allowed % 32 = 0) || decide (63 < p.1.tail)).map fun p => (⟨0x0701, sec, some p.2⟩ : Found)

/-- R337: a field of the policy outside its range. -/
def CkptPolicy.bad (c : CkptPolicy) : Bool :=
  decide (1 < c.mode) || decide (c.maxLost = 0 ∨ 65535 < c.maxLost) || decide (c.window = 0 ∨ 8760 < c.window) ||
    decide (2 ^ 32 ≤ c.priorRate) || decide (c.initCost = 0 ∨ 2 ^ 32 ≤ c.initCost) || decide (c.initStep = 0 ∨ 2 ^ 32 ≤ c.initStep) ||
    decide (c.momentEvery = 0 ∨ 65535 < c.momentEvery) || decide (c.threshold = 0 ∨ 65535 < c.threshold) ||
    decide (c.depth < 2 ∨ 4096 < c.depth ∨ 2 ^ c.depth.log2 ≠ c.depth) || decide (4 < c.dests.length) ||
    c.dests.any fun d => decide (3 < d.kind) || decide (d.size % 4096 ≠ 0)

/-- R345: a journal region smaller than its slots. -/
def Image.journalSmall (im : Image) (u : UpdSec) (depth : Nat) : Bool :=
  im.regions.zipIdx.any fun p =>
    let k := (u.records.filter fun r => r.jRegion = p.2).foldl (fun n r => n + r.n) 0
    decide (p.1.size < depth * k * 256)

/-- R344: a securing shadow that cannot hold every group of its stack. -/
def Image.shadowSmall (im : Image) (u : UpdSec) (c : CkptPolicy) : Bool :=
  (List.range 32).any fun j =>
    let n := (u.records.filter fun r => match im.regions[r.bRegion]? with | some b => decide (b.place = j) | none => false).foldl
      (fun n r => n + r.n) 0
    decide (0 < n) && (match c.shadow[j]? with
      | some k => match im.regions[k]? with
        | some r => decide (r.purpose ≠ 6 ∨ r.kind ≠ 0 ∨ r.place ≠ j) || decide (r.size < n * 12352)
        | none => true
      | none => true)

/-- R337, R346: a header ring that is no region of purpose 4, or too small for D slots; tensor numbers that are not one for each record. -/
def Image.ringBad (im : Image) (c : CkptPolicy) : Bool :=
  (match im.regions[c.journalHdr]? with
    | some r => decide (r.purpose ≠ 4) || decide (r.size < c.depth * 262208)
    | none => true) ||
    decide (c.tensorMap.length ≠ (match im.update with | some u => u.records.length | none => 0)) || c.tensorMap.any fun t => decide (65536 ≤ t)

/-- Code 0x0702. -/
def Image.ckptCheck (im : Image) (tab : List SecEntry) : List Found :=
  match im.ckpt with
  | none => []
  | some c =>
    let bad := c.bad || im.ringBad c || (decide (c.mode = 0) && decide (1 < im.fabric.size)) ||
      (match im.update with | some u => im.journalSmall u c.depth || im.shadowSmall u c | none => false)
    if bad then [⟨0x0702, secAt tab 0x0A 0, none⟩] else []

/-! ### Admission (R23, R211, R447, R448) -/

/-- What a stall is given at admission: its profile, the initial overlay in bank 0, the initial format table in both copies; its descriptors are
zero (R106), its column buffers empty (R176), its banks on (R190). -/
def Stall.admitted (t : Stall) (im : Image) (l : Option Nat) : Stall :=
  let fmt : Sparse Nat := match im.update with | some u => ssetList zeroNat [] 0 u.initial | none => []
  let t := { t with
    logical := none
    seed := im.seed
    aud := { t.aud with strict := im.strict }
    tack := { t.tack with active := false, pending := false, tag0 := 0xFF, tag1 := 0xFF, fmt := fmt, fmtPend := fmt }
    vec := { t.vec with valid := [], reload := false, badRegs := t.vec.badRegs.filter fun r => !r.isEntry }
    ope := { t.ope with descs := [], colBufs := [] }
    spd := t.spd.wakeAll }
  match l with
  | none => t
  | some l =>
    let p := im.profileOf l
    let t := t.carry l p.profile
    ({ t with tack := t.tack.load false (im.bankImage p.overlay (some l)) p.overlay } : Stall).fillSlots im p.profile

/-- The stalls take the map, and each substitution is reported (R23). -/
def State.admitStalls (s : State) (im : Image) : State :=
  let m := s.stallMap im
  let carrier (i : Nat) : Option Nat := ((List.range 18).map (aisleOf i * 18 + ·)).find? fun l => m.getD l none = some i
  let s := s.goodStalls.foldl (fun s i => s.modStall i fun t => t.admitted im (carrier i)) s
  let s : State := { s with safe := { s.safe with map := ssetList noStall [] 0 (m.map fun o => o.getD 640), moves := [] } }
  m.zipIdx.foldl (fun s p =>
    match p.1, (im.map[p.2]?).join with
    | some i, some n =>
      if i % 80 = n then s
      else s.groomEvent Ev.stallRemap (leBytes 2 p.2 ++ [BitVec.ofNat 8 (p.2 / 72), BitVec.ofNat 8 n, BitVec.ofNat 8 (i % 80)])
    | _, _ => s) s

/-- R224, R226: the yardmasters' programs and table stores. -/
def State.admitBarns (s : State) (im : Image) : State :=
  (List.range 8).foldl (fun s b =>
    let y := im.ymprogs.getD b ⟨[], []⟩
    s.setBarn b { s.barn b with
      prog := ssetList zeroTack [] 0 (y.prog.map fun w => (⟨w, 0⟩ : TackWord)), pairs := y.pairs, state := .idle, loads := [], sel := none,
      dma := none }) s

/-- R380, R382: windows and bindings as the image opens them. -/
def Fab.admitted (f : Fab) (fb : Fabric) : Fab :=
  { f with
    windows := fb.windows.zipIdx.foldl (fun m p => if p.1.openAt then sset zeroWindow m p.2 ⟨true, 1, none⟩ else m) []
    bindings := fb.bindings.zipIdx.foldl (fun m p => sset zeroBinding m p.2 ⟨p.1.1, p.1.2.1, p.1.2.2, none⟩) []
    held := []
    landed := []
    injected := []
    sums := []
    exchs := []
    msgs := []
    synced := false
    aligned := true }

/-- Registers that hold a digest, 4 bytes each. -/
def State.putDigest (s : State) (a : Nat) (d : List Byte) : State :=
  (List.range 8).foldl (fun s n => s.setReg (a + 4 * n) (leAt d (4 * n) 4)) s

/-- R365, R503: the ports that the image disables are powered down; an active cable that is present gets its supply. -/
def State.admitPorts (s : State) (im : Image) : State :=
  ((List.range 20).filter fun p => decide (im.fabric.modeOf p = 0)).foldl (fun (s : State) p =>
    s.setPort p { s.port p with up := false, training := false, replay := [], swapHeld := none, peer := none }) s
    |> fun s => ((List.range 20).filter fun p => decide (im.fabric.modeOf p = 2) && (s.port p).cable).foldl (fun (s : State) p =>
      s.emit (.pin (pinCable p) true)) s

/-- R447, R448: the image is admitted. -/
def State.admitImage (s : State) (im : Image) (bs : List Byte) : State :=
  let tab := sectionTable bs
  let power := match secBytes bs tab 0x0D with | p :: _ => powerOf p.2 | [] => powerOf []
  let im : Image := { im with seed := leAt bs 24 4, power := power, tables := secBytes bs tab 8 }
  let conf := ((tab.filter fun e => decide (e.kind = 7 ∨ e.kind = 9 ∨ e.kind = 0x0A)).map fun e => bytesAt bs e.off e.len).flatten
  let period := match im.plans.head? with | some p => p.period | none => 0
  let own := decide (im.fabric.tickSource = 0)
  let first := (s.now + 250000 + 3) / 4 * 4 % 2 ^ 64
  let s : State := { s with
    boot := { s.boot with image := some im, releasing := 0, mode := .run }
    shot := { s.shot with epoch := if own then some first else none, begun := false, begin_ := 0, plan := none, nextNo := 0, anns := [], missAt := none,
                          noTicks := false }
    train := { Train.reset with mark := s.train.mark, diverged := s.train.diverged }
    ckpt := { Ckpt.reset with admitted := s.now, rings := s.ckpt.rings }
    fab := s.fab.admitted im.fabric
    far := { s.far with frames := im.loftFrames.map fun _ => .empty, hand := 0, change := none, reads := [], asks := [] } }
  let s := im.tables.foldl (fun s t => s.writeMem (s.regionBase t.1) s.cyc t.2 false) s
  let s := ((s.admitStalls im).admitBarns im).admitPorts im
  let s := match im.far with
    | some (_, n) => (List.range n).foldl (fun (s : State) p =>
        if farStays (s.farEntry p) then { s with far := { s.far with asks := s.far.asks ++ [(Holder.groom, p)] } } else s) s
    | none => s
  let s := (s.putDigest A.cfgDigest (sha256 bs)).putDigest A.cfgConfDigest (sha256 conf)
  let s := (s.setReg A.glbShotPeriod period).putBit A.glbTickStatus 16 own
  let s := match im.ckpt with | some c => s.setField A.ckpCtrl 31 16 c.maxLost | none => s
  (s.putBit A.cfgStatus 30 true).setField A.cfgStatus 1 0 1

/-- The staged bytes; a byte that HBM withholds, or that does not exist, is a free value (R290). -/
def State.stagedBytes (s : State) (a n : Nat) : State × List Byte :=
  let (s, bs, lost, _) := s.readMem a n s.cyc
  let (s, k) := s.fresh
  (s, ((bytesAt bs 0 n).zip ((lost ++ List.replicate n true).take n)).zipIdx.map fun p => if p.1.2 then Config.withheld k p.2 else p.1.1)

/-! ### Release (R449) -/

/-- R449 step 1: the RUNs of the queue that have not started complete with E_STATE cause 1. -/
def State.dropQueued (s : State) : State :=
  let l := s.host.runs.filter fun q => !q.started
  let s : State := { s with host := { s.host with runs := s.host.runs.filter fun q => q.started } }
  l.foldl (fun s q => s.refuseRun q 1) s

/-- No shot has begun since admission: there is no closing margin to wait for. -/
def State.neverBegan (s : State) : Bool := !s.shot.begun && decide (s.shot.begin_ = 0)

/-- CFG_RELEASE (R449): a host write of CFG_CTRL.release. -/
def execCfgRelease (v : Word) (s : State) : Host.Outcome State Fault Refusal :=
  .next (if !s.awake || !natBit v.toNat 30 then s
    else if s.boot.image.isNone || s.releasing || s.ckpt.restore.isSome || !s.ckpt.repairs.isEmpty || !s.fencesOpen then
      s.setBit A.cfgStatus 27
    else
      let s := s.putBit A.cfgStatus 27 false
      let s := ({ s with boot := { s.boot with releasing := 1 } } : State).putBit A.cfgStatus 29 true
      let s := s.dropQueued
      if s.neverBegan && s.canRelease then s.doRelease else s)

/-- The registers of the host interface that a Function Level Reset returns to their reset values (R449). -/
def hostRegs : List Nat :=
  [A.glbBar2Window, A.mbxCmdSpace, A.mbxAck, A.mbxHdb, A.mbxHdbMask, A.mbxCfg] ++
    ((List.range 64).map fun n => [ringReg A.glbRingBaseLo n, ringReg A.glbRingBaseHi n, ringReg A.glbRingCfg n]).flatten

/-- R509: a Function Level Reset takes a RUN whose shot fails, or whose failed shot waits for its rerun: the step record keeps that. -/
def State.markReset (s : State) : State :=
  match s.host.runs with
  | q :: _ =>
    if q.started && ((s.shot.begun && s.shot.plan.isSome && (s.shot.failed || s.safe.abort.isSome)) || s.safe.rerun)
    then s.markFailed q.step else s
  | [] => s

/-- FUNCTION_LEVEL_RESET (R449). -/
def execFunctionLevelReset (s : State) : Host.Outcome State Fault Refusal :=
  .next (if !s.awake then s
    else if s.crossing cdcHost 1 then s.cross cdcHost 1
    else
      let s := s.cross cdcHost 1
      let s := if s.shot.begun && s.shot.gone.isNone && s.safe.abort.isNone && !s.bit A.glbAudit 0 then s.orderAbort s.cyc else s
      let s := s.endSweep false
      let s := s.markReset
      let h := s.host
      let s : State := { s with
        host := { HostIf.reset with
          rings := h.rings.foldl (fun m p => sset zeroRing m p.1
            { p.2 with state := .disabled, cause := 0, base := 0, size := 4, tail := 0, fetched := 0, written := 0, head := 0
                       outstanding := 0, pass := p.2.pass + 1 }) []
          nvme := h.nvme
          auxUp := h.auxUp
          auxReady := h.auxReady
          reqNo := h.reqNo
          cid := h.cid
          reqs := h.reqs.filter fun q => q.host.isNone
          snapBad := h.snapBad }
        far := { s.far with change := none }
        safe := { s.safe with rerun := false, reruns := 0 } }
      let s := hostRegs.foldl (fun s a => s.setReg a (regReset a)) s
      let s := s.setField A.glbResetCause 2 0 5
      if s.boot.image.isNone then s
      else
        let s := ({ s with boot := { s.boot with releasing := 2 } } : State).putBit A.cfgStatus 29 true
        if s.neverBegan && s.canRelease then s.doRelease else s)

end Sys2Proof.Machine
end

