-- ==== Sys2Proof/Machine/StallVec.lean ====
section
/-!
DEFINITION. The VEC instructions as commands (05).
-/
namespace Sys2Proof.Machine

/-- VEC_OP (R140): the stall's next instruction, of opcode 0x30, issues. -/
def execVecOp (st : StallId) (s : State) : Host.Outcome State Fault Refusal :=
  .next (s.issue st.val (selOp 0x30) (fun t c w k => issueVec (shapeOp w) t c w k))

/-- VEC_CVT (R143): the stall's next instruction, of opcode 0x31, issues. -/
def execVecCvt (st : StallId) (s : State) : Host.Outcome State Fault Refusal :=
  .next (s.issue st.val (selOp 0x31) (fun t c w k => issueVec (shapeCvt w) t c w k))

/-- VEC_FUNC (R153): the stall's next instruction, of opcode 0x32, issues. -/
def execVecFunc (st : StallId) (s : State) : Host.Outcome State Fault Refusal :=
  .next (s.issue st.val (selOp 0x32) issueFunc)

/-- VEC_DFUNC (R153): the stall's next instruction, of opcode 0x33, issues. -/
def execVecDfunc (st : StallId) (s : State) : Host.Outcome State Fault Refusal :=
  .next (s.issue st.val (selOp 0x33) issueDfunc)

/-- VEC_MASKF (R156): the stall's next instruction, of opcode 0x34, issues. -/
def execVecMaskf (st : StallId) (s : State) : Host.Outcome State Fault Refusal :=
  .next (s.issue st.val (selOp 0x34) (fun t c w k => issueVec (shapeMaskf w) t c w k))

/-- VEC_MASKB (R156): the stall's next instruction, of opcode 0x35, issues. -/
def execVecMaskb (st : StallId) (s : State) : Host.Outcome State Fault Refusal :=
  .next (s.issue st.val (selOp 0x35) (fun t c w k => issueVec (shapeMaskb w) t c w k))

/-- VEC_DROP (R159): the stall's next instruction, of opcode 0x36, issues. -/
def execVecDrop (st : StallId) (s : State) : Host.Outcome State Fault Refusal :=
  .next (s.issue st.val (selOp 0x36) (fun t c w k => issueVec (shapeDrop w) t c w k))

/-- VEC_LADD (R147): the stall's next instruction, of opcode 0x37, issues. -/
def execVecLadd (st : StallId) (s : State) : Host.Outcome State Fault Refusal :=
  .next (s.issue st.val (selOp 0x37) (fun t c w k => issueVec (shapeLadd w) t c w k))

/-- VEC_PACK (R148): the stall's next instruction, of opcode 0x38, issues. -/
def execVecPack (st : StallId) (s : State) : Host.Outcome State Fault Refusal :=
  .next (s.issue st.val (selOp 0x38) (fun t c w k => issueVec (shapePack w) t c w k))

/-- VEC_UNPACK (R149): the stall's next instruction, of opcode 0x39, issues. -/
def execVecUnpack (st : StallId) (s : State) : Host.Outcome State Fault Refusal :=
  .next (s.issue st.val (selOp 0x39) (fun t c w k => issueVec (shapeUnpack w) t c w k))

/-- VEC_CADD (R150): the stall's next instruction, of opcode 0x3A, issues. -/
def execVecCadd (st : StallId) (s : State) : Host.Outcome State Fault Refusal :=
  .next (s.issue st.val (selOp 0x3A) (fun t c w k => issueVec (shapeCadd w) t c w k))

/-- VEC_HIST (R160): the stall's next instruction, of opcode 0x3B, issues. -/
def execVecHist (st : StallId) (s : State) : Host.Outcome State Fault Refusal :=
  .next (s.issue st.val (selOp 0x3B) (fun t c w k => issueVec (shapeHist w) t c w k))

/-- VEC_HSTORE (R161): the stall's next instruction, of opcode 0x3C, issues. -/
def execVecHstore (st : StallId) (s : State) : Host.Outcome State Fault Refusal :=
  .next (s.issue st.val (selOp 0x3C) issueHstore)

/-- VEC_SETA (R135): the stall's next instruction, of opcode 0x3D, issues. -/
def execVecSeta (st : StallId) (s : State) : Host.Outcome State Fault Refusal :=
  .next (s.issue st.val (selOp 0x3D) issueSeta)

/-- VEC_SETK (R139): the stall's next instruction, of opcode 0x3E, issues. -/
def execVecSetk (st : StallId) (s : State) : Host.Outcome State Fault Refusal :=
  .next (s.issue st.val (selOp 0x3E) issueSetk)

/-- VEC_SETR (R157): the stall's next instruction, of opcode 0x3F, issues. -/
def execVecSetr (st : StallId) (s : State) : Host.Outcome State Fault Refusal :=
  .next (s.issue st.val (selOp 0x3F) issueSetr)

/-- LANE_SELFTEST (R164, R166): the checker compares the lane whose turn it is. `agree`: whether the two agree. A fenced stall is powered
down (R24). -/
def execLaneSelftest (st : StallId) (agree : Bool) (s : State) : Host.Outcome State Fault Refusal :=
  .next (if s.clocked && !(s.stall st.val).fenced then s.onStall st.val (max s.cyc (s.stall st.val).clk) fun t => t.laneSelftest s.cyc agree else s)

end Sys2Proof.Machine
end

