-- ==== Sys2Proof/Machine/Replay.lean ====
section
/-!
DEFINITION. The loader's replay of a plan (R217, R219, R249, R261 and the rules that say what the loader replays): the image is admitted
in a state that is thrown away, one shot of the plan runs there up to its closing margin, command by command in the order of the cycles,
and what it does is recorded.
-/
namespace Sys2Proof.Machine

/-- What the replay records. Cycles are core cycles of the replay. -/
inductive Act where
  /-- an instruction with its effect: physical and logical stall, cycle, tack index, word as patched, slot groups of the tile it names -/
  | issue (stall logical c tack : Nat) (w : Insn) (groups : List Nat)
  /-- broadcasts of an accumulate: logical stall, first cycle, cycles, dual rate -/
  | cast (logical first cycles : Nat) (dual : Bool)
  /-- a yardmaster's instruction: barn, cycle, index, word -/
  | yard (barn c index : Nat) (w : Insn)
  /-- a stream piece: logical stall, serial mode, piece; the pieces of the emit that it begins, where they are more than 16 or than the pace -/
  | piece (logical : Nat) (serial : Bool) (f : Flying) (cut : Nat)
  /-- a run of a context that ends with an await that was not met -/
  | stuck (logical ctx : Nat)
  /-- a pony transfer: logical stall, writer name, issue, delivery as accepted, destination, length -/
  | pony (logical wid issue fin : Nat) (dest : PonyDest) (len : Nat)
  /-- a barrier occurrence is released: entry, occurrence, cycle -/
  | release (id k c : Nat)
  /-- a member's write issued before its arrival that is not complete at the release (R223): tack index of the arrival, cycle of the release -/
  | unfinished (logical tack c : Nat)
  /-- bytes that an access reads: physical stall, cycle, writer name and issue of the operation, ranges -/
  | reads (stall c wid issue : Nat) (segs : List (Nat × Nat))
  /-- bytes written: physical stall, cycle of completion, writer name of the operation, issue, range -/
  | writes (stall c wid issue addr len : Nat)
  /-- scratchpad lines whose ports are claimed in a cycle -/
  | lines (stall c n : Nat)
  /-- a read served by a column buffer whose block has been written since the fetch (R177) -/
  | stale (logical c : Nat)
  deriving DecidableEq, Repr

/-- The replay under way: the state, and what has been recorded, newest first. -/
structure Trial where
  s : State
  acts : List Act

def Trial.note (r : Trial) (l : List Act) : Trial := { r with acts := l.reverse ++ r.acts }

/-- The state that a command leaves. -/
def stateOf (s : State) : Host.Outcome State Fault Refusal → State
  | .next t => t
  | _ => s

/-- The effect of a stall instruction by its opcode (R199). -/
def effectOf (e : StallEnv) (st : Stall) (c : Nat) (w : Insn) (tack : Nat) : Issue :=
  match opcodeOf w with
  | 0x00 => issueNop st c w tack
  | 0x01 => issueEnd st c w tack
  | 0x02 => issueWait st c w tack
  | 0x03 => issueJump st c w tack
  | 0x04 => issueLoop st c w tack
  | 0x05 => issueCall st c w tack
  | 0x06 => issueRet st c w tack
  | 0x07 => issueSubst st c w tack
  | 0x08 => issueCsave st c w tack
  | 0x09 => issueCrest st c w tack
  | 0x10 => issueBar e st c w tack
  | 0x20 => issueAcc st c w tack
  | 0x21 => issueLddesc st c w tack
  | 0x22 => issuePreload st c w tack
  | 0x23 => issueDrain st c w tack
  | 0x24 => issueSave st c w tack
  | 0x25 => issueRestore st c w tack
  | 0x26 => issueShape st c w tack
  | 0x27 => issueKeepwarm st c w tack
  | 0x30 => issueVec (shapeOp w) st c w tack
  | 0x31 => issueVec (shapeCvt w) st c w tack
  | 0x32 => issueFunc st c w tack
  | 0x33 => issueDfunc st c w tack
  | 0x34 => issueVec (shapeMaskf w) st c w tack
  | 0x35 => issueVec (shapeMaskb w) st c w tack
  | 0x36 => issueVec (shapeDrop w) st c w tack
  | 0x37 => issueVec (shapeLadd w) st c w tack
  | 0x38 => issueVec (shapePack w) st c w tack
  | 0x39 => issueVec (shapeUnpack w) st c w tack
  | 0x3A => issueVec (shapeCadd w) st c w tack
  | 0x3B => issueVec (shapeHist w) st c w tack
  | 0x3C => issueHstore st c w tack
  | 0x3D => issueSeta st c w tack
  | 0x3E => issueSetk st c w tack
  | 0x3F => issueSetr st c w tack
  | 0x40 => issueCopy st c w tack
  | 0x41 => issueFill st c w tack
  | 0x42 => issuePwr st c w tack
  | 0x50 => issueStart e st c w tack
  | 0x51 => issueHalt st c w tack
  | 0x52 => issuePony (fun _ => false) st c w tack
  | 0x53 => issueSetctx st c w tack
  | _ => .illegal

/-! ### What a stall does of itself in a cycle -/

/-- R182: the gather entries that drain in cycle x: scheduled before unscheduled, oldest first, together where they claim no port
position at different words. -/
def Stall.drainAll (st : Stall) (x : Nat) : Stall :=
  let due := st.spd.gather.filter fun g => g.valid.any id && decide (g.since ≤ x)
  let order := (due.filter fun g => g.pool = 1) ++ due.filter fun g => g.pool ≠ 1
  (order.foldl (fun (acc : Stall × List (Nat × Nat)) g =>
    let secs := squash ((g.valid.zipIdx.filter fun p => p.1).map fun p => (g.line * 64 + p.2) / 8)
    let pos := secs.map fun k => let q := placeOf st.spd.tmap k; (q.1 * 8 + q.2.1, q.2.2)
    if pos.any fun p => acc.2.any fun q => decide (q.1 = p.1 ∧ q.2 ≠ p.2) then acc
    else
      let st' := acc.1.gatherDrain x g.line
      (st', if st'.spd.gather = acc.1.spd.gather then acc.2 else acc.2 ++ pos)) (st, [])).1

/-- R186 to R188: banks that go down, stay on or come up in cycle x. -/
def Stall.powerStep (st : Stall) (x : Nat) : Stall :=
  (List.range 32).foldl (fun st b =>
    match sget bankOn st.spd.banks b with
    | .waiting _ => (st.bankDown x b).bankCancel x b
    | .waking _ => st.bankWakeDone x b
    | _ => st) st

/-- Nothing happens in the stall of itself. -/
def Stall.settled (st : Stall) : Bool :=
  st.quiet && !(st.spd.gather.any fun g => g.valid.any id) &&
    st.spd.banks.all fun p => match p.2 with | .waiting _ => false | .waking _ => false | _ => true

/-- The operation that a read of cycle x belongs to, by its writer name. -/
def Stall.readerWid (st : Stall) : Reader → Nat
  | .vec i => match st.vec.now[i]? with | some v => v.wid | none => 0
  | .copy _ => match st.spd.copy with | some c => c.wid | none => 0
  | .piece id => match st.str.flying.find? fun f => f.id = id with | some f => f.wid | none => 0
  | .pony w => w
  | _ => 0

/-- The issue of the operation that a read of cycle x belongs to. -/
def Stall.readerIssue (st : Stall) (x : Nat) : Reader → Nat
  | .pass i _ => match st.ope.passes[i]? with | some p => p.issue | none => x
  | .move _ => match st.ope.move with | some m => m.issue | none => x
  | .vec i => match st.vec.now[i]? with | some v => v.issue | none => x
  | .copy _ => match st.spd.copy with | some c => c.issue | none => x
  | .crest _ => match st.seq.ctx with | some k => k.issue | none => x
  | .desc _ | .piece _ | .pony _ => x

/-- R177: whether a pass takes elements in cycle x from a column buffer whose block has been written since the fetch. -/
def Stall.staleRead (st : Stall) (x : Nat) : Bool :=
  st.ope.passes.any fun p =>
    let u := x - p.issue
    let hs := halvesRead p.shape (u % p.groups.length)
    let feed (f : Nat) (fd : Feed) (l : List Nat) : Bool :=
      decide (dKind fd.raw = 2) && l.any fun h => (p.stepsAt u).any fun k =>
        let s := fd.start + k
        match sget noBuf st.ope.colBufs (f * 2 + h) with
        | some b => b.stale && decide (b.fetched < x ∧ b.block = unitAddr (vecUnit fd.raw s h) ∧ b.group = s % 64 / 8)
        | none => false
    decide (u < p.cycles) && (feed 0 p.col hs.1 || feed 1 p.row hs.2)

/-- The scratchpad words that claims on sectors touch. -/
def wordsOf (tmap : Nat) (secs : List Nat) : Nat :=
  ((secs.map fun k => let q := placeOf tmap k; (q.1, q.2.2)).eraseDups).length

/-- What is recorded of a cycle of stall i. -/
def Stall.cycleActs (st : Stall) (i x : Nat) : List Act :=
  let rs := st.readsAt x
  let ws := st.spd.writes.filter fun w => w.fin = x
  let nr := wordsOf st.spd.tmap ((rs.map fun r => st.claimed r.2).flatten)
  let nw := wordsOf st.spd.tmap ((ws.map fun w => (w.cells.filter fun c => !st.inWindow c.1).map fun c => c.1 / 8).flatten)
  (rs.map fun r => Act.reads i x (st.readerWid r.1) (st.readerIssue x r.1) r.2.segs) ++ (ws.map fun w => Act.writes i x w.wid w.issue w.addr w.bytes.length) ++
    (if nr = 0 then [] else [.lines i (x + 1) nr]) ++ (if nw = 0 then [] else [.lines i x nw]) ++
    (if (st.finishWrites x).staleRead x then [.stale (st.logical.getD 0) x] else [])

/-- A stall with every cycle before x complete, and what is recorded of them (newest first); fuel bounds the cycles. -/
def Stall.observe (i x : Nat) : Nat → Stall → List Act → Stall × List Act
  | 0, st, a => (st, a)
  | n + 1, st, a =>
    if x ≤ st.clk then (st, a)
    else if st.settled then ({ st with clk := x }, a)
    else
      let st := (st.drainAll st.clk).powerStep st.clk
      Stall.observe i x n st.tick ((st.cycleActs i st.clk).reverse ++ a)

/-- Stall i brought to cycle x. -/
def Trial.stallTo (r : Trial) (i x : Nat) : Trial :=
  let st := r.s.stall i
  let (st, a) := st.observe i x (x - st.clk) r.acts
  ⟨(r.s.setStall i st).flush [i], a⟩

/-- Every stall in which something goes on brought to cycle x. -/
def Trial.upTo (r : Trial) (x : Nat) : Trial :=
  let l := (r.s.stalls.filter fun p => !p.2.settled && decide (p.2.clk < x)).map fun p => p.1
  l.foldl (fun r i => r.stallTo i x) r

/-- Stall i with its next instruction fetched (R216). -/
def Trial.prime (r : Trial) (i : Nat) : Trial :=
  let st := r.s.stall i
  if !st.seq.ready then r
  else
    match st.seq.queue with
    | f :: _ =>
      if f.index = st.seq.course.index then r
      else ({ r with s := r.s.setStall i { st with seq := st.seq.refetch st.clk } } : Trial).stallTo i (st.clk + 1)
    | [] =>
      let st : Stall := if st.seq.fetchOn && decide (st.seq.fetch = st.seq.course) then st
        else { st with seq := st.seq.refetch (max st.clk st.seq.fetchAt) }
      ({ r with s := r.s.setStall i st } : Trial).stallTo i (max st.clk st.seq.fetchAt + 1)

/-! ### What happens next -/

/-- What a shot brings about. -/
inductive Due where
  | yard (barn : Nat)
  | ftab (barn : Nat)
  | sel (barn : Nat)
  | release (id : Nat)
  | arrival (stack : Nat)
  | landing (stall ctx : Nat)
  | deliver (stall : Nat)
  | accept (stall : Nat)
  | piece (stall ctx : Nat)
  | issue (stall : Nat)

/-- The cycle of the release of a barrier entry's next occurrence, once every member has arrived (R220, R268). -/
def State.releaseAt (s : State) (b : Barrier) : Option Nat :=
  let k := s.releasedOf b.id
  let l := b.members.map s.phys
  if b.releases.length ≤ k || !(l.all fun p => match p with | some i => (s.stall i).arrivedAt b.id k | none => false) then none
  else some ((l.filterMap fun p => p).foldl (fun x i => max x (s.stall i).seq.arrCycle) 0 + (if b.module then 96 else 12))

/-- What is due in the stall i that runs a program. -/
def State.dueIn (s : State) (i : Nat) : List (Nat × Due) :=
  let st := s.stall i
  let ctxs := List.range 8
  (ctxs.filterMap fun n => (st.str.firstLanding n).map fun f => (f.fin, Due.landing i n)) ++
    (match st.pony.first with | some p => [(p.fin, .deliver i)] | none => []) ++
    (match st.pony.queue with
      | p :: _ => [(max (s.stallNow i) (max p.offer (match st.pony.lastAccept with | some y => y + 1 | none => 0)), .accept i)]
      | [] => []) ++
    (ctxs.filterMap fun n =>
      let c := st.ctx n
      if c.state ≠ .active || c.endAt.isSome then none
      else match c.nextPiece (st.ctx (sdPartner c.raw)) with
        | some (_, _, x) => if match c.halted with | some h => decide (h < x) | none => false then none else some (x, Due.piece i n)
        | none => none) ++
    (match st.head with | some (_, c) => [(c, .issue i)] | none => [])

/-- What is due; at the same cycle what stands first comes first. -/
def Trial.due (r : Trial) (p : Plan) (who : List Nat) : List (Nat × Due) :=
  let s := r.s
  let barns := List.range 8
  (barns.filterMap fun b =>
      let y := s.barn b
      if decide (y.state = .running) && decide (y.index < 2048) then some (y.ref + deltaOf (sget zeroTack y.prog y.index).read.1, Due.yard b) else none) ++
    (barns.filterMap fun b => (s.barn b).loads.head?.map fun l => (l.issue + 264, Due.ftab b)) ++
    (barns.filterMap fun b => (s.barn b).sel.map fun f => (f.issue + 847, Due.sel b)) ++
    (p.bars.filterMap fun b => (s.releaseAt b).map fun x => (x, Due.release b.id)) ++
    ((List.range 32).filterMap fun j => (firstArrival (s.stack j).arrivals).map fun a => (a.at_, Due.arrival j)) ++
    (who.map s.dueIn).flatten

/-- The first of the earliest. -/
def earliest : List (Nat × Due) → Option (Nat × Due)
  | [] => none
  | d :: t => match earliest t with | some e => if e.1 < d.1 then some e else some d | none => some d

/-! ### One command of the replay -/

/-- The instruction of a yardmaster by its opcode. -/
def State.yardStep (s : State) (b : Fin 8) (w : Insn) : State :=
  stateOf s (match opcodeOf w with
    | 0xE1 => execYmEnd b s
    | 0xE2 => execYmWait b s
    | 0xE3 => execYmFtab b s
    | 0xE4 => execYmFmt b s
    | 0xE5 => execYmAnchor b s
    | _ => execYmNop b s)

/-- Whether a context's run stands at an await that is not met (R261). -/
def Stall.unmet (st : Stall) (n : Nat) : Bool :=
  let c := st.ctx n
  decide (c.state = .active) && c.endAt.isNone && !c.walk.closed &&
    (c.openNext (progEmits c.prog + 1 - c.walk.n) (st.ctx (sdPartner c.raw))).isNone

/-- The next instruction of stall i issues. -/
def Trial.doIssue (r : Trial) (i : Nat) : Trial :=
  let st := r.s.stall i
  match st.head with
  | none => r
  | some (f, c) =>
    let w := (st.patched f.word).getD f.word
    let l := st.logical.getD 0
    let s := r.s.issue i (fun _ _ => true) (effectOf (r.s.env i))
    let t := (s.stall i).seq
    let clean := decide (t.illegal = st.seq.illegal ∧ t.inconsistent = st.seq.inconsistent)
    let n := bitsOf w 43 41
    let left := decide (opcodeOf w = 0x50) && st.unmet n
    ({ r with s := s } : Trial).note ((if left then [Act.stuck l n] else []) ++
      (if clean then [.issue i l c f.index w (tileGroups st.ope.shape (bitsOf w 43 39))] else []) ++
      ((s.stall i).ope.passes.filter fun p => decide (p.issue = c) && decide (opcodeOf w = 0x20)).map fun p => Act.cast l (c + p.lat + 3) p.cycles p.dual)

/-- The next piece of a context issues. A far page counts as mapped: FAR_MAP can map it before the plan runs. -/
def Trial.doPiece (r : Trial) (i n : Nat) : Trial :=
  let s := r.s
  let st := s.stall i
  let c := st.ctx n
  match c.nextPiece (st.ctx (sdPartner c.raw)) with
  | none => r
  | some (c', body, x) =>
    let far := decide (2 ^ 47 ≤ body.mems.headD 0) && !sdWrite c.raw && body.mems.all fun m => decide (c.lo ≤ m ∧ m < c.hi)
    let s' := if far then
        let s := (s.at_ x).modStall i fun t => t.setCtx n { t.ctx n with walk := c'.walk, posts := c'.posts, iterFin := c'.iterFin }
        if (s.stall i).str.room x body.mems.length false none then s.launch i n x (sdBudget c.raw) false true none body
        else s.ctxFaultAt i n 2 30 Ev.strSlot x true
      else stateOf s (execStreamPieceIssue (Fin.ofNat 640 i) (Fin.ofNat 8 n) s)
    let m := c'.walk.pieces.length
    let cut := if c'.walk.p = 0 ∧ (16 < m ∨ emitPace c.prog < m) then m else 0
    ({ r with s := s' } : Trial).note
      (((s'.stall i).str.flying.filter fun f => f.id = st.str.nextId).map fun f => Act.piece (st.logical.getD 0) st.str.serial f cut)

/-- A read piece lands; far data arrive in time. -/
def Trial.doLanding (r : Trial) (i n : Nat) : Trial :=
  let s := r.s.modStall i fun t => match t.str.firstLanding n with
    | some f => if f.far then t.setFlying f.id fun p => some { p with data := some (p.data.getD (zeroBytes (64 * p.body.mems.length))) } else t
    | none => t
  { r with s := stateOf s (execPieceLanding (Fin.ofNat 640 i) (Fin.ofNat 8 n) true s) }

/-- The head transfer of stall i's pony queue is accepted; the loader takes no buffer as full (R268). -/
def Trial.doAccept (r : Trial) (i x : Nat) : Trial :=
  let st := r.s.stall i
  let s := r.s.acceptNext i true
  if (s.stall i).pony.queue.length = st.pony.queue.length then { r with s := s.at_ (x + 1) }
  else
    let new := (s.stall i).pony.flying.drop st.pony.flying.length
    ({ r with s := s } : Trial).note (new.map fun p =>
      Act.pony (st.logical.getD 0) p.wid p.issue p.fin (p.dest.getD (.hbm 0)) p.len)

/-- A transfer is delivered; base dies drain their pony buffers. -/
def Trial.doDeliver (r : Trial) (i : Nat) : Trial :=
  let s := stateOf r.s (execPonyDelivery (Fin.ofNat 640 i) r.s)
  { r with s := (List.range 32).foldl (fun s j =>
      (s.stack j).pony.foldl (fun s _ => stateOf s (execBaseDiePonyDrain (Fin.ofNat 32 j) s)) s) s }

/-- R223: whether a write that stall i issued before its arrival is not complete at cycle x. `others`: writer names of transfers that other
stalls send it. -/
def Stall.writesOpen (st : Stall) (x : Nat) (others : List Nat) : Bool :=
  let b := st.seq.lastCycle
  (st.str.flying.any fun f => decide (f.issue < b ∧ x < f.fin)) ||
    (st.spd.tags.any fun t => decide (t.issue ≤ b ∧ x < t.fin) && !others.contains t.wid && !st.str.flying.any fun f => f.wid = t.wid) ||
    (st.ope.flights.any fun f => decide (f.issue ≤ b ∧ x < f.lastAdd) && !f.groups.isEmpty) ||
    (match st.ope.move with
      | some m => decide (m.issue ≤ b ∧ x < (match m.kind with | .preload => m.ends | .restore => m.ends | _ => m.ends - 1))
      | none => false)

/-- A barrier occurrence is released. -/
def Trial.doRelease (r : Trial) (p : Plan) (id x : Nat) : Trial :=
  match p.bars.find? fun b => b.id = id with
  | none => r
  | some b =>
    let s := r.s
    let sent (i : Nat) : List Nat := (s.stalls.map fun q => q.2.pony.flying.filterMap fun f => match f.dest with
      | some (.stall k _) => if k = i then some f.wid else none
      | _ => none).flatten
    let open_ := (b.members.filterMap s.phys).filter fun i => (s.stall i).writesOpen x (sent i)
    ({ r with s := stateOf s (execBarrierRelease (BitVec.ofNat 8 id) s) } : Trial).note
      ((open_.map fun i => Act.unfinished ((s.stall i).logical.getD 0) (s.stall i).seq.lastIndex x) ++ [.release id (s.releasedOf id) x])

/-- What is due at cycle x happens. -/
def Trial.run (r : Trial) (p : Plan) (x : Nat) : Due → Trial
  | .yard b =>
    let y := r.s.barn b
    let w := (sget zeroTack y.prog y.index).read.1
    ({ r with s := r.s.yardStep (Fin.ofNat 8 b) w } : Trial).note [.yard b x y.index w]
  | .ftab b => { r with s := stateOf r.s (execFtabLoadEnd (Fin.ofNat 8 b) r.s) }
  | .sel b => { r with s := stateOf r.s (execFormatSelectionWrite (Fin.ofNat 8 b) r.s) }
  | .release id => r.doRelease p id x
  | .arrival j => match firstArrival (r.s.stack j).arrivals with
    | some a => { r with s := (r.s.at_ x).serveArrival j a }
    | none => r
  | .landing i n => r.doLanding i n
  | .deliver i => r.doDeliver i
  | .accept i => r.doAccept i x
  | .piece i n => r.doPiece i n
  | .issue i => r.doIssue i

/-- The replay from here to cycle `stop`: with what is due at or after it, if anything is. Fuel bounds what happens. -/
def Trial.go (p : Plan) (who : List Nat) (stop : Nat) : Nat → Trial → Trial × Option Nat
  | 0, r => (r, some stop)
  | n + 1, r =>
    let r := who.foldl Trial.prime r
    match earliest (r.due p who) with
    | none => (r.upTo stop, none)
    | some (c, d) => if stop ≤ c then (r.upTo stop, some c) else Trial.go p who stop n ((r.upTo c).run p c d)

/-! ### The shot that is replayed -/

/-- A plan as the replay runs it: no barrier commits, and none is late. -/
def Plan.tried (p : Plan) : Plan :=
  { p with
    bars := p.bars.map fun b => { b with commit := false, releases := b.releases.map fun _ => 7 * p.period }
    durations := [] }

/-- The RUN of the replay. -/
def triedRun (p : Plan) : RunEntry := ⟨⟨0, 0, 0, [], 0⟩, p.num, 1, 0, 0, false, 0, 0, 0, none, 0, 0, 0, true⟩

/-- The image admitted, with the plan's overlays in the active banks and every layer format table holding `code`, and the plan's shot
begun. Memory has no errors; its contents are those that admission leaves. -/
def State.trial (s : State) (im : Image) (bs : List Byte) (p : Plan) (code : Nat) : State :=
  let q := p.tried
  let s := ({ s with bad := [] } : State).admitImage { im with strict := false, plans := [q] } bs
  let fmt : Sparse Nat := ssetList zeroNat [] 0 (List.replicate 64 code)
  let s : State := { s with
    stalls := s.stalls.map fun t => (t.1, { t.2 with tack := { t.2.tack with fmt := fmt, fmtPend := fmt }, events := [] })
    log := { s.log with held := [] } }
  let s := p.progs.foldl (fun s g => match s.phys g.logical with
    | some i => s.modStall i fun t => { t with tack := t.tack.load t.tack.active (im.bankImage g.overlay (some g.logical)) g.overlay }
    | none => s) s
  (s.at_ ((s.cyc / 7 + 1) * 7)).beginShot ((s.cyc / 7 + 1) * 7) (some (triedRun q)) (some q)

/-- What a replay found: its first and last state, what it recorded (oldest first), and the cycle of what is due in the closing margin or
later. -/
structure Tried where
  first : State
  s : State
  acts : List Act
  late : Option Nat

/-- Whether there is anything to replay. -/
def Plan.runs (p : Plan) : Bool := !p.progs.isEmpty || !p.ymEntries.isEmpty

/-- The replay of a plan with the format code in every table entry. -/
def State.replay (s : State) (im : Image) (bs : List Byte) (p : Plan) (code : Nat) : Tried :=
  let t := s.trial im bs p code
  let (r, late) := Trial.go p.tried (p.progs.filterMap fun g => t.phys g.logical) t.marginAt (7 * p.period * 8192) ⟨t, []⟩
  ⟨t, r.s, r.acts.reverse, late⟩

end Sys2Proof.Machine
end

