-- ==== Sys2Proof/Machine/ReplayChecks.lean ====
section
/-!
DEFINITION. What the loader reads off the replay of a plan: the checks of R445 from 0x0301 to 0x0406 that need it, and what it computes of a
plan (R219, R262, R467). A finding is a refusal code and the item that CFG_REFUSAL_AT holds, none where the spec does not fix it.
-/
namespace Sys2Proof.Machine

abbrev Note := Nat × Option Nat

/-- The shot cycle of a cycle of the replay. -/
def Tried.cyc (r : Tried) (x : Nat) : Nat := x - r.first.shot.begin_

/-- The instructions of the stalls: logical stall, cycle, tack index, word, groups of the tile named. -/
def Tried.issues (r : Tried) : List (Nat × Nat × Nat × Insn × List Nat) :=
  r.acts.filterMap fun
    | .issue _ l c k w g => some (l, c, k, w, g)
    | _ => none

/-- The occurrences released: barrier entry, occurrence, cycle. -/
def Tried.released (r : Tried) : List (Nat × Nat × Nat) :=
  r.acts.filterMap fun
    | .release id k c => some (id, k, c)
    | _ => none

/-- The pieces: logical stall, serial mode, piece, and the pieces of an emit that begins with it and breaks R245. -/
def Tried.pieces (r : Tried) : List (Nat × Bool × Flying × Nat) :=
  r.acts.filterMap fun
    | .piece l b f n => some (l, b, f, n)
    | _ => none

/-! ### Events that the plan would raise -/

/-- What an event of the replay stands for: a skip (R123, R201), a claim, the gather pool, a bank or a layout (R172, R177, R183, R189), a
stream's bound, slots or program (R240, R249), a pony queue (R269), a reference outside the regions (R281). -/
def Tried.noted (r : Tried) (e : Event) : List Note :=
  let tack := match (List.range 8).find? fun b => srcYard b = e.src with
    | some b => r.s.field (barnReg A.ymErr b) 10 0
    | none => leAt e.detail 2 2
  let x := leAt e.detail 4 4
  if e.code = Ev.instrIllegal ∨ e.code = Ev.instrInconsistent ∨ e.code = Ev.tackEcc then
    [(0x0303, some tack)]
  else if e.code = Ev.spdPortConflict ∨ e.code = Ev.spdGatherFull ∨ e.code = Ev.spdBankOff ∨ e.code = Ev.spdLayout then [(0x0401, some x)]
  else if e.code = Ev.strBound ∨ e.code = Ev.strSlot ∨ e.code = Ev.strCheck then [(0x0402, some x)]
  else if e.code = Ev.ponyFull then [(0x0404, some x)]
  else if e.code = Ev.hbmUnassigned then [(0x0203, none)]
  else []

def Tried.eventNotes (r : Tried) : List Note := (r.s.log.held.map r.noted).flatten

/-! ### Time (R33, R34, R224) -/

/-- Work that is not complete when the closing margin begins. -/
def Stall.leftover (st : Stall) (x : Nat) : Bool :=
  (st.spd.tags.any fun t => decide (x ≤ t.fin)) || (st.spd.writes.any fun w => decide (x ≤ w.fin)) ||
    (st.ope.flights.any fun f => decide (x ≤ f.lastAdd)) || st.ope.move.isSome || !st.str.flying.isEmpty || !st.pony.queue.isEmpty ||
    !st.pony.flying.isEmpty || (st.spd.gather.any fun g => g.valid.any id)

/-- Code 0x0301: a stall or yardmaster of the plan has not ended, or work reaches into the closing margin. -/
def Tried.timeNotes (r : Tried) (p : Plan) : List Note :=
  let m := 7 * p.period - 512
  let at_ := r.s.marginAt
  let st (l : Nat) : Stall := match r.s.phys l with | some i => r.s.stall i | none => .reset
  let hung := p.progs.any fun g => decide ((st g.logical).seq.state ≠ .ended)
  let yards := !p.ymEntries.isEmpty && (List.range 8).any fun b => decide ((r.s.barn b).state = .running)
  let left := p.progs.any fun g => (st g.logical).leftover at_
  (match r.late with | some x => [(0x0301, some (r.cyc x))] | none => []) ++ (if hung || yards || left then [(0x0301, some m)] else [])

/-! ### Programs (R123, R211, R223, R231) -/

/-- R211: the plan names an overlay for a stall whose bank holds no end-of-shot instruction. -/
def Image.endless (im : Image) (g : Prog) : Bool :=
  match im.overlays.find? fun o => o.num = g.overlay with
  | some o => match o.images.find? fun q => q.1 = g.logical with
    | some q => !q.2.any fun w => decide (opcodeOf w = 0x01)
    | none => true
  | none => true

/-- R123, R231: uses of a descriptor earlier than 5 cycles after its LDDESC, and CSAVEs within 5 cycles of an LDDESC; `l` holds one stall's
instructions, `loads` descriptor and cycle of the LDDESCs before them. -/
def descNotes : List (Nat × Nat) → List (Nat × Nat × Nat × Insn × List Nat) → List Note
  | _, [] => []
  | loads, (_, c, k, w, _) :: t =>
    let op := opcodeOf w
    let recent (n : Nat) : Bool := loads.any fun q => decide (q.1 = n ∧ c < q.2 + 5)
    (if (op = 0x20 ∧ (recent (bitsOf w 38 36) = true ∨ recent (bitsOf w 35 33) = true)) ∨ (op = 0x08 ∧ (loads.any fun q => decide (c < q.2 + 5)) = true)
      then [(0x0303, some k)] else []) ++
      descNotes (if op = 0x21 then (bitsOf w 43 41, c) :: loads else loads) t

/-- What happens to tiles: cycle, tack index, and 0 products, 1 preload, restore or clear, 2 drain, check or save of groups; 3 the shape. -/
abbrev TileAct := Nat × Nat × Nat × List Nat

/-- The tile acts of one stall's instructions. -/
def tileActs (l : List (Nat × Nat × Nat × Insn × List Nat)) : List TileAct :=
  l.filterMap fun q =>
    let (_, c, k, w, g) := q
    match opcodeOf w with
    | 0x20 => some (c, k, 0, g)
    | 0x22 => some (c, k, 1, g)
    | 0x25 => some (c, k, 1, [0, 1, 2, 3])
    | 0x23 => some (c, k, 2, g)
    | 0x24 => some (c, k, 2, [0, 1, 2, 3])
    | 0x26 => some (c + 1, k, 3, [bitsOf w 43 42])
    | _ => none

/-- Insertion by cycle; an act of the same cycle stays before. -/
def insertTile (a : TileAct) : List TileAct → List TileAct
  | [] => [a]
  | b :: t => if a.1 < b.1 then a :: b :: t else b :: insertTile a t

/-- R123: acts that clear unchecked products, and the groups that end unchecked. A yardmaster's clear names its tile, act 4. -/
def tileNotes : Nat → List Nat → List TileAct → List Note × List Nat
  | _, dirty, [] => ([], dirty)
  | shape, dirty, (_, k, n, g) :: t =>
    let g := if n = 4 then tileGroups shape (g.headD 0) else g
    match n with
    | 0 => tileNotes shape (dirty ++ g) t
    | 2 => tileNotes shape (dirty.filter (!g.contains ·)) t
    | 3 => tileNotes (g.headD 0) dirty t
    | _ =>
      let rest := tileNotes shape (dirty.filter (!g.contains ·)) t
      (if dirty.any g.contains then (0x0303, some k) :: rest.1 else rest.1, rest.2)

/-- Code 0x0303. -/
def Tried.programNotes (r : Tried) (im : Image) (p : Plan) : List Note :=
  let clears (l : Nat) : List TileAct := r.acts.filterMap fun
    | .yard n c _ w => if n = l / 72 ∧ opcodeOf w = 0xE5 ∧ natBit (bitsOf w 30 27) (l % 72 / 18) = true then
        some (c + 7, noTack, 4, [bitsOf w 43 39]) else none
    | _ => none
  (p.progs.filter im.endless).map (fun _ => (0x0303, none)) ++
    (r.acts.filterMap fun
      | .unfinished _ k _ => some (0x0303, some k)
      | _ => none) ++
    (p.progs.map fun g =>
      let l := r.issues.filter fun q => q.1 = g.logical
      let acts := (clears g.logical).foldl (fun a x => insertTile x a) (tileActs l)
      let shape := match r.first.phys g.logical with | some i => (r.first.stall i).ope.shape | none => 0
      let tiles := tileNotes shape [] acts
      let ends := match l.getLast? with | some q => some q.2.2.1 | none => none
      descNotes [] l ++ tiles.1 ++ (if tiles.2.isEmpty then [] else [(0x0303, ends)])).flatten

/-! ### The commit point (R41, R327, R463) -/

/-- Whether a stall is in a serving slice of the plan at shot cycle x. -/
def Plan.servesAt (p : Plan) (l x : Nat) : Bool :=
  p.slices.any fun q => q.serving && q.members.contains l && decide (q.start ≤ x ∧ x ≤ q.fin)

/-- Whether an instruction is a floating-point operation of the lane checker's (R164). -/
def checkedVec (w : Insn) : Bool :=
  let op := opcodeOf w
  (decide (op = 0x30) && decide (bitsOf w 38 37 ≠ 2)) || decide (0x31 ≤ op ∧ op ≤ 0x36)

/-- The plan has a commit barrier. -/
def Plan.commits (p : Plan) : Bool := p.bars.any (·.commit)

/-- R326: a transfer record of a plan with a commit barrier that is its commit exchange. -/
def Transfer.votes (t : Transfer) : Bool := !t.recv && decide (t.kind = 2 ∧ t.op = 0 ∧ t.count = 9)

/-- R463: the shot cycle in which the detection interval of an operation that is recorded with its completion ends: logical stall, issue,
end. Floating-point VEC operations, drains and saves are judged by their issue. -/
def Tried.interval (r : Tried) : Act → Option (Nat × Nat × Nat)
  | .issue _ l c _ w _ =>
    if opcodeOf w = 0x22 then some (l, r.cyc c, r.cyc c + 67) else if opcodeOf w = 0x25 then some (l, r.cyc c, r.cyc c + 262) else none
  | .piece l _ f _ => some (l, r.cyc f.issue, r.cyc f.fin)
  | .pony l _ x f _ _ => some (l, r.cyc x, r.cyc f)
  | .writes i c _ x _ _ => (r.first.stall i).logical.map fun l => (l, r.cyc x, r.cyc c)
  | _ => none

/-- R463: the shot cycles at which a record's first frame is injected and its last frame's detection interval ends; `steps` those of an
exchange. -/
def Tried.frameSpan (r : Tried) (steps : Nat) (t : Transfer) : Nat × Nat :=
  if t.kind = 2 then (t.c, t.c + 35 * ((accLines t + 27) / 28 - 1) + 350 + 875 * steps)
  else (t.c, t.c + 35 * ((r.first.linesOf t + 27) / 28 - 1) + 700 + 1750 * t.h)

/-- Code 0x0304: `rel` the release of the commit barrier, `inj` the injection of the commit exchange. `others`: the image's other plans with
their replays; a shot of one without a commit barrier may come right before, for the same step (log 147). -/
def Tried.commitNotes (r : Tried) (p : Plan) (im : Image) (others : List (Plan × Tried)) : List Note :=
  (p.bars.filter (·.commit)).filterMap fun b =>
    match r.released.find? fun q => q.1 = b.id with
    | none => none
    | some (_, _, y) =>
      let rel := r.cyc y
      let inj := match p.transfers.find? Transfer.votes with | some t => t.c | none => rel
      let training (l x : Nat) : Bool := !p.servesAt l x
      let late := r.acts.any fun
        | .issue _ l c _ w _ =>
          let x := r.cyc c
          training l x && ((decide (opcodeOf w = 0x23 ∨ opcodeOf w = 0x24) && decide (x < rel)) ||
            (checkedVec w && decide (x < inj ∧ inj < x + 1052672)))
        | _ => false
      let open_ := r.acts.any fun a => match r.interval a with
        | some (l, x, e) => training l x && decide (x < inj ∧ inj < e)
        | none => false
      let before := others.any fun q => !q.1.commits && q.2.issues.any fun i =>
        checkedVec i.2.2.2.1 && !q.1.servesAt i.1 (q.2.cyc i.2.1) && decide (7 * q.1.period + inj < q.2.cyc i.2.1 + 1052672)
      let frames := p.transfers.any fun t => !t.votes &&
        (let e := r.frameSpan im.fabric.steps.length t
         decide (e.1 ≤ inj ∧ inj < e.2))
      if late || open_ || before || frames then some (0x0304, some b.id) else none

/-! ### Refresh, keep-warm, self-test (R131, R165, R293) -/

/-- The occupancy of a piece's pseudo-channel (R285): stack, pseudo-channel, first shot cycle, cycles. -/
def Tried.occupied (r : Tried) : List (Nat × Nat × Nat × Nat) :=
  r.pieces.filterMap fun q =>
    let f := q.2.2.1
    match f.quota, r.s.phys q.1 with
    | some (j, pc), some i => some (j, pc, r.cyc f.issue + (latency i j).1, (9 * f.body.mems.length + 3) / 4)
    | _, _ => none

/-- Code 0x0305: R293. -/
def Tried.refreshNotes (r : Tried) (p : Plan) : List Note :=
  (r.occupied.filter fun q => p.refresh.any fun s =>
    decide (s.1 = q.1 ∧ s.2.1 = q.2.1 / 16 ∧ s.2.2 < q.2.2.1 + q.2.2.2 ∧ q.2.2.1 < s.2.2 + 384)).map fun q =>
      (0x0305, some (q.1 * 4 + q.2.1 / 16))

/-- R165: the first VEC issue from which 4,096 cycles hold more than 3,584 of them; `l` rising. -/
def crowded : List Nat → Option Nat
  | [] => none
  | a :: t =>
    match (a :: t)[3584]? with
    | some b => if b < a + 4096 then some a else crowded t
    | none => none

/-- Code 0x0306. -/
def Tried.idleNotes (r : Tried) (p : Plan) : List Note :=
  (r.issues.filterMap fun q =>
    let (l, c, _, w, _) := q
    let x := r.cyc c
    if opcodeOf w = 0x27 && !p.gaps.any fun g => decide (g.1 = l ∧ g.2.1 ≤ x + 7 ∧ x + 7 + (bitsOf w 43 33 + 1) ≤ g.2.1 + g.2.2) then some (0x0306, some x)
    else none) ++
    p.progs.filterMap fun g =>
      (crowded ((r.issues.filter fun q => decide (q.1 = g.logical) && decide (classOf (opcodeOf q.2.2.2.1) = 3)).map fun q => q.2.1)).map fun x =>
        (0x0306, some (r.cyc x))

/-! ### Scratchpad and streams (R177, R245) -/

/-- Whether an operation of stall i that issues at cycle y accesses, in ranges, a bank whose power-down has been issued and whose wake has not
(R189). -/
def Tried.sleeps (r : Tried) (i y : Nat) (segs : List (Nat × Nat)) : Bool :=
  let orders := r.issues.filter fun q => decide (opcodeOf q.2.2.2.1 = 0x42) && decide (r.first.phys q.1 = some i) && decide (q.2.1 < y)
  let last (b : Nat) : Option (Nat × Nat × Nat × Insn × List Nat) :=
    (orders.filter fun q => natBit (bitsOf q.2.2.2.1 43 12) b).getLast?
  let banks := (segs.map fun g => (List.range ((g.1 % 8 + g.2 + 7) / 8)).map fun k =>
    (placeOf (r.first.stall i).spd.tmap (g.1 / 8 + k)).1).flatten
  banks.any fun b => match last b with | some q => decide (bitsOf q.2.2.2.1 11 11 = 0) | none => false

/-- Code 0x0401, beside the events: R177, R189. -/
def Tried.staleNotes (r : Tried) : List Note :=
  r.acts.filterMap fun
    | .stale _ c => some (0x0401, some (r.cyc c))
    | .reads i c _ y segs => if r.sleeps i y segs then some (0x0401, some (r.cyc c)) else none
    | .writes i c _ y a n => if r.sleeps i y [(a, n)] then some (0x0401, some (r.cyc c)) else none
    | _ => none

/-- Code 0x0402, beside the events: R245. -/
def Tried.streamNotes (r : Tried) : List Note :=
  r.pieces.filterMap fun q => if q.2.2.2 = 0 then none else some (0x0402, some (r.cyc q.2.2.1.issue))

end Sys2Proof.Machine
end

