-- ==== Sys2Proof/Machine/PlanChecks.lean ====
section
/-!
DEFINITION. The loader's checks of a plan's capacity, ordering, buffers, energy, transfers and update windows (R19, R261, R263, R269, R271,
R286, R313, R318, R323, R377, R385, R387, R446, R490 to R493), and what it computes of a plan (R219, R262, R467).
-/
namespace Sys2Proof.Machine

/-! ### Accesses to HBM and to other stalls' scratchpads (R263, R271) -/

/-- An access by a stall: where (none HBM, else a physical stall), ranges, issue and completion. -/
structure Access where
  logical : Nat
  ctx : Option Nat
  serial : Bool
  write : Bool
  place : Option Nat
  ranges : List (Nat × Nat)
  issue : Nat
  fin : Nat
  deriving DecidableEq, Repr

/-- The accesses of stream pieces to HBM and of pony transfers. -/
def Tried.accesses (r : Tried) : List Access :=
  r.acts.filterMap fun
    | .piece l b f _ => if f.far then none else some ⟨l, some f.ctx, b, f.write, none, f.body.mems.map fun a => (a, 64), f.issue, f.fin⟩
    | .pony l _ x y (.hbm a) n => some ⟨l, none, false, true, none, [(a, n)], x, y⟩
    | .pony l _ x y (.stall k a) n => some ⟨l, none, false, true, some k, [(a, n)], x, y⟩
    | _ => none

/-- Whether two lists of ranges meet, in units of u bytes. -/
def rangesMeet (u : Nat) (a b : List (Nat × Nat)) : Bool :=
  a.any fun p => b.any fun q => decide (p.1 / u ≤ (q.1 + q.2 - 1) / u ∧ q.1 / u ≤ (p.1 + p.2 - 1) / u)

/-- Whether a release of a barrier that both stalls are members of stands between access a and access b (R263). -/
def Tried.between (r : Tried) (p : Plan) (a b : Access) : Bool :=
  r.released.any fun q => p.bars.any fun e => decide (e.id = q.1) && e.members.contains a.logical && e.members.contains b.logical &&
    decide ((if a.write then a.fin else a.issue) ≤ q.2.2 ∧ q.2.2 ≤ b.issue)

/-- Whether two accesses break R263 or R271. -/
def Tried.unordered (r : Tried) (p : Plan) (a b : Access) : Bool :=
  let loose := !r.between p a b && !r.between p b a
  if a.place ≠ b.place then false
  else if a.place.isSome then a.logical != b.logical && rangesMeet 1 a.ranges b.ranges && loose
  else if !rangesMeet 64 a.ranges b.ranges then false
  else if a.logical ≠ b.logical then (a.write || b.write) && loose
  else
    let early (w q : Access) : Bool := w.write && !q.write && decide (w.issue ≤ q.issue ∧ q.issue < w.fin) &&
      !(q.serial && w.ctx.isSome && decide (w.ctx ≠ q.ctx))
    early a b || early b a

/-- The later accesses of the pairs that break R263 or R271. -/
def Tried.clashes (r : Tried) (p : Plan) : List Access → List Nat
  | [] => []
  | a :: t => ((t.filter fun b => r.unordered p a b).map fun b => max a.issue b.issue) ++ Tried.clashes r p t

/-- R269: the STR.PONYs of one stall that are the 17th since its arrival; `n` since the last. -/
def ponyRuns : Nat → List (Nat × Nat × Nat × Insn × List Nat) → List Nat
  | _, [] => []
  | n, q :: t =>
    match opcodeOf q.2.2.2.1 with
    | 0x10 => ponyRuns 0 t
    | 0x52 => if n = 16 then q.2.1 :: ponyRuns 17 t else ponyRuns (n + 1) t
    | _ => ponyRuns n t

/-- Code 0x0404, beside the events. -/
def Tried.orderNotes (r : Tried) (p : Plan) : List Note :=
  ((p.progs.map fun g => ponyRuns 0 (r.issues.filter fun q => q.1 = g.logical)).flatten ++ r.clashes p r.accesses).map fun x =>
    (0x0404, some (r.cyc x))

/-- Code 0x0405: R261. -/
def Tried.deadlockNotes (r : Tried) (p : Plan) : List Note :=
  (r.acts.filterMap fun
    | .stuck l n => some (0x0405, some (n * 1024 + l))
    | _ => none) ++
    (p.progs.map fun g => match r.s.phys g.logical with
      | some i => ((List.range 8).filter fun n => (r.s.stall i).unmet n).map fun n => (0x0405, some (n * 1024 + g.logical))
      | none => []).flatten

/-! ### Capacity (R18, R19, R286, R301, R323) -/

/-- The lines that an interface carries in a count (R18) less the far reservation (R301), which the image gives for the 32 stacks, GW and
GE in this order. Interfaces are numbered as in `Plan.reserve`. -/
def Image.limitOf (im : Image) (k : Nat) : Nat :=
  if k < 16 then 500
  else if k < 20 then 250 - im.farReserve.getD (32 + (k - 16) % 2) 0
  else 200 - im.farReserve.getD ((k - 20) % 32) 0

/-- The counts in which the plan reserves more lines than an interface carries (R19). -/
def Plan.overBooked (p : Plan) (im : Image) : List Nat :=
  (p.reserve.filter fun q =>
    decide (im.limitOf q.1 < (p.reserve.filter fun t => decide (t.1 = q.1 ∧ t.2.1 = q.2.1)).foldl (fun n t => n + t.2.2) 0)).map fun q => q.2.1

/-- Pairs of occupancies that share a pseudo-channel in a cycle: the cycle. -/
def sharedPcs : List (Nat × Nat × Nat × Nat) → List Nat
  | [] => []
  | a :: t => ((t.filter fun b => decide (a.1 = b.1 ∧ a.2.1 = b.2.1 ∧ a.2.2.1 < b.2.2.1 + b.2.2.2 ∧ b.2.2.1 < a.2.2.1 + a.2.2.2)).map fun b =>
      max a.2.2.1 b.2.2.1) ++ sharedPcs t

/-! ### Update windows (R323) -/

/-- The windows of a pass from its next group on. -/
def State.windowsOf (s : State) : Nat → UpdPass → List (UpdPass × Nat)
  | 0, _ => []
  | n + 1, u =>
    let x := s.passWindow u
    (u, x) :: State.windowsOf s n { u with next := u.next + 1, at_ := x + 32 }

/-- The windows that every record takes in the plan's shot, all groups updated. -/
def State.allWindows (s : State) : List (UpdPass × Nat) := ((s.newPasses s.pgroups).map fun u => s.windowsOf u.n u).flatten

/-- What the window of a pass reads, and what it writes. -/
def State.windowReads (s : State) (u : UpdPass) : List (Nat × Nat) :=
  match s.records[u.record]? with
  | some q => [(s.addrA q u.next, 2112), (s.addrB q u.next, 10240), (s.addrG q u.width u.next, 64 * carrierLines u.width)]
  | none => []

/-- The groups' records that a window first saves: to a snapshot shadow and to a securing shadow, where the image declares them for the
stack (R333, R344). -/
def State.windowShadows (s : State) (u : UpdPass) : List (Nat × Nat) :=
  let snap := (s.snapShadow u.stack (s.groupsBefore u.record + u.next)).map fun a => (a, 12352)
  let secure := (s.secureShadow u.stack u.record u.next).map fun a => (a, 12352)
  snap.toList ++ secure.toList

def State.windowWrites (s : State) (u : UpdPass) : List (Nat × Nat) :=
  match s.records[u.record]? with
  | some q => [(s.addrA q u.next, 2112), (s.addrB q u.next, 10240), (s.addrJ u.record (s.train.commits + 1) u.next, 256)] ++ s.windowShadows u
  | none => []

/-- The pseudo-channels that accesses of a window occupy: from cycle x, or up to it. -/
def State.windowPcs (s : State) (l : List (Nat × Nat)) (x : Nat) (before : Bool) : List (Nat × Nat × Nat × Nat) :=
  (l.map fun a => partsOf a.1 a.2).flatten.filterMap fun a => (s.locate a.1).map fun w =>
    let n := (9 * ((a.1 % 64 + a.2 + 63) / 64) + 3) / 4
    (w.1, pcOf w.2, if before then x - n else x, n)

/-! ### Landings that the image places (R323, R331, R377, R385) -/

/-- The bytes and the cycle of the replay of each frame of a receive record whose lines fill its window of HBM; no other record of the image
says where its frames go. The second part: where the operands of a carrier sum lie. -/
def Tried.landingsOf (r : Tried) (im : Image) (t : Transfer) : List ((Nat × Nat) × Nat × Nat) :=
  match im.fabric.windows[t.target]? with
  | some w =>
    let n := r.first.linesOf t
    if t.recv && decide (w.target = 0 ∧ w.size = 64 * n) then
      (List.range ((n + 27) / 28)).map fun k =>
        ((w.base + 1792 * k, frameBytes n k), w.operand + 1792 * k, r.first.shot.begin_ + t.c + 35 * k + 350 + 875 * t.h)
    else []
  | none => []

def Tried.landings (r : Tried) (im : Image) (p : Plan) : List ((Nat × Nat) × Nat) :=
  (p.transfers.map fun t => (r.landingsOf im t).map fun q => (q.1, q.2.2)).flatten

/-- The result of an exchange: its bytes and its landing (R387). -/
def Tried.results (r : Tried) (im : Image) (p : Plan) : List ((Nat × Nat) × Nat) :=
  (p.transfers.filter fun t => !t.recv && decide (t.kind = 2)).map fun t =>
    ((t.place, 64 * accLines t), r.first.shot.begin_ + t.c + 35 * ((accLines t + 27) / 28 - 1) + 350 + 875 * im.fabric.steps.length)

/-- Code 0x0602, the part of R377 and R385: transfers that write bytes of another's with no module barrier released between, and sums whose
operands are written after they are read. -/
def Tried.placeNotes (r : Tried) (im : Image) (p : Plan) : List Note :=
  let lands (t : Transfer) : List ((Nat × Nat) × Nat) := (r.landingsOf im t).map fun q => (q.1, q.2.2)
  let parted (x y : Nat) : Bool := r.released.any fun q => decide (min x y ≤ q.2.2 ∧ q.2.2 ≤ max x y) && p.bars.any fun b => decide (b.id = q.1) && b.module
  let own := (r.accesses.filter fun a => a.write && decide (a.place = none)).map fun a => (a.ranges, a.fin)
  (p.transfers.zipIdx.filter fun t =>
    (lands t.1).any (fun a => (p.transfers.take t.2).any fun o => (lands o).any fun b =>
      rangesMeet 1 [a.1] [b.1] && !parted a.2 b.2) ||
    (decide (t.1.kind = 1) && (r.landingsOf im t.1).any fun a =>
      (own ++ (r.landings im p ++ r.results im p).map fun l => ([l.1], l.2)).any fun w =>
        decide (a.2.2 < w.2 + 900) && rangesMeet 1 w.1 [(a.2.1, a.1.2)] && decide (w.2 < a.2.2))).map fun t => (0x0602, some t.1.number)

/-! ### Lines through the interfaces (R18, R19, R323, R385) -/

/-- Lines that go through an interface, numbered as in `Plan.reserve`, evenly from a first quarter of a shot cycle on. -/
structure Flow where
  iface : Nat
  first : Nat
  len : Nat
  lines : Nat
  deriving DecidableEq, Repr

/-- What a flow carries in count n, in 5,760ths of a line. -/
def Flow.share (q : Flow) (n : Nat) : Nat := q.lines * 5760 * (min (28 * n + 28) (q.first + q.len) - max (28 * n) q.first) / q.len

/-- Lines that leave barn a for barn b. -/
def crossing (a b first len n : Nat) : List Flow := if a = b then [] else [⟨8 + a, first, len, n⟩, ⟨b, first, len, n⟩]

/-- The flows of something that a stall of the plan did: a piece's lines pass its stack and the yard at the rate of its pseudo-channel from
its arrival on, a transfer of the pony lane's in the cycle of its delivery. -/
def Tried.actFlows (r : Tried) : Act → List Flow
  | .piece l _ f _ =>
    match f.quota, r.s.phys l with
    | some (j, _), some i =>
      let n := f.body.mems.length
      let x := 4 * (r.cyc f.issue + (latency i j).1)
      if f.write then (⟨52 + j, x, 9 * n, n⟩ : Flow) :: crossing (i / 80) (j / 4) x (9 * n) n
      else (⟨20 + j, x, 9 * n, n⟩ : Flow) :: crossing (j / 4) (i / 80) x (9 * n) n
    | _, _ => []
  | .pony l _ _ y d _ =>
    match r.s.phys l, d with
    | some i, .stall k _ => crossing (i / 80) (k / 80) (4 * r.cyc y) 4 1
    | some i, .hbm a =>
      match r.first.locate a with
      | some (j, _) => (⟨52 + j, 4 * r.cyc y, 4, 1⟩ : Flow) :: crossing (i / 80) (j / 4) (4 * r.cyc y) 4 1
      | none => []
    | none, _ => []
  | _ => []

/-- n lines from module address a on, one each `gap` quarters of a cycle from `first`: read into a gate or written by it. -/
def State.gateFlows (s : State) (ge write : Bool) (a n first gap : Nat) : List Flow :=
  let g := if ge then 1 else 0
  ((List.range n).map fun k =>
    let x := first + gap * k
    match s.locate (a + 64 * k) with
    | some (j, _) =>
      if write then [(⟨18 + g, x, gap, 1⟩ : Flow), ⟨j / 4, x, gap, 1⟩, ⟨52 + j, x, gap, 1⟩]
      else [(⟨16 + g, x, gap, 1⟩ : Flow), ⟨8 + j / 4, x, gap, 1⟩, ⟨20 + j, x, gap, 1⟩]
    | none => []).flatten

/-- The flows of a transfer record: its source is read in the 35 cycles of each frame from its injection on, its lines and results are written
in those before its landings. -/
def Tried.transferFlows (r : Tried) (im : Image) (p : Plan) (t : Transfer) : List Flow :=
  let s := r.first
  let n := s.linesOf t
  if t.recv then
    let x := 4 * (t.c + 315 + 875 * t.h)
    let sum : List Flow := if t.kind = 1 then [⟨16 + (if t.ge then 1 else 0), 4 * (t.c + 350 + 875 * t.h - 900), 5 * n, n⟩] else []
    sum ++ (match im.fabric.windows[t.target]? with
      | some w =>
        if w.target = 0 ∧ w.size = 64 * n then s.gateFlows t.ge true w.base n x 5
        else (⟨18 + (if t.ge then 1 else 0), x, 5 * n, n⟩ : Flow) :: (match decide (w.target = 1), s.phys w.stall with
          | true, some i => [⟨i / 80, x, 5 * n, n⟩]
          | _, _ => [])
      | none => [])
  else if t.kind = 2 then
    let m := accLines t
    let x := 4 * (t.c + 350 + 875 * im.fabric.steps.length) - 5 * m
    (if p.commits && t.votes then [] else s.gateFlows t.ge false t.source t.count (4 * t.c) (if t.op = 2 then 10 else 5)) ++
      s.gateFlows t.ge true t.place m x 5
  else s.gateFlows t.ge false t.source n (4 * t.c) 5

/-- The flows of the update windows of a plan with a commit barrier: 193 + U lines read, 197 written and those of the shadows (R323). -/
def Tried.windowFlows (r : Tried) (p : Plan) : List Flow :=
  if p.commits then (r.first.allWindows.map fun w =>
    [(⟨20 + w.1.stack, 4 * r.cyc w.2, 128, 193 + carrierLines w.1.width⟩ : Flow),
      ⟨52 + w.1.stack, 4 * (r.cyc w.2 + 992), 128, 197 + 193 * (r.first.windowShadows w.1).length⟩]).flatten
  else []

/-- Every scheduled line of a plan. -/
def Tried.flows (r : Tried) (im : Image) (p : Plan) : List Flow :=
  (r.acts.map r.actFlows).flatten ++ (p.transfers.map (r.transferFlows im p)).flatten ++ r.windowFlows p

/-- R18, R19: the counts in which the plan schedules more lines through an interface than it carries. -/
def Tried.crowdedCounts (r : Tried) (im : Image) (p : Plan) : List Nat :=
  let l := (r.flows im p).filter fun q => decide (0 < q.len)
  ((List.range 84).map fun k =>
    let mine := l.filter fun q => q.iface = k
    ((mine.map fun q => (List.range ((q.first + q.len - 1) / 28 + 1 - q.first / 28)).map (q.first / 28 + ·)).flatten).filter fun n =>
      decide (5760 * im.limitOf k < mine.foldl (fun a q => a + q.share n) 0)).flatten

/-- Code 0x0403. -/
def Tried.capacityNotes (r : Tried) (im : Image) (p : Plan) : List Note :=
  let ws := if p.commits then r.first.allWindows else []
  let upd := (ws.map fun w => r.first.windowPcs (r.first.windowReads w.1) (r.cyc w.2) false ++
    r.first.windowPcs (r.first.windowWrites w.1) (r.cyc w.2 + 1024) true).flatten
  let both := r.occupied.filter fun a => upd.any fun b =>
    decide (a.1 = b.1 ∧ a.2.1 = b.2.1 ∧ a.2.2.1 < b.2.2.1 + b.2.2.2 ∧ b.2.2.1 < a.2.2.1 + a.2.2.2)
  ((sharedPcs r.occupied ++ both.map fun a => a.2.2.1).map fun x => (0x0403, some (x / 7))) ++
    (r.crowdedCounts im p).map fun n => (0x0403, some n)

/-- Code 0x0701, the part of R323: one note for each record that offends. -/
def Tried.windowNotes (r : Tried) (im : Image) (p : Plan) : List Note :=
  match (p.bars.filter (·.commit)).filterMap fun b => r.released.find? fun q => q.1 = b.id with
  | [] => []
  | q :: _ =>
    let ws := r.first.allWindows
    let acc := r.accesses.filter fun a => a.place = none
    (ws.filter fun w =>
      let u := w.1
      let old (n : Nat) : List (Nat × Nat) := (r.first.windowReads u).drop n
      (ws.any fun v => decide (v.1.stack = u.stack ∧ v.1.record ≠ u.record ∧ v.2 < w.2 + 32 ∧ w.2 < v.2 + 32)) || decide (w.2 < q.2.2) ||
        decide (r.first.marginAt ≤ w.2 + 1024) || ((r.landings im p).any fun l => decide (w.2 < l.2) && rangesMeet 1 [l.1] (old 2)) ||
        acc.any fun a => (a.write && decide (w.2 < a.fin) && rangesMeet 1 a.ranges (old 2)) ||
          (!a.write && decide (q.2.2 ≤ a.issue ∧ a.issue < w.2 + 1024) && rangesMeet 1 a.ranges ((old 0).take 2))).map fun w =>
      (0x0701, some w.1.record)

/-- R331: the cycles of the replay in which an update pass or an all-gather write to a plane A region is outstanding. An all-gather is seen by
a receive record whose window lies in the region. -/
def Tried.outstanding (r : Tried) (im : Image) (p : Plan) (k : Nat) : List (Nat × Nat) :=
  let rel := (p.bars.filter (·.commit)).findSome? fun b => (r.released.find? fun q => q.1 = b.id).map fun q => q.2.2
  let ws := r.first.allWindows.filter fun w => match r.first.records[w.1.record]? with | some q => decide (q.aRegion = k) | none => false
  let passes := match rel, ws.isEmpty with
    | some y, false => [(y, ws.foldl (fun x w => max x (w.2 + 1024)) y)]
    | _, _ => []
  let gathers := p.transfers.filterMap fun t =>
    match im.fabric.windows[t.target]?, im.regions[k]? with
    | some w, some g =>
      if t.recv && decide (w.target = 0 ∧ g.base ≤ w.base ∧ w.base + w.size ≤ g.base + g.size) then
        let x := r.first.shot.begin_ + t.c
        some (x, x + 35 * ((r.first.linesOf t + 27) / 28 - 1) + 350 + 875 * t.h)
      else none
    | _, _ => none
  passes ++ gathers

/-- Code 0x0701, the part of R331: serving slices that read a plane A region while something that is outstanding writes it. -/
def Tried.servingNotes (r : Tried) (im : Image) (p : Plan) : List Note :=
  let reads := r.accesses.filter fun a => !a.write && decide (a.place = none)
  (p.slices.filter fun q => q.serving && (List.range im.regions.length).any fun k => match im.regions[k]? with
    | some g =>
      decide (g.purpose = 1) && (reads.any fun a => q.members.contains a.logical &&
        decide (q.start ≤ r.cyc a.issue ∧ r.cyc a.issue ≤ q.fin) && rangesMeet 1 a.ranges [(g.base, g.size)]) &&
        (r.outstanding im p k).any fun o => decide (r.cyc o.1 ≤ q.fin ∧ q.start ≤ r.cyc o.2)
    | none => false).map fun _ => (0x0701, none)

/-- The values that an instruction can count into a histogram set (R160). -/
def counted (w : Insn) : Nat :=
  if opcodeOf w = 0x3B then (match bitsOf w 38 37 with | 0 => 128 | 1 => 256 | _ => 16)
  else if opcodeOf w = 0x38 ∧ bitsOf w 17 17 = 1 then 32 else 0

/-- R313: mode 1 selections whose record is written in the shot and not ordered before them by a barrier release, and a plan whose HIST and
PACK instructions can count 2^32 values (log 148). -/
def Tried.histNotes (r : Tried) (im : Image) (p : Plan) : List Note :=
  match im.update with
  | none => []
  | some u =>
    let base := r.first.regionBase u.histTable
    let own := (r.accesses.filter fun a => a.write && decide (a.place = none)).map fun a => (a.ranges, a.fin)
    let exch := (r.results im p ++ r.landings im p).map fun l => ([l.1], l.2)
    (if 2 ^ 32 ≤ r.issues.foldl (fun n q => n + counted q.2.2.2.1) 0 then [((0x0701, none) : Note)] else []) ++ r.acts.filterMap fun
      | .yard _ c _ w =>
        let e := bitsOf w 43 38
        if opcodeOf w = 0xE4 ∧ bitsOf w 34 34 = 1 ∧ ((own ++ exch).any fun a => rangesMeet 1 a.1 [(base + 256 * e, 256)] &&
            !r.released.any fun q => decide (a.2 ≤ q.2.2 ∧ q.2.2 ≤ c)) = true then
          some (0x0701, some e)
        else none
      | _ => none

/-- R318: whether a parameter group's curve is refused; `bs` is the group's record in the group table. -/
def State.curveBad (s : State) (bs : List Byte) : Bool :=
  let n := leAt bs 6 2
  let point (i : Nat) : List Byte := s.peek (leAt bs 8 6 + 32 * i) 32
  let value (i k : Nat) : Nat := leAt (point i) (4 * k) 4
  let finite (v : Nat) : Bool := decide (natBits v 30 23 ≠ 255)
  let nonneg (v : Nat) : Bool := decide (v < 2 ^ 31 ∨ v = 2 ^ 31)
  decide (n = 0 ∨ 1024 < n) || decide (leAt bs 8 6 % 32 ≠ 0) || (List.range n).any fun i =>
    (decide (0 < i) && decide (value i 0 ≤ value (i - 1) 0)) || !(finite (value i 1) && finite (value i 2) && finite (value i 3) && finite (value i 4)) ||
      !(nonneg (value i 1) && nonneg (value i 2) && nonneg (value i 3) && nonneg (value i 4)) ||
      [3, 4].any fun k => decide (0x3F800000 < value i k % 2 ^ 31)

/-! ### Buffers (R446) -/

/-- An operation: stall, earliest cycle, ranges read and written, each with its place. -/
structure BufOp where
  stall : Nat
  wid : Nat
  at_ : Nat
  reads : List (Option Nat × Nat × Nat)
  writes : List (Option Nat × Nat × Nat)
  deriving DecidableEq, Repr

/-- The operation joins those of the same stall and writer name. -/
def joinOp (o : BufOp) : List BufOp → List BufOp
  | [] => [o]
  | q :: t => if q.stall = o.stall ∧ q.wid = o.wid then ⟨q.stall, q.wid, min q.at_ o.at_, q.reads ++ o.reads, q.writes ++ o.writes⟩ :: t else q :: joinOp o t

/-- The operations of a replay that read and write storage: vector, copy, stream and pony operations, named by their writers. -/
def Tried.operations (r : Tried) : List BufOp :=
  (r.acts.filterMap fun
    | .reads i c w _ segs => some ⟨i, w, c, segs.map fun g => (some i, g), []⟩
    | .writes i _ w issue a n => some ⟨i, w, issue, [], [(some i, a, n)]⟩
    | .piece l _ f _ => (r.s.phys l).map fun i =>
      let m := f.body.mems.map fun a => (none, a, 64)
      ⟨i, f.wid, f.issue, if f.write then [] else m, if f.write then m else []⟩
    | .pony l w x _ d n => (r.s.phys l).map fun i =>
      ⟨i, w, x, [], [match d with | .hbm a => (none, a, n) | .stall k a => (some k, a, n)]⟩
    | _ => none).foldl (fun l o => if o.wid = 0 then l else joinOp o l) []

/-- The buffers of the plan that ranges touch; buffers are named by logical stalls. -/
def State.buffersAt (s : State) (p : Plan) (l : List (Option Nat × Nat × Nat)) : List Nat :=
  (List.range p.buffers.length).filter fun k => match p.buffers[k]? with
    | some b => l.any fun q => decide (q.1 = b.1.bind s.phys) && (q.1.isNone == b.1.isNone) && rangesMeet 1 [q.2] [b.2]
    | none => false

/-- The graph of some operations. -/
def State.bufferEdges (s : State) (p : Plan) (l : List BufOp) : List (Nat × Nat) :=
  (l.map fun o => ((s.buffersAt p o.reads).map fun a => (s.buffersAt p o.writes).map fun b => (a, b)).flatten).flatten

/-- Operations cut at releases: one list for each interval. -/
def cutOps (l : List BufOp) (cuts : List Nat) : List (List BufOp) :=
  let cuts := (cuts.foldl (fun a x => insertNat x a) []).eraseDups
  (List.range (cuts.length + 1)).map fun k => l.filter fun o => decide ((cuts.filter fun x => decide (x ≤ o.at_)).length = k)

/-- Code 0x0406. -/
def Tried.bufferNotes (r : Tried) (p : Plan) : List Note :=
  if p.buffers.isEmpty then []
  else
    let ops := r.operations
    let at_ (sel : Barrier → Bool) : List Nat := (r.released.filter fun q => p.bars.any fun b => decide (b.id = q.1) && sel b).map fun q => q.2.2
    let module_ := cutOps ops (at_ (·.module))
    let barns := ((List.range 8).map fun n =>
      cutOps (ops.filter fun o => o.stall / 80 = n) (at_ fun b => !b.module && b.barns.contains n)).flatten
    if (module_ ++ barns).any fun l => hasCycle (r.first.bufferEdges p l) then [(0x0406, none)] else []

/-! ### Energy (R490 to R493) -/

/-- Activity: first shot cycle, cycles, energy in each of them in pJ. -/
abbrev Span := Nat × Nat × Nat

/-- The activities that something recorded stands for; `co` gives the coefficients. -/
def Tried.actSpans (r : Tried) (co : Nat → Nat) : Act → List Span
  | .cast _ x n dual => [(r.cyc x, n, co (if dual then 2 else 1))]
  | .issue _ _ c _ w _ =>
    (if opcodeOf w = 0x25 then [(r.cyc c + 6, 256, co 1)] else []) ++
      (if opcodeOf w = 0x27 then [(r.cyc c + 7, bitsOf w 43 33 + 1, co (3 + bitsOf w 32 30))] else []) ++
      (if classOf (opcodeOf w) = 3 then [(r.cyc c, 1, co 11)] else [])
  | .lines _ x n => [(r.cyc x, 1, n * co 12)]
  | .piece l _ f _ => match f.quota, r.s.phys l with
    | some (j, _), some i => [(r.cyc f.issue + (latency i j).1, 1, f.body.mems.length * co 13)]
    | _, _ => []
  | _ => []

/-- The cycles in which this module's gates send the frames of a record (R375, R387). -/
def Transfer.sent (t : Transfer) (lines steps : Nat) : List Nat :=
  if t.recv then []
  else ((List.range ((lines + 27) / 28)).map fun k =>
    (List.range (if t.kind = 2 then steps else 1)).map fun j => firstSlot (t.c + 35 * k) + 875 * j).flatten

/-- The activities of a plan but the base (R492). -/
def Tried.spans (r : Tried) (im : Image) (p : Plan) (co : Nat → Nat) : List Span :=
  let done : List Span := (r.acts.map (r.actSpans co)).flatten
  let yard : List Span := ((r.flows im p).filter fun q => decide (8 ≤ q.iface ∧ q.iface < 16) || decide (18 ≤ q.iface ∧ q.iface < 20)).map
    fun q => (q.first / 4, 1, q.lines * co 14)
  let refresh : List Span := p.refresh.map fun q => (q.2.2, 1, co 15)
  let frames : List Span := (p.transfers.map fun t =>
    (t.sent (if t.kind = 2 then accLines t else r.first.linesOf t) im.fabric.steps.length).map fun x => (x, 1, co 16)).flatten
  let windows : List Span := if p.commits then r.first.allWindows.map fun w =>
    (r.cyc w.2, 1, co 17 + (390 + carrierLines w.1.width) * co 13) else []
  (done ++ yard ++ refresh ++ frames ++ windows).filter fun q => decide (q.2.2 ≠ 0)

/-- The energy of activities in shot cycles a to b − 1. -/
def spanSum (l : List Span) (a b : Nat) : Nat := l.foldl (fun n q => n + q.2.2 * (min b (q.1 + q.2.1) - max a q.1)) 0

/-- R493: the shot cycles of intervals whose declared energy is below the model's, and of ramp steps after which power changes too much. -/
def Plan.spanNotes (p : Plan) (l : List Span) (c0 ramp : Nat) : List Nat :=
  let last := 7 * p.period
  let low := if l.isEmpty && decide (c0 = 0) then [] else (List.range ((p.period + 255) / 256)).filter fun i =>
    decide (1000 * p.energy.getD i 0 < spanSum l (1792 * i) (min last (1792 * (i + 1))) + c0 * min 256 (p.period - 256 * i))
  let busy := (l.map fun q => (q.1, min (q.1 + q.2.1) (last - 512) - q.1, q.2.2))
  let step (k : Nat) : Nat × Nat := (spanSum busy (128 * k) (min last (128 * (k + 1))), min last (128 * (k + 1)) - 128 * k)
  let steep := if l.isEmpty then [] else (List.range ((last + 127) / 128 - 1)).filter fun k =>
    let a := step k
    let b := step (k + 1)
    decide (4000 * ramp * a.2 * b.2 < 7 * (a.1 * b.2 - b.1 * a.2) ∨ 4000 * ramp * a.2 * b.2 < 7 * (b.1 * a.2 - a.1 * b.2))
  low.map (1792 * ·) ++ steep.map fun k => 128 * (k + 1)

/-! ### Transfers (R374, R377, R385, R387) -/

/-- R374: a field of a transfer record out of its range. -/
def Transfer.bad (t : Transfer) : Bool :=
  decide (2 < t.kind) || decide (2 < t.op) || (decide (t.kind ≠ 2) && decide (t.op ≠ 0)) || decide (t.source % 64 ≠ 0 ∨ t.place % 64 ≠ 0) ||
    decide (t.count = 0 ∨ 2 ^ 24 ≤ t.count) || decide (t.h = 0 ∨ 255 < t.h) || decide (63 < t.fmt) ||
    decide (65536 ≤ t.number ∨ 65536 ≤ t.peer ∨ 65536 ≤ t.pgroup) || (decide (t.kind = 2) && (t.recv || decide (t.peer ≠ 0 ∨ t.target ≠ 0))) ||
    (t.recv && (decide (255 < t.target) || decide (t.source ≠ 0 ∨ t.place ≠ 0))) || (!t.recv && decide (1023 < t.target))

/-- R374: more than 4,096 send or 4,096 receive records; an exchange record is a send record. -/
def Plan.manyTransfers (p : Plan) : Bool :=
  decide (4096 < (p.transfers.filter (·.recv)).length ∨ 4096 < (p.transfers.filter fun t => !t.recv).length)

/-- R377: whether slot q is taken twice, or is the last of 8 in a row. -/
def slotBad (l : List (Nat × Bool × Nat)) (q : Nat × Bool × Nat) : Bool :=
  decide (1 < (l.filter fun x => x = q).length) ||
    (decide (7 ≤ q.2.2) && (List.range 8).all fun d => l.contains (q.1, q.2.1, q.2.2 - d))

/-- R377, R387: transfers that break a rule that the image shows, for a format code. -/
def Plan.transferNotes (p : Plan) (im : Image) (code : Nat) : List Nat :=
  let fb := im.fabric
  let cases := List.range (fb.cases.length + 1)
  let all (k : Nat) : List (Nat × Nat × Bool × Nat) := (p.transfers.map fun t => (fb.slotsOf k t code).map fun q => (t.number, q)).flatten
  let crowd := (cases.map fun k => let l := all k; (l.filter fun q => slotBad (l.map (·.2)) q.2).map fun q => q.1).flatten
  let bad := (p.transfers.zipIdx.filter fun q =>
    let t := q.1
    let n := t.framesAs code
    let lands := t.c + 35 * (n - 1) + 350 + 875 * (if t.kind = 2 then fb.steps.length else t.h)
    ((p.transfers.take q.2).any fun o => decide (o.number = t.number ∧ o.recv = t.recv ∧ (t.recv = false ∨ o.peer = t.peer))) ||
      decide (7 * p.period ≤ lands + 512) ||
      (if t.kind = 2 then decide (448 < accLines t) || decide (0 < fb.steps.length ∧ t.h ≠ fb.steps.length)
      else cases.any fun k =>
        decide (t.h < (if t.recv then fb.route k (fb.physOf k t.peer) fb.me else fb.route k fb.me (fb.physOf k t.peer)).length))).map fun q => q.1.number
  crowd ++ bad

/-- R377: transfers whose source is written later than 832 cycles before a frame's injection. -/
def Tried.sourceNotes (r : Tried) (p : Plan) : List Note :=
  let ws := (r.accesses.filter fun a => a.write && decide (a.place = none)).map fun a => (a.ranges, r.cyc a.fin)
  (p.transfers.filter fun t => !t.recv && (List.range ((r.first.linesOf t + 27) / 28)).any fun k =>
    ws.any fun w => decide (t.c + 35 * k < w.2 + 832) && rangesMeet 1 w.1 [(t.source + 1792 * k, frameBytes (r.first.linesOf t) k)]).map fun t =>
      (0x0602, some t.number)

/-! ### What the loader computes (R219, R262, R467) -/

/-- R262: the duration of each START. -/
def Tried.durations (r : Tried) : List (Nat × Nat × Nat × Nat) :=
  let starts := r.issues.filter fun q => opcodeOf q.2.2.2.1 = 0x50
  starts.filterMap fun q =>
    let n := bitsOf q.2.2.2.1 43 41
    let next := (starts.filter fun x => decide (x.1 = q.1 ∧ bitsOf x.2.2.2.1 43 41 = n ∧ q.2.1 < x.2.1)).map fun x => x.2.1
    let mine := r.pieces.filter fun x => decide (x.1 = q.1 ∧ x.2.2.1.ctx = n ∧ q.2.1 ≤ x.2.2.1.issue) && next.all fun y => decide (x.2.2.1.issue < y)
    let d := mine.foldl (fun d x => max d (x.2.2.1.fin - q.2.1)) 0
    if d = 0 then none else some (q.1, n, r.cyc q.2.1, d)

/-- The part of ranges that another range leaves. -/
def cutRange (a n : Nat) (l : List (Nat × Nat)) : List (Nat × Nat) :=
  (l.map fun q =>
    let e := q.1 + q.2
    (if q.1 < a then [(q.1, min e a - q.1)] else []) ++ (if a + n < e then [(max q.1 (a + n), e - max q.1 (a + n))] else [])).flatten

/-- R467: a byte of a scratchpad is read that the shot has not written before. `done`: stall, address and length written, latest first. -/
def coldRead : List (Nat × Nat × Nat) → List Act → Bool
  | _, [] => false
  | done, .reads i _ _ _ segs :: t =>
    (segs.any fun g => !((done.filter fun d => d.1 = i).foldl (fun l d => cutRange d.2.1 d.2.2 l) [g]).isEmpty) || coldRead done t
  | done, .writes i _ _ _ a n :: t => coldRead ((i, a, n) :: done) t
  | done, _ :: t => coldRead done t

/-- R467: the last two conditions of a repeatable plan. -/
def Tried.idempotent (r : Tried) : Bool :=
  let acc := r.accesses.filter fun a => a.place = none
  let writes (g : Nat × Nat) : List Access := acc.filter fun w => w.write && rangesMeet 64 [g] w.ranges
  !coldRead [] r.acts && !acc.any fun a => !a.write && a.ranges.any fun g =>
    !(writes g).isEmpty && (writes g).all fun w => decide (a.issue < w.fin)

/-- The regions that a plan's streams read. -/
def Tried.regionsRead (r : Tried) (im : Image) : List Nat :=
  (List.range im.regions.length).filter fun k => match im.regions[k]? with
    | some g => r.accesses.any fun a => !a.write && rangesMeet 1 a.ranges [(g.base, g.size)]
    | none => false

end Sys2Proof.Machine
end

