-- ==== Sys2Proof/Machine/Admit.lean ====
section
/-!
DEFINITION. The whole check of an image (R444, R445), with the replay of its plans, and CFG_LOAD (R443, R444, R447).
-/
namespace Sys2Proof.Machine

/-! ### The replays -/

/-- Format codes for the three widths of carriers, C32, C40 and C48: each plan is replayed for each (R240). -/
def widthCodes : List Nat := [2, 0, 1]

/-- A plan as it is looked at for a format code: replayed, where there is anything to replay. -/
def State.tried (s : State) (im : Image) (bs : List Byte) (p : Plan) (code : Nat) : Tried :=
  if p.runs then s.replay im bs p code else ⟨s.trial im bs p code, s.trial im bs p code, [], none⟩

/-- What the replay of a plan finds. -/
def Tried.notes (r : Tried) (im : Image) (p : Plan) (others : List (Plan × Tried)) : List Note :=
  r.eventNotes ++ r.timeNotes p ++ r.programNotes im p ++ r.commitNotes p im others ++ r.refreshNotes p ++ r.idleNotes p ++ r.staleNotes ++ r.streamNotes ++
    r.capacityNotes im p ++ r.orderNotes p ++ r.deadlockNotes p ++ r.bufferNotes p ++ r.sourceNotes p ++ r.placeNotes im p ++
    r.windowNotes im p ++ r.servingNotes im p ++ r.histNotes im p

/-- The checks of the plans that go beyond their declarations. -/
def State.planChecks (s : State) (im : Image) (bs : List Byte) (tab : List SecEntry) : List Found :=
  (im.plans.zipIdx.map fun q =>
    let p := q.1
    let sec := secAt tab 1 q.2
    (if p.transfers.any Transfer.bad || p.manyTransfers then [(⟨0x0201, sec, none⟩ : Found)] else []) ++
      ((p.overBooked im).map fun x => (⟨0x0403, sec, some x⟩ : Found)) ++
      (widthCodes.map fun k => (p.transferNotes im k).map fun n => (⟨0x0602, sec, some n⟩ : Found)).flatten ++
      (if p.runs then (widthCodes.map fun k =>
        ((s.tried im bs p k).notes im p (im.plans.map fun o => (o, s.tried im bs o k))).map fun n => (⟨n.1, sec, n.2⟩ : Found)).flatten
      else [])).flatten

/-! ### Profiles (R240, R252, R280, R300) -/

/-- R300: whether every page of a far bound is marked resident in the image's initial table. -/
def State.boundStays (s : State) (im : Image) (lo hi : Nat) : Bool :=
  match im.far with
  | none => false
  | some (_, n) => (List.range (farPage (hi - 1) - farPage lo + 1)).all fun k =>
      decide (farPage lo + k < n) && farStays (s.farEntry (farPage lo + k))

/-- R245: whether an emit from the indices `ix` on is cut into more than 16 pieces, or into more than the pace; fuel bounds the emits. -/
def Ctx.cutBad (c : Ctx) : Nat → List Nat → Bool
  | 0, _ => false
  | n + 1, ix =>
    let m := (cutPieces (c.emitLinesOf ix)).length
    (!skipsEmit c.prog ix && (decide (16 < m) || decide (emitPace c.prog < m))) ||
      (match nextIx c.prog 0 ix [] with | (some jx, _) => c.cutBad n jx | (none, _) => false)

/-- R245: the same of a descriptor's program, for every length of a carrier group. -/
def cutsBadly (prog : List Nat) (d : List Byte) : Bool :=
  (if sdFmtEn d then [0, 1, 2] else [0]).any fun w =>
    ({ zeroCtx 0 with prog := prog, base := sdMemBase d, loc := sdLocal d, unit := carrierLines w } : Ctx).cutBad (progEmits prog)
      (List.replicate 6 0)

/-- R240, R245, R252: whether the loader refuses a stream descriptor; `t` is the machine with the image admitted. -/
def State.descBad (t : State) (im : Image) (pf : Profile) (d : List Byte) : Bool :=
  let lo := sdLo d
  let hi := sdHi d
  let prog := match pf.progs.find? fun g => g.1 = sdProgram d with | some g => g.2 | none => []
  !progOk prog (sdFmtEn d) || cutsBadly prog d ||
    (decide (lo < 2 ^ 47) && decide (2 ^ 41 < hi)) ||
    decide (sdBudget d < 832) || (decide (2 ^ 47 < hi) && ( decide (sdBudget d < 3500) && !t.boundStays im (max lo (2 ^ 47)) hi))

/-- R280: whether a descriptor's bound in HBM, or a pony destination, lies outside the regions. -/
def Image.strays (im : Image) (pf : Profile) : Bool :=
  let all (a n : Nat) : Bool := im.covered (im.regions.length + 1) a n
  (pf.descs.any fun d => decide (sdLo d.2 < 2 ^ 41) && !all (sdLo d.2) (min (sdHi d.2) (2 ^ 41) - sdLo d.2)) ||
    pf.pony.any fun e => decide (leAt e 0 1 = 2) && !all (leAt e 4 6) 4

/-- Codes 0x0203, 0x0204 and 0x0402, as the profiles alone show. -/
def State.profileCheck (s : State) (im : Image) (bs : List Byte) (tab : List SecEntry) : List Found :=
  let t := s.admitImage im bs
  (im.profiles.zipIdx.map fun q =>
    let pf := q.1.profile
    let sec := secAt tab 3 q.2
    (if im.strays pf then [(⟨0x0203, sec, none⟩ : Found)] else []) ++
      ((pf.slots.filter fun l => decide (8 ≤ l.1 ∨ im.ftab.length ≤ l.2)).map fun l => (⟨0x0204, sec, some l.1⟩ : Found)) ++
      (if pf.descs.any fun d => t.descBad im pf d.2 then [(⟨0x0402, sec, none⟩ : Found)] else [])).flatten ++
    (im.ymprogs.zipIdx.map fun q => (q.1.pairs.filter fun k => decide (im.ftab.length ≤ k)).map fun k =>
      (⟨0x0204, secAt tab 5 q.2, some k⟩ : Found)).flatten

/-! ### Energy and curves (R318, R492, R493) -/

/-- Code 0x0501. -/
def State.energyCheck (s : State) (im : Image) (bs : List Byte) (power : PowerSec) (tab : List SecEntry) : List Found :=
  let co (k : Nat) : Nat := max (power.coeffs.getD k 0) (s.power.calibrated.getD k 0)
  let carry := (im.plans.map fun p => trailing (p.above power.budget)).foldl max 0
  (im.plans.zipIdx.map fun q =>
    let p := q.1
    let model := ((if p.runs then widthCodes else [0]).map fun k => p.spanNotes ((s.tried im bs p k).spans im p co) (co 0) power.ramp).flatten
    (p.energyBad power.budget carry model).map fun o => (⟨0x0501, secAt tab 1 q.2, o⟩ : Found)).flatten

/-- Code 0x0701, the part of R318: update records whose parameter group has a refused curve. -/
def State.curveCheck (s : State) (im : Image) (bs : List Byte) (tab : List SecEntry) : List Found :=
  match im.update with
  | none => []
  | some u => ((u.records.zipIdx.filter fun q =>
      let t := s.admitImage im bs
      t.curveBad (t.peek (t.regionBase u.groupTable + 64 * q.1.pgroup) 64)).map fun q => (⟨0x0701, secAt tab 9 0, some q.2⟩ : Found))

/-! ### What the loader computes (R219, R262, R467) -/

/-- The release of an occurrence, as shot cycle: the latest of the replays, or the shot's end where none releases it. -/
def latestRelease (l : List Tried) (p : Plan) (id k : Nat) : Nat :=
  match (l.map fun r => (r.released.filter fun q => decide (q.1 = id ∧ q.2.1 = k)).map fun q => r.cyc q.2.2).flatten with
  | [] => 7 * p.period
  | x :: t => t.foldl max x

/-- The durations of several replays, the longest for each START. -/
def longest (l : List (Nat × Nat × Nat × Nat)) : List (Nat × Nat × Nat × Nat) :=
  l.filter fun q => l.all fun o => decide (o.1 = q.1 ∧ o.2.1 = q.2.1 ∧ o.2.2.1 = q.2.2.1 → o.2.2.2 ≤ q.2.2.2)

/-- A plan with what the loader computes of it. -/
def State.computedPlan (s : State) (im : Image) (bs : List Byte) (p : Plan) : Plan :=
  if !p.runs then p
  else
    let l := widthCodes.map fun k => s.tried im bs p k
    { p with
      bars := p.bars.map fun b => { b with releases := b.releases.zipIdx.map fun q => latestRelease l p b.id q.2 }
      durations := longest (l.map fun r => r.durations).flatten
      reads := (l.map fun r => r.regionsRead im).flatten.eraseDups
      idempotent := l.all fun r => r.idempotent }

/-- The image with its plans so. -/
def State.computed (s : State) (im : Image) (bs : List Byte) : Image := { im with plans := im.plans.map fun p => s.computedPlan im bs p }

/-! ### The verdict (R444, R445) -/

/-- The first failure in the order of the codes. -/
def firstFound : List Found → Option Found
  | [] => none
  | f :: t => match firstFound t with | some g => if g.code < f.code then some g else some f | none => some f

/-- What the checks of the sections find. -/
def State.sectionChecks (s : State) (im : Image) (bs : List Byte) (tab : List SecEntry) : List Found :=
  let power := match secBytes bs tab 0x0D with | p :: _ => powerOf p.2 | [] => powerOf []
  im.fieldCheck bs tab ++ s.mapCheck im tab ++ s.regionCheck im bs tab ++ im.tableCheck tab ++ im.modeCheck tab ++ im.timeCheck tab ++
    im.sliceCheck tab ++ im.refreshCheck tab ++ im.gapCheck tab ++ s.profileCheck im bs tab ++ s.planChecks im bs tab ++
    s.energyCheck im bs power tab ++ s.peerCheck im tab ++ im.treeCheck tab ++ im.caseCheck tab ++ im.updCheck tab ++
    s.curveCheck im bs tab ++ im.ckptCheck tab

/-- The loader's verdict on an image of `len` bytes. -/
def State.imageCheck (s : State) (im : Image) (bs : List Byte) (len : Nat) : Option Found :=
  match headerCheck bs len with
  | some f => some f
  | none =>
    let tab := sectionTable bs
    match Sys2Proof.Machine.tableCheck len tab with
    | some f => some f
    | none =>
      match s.signCheck bs len with
      | some f => some f
      | none => firstFound (s.sectionChecks im bs tab)

/-- R444: the image is refused. -/
def State.refuseImage (s : State) (f : Found) : State :=
  let (s, item) := match f.item with
    | some n => (s, n)
    | none => let (s, n) := s.fresh; (s, (Config.refusalItem n).toNat)
  let s := s.setField A.cfgStatus 1 0 2
  let s := (s.setReg A.cfgRefusal (f.code * 65536 + f.sec)).setReg A.cfgRefusalAt item
  s.groomEvent Ev.cfgRefused (leBytes 2 f.code ++ leBytes 2 f.sec ++ leBytes 4 item)

/-- CFG_LOAD (R443, R444, R447): a host write of CFG_CTRL.load. `image`: what the staged bytes say in the sections whose layout the spec
does not give as a whole; its records of a stated layout come as bytes, and are read here. -/
def execCfgLoad (v : Word) (image : Image) (s : State) : Host.Outcome State Fault Refusal :=
  .next (if !s.awake || !natBit v.toNat 31 then s
    else if s.boot.mode ≠ .ready || s.boot.image.isSome || s.releasing then s.setBit A.cfgStatus 28
    else
      let s := s.putBit A.cfgStatus 28 false
      let len := s.reg A.cfgImgLen
      let (s, bs) := s.stagedBytes (s.wide A.cfgImgAddrLo A.cfgImgAddrHi) len
      let im := image.decoded
      match s.imageCheck im bs len with
      | some f => s.refuseImage f
      | none => s.admitImage (s.computed im bs) bs)

end Sys2Proof.Machine
end

