-- ==== Sys2Proof/Machine/Boot.lean ====
section
/-!
DEFINITION. Resets, start-up and the authority token (14), power-up, removal of power and cuts (16).
-/
namespace Sys2Proof.Machine

/-! ### What a reset keeps (R450) -/

/-- Everything a reset loses is as after reset; kept are the fence list, the flash (firmware copies, preference record, key store) and
what lies outside the module: cables, the input, what has been driven outward. The time count stands at the start-up's end. The core
cycles go on at a multiple of 7 times 524,288, so that the checker's lane and pattern (R164) and the refreshes of the stacks (R295)
count from the reset. Update passes that the reset cuts leave the module diverged (R330, log 146). -/
def State.lost (s : State) (mode : Mode) : State :=
  let x := (s.cyc + 3670015) / 3670016 * 3670016
  let f := s.safe.fenced
  let s' : State := { State.reset with
    pending := s.pending
    cyc := x
    off := (2 ^ 64 - x / 7 % 2 ^ 64) % 2 ^ 64
    stalls := f.foldl (fun m i => sset zeroStall m i (Stall.reset.powerOff 0)) []
    shot := { Shot.reset with ownFrom := x }
    train := { Train.reset with diverged := s.train.diverged || !s.train.passes.isEmpty }
    safe := { Safe.reset with fenced := f }
    fab := { Fab.reset with ports := s.fab.ports.foldl (fun m p => sset zeroPort m p.1 { Port.reset with cable := p.2.cable }) [] }
    flash := { s.flash with staging := false }
    boot := { Boot.reset with mode := mode }
    power := { Power.reset with
      pwrEn := s.power.pwrEn
      lowSince := s.power.lowSince
      latch := s.power.latch
      locked := s.power.locked
      vin := s.power.vin
      faults := s.power.faults
      calibrated := s.power.calibrated }
    free := s.free
    out := s.out }
  s'.setField A.safeStatus 9 0 f.length

/-! ### The authority token (R14, R453 to R455) -/

/-- The token passes from GW to GE (R454). GE becomes primary at the next closing margin, or at once where no shot is in progress and
no closing margin comes. A shot in whose closing margin the pass falls fails. -/
def State.passToken (s : State) : State :=
  if s.boot.token ≠ 0b01 then s
  else
    let s := s.groomEvent Ev.authTransfer []
    let waits := s.boot.image.isSome && (s.shot.begun || s.shot.epoch.isSome)
    let s : State := { s with boot := { s.boot with token := 0b10, takeover := waits, primaryGe := s.boot.primaryGe || !waits } }
    let s : State := if s.shot.begun && s.shot.margin && s.shot.fail.isNone then
        { s with shot := { s.shot with fail := some ⟨s.cyc, Ev.authTransfer, s.srcGroom⟩ } }
      else s
    s.doorbell 5

/-- The token is found inconsistent (R455): the module enters FAULT, after the shot in progress where there is one. -/
def State.splitAuthority (s : State) (token : BitVec 2) : State :=
  if s.boot.split then s
  else
    let s := s.groomEvent Ev.mgmtSplit []
    let s : State := { s with boot := { s.boot with split := true, token := token } }
    if s.shot.begun then s else s.enterFault

/-- GLB_AUTH_RELEASE (R454): GW's groom writes GLB_AUTH.release. -/
def execGlbAuthRelease (v : Word) (s : State) : Host.Outcome State Fault Refusal :=
  .next (if s.awake && natBit v.toNat 31 && !s.boot.gwSilent then s.passToken else s)

/-- TOKEN_INCONSISTENT (R455): the token, or what the two gates read of it, is inconsistent. -/
def execTokenInconsistent (token : BitVec 2) (s : State) : Host.Outcome State Fault Refusal :=
  .next (if s.awake then s.splitAuthority token else s)

/-! ### Start-up (R451, R452, R477, R482) -/

/-- The latched cause of a cut is reported (R482). -/
def State.reportLatch (s : State) : State :=
  let c := s.power.latch
  if c = 0 then s
  else
    let (code, bit) := if c ≤ 3 then (Ev.overcurrent, 31) else if c ≤ 5 then (Ev.inputVoltage, 30) else (Ev.thermalCritical, 26)
    let s := (s.setField A.pwrErr 3 0 c).setBit A.pwrErr bit
    { s with log := { s.log with held := s.log.held ++ [⟨code, srcHotSwap, 2 ^ 48 - 1, s.now, []⟩] } }

/-- The firmware fuse minimum is raised once a committed copy has reached READY (R459). -/
def Flash.ready (f : Flash) : Flash :=
  if f.raise_ && decide (f.running = f.prefer_) then { f with minimum := max f.minimum f.version, raise_ := false } else f

/-- Step 2 (R452): the copy that the gates run. -/
def State.startGrooms (s : State) (found : StartFindings) : State :=
  match found.gw.orElse fun _ => found.ge with
  | none => { s with boot := { s.boot with mode := .boot, stage := 2, fwFail := true, gwSilent := true } }
  | some (copy, version) =>
    let copies := s.flash.copies.set copy (some version)
    let copies := match found.fallback with | some (k, _, _) => copies.set k none | none => copies
    { s with
      flash := { s.flash with copies := copies, running := copy }
      boot := { s.boot with gwSilent := found.gw.isNone } }

/-- E_FW_FALLBACK (R430, R452). -/
def State.reportFallback (s : State) (found : StartFindings) : State :=
  match found.fallback with
  | some (copy, reason, version) =>
    s.groomEvent Ev.fwFallback ([BitVec.ofNat 8 copy, BitVec.ofNat 8 reason, 0, 0] ++ leBytes 4 version)
  | none => s

/-- Steps 3 to 7 of the start-up. -/
def State.startRest (s : State) (found : StartFindings) : State :=
  let s := s.reportFallback found
  let s := if found.gw.isNone then
      let s := s.passToken
      { s with boot := { s.boot with clockGe := true } }
    else s
  if !found.settled then
    let (s, n) := s.fresh
    let s : State := { s with boot := { s.boot with stage := 3 } }
    s.splitAuthority (if Config.splitToken n then 0b11 else 0b00)
  else
    let s := (found.failedStacks.filter fun j => j < 32).foldl (fun (s : State) j =>
      (s.setStack j { s.stack j with failed := true }).event Ev.hbmStackFailed (srcStack j) s.cyc []) s
    let s := (s.fence ((found.badStalls.filter fun i => i < 640).map fun i => (i, 2)) s.cyc).checkReplace
    { s with
      boot := { s.boot with mode := .ready, stage := 7 }
      host := { s.host with auxUp := found.aux, auxReady := found.aux }
      flash := s.flash.ready }

/-- GLB_AUX_STATUS follows the auxiliary link. -/
def State.auxStatus (s : State) : State := (s.putBit A.glbAuxStatus 31 s.host.auxUp).putBit A.glbAuxStatus 30 s.host.auxReady

/-- A cold or module reset with a cause, and the start-up that follows it. -/
def State.startUp (s : State) (cause : Nat) (found : StartFindings) : State :=
  let count := if cause = 1 then 0 else min 0xFFFF (s.field A.glbResetCause 31 16 + 1)
  let s := s.lost .boot
  let (s, n) := s.fresh
  let s : State := { s with off := (s.off + Config.startCounts n % 3000000001) % 2 ^ 64 }
  let s := s.setReg A.glbResetCause (count * 65536 + cause)
  let s := s.startGrooms found
  if s.boot.fwFail then s
  else
    let s := if cause = 1 then s.reportLatch else s
    (s.startRest found).auxStatus

/-- PERST_N (R450). -/
def execPerstN (found : StartFindings) (s : State) : Host.Outcome State Fault Refusal :=
  .next (if s.alive then s.startUp 2 found else s)

/-- GLB_RESET_MODULE (R450): a host write of GLB_RESET.module. -/
def execGlbResetModule (v : Word) (found : StartFindings) (s : State) : Host.Outcome State Fault Refusal :=
  .next (if s.awake && natBit v.toNat 0 then s.startUp 3 found else s)

/-- I3C_TARGET_RESET (R450, R505). -/
def execI3cTargetReset (found : StartFindings) (s : State) : Host.Outcome State Fault Refusal :=
  .next (if s.alive then s.startUp 4 found else s)

/-- GROOM_WATCHDOG_EXPIRE (R450, R454): GW's watchdog passes the token; with GE's expired too, the module resets. -/
def execGroomWatchdogExpire (both : Bool) (found : StartFindings) (s : State) : Host.Outcome State Fault Refusal :=
  .next (if !s.awake then s
    else if both then s.startUp 6 found
    else
      let s := s.passToken
      { s with boot := { s.boot with gwSilent := true } })

/-! ### Power (R482, R484 to R486) -/

/-- Counts of 100 ms in core cycles. -/
def lowTime : Nat := 175000000

/-- Power-up, where the input, PWR_EN and the hot-swap switch allow it. -/
def State.powerUp (s : State) (found : StartFindings) : State :=
  if s.alive || !s.power.pwrEn || s.power.locked || decide (s.power.vin < 46000) then s
  else s.startUp 1 found

/-- PWR_EN_RISE (R482, R484): a switch that a cut has opened stays open until PWR_EN has been low for 100 ms. -/
def execPwrEnRise (found : StartFindings) (s : State) : Host.Outcome State Fault Refusal :=
  .next (if s.power.pwrEn then s
    else
      let free := decide (s.power.lowSince + lowTime ≤ s.cyc)
      { s with power := { s.power with pwrEn := true, locked := s.power.locked && !free } }.powerUp found)

/-- PWR_EN_FALL (R485): the rails are removed; a latched cause that a start-up has reported goes. -/
def execPwrEnFall (s : State) : Host.Outcome State Fault Refusal :=
  .next (if !s.power.pwrEn then s
    else
      let s := s.lost .standby
      { s with power := { s.power with
        pwrEn := false, lowSince := s.cyc, latch := if s.power.locked then s.power.latch else 0 } })

/-- INPUT_VOLTAGE_RISE (R484). -/
def execInputVoltageRise (mv : Nat) (found : StartFindings) (s : State) : Host.Outcome State Fault Refusal :=
  .next (if s.alive then s else ({ s with power := { s.power with vin := mv } } : State).powerUp found)

/-- A cut (R482): every rail is removed, and the cause is latched. -/
def State.cut (s : State) (cause : Nat) : State :=
  if !s.alive || cause = 0 || 6 < cause then s
  else
    let s := s.lost .standby
    { s with power := { s.power with latch := cause, locked := true, faults := orBit s.power.faults cause } }

/-- POWER_CUT (R482). -/
def execPowerCut (cause : BitVec 4) (s : State) : Host.Outcome State Fault Refusal := .next (s.cut cause.toNat)

/-- ANALOG_THERMAL_TRIP (R500). -/
def execAnalogThermalTrip (s : State) : Host.Outcome State Fault Refusal := .next (s.cut 6)

/-- CLEAR_FAULTS (R505): the power stage's status; the latched cause stays. -/
def execClearFaults (s : State) : Host.Outcome State Fault Refusal :=
  .next (let s := s.cross cdcPmbus 0
    { s with power := { s.power with faults := 0 } })

end Sys2Proof.Machine
end

