-- ==== Sys2Proof/Machine/Power.lean ====
section
/-!
DEFINITION. Sensors, temperature, HOLD, the input and measured energy (16), and the sideband (R505).
-/
namespace Sys2Proof.Machine

/-! ### The sensor map (R483, R497) -/

def State.sensor (s : State) (i : Nat) : Sensor := sget zeroSensor s.power.sensors i

def State.setSensor (s : State) (i : Nat) (v : Sensor) : State :=
  { s with power := { s.power with sensors := sset zeroSensor s.power.sensors i v } }

/-- The sensors that are sampled. -/
def sampled : List Nat := List.range 80 ++ (List.range 29).map (80 + ·) ++ (List.range 29).map (112 + ·) ++ [144, 145]

/-- Nominal voltage of a rail in mV (R483). -/
def railMv (r : Nat) : Nat :=
  if r < 10 then 750 else if r < 18 then 1050 else if r < 26 then 700 else if r = 26 then 1800 else if r = 27 then 1200 else 3300

/-- Whether a reading is valid: temperatures from −40 °C to 150 °C, voltages from 0 to 120 % of nominal. -/
def validReading (i : Nat) (v : Int) : Bool :=
  if i < 80 then decide (-640 ≤ v ∧ v ≤ 2400)
  else if i < 109 then decide (0 ≤ v ∧ v * 100 ≤ 120 * (railMv (i - 80) : Nat))
  else if i = 144 then decide (0 ≤ v ∧ v * 100 ≤ 120 * 52000)
  else decide (0 ≤ v)

/-- Whether an input voltage lies within 46 V to 56 V. -/
def inputOk (mv : Nat) : Bool := decide (46000 ≤ mv ∧ mv ≤ 56000)

/-- A sensor after a sample: `o` is what it gave. `hot` counts readings of 110 °C or more of a junction, of the input voltage readings
in range. -/
def Sensor.take (x : Sensor) (i : Nat) (o : Option Int) : Sensor :=
  match o with
  | some v =>
    if validReading i v then
      let keep := if i = 144 then inputOk v.toNat else decide (1760 ≤ v)
      { x with value := v, valid := true, bad := 0, hot := if keep then x.hot + 1 else 0 }
    else { x with valid := false, bad := x.bad + 1 }
  | none => { x with valid := false, bad := x.bad + 1 }

/-- What a junction counts as, in 1/16 °C: a failed one as 95 °C (R497). -/
def Sensor.temp (x : Sensor) : Int := if x.failed then 1520 else x.value

/-- The junction temperatures. -/
def State.junctions (s : State) : List Int := (List.range 76).map fun i => (s.sensor i).temp

/-- The hottest junction sensor, the lowest of equals, and its temperature. -/
def hottest (l : List Int) : Nat × Int :=
  l.zipIdx.foldl (fun (b : Nat × Int) p => if b.2 < p.1 then (p.2, p.1) else b) (0, l.headD 0)

/-! ### HOLD (R487 to R489) -/

/-- The running RUN completes with the status of the event that ends it (R487 step 2). -/
def State.endRun (s : State) (code : Nat) : State :=
  match s.host.runs with
  | q :: _ =>
    if !q.started then s
    else
      let mine := s.shot.begun && s.shot.plan.isSome
      let q : RunEntry := if mine then { q with failed := q.failed + 1 } else q
      let s := if mine || s.safe.rerun then s.markFailed q.step else s
      let s : State := { s with safe := { s.safe with rerun := false, reruns := 0 } }
      (s.setHead none).completeRun q code 0 s.cyc
  | [] => s

/-- An abort that has been ordered arrives before the clocks stop. -/
def State.finishAbort (s : State) : State :=
  match s.safe.abort with | some x => (s.at_ x).abortShot x | none => s

/-- R329, R487: update passes that the stop cuts short. -/
def State.cutPasses (s : State) : State :=
  if s.train.passes.isEmpty then s
  else
    let s := s.setField A.updLastResult 31 30 3
    ({ s with train := { s.train with passes := [] } } : State).diverge

/-- R487, R489: the clocks stop, and the module is in HOLD unless it is in FAULT. -/
def State.stopClocks (s : State) : State :=
  let s := if s.shot.begun && s.shot.gone.isNone && !s.bit A.glbAudit 0 then
      ((s.failShot s.cyc Ev.thermalCritical s.srcGroom).orderAbort s.cyc).finishAbort
    else s
  let s := (s.endRun Ev.thermalCritical).cutPasses
  { s with
    boot := { s.boot with mode := if s.boot.mode = .fault then .fault else .hold }
    power := { s.power with stopped := true, resumeAt := none } }

/-! ### Sensors (R497 to R499) -/

/-- R498: the warning at 95 °C, and its end below 90 °C. -/
def State.judgeWarm (s : State) : State :=
  let l := s.junctions
  if !s.power.warned && l.any fun t => decide (1520 ≤ t) then
    let s := ((s.groomEvent Ev.thermalWarning []).setBit A.pwrErr 27).putBit A.pwrStatus 31 true
    let s : State := { s with power := { s.power with warned := true } }
    (s.doorbell 1).emit (.pin pinAlert false)
  else if s.power.warned && l.all fun t => decide (t < 1440) then
    let s := (s.putBit A.pwrStatus 31 false).putBit A.mbxHdb 1 false
    ({ s with power := { s.power with warned := false } } : State).emit (.pin pinAlert true)
  else s

/-- R499: two consecutive readings of 110 °C or more of a junction. -/
def State.judgeHot (s : State) : State :=
  if s.power.thermOut || !(List.range 76).any (fun i => decide (2 ≤ (s.sensor i).hot)) then s
  else
    let s := ((s.groomEvent Ev.thermalCritical []).setBit A.pwrErr 26).emit (.pin pinTherm false)
    ({ s with power := { s.power with thermOut := true } } : State).stopClocks

/-- The input voltage and current of a sample; an excursion ends when the input has been back in range for 1 ms, ten samples. -/
def State.readInput (s : State) : State :=
  let v := s.sensor 144
  let i := s.sensor 145
  let s := if v.valid then
      ({ s with power := { s.power with vin := v.value.toNat, excursion := s.power.excursion && decide (v.hot < 10) } } : State).setField
        A.pwrVin 15 0 v.value.toNat
    else s
  let s := if i.valid then s.setField A.pwrIin 15 0 i.value.toNat else s
  s.putBit A.pwrStatus 29 (!inputOk s.power.vin)

/-- SENSOR_SAMPLE (R497 to R499): a sample of every sensor; `readings` holds what each gave, in 1/16 °C, mV or 10 mA.
The readings cross together. -/
def execSensorSample (readings : List (Nat × Option Int)) (s : State) : Host.Outcome State Fault Refusal :=
  .next (if !s.awake then s
    else
      let s := s.cross cdcSensor 0
      let s := sampled.foldl (fun s i =>
        s.setSensor i ((s.sensor i).take i ((readings.find? fun r => r.1 = i).bind fun r => r.2))) s
      s.readInput.judgeWarm.judgeHot)

/-- SENSOR_FAULT (R497): a sensor has given no valid reading for 300 µs. -/
def execSensorFault (index : Nat) (s : State) : Host.Outcome State Fault Refusal :=
  .next (let x := s.sensor index
    if !s.awake || !sampled.contains index || x.failed || decide (x.bad < 3) then s
    else
      let s := s.setSensor index { x with failed := true }
      (((s.groomEvent Ev.sensorFault []).setBit A.pwrErr 25).putBit A.pwrStatus 28 true).judgeWarm)

/-- PWR_CTRL_RESUME (R488, R489): a host write of PWR_CTRL.resume. -/
def execPwrCtrlResume (v : Word) (s : State) : Host.Outcome State Fault Refusal :=
  .next (if !s.awake || !natBit v.toNat 31 then s
    else if s.boot.mode ≠ .hold || s.junctions.any fun t => decide (1440 ≤ t) then s.putBit A.pwrStatus 27 true
    else
      let s := s.putBit A.pwrStatus 27 false
      let reads := s.host.bar2
      let s : State := { s with
        power := { s.power with stopped := false, thermOut := false, resumeAt := some (s.cyc + 7 * 250000) }
        shot := { s.shot with ownFrom := s.cyc }
        host := { s.host with bar2 := [] }
        boot := { s.boot with mode := if s.boot.image.isSome then .hold else .ready } }
      let s := s.emit (.pin pinTherm true)
      reads.foldl (fun s r => s.serveBar2 r.off r.len) s)

/-! ### Input and energy (R481, R494) -/

/-- INPUT_VOLTAGE_EXCURSION (R481): the input has been outside 46 V to 56 V for 1 ms. -/
def execInputVoltageExcursion (mv : Nat) (s : State) : Host.Outcome State Fault Refusal :=
  .next (if !s.awake || inputOk mv then s
    else
      let s := ({ s with power := { s.power with vin := mv } } : State).setField A.pwrVin 15 0 mv
      let s := s.putBit A.pwrStatus 29 true
      if s.power.excursion then s
      else
        let s := (s.groomEvent Ev.inputVoltage []).setBit A.pwrErr 30
        { s with power := { s.power with excursion := true } })

/-- Intervals in 10 ms (R493). -/
def longIntervals : Nat := 9765

/-- R494: an excursion: the current shot fails, and cool-down begins. -/
def State.excursion (s : State) : State :=
  let s := (s.failEvent Ev.excursion s.srcGroom s.cyc []).setBit A.pwrErr 29
  let s := (s.bump A.pwrAbove 31 16 1).putBit A.pwrStatus 30 true
  { s with power := { s.power with cool := true } }

/-- R494: cool-down ends when the mean over the last 10 ms is below budget. -/
def State.coolDown (s : State) (budget : Nat) : State :=
  let l := s.power.recent
  if s.power.cool && decide (l.foldl (· + ·) 0 < budget * 1024 * l.length) then
    ({ s with power := { s.power with cool := false } } : State).putBit A.pwrStatus 30 false
  else s

/-- ENERGY_INTERVAL (R494, R506): an energy interval of 256 counts has been measured, in nJ. -/
def execEnergyInterval (nj : Nat) (s : State) : Host.Outcome State Fault Refusal :=
  .next (if !s.awake then s
    else
      let w := nj / 1024
      let budget := match s.boot.image with | some im => im.power.budget | none => 0
      let above := s.boot.image.isSome && decide (budget * 1024 < nj)
      let run := if above then s.power.runAbove + 1 else 0
      let s := (s.setField A.pwrPin 15 0 (min 0xFFFF w)).setField A.pwrPin 31 16 (max (s.field A.pwrPin 31 16) (min 0xFFFF w))
      let s : State := { s with
        power := { s.power with runAbove := run, recent := (nj :: s.power.recent).take longIntervals }
        shot := { s.shot with measured := if s.shot.begun then s.shot.measured + nj else s.shot.measured } }
      let s := s.setField A.pwrAbove 15 0 (min 0xFFFF run)
      if 4800 * 1024 < nj ∨ run = longIntervals + 1 then s.excursion else s.coolDown budget)

/-- PWR_CTRL_PEAK_CLEAR (R506). -/
def execPwrCtrlPeakClear (v : Word) (s : State) : Host.Outcome State Fault Refusal :=
  .next (if s.awake && natBit v.toNat 30 then s.setField A.pwrPin 31 16 0 else s)

/-! ### Cables and sideband (R503, R505) -/

/-- CABLE_PRESENT_CHANGE (R503): CBLq_PRSNT_N of a port; a port in mode 2 receives CBL_3V3 while the signal is low. -/
def execCablePresentChange (p : PortId) (present : Bool) (s : State) : Host.Outcome State Fault Refusal :=
  .next (let s := s.setPort p.val { s.port p.val with cable := present }
    if s.awake && decide (s.portMode p.val = 2) then s.emit (.pin (pinCable p.val) present) else s)

/-- The coefficient that an index of the sensor map shows (R492, R497): the one in use, or the calibrated one. -/
def State.coefficient (s : State) (i : Nat) : Option Nat :=
  let own (k : Nat) : Nat := s.power.calibrated.getD k 0
  if 160 ≤ i ∧ i ≤ 177 then
    some (max (own (i - 160)) (match s.boot.image with | some im => im.power.coeffs.getD (i - 160) 0 | none => 0))
  else if 192 ≤ i ∧ i ≤ 209 then some (own (i - 192))
  else none

/-- What a sensor of the map reads (R497): a sampled one its latest valid reading. -/
def State.sensorReading (s : State) (i : Nat) : Option Int :=
  match s.coefficient i with
  | some c => some c
  | none => if (s.sensor i).valid then some (s.sensor i).value else none

/-- PLDM_REQUEST (R505): GW answers type 0, and type 2 with a sensor's reading. -/
def execPldmRequest (type : BitVec 8) (sensor : Nat) (s : State) : Host.Outcome State Fault Refusal :=
  .next (if !s.alive then s
    else if type = 0 then s.emit (.pldm 0 0 none)
    else if type = 2 then s.emit (.pldm 2 sensor (s.sensorReading sensor))
    else s)

/-- A byte of the FRU EEPROM, 8 KiB at I2C address 0x50, in any state of the module (R505). No row of the table reads it. -/
def fruByte (a : Nat) : Byte := Config.fru (a % 8192)

/-- DYNAMIC_ADDRESS_ASSIGNMENT (R505). -/
def execDynamicAddressAssignment (addr : BitVec 7) (s : State) : Host.Outcome State Fault Refusal :=
  .next (if !s.alive then s
    else
      let s := s.cross cdcSideband 0
      { s with power := { s.power with i3c := addr.toNat } })

end Sys2Proof.Machine
end

