-- ==== Sys2Proof/Machine/Refresh.lean ====
section
/-!
DEFINITION. Refresh, scrub and repair of the stacks (09), as commands.
-/
namespace Sys2Proof.Machine

/-- The stack address of line n of a pseudo-channel (R276). -/
def lineAddr (pc n : Nat) : Nat := (n / 32 * 64 + pc) * 2048 + n % 32 * 64

/-- R292: the scrubber reads one unit. -/
def State.scrubUnit (s : State) (j a x : Nat) : State :=
  let (bs, k) := s.decodeUnit j a
  match k with
  | .clean => s
  | .fixed => s.encodeUnit j a bs
  | .lost =>
    let s := s.bump (stackReg A.hbmEccCount j) 31 16 1
    (s.event Ev.hbmScrubUncorrectable (srcStack j) x (unitDetail a)).recordUnit j a 29

/-- R289: the base die reads a unit of its repair list again, and writes it back where it still decodes with a correction. -/
def State.repairUnit (s : State) (j a x : Nat) : State :=
  let (bs, k) := s.decodeUnit j a
  match k with
  | .clean => s
  | .fixed => s.encodeUnit j a bs
  | .lost => s.uncorrectable j a x

/-- A refresh of a pseudo-channel at cycle x, with the repair and scrub work due in it (R289, R292, R293). -/
def State.refreshPc (s : State) (j pc x : Nat) : State :=
  let k := s.stack j
  let last := sget zeroNat k.lastRef pc
  let s := if last = 0 then s
    else
      let r := stackReg A.hbmRefresh j
      s.setField r 31 16 (max (s.field r 31 16) (min 0xFFFF (x + 1 - last)))
  let due := k.repair.filter fun a => pcOf a = pc
  let s := due.foldl (fun s a => s.repairUnit j a x) s
  let n := sget zeroNat k.refreshes pc + 1
  let rest := k.repair.filter fun a => pcOf a ≠ pc
  let s := s.setStack j { s.stack j with
    repair := rest, refreshes := sset zeroNat k.refreshes pc n, lastRef := sset zeroNat k.lastRef pc (x + 1) }
  let s := s.setField (stackReg A.hbmStatus j) 20 16 rest.length
  if n % 512 ≠ 0 then s
  else
    let w := sget zeroNat k.walk pc
    let a := lineAddr pc w
    let s := (s.scrubUnit j a x).scrubUnit j (a + 32) x
    let k := s.stack j
    if w + 1 = 2 ^ 24 then
      s.setStack j { k with walk := sset zeroNat k.walk pc 0, passes := sset zeroNat k.passes pc (sget zeroNat k.passes pc + 1) }
    else s.setStack j { k with walk := sset zeroNat k.walk pc (w + 1) }

/-- The first slot of a stack and quarter in the running shot after that quarter's last refresh. -/
def State.nextSlot (s : State) (j q : Nat) : Option Nat :=
  match s.plan with
  | none => none
  | some p =>
    let last := sget zeroNat (s.stack j).lastRef (16 * q)
    (p.refresh.filter fun r => decide (r.1 = j ∧ r.2.1 = q ∧ last ≤ s.shot.begin_ + r.2.2)).foldl (fun m r =>
      let x := s.shot.begin_ + r.2.2
      match m with | some y => some (min x y) | none => some x) none

/-- REFRESH_SLOT (R293): the next slot of a stack and quarter in the running shot. -/
def execRefreshSlot (j : StackId) (q : Fin 4) (s : State) : Host.Outcome State Fault Refusal :=
  .next (if !s.clocked || !s.running || (s.stack j.val).failed then s
    else
      match s.nextSlot j.val q.val with
      | none => s
      | some x => (List.range 16).foldl (fun s k => s.refreshPc j.val (16 * q.val + k) x) (s.at_ x))

/-- R295: the cycle in which the base die refreshes a pseudo-channel on its own timer: in the first 1,536 cycles of that mode, and
every 1,750 cycles from then on. -/
def State.ownDue (s : State) (j pc : Nat) : Nat :=
  let last := sget zeroNat (s.stack j).lastRef pc
  if last ≤ s.shot.ownFrom then s.shot.ownFrom + 384 * (pc / 16) + 383 else last - 1 + 1750

/-- OWN_TIMER_REFRESH (R52, R295): outside running shots. -/
def execOwnTimerRefresh (j : StackId) (pc : Fin 64) (s : State) : Host.Outcome State Fault Refusal :=
  .next (if !s.clocked || s.running || (s.stack j.val).failed then s
    else
      let x := s.ownDue j.val pc.val
      (s.at_ x).refreshPc j.val pc.val x)

end Sys2Proof.Machine
end

