-- ==== Sys2Proof/Machine/Secure.lean ====
section
/-!
DEFINITION. The SPDM responder and the secure operations (14, R426). Response codes are those of SPDM 1.3.
-/
namespace Sys2Proof.Machine

/-! ### Sessions and answers (R16, R457) -/

/-- GW answers on both transports while it can act as responder (R16); in BOOT the boot ROM serves (R451). -/
def State.responds (s : State) : Bool := s.alive && (!s.boot.gwSilent || s.boot.fwFail)

def State.session (s : State) (t : Transport) : Session := match t with | .doe => s.sec.doe | .mctp => s.sec.mctp

def State.setSession (s : State) (t : Transport) (v : Session) : State :=
  match t with
  | .doe => { s with sec := { s.sec with doe := v } }
  | .mctp => { s with sec := { s.sec with mctp := v } }

/-- Whether a transport carries a secured session. -/
def State.secured (s : State) (t : Transport) : Bool := decide ((s.session t).state = .secured)

/-- An SPDM ERROR response with an error code. -/
def State.spdmError (s : State) (t : Transport) (code : Nat) : State := s.emit (.spdm t 0x7F (leBytes 1 code))

/-- Error codes of SPDM: invalid request, unexpected request, unsupported request, session required, session limit. -/
def errInvalid : Nat := 0x01
def errUnexpected : Nat := 0x04
def errDecrypt : Nat := 0x06
def errUnsupported : Nat := 0x07
def errSession : Nat := 0x0B
def errLimit : Nat := 0x0A

/-- An answer once version, capabilities and algorithms have been negotiated on the transport. -/
def State.negotiated (s : State) (t : Transport) (f : State → State) : State :=
  if !s.responds then s
  else if !(s.session t).algs then s.spdmError t errUnexpected
  else f s

/-- GET_VERSION (R457): 1.3 only. -/
def State.versionAnswer (s : State) (t : Transport) : State :=
  (s.setSession t { s.session t with version := true, caps := false, algs := false }).emit (.spdm t 0x04 [0x13])

/-- GET_VERSION (R457). -/
def execGetVersion (t : Transport) (_version : BitVec 8) (s : State) : Host.Outcome State Fault Refusal :=
  .next (if s.responds then s.versionAnswer t else s)

/-- GET_CAPABILITIES (R457); of another version it is answered with VERSION. -/
def execGetCapabilities (t : Transport) (version : BitVec 8) (s : State) : Host.Outcome State Fault Refusal :=
  .next (if !s.responds then s
    else if version ≠ 0x13 then s.versionAnswer t
    else if !(s.session t).version then s.spdmError t errUnexpected
    else (s.setSession t { s.session t with caps := true }).emit (.spdm t 0x61 []))

/-- NEGOTIATE_ALGORITHMS (R457): `supported` says that the request offers the algorithms of R457. -/
def execNegotiateAlgorithms (t : Transport) (supported : Bool) (s : State) : Host.Outcome State Fault Refusal :=
  .next (if !s.responds then s
    else if !(s.session t).caps then s.spdmError t errUnexpected
    else if !supported then s.spdmError t errUnsupported
    else (s.setSession t { s.session t with algs := true }).emit (.spdm t 0x63 []))

/-- GET_DIGESTS (R456, R457): the digest of the chain in slot 0. -/
def execGetDigests (t : Transport) (s : State) : Host.Outcome State Fault Refusal :=
  .next (s.negotiated t fun s => s.emit (.spdm t 0x01 (sha256 Config.certChain)))

/-- GET_CERTIFICATE (R456): a part of the chain in slot 0; a message is at most 4,096 bytes (R457). -/
def execGetCertificate (t : Transport) (slot : BitVec 8) (off len : BitVec 16) (s : State) : Host.Outcome State Fault Refusal :=
  .next (s.negotiated t fun s =>
    if slot ≠ 0 then s.spdmError t errInvalid
    else s.emit (.spdm t 0x02 ((Config.certChain.drop off.toNat).take (min len.toNat 4096))))

/-- CHALLENGE (R457): signed with the module key. -/
def execChallenge (t : Transport) (slot : BitVec 8) (nonce : List Byte) (s : State) : Host.Outcome State Fault Refusal :=
  .next (s.negotiated t fun s =>
    if slot ≠ 0 then s.spdmError t errInvalid
    else
      let m := sha256 Config.certChain ++ nonce
      s.emit (.spdm t 0x03 (m ++ Config.moduleSign m)))

/-! ### Measurements (R458) -/

/-- Registers of a digest. -/
def State.digestBytes (s : State) (a : Nat) : List Byte := ((List.range 8).map fun n => leBytes 4 (s.reg (a + 4 * n))).flatten

/-- R458 block 7: bit 20 a + n of the 10 bytes of barn b for each fenced stall. -/
def State.fenceBytes (s : State) : List Byte :=
  ((List.range 8).map fun b => leBytes 10 (((List.range 80).filter fun k => s.safe.fenced.contains (80 * b + k)).foldl (fun n k => n + 2 ^ k) 0)).flatten

/-- The content of a measurement block. -/
def State.measurement (s : State) (i : Nat) : List Byte :=
  match i with
  | 1 => Config.romDigest
  | 2 => Config.fwDigest s.flash.running s.flash.version
  | 3 => leBytes 4 s.flash.version ++ leBytes 4 s.flash.minimum
  | 4 => sha256 ((s.flash.keys.map fun k => k.getD Config.emptySlot).flatten)
  | 5 => s.digestBytes A.cfgDigest
  | 6 => s.digestBytes A.cfgConfDigest
  | _ => s.fenceBytes

/-- GET_MEASUREMENTS (R458): the number of blocks (index 0), one block or all of them (0xFF), signed on request. -/
def execGetMeasurements (t : Transport) (index : BitVec 8) (sign : Bool) (nonce : List Byte) (s : State) : Host.Outcome State Fault Refusal :=
  .next (s.negotiated t fun s =>
    let i := index.toNat
    if 7 < i ∧ i ≠ 0xFF then s.spdmError t errInvalid
    else
      let blocks := if i = 0 then [] else if i = 0xFF then [1, 2, 3, 4, 5, 6, 7] else [i]
      let body := leBytes 1 (if i = 0 then 7 else blocks.length) ++ (blocks.map fun k => leBytes 1 k ++ s.measurement k).flatten
      s.emit (.spdm t 0x60 (if sign then body ++ nonce ++ Config.moduleSign (body ++ nonce) else body)))

/-! ### Secured sessions (R457) -/

/-- KEY_EXCHANGE (R457): a session begins to be set up; a transport has one. -/
def execKeyExchange (t : Transport) (mutual_ : Bool) (exchange : List Byte) (s : State) : Host.Outcome State Fault Refusal :=
  .next (s.negotiated t fun s =>
    if (s.session t).state ≠ .none then s.spdmError t errLimit
    else
      let n := s.sec.sessions + 1
      let s : State := { s with sec := { s.sec with sessions := n } }
      let s := s.setSession t { s.session t with state := .handshaking, id := n, mutual_ := mutual_, keyDigest := [], updates := 0 }
      let r := Config.keyExchange exchange n
      s.emit (.spdm t 0x64 (r ++ Config.moduleSign r)))

/-- A session ends. -/
def Session.ended (x : Session) : Session := { x with state := .none, mutual_ := false, keyDigest := [], updates := 0 }

/-- FINISH (R457): `valid` says that the requester's proof verifies; `keyDigest` is the digest of the requester's key where the session
is mutually authenticated. -/
def execFinish (t : Transport) (valid : Bool) (keyDigest : List Byte) (s : State) : Host.Outcome State Fault Refusal :=
  .next (let x := s.session t
    if !s.responds then s
    else if x.state ≠ .handshaking then s.spdmError t errUnexpected
    else if !valid then (s.setSession t x.ended).spdmError t errDecrypt
    else (s.setSession t { x with state := .secured, keyDigest := if x.mutual_ then keyDigest else [] }).emit (.spdm t 0x65 []))

/-- A request that only a secured session carries. -/
def State.inSession (s : State) (t : Transport) (f : State → State) : State :=
  if !s.responds then s else if !s.secured t then s.spdmError t errSession else f s

/-- HEARTBEAT (R457). -/
def execHeartbeat (t : Transport) (s : State) : Host.Outcome State Fault Refusal :=
  .next (s.inSession t fun s => s.emit (.spdm t 0x68 []))

/-- KEY_UPDATE (R457): the session's keys are renewed. -/
def execKeyUpdate (t : Transport) (s : State) : Host.Outcome State Fault Refusal :=
  .next (s.inSession t fun s => (s.setSession t { s.session t with updates := (s.session t).updates + 1 }).emit (.spdm t 0x69 []))

/-- END_SESSION (R457). -/
def execEndSession (t : Transport) (s : State) : Host.Outcome State Fault Refusal :=
  .next (s.inSession t fun s => (s.setSession t (s.session t).ended).emit (.spdm t 0x6C []))

/-! ### Secure operations (R426, R459) -/

/-- A vendor-defined response with a return code and data. -/
def State.vendorAnswer (s : State) (t : Transport) (code : Nat) (bytes : List Byte) : State := s.emit (.spdm t 0x7E (leBytes 1 code ++ bytes))

/-- An operation runs, in a secured session and while no other runs: its effect `f` gives the state and the return code with which the
operation ends. -/
def State.secureOp (s : State) (t : Transport) (op : Nat) (f : State → State × Nat) : State :=
  s.inSession t fun s =>
    if s.sec.running.isSome then s.vendorAnswer t 1 []
    else
      let (s, code) := f s
      ({ s with sec := { s.sec with running := some op, pendCode := code } } : State).vendorAnswer t 0 []

/-- The secure acknowledge register (R426): sequence, busy, return code. -/
def Secure.ack (x : Secure) : List Byte := leBytes 2 x.seqNo ++ leBytes 1 (if x.running.isSome then 1 else 0) ++ leBytes 1 x.code

/-- POLL (R459): the acknowledge register; ready is cleared. -/
def State.pollOp (s : State) (t : Transport) : State :=
  s.inSession t fun s => ({ s with sec := { s.sec with ready := false } } : State).vendorAnswer t 0 s.sec.ack

/-- The firmware copy that does not run. -/
def Flash.other (f : Flash) : Nat := 1 - f.running

/-- The greatest length of a firmware copy (R452). -/
def copySize : Nat := 31 * 2 ^ 20

/-- The place of a copy in the flash (R452). -/
def copyBase (k : Nat) : Nat := if k = 0 then 0 else 0x1F00000

/-- FW_STAGE: bytes into the copy that does not run; the first write of a staging erases it. -/
def State.stageFw (s : State) (off : Nat) (data : List Byte) : State × Nat :=
  if 3072 < data.length ∨ copySize < off + data.length then (s, 5)
  else
    let f := s.flash
    let base := copyBase f.other
    let kept := if f.staging then f.bytes else f.bytes.filter fun p => !(decide (base ≤ p.1) && decide (p.1 < base + copySize))
    ({ s with flash := { f with bytes := kept.write (base + off) data, staging := true, copies := f.copies.set f.other none } }, 0)

/-- FW_ACTIVATE: `found` is the security version of the staged copy where it verifies. -/
def State.activateFw (s : State) (commit : Bool) (found : Option Nat) : State × Nat :=
  let f := s.flash
  match found with
  | none => ({ s with flash := { f with staging := false } }, 4)
  | some v =>
    ({ s with flash := { f with copies := f.copies.set f.other (some v), prefer_ := f.other, raise_ := commit, staging := false } }, 0)

/-- Whether a session may change the key slots (R459). -/
def State.mayKey (s : State) (t : Transport) (enroll : Bool) : Bool :=
  let x := s.session t
  let keys := s.flash.keys
  (x.mutual_ && keys.contains (some x.keyDigest)) ||
    (enroll && keys.all (fun k => k.isNone) && x.mutual_ && decide (t = .mctp))

/-- The return code for a slot above 3, which the spec does not name. -/
def State.badSlot (s : State) : State × Nat :=
  let (s, n) := s.fresh
  (s, (Config.secureCode n).toNat)

/-- KEY_ENROLL. -/
def State.enrollKey (s : State) (t : Transport) (slot : Nat) (key : List Byte) : State × Nat :=
  if !s.mayKey t true then (s, 3)
  else if key.length ≠ 388 then (s, 5)
  else if 3 < slot then s.badSlot
  else ({ s with flash := { s.flash with keys := s.flash.keys.set slot (some (sha256 key)) } }, 0)

/-- KEY_REVOKE: an image that is admitted stays so. -/
def State.revokeKey (s : State) (t : Transport) (slot : Nat) : State × Nat :=
  if !s.mayKey t false then (s, 3)
  else if 3 < slot then s.badSlot
  else ({ s with flash := { s.flash with keys := s.flash.keys.set slot none } }, 0)

/-- INFO: module ID, serial number, running copy, versions. -/
def State.infoBytes (s : State) : List Byte :=
  leBytes 2 s.myId ++ Config.serial ++ leBytes 1 s.flash.running ++ leBytes 4 s.flash.version ++ leBytes 4 s.flash.minimum

/-- INFO answers with its data. -/
def State.infoOp (s : State) (t : Transport) : State :=
  s.inSession t fun s =>
    if s.sec.running.isSome then s.vendorAnswer t 1 []
    else ({ s with sec := { s.sec with running := some 6, pendCode := 0 } } : State).vendorAnswer t 0 s.infoBytes

/-- POLL (R459). -/
def execPoll (t : Transport) (s : State) : Host.Outcome State Fault Refusal := .next (s.pollOp t)

/-- FW_STAGE (R459). -/
def execFwStage (t : Transport) (off : Nat) (data : List Byte) (s : State) : Host.Outcome State Fault Refusal :=
  .next (s.secureOp t 2 fun s => s.stageFw off data)

/-- FW_ACTIVATE (R459). -/
def execFwActivate (t : Transport) (commit : Bool) (found : Option Nat) (s : State) : Host.Outcome State Fault Refusal :=
  .next (s.secureOp t 3 fun s => s.activateFw commit found)

/-- KEY_ENROLL (R459). -/
def execKeyEnroll (t : Transport) (slot : Nat) (key : List Byte) (s : State) : Host.Outcome State Fault Refusal :=
  .next (s.secureOp t 4 fun s => s.enrollKey t slot key)

/-- KEY_REVOKE (R459). -/
def execKeyRevoke (t : Transport) (slot : Nat) (s : State) : Host.Outcome State Fault Refusal :=
  .next (s.secureOp t 5 fun s => s.revokeKey t slot)

/-- INFO (R459). -/
def execInfo (t : Transport) (s : State) : Host.Outcome State Fault Refusal := .next (s.infoOp t)

/-- What a vendor-defined request's payload asks for (R459): its first byte selects the operation, its arguments follow. -/
def State.vendorOp (s : State) (t : Transport) (p : List Byte) : State :=
  let n := p.length
  match leAt p 0 1 with
  | 1 => if n = 1 then s.pollOp t else s.secureOp t 1 fun s => (s, 5)
  | 2 => if n < 5 then s.secureOp t 2 fun s => (s, 5) else s.secureOp t 2 fun s => s.stageFw (leAt p 1 4) (p.drop 5)
  | 3 =>
    if n ≠ 2 then s.secureOp t 3 fun s => (s, 5)
    else s.secureOp t 3 fun s =>
      let (s, k) := s.fresh
      s.activateFw (decide (leAt p 1 1 ≠ 0)) (Config.stagedVersion k)
  | 4 => if n ≠ 390 then s.secureOp t 4 fun s => (s, 5) else s.secureOp t 4 fun s => s.enrollKey t (leAt p 1 1) (p.drop 2)
  | 5 => if n ≠ 2 then s.secureOp t 5 fun s => (s, 5) else s.secureOp t 5 fun s => s.revokeKey t (leAt p 1 1)
  | 6 => if n = 1 then s.infoOp t else s.secureOp t 6 fun s => (s, 5)
  | k => s.secureOp t k fun s => (s, 2)

/-- VENDOR_DEFINED_REQUEST (R401, R426, R459): outside a secured session it is answered with an error and changes nothing. A request of another
vendor ID than the module's is no secure operation, and is answered with an error too (log 153). -/
def execVendorDefinedRequest (t : Transport) (secured : Bool) (payload : VendorRequest) (s : State) : Host.Outcome State Fault Refusal :=
  .next (if !s.responds then s
    else if !secured then s.spdmError t errSession
    else if payload.vendor.toNat ≠ s.host.pci.vendor then s.spdmError t errInvalid
    else s.vendorOp t payload.data)

/-- SECURE_OPERATION_END (R426): the result enters the acknowledge register, and ready is set. -/
def execSecureOperationEnd (s : State) : Host.Outcome State Fault Refusal :=
  .next (match s.sec.running with
    | some _ =>
      if s.alive then
        { s with sec := { s.sec with running := none, code := s.sec.pendCode, seqNo := (s.sec.seqNo + 1) % 65536, ready := true } }
      else s
    | none => s)

end Sys2Proof.Machine
end

