-- ==== Sys2Proof/WellFormed.lean ====
section
/-!
DEFINITION. Which commands a sender can form: the lengths and ranges that the medium of each command imposes. The ranges of the
identifiers of stalls, barns, stacks, ports, rings and contexts stand in their types.
-/
namespace Sys2Proof

open Sys2Proof.Machine (Frame)

/-- R366: a data frame carries at most 1,792 payload bytes, and its length field says how many it carries; every field lies in
its width (R372). -/
def frameOk (f : Frame) : Bool :=
  decide (f.payload.length ≤ 1792) && decide (f.length = f.payload.length) && decide (f.kind < 256) && decide (f.flags < 256) &&
  decide (f.src < 65536) && decide (f.dst < 65536) && decide (f.window < 256) && decide (f.hops < 256) &&
  decide (f.gen < 65536) && decide (f.lseq < 65536) && decide (f.number < 65536) && decide (f.offset < 2 ^ 48) &&
  decide (f.pgroup < 65536) && decide (f.sigma < 2 ^ 32) && decide (f.whenC < 2 ^ 29) && decide (f.whenS < 8)

/-- R412: a submission entry is 64 bytes. -/
def entryOk (data : List Byte) (ok : Bool) : Bool := !ok || decide (data.length = 64)

/-- R402, R403: an offset of BAR2 and an access of at most the maximum payload size. -/
def bar2Ok (off len : Nat) : Bool := decide (off < 2 ^ 41) && decide (0 < len ∧ len ≤ 512)

/-- R402: an address of BAR0. -/
def bar0Ok (addr : Nat) : Bool := decide (addr < 0x4000000)

/-- R7: an access that BAR0 does not accept: of a size other than 4 and 8 bytes, or not aligned. -/
def badAccess (addr size : Nat) : Bool := bar0Ok addr && (decide (size ≠ 4 ∧ size ≠ 8) || decide (addr % size ≠ 0))

/-- R497: the sensors of the sensor map that are sampled. -/
def sensorOk (i : Nat) : Bool :=
  decide (i ≤ 79) || decide (80 ≤ i ∧ i ≤ 108) || decide (112 ≤ i ∧ i ≤ 140) || decide (i = 144 ∨ i = 145)

/-- The frame that a command brings, where it is the arrival of one. -/
def Instr.frame? : Instr → Option Frame
  | .writeFrame _ f => some f
  | .csumFrame _ f => some f
  | .exchFrame _ f => some f
  | .readReq _ f => some f
  | .readResp _ f => some f
  | .ackFrame _ f => some f
  | .nackFrame _ f => some f
  | .linkFrame _ f => some f
  | .tickFrame _ f => some f
  | .requestFrame _ f => some f
  | .unknownFrame _ f => some f
  | _ => none

/-- A command that a sender can form. -/
def wellFormed (i : Instr) : Bool :=
  match i with
  | .writeFrame _ f => frameOk f
  | .csumFrame _ f => frameOk f
  | .exchFrame _ f => frameOk f
  | .readReq _ f => frameOk f
  | .readResp _ f => frameOk f
  | .ackFrame _ f => frameOk f
  | .nackFrame _ f => frameOk f
  | .linkFrame _ f => frameOk f
  | .tickFrame _ f => frameOk f
  | .requestFrame _ f => frameOk f
  | .unknownFrame _ f => frameOk f
  | .ringFetch _ data ok => entryOk data ok
  | .bar2Read off len => bar2Ok off len
  | .bar2Write off data => bar2Ok off data.length
  | .bar0BadAccess addr size _ => badAccess addr size
  | .wideLowRead a => bar0Ok a.addr && decide (a.addr % (if a.wide then 8 else 4) = 0)
  | .registerWrite addr v => bar0Ok addr && decide (addr % (if v.upper.isSome then 8 else 4) = 0)
  | .sensorSample rs => rs.all fun r => sensorOk r.1
  | .sensorFault i => sensorOk i
  | _ => true

end Sys2Proof
end

