-- ==== Sys2Proof/Machine/Registers.lean ====
section
/-!
DEFINITION. The registers of BAR0 as the host reads and writes them (R3 to R10, R402): what each register reads as, the registers of
the stalls and yardmasters included, the holding copies of wide values, and the accesses that have no row of their own.
-/
namespace Sys2Proof.Machine

/-! ### What the registers read as -/

/-- The bits whose numbers a list holds. -/
def bitSet (l : List Nat) : Nat := l.foldl (fun w i => orBit w i) 0

/-- Eight four-bit fields. -/
def nibbles (f : Nat → Nat) : Nat := (List.range 8).foldl (fun w k => w + f k % 16 * 16 ^ k) 0

/-- Four eight-bit fields. -/
def quads (f : Nat → Nat) : Nat := (List.range 4).foldl (fun w k => w + f k % 256 * 256 ^ k) 0

def SeqState.code : SeqState → Nat | .idle => 0 | .running => 1 | .ended => 2 | .halted => 3

def CtxState.code : CtxState → Nat | .idle => 0 | .active => 1 | .ended => 2 | .fault => 3

def RingState.code : RingState → Nat | .disabled => 0 | .enabled => 1 | .error => 2 | .draining => 3

/-- The state that STL_SEQ_CTRL and YM_STATUS show: a program that an audit halt has stopped is halted (R59, R232). -/
def SeqState.shown (q : SeqState) (halted : Bool) : Nat := if halted && decide (q = .running) then 3 else q.code

/-- The sequencer's registers (R232). `halted`: issue is halted under audit; `mapped`: an image is admitted. -/
def Stall.seqReg (t : Stall) (halted mapped : Bool) (o : Nat) : Nat :=
  let q := t.seq
  let spare := mapped && t.logical.isNone && !t.fenced
  if o = 0x00 then
    q.state.shown halted + bitIf (t.tack.active && !spare) 4 + bitIf t.tack.pending 5 + bitIf spare 6 + bitIf t.fenced 7
  else if o = 0x04 then
    bitIf (t.tack.dma.contains 0) 0 + bitIf (t.tack.dma.contains 1) 1 + t.tack.tag0 % 256 * 2 ^ 8 + t.tack.tag1 % 256 * 2 ^ 16
  else if o = 0x08 then q.entry % 2 ^ 13 + t.logical.getD 0x3FF * 2 ^ 16
  else if o = 0x0C then
    min 4 q.course.loops.length * 2 ^ 4 + min 4 q.course.rets.length * 2 ^ 8 + min 512 q.queue.length * 2 ^ 12
  else if o = 0x10 then q.lastIn % 2 ^ 32
  else if o = 0x14 then q.lastIndex % 2 ^ 13
  else if o = 0x18 then min 0xFFFF q.illegal + min 0xFFFF q.inconsistent * 2 ^ 16
  else if o = 0x1C then q.skipFirst
  else if o = 0x20 then t.tack.err % 2 ^ 32
  else if 0x40 ≤ o ∧ o < 0x60 ∧ o % 4 = 0 then nibbles fun k => sget zeroNat t.tack.fmt (2 * (o - 0x40) + k) % 8
  else 0

/-- The outer-product engine's registers at cycle x (R133). -/
def Stall.opeReg (t : Stall) (x o : Nat) : Nat :=
  let e := t.ope
  if o = 0x00 then e.shape % 4 + bitIf e.fp 4 + bitIf e.window 5
  else if o = 0x04 then
    min 0xFFFF e.skipped + e.passNo % 64 * 2 ^ 16 + bitIf t.wholeBusy 29 + bitIf (e.move.isSome && !t.wholeBusy) 30 +
      bitIf (e.flights.any fun f => decide (x ≤ max f.lastCast f.lastAdd)) 31
  else if o = 0x08 then if e.fp then 0 else quads fun g => unsigned 8 (sget zeroInt e.anchors g)
  else if o = 0x0C then quads fun g => e.expected g
  else if o = 0x10 then e.err
  else if o = 0x18 then e.macs % 2 ^ 32
  else if o = 0x1C then e.macs / 2 ^ 32 % 2 ^ 32
  else if o = 0x20 then e.lastWarm % 2 ^ 32
  else 0

/-- The vector engine's registers at cycle x (R164, R168). -/
def Stall.vecReg (t : Stall) (x o : Nat) : Nat :=
  let v := t.vec
  if o = 0x00 then bitIf (decide (x ≤ v.busyTo) && decide (0 < v.busyTo)) 0 + min 0xFFFF v.skipped * 2 ^ 16
  else if o = 0x04 then v.err
  else if o = 0x08 then laneAt x + v.pattern (laneAt x) x * 2 ^ 8
  else if o = 0x0C then
    let l := v.loading.map (·.1)
    bitSet (v.valid.filter fun n => decide (n < 8) && !l.contains n) + bitSet (l.filter fun n => decide (n < 8)) * 2 ^ 8
  else 0

/-- The scratchpad's registers at cycle x (R194). `rw`: the bits of STL_SPD_IADDR that the host has written. -/
def Stall.spdReg (t : Stall) (x rw o : Nat) : Nat :=
  let p := t.spd
  if o = 0x00 then p.tmap % 2 ^ 32
  else if o = 0x04 then
    bitSet ((List.range 32).filter fun b => match sget bankOn p.banks b with | .on => true | .waiting _ => true | .waking r => decide (r ≤ x) | .down => false)
  else if o = 0x08 then p.err
  else if o = 0x0C then min 0xFFFF p.lastPressure + p.poolUsed 2 * 2 ^ 16 + p.poolUsed 1 * 2 ^ 20
  else if o = 0x10 then p.pcount
  else if o = 0x14 then rw + bitIf p.ind.refused 28 + bitIf p.ind.fin 29
  else if 0x40 ≤ o ∧ o < 0x80 ∧ o % 4 = 0 then leAt p.ind.data (o - 0x40) 4
  else 0

/-- Whether an await holds a context at cycle x (R244): its next emit's cycle has come, and the marks it awaits have not. -/
def Stall.awaits (t : Stall) (n x : Nat) : Bool :=
  let c := t.ctx n
  c.activeAt x && !c.walk.closed && !c.walk.opened && decide (c.walk.t ≤ x) &&
    (match c.openEmit (t.ctx (sdPartner c.raw)) with | none => true | some c' => decide (x < c'.walk.t))

/-- The registers of stream context n at cycle x (R274). -/
def Stall.ctxReg (t : Stall) (n x o : Nat) : Nat :=
  let c := (t.ctx n).settle x
  if o = 0x00 then
    c.piece % 16 * 2 ^ 7 + c.desc % 64 * 2 ^ 11 + c.request % 256 * 2 ^ 17 + bitIf c.serving 25 + bitIf (t.awaits n x) 26 +
      c.cause % 8 * 2 ^ 27 + c.state.code * 2 ^ 30
  else if o = 0x04 then c.emit % 2 ^ 32
  else if o = 0x08 then min 0xFFFF c.used + min 0xFFFF c.issued * 2 ^ 16
  else if o = 0x0C then min 0xFFFF c.late + min 0xFFFF c.dropped * 2 ^ 16
  else if o = 0x10 then min 0xFFFF (c.marksAt x) + min 0xFFFF c.wasted * 2 ^ 16
  else 0

/-- The streams' registers at cycle x (R274). -/
def Stall.strReg (t : Stall) (x o : Nat) : Nat :=
  let l := t.str.live x
  if o = 0x00 then
    sumBy (·.slots) l % 128 + bitSet ((List.range 8).filter fun n => (t.ctx n).activeAt x) * 2 ^ 8 +
      sumBy (·.lines) l % 2048 * 2 ^ 16 + bitIf t.str.serial 31
  else if o = 0x04 then t.str.err
  else if o = 0x08 then t.str.lastSlotPeak % 128 + t.str.lastLinePeak % 2048 * 2 ^ 16
  else if 0x100 ≤ o ∧ o < 0x200 then t.ctxReg ((o - 0x100) / 32) x (o % 32)
  else 0

/-- The pony port's registers (R274). -/
def Stall.ponyReg (t : Stall) (o : Nat) : Nat :=
  if o = 0x00 then min 16 t.pony.queue.length + min 16 t.pony.flying.length * 2 ^ 8
  else if o = 0x04 then t.pony.delivered
  else if o = 0x08 then t.pony.lastWait
  else if o = 0x0C then t.pony.err
  else 0

/-- The audit registers of a stall (R66, R478). -/
def Stall.audReg (t : Stall) (strict : Bool) (o : Nat) : Nat :=
  if o = 0x00 then bitIf strict 0 + min 0xFFFF t.aud.violations * 2 ^ 16
  else if o = 0x04 then t.aud.firstCycle
  else if o = 0x08 then t.aud.firstInfo
  else if o = 0x0C then t.aud.firstAddr
  else if o = 0x10 then min 2 t.aud.strikes + min 0xFFFF t.aud.quiet * 2 ^ 16
  else 0

/-- Stall i as a reader finds it now: its cycles up to the present one are complete. -/
def State.stallView (s : State) (i : Nat) : Stall := (s.stall i).runTo s.cyc

/-- The register at offset o of the window of stall i (R21). -/
def State.stallRegs (s : State) (i o : Nat) : Nat :=
  let t := s.stallView i
  let x := s.cyc
  if o < 0x800 then t.seqReg (s.bit A.glbAudit 0) s.boot.image.isSome o
  else if o < 0x1000 then t.opeReg x (o - 0x800)
  else if o < 0x1800 then t.vecReg x (o - 0x1000)
  else if o < 0x2000 then t.spdReg x (s.reg (stallReg A.stlSpdIaddr i)) (o - 0x1800)
  else if o < 0x2800 then t.strReg x (o - 0x2000)
  else if o < 0x3000 then t.ponyReg (o - 0x2800)
  else t.audReg s.strict (o - 0x3000)

/-- The register at offset o of barn b's yardmaster (R232); the pending table is that of the barn's first good stall. -/
def State.yardRegs (s : State) (b o : Nat) : Nat :=
  let r := s.reg (barnReg (0x1000000 + o) b)
  let y := s.barn b
  if o = 0x00 then
    natBits r 15 0 + y.entry % 2048 * 2 ^ 16 + bitIf y.sel.isSome 28 + bitIf (!y.loads.isEmpty) 29 +
      y.state.shown (s.bit A.glbAudit 0) * 2 ^ 30
  else if o = 0x14 then
    setBits r 31 31 (if y.dma.isSome || s.safe.moves.any fun m => m.started && !m.copied && decide (m.spare / 80 = b) then 1 else 0)
  else if 0x40 ≤ o ∧ o < 0x60 ∧ o % 4 = 0 then
    match s.barnStalls b with
    | i :: _ => nibbles fun k => sget zeroNat (s.stallView i).tack.fmtPend (2 * (o - 0x40) + k) % 8
    | [] => 0
  else r

/-- The pages marked resident whose copy has not completed (R306). -/
def State.loftPending (s : State) : Nat :=
  match s.boot.image.bind fun im => im.far with
  | some (_, n) => ((List.range n).filter fun p => farStays (s.farEntry p) && !s.far.resident p).length
  | none => 0

/-- A temperature in whole degrees, unsigned. -/
def degrees (v : Int) : Nat := min 255 (v / 16).toNat

/-- The register at offset o of stack j's window (R308). -/
def State.stackRegs (s : State) (j o : Nat) : Nat :=
  let r := s.reg (stackReg (0x900000 + o) j)
  let k := s.stack j
  if o = 0x00 then
    degrees (s.sensor (44 + j)).value + natBits r 20 16 * 2 ^ 16 + bitIf (!s.running && !k.failed) 29 + (if k.failed then 2 else if 5 ≤ s.boot.stage then 1 else 0) * 2 ^ 30
  else if o = 0x14 then
    let passes := (List.range 64).foldl (fun m pc => min m (sget zeroNat k.passes pc)) 0xFFFF
    let done := (List.range 64).foldl (fun n pc =>
      n + sget zeroNat k.walk pc + (if passes < sget zeroNat k.passes pc then 2 ^ 24 else 0)) 0
    min 0xFFFF (done * 65536 / (64 * 2 ^ 24)) + passes * 2 ^ 16
  else if j = 0 ∧ o = 0x2000 then
    match s.boot.image.bind fun im => im.far with | some (_, n) => n % 2 ^ 21 | none => 0
  else if j = 0 ∧ o = 0x2004 then
    min 0xFFFF s.far.frames.length + (s.far.frames.filter fun f => f.state = .resident).length % 65536 * 2 ^ 16
  else if j = 0 ∧ o = 0x2008 then
    min 0xFFFF s.loftPending + (s.loftSettle.far.frames.filter fun f => 0 < f.pins).length % 65536 * 2 ^ 16
  else if j = 0 ∧ o = 0x200C then min 0xFFFFFFFF s.far.promoted
  else if j = 0 ∧ o = 0x2010 then min 0xFFFF s.far.evicted + min 0xFFFF s.far.refused * 2 ^ 16
  else r

/-- A register of the update engine (R334). -/
def State.updRegs (s : State) (a : Nat) : Nat :=
  let r := s.reg a
  if a = A.updStatus then
    s.pgroups.length % 8192 + bitIf s.train.freeze.isSome 28 + bitIf (match s.host.sweep with | some w => w.running | none => false) 29 +
      bitIf (!s.train.passes.isEmpty) 30 + bitIf s.train.diverged 31
  else if a = A.updFmtThresh then match s.upd with | some u => quads fun k => u.thresh.getD k 0 | none => 0
  else r

/-- A register of securing (R361). -/
def State.ckpRegs (s : State) (a : Nat) : Nat :=
  let r := s.reg a
  let k := s.ckpt
  if a = A.ckpStatus then
    let since := match k.done.head? with | some p => s.train.commits - p.count | none => s.train.commits
    min 0xFFFF since + bitIf (match s.policy with | some c => decide (c.mode ≠ 0) | none => false) 27 +
      bitIf (k.done.any fun p => p.full) 28 + bitIf (!k.done.isEmpty) 29 +
      (if k.restore.isSome then 2 else if !k.repairs.isEmpty then 3 else if k.cur.isSome then 1 else 0) * 2 ^ 30
  else if a = A.ckpFail then match s.policy with | some c => min 0xFFFF (s.failsNow c.window) * 2 ^ 16 | none => 0
  else if a = A.ckpCost then match s.policy with | some c => min 0xFFFFFFFF (s.costUs c) | none => 0
  else if a = A.ckpStepTime then match s.policy with | some c => min 0xFFFFFFFF (s.stepUs c) | none => 0
  else r

/-- A register of port p's window (R362, R365, R399). -/
def State.portRegs (s : State) (p o : Nat) : Nat :=
  let r := s.reg (portReg (0x600000 + o) p)
  let k := s.port p
  let q := p % 10
  if o = 0x00 then
    if s.portMode p = 0 then 0
    else if isTorus p then bitIf (q % 2 = 1) 1 + q / 2 * 2 ^ 2 + 2 ^ 4 + s.portMode p % 4 * 2 ^ 6
    else 2 * 2 ^ 4 + s.portMode p % 4 * 2 ^ 6
  else if o = 0x04 then
    natBits r 15 0 + bitIf k.peer.isSome 29 +
      (if s.portMode p = 0 || !k.cable then 0 else if k.up then (if s.portScheduled p then 3 else 2) else 1) * 2 ^ 30
  else r

/-- A register of the fabric in port 0's window (R399). -/
def State.fabRegs (s : State) (a : Nat) : Nat :=
  let r := s.reg a
  let fb := s.fabric
  let img := s.boot.image.isSome
  if a = A.fabId then if img then s.myId + fb.idOf (fb.logicalOf s.caseNow fb.me) * 2 ^ 16 else 0
  else if a = A.fabDims then if img then quads fun d => fb.dim d - 1 else 0
  else if a = A.fabCoord then if img then quads fun d => fb.coord.getD d 0 else 0
  else if a = A.fabTick then setBits (setBits r 31 30 fb.tickSource) 12 0 fb.master
  else if a = A.fabWinCtrl then
    let w := s.window (natBits r 7 0)
    natBits r 7 0 + w.gen % 65536 * 2 ^ 8 + bitIf w.isOpen 28 + bitIf w.pend.isSome 29 + bitIf (natBit r 30) 30
  else if a = A.fabBindCtrl then setBits r 30 30 (if (s.binding (natBits r 25 16)).pend.isSome then 1 else 0)
  else r

/-- A register of ring n (R437). -/
def State.ringRegs (s : State) (n o : Nat) : Nat :=
  let q := s.ring n
  if o = 0x0C then
    min 256 q.outstanding + (if q.state = .error then q.cause % 4 else 0) * 2 ^ 28 + q.state.code * 2 ^ 30
  else if o = 0x10 then q.written % 65536 + q.fetched % 65536 * 2 ^ 16
  else s.reg (ringReg (0x40000 + o) n)

/-- GLB_AUTH, GLB_FW, GLB_STATUS and GLB_PCIE_STATUS, and the shot number and time count (R66, R437, R460). The link's speed
and width read as they are held, zero, for no command tells them. -/
def State.glbRegs (s : State) (a : Nat) : Nat :=
  let r := s.reg a
  if a = A.glbTimeLo then s.now % 2 ^ 32
  else if a = A.glbTimeHi then s.now / 2 ^ 32
  else if a = A.glbStatus then
    bitIf (s.flash.running = 1) 22 + bitIf s.boot.fwFail 23 + s.boot.stage % 16 * 2 ^ 24 + s.boot.mode.code * 2 ^ 28
  else if a = A.glbAuth then s.boot.token.toNat + bitIf s.boot.clockGe 30
  else if a = A.glbFw then s.flash.minimum % 65536 + s.flash.version % 65536 * 2 ^ 16
  else if a = A.glbPcieStatus then natBits r 12 0 + bitIf s.host.d3hot 30 + bitIf s.host.busMaster 31
  else r

/-- The bits that PBA word k holds. -/
def State.pbaWord (s : State) (k : Nat) : Nat :=
  bitSet ((s.host.pba.filter fun v => decide (v / 32 = k)).map fun v => v % 32)

/-- The mailboxes (R437). -/
def State.mbxRegs (s : State) (a : Nat) : Nat :=
  if a = A.mbxCmdSpace then s.cmdSpace
  else if a = A.mbxSecFlag then bitIf s.sec.ready 0 + bitIf s.sec.running.isSome 1
  else s.reg a

/-- The event log (R428, R437): its pointers, and its bytes at offsets 0x4_0000 to 0x7_FFFF. -/
def State.evtRegs (s : State) (a : Nat) : Nat :=
  if a = A.evtWptr then s.log.wptr
  else if a = A.evtRptr then s.log.rptr
  else if a = A.evtLost then s.log.lostEver
  else if 0x240000 ≤ a ∧ a < 0x280000 then leNat (s.log.ring.read (a - 0x240000) 4)
  else s.reg a

/-- PWR_SENSOR_DATA for a sensor index (R492, R497). -/
def State.sensorData (s : State) (i : Nat) : Nat :=
  let x := s.sensor i
  let show_ (kind : Nat) : Nat := unsigned 24 x.value + kind * 2 ^ 28 + bitIf x.valid 31
  if i < 80 then show_ 0
  else if (80 ≤ i ∧ i ≤ 108) ∨ i = 144 then show_ 1
  else if (112 ≤ i ∧ i ≤ 140) ∨ i = 145 then show_ 2
  else match s.coefficient i with
    | some c => c % 2 ^ 24 + 3 * 2 ^ 28 + 2 ^ 31
    | none => 0

/-- Power and thermal registers (R506). -/
def State.pwrRegs (s : State) (a : Nat) : Nat :=
  let r := s.reg a
  if a = A.pwrStatus then
    let (i, t) := hottest s.junctions
    natBits r 31 27 * 2 ^ 27 + i * 2 ^ 8 + degrees t
  else if a = A.pwrBudget then
    match s.boot.image with
    | some im => im.power.ramp % 256 + im.power.tol % 256 * 2 ^ 8 + im.power.budget % 65536 * 2 ^ 16
    | none => 0
  else if a = A.pwrSensorData then s.sensorData (s.field A.pwrSensorSel 7 0)
  else r

/-- Fencing and failure registers (R24, R26, R478). -/
def State.safeRegs (s : State) (a : Nat) : Nat :=
  let r := s.reg a
  if A.safeSpares ≤ a ∧ a < A.safeSpares + 16 then
    nibbles fun k =>
      let g := s.goodIn (2 * (a - A.safeSpares) + k)
      min 2 (g - 18) + (if g < 18 then 4 else 0)
  else r

/-- What the register at an address of BAR0 holds now (R402). -/
def State.regNow (s : State) (a : Nat) : Nat :=
  if 0x1000000 ≤ a then
    let b := (a - 0x1000000) / 0x200000
    let o := a % 0x200000
    if 8 ≤ b then 0
    else if o < 0x40000 then s.yardRegs b o
    else if (o - 0x40000) / 0x4000 < 80 then s.stallRegs (80 * b + (o - 0x40000) / 0x4000) (o % 0x4000)
    else 0
  else if 0x900000 ≤ a then (if a < 0x980000 then s.stackRegs ((a - 0x900000) / 0x4000) (a % 0x4000) else 0)
  else if 0x800000 ≤ a then s.updRegs a
  else if 0x700000 ≤ a then s.ckpRegs a
  else if 0x600000 ≤ a then
    if 0x602000 ≤ a ∧ a < 0x604000 then s.fabRegs a
    else if a < 0x650000 then s.portRegs ((a - 0x600000) / 0x4000) (a % 0x4000)
    else 0
  else if 0x500000 ≤ a then s.reg a
  else if 0x400000 ≤ a then s.safeRegs a
  else if 0x300000 ≤ a then s.pwrRegs a
  else if 0x200000 ≤ a then s.evtRegs a
  else if 0x100000 ≤ a then s.mbxRegs a
  else if 0x90000 ≤ a ∧ a < 0x90100 then s.pbaWord ((a - 0x90000) / 4)
  else if 0x80000 ≤ a ∧ a < 0x88000 then
    if a % 16 = 12 then (if s.host.unmasked.contains ((a - 0x80000) / 16) then 0 else 1) else s.reg a
  else if 0x40000 ≤ a ∧ a < 0x41000 then s.ringRegs ((a - 0x40000) / 0x40) (a % 0x40)
  else s.glbRegs a

/-- The registers that hold the low word of a wide value, whose upper word stands at the next address (R9). -/
def wideLows : List Nat :=
  [A.glbTimeLo, A.glbShotLo, A.updLastStepLo, A.ckpPointLo, A.ckpFullLo, A.ckpRestoreLo, A.fabSubstShotLo, A.cfgImgAddrLo,
    A.safeFailShotLo]

/-- Whether a register holds the low word of a wide value. -/
def isWideLow (a : Nat) : Bool :=
  wideLows.contains a || decide (a = A.cfgDigest ∨ a = A.cfgConfDigest) || (match regRow a with
    | some r => decide (r.base = A.hbmErrAddrLo ∨ r.base = A.glbRingBaseLo ∨ r.base = A.stlOpeMacsLo)
    | none => false)

/-- How many upper words the wide value at a low word has: seven for a digest of 256 bits (R460), otherwise one. -/
def upperWords (a : Nat) : Nat := if a = A.cfgDigest ∨ a = A.cfgConfDigest then 7 else 1

/-- Whether a register holds an upper word of a wide value. -/
def isUpper (a : Nat) : Bool := (List.range 7).any fun k =>
  decide (4 * (k + 1) ≤ a) && isWideLow (a - 4 * (k + 1)) && decide (k < upperWords (a - 4 * (k + 1)))

/-- What a read of BAR0 returns (R4 to R6, R9): the holding copy for an upper word. -/
def State.readReg (s : State) (a : Nat) : Nat :=
  if !s.awake then 0
  else if isUpper a then sget regReset s.hold a
  else s.regNow a % 2 ^ 32

/-! ### Accesses -/

/-- A read of 32 bits (R8, R9): of a low word it copies the upper words; of any other register it changes nothing. -/
def State.readWord (s : State) (a : Nat) : State :=
  if !s.awake then s
  else
    let v := s.readReg a
    let s : State := if isWideLow a then
        { s with hold := (List.range (upperWords a)).foldl (fun m k =>
          sset regReset m (a + 4 * (k + 1)) (s.regNow (a + 4 * (k + 1)) % 2 ^ 32)) s.hold }
      else s
    s.emit (.bar0 v)

/-- WIDE_LOW_READ (R7 to R9): a read of 32 bits, or of 64 bits as two of 32, lower address first. -/
def execWideLowRead (addr : BarRead) (s : State) : Host.Outcome State Fault Refusal :=
  .next (if addr.wide then (s.readWord addr.addr).readWord (addr.addr + 4) else s.readWord addr.addr)

/-- BAR0_BAD_ACCESS (R7): an access of another size or alignment: a write is discarded, a read returns zero, and
E_BAR_ACCESS_SIZE is logged. -/
def execBar0BadAccess (addr size : Nat) (write : Bool) (s : State) : Host.Outcome State Fault Refusal :=
  .next (if !s.awake || !badAccess addr size then s
    else
      let s := (s.setBit A.glbHostErr 29).event Ev.barAccessSize srcGateLogic s.cyc []
      if write then s else s.emit (.bar0 0))

/-- The registers of which every write is a command with a row of its own. -/
def ownRegister (r : RegRow) : Bool :=
  [A.glbRingCfg, A.mbxCmdData, A.mbxCmdPush, A.mbxHdb, A.mbxHdbMask, A.evtRptr, A.fabInjCtrl].contains r.base

/-- The bits of a register that, written as ones, make the write a command with a row of its own. -/
def actionBits (r : RegRow) : Nat :=
  if [A.cfgCtrl, A.pwrCtrl].contains r.base then 0xC0000000
  else if r.base = A.glbReset then 1
  else if r.base = A.glbAudit then 2
  else if r.base = A.ckpFail then 0xFF
  else if [A.glbAuth, A.safeCtrl, A.safeFenceReq, A.ymTdmaCtrl, A.ymTackSwitch, A.stlSpdIaddr, A.updFreeze, A.ckpRestoreCtrl,
      A.fabWinCtrl, A.fabBindCtrl].contains r.base then 0x80000000
  else 0

/-- What a register's write is taken as, before its access codes (R361, R402, R403). -/
def State.takenAs (s : State) (r : RegRow) (v : Nat) : Nat :=
  if r.base = A.ckpCtrl then setBits (setBits v 15 0 (max 1 (natBits v 15 0))) 31 16 (max 1 (natBits v 31 16))
  else if r.base = A.glbBar2Window then v / (s.bar2Size / 2 ^ 30) * (s.bar2Size / 2 ^ 30)
  else v

/-- A write into a register that a stall holds (R133, R168, R194, R232, R274). -/
def Stall.writeErr (t : Stall) (r : RegRow) (k v : Nat) : Stall :=
  let w (old : Nat) : Nat := r.write false old v
  if r.base = A.stlOpeErr then { t with ope := { t.ope with err := w t.ope.err } }
  else if r.base = A.stlVecErr then { t with vec := { t.vec with err := w t.vec.err } }
  else if r.base = A.stlSpdErr then { t with spd := { t.spd with err := w t.spd.err } }
  else if r.base = A.stlSeqTackErr then { t with tack := t.tack.wroteErr (w (t.tack.err % 2 ^ 32)) }
  else if r.base = A.stlStrErr then { t with str := { t.str with err := w t.str.err } }
  else if r.base = A.stlPonyErr then { t with pony := { t.pony with err := w t.pony.err } }
  else if r.base = A.stlSpdIdata then t.setInd fun d => { d with data := overlay d.data (4 * k) (leBytes 4 v) }
  else t

/-- A write of the MSI-X table (R433): a vector whose mask bit becomes set; the clearing of one is MSIX_MASK_CLEAR's. Message
addresses and data are held. -/
def State.writeMsix (s : State) (a v : Nat) : State :=
  if a % 16 = 12 then
    if natBit v 0 then { s with host := { s.host with unmasked := s.host.unmasked.filter (· ≠ (a - 0x80000) / 16) } } else s
  else s.setReg a v

/-- A write of the register of a row, at address a. -/
def State.writeRow (s : State) (r : RegRow) (a v : Nat) : State :=
  if ownRegister r || decide (v &&& actionBits r ≠ 0) then s
  else if (r.base = A.glbRingBaseLo ∨ r.base = A.glbRingBaseHi) ∧ s.bit (ringReg A.glbRingCfg ((a - 0x40000) / 0x40)) 31 then s
  else if 0x1040000 ≤ a ∧ r.base ≠ A.stlSpdIaddr ∧ 0x40000 ≤ a % 0x200000 then
    let i := 80 * ((a - 0x1000000) / 0x200000) + (a % 0x200000 - 0x40000) / 0x4000
    s.onStall i s.cyc fun t => t.writeErr r ((a % 0x4000 - 0x1840) / 4) v
  else s.writeReg a (s.takenAs r v)

/-- A write of 32 bits to a register without a row of its own, by its access codes (R4 to R6). -/
def State.writeWord (s : State) (a v : Nat) : State :=
  if !s.awake then s
  else if 0x80000 ≤ a ∧ a < 0x88000 then s.writeMsix a v
  else match regRow a with
    | some r => s.writeRow r a v
    | none => s

/-- REGISTER_WRITE (R4 to R7): a write of 32 bits, or, where an upper half is given, of 64 bits as two of 32, lower address first. A half that
makes the write a command with a row of its own is that row's command, and has no effect here (log 129). -/
def execRegisterWrite (addr : Nat) (v : BarValue) (s : State) : Host.Outcome State Fault Refusal :=
  .next (match v.upper with
    | some w => (s.writeWord addr v.low.toNat).writeWord (addr + 4) w.toNat
    | none => s.writeWord addr v.low.toNat)

end Sys2Proof.Machine
end

