-- ==== Sys2Proof/Machine/StallOpe.lean ====
section
/-!
DEFINITION. The OPE instructions as commands (04).
-/
namespace Sys2Proof.Machine

/-- OPE_ACC (R111): the stall's next instruction, of opcode 0x20, issues. -/
def execOpeAcc (st : StallId) (s : State) : Host.Outcome State Fault Refusal :=
  .next (s.issue st.val (selOp 0x20) issueAcc)

/-- OPE_LDDESC (R106): the stall's next instruction, of opcode 0x21, issues. -/
def execOpeLddesc (st : StallId) (s : State) : Host.Outcome State Fault Refusal :=
  .next (s.issue st.val (selOp 0x21) issueLddesc)

/-- OPE_PRELOAD (R116): the stall's next instruction, of opcode 0x22, issues. -/
def execOpePreload (st : StallId) (s : State) : Host.Outcome State Fault Refusal :=
  .next (s.issue st.val (selOp 0x22) issuePreload)

/-- OPE_DRAIN (R118): the stall's next instruction, of opcode 0x23, issues. -/
def execOpeDrain (st : StallId) (s : State) : Host.Outcome State Fault Refusal :=
  .next (s.issue st.val (selOp 0x23) issueDrain)

/-- OPE_SAVE (R121): the stall's next instruction, of opcode 0x24, issues. -/
def execOpeSave (st : StallId) (s : State) : Host.Outcome State Fault Refusal :=
  .next (s.issue st.val (selOp 0x24) issueSave)

/-- OPE_RESTORE (R121): the stall's next instruction, of opcode 0x25, issues. -/
def execOpeRestore (st : StallId) (s : State) : Host.Outcome State Fault Refusal :=
  .next (s.issue st.val (selOp 0x25) issueRestore)

/-- OPE_SHAPE (R105): the stall's next instruction, of opcode 0x26, issues. -/
def execOpeShape (st : StallId) (s : State) : Host.Outcome State Fault Refusal :=
  .next (s.issue st.val (selOp 0x26) issueShape)

/-- OPE_KEEPWARM (R130): the stall's next instruction, of opcode 0x27, issues. -/
def execOpeKeepwarm (st : StallId) (s : State) : Host.Outcome State Fault Refusal :=
  .next (s.issue st.val (selOp 0x27) issueKeepwarm)

/-- RESIDUE_VERDICT (R128): the residues of the stall's oldest finished drain or save are compared at its end. -/
def execResidueVerdict (st : StallId) (s : State) : Host.Outcome State Fault Refusal :=
  .next (match (s.stall st.val).ope.move, (s.stall st.val).ope.verdicts with
    | none, [] => s
    | some m, [] => (s.at_ m.ends).onStall st.val m.ends fun t => t.residueVerdict m.ends
    | _, v :: _ => (s.at_ v.fin).onStall st.val (max v.fin (s.stall st.val).clk) fun t => t.residueVerdict v.fin)

end Sys2Proof.Machine
end

