-- ==== Sys2Proof/Machine/Dispatch.lean ====
section
/-!
DEFINITION. One arm for each command: a direct call of its meaning.
-/
namespace Sys2Proof.Machine

/-- The effect of a command on everything but the queue. -/
def exec (i : Instr) (s : State) : Host.Outcome State Fault Refusal :=
  match i with
  | .ctlNop st => Sys2Proof.Machine.execCtlNop st s
  | .ctlEnd st => Sys2Proof.Machine.execCtlEnd st s
  | .ctlWait st => Sys2Proof.Machine.execCtlWait st s
  | .ctlJump st => Sys2Proof.Machine.execCtlJump st s
  | .ctlLoop st => Sys2Proof.Machine.execCtlLoop st s
  | .ctlCall st => Sys2Proof.Machine.execCtlCall st s
  | .ctlRet st => Sys2Proof.Machine.execCtlRet st s
  | .ctlSubst st => Sys2Proof.Machine.execCtlSubst st s
  | .ctlCsave st => Sys2Proof.Machine.execCtlCsave st s
  | .ctlCrest st => Sys2Proof.Machine.execCtlCrest st s
  | .synBar st => Sys2Proof.Machine.execSynBar st s
  | .barrierRelease id => Sys2Proof.Machine.execBarrierRelease id s
  | .barrierLate id => Sys2Proof.Machine.execBarrierLate id s
  | .opeAcc st => Sys2Proof.Machine.execOpeAcc st s
  | .opeLddesc st => Sys2Proof.Machine.execOpeLddesc st s
  | .opePreload st => Sys2Proof.Machine.execOpePreload st s
  | .opeDrain st => Sys2Proof.Machine.execOpeDrain st s
  | .opeSave st => Sys2Proof.Machine.execOpeSave st s
  | .opeRestore st => Sys2Proof.Machine.execOpeRestore st s
  | .opeShape st => Sys2Proof.Machine.execOpeShape st s
  | .opeKeepwarm st => Sys2Proof.Machine.execOpeKeepwarm st s
  | .residueVerdict st => Sys2Proof.Machine.execResidueVerdict st s
  | .vecOp st => Sys2Proof.Machine.execVecOp st s
  | .vecCvt st => Sys2Proof.Machine.execVecCvt st s
  | .vecFunc st => Sys2Proof.Machine.execVecFunc st s
  | .vecDfunc st => Sys2Proof.Machine.execVecDfunc st s
  | .vecMaskf st => Sys2Proof.Machine.execVecMaskf st s
  | .vecMaskb st => Sys2Proof.Machine.execVecMaskb st s
  | .vecDrop st => Sys2Proof.Machine.execVecDrop st s
  | .vecLadd st => Sys2Proof.Machine.execVecLadd st s
  | .vecPack st => Sys2Proof.Machine.execVecPack st s
  | .vecUnpack st => Sys2Proof.Machine.execVecUnpack st s
  | .vecCadd st => Sys2Proof.Machine.execVecCadd st s
  | .vecHist st => Sys2Proof.Machine.execVecHist st s
  | .vecHstore st => Sys2Proof.Machine.execVecHstore st s
  | .vecSeta st => Sys2Proof.Machine.execVecSeta st s
  | .vecSetk st => Sys2Proof.Machine.execVecSetk st s
  | .vecSetr st => Sys2Proof.Machine.execVecSetr st s
  | .laneSelftest st agree => Sys2Proof.Machine.execLaneSelftest st agree s
  | .spdCopy st => Sys2Proof.Machine.execSpdCopy st s
  | .spdFill st => Sys2Proof.Machine.execSpdFill st s
  | .spdPwr st => Sys2Proof.Machine.execSpdPwr st s
  | .bankPowerDown st bank => Sys2Proof.Machine.execBankPowerDown st bank s
  | .bankPowerDownCancel st bank => Sys2Proof.Machine.execBankPowerDownCancel st bank s
  | .bankWakeDone st bank => Sys2Proof.Machine.execBankWakeDone st bank s
  | .gatherDrain st line => Sys2Proof.Machine.execGatherDrain st line s
  | .spdIndirectRead st v => Sys2Proof.Machine.execSpdIndirectRead st v s
  | .indirectReadSample st => Sys2Proof.Machine.execIndirectReadSample st s
  | .spdIndirectWrite st v => Sys2Proof.Machine.execSpdIndirectWrite st v s
  | .strStart st => Sys2Proof.Machine.execStrStart st s
  | .strHalt st => Sys2Proof.Machine.execStrHalt st s
  | .strPony st => Sys2Proof.Machine.execStrPony st s
  | .strSetctx st => Sys2Proof.Machine.execStrSetctx st s
  | .streamPieceIssue st ctx => Sys2Proof.Machine.execStreamPieceIssue st ctx s
  | .pieceLanding st ctx arrived => Sys2Proof.Machine.execPieceLanding st ctx arrived s
  | .runAheadStep st ctx => Sys2Proof.Machine.execRunAheadStep st ctx s
  | .streamDeadlockCheck st ctx => Sys2Proof.Machine.execStreamDeadlockCheck st ctx s
  | .ponyAccept st => Sys2Proof.Machine.execPonyAccept st s
  | .ponyDelivery st => Sys2Proof.Machine.execPonyDelivery st s
  | .baseDiePonyDrain j => Sys2Proof.Machine.execBaseDiePonyDrain j s
  | .baseDieArrival j => Sys2Proof.Machine.execBaseDieArrival j s
  | .ymNop b => Sys2Proof.Machine.execYmNop b s
  | .ymEnd b => Sys2Proof.Machine.execYmEnd b s
  | .ymWait b => Sys2Proof.Machine.execYmWait b s
  | .ymFtab b => Sys2Proof.Machine.execYmFtab b s
  | .ftabLoadEnd b => Sys2Proof.Machine.execFtabLoadEnd b s
  | .ymFmt b => Sys2Proof.Machine.execYmFmt b s
  | .formatSelectionWrite b => Sys2Proof.Machine.execFormatSelectionWrite b s
  | .ymAnchor b => Sys2Proof.Machine.execYmAnchor b s
  | .ymTdmaGo b v => Sys2Proof.Machine.execYmTdmaGo b v s
  | .tackDmaWrite b st => Sys2Proof.Machine.execTackDmaWrite b st s
  | .ymTackSwitchRequest b v => Sys2Proof.Machine.execYmTackSwitchRequest b v s
  | .tick => Sys2Proof.Machine.execTick s
  | .closingMargin => Sys2Proof.Machine.execClosingMargin s
  | .moveCopyDone logical => Sys2Proof.Machine.execMoveCopyDone logical s
  | .strikeDecay st => Sys2Proof.Machine.execStrikeDecay st s
  | .tickLossDetect => Sys2Proof.Machine.execTickLossDetect s
  | .auditHalt => Sys2Proof.Machine.execAuditHalt s
  | .shotAbort => Sys2Proof.Machine.execShotAbort s
  | .safeCtrlAbort v => Sys2Proof.Machine.execSafeCtrlAbort v s
  | .safeFenceReqGo v => Sys2Proof.Machine.execSafeFenceReqGo v s
  | .glbAuditRelease v => Sys2Proof.Machine.execGlbAuditRelease v s
  | .updateWindow j agree => Sys2Proof.Machine.execUpdateWindow j agree s
  | .updFreezeGo v => Sys2Proof.Machine.execUpdFreezeGo v s
  | .sweepStart => Sys2Proof.Machine.execSweepStart s
  | .snapshotSend => Sys2Proof.Machine.execSnapshotSend s
  | .pointDurable dest => Sys2Proof.Machine.execPointDurable dest s
  | .destTimeout dest => Sys2Proof.Machine.execDestTimeout dest s
  | .ckpFailReport v => Sys2Proof.Machine.execCkpFailReport v s
  | .ckpRestoreGo v src => Sys2Proof.Machine.execCkpRestoreGo v src s
  | .restoreEnd outcome => Sys2Proof.Machine.execRestoreEnd outcome s
  | .tensorRepair j addr => Sys2Proof.Machine.execTensorRepair j addr s
  | .refreshSlot j q => Sys2Proof.Machine.execRefreshSlot j q s
  | .ownTimerRefresh j pc => Sys2Proof.Machine.execOwnTimerRefresh j pc s
  | .loftPromotionRequest => Sys2Proof.Machine.execLoftPromotionRequest s
  | .promotionCopyDone page data => Sys2Proof.Machine.execPromotionCopyDone page data s
  | .frameInject number frame => Sys2Proof.Machine.execFrameInject number frame s
  | .frameForward p lseq => Sys2Proof.Machine.execFrameForward p lseq s
  | .frameLanding number frame => Sys2Proof.Machine.execFrameLanding number frame s
  | .exchangeResultWrite number => Sys2Proof.Machine.execExchangeResultWrite number s
  | .writeFrame p f => Sys2Proof.Machine.execWriteFrame p f s
  | .csumFrame p f => Sys2Proof.Machine.execCsumFrame p f s
  | .exchFrame p f => Sys2Proof.Machine.execExchFrame p f s
  | .readReq p f => Sys2Proof.Machine.execReadReq p f s
  | .readResp p f => Sys2Proof.Machine.execReadResp p f s
  | .ackFrame p f => Sys2Proof.Machine.execAckFrame p f s
  | .nackFrame p f => Sys2Proof.Machine.execNackFrame p f s
  | .linkFrame p f => Sys2Proof.Machine.execLinkFrame p f s
  | .tickFrame p f => Sys2Proof.Machine.execTickFrame p f s
  | .requestFrame p f => Sys2Proof.Machine.execRequestFrame p f s
  | .serveDelivery id => Sys2Proof.Machine.execServeDelivery id s
  | .linkAckTimeout p lseq => Sys2Proof.Machine.execLinkAckTimeout p lseq s
  | .unscheduledResend number => Sys2Proof.Machine.execUnscheduledResend number s
  | .linkDown p => Sys2Proof.Machine.execLinkDown p s
  | .linkUp p mod port => Sys2Proof.Machine.execLinkUp p mod port s
  | .arpRequest p addr => Sys2Proof.Machine.execArpRequest p addr s
  | .neighborSolicitation p addr => Sys2Proof.Machine.execNeighborSolicitation p addr s
  | .ptpSync offset => Sys2Proof.Machine.execPtpSync offset s
  | .pdelayReq p => Sys2Proof.Machine.execPdelayReq p s
  | .ptpMessageInterval => Sys2Proof.Machine.execPtpMessageInterval s
  | .tickInWord w => Sys2Proof.Machine.execTickInWord w s
  | .fabWinCtrlGo v => Sys2Proof.Machine.execFabWinCtrlGo v s
  | .fabBindCtrlGo v => Sys2Proof.Machine.execFabBindCtrlGo v s
  | .fabInjCtrlWrite p v => Sys2Proof.Machine.execFabInjCtrlWrite p v s
  | .nopEntry r => Sys2Proof.Machine.execNopEntry r s
  | .run r => Sys2Proof.Machine.execRun r s
  | .runStart => Sys2Proof.Machine.execRunStart s
  | .serve r => Sys2Proof.Machine.execServe r s
  | .serveInputCopy id data ok => Sys2Proof.Machine.execServeInputCopy id data ok s
  | .snapshotShip r => Sys2Proof.Machine.execSnapshotShip r s
  | .ringEnable r v => Sys2Proof.Machine.execRingEnable r v s
  | .ringDisable r v => Sys2Proof.Machine.execRingDisable r v s
  | .dbSqTailWrite r v => Sys2Proof.Machine.execDbSqTailWrite r v s
  | .dbCqHeadWrite r v => Sys2Proof.Machine.execDbCqHeadWrite r v s
  | .ringFetch r data ok => Sys2Proof.Machine.execRingFetch r data ok s
  | .completionWrite => Sys2Proof.Machine.execCompletionWrite s
  | .hostRequestsAllowed => Sys2Proof.Machine.execHostRequestsAllowed s
  | .msixMaskClear vector => Sys2Proof.Machine.execMsixMaskClear vector s
  | .mbxCmdDataWrite v => Sys2Proof.Machine.execMbxCmdDataWrite v s
  | .mbxCmdPush v => Sys2Proof.Machine.execMbxCmdPush v s
  | .nopCommand => Sys2Proof.Machine.execNopCommand s
  | .farMap => Sys2Proof.Machine.execFarMap s
  | .nvmeReset => Sys2Proof.Machine.execNvmeReset s
  | .mbxHdbClear v => Sys2Proof.Machine.execMbxHdbClear v s
  | .mbxHdbMaskWrite v => Sys2Proof.Machine.execMbxHdbMaskWrite v s
  | .poll t => Sys2Proof.Machine.execPoll t s
  | .fwStage t off data => Sys2Proof.Machine.execFwStage t off data s
  | .fwActivate t commit found => Sys2Proof.Machine.execFwActivate t commit found s
  | .keyEnroll t slot key => Sys2Proof.Machine.execKeyEnroll t slot key s
  | .keyRevoke t slot => Sys2Proof.Machine.execKeyRevoke t slot s
  | .info t => Sys2Proof.Machine.execInfo t s
  | .getVersion t version => Sys2Proof.Machine.execGetVersion t version s
  | .getCapabilities t version => Sys2Proof.Machine.execGetCapabilities t version s
  | .negotiateAlgorithms t supported => Sys2Proof.Machine.execNegotiateAlgorithms t supported s
  | .getDigests t => Sys2Proof.Machine.execGetDigests t s
  | .getCertificate t slot off len => Sys2Proof.Machine.execGetCertificate t slot off len s
  | .challenge t slot nonce => Sys2Proof.Machine.execChallenge t slot nonce s
  | .getMeasurements t index sign nonce => Sys2Proof.Machine.execGetMeasurements t index sign nonce s
  | .keyExchange t mutual_ exchange => Sys2Proof.Machine.execKeyExchange t mutual_ exchange s
  | .finish t valid keyDigest => Sys2Proof.Machine.execFinish t valid keyDigest s
  | .heartbeat t => Sys2Proof.Machine.execHeartbeat t s
  | .keyUpdate t => Sys2Proof.Machine.execKeyUpdate t s
  | .endSession t => Sys2Proof.Machine.execEndSession t s
  | .vendorDefinedRequest t secured payload => Sys2Proof.Machine.execVendorDefinedRequest t secured payload s
  | .evtRptrWrite v => Sys2Proof.Machine.execEvtRptrWrite v s
  | .eventLogPlace => Sys2Proof.Machine.execEventLogPlace s
  | .evtOverflowRecord => Sys2Proof.Machine.execEvtOverflowRecord s
  | .bar2Read off len => Sys2Proof.Machine.execBar2Read off len s
  | .bar2ReadTimeout => Sys2Proof.Machine.execBar2ReadTimeout s
  | .bar2Write off data => Sys2Proof.Machine.execBar2Write off data s
  | .bar0BadAccess addr size write => Sys2Proof.Machine.execBar0BadAccess addr size write s
  | .wideLowRead addr => Sys2Proof.Machine.execWideLowRead addr s
  | .registerWrite addr v => Sys2Proof.Machine.execRegisterWrite addr v s
  | .nvmeCompletion cid status data => Sys2Proof.Machine.execNvmeCompletion cid status data s
  | .auxLinkDown => Sys2Proof.Machine.execAuxLinkDown s
  | .cfgLoad v image => Sys2Proof.Machine.execCfgLoad v image s
  | .cfgRelease v => Sys2Proof.Machine.execCfgRelease v s
  | .functionLevelReset => Sys2Proof.Machine.execFunctionLevelReset s
  | .pwrEnRise found => Sys2Proof.Machine.execPwrEnRise found s
  | .pwrEnFall => Sys2Proof.Machine.execPwrEnFall s
  | .perstN found => Sys2Proof.Machine.execPerstN found s
  | .glbResetModule v found => Sys2Proof.Machine.execGlbResetModule v found s
  | .i3cTargetReset found => Sys2Proof.Machine.execI3cTargetReset found s
  | .groomWatchdogExpire both found => Sys2Proof.Machine.execGroomWatchdogExpire both found s
  | .glbAuthRelease v => Sys2Proof.Machine.execGlbAuthRelease v s
  | .tokenInconsistent token => Sys2Proof.Machine.execTokenInconsistent token s
  | .inputVoltageExcursion mv => Sys2Proof.Machine.execInputVoltageExcursion mv s
  | .powerCut cause => Sys2Proof.Machine.execPowerCut cause s
  | .analogThermalTrip => Sys2Proof.Machine.execAnalogThermalTrip s
  | .sensorSample readings => Sys2Proof.Machine.execSensorSample readings s
  | .sensorFault index => Sys2Proof.Machine.execSensorFault index s
  | .pwrCtrlResume v => Sys2Proof.Machine.execPwrCtrlResume v s
  | .pwrCtrlPeakClear v => Sys2Proof.Machine.execPwrCtrlPeakClear v s
  | .energyInterval nj => Sys2Proof.Machine.execEnergyInterval nj s
  | .cablePresentChange p present => Sys2Proof.Machine.execCablePresentChange p present s
  | .inputVoltageRise mv found => Sys2Proof.Machine.execInputVoltageRise mv found s
  | .busMasterEnableClear => Sys2Proof.Machine.execBusMasterEnableClear s
  | .hostReadCompletion tag data ok => Sys2Proof.Machine.execHostReadCompletion tag data ok s
  | .tensorRepairDone record src ok => Sys2Proof.Machine.execTensorRepairDone record src ok s
  | .auxLinkReady ok => Sys2Proof.Machine.execAuxLinkReady ok s
  | .auxDeviceMemoryRequest addr len data => Sys2Proof.Machine.execAuxDeviceMemoryRequest addr len data s
  | .secureOperationEnd => Sys2Proof.Machine.execSecureOperationEnd s
  | .unknownFrame p f => Sys2Proof.Machine.execUnknownFrame p f s
  | .pldmRequest type sensor => Sys2Proof.Machine.execPldmRequest type sensor s
  | .clearFaults => Sys2Proof.Machine.execClearFaults s
  | .dynamicAddressAssignment addr => Sys2Proof.Machine.execDynamicAddressAssignment addr s

end Sys2Proof.Machine
end

