-- ==== Sys2Proof/Laws/PerInstr.lean ====
section
/-!
SUPPORT. A law of each command as syntax: the frame that a well-formed command brings holds at most 1,792 payload bytes, and its
length field counts them.
-/
namespace Sys2Proof.Laws.Payload

open Sys2Proof.Machine (Frame Transport VendorRequest BarRead BarValue Image)

/-- R366: what a well-formed command says of the frame it brings. -/
def Statement (i : Instr) : Prop :=
  wellFormed i = true → ∀ f, i.frame? = some f → f.payload.length ≤ 1792 ∧ f.length = f.payload.length

theorem of_frameOk {f : Frame} (h : frameOk f = true) : f.payload.length ≤ 1792 ∧ f.length = f.payload.length := by
  simp only [frameOk, Bool.and_eq_true, decide_eq_true_eq] at h
  obtain ⟨⟨⟨⟨⟨⟨⟨⟨⟨⟨⟨⟨⟨⟨⟨h1, h2⟩, -⟩, -⟩, -⟩, -⟩, -⟩, -⟩, -⟩, -⟩, -⟩, -⟩, -⟩, -⟩, -⟩, -⟩ := h
  exact ⟨h1, h2⟩

theorem of_none {i : Instr} (h : i.frame? = none) : Statement i := by
  intro _ f hf; rw [h] at hf; cases hf

theorem ctlNop (st : StallId) : Statement (.ctlNop st) := of_none rfl
theorem ctlEnd (st : StallId) : Statement (.ctlEnd st) := of_none rfl
theorem ctlWait (st : StallId) : Statement (.ctlWait st) := of_none rfl
theorem ctlJump (st : StallId) : Statement (.ctlJump st) := of_none rfl
theorem ctlLoop (st : StallId) : Statement (.ctlLoop st) := of_none rfl
theorem ctlCall (st : StallId) : Statement (.ctlCall st) := of_none rfl
theorem ctlRet (st : StallId) : Statement (.ctlRet st) := of_none rfl
theorem ctlSubst (st : StallId) : Statement (.ctlSubst st) := of_none rfl
theorem ctlCsave (st : StallId) : Statement (.ctlCsave st) := of_none rfl
theorem ctlCrest (st : StallId) : Statement (.ctlCrest st) := of_none rfl
theorem synBar (st : StallId) : Statement (.synBar st) := of_none rfl
theorem barrierRelease (id : BitVec 8) : Statement (.barrierRelease id) := of_none rfl
theorem barrierLate (id : BitVec 8) : Statement (.barrierLate id) := of_none rfl
theorem opeAcc (st : StallId) : Statement (.opeAcc st) := of_none rfl
theorem opeLddesc (st : StallId) : Statement (.opeLddesc st) := of_none rfl
theorem opePreload (st : StallId) : Statement (.opePreload st) := of_none rfl
theorem opeDrain (st : StallId) : Statement (.opeDrain st) := of_none rfl
theorem opeSave (st : StallId) : Statement (.opeSave st) := of_none rfl
theorem opeRestore (st : StallId) : Statement (.opeRestore st) := of_none rfl
theorem opeShape (st : StallId) : Statement (.opeShape st) := of_none rfl
theorem opeKeepwarm (st : StallId) : Statement (.opeKeepwarm st) := of_none rfl
theorem residueVerdict (st : StallId) : Statement (.residueVerdict st) := of_none rfl
theorem vecOp (st : StallId) : Statement (.vecOp st) := of_none rfl
theorem vecCvt (st : StallId) : Statement (.vecCvt st) := of_none rfl
theorem vecFunc (st : StallId) : Statement (.vecFunc st) := of_none rfl
theorem vecDfunc (st : StallId) : Statement (.vecDfunc st) := of_none rfl
theorem vecMaskf (st : StallId) : Statement (.vecMaskf st) := of_none rfl
theorem vecMaskb (st : StallId) : Statement (.vecMaskb st) := of_none rfl
theorem vecDrop (st : StallId) : Statement (.vecDrop st) := of_none rfl
theorem vecLadd (st : StallId) : Statement (.vecLadd st) := of_none rfl
theorem vecPack (st : StallId) : Statement (.vecPack st) := of_none rfl
theorem vecUnpack (st : StallId) : Statement (.vecUnpack st) := of_none rfl
theorem vecCadd (st : StallId) : Statement (.vecCadd st) := of_none rfl
theorem vecHist (st : StallId) : Statement (.vecHist st) := of_none rfl
theorem vecHstore (st : StallId) : Statement (.vecHstore st) := of_none rfl
theorem vecSeta (st : StallId) : Statement (.vecSeta st) := of_none rfl
theorem vecSetk (st : StallId) : Statement (.vecSetk st) := of_none rfl
theorem vecSetr (st : StallId) : Statement (.vecSetr st) := of_none rfl
theorem laneSelftest (st : StallId) (agree : Bool) : Statement (.laneSelftest st agree) := of_none rfl
theorem spdCopy (st : StallId) : Statement (.spdCopy st) := of_none rfl
theorem spdFill (st : StallId) : Statement (.spdFill st) := of_none rfl
theorem spdPwr (st : StallId) : Statement (.spdPwr st) := of_none rfl
theorem bankPowerDown (st : StallId) (bank : Fin 32) : Statement (.bankPowerDown st bank) := of_none rfl
theorem bankPowerDownCancel (st : StallId) (bank : Fin 32) : Statement (.bankPowerDownCancel st bank) := of_none rfl
theorem bankWakeDone (st : StallId) (bank : Fin 32) : Statement (.bankWakeDone st bank) := of_none rfl
theorem gatherDrain (st : StallId) (line : BitVec 16) : Statement (.gatherDrain st line) := of_none rfl
theorem spdIndirectRead (st : StallId) (v : Word) : Statement (.spdIndirectRead st v) := of_none rfl
theorem indirectReadSample (st : StallId) : Statement (.indirectReadSample st) := of_none rfl
theorem spdIndirectWrite (st : StallId) (v : Word) : Statement (.spdIndirectWrite st v) := of_none rfl
theorem strStart (st : StallId) : Statement (.strStart st) := of_none rfl
theorem strHalt (st : StallId) : Statement (.strHalt st) := of_none rfl
theorem strPony (st : StallId) : Statement (.strPony st) := of_none rfl
theorem strSetctx (st : StallId) : Statement (.strSetctx st) := of_none rfl
theorem streamPieceIssue (st : StallId) (ctx : CtxId) : Statement (.streamPieceIssue st ctx) := of_none rfl
theorem pieceLanding (st : StallId) (ctx : CtxId) (arrived : Bool) : Statement (.pieceLanding st ctx arrived) := of_none rfl
theorem runAheadStep (st : StallId) (ctx : CtxId) : Statement (.runAheadStep st ctx) := of_none rfl
theorem streamDeadlockCheck (st : StallId) (ctx : CtxId) : Statement (.streamDeadlockCheck st ctx) := of_none rfl
theorem ponyAccept (st : StallId) : Statement (.ponyAccept st) := of_none rfl
theorem ponyDelivery (st : StallId) : Statement (.ponyDelivery st) := of_none rfl
theorem baseDiePonyDrain (j : StackId) : Statement (.baseDiePonyDrain j) := of_none rfl
theorem baseDieArrival (j : StackId) : Statement (.baseDieArrival j) := of_none rfl
theorem ymNop (b : BarnId) : Statement (.ymNop b) := of_none rfl
theorem ymEnd (b : BarnId) : Statement (.ymEnd b) := of_none rfl
theorem ymWait (b : BarnId) : Statement (.ymWait b) := of_none rfl
theorem ymFtab (b : BarnId) : Statement (.ymFtab b) := of_none rfl
theorem ftabLoadEnd (b : BarnId) : Statement (.ftabLoadEnd b) := of_none rfl
theorem ymFmt (b : BarnId) : Statement (.ymFmt b) := of_none rfl
theorem formatSelectionWrite (b : BarnId) : Statement (.formatSelectionWrite b) := of_none rfl
theorem ymAnchor (b : BarnId) : Statement (.ymAnchor b) := of_none rfl
theorem ymTdmaGo (b : BarnId) (v : Word) : Statement (.ymTdmaGo b v) := of_none rfl
theorem tackDmaWrite (b : BarnId) (st : StallId) : Statement (.tackDmaWrite b st) := of_none rfl
theorem ymTackSwitchRequest (b : BarnId) (v : Word) : Statement (.ymTackSwitchRequest b v) := of_none rfl
theorem tick : Statement (.tick) := of_none rfl
theorem closingMargin : Statement (.closingMargin) := of_none rfl
theorem moveCopyDone (logical : Fin 576) : Statement (.moveCopyDone logical) := of_none rfl
theorem strikeDecay (st : StallId) : Statement (.strikeDecay st) := of_none rfl
theorem tickLossDetect : Statement (.tickLossDetect) := of_none rfl
theorem auditHalt : Statement (.auditHalt) := of_none rfl
theorem shotAbort : Statement (.shotAbort) := of_none rfl
theorem safeCtrlAbort (v : Word) : Statement (.safeCtrlAbort v) := of_none rfl
theorem safeFenceReqGo (v : Word) : Statement (.safeFenceReqGo v) := of_none rfl
theorem glbAuditRelease (v : Word) : Statement (.glbAuditRelease v) := of_none rfl
theorem updateWindow (j : StackId) (agree : Bool) : Statement (.updateWindow j agree) := of_none rfl
theorem updFreezeGo (v : Word) : Statement (.updFreezeGo v) := of_none rfl
theorem sweepStart : Statement (.sweepStart) := of_none rfl
theorem snapshotSend : Statement (.snapshotSend) := of_none rfl
theorem pointDurable (dest : Fin 4) : Statement (.pointDurable dest) := of_none rfl
theorem destTimeout (dest : Fin 4) : Statement (.destTimeout dest) := of_none rfl
theorem ckpFailReport (v : Word) : Statement (.ckpFailReport v) := of_none rfl
theorem ckpRestoreGo (v : Word) (src : RestoreSource) : Statement (.ckpRestoreGo v src) := of_none rfl
theorem restoreEnd (outcome : RestoreOutcome) : Statement (.restoreEnd outcome) := of_none rfl
theorem tensorRepair (j : StackId) (addr : BitVec 36) : Statement (.tensorRepair j addr) := of_none rfl
theorem refreshSlot (j : StackId) (q : Fin 4) : Statement (.refreshSlot j q) := of_none rfl
theorem ownTimerRefresh (j : StackId) (pc : Fin 64) : Statement (.ownTimerRefresh j pc) := of_none rfl
theorem loftPromotionRequest : Statement (.loftPromotionRequest) := of_none rfl
theorem promotionCopyDone (page : Nat) (data : List Byte) : Statement (.promotionCopyDone page data) := of_none rfl
theorem frameInject (number : BitVec 16) (frame : Nat) : Statement (.frameInject number frame) := of_none rfl
theorem frameForward (p : PortId) (lseq : BitVec 16) : Statement (.frameForward p lseq) := of_none rfl
theorem frameLanding (number : BitVec 16) (frame : Nat) : Statement (.frameLanding number frame) := of_none rfl
theorem exchangeResultWrite (number : BitVec 16) : Statement (.exchangeResultWrite number) := of_none rfl
theorem writeFrame (p : PortId) (f : Frame) : Statement (.writeFrame p f) := by
  intro h g hg; cases hg; exact of_frameOk h
theorem csumFrame (p : PortId) (f : Frame) : Statement (.csumFrame p f) := by
  intro h g hg; cases hg; exact of_frameOk h
theorem exchFrame (p : PortId) (f : Frame) : Statement (.exchFrame p f) := by
  intro h g hg; cases hg; exact of_frameOk h
theorem readReq (p : PortId) (f : Frame) : Statement (.readReq p f) := by
  intro h g hg; cases hg; exact of_frameOk h
theorem readResp (p : PortId) (f : Frame) : Statement (.readResp p f) := by
  intro h g hg; cases hg; exact of_frameOk h
theorem ackFrame (p : PortId) (f : Frame) : Statement (.ackFrame p f) := by
  intro h g hg; cases hg; exact of_frameOk h
theorem nackFrame (p : PortId) (f : Frame) : Statement (.nackFrame p f) := by
  intro h g hg; cases hg; exact of_frameOk h
theorem linkFrame (p : PortId) (f : Frame) : Statement (.linkFrame p f) := by
  intro h g hg; cases hg; exact of_frameOk h
theorem tickFrame (p : PortId) (f : Frame) : Statement (.tickFrame p f) := by
  intro h g hg; cases hg; exact of_frameOk h
theorem requestFrame (p : PortId) (f : Frame) : Statement (.requestFrame p f) := by
  intro h g hg; cases hg; exact of_frameOk h
theorem serveDelivery (id : Nat) : Statement (.serveDelivery id) := of_none rfl
theorem linkAckTimeout (p : PortId) (lseq : BitVec 16) : Statement (.linkAckTimeout p lseq) := of_none rfl
theorem unscheduledResend (number : BitVec 16) : Statement (.unscheduledResend number) := of_none rfl
theorem linkDown (p : PortId) : Statement (.linkDown p) := of_none rfl
theorem linkUp (p : PortId) (mod : BitVec 16) (port : BitVec 5) : Statement (.linkUp p mod port) := of_none rfl
theorem arpRequest (p : PortId) (addr : Nat) : Statement (.arpRequest p addr) := of_none rfl
theorem neighborSolicitation (p : PortId) (addr : Nat) : Statement (.neighborSolicitation p addr) := of_none rfl
theorem ptpSync (offset : Int) : Statement (.ptpSync offset) := of_none rfl
theorem pdelayReq (p : PortId) : Statement (.pdelayReq p) := of_none rfl
theorem ptpMessageInterval : Statement (.ptpMessageInterval) := of_none rfl
theorem tickInWord (w : BitVec 128) : Statement (.tickInWord w) := of_none rfl
theorem fabWinCtrlGo (v : Word) : Statement (.fabWinCtrlGo v) := of_none rfl
theorem fabBindCtrlGo (v : Word) : Statement (.fabBindCtrlGo v) := of_none rfl
theorem fabInjCtrlWrite (p : PortId) (v : Word) : Statement (.fabInjCtrlWrite p v) := of_none rfl
theorem nopEntry (r : RingId) : Statement (.nopEntry r) := of_none rfl
theorem run (r : RingId) : Statement (.run r) := of_none rfl
theorem runStart : Statement (.runStart) := of_none rfl
theorem serve (r : RingId) : Statement (.serve r) := of_none rfl
theorem serveInputCopy (id : Nat) (data : List Byte) (ok : Bool) : Statement (.serveInputCopy id data ok) := of_none rfl
theorem snapshotShip (r : RingId) : Statement (.snapshotShip r) := of_none rfl
theorem ringEnable (r : RingId) (v : Word) : Statement (.ringEnable r v) := of_none rfl
theorem ringDisable (r : RingId) (v : Word) : Statement (.ringDisable r v) := of_none rfl
theorem dbSqTailWrite (r : RingId) (v : Word) : Statement (.dbSqTailWrite r v) := of_none rfl
theorem dbCqHeadWrite (r : RingId) (v : Word) : Statement (.dbCqHeadWrite r v) := of_none rfl
theorem ringFetch (r : RingId) (data : List Byte) (ok : Bool) : Statement (.ringFetch r data ok) := of_none rfl
theorem completionWrite : Statement (.completionWrite) := of_none rfl
theorem hostRequestsAllowed : Statement (.hostRequestsAllowed) := of_none rfl
theorem msixMaskClear (vector : BitVec 11) : Statement (.msixMaskClear vector) := of_none rfl
theorem mbxCmdDataWrite (v : Word) : Statement (.mbxCmdDataWrite v) := of_none rfl
theorem mbxCmdPush (v : Word) : Statement (.mbxCmdPush v) := of_none rfl
theorem nopCommand : Statement (.nopCommand) := of_none rfl
theorem farMap : Statement (.farMap) := of_none rfl
theorem nvmeReset : Statement (.nvmeReset) := of_none rfl
theorem mbxHdbClear (v : Word) : Statement (.mbxHdbClear v) := of_none rfl
theorem mbxHdbMaskWrite (v : Word) : Statement (.mbxHdbMaskWrite v) := of_none rfl
theorem poll (t : Transport) : Statement (.poll t) := of_none rfl
theorem fwStage (t : Transport) (off : Nat) (data : List Byte) : Statement (.fwStage t off data) := of_none rfl
theorem fwActivate (t : Transport) (commit : Bool) (found : Option Nat) : Statement (.fwActivate t commit found) := of_none rfl
theorem keyEnroll (t : Transport) (slot : Nat) (key : List Byte) : Statement (.keyEnroll t slot key) := of_none rfl
theorem keyRevoke (t : Transport) (slot : Nat) : Statement (.keyRevoke t slot) := of_none rfl
theorem info (t : Transport) : Statement (.info t) := of_none rfl
theorem getVersion (t : Transport) (version : BitVec 8) : Statement (.getVersion t version) := of_none rfl
theorem getCapabilities (t : Transport) (version : BitVec 8) : Statement (.getCapabilities t version) := of_none rfl
theorem negotiateAlgorithms (t : Transport) (supported : Bool) : Statement (.negotiateAlgorithms t supported) := of_none rfl
theorem getDigests (t : Transport) : Statement (.getDigests t) := of_none rfl
theorem getCertificate (t : Transport) (slot : BitVec 8) (off len : BitVec 16) : Statement (.getCertificate t slot off len) := of_none rfl
theorem challenge (t : Transport) (slot : BitVec 8) (nonce : List Byte) : Statement (.challenge t slot nonce) := of_none rfl
theorem getMeasurements (t : Transport) (index : BitVec 8) (sign : Bool) (nonce : List Byte) : Statement (.getMeasurements t index sign nonce) := of_none rfl
theorem keyExchange (t : Transport) (mutual_ : Bool) (exchange : List Byte) : Statement (.keyExchange t mutual_ exchange) := of_none rfl
theorem finish (t : Transport) (valid : Bool) (keyDigest : List Byte) : Statement (.finish t valid keyDigest) := of_none rfl
theorem heartbeat (t : Transport) : Statement (.heartbeat t) := of_none rfl
theorem keyUpdate (t : Transport) : Statement (.keyUpdate t) := of_none rfl
theorem endSession (t : Transport) : Statement (.endSession t) := of_none rfl
theorem vendorDefinedRequest (t : Transport) (secured : Bool) (payload : VendorRequest) : Statement (.vendorDefinedRequest t secured payload) := of_none rfl
theorem evtRptrWrite (v : Word) : Statement (.evtRptrWrite v) := of_none rfl
theorem eventLogPlace : Statement (.eventLogPlace) := of_none rfl
theorem evtOverflowRecord : Statement (.evtOverflowRecord) := of_none rfl
theorem bar2Read (off len : Nat) : Statement (.bar2Read off len) := of_none rfl
theorem bar2ReadTimeout : Statement (.bar2ReadTimeout) := of_none rfl
theorem bar2Write (off : Nat) (data : List Byte) : Statement (.bar2Write off data) := of_none rfl
theorem bar0BadAccess (addr size : Nat) (write : Bool) : Statement (.bar0BadAccess addr size write) := of_none rfl
theorem wideLowRead (addr : BarRead) : Statement (.wideLowRead addr) := of_none rfl
theorem registerWrite (addr : Nat) (v : BarValue) : Statement (.registerWrite addr v) := of_none rfl
theorem nvmeCompletion (cid : Nat) (status : BitVec 15) (data : List Byte) : Statement (.nvmeCompletion cid status data) := of_none rfl
theorem auxLinkDown : Statement (.auxLinkDown) := of_none rfl
theorem cfgLoad (v : Word) (image : Image) : Statement (.cfgLoad v image) := of_none rfl
theorem cfgRelease (v : Word) : Statement (.cfgRelease v) := of_none rfl
theorem functionLevelReset : Statement (.functionLevelReset) := of_none rfl
theorem pwrEnRise (found : StartFindings) : Statement (.pwrEnRise found) := of_none rfl
theorem pwrEnFall : Statement (.pwrEnFall) := of_none rfl
theorem perstN (found : StartFindings) : Statement (.perstN found) := of_none rfl
theorem glbResetModule (v : Word) (found : StartFindings) : Statement (.glbResetModule v found) := of_none rfl
theorem i3cTargetReset (found : StartFindings) : Statement (.i3cTargetReset found) := of_none rfl
theorem groomWatchdogExpire (both : Bool) (found : StartFindings) : Statement (.groomWatchdogExpire both found) := of_none rfl
theorem glbAuthRelease (v : Word) : Statement (.glbAuthRelease v) := of_none rfl
theorem tokenInconsistent (token : BitVec 2) : Statement (.tokenInconsistent token) := of_none rfl
theorem inputVoltageExcursion (mv : Nat) : Statement (.inputVoltageExcursion mv) := of_none rfl
theorem powerCut (cause : BitVec 4) : Statement (.powerCut cause) := of_none rfl
theorem analogThermalTrip : Statement (.analogThermalTrip) := of_none rfl
theorem sensorSample (readings : List (Nat × Option Int)) : Statement (.sensorSample readings) := of_none rfl
theorem sensorFault (index : Nat) : Statement (.sensorFault index) := of_none rfl
theorem pwrCtrlResume (v : Word) : Statement (.pwrCtrlResume v) := of_none rfl
theorem pwrCtrlPeakClear (v : Word) : Statement (.pwrCtrlPeakClear v) := of_none rfl
theorem energyInterval (nj : Nat) : Statement (.energyInterval nj) := of_none rfl
theorem cablePresentChange (p : PortId) (present : Bool) : Statement (.cablePresentChange p present) := of_none rfl
theorem inputVoltageRise (mv : Nat) (found : StartFindings) : Statement (.inputVoltageRise mv found) := of_none rfl
theorem busMasterEnableClear : Statement (.busMasterEnableClear) := of_none rfl
theorem hostReadCompletion (tag : Nat) (data : List Byte) (ok : Bool) : Statement (.hostReadCompletion tag data ok) := of_none rfl
theorem tensorRepairDone (record : Nat) (src : RestoreSource) (ok : Bool) : Statement (.tensorRepairDone record src ok) := of_none rfl
theorem auxLinkReady (ok : Bool) : Statement (.auxLinkReady ok) := of_none rfl
theorem auxDeviceMemoryRequest (addr : Nat) (len : Nat) (data : Option (List Byte)) : Statement (.auxDeviceMemoryRequest addr len data) := of_none rfl
theorem secureOperationEnd : Statement (.secureOperationEnd) := of_none rfl
theorem unknownFrame (p : PortId) (f : Frame) : Statement (.unknownFrame p f) := by
  intro h g hg; cases hg; exact of_frameOk h
theorem pldmRequest (type : BitVec 8) (sensor : Nat) : Statement (.pldmRequest type sensor) := of_none rfl
theorem clearFaults : Statement (.clearFaults) := of_none rfl
theorem dynamicAddressAssignment (addr : BitVec 7) : Statement (.dynamicAddressAssignment addr) := of_none rfl

end Sys2Proof.Laws.Payload
end

