-- ==== Sys2Proof/Safety.lean ====
section
/-!
DEFINITION. What counts as a safe run, in the terms that claims use.
-/
namespace Sys2Proof.Safety

open Sys2Proof.Machine

/-- A step that neither faults nor is refused. -/
def Runs (s : State) : Prop := ∃ t, step s = .next t

/-- Every byte memory and every register bank of the state is in its canonical form: HBM, the ring of the event log, the staged flash
bytes, the registers of BAR0, the holding copies of wide values. -/
def MemoryOk (s : State) : Prop :=
  s.hbm.wf = true ∧ s.log.ring.wf = true ∧ s.flash.bytes.wf = true ∧ swf regReset s.regs = true ∧ swf regReset s.hold = true

/-- Every bank of the state's larger parts is in its canonical form: stalls, yardmasters, base dies, gate ports, submission rings, the
stall map. -/
def BanksOk (s : State) : Prop :=
  swf zeroStall s.stalls = true ∧ swf zeroBarn s.barns = true ∧ swf zeroStack s.dies = true ∧ swf zeroPort s.fab.ports = true ∧
    swf zeroRing s.host.rings = true ∧ swf noStall s.safe.map = true

/-- A state in which a stall's instruction can issue: under audit strictness every stall is brought forward first (R59). -/
def readied (s : State) : State := if s.strict then s.syncAll s.cyc else s

/-- The stall that issues: its next instruction fetched, every cycle before c complete, the place of an opcode's class taken, no patch
held any more (R197, R208, R216). -/
def atIssue (s : State) (i : Nat) (op c : Nat) : Stall :=
  let st := ((readied s).stall i).withHead.runTo c
  { st with seq := { st.seq with placeCycle := c, places := st.seq.placesAt c ++ [classOf op], patch := none } }

/-- Stall i issues the fetched word f at cycle c (R196, R197, R216): the clocks run, the word stands next in program order with good or
corrected check bits, its cycle is the reference cycle plus its delta, no stop comes before it, it finds a place, and no patch
waits for it. -/
structure Issues (s : State) (i : Nat) (f : Fetched) (c : Nat) : Prop where
  clocked : s.clocked = true
  ready : ((readied s).stall i).seq.ready = true
  head : ((readied s).stall i).withHead.head = some (f, c)
  noStop : ∀ x, ((readied s).stall i).withHead.seq.stop = some x → c < x
  good : f.check ≠ .bad
  onTime : (((readied s).stall i).withHead.runTo c).seq.ref + deltaOf f.word = c
  place : (((readied s).stall i).withHead.runTo c).seq.hasPlace c (classOf (opcodeOf f.word)) = true
  noPatch : (((readied s).stall i).withHead.runTo c).seq.patch = none

/-- A stall without its events, which the log writer takes at once, and without the stop that an audit halt sets. -/
def quietly (t : Stall) : Stall := { t with events := [], seq := { t.seq with stop := none } }

/-- Stall i has issued the word f at cycle c: the reference cycle is `ref`, time has reached c, the word's index and cycle stand as those
of the last issue. -/
structure Retired (t : State) (i : Nat) (f : Fetched) (c ref : Nat) : Prop where
  ref : (t.stall i).seq.ref = ref
  lastCycle : (t.stall i).seq.lastCycle = c
  lastIndex : (t.stall i).seq.lastIndex = f.index
  reached : c ≤ t.cyc

/-- The engine has taken a VEC instruction of the word f with the accesses of `sh` at cycle c, in a stall that stood as `u` (R134 to R136):
its operands are captured at c, its result lines are tagged with the cycle of its latency class, its address registers advance in the
next cycle, and the engine is busy to its completion. -/
structure VecTaken (t : State) (i : Nat) (u : Stall) (f : Fetched) (c : Nat) (sh : VecShape) : Prop where
  retired : Retired t i f c c
  captured : ∃ o, (t.stall i).vec.now = u.vec.now ++ [o] ∧ o.word = f.word ∧ o.issue = c ∧
    o.addrs = sh.reads.map fun a => (u.vec.addrOf a, a.len)
  advance : (t.stall i).vec.changes = u.vec.changes ++ sh.after.map fun x => (c + 1, x)
  busy : (t.stall i).vec.busyTo = max u.vec.busyTo (c + sh.lat)
  issued : (t.stall i).vec.lastIssue = some c
  results : (t.stall i).spd.tags.map (fun x => (x.fin, x.addr, x.len)) = u.spd.tags.map (fun x => (x.fin, x.addr, x.len)) ++
    sh.writes.map fun a => (c + sh.lat, u.vec.addrOf a % spdSize, a.len)

/-- The state in which time has reached cycle x and stall i has completed every cycle before it, its events taken. -/
def brought (s : State) (i x : Nat) : State := (s.at_ x).sync i x

/-- An operation that reaches stall i alone: nothing outside the stalls changes but time, the events held for the log, and the shot's
failure and audit halt; under standard strictness no other stall and no yardmaster changes. -/
structure OneStall (s t : State) (i : Nat) : Prop where
  rest : { t with cyc := s.cyc, stalls := s.stalls, barns := s.barns, log := s.log, shot := s.shot } = s
  log : { t.log with held := s.log.held } = s.log
  shot : { t.shot with fail := s.shot.fail, skewed := s.shot.skewed, halt := s.shot.halt } = s.shot
  time : s.cyc ≤ t.cyc
  alone : s.strict = false → t.barns = s.barns ∧ ∀ j, j ≠ i → t.stall j = s.stall j

/-- The yardmaster of barn b issues the word w at cycle c (R196, R197, R224): the clocks run, its program runs, the word stands at its
index with good check bits, c is the reference cycle plus the word's delta, no stop comes before it, no selection is under way, and it
has issued nothing in that cycle. -/
structure YmIssues (s : State) (b : Nat) (w : Insn) (c : Nat) : Prop where
  clocked : s.clocked = true
  running : (s.barn b).state = .running
  inRange : (s.barn b).index < 2048
  word : (sget zeroTack (s.barn b).prog (s.barn b).index).read = (w, .good)
  cycle : (s.barn b).ref + deltaOf w = c
  noStop : ∀ x, (s.barn b).stop = some x → c < x
  noSel : (s.barn b).sel = none
  free : (s.barn b).lastIssue ≠ some c

/-- A yardmaster that has issued at cycle c and goes on behind the instruction. -/
def ymNext (y : Barn) (c ref : Nat) : Barn := { y with index := y.index + 1, ref := ref, lastIssue := some c }

/-- What a command of the host leaves alone where it works on no memory: HBM, the stalls, the yardmasters, the base dies. -/
structure Aside (s t : State) : Prop where
  hbm : t.hbm = s.hbm
  stalls : t.stalls = s.stalls
  barns : t.barns = s.barns
  dies : t.dies = s.dies

/-- One completion has been made, for the entry e, with a status and a cause: opcode and cookie are the entry's (R418); one that reports
an event waits for it (R407). -/
structure Completes (s t : State) (e : Entry) (status cause : Nat) : Prop where
  made : ∃ c : Completion, t.host.comps = s.host.comps ++ [c] ∧ c.ring = e.ring ∧ c.pass = e.pass ∧ c.seq = e.seq ∧
    leAt c.body 0 2 = status ∧ leAt c.body 2 1 = cause ∧ bytesAt c.body 3 1 = bytesAt e.bytes 0 1 ∧
    bytesAt c.body 16 8 = bytesAt e.bytes 16 8 ∧ c.irq = (!natBit (leAt e.bytes 1 1) 0) ∧
    c.cause = if status = 0 then none else some status

/-- Events of the code and source have been entered for the log behind those that stood there, in this order. -/
def Logged (s t : State) (l : List (Nat × Nat)) : Prop :=
  t.log.held.map (fun e => (e.code, e.src)) = s.log.held.map (fun e => (e.code, e.src)) ++ l

end Sys2Proof.Safety
end

