-- ==== Sys2Proof/Certificates/Slice0/Obligations.lean ====
section
/-!
DEFINITION. The statements for the provers.
-/
open Sys2Proof Sys2Proof.Machine Sys2Proof.Safety

/-! ### Stall instructions (04 to 08) -/

/-- R203 to R205: the next index, the loops and the return stack after CTL.NOP, CTL.JUMP, CTL.LOOP, CTL.CALL and CTL.RET; each sets
the reference cycle to its issue cycle (R196).

R196, R203, R208: CTL.WAIT sets the reference cycle to its issue cycle plus count; CTL.END ends the program; CTL.SUBST leaves its
patch for the next instruction. -/
def Obligations.ControlFlowSteps : Prop :=
  (∀ (s : State) (i : StallId) (f : Fetched) (c : Nat), Issues s i.val f c →
     let w := f.word
     let o := (atIssue s i.val (opcodeOf w) c).seq.course
     (opcodeOf w = 0x00 → bitsOf w 43 0 = 0 →
       ∃ t, exec (.ctlNop i) s = .next t ∧ Retired t i.val f c c ∧ (t.stall i.val).seq.course.rets = o.rets ∧
         ((∀ l ∈ o.loops.head?, l.depth ≠ o.rets.length ∨ l.last ≠ o.index) →
           (t.stall i.val).seq.course = ⟨o.index + 1, o.loops, o.rets⟩) ∧
         (∀ l r, o.loops = l :: r → l.depth = o.rets.length → l.last = o.index → 0 < l.left →
           (t.stall i.val).seq.course = ⟨l.first, { l with left := l.left - 1 } :: r, o.rets⟩)) ∧
     (opcodeOf w = 0x03 → bitsOf w 30 0 = 0 → o.allows w = true →
       ∃ t, exec (.ctlJump i) s = .next t ∧ Retired t i.val f c c ∧
         (t.stall i.val).seq.course = ⟨bitsOf w 43 31, o.loops, o.rets⟩) ∧
     (opcodeOf w = 0x04 → bitsOf w 14 0 = 0 → f.index < bitsOf w 43 31 → o.allows w = true →
       ∃ t, exec (.ctlLoop i) s = .next t ∧ Retired t i.val f c c ∧
         (t.stall i.val).seq.course =
           ⟨o.index + 1, ⟨o.index + 1, bitsOf w 43 31, bitsOf w 30 15, o.rets.length⟩ :: o.loops, o.rets⟩) ∧
     (opcodeOf w = 0x05 → bitsOf w 30 0 = 0 → o.rets.length < 4 →
       ∃ t, exec (.ctlCall i) s = .next t ∧ Retired t i.val f c c ∧ (t.stall i.val).seq.course.index = bitsOf w 43 31 ∧
         (o.loops = [] → (t.stall i.val).seq.course.rets = (o.index + 1) :: o.rets)) ∧
     (∀ r rs, opcodeOf w = 0x06 → bitsOf w 43 0 = 0 → o.rets = r :: rs →
       ∃ t, exec (.ctlRet i) s = .next t ∧ Retired t i.val f c c ∧
         (t.stall i.val).seq.course = ⟨r, o.loops.filter (fun l => l.depth ≠ o.rets.length), rs⟩)) ∧
  (∀ (s : State) (i : StallId) (f : Fetched) (c : Nat), Issues s i.val f c →
     let w := f.word
     (opcodeOf w = 0x02 → bitsOf w 43 32 = 0 → bitsOf w 31 0 ≠ 0 →
       ∃ t, exec (.ctlWait i) s = .next t ∧ Retired t i.val f c (c + bitsOf w 31 0)) ∧
     (opcodeOf w = 0x01 → bitsOf w 43 0 = 0 →
       ∃ t, exec (.ctlEnd i) s = .next t ∧ Retired t i.val f c c ∧ (t.stall i.val).seq.state = .ended ∧
         (t.stall i.val).seq.fetchOn = false) ∧
     (opcodeOf w = 0x07 → bitsOf w 29 0 = 0 → bitsOf w 37 36 < 3 →
       bitsOf w 35 30 + (match bitsOf w 37 36 with | 0 => 3 | 1 => 2 | _ => 4) ≤ 44 →
       ∃ t, exec (.ctlSubst i) s = .next t ∧ Retired t i.val f c c ∧
         (t.stall i.val).seq.patch = some ⟨bitsOf w 43 38, bitsOf w 37 36, bitsOf w 35 30⟩))

/-- R231: CTL.CSAVE samples the state and its 24 lines are due from the second cycle after its issue, one a cycle; CTL.CREST begins
the reads of its 24 lines. Either holds the context path. -/
def Obligations.ContextSaveRestore : Prop :=
  ∀ (s : State) (i : StallId) (f : Fetched) (c : Nat), Issues s i.val f c →
    let w := f.word
    let u := atIssue s i.val (opcodeOf w) c
    bitsOf w 27 0 = 0 → u.ctxBusy c = false → u.wholeBusy = false →
    (opcodeOf w = 0x08 →
      ∃ t, exec (.ctlCsave i) s = .next t ∧ Retired t i.val f c c ∧
        (∃ d, (t.stall i.val).seq.ctx = some ⟨true, c, bitsOf w 43 28, [], d, f.index⟩) ∧
        (t.stall i.val).spd.writes.map (fun p => (p.fin, p.addr)) =
          u.spd.writes.map (fun p => (p.fin, p.addr)) ++
            (List.range 24).map (fun k => (c + 2 + k, (bitsOf w 43 28 + k) % 65536 * 64))) ∧
    (opcodeOf w = 0x09 →
      ∃ t, exec (.ctlCrest i) s = .next t ∧ Retired t i.val f c c ∧
        (t.stall i.val).seq.ctx = some ⟨false, c, bitsOf w 43 28, [], 0, f.index⟩)

/-- R219: SYN.BAR of a member whose occurrences are not used up counts the arrival and waits at the entry. -/
def Obligations.BarrierArrival : Prop :=
  ∀ (s : State) (i : StallId) (f : Fetched) (c : Nat) (b : Barrier) (l : Nat), Issues s i.val f c →
    let w := f.word
    let u := atIssue s i.val (opcodeOf w) c
    opcodeOf w = 0x10 → bitsOf w 35 0 = 0 → (s.env i.val).bars.find? (fun b => b.id = bitsOf w 43 36) = some b →
    u.logical = some l → l ∈ b.members → sget zeroNat u.seq.arrived (bitsOf w 43 36) < b.releases.length →
      ∃ t, exec (.synBar i) s = .next t ∧ Retired t i.val f c c ∧ (t.stall i.val).seq.waiting = some (bitsOf w 43 36) ∧
        (t.stall i.val).seq.arrived = sset zeroNat u.seq.arrived (bitsOf w 43 36) (sget zeroNat u.seq.arrived (bitsOf w 43 36) + 1) ∧
        (t.stall i.val).seq.arrCycle = c

/-- R106, R111, R113, R130, R105: an accumulate joins the passes with its cycle count and pass number; a keep-warm takes a pass number
and n cycles; LDDESC queues the read of its descriptor; SHAPE takes effect in the next cycle.

R116, R118, R121: a preload, drain, save or restore takes the move path; a preload clears its tile and sets its anchors at issue, a
restore clears all four groups. -/
def Obligations.OpePathIssue : Prop :=
  (∀ (s : State) (i : StallId) (f : Fetched) (c : Nat), Issues s i.val f c →
     let w := f.word
     let u := atIssue s i.val (opcodeOf w) c
     let o := u.ope
     let gs := tileGroups o.shape (bitsOf w 43 39)
     let dc := o.desc (bitsOf w 38 36)
     let dr := o.desc (bitsOf w 35 33)
     (opcodeOf w = 0x20 → bitsOf w 15 0 = 0 → bitsOf w 32 17 ≠ 0 → tileValid o.shape o.fp (bitsOf w 43 39) = true →
       descIllegal dc.active = false → descIllegal dr.active = false → u.wholeBusy = false → u.crestBars c = false →
       (∀ m, o.move = some m → m.kind = .drain → ∀ g ∈ m.groups, g ∉ gs) →
       o.castEnd ≤ c + max (dLat dc.active) (dLat dr.active) + 3 →
       ∃ t p, exec (.opeAcc i) s = .next t ∧ Retired t i.val f c c ∧ (t.stall i.val).ope.passes = o.passes ++ [p] ∧
         (t.stall i.val).ope.passNo = o.passNo + 1 ∧ p.issue = c ∧ p.pass = o.passNo + 1 ∧ p.steps = bitsOf w 32 17 ∧ p.groups = gs ∧
         p.cycles = gs.length * (if isDual (dArrayCode dc.active) (dArrayCode dr.active) = true then (bitsOf w 32 17 + 1) / 2
           else bitsOf w 32 17)) ∧
     (opcodeOf w = 0x27 → bitsOf w 29 0 = 0 → u.wholeBusy = false → o.castEnd ≤ c + 7 →
       ∃ t, exec (.opeKeepwarm i) s = .next t ∧ Retired t i.val f c c ∧ (t.stall i.val).ope.passNo = o.passNo + 1 ∧
         (t.stall i.val).ope.flights = o.flights ++ [⟨c, c + 6 + (bitsOf w 43 33 + 1), c + 10 + (bitsOf w 43 33 + 1), []⟩] ∧
         (t.stall i.val).ope.acc = o.acc ∧ (t.stall i.val).ope.anchors = o.anchors ∧ (t.stall i.val).ope.expect = o.expect ∧
         (t.stall i.val).ope.macs = o.macs) ∧
     (opcodeOf w = 0x21 → bitsOf w 22 0 = 0 → u.wholeBusy = false → u.crestBars c = false →
       ∃ t, exec (.opeLddesc i) s = .next t ∧ Retired t i.val f c c ∧
         (t.stall i.val).ope.loads = o.loads ++ [(bitsOf w 43 41, 16 * bitsOf w 40 23 % spdSize, f.index)]) ∧
     (opcodeOf w = 0x26 → bitsOf w 39 0 = 0 → (bitsOf w 41 41 = 1 → bitsOf w 43 42 = 3 ∧ bitsOf w 40 40 = 0) →
       u.moveBusy c = false → (∀ x ∈ o.flights, x.lastAdd < c) →
       ∃ t, exec (.opeShape i) s = .next t ∧ Retired t i.val f c c ∧
         (t.stall i.val).vec.changes = u.vec.changes ++
           [(c + 1, .shape (bitsOf w 43 42) (decide (bitsOf w 41 41 = 1)) (decide (bitsOf w 40 40 = 1)))])) ∧
  (∀ (s : State) (i : StallId) (f : Fetched) (c : Nat), Issues s i.val f c →
     let w := f.word
     let u := atIssue s i.val (opcodeOf w) c
     let o := u.ope
     let gs := tileGroups o.shape (bitsOf w 43 39)
     u.moveBusy c = false →
     (opcodeOf w = 0x22 → tileValid o.shape o.fp (bitsOf w 43 39) = true → bitsOf w 30 28 ≠ 7 → (bitsOf w 30 28 = 0 → o.fp = false) →
       bitsOf w 27 26 ≠ 3 → (bitsOf w 30 28 = 0 → bitsOf w 25 8 % 4 = 0) →
       ∃ t m, exec (.opePreload i) s = .next t ∧ Retired t i.val f c c ∧ (t.stall i.val).ope.move = some m ∧ m.kind = .preload ∧
         m.issue = c ∧ m.groups = gs ∧
         ∀ g ∈ gs, (o.fp = false → sget zeroInt (t.stall i.val).ope.anchors g = signed 8 (bitsOf w 38 31)) ∧
           sget zeroNat (t.stall i.val).ope.expect g = 0 ∧ sget zeroNat (t.stall i.val).ope.minPass g = o.passNo + 1) ∧
     (opcodeOf w = 0x23 → tileValid o.shape o.fp (bitsOf w 43 39) = true → bitsOf w 38 36 ≤ 5 →
       (bitsOf w 38 36 = 0 → o.fp = false) → o.casting gs c = false →
       ∃ t m, exec (.opeDrain i) s = .next t ∧ Retired t i.val f c c ∧ (t.stall i.val).ope.move = some m ∧ m.kind = .drain ∧
         m.issue = c ∧ m.groups = gs ∧ (t.stall i.val).ope.acc = o.acc) ∧
     (opcodeOf w = 0x24 → wholeLegal u w = true → u.ctxBusy c = false → o.casting [0, 1, 2, 3] c = false →
       ∃ t m, exec (.opeSave i) s = .next t ∧ Retired t i.val f c c ∧ (t.stall i.val).ope.move = some m ∧ m.kind = .save ∧
         m.issue = c ∧ m.groups = [0, 1, 2, 3] ∧ (t.stall i.val).ope.acc = o.acc) ∧
     (opcodeOf w = 0x25 → wholeLegal u w = true → u.ctxBusy c = false →
       ∃ t m, exec (.opeRestore i) s = .next t ∧ Retired t i.val f c c ∧ (t.stall i.val).ope.move = some m ∧ m.kind = .restore ∧
         m.issue = c ∧ m.groups = [0, 1, 2, 3] ∧
         ∀ g ∈ [0, 1, 2, 3], sget zeroNat (t.stall i.val).ope.expect g = 0 ∧
           sget zeroNat (t.stall i.val).ope.minPass g = o.passNo + 1))

/-- R134 to R136, R150, R153: every VEC instruction with operands or a result is taken at its issue and completes in its latency
class: function instructions in 8 cycles, LADD and PACK in 10, the vector class in 6. -/
def Obligations.VecTakesInstructions : Prop :=
  ∀ (s : State) (i : StallId) (f : Fetched) (c : Nat) (sh : VecShape), Issues s i.val f c →
    let w := f.word
    let u := atIssue s i.val (opcodeOf w) c
    u.vec.aligned (sh.reads ++ sh.writes) = true → u.crestBars c = false →
    (opcodeOf w = 0x30 → shapeOp w = some sh → ∃ t, exec (.vecOp i) s = .next t ∧ VecTaken t i.val u f c sh ∧ sh.lat = 6) ∧
    (opcodeOf w = 0x31 → shapeCvt w = some sh → ∃ t, exec (.vecCvt i) s = .next t ∧ VecTaken t i.val u f c sh) ∧
    (opcodeOf w = 0x32 → shapeFunc w = some sh → u.vec.slotReady (bitsOf w 33 31) = true →
      ∃ t, exec (.vecFunc i) s = .next t ∧ VecTaken t i.val u f c sh ∧ sh.lat = 8) ∧
    (opcodeOf w = 0x33 → shapeDfunc w = some sh → u.vec.slotReady (bitsOf w 28 26) = true →
      ∃ t, exec (.vecDfunc i) s = .next t ∧ VecTaken t i.val u f c sh ∧ sh.lat = 8) ∧
    (opcodeOf w = 0x34 → shapeMaskf w = some sh → ∃ t, exec (.vecMaskf i) s = .next t ∧ VecTaken t i.val u f c sh ∧ sh.lat = 6) ∧
    (opcodeOf w = 0x35 → shapeMaskb w = some sh → ∃ t, exec (.vecMaskb i) s = .next t ∧ VecTaken t i.val u f c sh ∧ sh.lat = 6) ∧
    (opcodeOf w = 0x36 → shapeDrop w = some sh → ∃ t, exec (.vecDrop i) s = .next t ∧ VecTaken t i.val u f c sh ∧ sh.lat = 6) ∧
    (opcodeOf w = 0x37 → shapeLadd w = some sh → ∃ t, exec (.vecLadd i) s = .next t ∧ VecTaken t i.val u f c sh ∧ sh.lat = 10) ∧
    (opcodeOf w = 0x38 → shapePack w = some sh → ∃ t, exec (.vecPack i) s = .next t ∧ VecTaken t i.val u f c sh ∧ sh.lat = 10) ∧
    (opcodeOf w = 0x39 → shapeUnpack w = some sh → ∃ t, exec (.vecUnpack i) s = .next t ∧ VecTaken t i.val u f c sh) ∧
    (opcodeOf w = 0x3A → shapeCadd w = some sh → ∃ t, exec (.vecCadd i) s = .next t ∧ VecTaken t i.val u f c sh ∧ sh.lat = 6) ∧
    (opcodeOf w = 0x3B → shapeHist w = some sh → ∃ t, exec (.vecHist i) s = .next t ∧ VecTaken t i.val u f c sh)

/-- R161, R139: HSTORE samples its set four cycles after its issue and completes at six; SETA, SETK and SETR take effect from the next
cycle. -/
def Obligations.VecStoresAndRegisters : Prop :=
  ∀ (s : State) (i : StallId) (f : Fetched) (c : Nat), Issues s i.val f c →
    let w := f.word
    let u := atIssue s i.val (opcodeOf w) c
    u.crestBars c = false →
    (∀ sh, opcodeOf w = 0x3C → shapeHstore w = some sh → u.vec.aligned sh.writes = true →
      ∃ t p, exec (.vecHstore i) s = .next t ∧ Retired t i.val f c c ∧ (t.stall i.val).vec.pstore = u.vec.pstore ++ [p] ∧
        p.fin = c + 4 ∧ p.word = w ∧
        (t.stall i.val).spd.tags.map (fun x => (x.fin, x.addr, x.len)) = u.spd.tags.map (fun x => (x.fin, x.addr, x.len)) ++
          sh.writes.map fun a => (c + 6, u.vec.addrOf a % spdSize, a.len)) ∧
    (opcodeOf w = 0x3D →
      ∃ t, exec (.vecSeta i) s = .next t ∧ Retired t i.val f c c ∧ (t.stall i.val).vec.changes =
        u.vec.changes ++ [(c + 1, .addr (bitsOf w 43 40) ⟨bitsOf w 39 18, signed 18 (bitsOf w 17 0)⟩)]) ∧
    (opcodeOf w = 0x3E → bitsOf w 40 32 = 0 →
      ∃ t, exec (.vecSetk i) s = .next t ∧ Retired t i.val f c c ∧ (t.stall i.val).vec.changes =
        u.vec.changes ++ [(c + 1, .konst (bitsOf w 43 41) (bitsOf w 31 0))]) ∧
    (opcodeOf w = 0x3F → bitsOf w 39 0 < 2 ^ setrWidth (bitsOf w 41 40) →
      ∃ t, exec (.vecSetr i) s = .next t ∧ Retired t i.val f c c ∧ (t.stall i.val).vec.changes =
        u.vec.changes ++ [(c + 1, .randField (bitsOf w 43 42) (bitsOf w 41 40) (bitsOf w 39 0))])

/-- R186, R188, R192: COPY and FILL begin and hold their path; FILL's lines are due from the second cycle after issue; PWR acts on each bank
of its mask and on no other (that a power-down of a waking bank waits like any other is the model's choice, log 130). -/
def Obligations.SpdIssue : Prop :=
  ∀ (s : State) (i : StallId) (f : Fetched) (c : Nat), Issues s i.val f c →
    let w := f.word
    let u := atIssue s i.val (opcodeOf w) c
    (opcodeOf w = 0x40 → bitsOf w 3 0 = 0 → u.spd.copy = none →
      ∃ t d, exec (.spdCopy i) s = .next t ∧ Retired t i.val f c c ∧ (t.stall i.val).spd.copy = some d ∧ d.fill = false ∧ d.issue = c ∧
        d.lines = bitsOf w 11 4 + 1 ∧ d.dst = bitsOf w 43 28 ∧ d.src = bitsOf w 27 12 ∧
        (t.stall i.val).spd.tags.map (fun x => (x.fin, x.addr, x.len)) = u.spd.tags.map (fun x => (x.fin, x.addr, x.len)) ++
          (List.range (bitsOf w 11 4 + 1)).map fun k => (c + k + 6, (bitsOf w 43 28 + k) % 65536 * 64 % spdSize, 64)) ∧
    (opcodeOf w = 0x41 → bitsOf w 11 0 = 0 → u.spd.copy = none →
      ∃ t d, exec (.spdFill i) s = .next t ∧ Retired t i.val f c c ∧ (t.stall i.val).spd.copy = some d ∧ d.fill = true ∧ d.issue = c ∧
        (t.stall i.val).spd.writes.map (fun p => (p.fin, p.addr, p.bytes)) = u.spd.writes.map (fun p => (p.fin, p.addr, p.bytes)) ++
          (List.range (bitsOf w 27 20 + 1)).map fun k =>
            (c + k + 2, (bitsOf w 43 28 + k) % 65536 * 64, List.replicate 64 (BitVec.ofNat 8 (bitsOf w 19 12)))) ∧
    (opcodeOf w = 0x42 → bitsOf w 10 0 = 0 → bitsOf w 43 12 ≠ 0 →
      ∃ t, exec (.spdPwr i) s = .next t ∧ Retired t i.val f c c ∧ ∀ b < 32,
        sget bankOn (t.stall i.val).spd.banks b =
          if natBit (bitsOf w 43 12) b = true then
            (match decide (bitsOf w 11 11 = 1), sget bankOn u.spd.banks b with
            | true, .down => .waking (c + 64)
            | true, .waiting _ => .on
            | false, .on => .waiting c
            | false, .waking _ => .waiting c
            | _, x => x)
          else sget bankOn u.spd.banks b)

/-- R235, R236, R264: START activates its context, HALT stops it, SETCTX sets an offset, PONY joins the queue of its port. -/
def Obligations.StreamInstructions : Prop :=
  ∀ (s : State) (i : StallId) (f : Fetched) (c : Nat), Issues s i.val f c →
    let w := f.word
    let u := atIssue s i.val (opcodeOf w) c
    let n := bitsOf w 43 41
    (∀ d, opcodeOf w = 0x50 → (s.env i.val).profile.descs.find? (fun d => d.1 = bitsOf w 40 35) = some d → bitsOf w 25 0 = 0 →
      (bitsOf w 34 34 ≠ 1 → bitsOf w 33 26 = 0) → (u.ctx n).activeAt c = false →
      (u.str.serial = true → ∀ m < 8, (u.ctx m).activeAt c = false) → bitsOf w 40 35 ∉ u.str.badDescs →
      sdProgram d.2 ∉ u.str.badProgs →
      progOk (match (s.env i.val).profile.progs.find? (fun p => p.1 = sdProgram d.2) with | some p => p.2 | none => [])
        (sdFmtEn d.2) = true →
      ∃ t, exec (.strStart i) s = .next t ∧ Retired t i.val f c c ∧ ((t.stall i.val).ctx n).state = .active ∧
        ((t.stall i.val).ctx n).start = c ∧ ((t.stall i.val).ctx n).desc = bitsOf w 40 35 ∧
        ((t.stall i.val).ctx n).serving = decide (bitsOf w 34 34 = 1) ∧ ((t.stall i.val).ctx n).request = bitsOf w 33 26) ∧
    (opcodeOf w = 0x51 → bitsOf w 40 0 = 0 → (u.ctx n).activeAt c = true →
      ∃ t h, exec (.strHalt i) s = .next t ∧ Retired t i.val f c c ∧ ((t.stall i.val).ctx n).halted = some h ∧ h ≤ c ∧
        ∀ m, m ≠ n → (t.stall i.val).ctx m = u.ctx m) ∧
    (opcodeOf w = 0x53 → bitsOf w 39 36 = 0 →
      ∃ t, exec (.strSetctx i) s = .next t ∧ Retired t i.val f c c ∧ (t.stall i.val).ctx n =
        (if bitsOf w 40 40 = 1 then { u.ctx n with locOff := signed 36 (bitsOf w 35 0) }
          else { u.ctx n with memOff := signed 36 (bitsOf w 35 0) })) ∧
    (let q := u.pony.queue.filter fun p => !(decide (p.offer ≤ c) && s.ponyLost i.val p);
      opcodeOf w = 0x52 → bitsOf w 39 18 % 4 = 0 → u.pony.bad = false → q.length < 16 →
      ∃ t p, exec (.strPony i) s = .next t ∧ Retired t i.val f c c ∧ (t.stall i.val).pony.queue = q ++ [p] ∧ p.issue = c ∧
        p.offer = c + 4 ∧ p.src = bitsOf w 39 18 ∧ p.len = 4 * (bitsOf w 17 12 + 1))

/-- R200: a skipped word, of an illegal opcode or of uncorrectable check bits, has no effect but on the reference cycle and the course:
it falls through. -/
def Obligations.IllegalWordFallsThrough : Prop :=
  ∀ (s : State) (i : StallId) (f : Fetched) (c : Nat), Issues s i.val f c → stallOpcode (opcodeOf f.word) = false →
    let u := atIssue s i.val (opcodeOf f.word) c
    ∃ t, exec (.ctlNop i) s = .next t ∧ Retired t i.val f c c ∧ (t.stall i.val).seq.course = u.seq.course.step f.word true ∧
      (t.stall i.val).seq.course.rets = u.seq.course.rets ∧ (t.stall i.val).spd.mem = u.spd.mem ∧ (t.stall i.val).ope.acc = u.ope.acc ∧
      (t.stall i.val).vec.now = u.vec.now ∧ (t.stall i.val).str = u.str ∧ (t.stall i.val).pony = u.pony

/-! ### What happens in a stall outside its instructions (04, 05, 06) -/

/-- R128: at the end of a drain or save the residues are compared group by group; the first mismatch of a shot is recorded.

R164, R166: the lane under check is floor(cycle/4096) mod 128; its pattern pointer advances modulo 1,024 in each cycle in which no VEC
instruction issues, and in no other; a disagreement raises E_VEC_LANE_FAULT, records the first lane and fails the shot. A fenced stall,
powered down, checks nothing (R24). -/
def Obligations.ResidueVerdicts : Prop :=
  (∀ (s : State) (i : StallId) (d : Verdict) (r0 rest : List Verdict),
     let w := (s.at_ d.fin).sync i.val (max d.fin (s.stall i.val).clk)
     let u := w.stall i.val
     (s.stall i.val).ope.verdicts = d :: r0 → u.ope.verdicts = d :: rest →
       ∃ t, exec (.residueVerdict i) s = .next t ∧ (t.stall i.val).ope.verdicts = rest ∧ (t.stall i.val).ope.acc = u.ope.acc ∧
         ((∀ g ∈ d.groups, g.2.2.2 = true → g.2.1 = g.2.2.1) → t.log = w.log ∧ t.shot = w.shot ∧
           (t.stall i.val).ope.err = u.ope.err) ∧
         (∀ g gs, d.groups.filter (fun g => g.2.2.2 && decide (g.2.1 ≠ g.2.2.1)) = g :: gs → Ev.residueMismatch ∉ u.once →
           (t.stall i.val).ope.err = orBit (setBits (setBits (setBits u.ope.err 17 16 g.1) 15 8 g.2.1) 7 0 g.2.2.1) 31 ∧
           (w.shot.begun = true → w.shot.margin = false → w.shot.fail = none → d.fin ≤ w.marginAt →
             t.shot.fail = some ⟨d.fin, Ev.residueMismatch, srcStall i.val⟩))) ∧
  ((∀ (s : State) (i : StallId) (agree : Bool), s.clocked = true →
     let w := s.sync i.val (max s.cyc (s.stall i.val).clk)
     let u := w.stall i.val
     let k := s.cyc / 4096 % 128
     ((s.stall i.val).fenced = true → exec (.laneSelftest i agree) s = .next s) ∧
     ((s.stall i.val).fenced = false →
       ∃ t, exec (.laneSelftest i agree) s = .next t ∧ (t.stall i.val).vec.issues = u.vec.issues ∧
         (agree = true → (t.stall i.val).vec.err = u.vec.err ∧ t.log = w.log ∧ t.shot = w.shot) ∧
         (agree = false → (natBit u.vec.err 31 = false → (t.stall i.val).vec.err = setBits (orBit u.vec.err 31) 6 0 k) ∧
           (natBit u.vec.err 31 = true → (t.stall i.val).vec.err = u.vec.err) ∧
           (w.shot.begun = true → w.shot.margin = false → w.shot.fail = none → s.cyc ≤ w.marginAt →
             t.shot.fail = some ⟨s.cyc, Ev.vecLaneFault, srcStall i.val⟩)))) ∧
   (∀ (v : Vec) (x k : Nat), k < 128 →
     v.pattern k (x + 1) = (if k = x / 4096 % 128 then (v.pattern k x + 1) % 1024 else v.pattern k x) ∧
     (v.lastIssue ≠ some x → (v.issued x).pattern k (x + 1) = v.pattern k x)))

/-- R186 to R188: a waiting bank goes down once no write of it is in flight and loses its contents; after 2,048 cycles the power-down
is cancelled; a waking bank accepts accesses 64 cycles after the wake. Each acts on its bank alone.

R193: the host's indirect read samples a line merged with the gather buffer where no claim holds the bank's read port; an indirect
write enters an unscheduled gather entry; an access to a bank that is down, and a write while a shot runs, are refused.

R193, R182: the waiting read copies its line as the stall sees it into the data registers; a gather entry drains into its line. -/
def Obligations.BankPowerCommands : Prop :=
  (∀ (s : State) (i : StallId) (b : Fin 32) (p : Nat), s.clocked = true →
     (sget bankOn (s.stall i.val).spd.banks b.val = .waiting p →
       let x := max (s.stallNow i.val) (p + 1)
       let u := (brought s i.val x).stall i.val
       sget bankOn u.spd.banks b.val = .waiting p → x < p + 2048 → u.bankInFlight x b.val = false →
       ∃ t, exec (.bankPowerDown i b) s = .next t ∧ x ≤ t.cyc ∧
         (∀ k, sget bankOn (t.stall i.val).spd.banks k = if k = b.val then .down else sget bankOn u.spd.banks k) ∧
         (∀ a, bankOfLine u.spd.tmap (a / 64) ≠ b.val → (t.stall i.val).spd.mem.get a = u.spd.mem.get a)) ∧
     (sget bankOn (s.stall i.val).spd.banks b.val = .waiting p →
       let x := max (s.stallNow i.val) (p + 2048)
       let u := (brought s i.val x).stall i.val
       sget bankOn u.spd.banks b.val = .waiting p →
       ∃ t, exec (.bankPowerDownCancel i b) s = .next t ∧ x ≤ t.cyc ∧ (t.stall i.val).spd.mem = u.spd.mem ∧
         (∀ k, sget bankOn (t.stall i.val).spd.banks k = if k = b.val then .on else sget bankOn u.spd.banks k) ∧
         b.val ∈ (t.stall i.val).spd.cancelled) ∧
     (sget bankOn (s.stall i.val).spd.banks b.val = .waking p →
       let x := max (s.stallNow i.val) p
       let u := (brought s i.val x).stall i.val
       sget bankOn u.spd.banks b.val = .waking p →
       ∃ t, exec (.bankWakeDone i b) s = .next t ∧ x ≤ t.cyc ∧ (t.stall i.val).spd.mem = u.spd.mem ∧
         ∀ k, sget bankOn (t.stall i.val).spd.banks k = if k = b.val then .on else sget bankOn u.spd.banks k)) ∧
  (∀ (s : State) (i : StallId) (v : Word), s.awake = true → natBit v.toNat 31 = true →
     let a := stallReg A.stlSpdIaddr i.val
     let x := s.stallNow i.val
     let line := natBits v.toNat 15 0
     let u := ((s.writeReg a v.toNat).sync i.val x).stall i.val
     (natBit v.toNat 30 = false →
       ∃ t, exec (.spdIndirectRead i v) s = .next t ∧ (t.stall i.val).spd.mem = u.spd.mem ∧
         (u.bankUp x line = true → (t.stall i.val).spd.ind = ⟨line, true, false, false, false, u.spd.ind.data⟩) ∧
         (u.bankUp x line = false → (t.stall i.val).spd.ind = ⟨line, false, false, true, false, zeroBytes 64⟩)) ∧
     (natBit v.toNat 30 = true →
       ∃ t, exec (.spdIndirectWrite i v) s = .next t ∧ (t.stall i.val).spd.mem = u.spd.mem ∧
         (s.running = false → u.bankUp x line = true → u.spd.poolTaken x 2 < 12 → (∀ g ∈ u.spd.gather, g.line ≠ line) →
           (t.stall i.val).spd.ind.waiting = false ∧ (t.stall i.val).spd.ind.fin = true ∧ (t.stall i.val).spd.ind.refused = false ∧
           (t.stall i.val).spd.gather = u.spd.gather ++
             [mergeLine ⟨line, 2, List.replicate 64 false, zeroBytes 64, x, 0⟩ 0 u.spd.ind.data]) ∧
         (s.running = true ∨ u.bankUp x line = false →
           (t.stall i.val).spd.ind = ⟨line, false, false, true, true, u.spd.ind.data⟩ ∧
           (t.stall i.val).spd.gather = u.spd.gather))) ∧
  (∀ (s : State) (i : StallId), s.clocked = true →
     let x := s.stallNow i.val
     let u := (brought s i.val x).stall i.val
     ((s.stall i.val).spd.ind.waiting = true → (s.stall i.val).spd.ind.write = false →
       (u.readPortHeld x u.spd.ind.line = false → u.bankUp x u.spd.ind.line = true →
         ∃ t, exec (.indirectReadSample i) s = .next t ∧ (t.stall i.val).spd.ind.waiting = false ∧
           (t.stall i.val).spd.ind.fin = true ∧ (t.stall i.val).spd.mem = u.spd.mem ∧
           (t.stall i.val).spd.ind.data = (List.range 64).map fun k => u.spdByte x (u.spd.ind.line * 64 + k)) ∧
       (u.readPortHeld x u.spd.ind.line = true →
         ∃ t, exec (.indirectReadSample i) s = .next t ∧ quietly (t.stall i.val) = quietly u)) ∧
     (∀ (line : BitVec 16) (g : Gather),
       u.spd.gather.find? (fun g => g.line = line.toNat && g.valid.any id && decide (g.since ≤ x)) = some g →
       (u.drainable x g = false ∨ u.outranked x g = true → ∃ t, exec (.gatherDrain i line) s = .next t ∧
         (t.stall i.val).spd.mem = u.spd.mem) ∧
       (g.valid.length ≤ 64 → u.drainable x g = true → u.outranked x g = false → u.bankUp x line.toNat = true →
       ∃ t, exec (.gatherDrain i line) s = .next t ∧ x ≤ t.cyc ∧
         (∀ a, a / 64 ≠ line.toNat → (t.stall i.val).spd.mem.get a = u.spd.mem.get a) ∧
         (∀ k < 64, g.valid.getD k false = true → (t.stall i.val).spd.mem.get (line.toNat * 64 + k) = g.bytes.getD k 0) ∧
         (∀ k < 64, g.valid.getD k false = false →
           (t.stall i.val).spd.mem.get (line.toNat * 64 + k) = u.spd.mem.get (line.toNat * 64 + k)))))

/-! ### Streams, the pony lane, base dies, the loft (08, 09) -/

/-- R246, R247, R249, R251: a piece of an active context issues at its cycle with an engine, slot, lines and quota; its request is on its
way to its base die; a read's lines are tagged until its landing. A piece outside the bound, or without its resources, ends its
context with cause 1 or 2 and issues nothing. -/
def Obligations.PieceIssue : Prop :=
  ∀ (s : State) (i : StallId) (n : CtxId) (c' : Ctx) (b : Piece) (x : Nat), s.clocked = true →
    let c := (s.stall i.val).ctx n.val
    let w := ((s.aheadTo i.val n.val x (x + 1 - c.ahead.t)).sync i.val x).at_ x
    let u := (w.stall i.val).setCtx n.val
      { (w.stall i.val).ctx n.val with walk := c'.walk, posts := c'.posts, iterFin := c'.iterFin }
    let m := b.mems.headD 0
    c.state = .active → c.endAt = none → c.halted = none → c.nextPiece ((s.stall i.val).ctx (sdPartner c.raw)) = some (c', b, x) →
    m < 2 ^ 47 →
    (∀ j sa, (∀ a ∈ b.mems, c.lo ≤ a ∧ a < c.hi ∧ a < 2 ^ 41) → w.locate m = some (j, sa) →
      u.str.room x b.mems.length (sdWrite c.raw) (some (j, pcOf sa)) = true →
      ∃ t f, exec (.streamPieceIssue i n) s = .next t ∧ x ≤ t.cyc ∧ (t.stall i.val).str.flying = u.str.flying ++ [f] ∧
        f.ctx = n.val ∧ f.issue = x ∧ f.fin = x + (latency i.val j).2 ∧ f.write = sdWrite c.raw ∧ f.body = b ∧
        (t.stack j).arrivals = (w.stack j).arrivals ++ [⟨x + (latency i.val j).1, x, i.val, u.str.nextId,
          b.mems.map fun a => sa + (a - m), sdWrite c.raw, false⟩] ∧
        t.hbm = s.hbm ∧ (t.stall i.val).spd.mem = u.spd.mem ∧
        (t.stall i.val).spd.tags.map (fun g => (g.fin, g.addr, g.len)) = u.spd.tags.map (fun g => (g.fin, g.addr, g.len)) ++
          (if sdWrite c.raw = true then [] else b.locs.map fun a => (x + (latency i.val j).2, a % spdSize, 64))) ∧
    ((∃ a ∈ b.mems, a < c.lo ∨ c.hi ≤ a ∨ 2 ^ 41 ≤ a ∧ a < 2 ^ 47) →
      ∃ t, exec (.streamPieceIssue i n) s = .next t ∧ ((t.stall i.val).ctx n.val).cause = 1 ∧ t.hbm = s.hbm ∧ t.dies = s.dies ∧
        (let z := (w.setStall i.val u).sync i.val x;
          z.shot.begun = true → z.shot.margin = false → z.shot.fail = none → x ≤ z.marginAt →
          t.shot.fail = some ⟨x, Ev.strBound, srcStall i.val⟩))

/-- R285, R288: a request served at its base die: a write lays its line down, a read fills its piece with the line's bytes. -/
def Obligations.BaseDieServes : Prop :=
  ∀ (s : State) (j : StackId) (a : Arrival) (l : Nat) (p : Flying), s.clocked = true → firstArrival (s.stack j.val).arrivals = some a →
    a.lines = [l] → l % 64 = 0 → l + 64 ≤ 2 ^ 36 →
    let k := s.stack j.val
    let w := ((s.at_ a.at_).setStack j.val
      { k with arrivals := k.arrivals.filter fun b => !(b.stall = a.stall && b.id = a.id) }).sync a.stall a.at_
    (w.stall a.stall).str.flying.find? (fun p => p.id = a.id) = some p →
    (a.write = true → ∀ d, p.data = some d → d.length = 64 →
      ∃ t, exec (.baseDieArrival j) s = .next t ∧ a.at_ ≤ t.cyc ∧
        (∀ q < 64, t.hbm.get (hkey j.val (l + q)) = d.getD q 0) ∧
        (∀ b, b < hkey j.val l ∨ hkey j.val l + 64 ≤ b → t.hbm.get b = s.hbm.get b) ∧
        ∀ f ∈ (t.stall a.stall).str.flying, f.id ≠ a.id) ∧
    (a.write = false → sget noBad s.bad (unitKey j.val l) = ⟨0, []⟩ → sget noBad s.bad (unitKey j.val (l + 32)) = ⟨0, []⟩ →
      (s.stack j.val).pony = [] →
      ∃ t, exec (.baseDieArrival j) s = .next t ∧ a.at_ ≤ t.cyc ∧ t.hbm = s.hbm ∧
        ∃ f ∈ (t.stall a.stall).str.flying, f.id = a.id ∧ f.data = some (s.hbm.read (hkey j.val l) 64))

/-- R246, R252: a read piece lands: its lines are written in the scratchpad at its landing cycle, or, where its data did not arrive, the
shot fails with E_LATE_LANDING. -/
def Obligations.PieceLands : Prop :=
  ∀ (s : State) (i : StallId) (n : CtxId) (f0 f : Flying) (arrived : Bool), s.clocked = true →
    (s.stall i.val).str.firstLanding n.val = some f0 → (∀ j < 32, ∀ a ∈ (s.stack j).arrivals, a.stall = i.val → a.id ≠ f0.id) →
    let x := max f0.fin (s.stall i.val).clk
    let w := brought s i.val x
    let u := w.stall i.val
    u.str.flying.find? (fun f => f.id = f0.id) = some f → f.drop = false → f.far = false →
    (∀ d, f.data = some d → arrived = true →
      ∃ t, exec (.pieceLanding i n arrived) s = .next t ∧ x ≤ t.cyc ∧ t.hbm = s.hbm ∧ (∀ g ∈ (t.stall i.val).str.flying, g.id ≠ f.id) ∧
        (t.stall i.val).spd.writes.map (fun p => (p.fin, p.addr, p.bytes)) = u.spd.writes.map (fun p => (p.fin, p.addr, p.bytes)) ++
          if u.fenced = true then [] else f.body.locs.zipIdx.map fun l => (x, l.1, swapWords f.swap (bytesAt d (64 * l.2) 64))) ∧
    (f.data = none ∨ arrived = false →
      ∃ t, exec (.pieceLanding i n arrived) s = .next t ∧ (t.stall i.val).spd.mem = u.spd.mem ∧ (t.stall i.val).spd.writes = u.spd.writes ∧
        (let v := w.modStall i.val fun t => t.setFlying f.id fun _ => none;
          let z := ({ v with far := { v.far with reads := v.far.reads.filter fun r => !(r.stall = i.val && r.id = f.id) } } :
            State).sync i.val x;
          z.shot.begun = true → z.shot.margin = false → z.shot.fail = none → x ≤ z.marginAt →
          t.shot.fail = some ⟨x, Ev.lateLanding, srcStall i.val⟩))

/-- R254, R255, R262: the run-ahead cursor covers its next emit while it lies within the distance; a context still active after twice its
duration or at the closing margin ends with cause 7 and the shot aborts. -/
def Obligations.RunAheadAndDeadlock : Prop :=
  ∀ (s : State) (i : StallId) (n : CtxId), s.clocked = true →
    let c := (s.stall i.val).ctx n.val
    let d := sdDistance c.raw
    (∀ w, c.state = .active → c.endAt = none → d ≠ 0 → c.ahead.closed = false → c.halted = none →
      c.nextAhead (progEmits c.prog + 1) c.ahead = some w → (w.n < d ∨ c.begunEmit (w.n - d) = true) →
      ∃ t, exec (.runAheadStep i n) s = .next t ∧ (if w.n < d then c.ahead.t else max c.ahead.t c.emitAt) ≤ t.cyc ∧
        ((t.stall i.val).ctx n.val).ahead.n = w.n + 1 ∧
        ((t.stall i.val).ctx n.val).ahead.t = (if w.n < d then c.ahead.t else max c.ahead.t c.emitAt) + 1 ∧
        ((t.stall i.val).ctx n.val).walk = c.walk ∧ t.hbm = s.hbm ∧
        ∀ p ∈ squash (((c.emitLinesOf w.ix).map (·.1)).map (· / pageSize)), p ∈ ((t.stall i.val).ctx n.val).seen) ∧
    (let x := min (c.start + 2 * c.duration) s.marginAt;
      s.running = true → c.state = .active → c.activeAt x = true → s.shot.gone = none → s.safe.abort = none →
      ∃ t, exec (.streamDeadlockCheck i n) s = .next t ∧ x ≤ t.cyc ∧ t.safe.abort = some (x + 7) ∧
        ((t.stall i.val).ctx n.val).cause = 7)

/-- R54, R266, R270, R281, R287: the transfers of a pony port offered with nowhere to go are dropped; the head transfer is accepted where
its destination can take it, for delivery 40 or 110 cycles later; a delivery enters the destination, part by part where it crosses a
unit of an interleaved region, and is counted.

R287, R291: a pony buffer entry drains into its unit: all of it, or merged with what is stored. -/
def Obligations.PonyTransfers : Prop :=
  (∀ (s : State) (i : StallId), s.clocked = true →
     (∀ p0 q0, (s.stall i.val).pony.queue = p0 :: q0 →
       let x0 := max (s.stallNow i.val) (max p0.offer (match (s.stall i.val).pony.lastAccept with | some y => y + 1 | none => 0))
       let v := (s.onStall i.val x0 fun t => t.ponyCheck x0 noTack).dropPonies i.val x0
       ∀ p q, (v.stall i.val).pony.queue = p :: q →
         let x := max x0 p.offer
         (∀ k a t', v.ponyDest i.val p = some (.stall k a) →
           let w := v.sync k (max x (v.stall k).clk)
           (w.stall k).reserve x a p.len 12 = some t' →
           ∃ t f, exec (.ponyAccept i) s = .next t ∧ x ≤ t.cyc ∧ (t.stall i.val).pony.queue = (w.stall i.val).pony.queue.drop 1 ∧
             (t.stall i.val).pony.flying = (w.stall i.val).pony.flying ++ [f] ∧ f.accepted = some x ∧ f.dest = some (.stall k a) ∧
             f.fin = x + (if k / 80 = i.val / 80 then 40 else 110) ∧ (t.stall k).spd.gather = t'.spd.gather ∧
             (t.stall k).spd.mem = (w.stall k).spd.mem) ∧
         (∀ a o n j sa l u, v.ponyDest i.val p = some (.hbm a) → v.ponyParts a p.len = (o, n, j, sa) :: l →
           ((v.ponyParts a p.len).map fun r => r.2.1).sum = p.len → v.reserveHbm 32 (v.ponyParts a p.len) = some u →
           ∃ t f, exec (.ponyAccept i) s = .next t ∧ x ≤ t.cyc ∧ (t.stall i.val).pony.queue = q ∧
             (t.stall i.val).pony.flying = (v.stall i.val).pony.flying ++ [f] ∧ f.accepted = some x ∧
             f.fin = x + (if j / 4 = i.val / 80 then 40 else 110) ∧ t.dies = u.dies ∧ t.hbm = s.hbm)) ∧
     (∀ p, (s.stall i.val).pony.first = some p →
       (∀ a, p.dest = some (.hbm a) →
         let w := (s.ponyParts a p.len).foldl (fun (w : State) r =>
           w.setStack r.2.2.1 ((w.stack r.2.2.1).fill r.2.2.2 (bytesAt p.bytes r.1 r.2.1))) (s.at_ p.fin)
         let u := w.sync i.val (max p.fin (s.stall i.val).clk)
         ∃ t, exec (.ponyDelivery i) s = .next t ∧ p.fin ≤ t.cyc ∧ t.dies = w.dies ∧ t.hbm = s.hbm ∧
           (t.stall i.val).pony.delivered = satAdd 0xFFFFFFFF (u.stall i.val).pony.delivered 1))) ∧
  (∀ (s : State) (j : StackId) (e : PonyEntry), s.clocked = true →
     (s.stack j.val).pony.find? (fun e => e.bytes.any (·.isSome)) = some e → e.bytes.length = 32 → e.unit * 32 + 32 ≤ 2 ^ 36 →
     sget noBad s.bad (unitKey j.val (e.unit * 32)) = ⟨0, []⟩ →
     ∃ t, exec (.baseDiePonyDrain j) s = .next t ∧
       (∀ q < 32, t.hbm.get (hkey j.val (e.unit * 32) + q) =
         match e.bytes.getD q none with | some b => b | none => s.hbm.get (hkey j.val (e.unit * 32) + q)) ∧
       (∀ b, b < hkey j.val (e.unit * 32) ∨ hkey j.val (e.unit * 32) + 32 ≤ b → t.hbm.get b = s.hbm.get b) ∧
       t.stalls = s.stalls ∧ t.log = s.log ∧ t.shot = s.shot ∧ (∀ f ∈ (t.stack j.val).pony, f.unit = e.unit → f.held ≠ 0 ∧ ∀ b ∈ f.bytes, b = none))

/-- R302 to R305: the oldest promotion request of a page with the loft flag takes a free frame; the end of a page's copy writes the frame
and makes it resident. -/
def Obligations.LoftPromotion : Prop :=
  ∀ s : State, s.loftSettle = s →
    (∀ h p r k, s.far.asks = (h, p) :: r → farLoft (s.farEntry p) = true → s.far.frameOf p = none →
      s.far.frames.findIdx? (fun x => decide (x.state = .free)) = some k →
      ∃ t, exec .loftPromotionRequest s = .next t ∧ t.far.asks = r ∧ (t.far.frame k).page = p ∧ (t.far.frame k).state = .promoting ∧
        (t.far.frame k).holders = (if h = .groom then [] else [h]) ∧ (t.far.frame k).permanent = decide (h = .groom) ∧
        (∀ m, m ≠ k → t.far.frame m = s.far.frame m) ∧ t.hbm = s.hbm ∧ t.stalls = s.stalls) ∧
    (∀ h p r, s.far.asks = (h, p) :: r → farLoft (s.farEntry p) = false → s.far.frameOf p = none →
      exec .loftPromotionRequest s = .next { s with far := { s.far with asks := r } }) ∧
    (∀ page data k, s.far.frameOf page = some k → (s.far.frame k).state = .promoting →
      ∃ t, exec (.promotionCopyDone page data) s = .next t ∧ t.far.frame k = { s.far.frame k with state := .resident } ∧
        t.far.promoted = s.far.promoted + 1 ∧ t.hbm = (s.writeMem (s.frameAddr k) s.cyc (bytesAt data 0 pageSize) false).hbm)

/-! ### Yardmasters and tack DMA (07) -/

/-- R224, R226 to R229: the instructions of a yardmaster. Where an instruction reaches stalls, it reaches those of its barn that are not
fenced, 7 cycles after its issue, and no other state changes.

R155, R227, R314: a function-table load ends 264 cycles after its issue with the pair in the slot, valid, in every stall of the barn
that is not fenced; a selection of mode 1 writes the code of the selection rule to them 847 cycles after its issue. -/
def Obligations.YardmasterInstructions : Prop :=
  (∀ (s : State) (b : BarnId) (w : Insn) (c : Nat), YmIssues s b.val w c →
     let y := s.barn b.val
     let m := s.at_ c
     (opcodeOf w = 0xE0 → bitsOf w 43 0 = 0 → exec (.ymNop b) s = .next (m.setBarn b.val (ymNext y c c))) ∧
     (opcodeOf w = 0xE1 → bitsOf w 43 0 = 0 →
       ∃ t, exec (.ymEnd b) s = .next t ∧ t.barn b.val = ymNext { y with state := .ended } c c ∧ t.stalls = s.stalls ∧ t.log = s.log) ∧
     (opcodeOf w = 0xE2 → bitsOf w 43 32 = 0 → bitsOf w 31 0 ≠ 0 →
       exec (.ymWait b) s = .next (m.setBarn b.val (ymNext y c (c + bitsOf w 31 0)))) ∧
     (opcodeOf w = 0xE3 → bitsOf w 35 0 = 0 → (∀ p, y.ftabAt = some p → p + 257 ≤ c) →
       ∃ t, exec (.ymFtab b) s = .next t ∧
         t.barn b.val = ymNext { y with ftabAt := some c, loads := y.loads ++ [⟨c, bitsOf w 43 41, bitsOf w 40 36⟩] } c c ∧
         (∀ i, t.stall i = if i ∈ s.barnStalls b.val then (s.stall i).later (c + 7) (.slotLoad (bitsOf w 43 41)) else s.stall i) ∧
         t.log = s.log ∧ t.hbm = s.hbm) ∧
     (opcodeOf w = 0xE4 → bitsOf w 33 0 = 0 → bitsOf w 37 35 ≤ 4 → bitsOf w 34 34 = 0 →
       ∃ t, exec (.ymFmt b) s = .next t ∧ t.barn b.val = ymNext y c c ∧
         (∀ i, t.stall i =
           if i ∈ s.barnStalls b.val then (s.stall i).later (c + 7) (.fmt (bitsOf w 43 38) (bitsOf w 37 35)) else s.stall i) ∧
         t.log = s.log ∧ t.hbm = s.hbm) ∧
     (opcodeOf w = 0xE4 → bitsOf w 33 0 = 0 → bitsOf w 37 35 = 0 → bitsOf w 34 34 = 1 →
       ∃ t o, exec (.ymFmt b) s = .next t ∧ t.barn b.val = ymNext { y with sel := some ⟨bitsOf w 43 38, c, o⟩ } c c ∧
         t.stalls = s.stalls ∧ t.log = s.log ∧ t.hbm = s.hbm) ∧
     (opcodeOf w = 0xE5 → bitsOf w 26 0 = 0 → bitsOf w 30 27 ≠ 0 →
       ∃ t, exec (.ymAnchor b) s = .next t ∧ t.barn b.val = ymNext y c c ∧
         (∀ i, t.stall i = if i ∈ s.barnStalls b.val ∧ natBit (bitsOf w 30 27) (i % 80 / 20) = true then
           (s.stall i).later (c + 7) (.clear (bitsOf w 43 39) (signed 8 (bitsOf w 38 31))) else s.stall i) ∧
         t.log = s.log ∧ t.hbm = s.hbm)) ∧
  (∀ (s : State) (b : BarnId), s.clocked = true →
     (∀ l rest, (s.barn b.val).loads = l :: rest →
       ∃ t, exec (.ftabLoadEnd b) s = .next t ∧ l.issue + 264 ≤ t.cyc ∧ (t.barn b.val).loads = rest ∧
         ∀ i ∈ s.barnStalls b.val, l.slot ∈ (t.stall i).vec.valid ∧ (∀ q ∈ (t.stall i).vec.loading, q.1 ≠ l.slot) ∧
           ∀ k < 16448, sget zeroByte (t.stall i).vec.slots (l.slot * 16448 + k) = (s.storePair b.val l.pair).getD k 0) ∧
     (∀ f u i l s' h ok, (s.barn b.val).sel = some f → (s.boot.image.bind fun im => im.update) = some u → s.barnStalls b.val = i :: l →
       ((s.at_ (f.issue + 847)).setBarn b.val { s.barn b.val with sel := none }).histRecord f.entry (f.issue + 384) = (s', h, ok) →
       (ok = true →
         ∃ t, exec (.formatSelectionWrite b) s = .next t ∧ f.issue + 847 ≤ t.cyc ∧ (t.barn b.val).sel = none ∧
           ∀ k, t.stall k = if k ∈ s.barnStalls b.val then (s.stall k).later (f.issue + 847) (.fmt f.entry
             (selectFormat f.override_ h (sget zeroNat (s.stall i).tack.fmt f.entry) (u.policy.getD f.entry ⟨0, 0, 0⟩) u.thresh))
             else s.stall k) ∧
       (ok = false → ∃ t, exec (.formatSelectionWrite b) s = .next t ∧ (t.barn b.val).sel = none ∧ t.stalls = s.stalls)))

/-- R212, R213: a tack DMA starts with a write of YM_TDMA_CTRL and writes its banks 64 bytes at a time; it is refused while one runs, and a
stall drops a write into the bank it runs from.

R214: a bank switch is marked pending in every mapped logical stall of the named aisles. -/
def Obligations.TackDmaCommands : Prop :=
  (∀ (s : State) (b : BarnId), s.clocked = true →
     (∀ v : Word, s.awake = true → natBit v.toNat 31 = true →
       ((s.barn b.val).dma.isSome = true →
         ∃ t, exec (.ymTdmaGo b v) s = .next t ∧ natBit (t.reg (barnReg A.ymTdmaStatus b.val)) 29 = true ∧ t.barns = s.barns ∧
           t.stalls = s.stalls) ∧
       (∀ im, s.boot.image = some im → (im.overlays.any fun o => o.num = natBits v.toNat 7 0) = true → (s.barn b.val).dma = none →
         s.movePending b.val = false → s.dmaTargets b.val v.toNat ≠ [] →
         let todo := s.dmaTargets b.val v.toNat
         ∃ t, exec (.ymTdmaGo b v) s = .next t ∧ natBit (t.reg (barnReg A.ymTdmaStatus b.val)) 31 = true ∧
           t.barn b.val = { s.barn b.val with dma := some ⟨natBit v.toNat 29, natBits v.toNat 7 0, todo, todo.map fun _ => 0, []⟩ } ∧
           t.hbm = s.hbm ∧ t.log = s.log)) ∧
     (∀ (i : StallId) (d : TackDma) (a : Nat), (s.barn b.val).dma = some d → (d.todo.findIdx? fun l => l.head? = some i.val) = some a →
       let x := s.stallNow i.val
       let w := brought s i.val x
       let u := w.stall i.val
       let k := d.next.getD a 0
       let words := match s.boot.image with | some im => im.bankImage d.overlay u.logical | none => []
       let ws := (List.range 8).map fun q => words.getD (8 * k + q) 0
       (u.logical = none ∨ u.tack.active ≠ d.bank →
         ∃ t, exec (.tackDmaWrite b i) s = .next t ∧ x ≤ t.cyc ∧
           (k < 1023 → (t.barn b.val).dma = some { d with next := d.next.set a (k + 1) } ∧
             (t.stall i.val).tack = (u.tack.fill d.bank (8 * k) ws).setTag d.bank 0xFF) ∧
           (k = 1023 → i.val ∉ d.dropped → (∀ m ∈ s.safe.moves, m.spare ≠ i.val) →
             (if d.bank then (t.stall i.val).tack.tag1 else (t.stall i.val).tack.tag0) = d.overlay)) ∧
       (u.logical ≠ none → u.tack.active = d.bank → k < 1023 →
         ∃ t, exec (.tackDmaWrite b i) s = .next t ∧ (t.stall i.val).tack.bank0 = u.tack.bank0 ∧
           (t.stall i.val).tack.bank1 = u.tack.bank1 ∧ (i.val ∉ d.dropped → natBit (t.stall i.val).tack.err 29 = true) ∧
           ∃ d', (t.barn b.val).dma = some d' ∧ i.val ∈ d'.dropped ∧ d'.next = d.next.set a (k + 1)))) ∧
  (∀ (s : State) (b : BarnId) (v : Word), s.clocked = true → s.awake = true → natBit v.toNat 31 = true →
     let hit (i : Nat) : Prop := ∃ a < 4, ∃ k < 18, natBit v.toNat a = true ∧ s.phys (18 * (4 * b.val + a) + k) = some i
     ∃ t, exec (.ymTackSwitchRequest b v) s = .next t ∧ (∀ i, hit i → (t.stall i).tack = { (s.stall i).tack with pending := true }) ∧
       (∀ i, ¬ hit i → t.stall i = s.stall i) ∧ t.barns = s.barns ∧ t.hbm = s.hbm ∧ t.log = s.log ∧ t.shot = s.shot)

/-! ### Ticks, shots, aborts, halts, fences (02, 15) -/

/-- R29 to R31, R396, R414: at a boundary whose tick fires a shot begins at that cycle, with the boundary's number; where no RUN waits, it
runs no plan. A boundary whose tick does not fire begins none.

R60: after the detection interval of a missed tick without an announcement, E_TICK_LOST is raised, ticks are withheld and the
synchronisation is undone. -/
def Obligations.TickBeginsShot : Prop :=
  (∀ (s : State) (e : Nat), s.shot.epoch = some e → s.boot.image.isSome = true → (s.shot.begun = true → s.shot.margin = true) →
     let n := s.shot.nextNo
     let x := s.boundaryAt e
     let w := (s.at_ x).boundary x
     (w.fires = true → w.startsShots x = true →
       ∃ t, exec .tick s = .next t ∧ x ≤ t.cyc ∧ t.shot.begun = true ∧ t.shot.begin_ = x ∧ t.shot.margin = false ∧ t.shot.gone = none ∧
         t.shotNo = n % 2 ^ 48 ∧ t.shot.nextNo = n + 1 ∧ t.safe.abort = none ∧ (w.host.runs = [] → t.shot.plan = none) ∧
         t.hbm = w.hbm) ∧
     (w.fires = false →
       ∃ t, exec .tick s = .next t ∧ x ≤ t.cyc ∧ t.shot.nextNo = n + 1 ∧ t.shot.begun = w.shot.begun ∧ t.shotNo = w.shotNo ∧
         t.hbm = w.hbm ∧ t.stalls = w.stalls)) ∧
  (∀ (s : State) (x : Nat), s.shot.missAt = some x →
     ∃ t, exec .tickLossDetect s = .next t ∧ x + 7 * min (2 * s.period) 25000 ≤ t.cyc ∧ t.shot.missAt = none ∧ t.shot.noTicks = true ∧
       t.fab.synced = false ∧ natBit (t.reg A.glbTickStatus) 31 = true ∧
       t.log.held.map (fun e => (e.code, e.src)) = s.log.held.map (fun e => (e.code, e.src)) ++ [(Ev.tickLost, s.srcGroom)] ∧
       t.stalls = s.stalls ∧ t.barns = s.barns ∧ t.hbm = s.hbm ∧ t.host = s.host)

/-- R414, R417: at the boundary the head of the run queue is checked again: it starts, or completes with E_STATE and the cause of R417. -/
def Obligations.RunStarts : Prop :=
  ∀ (s : State) (e : Nat) (q : RunEntry) (r : List RunEntry), s.shot.epoch = some e → s.boot.image.isSome = true →
    (s.shot.begun = true → s.shot.margin = true) →
    let x := s.boundaryAt e
    let m := s.at_ x
    let c := if m.bit A.glbAudit 0 then m else m.closeShot
    let v := c.leaveHold.carryMoves.checkBanks
    s.fires = true → s.startsShots x = true → c.fires = true → c.startsShots x = true → v.power.cool = false →
    v.host.runs = q :: r → q.started = false → v.eligible q v.shot.nextNo x = true →
    (v.runCause q v.shot.nextNo = 0 →
      ∃ t, exec .runStart s = .next t ∧ x ≤ t.cyc ∧ t.host.runs = { q with started := true } :: r ∧ t.stalls = v.stalls ∧ t.hbm = v.hbm) ∧
    (v.runCause q v.shot.nextNo ≠ 0 → r = [] →
      ∃ t, exec .runStart s = .next t ∧ t.host.runs = [] ∧ t.stalls = v.stalls ∧
        t.log.held.map (fun e => (e.code, e.src)) = v.log.held.map (fun e => (e.code, e.src)) ++ [(Ev.state, v.srcGroom)] ∧
        ∃ k, t.host.comps = v.host.comps ++ [k] ∧ k.ring = q.entry.ring ∧ leAt k.body 0 2 = Ev.state % 65536 ∧
          leAt k.body 2 1 = v.runCause q v.shot.nextNo % 256)

/-- R33, R449: the closing margin's work is done once, at its first cycle; a release that can be made is made with it. -/
def Obligations.ClosingMarginWork : Prop :=
  ∀ s : State, s.shot.begun = true → s.shot.margin = false →
    let x := s.marginAt
    let w := (s.at_ x).marginWork x
    (w.canRelease = false → exec .closingMargin s = .next w ∧ w.shot.margin = true ∧ x ≤ w.cyc ∧
      w.safe.abort = none ∧ (s.fencesOpen = true → w.safe.requests = [])) ∧
    (w.canRelease = true →
      ∃ t, exec .closingMargin s = .next t ∧ t.boot.image = none ∧ t.shot.begun = false ∧ t.safe.moves = [] ∧ t.far.frames = [] ∧
        t.boot.releasing = 0 ∧ t.boot.mode ≠ .run ∧ t.shot.epoch = none ∧ t.host.reqs = [])

/-- R59, R201: at the cycle of an audit halt every running sequencer and yardmaster stands halted and GLB_AUDIT.halted is set; the host's
release clears it.

R465, R466: the host's abort fails the shot with E_HOST_ABORT and reaches the stalls 7 cycles later; from then no yardmaster runs. -/
def Obligations.AuditHaltAndRelease : Prop :=
  (∀ s : State,
     (∀ x, s.shot.halt = some x → s.shot.begun = true → s.bit A.glbAudit 0 = false →
       ∃ t, exec .auditHalt s = .next t ∧ x ≤ t.cyc ∧ natBit (t.reg A.glbAudit) 0 = true ∧ t.shot.ownFrom = x ∧
         (∀ i ∈ s.goodStalls, (t.stall i).seq.state ≠ .running) ∧ (∀ b < 8, (t.barn b).state ≠ .running) ∧ t.hbm = s.hbm) ∧
     (∀ v : Word, s.awake = true → natBit v.toNat 1 = true → s.bit A.glbAudit 0 = true →
       ∃ t, exec (.glbAuditRelease v) s = .next t ∧ natBit (t.reg A.glbAudit) 0 = false ∧
         (s.shot.margin = false → t.stalls = s.stalls ∧ t.shot = s.shot ∧ t.hbm = s.hbm) ∧
         (s.shot.margin = true → s.shotEnd ≤ s.cyc → t.shot.begun = false))) ∧
  (∀ s : State,
     (∀ v : Word, s.awake = true → natBit v.toNat 31 = true → s.shot.begun = true → s.shot.gone = none → s.safe.abort = none →
       s.bit A.glbAudit 0 = false →
       ∃ t, exec (.safeCtrlAbort v) s = .next t ∧ t.safe.abort = some (s.cyc + 7) ∧ t.stalls = s.stalls ∧ t.hbm = s.hbm ∧
         t.log.held = s.log.held ++ [⟨Ev.hostAbort, s.srcGroom, s.shotNo, s.now, []⟩] ∧
         (s.shot.margin = false → s.shot.fail = none → s.cyc ≤ s.marginAt → t.shot.fail = some ⟨s.cyc, Ev.hostAbort, s.srcGroom⟩)) ∧
     (∀ x, s.safe.abort = some x → s.shot.begun = true →
       ∃ t, exec .shotAbort s = .next t ∧ x ≤ t.cyc ∧ t.shot.gone = some x ∧ t.safe.abort = none ∧
         (∀ b < 8, (t.barn b).state ≠ .running ∧ (t.barn b).sel = none) ∧ t.hbm = s.hbm))

/-- R455, R473, R474, R476: a stall loses a strike after 65,536 quiet shots; a host's fence request is kept for the next closing margin in
RUN and made at once otherwise: the stall is in the fence list, carries no logical stall, and E_STALL_FENCED is entered.

R215, R474: the end of a move's copy gives the spare the recorded banks, active bank and pending switch. -/
def Obligations.StrikesAndFences : Prop :=
  (∀ s : State,
     (∀ i : StallId, 65536 ≤ (s.stall i.val).aud.quiet →
       ∃ t, exec (.strikeDecay i) s = .next t ∧ (t.stall i.val).aud.strikes = (s.stall i.val).aud.strikes - 1 ∧
         (t.stall i.val).aud.quiet = (s.stall i.val).aud.quiet - 65536 ∧ (∀ j, j ≠ i.val → t.stall j = s.stall j) ∧ t.log = s.log) ∧
     (∀ v : Word, let i := natBits v.toNat 9 7 * 80 + natBits v.toNat 6 0
       s.awake = true → natBit v.toNat 31 = true → natBits v.toNat 6 0 < 80 → i ∉ s.safe.fenced → s.fencesOpen = true →
       (s.boot.mode = .run → i ∉ s.safe.requests →
         ∃ t, exec (.safeFenceReqGo v) s = .next t ∧ t.safe = { s.safe with requests := s.safe.requests ++ [i] } ∧
           t.stalls = s.stalls ∧ t.log = s.log) ∧
       (s.boot.mode ≠ .run →
         ∃ t, exec (.safeFenceReqGo v) s = .next t ∧ t.safe.fenced = s.safe.fenced ++ [i] ∧ (t.stall i).fenced = true ∧
           (t.stall i).logical = none ∧ t.hbm = s.hbm ∧ (Ev.stallFenced, srcStall i) ∈ t.log.held.map fun e => (e.code, e.src)))) ∧
  (∀ (s : State) (l : Fin 576) (m : StallMove) (im : Image), s.clocked = true → s.boot.image = some im →
     (s.safe.moves.find? fun m => decide (m.logical = l.val) && m.started && !m.copied) = some m →
     ∃ t, exec (.moveCopyDone l) s = .next t ∧
       (t.stall m.spare).tack.active = m.active ∧ (t.stall m.spare).tack.pending = (m.pending || (s.stall m.spare).tack.pending) ∧
       (t.stall m.spare).tack.bank0 = (((s.stall m.spare).tack.rebuild im false m.tag0 l.val).rebuild im true m.tag1 l.val).bank0 ∧
       (t.stall m.spare).tack.bank1 = (((s.stall m.spare).tack.rebuild im false m.tag0 l.val).rebuild im true m.tag1 l.val).bank1 ∧
       (t.stall m.spare).spd = (s.stall m.spare).spd ∧
       (∀ j, j ≠ m.spare → t.stall j = s.stall j ∨
         ((∃ k ∈ s.safe.moves, k.spare = j) ∧ t.stall j = { s.stall j with tack := (s.stall j).tack.opened })) ∧
       (∀ k ∈ t.safe.moves, k.logical = l.val → k.copied = true) ∧ t.safe.fenced = s.safe.fenced ∧ t.hbm = s.hbm ∧ t.log = s.log)

/-! ### Barriers, training, securing, refresh (07, 09 to 11) -/

/-- R219 to R221: an occurrence of a barrier entry whose members have all arrived releases them 12 or 96 cycles after the last arrival, by
its computed cycle; one that has not released by that cycle fails the shot in its barns.

R326, R328, R329: the release of a commit barrier of a module in a larger paddock: with no result of the exchange the step is not
committed and the module diverges; with a veto it is not committed; otherwise the commit is counted. -/
def Obligations.BarrierOccurrences : Prop :=
  (∀ (s : State) (id : BitVec 8) (b : Barrier), s.clocked = true → s.running = true →
     (s.plan.bind fun p => p.bars.find? fun b => b.id = id.toNat) = some b → s.releasedOf b.id < b.releases.length →
     let k := s.releasedOf b.id
     let due := s.shot.begin_ + b.releases.getD k 0
     (let ps := b.members.map s.phys
       let l := ps.filterMap fun p => p
       let x := l.foldl (fun x i => max x (s.stall i).seq.arrCycle) 0 + (if b.module then 96 else 12);
       (ps.all fun p => match p with | some i => (s.stall i).arrivedAt b.id k | none => false) = true → x ≤ due → b.commit = false →
       ∃ t, exec (.barrierRelease id) s = .next t ∧ x ≤ t.cyc ∧ t.shot = { s.shot with bars := s.shot.bars ++ [⟨b.id, k, some x, false⟩] } ∧
         (∀ i ∈ l, (t.stall i).seq = { (s.stall i).seq with waiting := none, ref := x }) ∧ (∀ i, i ∉ l → t.stall i = s.stall i) ∧
         t.log = s.log ∧ t.hbm = s.hbm ∧ t.barns = s.barns) ∧
     ((∀ i ∈ s.shot.bars, i.id = b.id → i.k = k → i.late = false) → s.shot.gone = none → s.safe.abort = none → s.shot.halt = none →
       ∃ t, exec (.barrierLate id) s = .next t ∧ due ≤ t.cyc ∧ (⟨b.id, k, none, true⟩ : BarInst) ∈ t.shot.bars ∧
         (∀ n ∈ b.barns, natBit (t.reg (barnReg A.ymBarStatus n)) 31 = true) ∧ t.stalls = s.stalls ∧ t.hbm = s.hbm ∧
         (b.barns ≠ [] → s.shot.margin = false → due ≤ s.marginAt → t.shot.fail ≠ none))) ∧
  (∀ (s : State) (id : BitVec 8) (b : Barrier), s.clocked = true → s.running = true → s.fabric.size ≠ 1 →
     (s.plan.bind fun p => p.bars.find? fun b => b.id = id.toNat) = some b → s.releasedOf b.id < b.releases.length → b.commit = true →
     ((b.members.map s.phys).all fun p => match p with | some i => (s.stall i).arrivedAt b.id (s.releasedOf b.id) | none => false) = true →
     (s.train.result = none →
       ∃ t, exec (.barrierRelease id) s = .next t ∧ t.train.diverged = true ∧ t.train.commits = s.train.commits ∧ t.hbm = s.hbm ∧
         (Ev.commitVoteLost, s.srcGroom) ∈ t.log.held.map fun e => (e.code, e.src)) ∧
     (∀ r, s.train.result = some r →
       ∃ t, exec (.barrierRelease id) s = .next t ∧ t.train.mark = ⟨s.shot.step, false, false⟩ ∧ t.train.diverged = s.train.diverged ∧
         (natBit (leAt r 512 1) 0 = true → t.train.commits = s.train.commits ∧ t.hbm = s.hbm ∧ t.train.passes = s.train.passes) ∧
         (natBit (leAt r 512 1) 0 = false → t.train.commits = s.train.commits + 1)))

/-- R321 to R325: a group's window updates its planes A and B and its journal, and the pass goes on with the next group 32 cycles later;
where the two datapaths disagree the passes of the stack stop, and the module diverges.

R320, R332, R392: a freeze request is kept, or refused while one is pending; a sweep whose commit is made begins when no pass is
outstanding; each frame of it goes on, and the last completes its entry. -/
def Obligations.UpdateWindows : Prop :=
  (∀ (s : State) (j : StackId) (u : UpdPass) (x : Nat) (r : UpdRecord), s.clocked = true → s.nextPass j.val = some (u, x) →
     s.records[u.record]? = some r →
     let m := s.at_ (x + 1024)
     let pa := m.readMem (m.addrA r u.next) 2112 x
     let pb := pa.1.readMem (pa.1.addrB r u.next) 10240 x
     let pg := pb.1.readMem (pb.1.addrG r u.width u.next) (carrierGroupBytes u.width) x
     let w := pg.1
     (pa.2.2.1.any id = false → pb.2.2.1.any id = false → pg.2.2.1.any id = false → s.host.sweep = none → s.ckpt.cur = none →
       let n := updateGroup (ratesAt (w.groupRecord r.pgroup) 16) u.width pa.2.1 pb.2.1 pg.2.1
       ∃ t, exec (.updateWindow j true) s = .next t ∧ x + 1024 ≤ t.cyc ∧
         t.hbm = (((w.writeMem (w.addrA r u.next) w.cyc n.a false).writeMem (w.addrB r u.next) w.cyc n.b false).writeMem
           (w.addrJ u.record w.train.commits u.next) w.cyc n.journal false).hbm ∧
         (∀ v ∈ t.train.passes, v.record = u.record → v.next = u.next + 1 ∧ v.at_ = x + 32) ∧ t.train.diverged = s.train.diverged) ∧
     (∃ t, exec (.updateWindow j false) s = .next t ∧ t.train.diverged = true ∧ (∀ v ∈ t.train.passes, v.stack ≠ j.val) ∧
       t.ckpt.due = none ∧ (Ev.updAbandoned, srcStack j.val) ∈ t.log.held.map fun e => (e.code, e.src))) ∧
  (∀ s : State,
     (∀ v : Word, s.awake = true → natBit v.toNat 31 = true →
       (s.train.freeze = none →
         ∃ t, exec (.updFreezeGo v) s = .next t ∧ t.train = { s.train with freeze := some (natBits v.toNat 11 0, natBit v.toNat 30) } ∧
           natBit (t.reg A.updFreeze) 29 = false ∧ t.hbm = s.hbm ∧ t.log = s.log) ∧
       (s.train.freeze ≠ none →
         ∃ t, exec (.updFreezeGo v) s = .next t ∧ t.train = s.train ∧ natBit (t.reg A.updFreeze) 29 = true ∧ t.hbm = s.hbm)) ∧
     (∀ w, s.clocked = true → s.host.sweep = some w →
       (w.armed = true → w.running = false → s.train.passes = [] →
         ∃ t w', exec .sweepStart s = .next t ∧ t.host.sweep = some w' ∧ w'.running = true ∧ w'.next = 0 ∧
           w'.total = s.groupsBefore s.records.length ∧ w'.entry = w.entry ∧ t.reg A.updSnap = 2 ^ 31 ∧ t.hbm = s.hbm) ∧
       (w.running = true → (if w.port < 10 then 0 else 1) ∉ s.host.snapBad →
         let size := 12352 * w.total
         let fin := 1792 * w.next + min 1792 (size - 1792 * w.next)
         ∃ t, exec .snapshotSend s = .next t ∧ t.hbm = s.hbm ∧
           (fin < size → t.host.sweep = some { w with next := w.next + 1 }) ∧
           (size ≤ fin → t.host.sweep = none ∧ ∃ c, t.host.comps = s.host.comps ++ [c] ∧ c.ring = w.entry.ring ∧ leAt c.body 0 2 = 0))))

/-- R347, R349, R351: what happens at the destinations of a securing point, and the host's report of failures. -/
def Obligations.SecuringPoints : Prop :=
  ∀ (s : State) (p : Point) (c : CkptPolicy) (d : Fin 4), s.ckpt.cur = some p → s.policy = some c → s.awake = true → d.val ∈ c.active →
    d.val ∉ p.durableAt → d.val ∉ p.failedAt →
    (∀ e, c.dests[d.val]? = some e → s.canShip p e d.val = true → (s.shipment p).2.2 = true →
      ∃ t, exec (.pointDurable d) s = .next t ∧ t.ckpt.cur = none ∧ t.ckpt.done = s.ckpt.done ∧ natBit (t.reg A.ckpErr) 30 = true ∧
        t.hbm = s.hbm) ∧
    (∀ e, c.dests[d.val]? = some e → s.canShip p e d.val = true → (s.shipment p).2.2 = false →
    (p.durableAt = [] →
      ∃ t q, exec (.pointDurable d) s = .next t ∧ t.ckpt.done.head? = some q ∧ q.step = p.step ∧ q.durableAt = [d.val] ∧
        (∀ r ∈ c.active, r ≠ d.val → r ∉ p.failedAt → t.ckpt.cur ≠ none) ∧ t.hbm = s.hbm ∧ t.stalls = s.stalls) ∧
    (p.durableAt ≠ [] →
      ∃ t, exec (.pointDurable d) s = .next t ∧ t.ckpt.done = s.ckpt.done ∧ t.ckpt.costs = s.ckpt.costs ∧
        ∀ q, t.ckpt.cur = some q → q = { p with durableAt := p.durableAt ++ [d.val] })) ∧
    (∃ t, exec (.destTimeout d) s = .next t ∧ natBit (t.reg A.ckpErr) 31 = true ∧ t.ckpt.done = s.ckpt.done ∧
      (∀ q, t.ckpt.cur = some q → q = { p with failedAt := p.failedAt ++ [d.val] }) ∧
      t.log.held.map (fun e => (e.code, e.src)) = s.log.held.map (fun e => (e.code, e.src)) ++ [(Ev.ckpDestFail, s.srcGroom)])

/-- R338, R353 to R356: failure reports, the start and the end of a restore. -/
def Obligations.RestoresAndReports : Prop :=
  ∀ s : State,
    (∀ v : Word, s.awake = true →
      ∃ t, exec (.ckpFailReport v) s = .next t ∧
        t.ckpt.fails = List.replicate (natBits v.toNat 7 0) s.now ++ s.ckpt.fails ∧ t.stalls = s.stalls ∧ t.hbm = s.hbm) ∧
    (∀ (v : Word) (src : RestoreSource), s.awake = true → natBit v.toNat 31 = true → s.ckpt.restore = none →
      (∀ p, s.boot.image.isSome = true → s.busyRun = false → pointOf src (s.wide A.ckpRestoreLo A.ckpRestoreHi) = some p →
        stDigest p = s.confDigest → stPosition p = s.position →
        ∃ t, exec (.ckpRestoreGo v src) s = .next t ∧ t.ckpt.cur = none ∧ t.ckpt.due = none ∧ t.hbm = s.hbm ∧
          t.ckpt.restore = some ⟨s.wide A.ckpRestoreLo A.ckpRestoreHi, natBits v.toNat 1 0⟩) ∧
      (∀ k, (s.boot.image = none ∨ s.busyRun = true) ∧ k = 6 ∨
          s.boot.image.isSome = true ∧ s.busyRun = false ∧ (pointOf src (s.wide A.ckpRestoreLo A.ckpRestoreHi) = none ∧ k = 1 ∨
            ∃ p, pointOf src (s.wide A.ckpRestoreLo A.ckpRestoreHi) = some p ∧
              (stDigest p ≠ s.confDigest ∧ k = 2 ∨ stDigest p = s.confDigest ∧ stPosition p ≠ s.position ∧ k = 3)) →
        ∃ t, exec (.ckpRestoreGo v src) s = .next t ∧ t.ckpt = s.ckpt ∧ natBits (t.reg A.ckpRestoreCtrl) 27 24 = k ∧
          natBit (t.reg A.ckpRestoreCtrl) 28 = true ∧ natBit (t.reg A.ckpErr) 28 = true ∧ t.hbm = s.hbm)) ∧
    (∀ r, s.ckpt.restore = some r → s.clocked = true →
      (∀ src, ∃ t, exec (.restoreEnd (.completed src)) s = .next t ∧ t.ckpt.restore = none ∧ t.train.diverged = false ∧
        natBit (t.reg A.ckpRestoreCtrl) 29 = true ∧ ∃ p, t.ckpt.done.head? = some p ∧ p.step = r.step) ∧
      (∀ src, ∃ t, exec (.restoreEnd (.readError src)) s = .next t ∧ t.ckpt.restore = none ∧ t.train.diverged = s.train.diverged ∧
        natBits (t.reg A.ckpRestoreCtrl) 27 24 = 4 ∧ natBit (t.reg A.ckpRestoreCtrl) 28 = true) ∧
      (∀ src, ∃ t, exec (.restoreEnd (.disagree src)) s = .next t ∧ t.ckpt.restore = none ∧
        natBits (t.reg A.ckpRestoreCtrl) 27 24 = 5 ∧ natBit (t.reg A.ckpRestoreCtrl) 28 = true))

/-- R293, R295, R342, R358: refreshes of a quarter in its slot and of a pseudo-channel on its own timer; repair of a tensor. -/
def Obligations.RefreshAndRepair : Prop :=
  ∀ (s : State) (j : StackId), s.clocked = true →
    (∀ (q : Fin 4) x, s.running = true → (s.stack j.val).failed = false → s.nextSlot j.val q.val = some x →
      ∃ t, exec (.refreshSlot j q) s = .next t ∧ x ≤ t.cyc ∧ t.stalls = s.stalls ∧
        ∀ k < 16, sget zeroNat (t.stack j.val).lastRef (16 * q.val + k) = x + 1 ∧
          sget zeroNat (t.stack j.val).refreshes (16 * q.val + k) = sget zeroNat (s.stack j.val).refreshes (16 * q.val + k) + 1) ∧
    (∀ pc : Fin 64, s.running = false → (s.stack j.val).failed = false →
      ∃ t, exec (.ownTimerRefresh j pc) s = .next t ∧ s.ownDue j.val pc.val ≤ t.cyc ∧ t.stalls = s.stalls ∧
        sget zeroNat (t.stack j.val).lastRef pc.val = s.ownDue j.val pc.val + 1 ∧
        sget zeroNat (t.stack j.val).refreshes pc.val = sget zeroNat (s.stack j.val).refreshes pc.val + 1 ∧
        ∀ k, k ≠ pc.val → sget zeroNat (t.stack j.val).lastRef k = sget zeroNat (s.stack j.val).lastRef k) ∧
    (∀ a : BitVec 36, let l := (s.recordsAt j.val a.toNat).filter fun k => !s.ckpt.repairs.contains k;
      l ≠ [] → (s.decodeUnit j.val a.toNat).2 = .lost →
      ((l.all fun k => match s.tensorOf k with | some t => s.journalled t | none => false) = true →
        exec (.tensorRepair j a) s = .next { s with ckpt := { s.ckpt with repairs := s.ckpt.repairs ++ l } }) ∧
      ((l.all fun k => match s.tensorOf k with | some t => s.journalled t | none => false) = false →
        ∃ t, exec (.tensorRepair j a) s = .next t ∧ t.ckpt = s.ckpt ∧ natBit (t.reg A.ckpErr) 27 = true ∧ t.hbm = s.hbm)) ∧
    (∀ k src, k ∈ s.ckpt.repairs →
      (∃ t, exec (.tensorRepairDone k src true) s = .next t ∧ t.ckpt.repairs = s.ckpt.repairs.erase k ∧ t.stalls = s.stalls) ∧
      (∃ t, exec (.tensorRepairDone k src false) s = .next t ∧ t.ckpt.repairs = s.ckpt.repairs.erase k ∧ t.hbm = s.hbm ∧
        natBit (t.reg A.ckpErr) 27 = true))

/-! ### The fabric (12) -/

/-- R366, R375: a frame of a send record is injected at its cycle, with the bytes it reads then and the next link sequence number; a held
frame goes on in its slot, or is discarded where the slot had begun when it came.

R366: a well-formed command that brings a frame brings one of at most 1,792 bytes of payload, of the length it states. -/
def Obligations.ScheduledSends : Prop :=
  (∀ s : State,
     (∀ (number : BitVec 16) (k : Nat) (r : Transfer) (h : Hop) (l : List Hop), s.clocked = true → s.running = true →
       (number.toNat, k) ∉ s.fab.injected → (s.transfers.find? fun t => !t.recv && decide (t.number = number.toNat)) = some r → r.kind ≠ 2 →
       28 * k < s.linesOf r → s.fabric.route s.caseNow s.fabric.me (s.fabric.physOf s.caseNow r.peer) = h :: l → h.1 < 4 →
       s.portScheduled (hopPort r.ge h) = true →
       let p := hopPort r.ge h
       let x := s.shot.begin_ + (r.c + 35 * k)
       let m := ({ s with fab := { s.fab with injected := s.fab.injected ++ [(number.toNat, k)] } } : State).at_ x
       let rd := m.readMem (r.source + 1792 * k) (frameBytes (s.linesOf r) k) x
       rd.2.2.1.any id = false →
       ∃ t q, exec (.frameInject number k) s = .next t ∧ x ≤ t.cyc ∧ (t.port p).replay = (s.port p).replay ++ [q] ∧
         (t.port p).seqNo = ((s.port p).seqNo + 1) % 65536 ∧ q.f.lseq = (s.port p).seqNo ∧ q.f.payload = rd.2.1 ∧
         q.f.kind = r.kind ∧ q.f.number = r.number ∧ q.f.whenC = r.c + 35 * k ∧ q.f.whenS = s.shotNo % 8 ∧ q.f.sched = true ∧
         (number.toNat, k) ∈ t.fab.injected ∧ t.hbm = s.hbm ∧ t.stalls = s.stalls) ∧
     (∀ (p : PortId) (lseq : BitVec 16) (h : Held),
       (s.fab.held.find? fun h => decide (h.port = p.val ∧ h.f.lseq = lseq.toNat ∧ h.f.dst ≠ s.myId)) = some h →
       (h.due < h.arr → ∃ t, exec (.frameForward p lseq) s = .next t ∧ t.fab = { s.fab with held := s.fab.held.erase h } ∧ t.out = s.out ∧
         t.log = s.log ∧ t.hbm = s.hbm) ∧
       (∀ g l, h.arr ≤ h.due → s.fabric.route s.caseNow s.fabric.me (h.f.dst % 8192) = g :: l → g.1 < 4 →
         s.portScheduled (hopPort (10 ≤ p.val) g) = true →
         ∃ t q, exec (.frameForward p lseq) s = .next t ∧ h.due ≤ t.cyc ∧ t.fab.held = s.fab.held.erase h ∧
           (t.port (hopPort (10 ≤ p.val) g)).replay = (s.port (hopPort (10 ≤ p.val) g)).replay ++ [q] ∧
           q.f = { h.f with lseq := (s.port (hopPort (10 ≤ p.val) g)).seqNo } ∧ t.hbm = s.hbm ∧ t.stalls = s.stalls))) ∧
  (∀ i : Instr, Laws.Payload.Statement i)

/-- R368, R370, R388: an unacknowledged frame is resent; an unscheduled one on a link at most seven times, after which the link goes down; a
message at most three times, after which it fails. -/
def Obligations.Resends : Prop :=
  ∀ s : State, s.awake = true →
    (∀ (p : PortId) (lseq : BitVec 16) (r : Replay), ((s.port p.val).replay.find? fun r => r.f.lseq = lseq.toNat) = some r →
      let m := s.at_ (r.slot + 434)
      (r.f.sched = true ∨ r.resends < 7 →
        ∃ t, exec (.linkAckTimeout p lseq) s = .next t ∧ r.slot + 434 ≤ t.cyc ∧
          (⟨r.f, m.resendSlot p.val, r.resends + 1⟩ : Replay) ∈ (t.port p.val).replay ∧ (t.port p.val).up = (s.port p.val).up ∧
          t.hbm = s.hbm ∧ t.stalls = s.stalls) ∧
      (r.f.sched = false → 7 ≤ r.resends → (s.port p.val).up = true →
        ∃ t, exec (.linkAckTimeout p lseq) s = .next t ∧ (t.port p.val).up = false ∧ (t.port p.val).replay = [] ∧
          (Ev.linkDown, srcPort p.val) ∈ t.log.held.map fun e => (e.code, e.src))) ∧
    (∀ (number : BitVec 16) (m : Message), (s.fab.msgs.find? fun m => m.f.number = number.toNat) = some m →
      (m.resends < 3 → ∃ t m', exec (.unscheduledResend number) s = .next t ∧ m.sentAt + 17500 ≤ t.cyc ∧ m' ∈ t.fab.msgs ∧ m'.f = m.f ∧
        m'.resends = m.resends + 1 ∧ m'.sentAt = max s.cyc (m.sentAt + 17500) ∧ t.hbm = s.hbm) ∧
      (3 ≤ m.resends → ∃ t, exec (.unscheduledResend number) s = .next t ∧ t.hbm = s.hbm ∧
        ∀ q ∈ t.fab.msgs, q.f.number = m.f.number → q.f.dst ≠ m.f.dst))

/-- R376, R383, R384, R388, R389: what a frame for the module does once its port has taken it. -/
def Obligations.FramesTaken : Prop :=
  ∀ (s w : State) (p : PortId) (f : Frame), s.takeFrame p.val f = (w, true) → f.dst = w.myId →
    (∀ c : Instr, (f.kind = 0 ∧ c = .writeFrame p f ∨ f.kind = 1 ∧ c = .csumFrame p f) →
      (w.windowTakes f = false → ∃ t, exec c s = .next t ∧ t.hbm = w.hbm ∧ t.stalls = w.stalls ∧ t.fab.held = w.fab.held) ∧
      (∀ r, w.windowTakes f = true → w.windowFits f f.length = true → w.windowRec f.window = some r → f.sched = false → r.target = 0 →
        ∃ t, exec c s = .next t ∧ t.hbm = (w.writeMem (r.base + f.offset) w.cyc f.payload false).hbm ∧ t.stalls = w.stalls ∧
          t.fab.held = w.fab.held) ∧
      (∀ r k, w.windowTakes f = true → w.windowFits f f.length = true → f.sched = true → w.matchRecord f = some (r, k) →
        ∃ t, exec c s = .next t ∧ t.hbm = w.hbm ∧
          t.fab.held = w.fab.held ++ [⟨p.val, f, w.cyc, w.shot.begin_ + f.whenC + 350 + 875 * r.h⟩])) ∧
    (f.kind = 5 → exec (.ackFrame p f) s =
      .next { w with fab := { w.fab with msgs := w.fab.msgs.filter fun m => !(m.f.number = f.number && m.f.dst = f.src) } }) ∧
    (f.kind = 6 → leAt f.payload 0 2 = Ev.windowClosed → f.sched = false →
      ∃ t, exec (.nackFrame p f) s = .next t ∧ natBit (t.reg A.fabErr) 31 = true ∧ t.hbm = w.hbm ∧ t.stalls = w.stalls ∧
        (∀ m, (w.fab.msgs.find? fun m => decide (m.f.number = f.number ∧ m.f.dst = f.src)) = some m →
          ∀ q ∈ t.fab.msgs, q.f.number = f.number → q.f.dst ≠ f.src) ∧
        (Ev.windowClosed, srcPort p.val) ∈ t.log.held.map fun e => (e.code, e.src)) ∧
    (12 ≤ f.kind → ∃ t, exec (.unknownFrame p f) s = .next t ∧ t.fab = w.fab ∧ t.hbm = w.hbm ∧ t.stalls = w.stalls ∧
      t.log.held.map (fun e => (e.code, e.src)) = w.log.held.map (fun e => (e.code, e.src)) ++ [(Ev.frameDiscard, srcPort p.val)]) ∧
    (∀ r q, f.kind = 3 → w.windowTakes f = true → w.windowFits f f.sigma = true → w.windowRec f.window = some r → r.target = 0 →
      0 < f.sigma → f.sigma ≤ 1792 → w.portTo f.src f.number = some q → (w.port q).up = true → isTorus q = false →
      let rd := w.readMem (r.base + f.offset) f.sigma w.cyc
      rd.2.2.1.any id = false →
      ∃ t g, exec (.readReq p f) s = .next t ∧ t.hbm = w.hbm ∧ t.stalls = w.stalls ∧ t.out = w.out ++ [.frame q g] ∧ g.kind = 4 ∧
        g.payload = rd.2.1.take 1792 ∧ g.dst = f.src ∧ g.number = f.number) ∧
    (∀ r, f.kind = 4 → (w.far.reads.find? fun r => decide (r.kind = 3 ∧ r.tagNo % 65536 = f.number ∧ r.ident = f.src)) = some r →
      r.got = [] → f.offset = r.addr → f.payload.length = r.len →
      ∃ t, exec (.readResp p f) s = .next t ∧ t.hbm = w.hbm ∧ (∀ q ∈ t.far.reads, q.tagNo ≠ r.tagNo) ∧
        ∀ g ∈ (t.stall r.stall).str.flying, g.id = r.id → w.cyc ≤ g.fin → g.data = some f.payload)

/-- R376, R385, R387: a scheduled write lands at its cycle, or the shot fails; an exchange frame is combined once for its step; the result is
written at its landing cycle. -/
def Obligations.LandingAndExchange : Prop :=
  ∀ s : State, s.clocked = true → s.running = true →
    (∀ (number : BitVec 16) (k : Nat) (r : Transfer),
      (s.transfers.find? fun t => t.recv && decide (t.number = number.toNat ∧ 28 * k < s.linesOf t) &&
        !s.fab.landed.contains (t.peer, t.number, k)) = some r →
      let due := s.shot.begin_ + r.c + 35 * k + 350 + 875 * r.h
      let here := s.fab.held.filter fun h => decide (h.due = due ∧ h.arr ≤ due ∧ h.f.dst = s.myId)
      (∀ h wr, here = [h] → s.matchRecord h.f = some (r, k) → s.windowRec h.f.window = some wr → r.kind = 0 → wr.target = 0 →
        ∃ t, exec (.frameLanding number k) s = .next t ∧ due ≤ t.cyc ∧
          t.hbm = ((s.at_ due).writeMem (wr.base + h.f.offset) h.due h.f.payload false).hbm ∧
          t.fab.landed = s.fab.landed ++ [(r.peer, r.number, k)] ∧ t.fab.held = s.fab.held.erase h ∧ t.stalls = s.stalls) ∧
      (here = [] →
        ∃ t, exec (.frameLanding number k) s = .next t ∧ due ≤ t.cyc ∧ t.hbm = s.hbm ∧ t.stalls = s.stalls ∧
          t.fab.landed = s.fab.landed ++ [(r.peer, r.number, k)] ∧
          (s.shot.margin = false → s.shot.fail = none → due ≤ s.marginAt →
            t.shot.fail = some ⟨due, Ev.lateLanding, srcPort (if r.ge then 10 else 0)⟩))) ∧
    (∀ (number : BitVec 16) (r : Transfer) (e : Exch), (8192, number.toNat, 0) ∉ s.fab.landed →
      (s.transfers.find? fun t => !t.recv && decide (t.kind = 2 ∧ t.number = number.toNat)) = some r → (accLines r + 27) / 28 = 1 →
      s.exch r.number 0 = some e →
      let due := s.shot.begin_ + r.c + 350 + 875 * s.fabric.steps.length
      let whole := (List.range s.fabric.steps.length).all fun j => e.steps.contains j
      ∃ t, exec (.exchangeResultWrite number) s = .next t ∧ due ≤ t.cyc ∧ (8192, r.number, 0) ∈ t.fab.landed ∧
        (whole = true → t.hbm = ((s.at_ due).writeMem r.place due e.acc false).hbm ∧
          (s.isCommitExch r = true → t.train.result = some e.acc)) ∧
        (whole = false → t.hbm = s.hbm ∧ t.train = s.train)) ∧
    (∀ (w : State) (p : PortId) (f : Frame) (r : Transfer) (e : Exch), s.takeFrame p.val f = (w, true) → f.dst = w.myId → f.kind = 2 →
      (w.transfers.find? fun t => !t.recv && decide (t.kind = 2 ∧ t.number = f.number)) = some r → w.exch r.number (f.offset / 1792) = some e →
      let k := f.offset / 1792
      let c := r.c + 35 * k
      let j := (w.shotCycle w.cyc - firstSlot c) / 875
      f.whenC = c → f.hops = r.h → f.whenS = w.shotNo % 8 → 28 * k < accLines r → firstSlot c ≤ w.shotCycle w.cyc →
      some (portHop p.val) = (w.fabric.steps[j]?.map fun d => (d, false)) →
      ∃ t, exec (.exchFrame p f) s = .next t ∧ t.hbm = w.hbm ∧ t.stalls = w.stalls ∧
        t.exch r.number k = some (if e.steps.contains j then e
          else { e with acc := combine r.op e.acc (bytesAt f.payload 0 e.acc.length), steps := e.steps ++ [j] }))

/-- R364, R370, R381, R382, R390, R398, R503: links, windows, bindings, fault injection, outer ports, cables. -/
def Obligations.PortsWindowsBindings : Prop :=
  ∀ s : State, s.awake = true →
    (∀ (p : PortId) (m : BitVec 16) (q : BitVec 5), (s.port p.val).up = false → (s.port p.val).cable = true →
      (s.boot.image = none ∨ s.portMode p.val ≠ 0) →
      ∃ t, exec (.linkUp p m q) s = .next t ∧ (t.port p.val).up = true ∧ (t.port p.val).replay = [] ∧ (t.port p.val).seqNo = 0 ∧
        (t.port p.val).expect = 0 ∧ (isTorus p.val = true → (t.port p.val).peer = some (m.toNat, q.toNat)) ∧
        (∀ k, k ≠ p.val → t.port k = s.port k) ∧ (s.crossing cdcSerdes p.val = false → t.log = s.log) ∧ t.hbm = s.hbm) ∧
    (∀ p : PortId, (s.port p.val).up = true →
      ∃ t, exec (.linkDown p) s = .next t ∧ (t.port p.val).up = false ∧ (t.port p.val).training = true ∧ (t.port p.val).replay = [] ∧
        (t.port p.val).peer = none ∧ natBit (t.reg (portReg A.fabPortErr p.val)) 30 = true ∧ (∀ k, k ≠ p.val → t.port k = s.port k) ∧
        (s.crossing cdcSerdes p.val = false →
          t.log.held.map (fun e => (e.code, e.src)) = s.log.held.map (fun e => (e.code, e.src)) ++ [(Ev.linkDown, srcPort p.val)]) ∧
        (s.crossing cdcSerdes p.val = true → natBit (t.reg A.glbCdcStatus) cdcSerdes = true ∧
          (natBit (s.reg A.glbCdcStatus) cdcSerdes = false → t.log.held.map (fun e => (e.code, e.src)) =
            s.log.held.map (fun e => (e.code, e.src)) ++ [(Ev.cdcOverrun, s.srcGroom), (Ev.linkDown, srcPort p.val)]))) ∧
    (∀ (p : PortId) (f : Frame), (s.port p.val).up = true → isTorus p.val = true → f.good = true → f.mine = true → f.kind = 7 →
      f.etype = s.fabric.etype → leAt f.payload 0 1 = 0 →
      exec (.linkFrame p f) s = .next (s.setPort p.val { s.port p.val with
        replay := (s.port p.val).replay.filter fun r => decide ((r.f.lseq + 65536 - f.lseq) % 65536 < 32768) })) ∧
    (∀ v : Word, natBit v.toNat 31 = true → (s.windowRec (natBits v.toNat 7 0)).isSome = true →
      let n := natBits v.toNat 7 0
      ∃ t, exec (.fabWinCtrlGo v) s = .next t ∧ (∀ k, k ≠ n → t.window k = s.window k) ∧ t.hbm = s.hbm ∧ t.log = s.log ∧
        (s.running = true → t.window n = { s.window n with pend := some (natBit v.toNat 30) }) ∧
        (s.running = false → natBit v.toNat 30 = true →
          t.window n = ⟨true, if (s.window n).gen = 0xFFFF then 1 else (s.window n).gen + 1, none⟩) ∧
        (s.running = false → natBit v.toNat 30 = false → t.window n = ⟨false, (s.window n).gen, none⟩)) ∧
    (∀ v : Word, natBit v.toNat 31 = true → natBits v.toNat 25 16 < s.fabric.bindings.length →
      let n := natBits v.toNat 25 16
      ∃ t, exec (.fabBindCtrlGo v) s = .next t ∧ (∀ k, k ≠ n → t.binding k = s.binding k) ∧ t.hbm = s.hbm ∧ t.log = s.log ∧
        t.binding n = (if s.running then { s.binding n with pend := some (natBits v.toNat 15 0) }
          else { s.binding n with gen := natBits v.toNat 15 0 })) ∧
    (∀ (p : PortId) (v : Word) (im : Image), s.boot.image = some im →
      (p.val ∈ im.injPorts → ∃ t, exec (.fabInjCtrlWrite p v) s = .next t ∧ t.port p.val = { s.port p.val with sent := 0 } ∧
        natBits (t.reg (portReg A.fabInjCtrl p.val)) 18 16 = natBits v.toNat 18 16 ∧
        natBits (t.reg (portReg A.fabInjCtrl p.val)) 15 0 = natBits v.toNat 15 0) ∧
      (p.val ∉ im.injPorts → exec (.fabInjCtrlWrite p v) s = .next (s.setBit (portReg A.fabInjCtrl p.val) 31))) ∧
    (∀ (p : PortId) a, (s.port p.val).up = true →
      exec (.arpRequest p a) s = .next (if s.ownAddress p.val a true then s.emit (.arpReply p.val a p.val)
        else s.setBit (portReg A.fabPortErr p.val) 28) ∧
      exec (.neighborSolicitation p a) s = .next (if s.ownAddress p.val a false then s.emit (.neighborAdvert p.val a p.val)
        else s.setBit (portReg A.fabPortErr p.val) 28)) ∧
    (∀ (p : PortId) b, ∃ t, exec (.cablePresentChange p b) s = .next t ∧ t.port p.val = { s.port p.val with cable := b } ∧
      (∀ k, k ≠ p.val → t.port k = s.port k) ∧ (s.portMode p.val = 2 → t.out = s.out ++ [.pin (pinCable p.val) b]) ∧
      (s.portMode p.val ≠ 2 → t.out = s.out))

/-- R60, R66, R394 to R397: announcements over the torus and TICK_IN are checked and held; a synchronisation steps or steers time; peer delay
requests are answered. -/
def Obligations.TimeAndAnnouncements : Prop :=
  ∀ s : State, s.awake = true →
    (∀ w : BitVec 128, s.fabric.tickSource = 2 → s.boot.image.isSome = true →
      let n := bitsOf w 127 80
      let c := bitsOf w 79 16
      (bitsOf w 15 0 ≠ tickCrc n c → exec (.tickInWord w) s = .next (s.bump A.fabTick 29 16 1)) ∧
      let b := s.boundaryNo n
      (s.shot.nextNo ≤ n → n < s.shot.nextNo + 2 ^ 47 → b = n) ∧
      (∀ e, bitsOf w 15 0 = tickCrc n c → s.shot.epoch = some e → c = s.tickCount e b → s.shot.nextNo ≤ b →
        (∀ a ∈ s.shot.anns, a.shot ≠ b) →
        exec (.tickInWord w) s = .next { s with shot := { s.shot with
          anns := s.shot.anns ++ [⟨b, c⟩], missAt := none, noTicks := false } }) ∧
      (bitsOf w 15 0 = tickCrc n c → s.shot.epoch = none →
        ∃ t, exec (.tickInWord w) s = .next t ∧ t.shot.epoch = some ((c + 2 ^ 64 - n * s.period % 2 ^ 64) % 2 ^ 64))) ∧
    (∀ (p : PortId) (f : Frame) (w : State) (e : Nat), f.kind = 8 → s.fabric.tickSource = 1 → s.boot.image.isSome = true →
      s.takeFrame p.val f = (w, true) → leAt f.payload 14 4 = w.period → w.shot.epoch = some e →
      let b := w.boundaryNo (leAt f.payload 0 6)
      leAt f.payload 6 8 = w.tickCount e b → w.shot.nextNo ≤ b → (∀ a ∈ w.shot.anns, a.shot ≠ b) →
      ∃ t, exec (.tickFrame p f) s = .next t ∧ t.shot.anns = w.shot.anns ++ [⟨b, leAt f.payload 6 8⟩] ∧ t.shot.missAt = none ∧
        t.shot.noTicks = false ∧ t.stalls = w.stalls ∧ t.hbm = w.hbm) ∧
    (∀ o : Int, s.boot.image.isSome = true → s.fabric.tickSource ≠ 0 →
      (s.shot.begun = false → s.fab.synced = false →
        ∃ t, exec (.ptpSync o) s = .next t ∧ t.fab.synced = true ∧ t.fab.aligned = true ∧ t.fab.offset = o - 4000 * stepCounts o ∧
          t.off = (((s.off : Int) - stepCounts o) % (2 ^ 64 : Int)).toNat ∧ t.cyc = s.cyc) ∧
      (s.shot.begun = true → -4000 ≤ o → o ≤ 4000 →
        ∃ t, exec (.ptpSync o) s = .next t ∧ t.fab.offset = o ∧ t.fab.aligned = true ∧ t.off = s.off ∧ t.log = s.log) ∧
      (s.shot.begun = true → o < -4000 ∨ 4000 < o → s.fab.aligned = true → s.boot.mode = .run →
        ∃ t, exec (.ptpSync o) s = .next t ∧ t.fab.offset = o ∧ t.fab.aligned = false ∧ t.off = s.off ∧
          t.log.held.map (fun e => (e.code, e.src)) = s.log.held.map (fun e => (e.code, e.src)) ++ [(Ev.timeAlign, s.srcGroom)])) ∧
    (∀ p : PortId, (s.port p.val).up = true → isTorus p.val = true →
      exec (.pdelayReq p) s = .next ((s.emit (.ptp p.val 3)).emit (.ptp p.val 4))) ∧
    (s.boot.image.isSome = true → ∃ t l, exec .ptpMessageInterval s = .next t ∧ t = { s with out := s.out ++ l } ∧
      ∀ p < 20, (Out.ptp p 2 ∈ l ↔ isTorus p = true ∧ (s.port p).up = true))

/-! ### The host interface (13) -/

/-- R39, R40, R391, R411, R415: serving requests of outer ports and of the host: acceptance, refusal, input, delivery. -/
def Obligations.ServingRequests : Prop :=
  ∀ s : State,
    (∀ (p : PortId) (f : Frame) (w : State), f.kind = 9 → isTorus p.val = false → s.takeFrame p.val f = (w, true) →
      w.boot.image.isSome = true → (∀ q ∈ w.host.reqs, q.token ≠ f.sigma ∧ q.id ≠ w.host.reqNo) →
      (f.isLast = false → ∃ t q, exec (.requestFrame p f) s = .next t ∧ Aside w t ∧ t.out = w.out ∧ t.log = w.log ∧
        t.host.reqs = w.host.reqs ++ [q] ∧ q.accepted = false ∧ q.input = [(f.offset, f.payload)] ∧ q.token = f.sigma) ∧
      (f.isLast = true → f.offset = 0 →
        (w.hasClass f.window = false → ∃ t g, exec (.requestFrame p f) s = .next t ∧ Aside w t ∧ t.log = w.log ∧
          t.host.reqs = w.host.reqs ∧ t.out = w.out ++ [.frame p.val g] ∧ g.kind = 10 ∧ g.sigma = f.sigma ∧ g.flags = 6 ∧
          g.payload = leBytes 2 Ev.frameDiscard) ∧
        (w.hasClass f.window = true → w.acceptInto f.window w.now = none →
          ∃ t g, exec (.requestFrame p f) s = .next t ∧ Aside w t ∧ Logged w t [(Ev.sliceFull, srcPort p.val)] ∧
            t.host.reqs = w.host.reqs ∧ t.out = w.out ++ [.frame p.val g] ∧ g.kind = 10 ∧ g.sigma = f.sigma ∧ g.flags = 6 ∧
            g.payload = leBytes 2 Ev.sliceFull) ∧
        (∀ shot plan inst slot a, w.hasClass f.window = true → w.acceptInto f.window w.now = some (shot, plan, inst, slot) →
          w.areaOf f.window inst = some a → f.payload.length ≤ a.inSlot →
          ∃ t q, exec (.requestFrame p f) s = .next t ∧ t.stalls = w.stalls ∧ t.out = w.out ∧
            t.hbm = (w.writeMem (a.inBase + slot * a.inSlot) w.cyc f.payload false).hbm ∧ t.host.reqs = w.host.reqs ++ [q] ∧
            q.accepted = true ∧ (q.shot, q.plan, q.inst, q.slot) = (shot, plan, inst, slot) ∧ q.arrival = w.now))) ∧
    (∀ (r : RingId) (e : Entry), s.awake = true → s.headEntry r.val 2 = some e →
      let cls := leAt e.bytes 2 2
      let len := leAt e.bytes 32 4
      let cause := if s.stopped then 12 else if s.boot.image.isNone || s.releasing then 1 else if !s.hasClass cls then 8
        else if !s.serveFits cls len (leAt e.bytes 36 4) then 9 else 0
      (cause ≠ 0 → ∃ t, exec (.serve r) s = .next t ∧ Aside s t ∧ Completes s t e Ev.state cause ∧
        Logged s t [(Ev.state, s.srcGroom)] ∧ t.host.entries = s.host.entries.drop 1 ∧ t.host.reqs = s.host.reqs) ∧
      (cause = 0 → s.acceptInto cls e.count = none →
        ∃ t, exec (.serve r) s = .next t ∧ Aside s t ∧ Completes s t e Ev.sliceFull 0 ∧ Logged s t [(Ev.sliceFull, s.srcGroom)] ∧
          t.host.entries = s.host.entries.drop 1 ∧ t.host.reqs = s.host.reqs) ∧
      (∀ shot plan inst slot, cause = 0 → s.acceptInto cls e.count = some (shot, plan, inst, slot) →
        ∃ t q, exec (.serve r) s = .next t ∧ Aside s t ∧ t.log = s.log ∧ t.host.comps = s.host.comps ∧
          t.host.entries = s.host.entries.drop 1 ∧ t.host.reqs = s.host.reqs ++ [q] ∧ q.host = some e ∧ q.accepted = true ∧
          (q.shot, q.plan, q.inst, q.slot) = (shot, plan, inst, slot) ∧ q.size = some len ∧
          t.out = s.out ++ (if s.hostOk then [.hostRead (leAt e.bytes 24 8) len] else []))) ∧
    (∀ (id : Nat) (data : List Byte) (ok : Bool) (q : Request) (e : Entry), s.awake = true →
      (s.host.reqs.find? fun q => q.id = id && q.host.isSome && q.input.isEmpty) = some q → q.host = some e →
      (ok = false ∨ s.hostOk = false → ∃ t, exec (.serveInputCopy id data ok) s = .next t ∧ Aside s t ∧ Completes s t e Ev.hostDma 0 ∧
        Logged s t [(Ev.hostDma, srcGateLogic)] ∧ t.host.reqs = s.host.reqs.filter fun r => r.id ≠ id) ∧
      (∀ x, ok = true → s.hostOk = true → s.sliceStart q = some x → x < s.cyc →
        ∃ t, exec (.serveInputCopy id data ok) s = .next t ∧ Aside s t ∧ Completes s t e Ev.serveInputLate 0 ∧
          Logged s t [(Ev.serveInputLate, s.srcGroom)] ∧ t.host.reqs = s.host.reqs.filter fun r => r.id ≠ id) ∧
      (∀ x a, ok = true → s.hostOk = true → s.sliceStart q = some x → s.cyc ≤ x → s.areaOf q.cls q.inst = some a →
        ∃ t, exec (.serveInputCopy id data ok) s = .next t ∧ t.stalls = s.stalls ∧ t.host.comps = s.host.comps ∧
          t.hbm = (s.writeMem (a.inBase + q.slot * a.inSlot) s.cyc (bytesAt data 0 (q.size.getD 0)) false).hbm ∧
          t.host.reqs = s.host.reqs.map fun r => if r.id = id then { r with input := [(0, bytesAt data 0 (q.size.getD 0))] } else r)) ∧
    (∀ (id : Nat) (q : Request) (p : Plan) (sl : Slice) (a : ServeArea), s.clocked = true → s.running = true → s.shot.gone = none →
      s.shot.fail = none → (s.shotReqs.find? fun q => q.id = id) = some q → q.fail = none → s.shot.plan = some q.plan →
      s.plan = some p → p.slices[q.inst]? = some sl → s.areaOf q.cls q.inst = some a →
      let m := s.at_ (s.shot.begin_ + sl.delivery)
      let rd := m.readMem (a.outBase + q.slot * a.outSlot)
        (match q.host with | some e => min a.outSlot (leAt e.bytes 36 4) | none => a.outSlot) m.cyc
      (q.host = none → rd.2.2.1.any id = false → rd.2.1.length ≤ 1792 → (s.port q.port).up = true → isTorus q.port = false →
        ∃ t g, exec (.serveDelivery id) s = .next t ∧ m.cyc ≤ t.cyc ∧ t.hbm = s.hbm ∧ t.stalls = s.stalls ∧
          t.host.reqs = s.host.reqs.filter (fun r => r.id ≠ id) ∧ t.out = s.out ++ [.frame q.port g] ∧ g.kind = 10 ∧ g.sigma = q.token ∧
          g.payload = rd.2.1.take 1792) ∧
      (∀ e, q.host = some e → q.input ≠ [] → rd.2.2.1.any id = false → s.hostOk = true →
        ∃ t, exec (.serveDelivery id) s = .next t ∧ m.cyc ≤ t.cyc ∧ t.hbm = s.hbm ∧ t.stalls = s.stalls ∧
          t.host.reqs = s.host.reqs.filter (fun r => r.id ≠ id) ∧ t.out = s.out ++ [.hostWrite (leAt e.bytes 40 8) rd.2.1] ∧
          Completes s t e 0 0) ∧
      (∀ e, q.host = some e → q.input = [] →
        ∃ t, exec (.serveDelivery id) s = .next t ∧ m.cyc ≤ t.cyc ∧ Aside s t ∧ t.out = s.out ∧ Completes s t e Ev.serveInputLate 0 ∧
          Logged s t [(Ev.serveInputLate, s.srcGroom)]))

/-- R408, R409, R410, R411, R413: a ring is enabled, takes doorbells, fetches its entries in order, drains. -/
def Obligations.RingsAndDoorbells : Prop :=
  ∀ (s : State) (r : RingId), s.awake = true →
    let n := r.val
    let q := s.ring n
    let cfg := ringReg A.glbRingCfg n
    (∀ v : Word, natBit v.toNat 31 = true →
      (s.bit cfg 31 = false → ∃ t, exec (.ringEnable r v) s = .next t ∧ Aside s t ∧ t.bit cfg 31 = true ∧
        t.ring n = ⟨s.reg (ringReg A.glbRingBaseLo n) + 2 ^ 32 * s.reg (ringReg A.glbRingBaseHi n),
          if 2 ≤ natBits v.toNat 3 0 ∧ natBits v.toNat 3 0 ≤ 8 then natBits v.toNat 3 0 else 2, .enabled, 0, 0, 0, 0, 0, 0, q.pass + 1⟩ ∧
        ∀ k, k ≠ n → t.ring k = s.ring k) ∧
      (s.bit cfg 31 = true → ∃ t, exec (.ringEnable r v) s = .next t ∧ Aside s t ∧ t.host = s.host ∧
        t.field cfg 3 0 = s.field cfg 3 0)) ∧
    (∀ v : Word, natBit v.toNat 31 = false → s.bit cfg 31 = true →
      ∃ t, exec (.ringDisable r v) s = .next t ∧ Aside s t ∧ t.bit cfg 31 = false ∧
        t.ring n = { q with state := if q.outstanding = 0 then .disabled else .draining, cause := 0 } ∧
        ∀ k, k ≠ n → t.ring k = s.ring k) ∧
    (∀ v : Word, q.state = .enabled ∨ q.state = .error →
      let x := v.toNat % 65536
      let bad (t : State) : Prop := Aside s t ∧ t.ring n = { q with state := .error, cause := 1 } ∧ (∀ k, k ≠ n → t.ring k = s.ring k) ∧
        Logged s t [(Ev.ringDoorbell, srcGateLogic)]
      ((x + 65536 - q.fetched % 65536) % 65536 ≤ q.entries →
        exec (.dbSqTailWrite r v) s = .next (s.setRing n { q with tail := x })) ∧
      (q.entries < (x + 65536 - q.fetched % 65536) % 65536 → ∃ t, exec (.dbSqTailWrite r v) s = .next t ∧ bad t) ∧
      ((x + 65536 - q.head) % 65536 ≤ q.entries ∧ (q.written % 65536 + 65536 - x) % 65536 ≤ q.entries →
        exec (.dbCqHeadWrite r v) s = .next (s.setRing n { q with head := x })) ∧
      (q.entries < (x + 65536 - q.head) % 65536 ∨ q.entries < (q.written % 65536 + 65536 - x) % 65536 →
        ∃ t, exec (.dbCqHeadWrite r v) s = .next t ∧ bad t)) ∧
    (∀ (data : List Byte) (ok : Bool), s.hostOk = true → q.state = .enabled →
      (q.tail + 65536 - q.fetched % 65536) % 65536 ≠ 0 → (q.fetched % 65536 + 65536 - q.head) % 65536 < q.entries →
      let e : Entry := ⟨n, q.pass, q.fetched, bytesAt data 0 64, s.now⟩
      let o := s.out ++ [.hostRead (q.base + 64 * (q.fetched % q.entries)) 64]
      (ok = true → validEntry e.bytes = true → ∃ t, exec (.ringFetch r data ok) s = .next t ∧ Aside s t ∧ t.out = o ∧ t.log = s.log ∧
        t.host.entries = s.host.entries ++ [e] ∧
        t.ring n = { q with fetched := q.fetched + 1, outstanding := q.outstanding + 1 }) ∧
      (ok = true → validEntry e.bytes = false → ∃ t, exec (.ringFetch r data ok) s = .next t ∧ Aside s t ∧ t.out = o ∧
        t.host.entries = s.host.entries ∧ Completes s t e Ev.cmdInvalid 0 ∧ Logged s t [(Ev.cmdInvalid, s.srcGroom)] ∧
        t.ring n = { q with fetched := q.fetched + 1, outstanding := q.outstanding + 1 }) ∧
      (ok = false → ∃ t, exec (.ringFetch r data ok) s = .next t ∧ Aside s t ∧ t.out = o ∧ t.host.entries = s.host.entries ∧
        t.ring n = { q with state := .error, cause := 2 } ∧ Logged s t [(Ev.hostDma, srcGateLogic)]))

/-- R412, R414, R416, R417, R418: what becomes of the entry at the front: NOP completes, RUN joins the run queue, SNAPSHOT_SHIP starts a sweep;
in a state that forbids it, each of the two completes with E_STATE. -/
def Obligations.EntriesExecute : Prop :=
  ∀ (s : State) (r : RingId) (e : Entry), s.awake = true →
    (s.headEntry r.val 0 = some e → ∃ t, exec (.nopEntry r) s = .next t ∧ Aside s t ∧ Completes s t e 0 0 ∧ t.log = s.log ∧
      t.host.entries = s.host.entries.drop 1) ∧
    (s.headEntry r.val 1 = some e →
      let x := s.cycleOf e.count
      let c := s.runCause (e.run x) (s.firstOpen x)
      (c = 0 → ∃ t q, exec (.run r) s = .next t ∧ Aside s t ∧ t.log = s.log ∧ t.host.comps = s.host.comps ∧
        t.host.entries = s.host.entries.drop 1 ∧ t.host.runs = s.host.runs ++ [q] ∧ q.entry = e ∧ q.plan = leAt e.bytes 2 2 ∧
        q.count = leAt e.bytes 4 2 ∧ q.startShot = leAt e.bytes 8 6 ∧ q.step = leAt e.bytes 16 8 ∧ q.started = false ∧
        q.stepStart = natBit (leAt e.bytes 1 1) 1) ∧
      (c ≠ 0 → ∃ t, exec (.run r) s = .next t ∧ Aside s t ∧ Completes s t e Ev.state c ∧ Logged s t [(Ev.state, s.srcGroom)] ∧
        t.host.entries = s.host.entries.drop 1 ∧ t.host.runs = s.host.runs) ∧
      (s.boot.mode = .hold ∨ s.boot.mode = .fault → c = 12) ∧
      (s.boot.mode = .ready → s.boot.image = none → c = 1) ∧
      (∀ im, s.boot.mode = .run → s.boot.image = some im → s.boot.releasing = 0 → im.planNo (leAt e.bytes 2 2) = none → c = 7)) ∧
    (s.headEntry r.val 3 = some e →
      (s.snapCause = 0 → ∃ t w, exec (.snapshotShip r) s = .next t ∧ Aside s t ∧ t.log = s.log ∧ t.host.comps = s.host.comps ∧
        t.host.entries = s.host.entries.drop 1 ∧ t.host.sweep = some w ∧ w.entry = e ∧ w.port = leAt e.bytes 2 2 ∧
        w.udp = leAt e.bytes 4 2 ∧ w.number = leAt e.bytes 6 2 ∧ w.armed = false ∧ w.running = false) ∧
      (s.snapCause ≠ 0 → ∃ t, exec (.snapshotShip r) s = .next t ∧ Aside s t ∧ Completes s t e Ev.state s.snapCause ∧
        Logged s t [(Ev.state, s.srcGroom)] ∧ t.host.entries = s.host.entries.drop 1 ∧ t.host.sweep = s.host.sweep))

/-- R406, R407, R419 to R421, R433: completions are written behind their events; what waits is sent once requests are allowed; a message pending
at a vector is sent when its mask bit is cleared. -/
def Obligations.CompletionsAndMessages : Prop :=
  ∀ s : State,
    (∀ c, firstComp s.host.comps = some c →
      (s.compReady c = false → exec .completionWrite s = .next s) ∧
      (s.compReady c = true → s.hostOk = true → s.host.waiting = [] → (s.ring c.ring).pass = c.pass →
        let q := s.ring c.ring
        let a := q.base + 64 * q.entries + q.written % q.entries * 32
        ∃ t l, exec .completionWrite s = .next t ∧ Aside s t ∧ c.due ≤ t.cyc ∧ t.host.comps = s.host.comps.erase c ∧
          t.out = s.out ++ [.hostWrite a c.body, .hostWrite (a + 28)
            (leBytes 4 (c.seq % 2 ^ 31 + if q.written / q.entries % 2 = 0 then 2 ^ 31 else 0))] ++ l ∧
          (c.irq = false → l = []) ∧ (t.ring c.ring).written = q.written + 1 ∧ (t.ring c.ring).outstanding = q.outstanding - 1 ∧
          (∀ k, k ≠ c.ring → t.ring k = s.ring k)) ∧
      (s.compReady c = true → s.hostOk = false ∨ s.host.waiting ≠ [] →
        ∃ t, exec .completionWrite s = .next t ∧ Aside s t ∧ t.out = s.out ∧ t.host.comps = s.host.comps.erase c ∧
          t.host.waiting = s.host.waiting ++ [.comp c])) ∧
    (s.awake = true →
      (∃ t, exec .hostRequestsAllowed s = .next t ∧ Aside s t ∧ t.hostOk = true ∧ t.host.waiting = [] ∧
        (s.host.fmask = false → ∀ vs : List Nat, s.host.waiting = vs.map HostWait.msg → (∀ v ∈ vs, v ∈ s.host.unmasked) →
          t.out = s.out ++ vs.map Out.msix)) ∧
      (∃ t, exec .busMasterEnableClear s = .next t ∧ t.hostOk = false ∧ t.host = { s.host with busMaster := false } ∧ Aside s t ∧
        t.out = s.out ∧ (s.crossing cdcHost 0 = false → t.log = s.log ∧ t.regs = s.regs)) ∧
      (∀ v : BitVec 11,
        (v.toNat ∈ s.host.pba → s.host.fmask = false → s.hostOk = true → s.host.waiting = [] →
          ∃ t, exec (.msixMaskClear v) s = .next t ∧ Aside s t ∧ t.out = s.out ++ [.msix v.toNat] ∧ v.toNat ∈ t.host.unmasked ∧
            t.host.pba = s.host.pba.erase v.toNat) ∧
        (v.toNat ∉ s.host.pba → ∃ t, exec (.msixMaskClear v) s = .next t ∧ Aside s t ∧ t.out = s.out ∧ v.toNat ∈ t.host.unmasked ∧
          t.host.pba = s.host.pba)))

/-- R298, R422 to R425, R427, R435: packets enter the command queue, are pushed, and run one by one; the acknowledgement is shown when the last one has
been cleared. -/
def Obligations.MailboxCommands : Prop :=
  ∀ s : State, s.awake = true →
    (∀ v : Word, s.host.cmdBad = false →
      (s.openPacket = none → 8 ≤ s.cmdSpace → ∃ t, exec (.mbxCmdDataWrite v) s = .next t ∧
        t = { s with host := { s.host with packets := s.host.packets ++ [⟨[v.toNat], 0, false⟩] } }) ∧
      (∀ p, s.openPacket = some p → 4 ≤ s.cmdSpace → ∃ t, exec (.mbxCmdDataWrite v) s = .next t ∧
        t = { s with host := { s.host with packets := s.host.packets.dropLast ++ [{ p with words := p.words ++ [v.toNat] }] } }) ∧
      (∀ p, natBit v.toNat 0 = true → s.openPacket = some p →
        (12 ≤ p.bytes → p.bytes ≤ 256 → ∃ t, exec (.mbxCmdPush v) s = .next t ∧ t.out = s.out ∧ t.hbm = s.hbm ∧
          t.host.packets = s.host.packets.dropLast ++ [{ p with len := p.bytes, sealed_ := true }]) ∧
        (p.bytes < 12 ∨ 256 < p.bytes → s.bit A.mbxHdb 0 = false → s.host.acks = [] → ∃ t, exec (.mbxCmdPush v) s = .next t ∧
          t.hbm = s.hbm ∧ t.host.packets = s.host.packets.dropLast ∧ t.reg A.mbxAck = 2 * 65536 + p.tag ∧ t.bit A.mbxHdb 0 = true))) ∧
    (∀ v : Word, s.host.cmdBad = true →
      ∃ t, exec (.mbxCmdDataWrite v) s = .next t ∧ Aside s t ∧ t.host.packets = [⟨[v.toNat], 0, false⟩] ∧ t.host.cmdBad = false ∧
        Logged s t [(Ev.queuePtr, s.srcGroom)]) ∧
    (∀ p : Packet, s.host.cmdBad = false → s.nextCmd = some p → s.bit A.mbxHdb 0 = false → s.host.acks = [] →
      let acked (t : State) (code : Nat) : Prop := t.host.packets = s.host.packets.drop 1 ∧
        t.reg A.mbxAck = code * 65536 + p.tag ∧ t.bit A.mbxHdb 0 = true ∧ t.hbm = s.hbm ∧ t.stalls = s.stalls
      let w (i : Nat) : Nat := p.words.getD (i - 1) 0
      (p.opcode = 0 → p.len = 12 → ∃ t, exec .nopCommand s = .next t ∧ acked t 0) ∧
      (p.opcode ≠ 0 → p.opcode ≠ 1 → p.opcode ≠ 2 → ∃ t, exec .nopCommand s = .next t ∧ acked t 1) ∧
      (p.opcode = 1 → p.len ≠ 24 ∨ w 3 = 0 ∨ 65536 < w 3 → ∃ t, exec .farMap s = .next t ∧ acked t 2) ∧
      (∀ im : Image, p.opcode = 1 → p.len = 24 → 0 < w 3 → w 3 ≤ 65536 → s.boot.image = some im →
        ((match im.far with | some (_, n) => n | none => 0) < w 2 + w 3 → ∃ t, exec .farMap s = .next t ∧ acked t 4) ∧
        (w 2 + w 3 ≤ (match im.far with | some (_, n) => n | none => 0) →
          let rd := s.readMem (w 4 + 2 ^ 32 * w 5) (16 * w 3) s.cyc
          let es := (List.range (w 3)).map fun k => bytesAt rd.2.1 (16 * k) 16
          (rd.2.2.2 = true → ∃ t, exec .farMap s = .next t ∧ acked t 5) ∧
          (rd.2.2.2 = false → rd.2.2.1.any id = false → es.any badFarEntry = true → ∃ t, exec .farMap s = .next t ∧ acked t 6) ∧
          (rd.2.2.2 = false → rd.2.2.1.any id = false → es.any badFarEntry = false → ∃ t, exec .farMap s = .next t ∧
            t.far.change = some ⟨w 2, es, p.tag⟩ ∧ t.host.packets = s.host.packets.drop 1 ∧ t.host.acks = [] ∧ t.hbm = s.hbm ∧
            t.stalls = s.stalls))) ∧
      (p.opcode = 2 → p.len = 12 → s.host.nvme = [] → ∃ t, exec .nvmeReset s = .next t ∧ t.host.nvmeTag = some p.tag ∧
        t.host.auxReady = false ∧ t.bit A.glbAuxStatus 30 = false ∧ t.host.packets = s.host.packets.drop 1 ∧ t.host.acks = [] ∧
        Aside s t)) ∧
    (∀ v : Word, natBit v.toNat 0 = true → natBit (s.setNow A.mbxHdb) 0 = true → s.bit A.mbxHdb 0 = true →
      ∃ t, exec (.mbxHdbClear v) s = .next t ∧ t.host = s.host ∧ t.out = s.out ∧ t.bit A.mbxHdb 0 = true ∧ Aside s t) ∧
    (∀ v : Word, natBit v.toNat 0 = true → natBit (s.setNow A.mbxHdb) 0 = false →
      (∀ a l, s.host.acks = a :: l → ∃ t, exec (.mbxHdbClear v) s = .next t ∧ t.host.acks = l ∧ t.bit A.mbxHdb 0 = true ∧
        t.reg A.mbxAck = a.code % 256 * 65536 + a.tag % 65536 ∧ Aside s t) ∧
      (s.host.acks = [] → ∃ t, exec (.mbxHdbClear v) s = .next t ∧ t.host = s.host ∧ t.out = s.out ∧ t.bit A.mbxHdb 0 = false ∧
        Aside s t)) ∧
    (∀ v : Word, (∃ i < 32, natBit (s.reg A.mbxHdbMask) i = true ∧ natBit v.toNat i = false ∧ s.bit A.mbxHdb i = true) →
      s.host.fmask = false → s.hostOk = true → s.host.waiting = [] → s.field A.mbxCfg 10 0 ∈ s.host.unmasked →
      ∃ t, exec (.mbxHdbMaskWrite v) s = .next t ∧ t.out = s.out ++ [.msix (s.field A.mbxCfg 10 0)] ∧ t.reg A.mbxHdbMask = v.toNat ∧
        Aside s t) ∧
    (∀ (tag : Nat) (data : List Byte) (r : FarRead), (s.far.reads.find? fun r => decide (r.kind = 1 ∧ r.tagNo = tag)) = some r →
      ∃ t, exec (.hostReadCompletion tag data true) s = .next t ∧ t.hbm = s.hbm ∧ t.out = s.out ∧
        t.far.reads = s.far.reads.filter (fun q => q.tagNo ≠ tag) ∧
        ∀ g ∈ (t.stall r.stall).str.flying, g.id = r.id → s.cyc ≤ g.fin → g.data = some (bytesAt data 0 r.len))

/-! ### Identity and sessions, event log, accesses (13, 14) -/

/-- R16, R456 to R458: GW answers a requester; version, capabilities and algorithms come first; a transport carries one session. The codes
of requests and responses are those of DSP0274 (log 60). -/
def Obligations.SpdmSessions : Prop :=
  ∀ (s : State) (t : Transport), s.responds = true →
    let x := s.session t
    let answers (c : Instr) (y : Session) (code : Nat) (bs : List Byte) : Prop :=
      ∃ u, exec c s = .next u ∧ u.out = s.out ++ [.spdm t code bs] ∧ u.session t = y ∧ (∀ k, k ≠ t → u.session k = s.session k) ∧
        { u with sec := s.sec, out := s.out } = s
    (∀ v, answers (.getVersion t v) { x with version := true, caps := false, algs := false } 0x04 [0x13]) ∧
    (∀ v, v ≠ 0x13 → answers (.getCapabilities t v) { x with version := true, caps := false, algs := false } 0x04 [0x13]) ∧
    (x.version = true → answers (.getCapabilities t 0x13) { x with caps := true } 0x61 []) ∧
    (x.version = false → answers (.getCapabilities t 0x13) x 0x7F [0x04]) ∧
    (x.caps = true → answers (.negotiateAlgorithms t true) { x with algs := true } 0x63 [] ∧
      answers (.negotiateAlgorithms t false) x 0x7F [0x07]) ∧
    (x.caps = false → ∀ b, answers (.negotiateAlgorithms t b) x 0x7F [0x04]) ∧
    (x.algs = false → answers (.getDigests t) x 0x7F [0x04] ∧ (∀ m e, answers (.keyExchange t m e) x 0x7F [0x04]) ∧
      ∀ i b n, answers (.getMeasurements t i b n) x 0x7F [0x04]) ∧
    (x.algs = true →
      answers (.getDigests t) x 0x01 (sha256 Config.certChain) ∧
      (∀ off len : BitVec 16, answers (.getCertificate t 0 off len) x 0x02
        ((Config.certChain.drop off.toNat).take (min len.toNat 4096))) ∧
      (∀ slot off len, slot ≠ 0 → answers (.getCertificate t slot off len) x 0x7F [0x01]) ∧
      (∀ n, answers (.challenge t 0 n) x 0x03 (sha256 Config.certChain ++ n ++ Config.moduleSign (sha256 Config.certChain ++ n))) ∧
      (∀ n, answers (.getMeasurements t 0 false n) x 0x60 [7]) ∧
      (∀ (i : BitVec 8) n, 1 ≤ i.toNat → i.toNat ≤ 7 →
        answers (.getMeasurements t i false n) x 0x60 ([1, i] ++ s.measurement i.toNat) ∧
        answers (.getMeasurements t i true n) x 0x60
          ([1, i] ++ s.measurement i.toNat ++ n ++ Config.moduleSign ([1, i] ++ s.measurement i.toNat ++ n))) ∧
      (∀ (i : BitVec 8) b n, 7 < i.toNat → i ≠ 0xFF → answers (.getMeasurements t i b n) x 0x7F [0x01]) ∧
      (∀ m e, x.state = .none →
        let n := s.sec.sessions + 1
        answers (.keyExchange t m e) { x with state := .handshaking, id := n, mutual_ := m, keyDigest := [], updates := 0 } 0x64
          (Config.keyExchange e n ++ Config.moduleSign (Config.keyExchange e n))) ∧
      (∀ m e, x.state ≠ .none → answers (.keyExchange t m e) x 0x7F [0x0A])) ∧
    (∀ d, x.state = .handshaking →
      answers (.finish t true d) { x with state := .secured, keyDigest := if x.mutual_ then d else [] } 0x65 [] ∧
      answers (.finish t false d) { x with state := .none, mutual_ := false, keyDigest := [], updates := 0 } 0x7F [0x06]) ∧
    (∀ b d, x.state ≠ .handshaking → answers (.finish t b d) x 0x7F [0x04]) ∧
    (x.state = .secured → answers (.heartbeat t) x 0x68 [] ∧
      answers (.keyUpdate t) { x with updates := x.updates + 1 } 0x69 [] ∧
      answers (.endSession t) { x with state := .none, mutual_ := false, keyDigest := [], updates := 0 } 0x6C []) ∧
    (x.state ≠ .secured → answers (.heartbeat t) x 0x7F [0x0B] ∧ answers (.keyUpdate t) x 0x7F [0x0B] ∧
      answers (.endSession t) x 0x7F [0x0B])

/-- R426, R452, R459: the secure operations, in a secured session and one at a time. -/
def Obligations.SecureOperations : Prop :=
  ∀ (s : State) (t : Transport), s.responds = true →
    let rest (u : State) : Prop := { u with sec := s.sec, out := s.out, flash := s.flash, free := s.free } = s
    let said (u : State) (bs : List Byte) : Prop := rest u ∧ u.out = s.out ++ [.spdm t 0x7E bs]
    let runs (u : State) (op code : Nat) : Prop := said u [0] ∧ u.sec.running = some op ∧ u.sec.pendCode = code ∧
      u.sec.doe = s.sec.doe ∧ u.sec.mctp = s.sec.mctp
    (s.secured t = true →
      (∃ u, exec (.poll t) s = .next u ∧ said u (0 :: s.sec.ack) ∧ u.sec = { s.sec with ready := false } ∧ u.flash = s.flash) ∧
      (∀ n, s.sec.running = some n → ∀ c ∈ ([.info t] : List Instr) ++ [.keyRevoke t 0, .keyEnroll t 0 [], .fwActivate t true none,
          .fwStage t 0 []], exec c s = .next (s.emit (.spdm t 0x7E [1]))) ∧
      (s.sec.running = none →
        (∃ u, exec (.info t) s = .next u ∧ said u (0 :: s.infoBytes) ∧ u.sec = { s.sec with running := some 6, pendCode := 0 } ∧
          u.flash = s.flash) ∧
        (∀ off data, 3072 < data.length ∨ copySize < off + data.length →
          ∃ u, exec (.fwStage t off data) s = .next u ∧ runs u 2 5 ∧ u.flash = s.flash) ∧
        (∀ off data, data.length ≤ 3072 → off + data.length ≤ copySize →
          let base := copyBase s.flash.other
          ∃ u, exec (.fwStage t off data) s = .next u ∧ runs u 2 0 ∧ u.flash.staging = true ∧ u.flash.keys = s.flash.keys ∧
            u.flash.minimum = s.flash.minimum ∧ u.flash.running = s.flash.running ∧ u.flash.prefer_ = s.flash.prefer_ ∧
            u.flash.copies = s.flash.copies.set s.flash.other none ∧ u.flash.bytes.read (base + off) data.length = data ∧
            (∀ a, a < base ∨ base + copySize ≤ a → u.flash.bytes.get a = s.flash.bytes.get a)) ∧
        (∀ b, ∃ u, exec (.fwActivate t b none) s = .next u ∧ runs u 3 4 ∧ u.flash = { s.flash with staging := false }) ∧
        (∀ b v, ∃ u, exec (.fwActivate t b (some v)) s = .next u ∧ runs u 3 0 ∧
          u.flash = { s.flash with
            copies := s.flash.copies.set s.flash.other (some v), prefer_ := s.flash.other, raise_ := b, staging := false }) ∧
        (∀ slot key, s.mayKey t true = true → key.length = 388 → slot ≤ 3 →
          ∃ u, exec (.keyEnroll t slot key) s = .next u ∧ runs u 4 0 ∧
            u.flash = { s.flash with keys := s.flash.keys.set slot (some (sha256 key)) }) ∧
        (∀ slot key, s.mayKey t true = false → ∃ u, exec (.keyEnroll t slot key) s = .next u ∧ runs u 4 3 ∧ u.flash = s.flash) ∧
        (∀ slot, s.mayKey t false = true → slot ≤ 3 → ∃ u, exec (.keyRevoke t slot) s = .next u ∧ runs u 5 0 ∧
          u.flash = { s.flash with keys := s.flash.keys.set slot none }) ∧
        (∀ slot, s.mayKey t false = false → ∃ u, exec (.keyRevoke t slot) s = .next u ∧ runs u 5 3 ∧ u.flash = s.flash) ∧
        (∀ vendor : BitVec 16, vendor.toNat = s.host.pci.vendor →
          exec (.vendorDefinedRequest t true ⟨vendor, [6]⟩) s = exec (.info t) s ∧
          (∀ slot : BitVec 8, exec (.vendorDefinedRequest t true ⟨vendor, [5, slot]⟩) s = exec (.keyRevoke t slot.toNat) s) ∧
          (∀ (k : BitVec 8) p, k = 0 ∨ 6 < k.toNat →
            ∃ u, exec (.vendorDefinedRequest t true ⟨vendor, k :: p⟩) s = .next u ∧ runs u k.toNat 2 ∧ u.flash = s.flash)) ∧
        (∀ (vendor : BitVec 16) p, vendor.toNat ≠ s.host.pci.vendor →
          exec (.vendorDefinedRequest t true ⟨vendor, p⟩) s = .next (s.emit (.spdm t 0x7F [0x01]))))) ∧
    (s.secured t = false → ∀ c ∈ ([.poll t] : List Instr) ++ [.info t, .keyRevoke t 0, .keyEnroll t 0 [], .fwActivate t true none,
      .fwStage t 0 []], exec c s = .next (s.emit (.spdm t 0x7F [0x0B]))) ∧
    (∀ vendor p, exec (.vendorDefinedRequest t false ⟨vendor, p⟩) s = .next (s.emit (.spdm t 0x7F [0x0B]))) ∧
    (∀ n, s.sec.running = some n → ∃ u, exec .secureOperationEnd s = .next u ∧ u = { s with sec := { s.sec with
      running := none, code := s.sec.pendCode, seqNo := (s.sec.seqNo + 1) % 65536, ready := true } })

/-- R426, R459: in a secured session each of the secure operations completes: POLL answers the acknowledge register, the others are accepted
with return code 0 and run, one at a time, and an operation that runs ends. Response codes are those of log 60. -/
def Obligations.SecureOperationsComplete : Prop :=
  ∀ (s : State) (t : Transport),
    let accepted (u : State) (op code : Nat) (bs : List Byte) : Prop :=
      u.out = s.out ++ [.spdm t 0x7E (0 :: bs)] ∧ u.sec.running = some op ∧ u.sec.pendCode = code
    (s.responds = true → s.secured t = true →
      (∃ u, exec (.poll t) s = .next u ∧ u.out = s.out ++ [.spdm t 0x7E (0 :: s.sec.ack)] ∧ u.sec.ready = false) ∧
      (s.sec.running = none →
        (∀ off data, data.length ≤ 3072 → off + data.length ≤ copySize →
          ∃ u, exec (.fwStage t off data) s = .next u ∧ accepted u 2 0 [] ∧
            u.flash.bytes.read (copyBase s.flash.other + off) data.length = data) ∧
        (∀ commit v, ∃ u, exec (.fwActivate t commit (some v)) s = .next u ∧ accepted u 3 0 [] ∧ u.flash.prefer_ = s.flash.other) ∧
        (∀ slot key, s.mayKey t true = true → key.length = 388 → slot ≤ 3 →
          ∃ u, exec (.keyEnroll t slot key) s = .next u ∧ accepted u 4 0 [] ∧ u.flash.keys = s.flash.keys.set slot (some (sha256 key))) ∧
        (∀ slot, s.mayKey t false = true → slot ≤ 3 →
          ∃ u, exec (.keyRevoke t slot) s = .next u ∧ accepted u 5 0 [] ∧ u.flash.keys = s.flash.keys.set slot none) ∧
        (∃ u, exec (.info t) s = .next u ∧ accepted u 6 0 s.infoBytes) ∧
        (∀ (vendor : BitVec 16) (p : List Byte), vendor.toNat = s.host.pci.vendor → p ≠ [1] →
          ∃ u bs code, exec (.vendorDefinedRequest t true ⟨vendor, p⟩) s = .next u ∧ accepted u (leAt p 0 1) code bs))) ∧
    (∀ op, s.alive = true → s.sec.running = some op →
      ∃ u, exec .secureOperationEnd s = .next u ∧ u.sec.running = none ∧ u.sec.ready = true ∧ u.sec.code = s.sec.pendCode ∧
        u.sec.seqNo = (s.sec.seqNo + 1) % 65536)

/-- R427, R428, R429, R431: the log writer places the event whose turn it is; what finds no room is held; the read pointer moves to record
starts only. -/
def Obligations.EventLogPlaces : Prop :=
  ∀ s : State,
    (s.log.held = [] → s.logDue = s) ∧
    (∀ e, firstEvent s.log.held = some e → let w := s.logDue
      s.reach (e.count + 64) ≤ w.cyc ∧ { w with stalls := s.stalls, barns := s.barns, shot := s.shot, cyc := s.cyc, log := s.log } = s ∧
        ∃ l, w.log = { s.log with held := s.log.held ++ l }) ∧
    (let w := s.logDue
     let l := w.log
     l.rptr = l.rptr2 → l.wptr = l.wptr2 →
      (∀ e, l.full = [] → firstEvent l.held = some e →
        let n := (e.record false).length
        let o := (l.wptr + l.padFor n) % logSize
        (l.lostNow = 0 → l.fits n = true →
          ∃ t, exec .eventLogPlace s = .next t ∧ Aside w t ∧ t.log.held = l.held.erase e ∧
            t.log.wptr = (l.wptr + l.padFor n + n) % (2 * logSize) ∧ t.log.wptr2 = t.log.wptr ∧ t.log.rptr = l.rptr ∧
            t.log.ring.read o n = e.record (decide (e.count < l.last)) ∧ t.log.full = [] ∧ t.log.lostNow = 0 ∧
            (l.padFor n = 0 → ∀ a, a < o ∨ o + n ≤ a → t.log.ring.get a = l.ring.get a) ∧ (l.used ≠ 0 → t.out = w.out)) ∧
        (l.lostNow ≠ 0 ∨ l.fits n = false →
          ∃ t, exec .eventLogPlace s = .next t ∧ Aside w t ∧ t.out = w.out ∧ t.log.held = l.held.erase e ∧ t.log.ring = l.ring ∧
            t.log.wptr = l.wptr ∧ t.log.full = [e] ∧ t.log.lostNow = l.lostNow)) ∧
      (∀ e rest, l.full = e :: rest → l.lostNow = 0 → l.fits (e.record false).length = true →
        ∃ t, exec .eventLogPlace s = .next t ∧ Aside w t ∧ t.log.full = rest ∧ t.log.held = l.held ∧
          t.log.wptr = (l.wptr + l.padFor (e.record false).length + (e.record false).length) % (2 * logSize)) ∧
      (∀ e d, l.full.length = 256 → firstEvent l.held = some e → l.full.head? = some d →
        l.lostNow ≠ 0 ∨ l.fits (d.record false).length = false →
        ∃ t, exec .eventLogPlace s = .next t ∧ Aside w t ∧ t.log.full = l.full ∧ t.log.held = l.held.erase e ∧
          t.log.lostNow = l.lostNow + 1 ∧ t.log.ring = l.ring ∧ e.code ∈ t.log.lostCodes)) ∧
    (let l := s.log
     (l.rptr = l.rptr2 → l.wptr = l.wptr2 →
      (l.lostNow ≠ 0 → l.fits 32 = true →
        let o := (l.wptr + l.padFor 32) % logSize
        ∃ t, exec .evtOverflowRecord s = .next t ∧ Aside s t ∧ t.log.lostNow = 0 ∧ t.log.lostCodes = [] ∧ t.log.held = l.held ∧
          t.log.full = l.full ∧ t.log.wptr = (l.wptr + l.padFor 32 + 32) % (2 * logSize) ∧
          leAt (t.log.ring.read o 32) 0 2 = 32 ∧ leAt (t.log.ring.read o 32) 4 2 = Ev.evtOverflow ∧
          leAt (t.log.ring.read o 32) 24 8 = l.lostNow % 2 ^ 32) ∧
      (∀ v : Word, s.awake = true →
        let p := natBits v.toNat 18 0
        (p = l.wptr ∨ p ∈ l.starts → ∃ t, exec (.evtRptrWrite v) s = .next t ∧ Aside s t ∧ t.log.rptr = p ∧ t.log.rptr2 = p ∧
          t.log.wptr = l.wptr ∧ t.log.ring = l.ring ∧ t.log.held = l.held) ∧
        (p ≠ l.wptr → p ∉ l.starts → exec (.evtRptrWrite v) s = .next (s.setBit A.evtCtrl 30)))) ∧
     (∀ v : Word, s.awake = true → l.rptr ≠ l.rptr2 ∨ l.wptr ≠ l.wptr2 → natBits v.toNat 18 0 = 0 →
      ∃ t, exec (.evtRptrWrite v) s = .next t ∧ Aside s t ∧ t.log.rptr = 0 ∧ t.log.rptr2 = 0 ∧ t.log.wptr = 32 ∧ t.log.wptr2 = 32 ∧
        leAt (t.log.ring.read 0 32) 4 2 = Ev.queuePtr ∧ t.log.held = l.held))

/-- R4, R5, R7 to R9, R281, R403 to R405: accesses through BAR2 and to registers without a row of their own. -/
def Obligations.HostAccesses : Prop :=
  ∀ s : State, s.awake = true →
    (∀ off len : Nat,
      let a := s.bar2Addr off
      let rd := s.readMem a len s.cyc
      (s.clocked = true → a + len ≤ 2 ^ 41 → rd.2.2.1.any id = false → rd.2.2.1.length = rd.2.1.length →
        ∃ t, exec (.bar2Read off len) s = .next t ∧ t.out = s.out ++ [.bar2Data rd.2.1] ∧ t.hbm = s.hbm ∧ t.stalls = s.stalls ∧
          (rd.2.2.2 = true → s.bit A.glbHostErr 28 = false →
            t.bit A.glbHostErr 28 = true ∧ (Ev.hbmUnassigned, srcGateLogic) ∈ t.log.held.map fun e => (e.code, e.src))) ∧
      (s.clocked = false → exec (.bar2Read off len) s =
        .next { s with host := { s.host with bar2 := s.host.bar2 ++ [⟨off, len, s.cyc⟩] } })) ∧
    (∀ r l, s.host.bar2 = r :: l → ∃ t, exec .bar2ReadTimeout s = .next t ∧ Aside s t ∧ t.out = s.out ++ [.bar2Abort] ∧
      r.at_ + 1750000 ≤ t.cyc ∧ t.host.bar2 = l ∧ t.bit A.glbHostErr 30 = true ∧ Logged s t [(Ev.bar2Timeout, srcGateLogic)]) ∧
    (∀ (off : Nat) (data : List Byte),
      let a := s.bar2Addr off
      a + data.length ≤ 2 ^ 41 → data ≠ [] → a % 2048 + data.length ≤ 2048 →
      (s.bar2Takes a = true → ∃ t, exec (.bar2Write off data) s = .next t ∧ t.hbm = (s.writeMem a s.cyc data false).hbm ∧
        t.stalls = s.stalls ∧ t.out = s.out) ∧
      (s.bar2Takes a = false → (s.locate a).isSome = true → s.bit A.glbHostErr 31 = false →
        ∃ t, exec (.bar2Write off data) s = .next t ∧ Aside s t ∧ t.bit A.glbHostErr 31 = true ∧ t.out = s.out ∧
          t.field A.glbHostErr 15 0 = min 0xFFFF (s.field A.glbHostErr 15 0 + 1) ∧ Logged s t [(Ev.bar2Denied, srcGateLogic)])) ∧
    (∀ (a n : Nat) (w : Bool), badAccess a n = true →
      ∃ t, exec (.bar0BadAccess a n w) s = .next t ∧ Aside s t ∧ t.bit A.glbHostErr 29 = true ∧
        (∀ k, k ≠ A.glbHostErr → t.reg k = s.reg k) ∧ t.out = s.out ++ (if w then [] else [.bar0 0]) ∧
        Logged s t [(Ev.barAccessSize, srcGateLogic)]) ∧
    (∀ a, ∃ t, exec (.wideLowRead ⟨a, false⟩) s = .next t ∧ t.out = s.out ++ [.bar0 (s.readReg a)] ∧ t.regs = s.regs ∧ Aside s t ∧
      t.log = s.log ∧ (isWideLow a = true → ∀ k < upperWords a, t.readReg (a + 4 * (k + 1)) = s.regNow (a + 4 * (k + 1)) % 2 ^ 32) ∧
      (isWideLow a = false → t.hold = s.hold)) ∧
    (∀ a, ∃ t, exec (.wideLowRead ⟨a, true⟩) s = .next t ∧ t.regs = s.regs ∧ Aside s t ∧ t.log = s.log ∧
      t.out = s.out ++ [.bar0 (s.readReg a), .bar0 (if isWideLow a then s.regNow (a + 4) % 2 ^ 32 else s.readReg (a + 4))]) ∧
    (∀ (a : Nat) (v w : Word), ∃ t, exec (.registerWrite a ⟨v, none⟩) s = .next t ∧
      exec (.registerWrite a ⟨v, some w⟩) s = exec (.registerWrite (a + 4) ⟨w, none⟩) t) ∧
    (∀ (a : Nat) (v : Word) (r : RegRow), regRow a = some r → a < 0x80000 ∨ 0x88000 ≤ a →
      (ownRegister r = true ∨ v.toNat &&& actionBits r ≠ 0 → exec (.registerWrite a ⟨v, none⟩) s = .next s) ∧
      (a < 0x1000000 → ownRegister r = false → v.toNat &&& actionBits r = 0 → r.base ≠ A.glbRingBaseLo → r.base ≠ A.glbRingBaseHi →
        r.base ≠ A.ckpCtrl → r.base ≠ A.glbBar2Window →
        ∃ t, exec (.registerWrite a ⟨v, none⟩) s = .next t ∧ { t with regs := s.regs } = s ∧
          t.reg a = r.write s.boot.image.isSome (s.reg a) (v.toNat &&& (0xFFFFFFFF ^^^ (r.w1c &&& s.setNow a))) % 2 ^ 32 ∧
          ∀ k, k ≠ a → t.reg k = s.reg k)) ∧
    (∀ (i : StallId) (v : Word) (r : RegRow), regRow (stallReg A.stlOpeErr i.val) = some r → r.base = A.stlOpeErr →
      ∃ t, exec (.registerWrite (stallReg A.stlOpeErr i.val) ⟨v, none⟩) s = .next t ∧ t.regs = s.regs ∧ t.hbm = s.hbm ∧
        (t.stall i.val).ope.err = r.write false ((brought s i.val s.cyc).stall i.val).ope.err v.toNat) ∧
    (∀ (n : Fin 2048) (v : Word), natBit v.toNat 0 = true →
      ∃ t, exec (.registerWrite (0x80000 + 16 * n.val + 12) ⟨v, none⟩) s = .next t ∧ Aside s t ∧ t.out = s.out ∧ n.val ∉ t.host.unmasked ∧
        ∀ k, k ≠ n.val → (k ∈ t.host.unmasked ↔ k ∈ s.host.unmasked))

/-- R434 to R436: NVMe completions, the auxiliary link, the controller's requests to module memory. -/
def Obligations.AuxiliaryPort : Prop :=
  ∀ s : State,
    (∀ (cid : Nat) (st : BitVec 15) (data : List Byte) (c : NvmeCmd), (s.host.nvme.find? fun c => c.cid = cid) = some c →
      (st ≠ 0 → ∃ t, exec (.nvmeCompletion cid st data) s = .next t ∧ t.hbm = s.hbm ∧ t.stalls = s.stalls ∧ t.out = s.out ∧
        t.host.nvme = s.host.nvme.filter (fun k => k.cid ≠ cid) ∧
        (Ev.nvmeError, s.srcGroom) ∈ t.log.held.map (fun e => (e.code, e.src)) ∧
        (∀ i id, c.use = .far i id → ∀ r ∈ t.far.reads, r.kind = 2 → r.stall = i → r.id ≠ id)) ∧
      (∀ i id r, st = 0 → c.use = .far i id → (s.far.reads.find? fun r => decide (r.kind = 2 ∧ r.stall = i ∧ r.id = id)) = some r →
        ∃ t, exec (.nvmeCompletion cid st data) s = .next t ∧ t.hbm = s.hbm ∧ t.out = s.out ∧ t.log = s.log ∧
          t.host.nvme = s.host.nvme.filter (fun k => k.cid ≠ cid) ∧
          ∀ g ∈ (t.stall r.stall).str.flying, g.id = r.id → s.cyc ≤ g.fin → g.data = some (bytesAt data r.addr r.len))) ∧
    (s.awake = true →
      (s.host.auxUp = true → ∃ t, exec .auxLinkDown s = .next t ∧ t.hbm = s.hbm ∧ t.stalls = s.stalls ∧ t.out = s.out ∧
        t.host.auxUp = false ∧ t.host.auxReady = false ∧ t.host.nvme = [] ∧ t.field A.glbAuxStatus 31 30 = 0 ∧
        (Ev.auxLinkDown, s.srcGroom) ∈ t.log.held.map fun e => (e.code, e.src)) ∧
      (∀ ok, s.host.nvmeTag = none → ∃ t, exec (.auxLinkReady ok) s = .next t ∧ Aside s t ∧ t.out = s.out ∧
        (s.crossing cdcAux 0 = false → t.log = s.log) ∧ t.host = { s.host with auxUp := ok, auxReady := ok } ∧ t.field A.glbAuxStatus 31 30 = if ok then 3 else 0) ∧
      (∀ ok n, s.host.nvmeTag = some n → n < 65536 → s.bit A.mbxHdb 0 = false → s.host.acks = [] →
        ∃ t, exec (.auxLinkReady ok) s = .next t ∧ Aside s t ∧ t.host.nvmeTag = none ∧ t.host.auxUp = ok ∧ t.host.auxReady = ok ∧
          t.reg A.mbxAck = (if ok then 0 else 7) * 65536 + n ∧ t.bit A.mbxHdb 0 = true) ∧
      (s.host.auxUp = true → ∀ a n bs,
        (2 ^ 41 < a + bs.length → exec (.auxDeviceMemoryRequest a n (some bs)) s = .next (s.emit .auxUnsupported)) ∧
        (2 ^ 41 < a + n → exec (.auxDeviceMemoryRequest a n none) s = .next (s.emit .auxUnsupported)) ∧
        (a + bs.length ≤ 2 ^ 41 → exec (.auxDeviceMemoryRequest a n (some bs)) s = .next (s.writeMem a s.cyc bs false)) ∧
        (let rd := s.readMarked a n s.cyc;
          a + n ≤ 2 ^ 41 → ∃ t, exec (.auxDeviceMemoryRequest a n none) s = .next t ∧ t.hbm = s.hbm ∧ t.stalls = s.stalls ∧
            (rd.2.2.any id = false → rd.2.2.length = rd.2.1.length → t.out = s.out ++ [.auxData rd.2.1]))))

/-! ### Images, resets, authority, power (14, 16) -/

/-- R443, R444, R447 to R449: an image is admitted or refused; it is released; a Function Level Reset returns the host interface. -/
def Obligations.ImagesComeAndGo : Prop :=
  ∀ s : State, s.awake = true →
    (∀ (v : Word) (im : Image), natBit v.toNat 31 = true →
      let len := s.reg A.cfgImgLen
      let d := im.decoded
      let m := (s.putBit A.cfgStatus 28 false).stagedBytes (s.wide A.cfgImgAddrLo A.cfgImgAddrHi) len
      (s.boot.mode ≠ .ready ∨ s.boot.image.isSome = true ∨ s.boot.releasing ≠ 0 →
        exec (.cfgLoad v im) s = .next (s.setBit A.cfgStatus 28)) ∧
      (∀ (f : Found) (n : Nat), s.boot.mode = .ready → s.boot.image = none → s.boot.releasing = 0 → m.1.imageCheck d m.2 len = some f →
        f.code < 65536 → f.sec < 65536 → f.item = some n → n < 2 ^ 32 →
        ∃ t l, exec (.cfgLoad v im) s = .next t ∧ t.boot = s.boot ∧ t.hbm = s.hbm ∧ t.stalls = s.stalls ∧
          t.field A.cfgStatus 1 0 = 2 ∧ t.bit A.cfgStatus 28 = false ∧ t.reg A.cfgRefusal = f.code * 65536 + f.sec ∧
          t.reg A.cfgRefusalAt = n ∧ Logged s t (l ++ [(Ev.cfgRefused, s.srcGroom)])) ∧
      (s.boot.mode = .ready → s.boot.image = none → s.boot.releasing = 0 → m.1.imageCheck d m.2 len = none →
        ∃ t i, exec (.cfgLoad v im) s = .next t ∧ t.boot.mode = .run ∧ t.boot.image = some i ∧
          i.plans.map (fun p => (p.num, p.period, p.progs, p.slices, p.transfers)) =
            d.plans.map (fun p => (p.num, p.period, p.progs, p.slices, p.transfers)) ∧
          ((∀ p ∈ d.plans, p.runs = false) → i.plans = d.plans) ∧ i.fabric = im.fabric ∧
          i.seed = leAt m.2 24 4 ∧ t.field A.cfgStatus 1 0 = 1 ∧ t.bit A.cfgStatus 30 = true ∧
          (∀ n < 8, t.reg (A.cfgDigest + 4 * n) = leAt (sha256 m.2) (4 * n) 4) ∧ t.safe.fenced = s.safe.fenced ∧
          t.shot.begun = false ∧ t.shot.nextNo = 0 ∧ t.train.diverged = s.train.diverged ∧ t.ckpt.done = [])) ∧
    (∀ v : Word, natBit v.toNat 30 = true →
      (s.boot.image = none ∨ s.boot.releasing ≠ 0 ∨ s.ckpt.restore.isSome = true ∨ s.ckpt.repairs ≠ [] ∨ s.fencesOpen = false →
        exec (.cfgRelease v) s = .next (s.setBit A.cfgStatus 27)) ∧
      (∀ im, s.boot.image = some im → s.boot.releasing = 0 → s.ckpt.restore = none → s.ckpt.repairs = [] → s.fencesOpen = true →
        (s.neverBegan = false → ∃ t, exec (.cfgRelease v) s = .next t ∧ t.boot = { s.boot with releasing := 1 } ∧
          t.bit A.cfgStatus 27 = false ∧ t.bit A.cfgStatus 29 = true ∧ Aside s t ∧
          t.host.runs = s.host.runs.filter fun q => q.started) ∧
        (s.neverBegan = true → s.host.runs = [] → s.train.passes = [] →
          ∃ t, exec (.cfgRelease v) s = .next t ∧ t.boot.image = none ∧ t.boot.releasing = 0 ∧ t.boot.mode ≠ .run ∧
            t.safe.moves = [] ∧ t.far.frames = [] ∧ t.shot.epoch = none ∧ t.hbm = s.hbm ∧ t.safe.fenced = s.safe.fenced))) ∧
    (s.crossing cdcHost 1 = true → ∃ t, exec .functionLevelReset s = .next t ∧ t.host = s.host ∧ t.boot = s.boot ∧ Aside s t ∧
      t.bit A.glbCdcStatus cdcHost = true) ∧
    (s.crossing cdcHost 1 = false → ∃ t, exec .functionLevelReset s = .next t ∧ t.host.entries = [] ∧ t.host.runs = [] ∧ t.host.comps = [] ∧ t.host.packets = [] ∧
      t.host.acks = [] ∧ t.host.waiting = [] ∧ t.host.sweep = none ∧ t.hostOk = false ∧ (∀ n, (t.ring n).state = .disabled) ∧
      (∀ q ∈ t.host.reqs, q.host = none) ∧ t.field A.glbResetCause 2 0 = 5 ∧ t.hbm = s.hbm ∧ t.safe.fenced = s.safe.fenced ∧
      t.flash = s.flash ∧ (s.boot.image = none → t.boot = s.boot ∧ t.stalls = s.stalls) ∧
      (∀ im, s.boot.image = some im → s.shot.begun = true → s.shot.gone = none → s.safe.abort = none → s.bit A.glbAudit 0 = false →
        t.safe.abort = some (s.cyc + 7) ∧ t.boot = { s.boot with releasing := 2 } ∧ t.bit A.cfgStatus 29 = true))

/-- R450 to R453, R482, R484, R485: every reset starts the module anew; what R450 keeps is kept. -/
def Obligations.ResetsStartAnew : Prop :=
  ∀ (s : State) (found : StartFindings) (k v : Nat), found.gw = some (k, v) → found.fallback = none → found.settled = true →
    found.failedStacks = [] → found.badStalls = [] → swf zeroPort s.fab.ports = true →
    let kept (t : State) : Prop := t.safe.fenced = s.safe.fenced ∧ t.flash.keys = s.flash.keys ∧ t.hbm = [] ∧ t.barns = [] ∧
      t.boot.image = none ∧ t.shot = { Shot.reset with ownFrom := t.cyc } ∧
      t.train = { Train.reset with diverged := s.train.diverged || !s.train.passes.isEmpty } ∧ t.ckpt = .reset ∧ t.sec = .reset ∧ t.far = .reset ∧
      t.host.rings = [] ∧ t.host.runs = [] ∧ t.host.entries = [] ∧ t.host.comps = [] ∧ t.pending = s.pending ∧
      (∀ i, t.stall i = if i ∈ s.safe.fenced then Stall.reset.powerOff 0 else .reset) ∧
      (∀ p, t.port p = { Port.reset with cable := (s.port p).cable })
    let anew (c : Instr) (cause count : Nat) : Prop := ∃ t, exec c s = .next t ∧ kept t ∧ s.cyc ≤ t.cyc ∧ t.now ≤ 3000000000 ∧
      t.boot.mode = .ready ∧ t.boot.stage = 7 ∧ t.boot.token = 0b01 ∧ t.boot.primaryGe = false ∧ t.boot.gwSilent = false ∧
      t.flash.running = k ∧ t.reg A.glbResetCause = count * 65536 + cause
    let count := min 0xFFFF (s.field A.glbResetCause 31 16 + 1)
    (s.alive = true → anew (.perstN found) 2 count ∧ anew (.i3cTargetReset found) 4 count) ∧
    (s.awake = true → (∀ w : Word, natBit w.toNat 0 = true → anew (.glbResetModule w found) 3 count) ∧
      anew (.groomWatchdogExpire true found) 6 count) ∧
    (s.alive = false → s.power.pwrEn = false → 46000 ≤ s.power.vin →
      (s.power.locked = false ∨ s.power.lowSince + 175000000 ≤ s.cyc → anew (.pwrEnRise found) 1 0) ∧
      (s.power.locked = true → s.cyc < s.power.lowSince + 175000000 →
        exec (.pwrEnRise found) s = .next { s with power := { s.power with pwrEn := true } })) ∧
    (s.alive = false → s.power.pwrEn = true → s.power.locked = false → ∀ mv, 46000 ≤ mv → anew (.inputVoltageRise mv found) 1 0) ∧
    (s.alive = false → s.power.pwrEn = false → ∀ mv,
      exec (.inputVoltageRise mv found) s = .next { s with power := { s.power with vin := mv } }) ∧
    (s.power.pwrEn = true → ∃ t, exec .pwrEnFall s = .next t ∧ kept t ∧ t.boot.mode = .standby ∧ t.power.pwrEn = false ∧
      t.power.lowSince = t.cyc ∧ t.power.latch = (if s.power.locked then s.power.latch else 0) ∧ t.out = s.out)

/-- R454, R455: the token passes from GW to GE, at once where no image is admitted; an inconsistent token ends in FAULT. -/
def Obligations.AuthorityToken : Prop :=
  ∀ s : State, s.awake = true →
    let passed (t : State) : Prop := t.boot.token = 0b10 ∧ t.bit A.mbxHdb 5 = true ∧ Aside s t ∧ t.boot.image = s.boot.image ∧
      t.boot.mode = s.boot.mode ∧ (s.boot.image = none → t.boot.primaryGe = true) ∧
      (s.boot.image.isSome = true → s.shot.begun = true → t.boot.takeover = true ∧ t.boot.primaryGe = s.boot.primaryGe) ∧
      Logged s t [(Ev.authTransfer, s.srcGroom)]
    (∀ v : Word, natBit v.toNat 31 = true → s.boot.gwSilent = false →
      (s.boot.token = 0b01 → ∃ t, exec (.glbAuthRelease v) s = .next t ∧ passed t ∧ t.boot.gwSilent = false) ∧
      (s.boot.token ≠ 0b01 → exec (.glbAuthRelease v) s = .next s)) ∧
    (∀ v : Word, s.boot.gwSilent = true → exec (.glbAuthRelease v) s = .next s) ∧
    (∀ found,
      (s.boot.token = 0b01 → ∃ t, exec (.groomWatchdogExpire false found) s = .next t ∧ passed t ∧ t.boot.gwSilent = true) ∧
      (s.boot.token ≠ 0b01 → exec (.groomWatchdogExpire false found) s =
        .next { s with boot := { s.boot with gwSilent := true } })) ∧
    (∀ b : BitVec 2,
      (s.boot.split = true → exec (.tokenInconsistent b) s = .next s) ∧
      (s.boot.split = false → s.shot.begun = true → ∃ t, exec (.tokenInconsistent b) s = .next t ∧
        t.boot = { s.boot with split := true, token := b } ∧ Aside s t ∧ Logged s t [(Ev.mgmtSplit, s.srcGroom)]) ∧
      (s.boot.split = false → s.shot.begun = false → ∃ t, exec (.tokenInconsistent b) s = .next t ∧
        t.boot = { s.boot with split := true, token := b, mode := .fault } ∧ Aside s t ∧ t.host.runs = [] ∧ t.host.reqs = [] ∧
        (Ev.mgmtSplit, s.srcGroom) ∈ t.log.held.map fun e => (e.code, e.src)))

/-- R481, R482, R488, R489, R497 to R500, R505: cuts, input voltage, sensors, HOLD and its end. -/
def Obligations.CutsAndTemperature : Prop :=
  ∀ s : State,
    (∀ c : BitVec 4, 1 ≤ c.toNat → c.toNat ≤ 6 → s.alive = true →
      ∃ t, exec (.powerCut c) s = .next t ∧ t.boot.mode = .standby ∧ t.power.latch = c.toNat ∧ t.power.locked = true ∧ t.hbm = [] ∧
        t.safe.fenced = s.safe.fenced ∧ t.flash.keys = s.flash.keys ∧ t.out = s.out ∧
        (c = 6 → exec .analogThermalTrip s = .next t)) ∧
    (∀ c : BitVec 4, c = 0 ∨ 6 < c.toNat ∨ s.alive = false → exec (.powerCut c) s = .next s) ∧
    (∃ t, exec .clearFaults s = .next t ∧ t.power = { s.power with faults := 0 } ∧ Aside s t ∧ t.host = s.host ∧ t.boot = s.boot ∧
      t.out = s.out ∧ (s.crossing cdcPmbus 0 = false → t.log = s.log ∧ t.regs = s.regs)) ∧
    (s.awake = true →
      (∀ mv, inputOk mv = true → exec (.inputVoltageExcursion mv) s = .next s) ∧
      (∀ mv, inputOk mv = false → ∃ t, exec (.inputVoltageExcursion mv) s = .next t ∧ Aside s t ∧ t.power.vin = mv ∧
        t.bit A.pwrStatus 29 = true ∧ t.power.excursion = true ∧
        Logged s t (if s.power.excursion then [] else [(Ev.inputVoltage, s.srcGroom)]) ∧
        (s.power.excursion = false → t.bit A.pwrErr 30 = true)) ∧
      (∀ l : List (Nat × Option Int),
        let given (i : Nat) : Option Int := (l.find? fun r => r.1 = i).bind fun r => r.2
        ∃ t, exec (.sensorSample l) s = .next t ∧
          (∀ i ∈ sampled, t.sensor i = (s.sensor i).take i (given i)) ∧ (∀ i, i ∉ sampled → t.sensor i = s.sensor i) ∧
          (∀ i ∈ sampled, ∀ x, given i = some x → validReading i x = true → (t.sensor i).value = x ∧ (t.sensor i).valid = true) ∧
          (∀ i ∈ sampled, given i = none → (t.sensor i).value = (s.sensor i).value ∧ (t.sensor i).valid = false ∧
            (t.sensor i).bad = (s.sensor i).bad + 1) ∧
          t.power.warned = (if s.power.warned then !(t.junctions.all fun x => decide (x < 1440))
            else t.junctions.any fun x => decide (1520 ≤ x)) ∧
          ((∀ i < 76, (t.sensor i).hot < 2) → t.boot = s.boot ∧ t.power.stopped = s.power.stopped ∧ Aside s t) ∧
          (s.power.thermOut = false → (∃ i < 76, 2 ≤ (t.sensor i).hot) → t.power.stopped = true ∧ t.power.thermOut = true ∧
            t.boot.mode = (if s.boot.mode = .fault then .fault else .hold) ∧ Out.pin pinTherm false ∈ t.out ∧ t.hbm = s.hbm)) ∧
      (∀ i ∈ sampled, (s.sensor i).failed = false → 3 ≤ (s.sensor i).bad →
        ∃ t, exec (.sensorFault i) s = .next t ∧ Aside s t ∧ t.sensor i = { s.sensor i with failed := true } ∧
          (∀ j, j ≠ i → t.sensor j = s.sensor j) ∧ t.bit A.pwrErr 25 = true ∧ t.bit A.pwrStatus 28 = true ∧
          (Ev.sensorFault, s.srcGroom) ∈ t.log.held.map fun e => (e.code, e.src)) ∧
      (∀ v : Word, natBit v.toNat 31 = true →
        (s.boot.mode ≠ .hold ∨ (s.junctions.any fun x => decide (1440 ≤ x)) = true →
          exec (.pwrCtrlResume v) s = .next (s.putBit A.pwrStatus 27 true)) ∧
        (s.boot.mode = .hold → (s.junctions.any fun x => decide (1440 ≤ x)) = false → s.host.bar2 = [] →
          ∃ t, exec (.pwrCtrlResume v) s = .next t ∧ Aside s t ∧ t.power.stopped = false ∧ t.power.thermOut = false ∧
            t.power.resumeAt = some (s.cyc + 1750000) ∧ t.boot.mode = (if s.boot.image.isSome then .hold else .ready) ∧
            t.out = s.out ++ [.pin pinTherm true] ∧ t.bit A.pwrStatus 27 = false)))

/-- R494, R505, R506: energy intervals, the peak, the sideband. -/
def Obligations.EnergyAndSideband : Prop :=
  ∀ s : State,
    (s.awake = true → ∀ nj : Nat,
      let w := min 0xFFFF (nj / 1024)
      let budget := match s.boot.image with | some im => im.power.budget | none => 0
      let run := if s.boot.image.isSome = true ∧ budget * 1024 < nj then s.power.runAbove + 1 else 0
      let l := (nj :: s.power.recent).take 9765
      ∃ t, exec (.energyInterval nj) s = .next t ∧ Aside s t ∧ t.field A.pwrPin 15 0 = w ∧
        t.field A.pwrPin 31 16 = max (s.field A.pwrPin 31 16) w ∧ t.power.runAbove = run ∧ t.power.recent = l ∧
        t.field A.pwrAbove 15 0 = min 0xFFFF run ∧
        t.shot.measured = (if s.shot.begun then s.shot.measured + nj else s.shot.measured) ∧
        (4800 * 1024 < nj ∨ run = 9766 → t.power.cool = true ∧ t.bit A.pwrErr 29 = true ∧ t.bit A.pwrStatus 30 = true ∧
          Logged s t [(Ev.excursion, s.srcGroom)] ∧
          (s.shot.begun = true → s.shot.margin = false → s.cyc ≤ s.marginAt → s.shot.fail = none →
            t.shot.fail = some ⟨s.cyc, Ev.excursion, s.srcGroom⟩)) ∧
        (nj ≤ 4800 * 1024 → run ≠ 9766 → t.log = s.log ∧ t.shot.fail = s.shot.fail ∧
          t.power.cool = (s.power.cool && !decide (l.foldl (· + ·) 0 < budget * 1024 * l.length)))) ∧
    (∀ v : Word, s.awake = true → natBit v.toNat 30 = true →
      ∃ t, exec (.pwrCtrlPeakClear v) s = .next t ∧ t.field A.pwrPin 31 16 = 0 ∧ t.field A.pwrPin 15 0 = s.field A.pwrPin 15 0 ∧
        { t with regs := s.regs } = s ∧ ∀ k, k ≠ A.pwrPin → t.reg k = s.reg k) ∧
    (s.alive = true →
      (∀ i, exec (.pldmRequest 0 i) s = .next (s.emit (.pldm 0 0 none)) ∧
        exec (.pldmRequest 2 i) s = .next (s.emit (.pldm 2 i (s.sensorReading i))) ∧
        (i < 160 → s.sensorReading i = if (s.sensor i).valid then some (s.sensor i).value else none) ∧
        (i < 18 → s.sensorReading (192 + i) = some (s.power.calibrated.getD i 0 : Nat))) ∧
      (∀ k i, k ≠ 0 → k ≠ 2 → exec (.pldmRequest k i) s = .next s) ∧
      (∀ a : BitVec 7, ∃ t, exec (.dynamicAddressAssignment a) s = .next t ∧ t.power = { s.power with i3c := a.toNat } ∧ Aside s t ∧
        t.host = s.host ∧ t.boot = s.boot ∧ t.out = s.out ∧
        (s.crossing cdcSideband 0 = false → t.log = s.log ∧ t.regs = s.regs)))

/-! ### The whole block -/

/-- A step takes the command at the front of the queue and runs it with the rest. On an empty queue the block idles: one core cycle passes
(the model's choice, log 1). -/
def Obligations.StepTakesTheFront : Prop :=
  (∀ (c : Instr) (l : List Instr) (s : State), step { s with pending := c :: l } = exec c { s with pending := l }) ∧
  (∀ s : State, s.pending = [] → step s = .next { s with cyc := s.cyc + 1 })

/-- R9, R402, R450, R453, R486: the machine after reset. Its clock, input voltage and fence list are the model's choices (log 3 to 5). -/
def Obligations.AfterReset : Prop :=
  let s := State.reset
  MemoryOk s ∧ BanksOk s ∧ s.pending = [] ∧ s.boot.mode = .standby ∧ s.boot.token = 0b01 ∧ s.boot.image = none ∧ s.power.pwrEn = false ∧
    s.clocked = false ∧ s.awake = false ∧ s.running = false ∧ s.strict = false ∧ s.hbm = [] ∧ s.safe.fenced = [] ∧ s.out = [] ∧
    (∀ a, s.reg a = regReset a ∧ s.readReg a = 0) ∧ (∀ i, s.stall i = .reset) ∧ (∀ b, s.barn b = .reset) ∧ (∀ p, s.port p = .reset) ∧
    (∀ n, s.ring n = .reset)

/-- Every step keeps byte memories and banks in their canonical form: strictly rising addresses, and no entry that an unlisted address reads
as. So two memories that read alike are equal. -/
def Obligations.StepKeepsCanonical : Prop :=
  (∀ s t : State, MemoryOk s → BanksOk s → step s = .next t → MemoryOk t ∧ BanksOk t) ∧
  (∀ m n : Memory, m.wf = true → n.wf = true → (∀ a, m.get a = n.get a) → m = n)

/-- Every command answers a next state from every state: none stops the block. It leaves the queue; time does not run backward; a fenced stall
stays fenced (R450, R474); the fuse minimum is not lowered (R459); what has been driven outward is not taken back. -/
def Obligations.EveryCommandCompletes : Prop :=
  ∀ (c : Instr) (s : State), ∃ t, exec c s = .next t ∧ t.pending = s.pending ∧ s.cyc ≤ t.cyc ∧ (∀ i ∈ s.safe.fenced, i ∈ t.safe.fenced) ∧
    s.flash.minimum ≤ t.flash.minimum ∧ (∃ l, t.out = s.out ++ l) ∧ s.free ≤ t.free

/-- What a stall's instruction leaves alone: everything outside its stall but time, the log's held events and the shot's failure and audit halt;
and, of its own stall, the engines that are not its own. -/
def Obligations.StallFrames : Prop :=
  ∀ (s : State) (i : StallId),
    (∀ c ∈ ([.ctlNop i, .ctlEnd i, .ctlWait i, .ctlJump i, .ctlLoop i, .ctlCall i, .ctlRet i, .ctlSubst i, .ctlCsave i, .ctlCrest i,
        .synBar i, .opeAcc i, .opeLddesc i, .opePreload i, .opeDrain i, .opeSave i, .opeRestore i, .opeShape i, .opeKeepwarm i,
        .residueVerdict i] : List Instr) ++
      [.vecOp i, .vecCvt i, .vecFunc i, .vecDfunc i, .vecMaskf i, .vecMaskb i, .vecDrop i, .vecLadd i, .vecPack i, .vecUnpack i,
        .vecCadd i, .vecHist i, .vecHstore i, .vecSeta i, .vecSetk i, .vecSetr i, .laneSelftest i true, .laneSelftest i false] ++
      [.spdCopy i, .spdFill i, .spdPwr i, .bankPowerDown i 0, .bankPowerDownCancel i 0, .bankWakeDone i 0, .gatherDrain i 0,
        .indirectReadSample i, .strStart i, .strHalt i, .strPony i, .strSetctx i],
      ∀ t, exec c s = .next t → OneStall s t i.val) ∧
    (∀ (f : Fetched) (c : Nat), Issues s i.val f c →
      let op := opcodeOf f.word
      let u := atIssue s i.val op c
      (∀ p ∈ ([(0x00, .ctlNop i), (0x01, .ctlEnd i), (0x02, .ctlWait i), (0x03, .ctlJump i), (0x04, .ctlLoop i), (0x05, .ctlCall i),
          (0x06, .ctlRet i), (0x07, .ctlSubst i), (0x10, .synBar i)] : List (Nat × Instr)), p.1 = op →
        ∃ t, exec p.2 s = .next t ∧ (t.stall i.val).ope = u.ope ∧ (t.stall i.val).vec = u.vec ∧ (t.stall i.val).spd = u.spd ∧
          (t.stall i.val).str = u.str ∧ (t.stall i.val).pony = u.pony) ∧
      (∀ p ∈ ([(0x20, .opeAcc i), (0x21, .opeLddesc i), (0x22, .opePreload i), (0x23, .opeDrain i), (0x24, .opeSave i),
          (0x25, .opeRestore i), (0x27, .opeKeepwarm i)] : List (Nat × Instr)), p.1 = op →
        ∃ t, exec p.2 s = .next t ∧ (t.stall i.val).vec = u.vec ∧ (t.stall i.val).spd.mem = u.spd.mem ∧ (t.stall i.val).str = u.str ∧
          (t.stall i.val).pony = u.pony) ∧
      (∀ p ∈ ([(0x30, .vecOp i), (0x31, .vecCvt i), (0x32, .vecFunc i), (0x33, .vecDfunc i), (0x34, .vecMaskf i), (0x35, .vecMaskb i),
          (0x36, .vecDrop i), (0x37, .vecLadd i), (0x38, .vecPack i), (0x39, .vecUnpack i), (0x3A, .vecCadd i), (0x3B, .vecHist i),
          (0x3C, .vecHstore i), (0x3D, .vecSeta i), (0x3E, .vecSetk i), (0x3F, .vecSetr i)] : List (Nat × Instr)), p.1 = op →
        ∃ t, exec p.2 s = .next t ∧ (t.stall i.val).ope = u.ope ∧ (t.stall i.val).spd.mem = u.spd.mem ∧ (t.stall i.val).str = u.str ∧
          (t.stall i.val).pony = u.pony) ∧
      (∀ p ∈ ([(0x40, .spdCopy i), (0x41, .spdFill i)] : List (Nat × Instr)), p.1 = op →
        ∃ t, exec p.2 s = .next t ∧ (t.stall i.val).ope = u.ope ∧ (t.stall i.val).vec = u.vec ∧ (t.stall i.val).spd.mem = u.spd.mem ∧
          (t.stall i.val).str = u.str ∧ (t.stall i.val).pony = u.pony) ∧
      (∀ p ∈ ([(0x50, .strStart i), (0x51, .strHalt i), (0x52, .strPony i), (0x53, .strSetctx i)] : List (Nat × Instr)), p.1 = op →
        ∃ t, exec p.2 s = .next t ∧ (t.stall i.val).ope = u.ope ∧ (t.stall i.val).vec = u.vec ∧
          (t.stall i.val).spd.mem = u.spd.mem))

/-- R6, R13: addresses of BAR0 outside the block map read as zero and take no write; stack j serves aisle a of barn b, with its registers at
0x090_0000 + j 0x4000. -/
def Obligations.BlockMap : Prop :=
  (∀ (s : State) (a : Nat) (v : Word), s.awake = true →
    (0x650000 ≤ a ∧ a < 0x700000) ∨ (0x980000 ≤ a ∧ a < 0x1000000) ∨ (0x2000000 ≤ a ∧ a < 0x4000000) ∨
      (0x1000000 ≤ a ∧ a < 0x2000000 ∧ 0x180000 ≤ a % 0x200000) →
    exec (.wideLowRead ⟨a, false⟩) s = .next (s.emit (.bar0 0)) ∧ exec (.registerWrite a ⟨v, none⟩) s = .next s) ∧
  (∀ b < 8, ∀ a < 4, ∀ n < 20, aisleOf (80 * b + 20 * a + n) = 4 * b + a) ∧
  (∀ (s : State) (j o : Nat), j < 32 → o < 0x4000 → s.regNow (0x900000 + j * 0x4000 + o) = s.stackRegs j o)

/-- R205: the return stack. -/
def Obligations.ReturnStack : Prop :=
  ∀ (st : Stall) (c tack : Nat) (w : Insn), ctlLegal tack w = true →
    let o := st.seq.course
    let n := o.step w false
    (opcodeOf w = 0x05 →
      (issueFlow st c w tack = .inconsistent ↔ 4 ≤ o.rets.length) ∧
      (o.rets.length < 4 → n.index = bitsOf w 43 31 ∧ n.rets.length = o.rets.length + 1 ∧ n.rets.tail = o.rets ∧
        ((∀ l ∈ o.loops.head?, l.depth ≠ o.rets.length ∨ l.last ≠ o.index) → n.rets = (o.index + 1) :: o.rets ∧ n.loops = o.loops))) ∧
    (opcodeOf w = 0x04 → 4 ≤ o.loops.length → issueFlow st c w tack = .inconsistent) ∧
    (opcodeOf w = 0x06 →
      (issueFlow st c w tack = .inconsistent ↔ o.rets = []) ∧
      (∀ r rs, o.rets = r :: rs → n.index = r ∧ n.rets = rs ∧ n.loops.Sublist o.loops ∧
        ∀ l, l ∈ n.loops ↔ l ∈ o.loops ∧ l.depth ≠ o.rets.length))

/-- R419: the place and phase of a completion, and the order of completions. -/
def Obligations.CompletionPlaces : Prop :=
  (∀ (l : List Completion) (c : Completion), firstComp l = some c →
    ∃ a b, l = a ++ c :: b ∧ (∀ d ∈ a, c.due < d.due) ∧ (∀ d ∈ b, c.due ≤ d.due)) ∧
  (∀ (s : State) (c : Completion), firstComp s.host.comps = some c → s.compReady c = true → s.hostOk = true → s.host.waiting = [] →
    (s.ring c.ring).pass = c.pass →
    let q := s.ring c.ring
    let w := q.written
    let n := q.entries
    ∃ t l, exec .completionWrite s = .next t ∧ (t.ring c.ring).written = w + 1 ∧
      t.out = s.out ++ [.hostWrite (q.base + 64 * n + w % n * 32) c.body, .hostWrite (q.base + 64 * n + w % n * 32 + 28)
        (leBytes 4 (c.seq % 2 ^ 31 + if w / n % 2 = 0 then 2 ^ 31 else 0))] ++ l)

/-- R476: the host's fence request. -/
def Obligations.HostFences : Prop :=
  ∀ (s : State),
    (∀ v : Word, let i := natBits v.toNat 9 7 * 80 + natBits v.toNat 6 0
      s.awake = true → natBit v.toNat 31 = true → natBits v.toNat 6 0 < 80 → s.fencesOpen = true →
      (i ∈ s.safe.fenced → exec (.safeFenceReqGo v) s = .next (s.writeReg A.safeFenceReq v.toNat)) ∧
      (i ∉ s.safe.fenced → s.boot.mode = .run → ∃ t, exec (.safeFenceReqGo v) s = .next t ∧ i ∈ t.safe.requests ∧
        t.safe.fenced = s.safe.fenced ∧ t.stalls = s.stalls) ∧
      (i ∉ s.safe.fenced → s.boot.mode ≠ .run → ∃ t, exec (.safeFenceReqGo v) s = .next t ∧ i ∈ t.safe.fenced ∧
        (t.stall i).fenced = true ∧ (Ev.stallFenced, srcStall i) ∈ t.log.held.map fun e => (e.code, e.src))) ∧
    (∀ i ∈ s.safe.requests, s.shot.begun = true → s.shot.margin = false → s.fencesOpen = true →
      ∃ t, exec .closingMargin s = .next t ∧ i ∈ t.safe.fenced)
end

