-- ==== Sys2Proof/Laws/Sparse.lean ====
section
/-!
SUPPORT. Laws of sparse banks: a read after a write, and that every operation keeps the canonical form.
-/
namespace Sys2Proof.Machine

variable {α : Type} [DecidableEq α] {d : Nat → α}

/-- A bound below every key. -/
def Below (lo : Option Nat) (k : Nat) : Prop := match lo with | none => True | some l => l < k

theorem swfFrom_cons {lo : Option Nat} {a : Nat} {v : α} {t : Sparse α} :
    swfFrom d lo ((a, v) :: t) = true ↔ Below lo a ∧ v ≠ d a ∧ swfFrom d (some a) t = true := by
  cases lo <;> simp [swfFrom, Below, and_assoc]

theorem swfFrom_weaken {lo : Option Nat} {a : Nat} {t : Sparse α} (hlo : Below lo a) (h : swfFrom d (some a) t = true) :
    swfFrom d lo t = true := by
  cases t with
  | nil => rfl
  | cons p t =>
    obtain ⟨b, v⟩ := p
    rw [swfFrom_cons] at h ⊢
    refine ⟨?_, h.2⟩
    cases lo with
    | none => trivial
    | some l => exact lt_trans hlo h.1

/-- Cells kept by a test keep the canonical form. -/
theorem swfFrom_filter (p : Nat × α → Bool) {m : Sparse α} {lo : Option Nat} (hm : swfFrom d lo m = true) :
    swfFrom d lo (m.filter p) = true := by
  induction m generalizing lo with
  | nil => rfl
  | cons q t ih =>
    obtain ⟨a, v⟩ := q
    rw [swfFrom_cons] at hm
    rw [List.filter_cons]
    split
    · rw [swfFrom_cons]; exact ⟨hm.1, hm.2.1, ih hm.2.2⟩
    · exact swfFrom_weaken hm.1 (ih hm.2.2)

theorem swf_filter (p : Nat × α → Bool) {m : Sparse α} (hm : swf d m = true) : swf d (m.filter p) = true := swfFrom_filter p hm

/-- A write keeps the canonical form above a bound below its key. -/
theorem swfFrom_sset {m : Sparse α} {lo : Option Nat} {k : Nat} {v : α} (hm : swfFrom d lo m = true) (hk : Below lo k) :
    swfFrom d lo (sset d m k v) = true := by
  induction m generalizing lo with
  | nil =>
    unfold sset
    split
    · rfl
    · rw [swfFrom_cons]; exact ⟨hk, ‹_›, rfl⟩
  | cons p t ih =>
    obtain ⟨a, w⟩ := p
    unfold sset
    split
    · split
      · exact swfFrom_filter _ hm
      · rw [swfFrom_cons] at hm
        rw [swfFrom_cons, swfFrom_cons]
        exact ⟨hk, ‹_›, ‹k < a›, hm.2⟩
    · rw [swfFrom_cons] at hm
      obtain ⟨h1, h2, h3⟩ := hm
      split
      · subst k
        split
        · exact swfFrom_weaken h1 (swfFrom_filter _ h3)
        · rw [swfFrom_cons]; exact ⟨h1, ‹_›, h3⟩
      · rw [swfFrom_cons]
        exact ⟨h1, h2, ih h3 (show a < k by omega)⟩

/-- A write keeps the canonical form. -/
theorem swf_sset {m : Sparse α} (k : Nat) (v : α) (hm : swf d m = true) : swf d (sset d m k v) = true :=
  swfFrom_sset hm trivial

/-- A write of several values keeps the canonical form. -/
theorem swf_ssetList (vs : List α) {m : Sparse α} (k : Nat) (hm : swf d m = true) : swf d (ssetList d m k vs) = true := by
  induction vs generalizing m k with
  | nil => exact hm
  | cons v t ih => exact ih (k + 1) (swf_sset k v hm)

/-- A fold of writes keeps the canonical form. -/
theorem swf_foldl {β : Type} (f : Sparse α → β → Sparse α) (l : List β) {m : Sparse α}
    (hf : ∀ m b, swf d m = true → swf d (f m b) = true) (hm : swf d m = true) : swf d (l.foldl f m) = true := by
  induction l generalizing m with
  | nil => exact hm
  | cons b l ih => exact ih (hf m b hm)

theorem swf_nil : swf d ([] : Sparse α) = true := rfl

omit [DecidableEq α] in
@[simp] theorem sget_cons (a : Nat) (v : α) (t : Sparse α) (k : Nat) :
    sget d ((a, v) :: t) k = if k = a then v else sget d t k := rfl

omit [DecidableEq α] in
theorem sget_sdrop_same (m : Sparse α) (k : Nat) : sget d (sdrop k m) k = d k := by
  induction m with
  | nil => rfl
  | cons p t ih =>
    obtain ⟨a, w⟩ := p
    unfold sdrop at ih ⊢
    rw [List.filter_cons]
    split
    · rw [sget_cons, if_neg (by simp at *; omega)]; exact ih
    · exact ih

omit [DecidableEq α] in
theorem sget_sdrop_other (m : Sparse α) {k j : Nat} (h : j ≠ k) : sget d (sdrop k m) j = sget d m j := by
  induction m with
  | nil => rfl
  | cons p t ih =>
    obtain ⟨a, w⟩ := p
    unfold sdrop at ih ⊢
    rw [List.filter_cons]
    split
    · rw [sget_cons, sget_cons, ih]
    · rw [sget_cons, if_neg (by simp at *; omega)]; exact ih

/-- A read of the key written gives the value written. -/
theorem sget_sset_same (m : Sparse α) (k : Nat) (v : α) : sget d (sset d m k v) k = v := by
  induction m with
  | nil =>
    unfold sset
    split
    · subst v; rfl
    · simp
  | cons p t ih =>
    obtain ⟨a, w⟩ := p
    unfold sset
    split
    · split
      · subst v; exact sget_sdrop_same _ _
      · simp
    · split
      · split
        · subst v; exact sget_sdrop_same _ _
        · simp
      · rw [sget_cons, if_neg ‹_›]; exact ih

/-- A write leaves every other key alone. -/
theorem sget_sset_other (m : Sparse α) {k j : Nat} (v : α) (h : j ≠ k) : sget d (sset d m k v) j = sget d m j := by
  induction m with
  | nil =>
    unfold sset
    split
    · rfl
    · simp [h]
  | cons p t ih =>
    obtain ⟨a, w⟩ := p
    unfold sset
    split
    · split
      · exact sget_sdrop_other _ h
      · simp [h]
    · split
      · subst k
        split
        · rw [sget_sdrop_other _ h, sget_cons, if_neg h]
        · simp [h]
      · rw [sget_cons, sget_cons, ih]

/-- A read after a write. -/
theorem sget_sset (m : Sparse α) (k j : Nat) (v : α) : sget d (sset d m k v) j = if j = k then v else sget d m j := by
  split
  · subst j; exact sget_sset_same m k v
  · exact sget_sset_other m v ‹_›

/-- A bank in canonical form is empty when every key reads as it does unlisted. -/
theorem swf_ext_nil {m : Sparse α} (hm : swf d m = true) (h : ∀ k, sget d m k = d k) : m = [] := by
  cases m with
  | nil => rfl
  | cons p t =>
    obtain ⟨a, v⟩ := p
    unfold swf at hm
    rw [swfFrom_cons] at hm
    have := h a
    simp [sget] at this
    exact absurd this hm.2.1

/-- A write of bytes keeps the canonical form of a memory. -/
theorem Memory.wf_write {m : Memory} (a : Nat) (bs : List Byte) (h : m.wf = true) : (m.write a bs).wf = true := swf_ssetList bs a h

end Sys2Proof.Machine
end

