-- ==== Sys2Proof/Laws/Keeps.lean ====
section
/-!
SUPPORT. What every operation and every command keeps: the queue is not touched, time does not run backward, memories stay in their
canonical form, what has been fenced stays fenced, the fuses are not lowered, nothing driven outward is taken back. One rule for each
way in which operations are put together.
-/
namespace Sys2Proof.Machine

open Sys2Proof.Safety

/-- What holds of a state `t` that an operation gives from `s`. -/
structure Keeps (s t : State) : Prop where
  pending : t.pending = s.pending
  cyc : s.cyc ≤ t.cyc
  mem : MemoryOk s → MemoryOk t
  banks : BanksOk s → BanksOk t
  fenced : ∀ i ∈ s.safe.fenced, i ∈ t.safe.fenced
  fuse : s.flash.minimum ≤ t.flash.minimum
  out : s.out <+: t.out
  free : s.free ≤ t.free

theorem Keeps.refl (s : State) : Keeps s s := ⟨rfl, le_rfl, id, id, fun _ h => h, le_rfl, List.prefix_rfl, le_rfl⟩

theorem Keeps.trans {s t u : State} (h : Keeps s t) (k : Keeps t u) : Keeps s u :=
  ⟨k.pending.trans h.pending, h.cyc.trans k.cyc, fun m => k.mem (h.mem m), fun m => k.banks (h.banks m), fun i m => k.fenced i (h.fenced i m), h.fuse.trans k.fuse,
    h.out.trans k.out, h.free.trans k.free⟩

/-- A change of any other field. -/
theorem Keeps.upd {s t : State} {off : Nat} {sets : List (Nat × Nat × Nat)} {cdc : Sparse Nat} {bad : Sparse BadUnit} {far : Far} {log : Log} {shot : Shot} {safe : Safe} {train : Train}
    {ckpt : Ckpt} {fab : Fab} {host : HostIf} {sec : Secure} {boot : Boot} {power : Power} (h : Keeps s t) (hl : log.ring = t.log.ring)
    (hf : safe.fenced = t.safe.fenced) (hm : safe.map = t.safe.map) (hp : fab.ports = t.fab.ports) (hr : host.rings = t.host.rings) :
    Keeps s ⟨t.pending, t.cyc, off, t.regs, t.hold, sets, cdc, t.stalls, t.barns, t.dies, t.hbm, bad, far, log, shot, safe, train, ckpt, fab, host,
      t.flash, sec, boot, power, t.free, t.out⟩ := by
  refine h.trans ⟨rfl, le_rfl, ?_, ?_, ?_, le_rfl, List.prefix_rfl, le_rfl⟩
  · unfold MemoryOk; rw [hl]; exact id
  · unfold BanksOk; rw [hm, hp, hr]; exact id
  · rw [hf]; exact fun _ h => h

/-- A change of the banks alone. -/
theorem Keeps.bank {s t : State} {stalls : Sparse Stall} {barns : Sparse Barn} {stks : Sparse Stack} (h : Keeps s t)
    (hs : swf zeroStall t.stalls = true → swf zeroStall stalls = true) (hb : swf zeroBarn t.barns = true → swf zeroBarn barns = true)
    (hk : swf zeroStack t.dies = true → swf zeroStack stks = true) :
    Keeps s ⟨t.pending, t.cyc, t.off, t.regs, t.hold, t.sets, t.cdc, stalls, barns, stks, t.hbm, t.bad, t.far, t.log, t.shot, t.safe, t.train, t.ckpt,
      t.fab, t.host, t.flash, t.sec, t.boot, t.power, t.free, t.out⟩ :=
  h.trans ⟨rfl, le_rfl, id, fun b => ⟨hs b.1, hb b.2.1, hk b.2.2.1, b.2.2.2⟩, fun _ h => h, le_rfl, List.prefix_rfl, le_rfl⟩

theorem Keeps.ite {s a b : State} {c : Prop} [Decidable c] (ha : Keeps s a) (hb : Keeps s b) : Keeps s (if c then a else b) := by
  split
  · exact ha
  · exact hb

theorem Keeps.foldl {α : Type} {s t : State} {f : State → α → State} (l : List α) (h : Keeps s t)
    (hf : ∀ x a, Keeps s x → Keeps s (f x a)) : Keeps s (l.foldl f t) := by
  induction l generalizing t with
  | nil => exact h
  | cons a l ih => exact ih (hf t a h)

theorem Keeps.ofEq {β : Type} {s t : State} {p : State × β} {b : β} (h : p = (t, b)) (k : Keeps s p.1) : Keeps s t := by
  rw [h] at k; exact k

theorem Keeps.foldl1 {α β : Type} {s : State} {p : State × β} {f : State × β → α → State × β} (l : List α) (h : Keeps s p.1)
    (hf : ∀ x a, Keeps s x.1 → Keeps s (f x a).1) : Keeps s (l.foldl f p).1 := by
  induction l generalizing p with
  | nil => exact h
  | cons a l ih => exact ih (hf p a h)

theorem State.at__keeps {s0 s : State} (h : Keeps s0 s) (x : Nat) : Keeps s0 (s.at_ x) :=
  h.trans ⟨rfl, le_max_left _ _, id, id, fun _ h => h, le_rfl, List.prefix_rfl, le_rfl⟩

end Sys2Proof.Machine
end

