-- ==== Sys2Proof/Laws/KeepsOps.lean ====
section
/-!
SUPPORT. Operations over registers, stalls, events, memory and the loft keep what Keeps says.
-/
namespace Sys2Proof.Machine

open Sys2Proof.Safety

/-! ### Ops -/

theorem State.idle_keeps {s0 s : State} (h : Keeps s0 s) : Keeps s0 s.idle :=
  h.trans ⟨rfl, Nat.le_succ _, id, id, fun _ h => h, le_rfl, List.prefix_rfl, le_rfl⟩

theorem RegBank.swf_set {m : RegBank} (a v : Nat) (h : swf regReset m = true) : swf regReset (m.set a v) = true := swf_sset _ _ h

/-- A change of the register bank. -/
theorem Keeps.reg {s0 s : State} {m : RegBank} (h : Keeps s0 s) (hm : swf regReset s.regs = true → swf regReset m = true) :
    Keeps s0 { s with regs := m } :=
  h.trans ⟨rfl, le_rfl, fun k => ⟨k.1, k.2.1, k.2.2.1, hm k.2.2.2.1, k.2.2.2.2⟩, id, fun _ h => h, le_rfl, List.prefix_rfl, le_rfl⟩

theorem State.setReg_keeps {s0 s : State} {a v : Nat} (h : Keeps s0 s) : Keeps s0 (s.setReg a v) :=
  h.reg (RegBank.swf_set a v)

theorem State.setField_keeps {s0 s : State} {a hi lo v : Nat} (h : Keeps s0 s) : Keeps s0 (s.setField a hi lo v) :=
  h.reg (RegBank.swf_set a _)

theorem State.setBit_keeps {s0 s : State} {a i : Nat} (hk : Keeps s0 s) : Keeps s0 (s.setBit a i) :=
  (hk.reg (RegBank.swf_set a _)).upd rfl rfl rfl rfl rfl

theorem State.putBit_keeps {s0 s : State} {a i : Nat} {v : Bool} (hk : Keeps s0 s) : Keeps s0 (s.putBit a i v) := by
  unfold State.putBit
  apply State.setField_keeps
  exact hk

theorem State.bump_keeps {s0 s : State} {a hi lo k : Nat} (h : Keeps s0 s) : Keeps s0 (s.bump a hi lo k) :=
  h.reg (RegBank.swf_set a _)

theorem State.wrapAdd_keeps {s0 s : State} {a k : Nat} (hk : Keeps s0 s) : Keeps s0 (s.wrapAdd a k) := by
  unfold State.wrapAdd
  apply State.setReg_keeps
  exact hk

theorem State.setShotNo_keeps {s0 s : State} {n : Nat} (hk : Keeps s0 s) : Keeps s0 (s.setShotNo n) := by
  unfold State.setShotNo
  apply State.setField_keeps
  apply State.setReg_keeps
  exact hk

theorem State.writeReg_keeps {s0 s : State} {a v : Nat} (hk : Keeps s0 s) : Keeps s0 (s.writeReg a v) := by
  unfold State.writeReg
  split
  · apply State.setReg_keeps
    exact hk
  · exact hk

theorem State.event_keeps {s0 s : State} {code src x : Nat} {detail : List Byte} (hk : Keeps s0 s) : Keeps s0 (s.event code src x detail) := by
  unfold State.event
  extract_lets y1
  refine Keeps.upd ?_ rfl rfl rfl rfl rfl
  exact hk

theorem State.portEvent_keeps {s0 s : State} {code p x : Nat} {f : Option Frame} (hk : Keeps s0 s) : Keeps s0 (s.portEvent code p x f) := by
  unfold State.portEvent
  split
  apply State.event_keeps
  exact hk

theorem State.failShot_keeps {s0 s : State} {x code src : Nat} (hk : Keeps s0 s) : Keeps s0 (s.failShot x code src) := by
  unfold State.failShot
  extract_lets y1
  refine Keeps.ite ?_ ?_
  · exact hk
  · split
    · refine Keeps.ite ?_ ?_
      · refine Keeps.upd ?_ rfl rfl rfl rfl rfl
        exact hk
      · exact hk
    · refine Keeps.upd ?_ rfl rfl rfl rfl rfl
      exact hk

theorem State.failEvent_keeps {s0 s : State} {code src x : Nat} {detail : List Byte} (hk : Keeps s0 s) : Keeps s0 (s.failEvent code src x detail) := by
  unfold State.failEvent
  apply State.failShot_keeps
  apply State.event_keeps
  exact hk

theorem State.setStall_keeps {s0 s : State} {i : Nat} {t : Stall} (hk : Keeps s0 s) : Keeps s0 (s.setStall i t) :=
  hk.bank (swf_sset _ _) id id

theorem State.modStall_keeps {s0 s : State} {i : Nat} {f : Stall → Stall} (hk : Keeps s0 s) : Keeps s0 (s.modStall i f) := by
  unfold State.modStall
  apply State.setStall_keeps
  exact hk

theorem State.setBarn_keeps {s0 s : State} {b : Nat} {v : Barn} (hk : Keeps s0 s) : Keeps s0 (s.setBarn b v) :=
  hk.bank id (swf_sset _ _) id

theorem State.setStack_keeps {s0 s : State} {j : Nat} {v : Stack} (hk : Keeps s0 s) : Keeps s0 (s.setStack j v) :=
  hk.bank id id (swf_sset _ _)

theorem State.setPort_keeps {s0 s : State} {p : Nat} {v : Port} (hk : Keeps s0 s) : Keeps s0 (s.setPort p v) :=
  hk.trans ⟨rfl, le_rfl, id, fun b => ⟨b.1, b.2.1, b.2.2.1, swf_sset _ _ b.2.2.2.1, b.2.2.2.2⟩, fun _ h => h, le_rfl, List.prefix_rfl,
    le_rfl⟩

theorem State.setRing_keeps {s0 s : State} {r : Nat} {v : Ring} (hk : Keeps s0 s) : Keeps s0 (s.setRing r v) :=
  hk.trans ⟨rfl, le_rfl, id, fun b => ⟨b.1, b.2.1, b.2.2.1, b.2.2.2.1, swf_sset _ _ b.2.2.2.2.1, b.2.2.2.2.2⟩, fun _ h => h, le_rfl,
    List.prefix_rfl, le_rfl⟩

theorem State.eachStall_keeps {s0 s : State} {l : List Nat} {f : Stall → Stall} (hk : Keeps s0 s) : Keeps s0 (s.eachStall l f) := by
  unfold State.eachStall
  refine Keeps.foldl _ ?_ (fun a1 b1 k1 => ?_)
  · exact hk
  · apply State.modStall_keeps
    exact k1

theorem State.haltFrom_keeps {s0 s : State} {x : Nat} (hk : Keeps s0 s) : Keeps s0 (s.haltFrom x) := by
  unfold State.haltFrom
  extract_lets y1 y2 y3
  have hy1 : Keeps s0 y2 := by
    subst y2
    refine Keeps.upd ?_ rfl rfl rfl rfl rfl
    exact hk
  clear_value y2
  have hy2 : Keeps s0 y3 := by
    subst y3
    apply State.eachStall_keeps
    exact hy1
  clear_value y3
  refine Keeps.foldl _ ?_ (fun a1 b1 k1 => ?_)
  · exact hy2
  · extract_lets y4
    apply State.setBarn_keeps
    exact k1

theorem State.takeEvent_keeps {s0 s : State} {i : Nat} {e : StallEvent} (hk : Keeps s0 s) : Keeps s0 (s.takeEvent i e) := by
  unfold State.takeEvent
  extract_lets y1 y2 y3 y4 y5 y6 y7
  have hy1 : Keeps s0 y4 := by
    subst y4
    refine Keeps.ite ?_ ?_
    · exact hk
    · apply State.event_keeps
      exact hk
  clear_value y4
  have hy2 : Keeps s0 y5 := by
    subst y5
    refine Keeps.ite ?_ ?_
    · apply State.failShot_keeps
      exact hy1
    · exact hy1
  clear_value y5
  have hy3 : Keeps s0 y7 := by
    subst y7
    refine Keeps.ite ?_ ?_
    · refine Keeps.upd ?_ rfl rfl rfl rfl rfl
      exact hy2
    · exact hy2
  clear_value y7
  refine Keeps.ite ?_ ?_
  · apply State.haltFrom_keeps
    exact hy3
  · exact hy3

theorem State.flush_keeps {s0 s : State} {l : List Nat} (hk : Keeps s0 s) : Keeps s0 (s.flush l) := by
  unfold State.flush
  extract_lets y1 y2
  have hy1 : Keeps s0 y2 := by
    subst y2
    apply State.eachStall_keeps
    exact hk
  clear_value y2
  refine Keeps.foldl _ ?_ (fun a1 b1 k1 => ?_)
  · exact hy1
  · apply State.takeEvent_keeps
    exact k1

theorem State.syncAll_keeps {s0 s : State} {x : Nat} (hk : Keeps s0 s) : Keeps s0 (s.syncAll x) := by
  unfold State.syncAll
  extract_lets y1
  apply State.flush_keeps
  apply State.eachStall_keeps
  exact hk

theorem State.sync_keeps {s0 s : State} {i x : Nat} (hk : Keeps s0 s) : Keeps s0 (s.sync i x) := by
  unfold State.sync
  refine Keeps.ite ?_ ?_
  · apply State.syncAll_keeps
    apply State.modStall_keeps
    exact hk
  · apply State.flush_keeps
    apply State.modStall_keeps
    exact hk

theorem State.onStall_keeps {s0 s : State} {i x : Nat} {f : Stall → Stall} (hk : Keeps s0 s) : Keeps s0 (s.onStall i x f) := by
  unfold State.onStall
  extract_lets y1
  have hy1 : Keeps s0 y1 := by
    subst y1
    apply State.sync_keeps
    exact hk
  clear_value y1
  apply State.flush_keeps
  apply State.modStall_keeps
  exact hy1

theorem State.emit_keeps {s0 s : State} {o : Out} (h : Keeps s0 s) : Keeps s0 (s.emit o) :=
  h.trans ⟨rfl, le_rfl, id, id, fun _ h => h, le_rfl, ⟨[o], rfl⟩, le_rfl⟩

theorem State.msix_keeps {s0 s : State} {v : Nat} (hk : Keeps s0 s) : Keeps s0 (s.msix v) := by
  unfold State.msix
  extract_lets y1
  refine Keeps.ite ?_ ?_
  · refine Keeps.ite ?_ ?_
    · exact hk
    · refine Keeps.upd ?_ rfl rfl rfl rfl rfl
      exact hk
  · refine Keeps.ite ?_ ?_
    · apply State.emit_keeps
      exact hk
    · refine Keeps.upd ?_ rfl rfl rfl rfl rfl
      exact hk

theorem State.doorbell_keeps {s0 s : State} {i : Nat} (hk : Keeps s0 s) : Keeps s0 (s.doorbell i) := by
  unfold State.doorbell
  extract_lets y1
  have hy1 : Keeps s0 y1 := by
    subst y1
    apply State.setBit_keeps
    exact hk
  clear_value y1
  refine Keeps.ite ?_ ?_
  · apply State.setBit_keeps
    exact hk
  · refine Keeps.ite ?_ ?_
    · exact hy1
    · apply State.msix_keeps
      exact hy1

theorem State.fresh_keeps {s0 s : State} (h : Keeps s0 s) : Keeps s0 s.fresh.1 :=
  h.trans ⟨rfl, le_rfl, id, id, fun _ h => h, le_rfl, List.prefix_rfl, Nat.le_succ _⟩

theorem State.overrun_keeps {s0 s : State} {g : Nat} (hk : Keeps s0 s) : Keeps s0 (s.overrun g) := by
  unfold State.overrun
  extract_lets y1
  have hy1 : Keeps s0 y1 := by
    subst y1
    apply State.bump_keeps
    exact hk
  clear_value y1
  refine Keeps.ite ?_ ?_
  · apply State.setBit_keeps
    exact hy1
  · apply State.event_keeps
    apply State.setBit_keeps
    exact hy1

theorem State.cross_keeps {s0 s : State} {g k : Nat} (hk : Keeps s0 s) : Keeps s0 (s.cross g k) := by
  unfold State.cross
  extract_lets y1
  have hy1 : Keeps s0 y1 := by
    subst y1
    refine Keeps.ite ?_ ?_
    · apply State.overrun_keeps
      exact hk
    · exact hk
  clear_value y1
  split
  refine Keeps.upd ?_ rfl rfl rfl rfl rfl
  refine Keeps.ofEq (by assumption) ?_
  apply State.fresh_keeps
  exact hy1

theorem State.setWide_keeps {s0 s : State} {lo hi v : Nat} (hk : Keeps s0 s) : Keeps s0 (s.setWide lo hi v) := by
  unfold State.setWide
  apply State.setReg_keeps
  apply State.setReg_keeps
  exact hk


/-! ### StallCtl -/

theorem State.issue_keeps {s0 s : State} {i : Nat} {sel : Insn → FetchCheck → Bool} {eff : Stall → Nat → Insn → Nat → Issue} (hk : Keeps s0 s) : Keeps s0 (s.issue i sel eff) := by
  unfold State.issue
  extract_lets y1 y2
  have hy1 : Keeps s0 y1 := by
    subst y1
    refine Keeps.ite ?_ ?_
    · apply State.syncAll_keeps
      exact hk
    · exact hk
  clear_value y1
  refine Keeps.ite ?_ ?_
  · exact hk
  · apply State.flush_keeps
    apply State.at__keeps
    apply State.setStall_keeps
    exact hy1

theorem execCtlNop_keeps (st : StallId) (s : State) : ∃ u, execCtlNop st s = .next u ∧ Keeps s u := by
  unfold execCtlNop
  refine ⟨_, rfl, ?_⟩
  have hk : Keeps s s := Keeps.refl s
  apply State.issue_keeps
  exact hk

theorem execCtlEnd_keeps (st : StallId) (s : State) : ∃ u, execCtlEnd st s = .next u ∧ Keeps s u := by
  unfold execCtlEnd
  refine ⟨_, rfl, ?_⟩
  have hk : Keeps s s := Keeps.refl s
  apply State.issue_keeps
  exact hk

theorem execCtlWait_keeps (st : StallId) (s : State) : ∃ u, execCtlWait st s = .next u ∧ Keeps s u := by
  unfold execCtlWait
  refine ⟨_, rfl, ?_⟩
  have hk : Keeps s s := Keeps.refl s
  apply State.issue_keeps
  exact hk

theorem execCtlJump_keeps (st : StallId) (s : State) : ∃ u, execCtlJump st s = .next u ∧ Keeps s u := by
  unfold execCtlJump
  refine ⟨_, rfl, ?_⟩
  have hk : Keeps s s := Keeps.refl s
  apply State.issue_keeps
  exact hk

theorem execCtlLoop_keeps (st : StallId) (s : State) : ∃ u, execCtlLoop st s = .next u ∧ Keeps s u := by
  unfold execCtlLoop
  refine ⟨_, rfl, ?_⟩
  have hk : Keeps s s := Keeps.refl s
  apply State.issue_keeps
  exact hk

theorem execCtlCall_keeps (st : StallId) (s : State) : ∃ u, execCtlCall st s = .next u ∧ Keeps s u := by
  unfold execCtlCall
  refine ⟨_, rfl, ?_⟩
  have hk : Keeps s s := Keeps.refl s
  apply State.issue_keeps
  exact hk

theorem execCtlRet_keeps (st : StallId) (s : State) : ∃ u, execCtlRet st s = .next u ∧ Keeps s u := by
  unfold execCtlRet
  refine ⟨_, rfl, ?_⟩
  have hk : Keeps s s := Keeps.refl s
  apply State.issue_keeps
  exact hk

theorem execCtlSubst_keeps (st : StallId) (s : State) : ∃ u, execCtlSubst st s = .next u ∧ Keeps s u := by
  unfold execCtlSubst
  refine ⟨_, rfl, ?_⟩
  have hk : Keeps s s := Keeps.refl s
  apply State.issue_keeps
  exact hk

theorem execCtlCsave_keeps (st : StallId) (s : State) : ∃ u, execCtlCsave st s = .next u ∧ Keeps s u := by
  unfold execCtlCsave
  refine ⟨_, rfl, ?_⟩
  have hk : Keeps s s := Keeps.refl s
  apply State.issue_keeps
  exact hk

theorem execCtlCrest_keeps (st : StallId) (s : State) : ∃ u, execCtlCrest st s = .next u ∧ Keeps s u := by
  unfold execCtlCrest
  refine ⟨_, rfl, ?_⟩
  have hk : Keeps s s := Keeps.refl s
  apply State.issue_keeps
  exact hk

theorem execSynBar_keeps (st : StallId) (s : State) : ∃ u, execSynBar st s = .next u ∧ Keeps s u := by
  unfold execSynBar
  refine ⟨_, rfl, ?_⟩
  have hk : Keeps s s := Keeps.refl s
  apply State.issue_keeps
  exact hk


/-! ### StallOpe -/

theorem execOpeAcc_keeps (st : StallId) (s : State) : ∃ u, execOpeAcc st s = .next u ∧ Keeps s u := by
  unfold execOpeAcc
  refine ⟨_, rfl, ?_⟩
  have hk : Keeps s s := Keeps.refl s
  apply State.issue_keeps
  exact hk

theorem execOpeLddesc_keeps (st : StallId) (s : State) : ∃ u, execOpeLddesc st s = .next u ∧ Keeps s u := by
  unfold execOpeLddesc
  refine ⟨_, rfl, ?_⟩
  have hk : Keeps s s := Keeps.refl s
  apply State.issue_keeps
  exact hk

theorem execOpePreload_keeps (st : StallId) (s : State) : ∃ u, execOpePreload st s = .next u ∧ Keeps s u := by
  unfold execOpePreload
  refine ⟨_, rfl, ?_⟩
  have hk : Keeps s s := Keeps.refl s
  apply State.issue_keeps
  exact hk

theorem execOpeDrain_keeps (st : StallId) (s : State) : ∃ u, execOpeDrain st s = .next u ∧ Keeps s u := by
  unfold execOpeDrain
  refine ⟨_, rfl, ?_⟩
  have hk : Keeps s s := Keeps.refl s
  apply State.issue_keeps
  exact hk

theorem execOpeSave_keeps (st : StallId) (s : State) : ∃ u, execOpeSave st s = .next u ∧ Keeps s u := by
  unfold execOpeSave
  refine ⟨_, rfl, ?_⟩
  have hk : Keeps s s := Keeps.refl s
  apply State.issue_keeps
  exact hk

theorem execOpeRestore_keeps (st : StallId) (s : State) : ∃ u, execOpeRestore st s = .next u ∧ Keeps s u := by
  unfold execOpeRestore
  refine ⟨_, rfl, ?_⟩
  have hk : Keeps s s := Keeps.refl s
  apply State.issue_keeps
  exact hk

theorem execOpeShape_keeps (st : StallId) (s : State) : ∃ u, execOpeShape st s = .next u ∧ Keeps s u := by
  unfold execOpeShape
  refine ⟨_, rfl, ?_⟩
  have hk : Keeps s s := Keeps.refl s
  apply State.issue_keeps
  exact hk

theorem execOpeKeepwarm_keeps (st : StallId) (s : State) : ∃ u, execOpeKeepwarm st s = .next u ∧ Keeps s u := by
  unfold execOpeKeepwarm
  refine ⟨_, rfl, ?_⟩
  have hk : Keeps s s := Keeps.refl s
  apply State.issue_keeps
  exact hk

theorem execResidueVerdict_keeps (st : StallId) (s : State) : ∃ u, execResidueVerdict st s = .next u ∧ Keeps s u := by
  unfold execResidueVerdict
  refine ⟨_, rfl, ?_⟩
  have hk : Keeps s s := Keeps.refl s
  split
  · exact hk
  · apply State.onStall_keeps
    apply State.at__keeps
    exact hk
  · apply State.onStall_keeps
    apply State.at__keeps
    exact hk


/-! ### StallVec -/

theorem execVecOp_keeps (st : StallId) (s : State) : ∃ u, execVecOp st s = .next u ∧ Keeps s u := by
  unfold execVecOp
  refine ⟨_, rfl, ?_⟩
  have hk : Keeps s s := Keeps.refl s
  apply State.issue_keeps
  exact hk

theorem execVecCvt_keeps (st : StallId) (s : State) : ∃ u, execVecCvt st s = .next u ∧ Keeps s u := by
  unfold execVecCvt
  refine ⟨_, rfl, ?_⟩
  have hk : Keeps s s := Keeps.refl s
  apply State.issue_keeps
  exact hk

theorem execVecFunc_keeps (st : StallId) (s : State) : ∃ u, execVecFunc st s = .next u ∧ Keeps s u := by
  unfold execVecFunc
  refine ⟨_, rfl, ?_⟩
  have hk : Keeps s s := Keeps.refl s
  apply State.issue_keeps
  exact hk

theorem execVecDfunc_keeps (st : StallId) (s : State) : ∃ u, execVecDfunc st s = .next u ∧ Keeps s u := by
  unfold execVecDfunc
  refine ⟨_, rfl, ?_⟩
  have hk : Keeps s s := Keeps.refl s
  apply State.issue_keeps
  exact hk

theorem execVecMaskf_keeps (st : StallId) (s : State) : ∃ u, execVecMaskf st s = .next u ∧ Keeps s u := by
  unfold execVecMaskf
  refine ⟨_, rfl, ?_⟩
  have hk : Keeps s s := Keeps.refl s
  apply State.issue_keeps
  exact hk

theorem execVecMaskb_keeps (st : StallId) (s : State) : ∃ u, execVecMaskb st s = .next u ∧ Keeps s u := by
  unfold execVecMaskb
  refine ⟨_, rfl, ?_⟩
  have hk : Keeps s s := Keeps.refl s
  apply State.issue_keeps
  exact hk

theorem execVecDrop_keeps (st : StallId) (s : State) : ∃ u, execVecDrop st s = .next u ∧ Keeps s u := by
  unfold execVecDrop
  refine ⟨_, rfl, ?_⟩
  have hk : Keeps s s := Keeps.refl s
  apply State.issue_keeps
  exact hk

theorem execVecLadd_keeps (st : StallId) (s : State) : ∃ u, execVecLadd st s = .next u ∧ Keeps s u := by
  unfold execVecLadd
  refine ⟨_, rfl, ?_⟩
  have hk : Keeps s s := Keeps.refl s
  apply State.issue_keeps
  exact hk

theorem execVecPack_keeps (st : StallId) (s : State) : ∃ u, execVecPack st s = .next u ∧ Keeps s u := by
  unfold execVecPack
  refine ⟨_, rfl, ?_⟩
  have hk : Keeps s s := Keeps.refl s
  apply State.issue_keeps
  exact hk

theorem execVecUnpack_keeps (st : StallId) (s : State) : ∃ u, execVecUnpack st s = .next u ∧ Keeps s u := by
  unfold execVecUnpack
  refine ⟨_, rfl, ?_⟩
  have hk : Keeps s s := Keeps.refl s
  apply State.issue_keeps
  exact hk

theorem execVecCadd_keeps (st : StallId) (s : State) : ∃ u, execVecCadd st s = .next u ∧ Keeps s u := by
  unfold execVecCadd
  refine ⟨_, rfl, ?_⟩
  have hk : Keeps s s := Keeps.refl s
  apply State.issue_keeps
  exact hk

theorem execVecHist_keeps (st : StallId) (s : State) : ∃ u, execVecHist st s = .next u ∧ Keeps s u := by
  unfold execVecHist
  refine ⟨_, rfl, ?_⟩
  have hk : Keeps s s := Keeps.refl s
  apply State.issue_keeps
  exact hk

theorem execVecHstore_keeps (st : StallId) (s : State) : ∃ u, execVecHstore st s = .next u ∧ Keeps s u := by
  unfold execVecHstore
  refine ⟨_, rfl, ?_⟩
  have hk : Keeps s s := Keeps.refl s
  apply State.issue_keeps
  exact hk

theorem execVecSeta_keeps (st : StallId) (s : State) : ∃ u, execVecSeta st s = .next u ∧ Keeps s u := by
  unfold execVecSeta
  refine ⟨_, rfl, ?_⟩
  have hk : Keeps s s := Keeps.refl s
  apply State.issue_keeps
  exact hk

theorem execVecSetk_keeps (st : StallId) (s : State) : ∃ u, execVecSetk st s = .next u ∧ Keeps s u := by
  unfold execVecSetk
  refine ⟨_, rfl, ?_⟩
  have hk : Keeps s s := Keeps.refl s
  apply State.issue_keeps
  exact hk

theorem execVecSetr_keeps (st : StallId) (s : State) : ∃ u, execVecSetr st s = .next u ∧ Keeps s u := by
  unfold execVecSetr
  refine ⟨_, rfl, ?_⟩
  have hk : Keeps s s := Keeps.refl s
  apply State.issue_keeps
  exact hk

theorem execLaneSelftest_keeps (st : StallId) (agree : Bool) (s : State) : ∃ u, execLaneSelftest st agree s = .next u ∧ Keeps s u := by
  unfold execLaneSelftest
  refine ⟨_, rfl, ?_⟩
  have hk : Keeps s s := Keeps.refl s
  refine Keeps.ite ?_ ?_
  · apply State.onStall_keeps
    exact hk
  · exact hk


/-! ### StallSpd -/

theorem execSpdCopy_keeps (st : StallId) (s : State) : ∃ u, execSpdCopy st s = .next u ∧ Keeps s u := by
  unfold execSpdCopy
  refine ⟨_, rfl, ?_⟩
  have hk : Keeps s s := Keeps.refl s
  apply State.issue_keeps
  exact hk

theorem execSpdFill_keeps (st : StallId) (s : State) : ∃ u, execSpdFill st s = .next u ∧ Keeps s u := by
  unfold execSpdFill
  refine ⟨_, rfl, ?_⟩
  have hk : Keeps s s := Keeps.refl s
  apply State.issue_keeps
  exact hk

theorem execSpdPwr_keeps (st : StallId) (s : State) : ∃ u, execSpdPwr st s = .next u ∧ Keeps s u := by
  unfold execSpdPwr
  refine ⟨_, rfl, ?_⟩
  have hk : Keeps s s := Keeps.refl s
  apply State.issue_keeps
  exact hk

theorem execBankPowerDown_keeps (st : StallId) (bank : Fin 32) (s : State) : ∃ u, execBankPowerDown st bank s = .next u ∧ Keeps s u := by
  unfold execBankPowerDown
  refine ⟨_, rfl, ?_⟩
  have hk : Keeps s s := Keeps.refl s
  split
  · extract_lets y1
    refine Keeps.ite ?_ ?_
    · apply State.onStall_keeps
      apply State.at__keeps
      exact hk
    · exact hk
  · exact hk

theorem execBankPowerDownCancel_keeps (st : StallId) (bank : Fin 32) (s : State) : ∃ u, execBankPowerDownCancel st bank s = .next u ∧ Keeps s u := by
  unfold execBankPowerDownCancel
  refine ⟨_, rfl, ?_⟩
  have hk : Keeps s s := Keeps.refl s
  split
  · extract_lets y1
    refine Keeps.ite ?_ ?_
    · apply State.onStall_keeps
      apply State.at__keeps
      exact hk
    · exact hk
  · exact hk

theorem execBankWakeDone_keeps (st : StallId) (bank : Fin 32) (s : State) : ∃ u, execBankWakeDone st bank s = .next u ∧ Keeps s u := by
  unfold execBankWakeDone
  refine ⟨_, rfl, ?_⟩
  have hk : Keeps s s := Keeps.refl s
  split
  · extract_lets y1
    refine Keeps.ite ?_ ?_
    · apply State.onStall_keeps
      apply State.at__keeps
      exact hk
    · exact hk
  · exact hk

theorem execGatherDrain_keeps (st : StallId) (line : BitVec 16) (s : State) : ∃ u, execGatherDrain st line s = .next u ∧ Keeps s u := by
  unfold execGatherDrain
  refine ⟨_, rfl, ?_⟩
  have hk : Keeps s s := Keeps.refl s
  extract_lets y1
  refine Keeps.ite ?_ ?_
  · apply State.onStall_keeps
    apply State.at__keeps
    exact hk
  · exact hk

theorem execSpdIndirectRead_keeps (st : StallId) (v : Word) (s : State) : ∃ u, execSpdIndirectRead st v s = .next u ∧ Keeps s u := by
  unfold execSpdIndirectRead
  refine ⟨_, rfl, ?_⟩
  have hk : Keeps s s := Keeps.refl s
  extract_lets y1 y2
  refine Keeps.ite ?_ ?_
  · apply State.onStall_keeps
    apply State.writeReg_keeps
    exact hk
  · exact hk

theorem execIndirectReadSample_keeps (st : StallId) (s : State) : ∃ u, execIndirectReadSample st s = .next u ∧ Keeps s u := by
  unfold execIndirectReadSample
  refine ⟨_, rfl, ?_⟩
  have hk : Keeps s s := Keeps.refl s
  extract_lets y1
  refine Keeps.ite ?_ ?_
  · apply State.onStall_keeps
    apply State.at__keeps
    exact hk
  · exact hk

theorem execSpdIndirectWrite_keeps (st : StallId) (v : Word) (s : State) : ∃ u, execSpdIndirectWrite st v s = .next u ∧ Keeps s u := by
  unfold execSpdIndirectWrite
  refine ⟨_, rfl, ?_⟩
  have hk : Keeps s s := Keeps.refl s
  extract_lets y1 y2 y3
  refine Keeps.ite ?_ ?_
  · apply State.onStall_keeps
    apply State.writeReg_keeps
    exact hk
  · exact hk


/-! ### StallStr -/

theorem execStrStart_keeps (st : StallId) (s : State) : ∃ u, execStrStart st s = .next u ∧ Keeps s u := by
  unfold execStrStart
  refine ⟨_, rfl, ?_⟩
  have hk : Keeps s s := Keeps.refl s
  apply State.issue_keeps
  exact hk

theorem execStrHalt_keeps (st : StallId) (s : State) : ∃ u, execStrHalt st s = .next u ∧ Keeps s u := by
  unfold execStrHalt
  refine ⟨_, rfl, ?_⟩
  have hk : Keeps s s := Keeps.refl s
  apply State.issue_keeps
  exact hk

theorem execStrPony_keeps (st : StallId) (s : State) : ∃ u, execStrPony st s = .next u ∧ Keeps s u := by
  unfold execStrPony
  refine ⟨_, rfl, ?_⟩
  have hk : Keeps s s := Keeps.refl s
  apply State.issue_keeps
  exact hk

theorem execStrSetctx_keeps (st : StallId) (s : State) : ∃ u, execStrSetctx st s = .next u ∧ Keeps s u := by
  unfold execStrSetctx
  refine ⟨_, rfl, ?_⟩
  have hk : Keeps s s := Keeps.refl s
  apply State.issue_keeps
  exact hk


/-! ### Hbm -/

theorem State.failureEvent_keeps {s0 s : State} {k : Nat} (hk : Keeps s0 s) : Keeps s0 (s.failureEvent k) := by
  unfold State.failureEvent
  extract_lets y1 y2
  have hy1 : Keeps s0 y2 := by
    subst y2
    refine Keeps.upd ?_ rfl rfl rfl rfl rfl
    exact hk
  clear_value y2
  apply State.bump_keeps
  exact hy1

theorem State.recordUnit_keeps {s0 s : State} {j a flag : Nat} (hk : Keeps s0 s) : Keeps s0 (s.recordUnit j a flag) := by
  unfold State.recordUnit
  extract_lets y1 y2 y3
  have hy1 : Keeps s0 y2 := by
    subst y2
    apply State.setReg_keeps
    apply State.setReg_keeps
    exact hk
  clear_value y2
  have hy2 : Keeps s0 y3 := by
    subst y3
    refine Keeps.ite ?_ ?_
    · exact hk
    · apply State.setField_keeps
      exact hy1
  clear_value y3
  apply State.setBit_keeps
  exact hy2

theorem State.uncorrectable_keeps {s0 s : State} {j a x : Nat} (hk : Keeps s0 s) : Keeps s0 (s.uncorrectable j a x) := by
  unfold State.uncorrectable
  extract_lets y1 y2 y3
  have hy1 : Keeps s0 y1 := by
    subst y1
    apply State.bump_keeps
    exact hk
  clear_value y1
  have hy2 : Keeps s0 y2 := by
    subst y2
    apply State.event_keeps
    exact hy1
  clear_value y2
  have hy3 : Keeps s0 y3 := by
    subst y3
    apply State.recordUnit_keeps
    exact hy2
  clear_value y3
  refine Keeps.ite ?_ ?_
  · apply State.failureEvent_keeps
    exact hy3
  · exact hy3

theorem State.correction_keeps {s0 s : State} {j a x : Nat} (hk : Keeps s0 s) : Keeps s0 (s.correction j a x) := by
  unfold State.correction
  extract_lets y1 y2
  have hy1 : Keeps s0 y1 := by
    subst y1
    apply State.setBit_keeps
    apply State.bump_keeps
    exact hk
  clear_value y1
  refine Keeps.ite ?_ ?_
  · exact hy1
  · apply State.event_keeps
    refine Keeps.upd ?_ rfl rfl rfl rfl rfl
    exact hy1

theorem State.enlist_keeps {s0 s : State} {j a : Nat} (hk : Keeps s0 s) : Keeps s0 (s.enlist j a) := by
  unfold State.enlist
  extract_lets y1
  refine Keeps.ite ?_ ?_
  · exact hk
  · refine Keeps.ite ?_ ?_
    · apply State.setField_keeps
      apply State.setStack_keeps
      exact hk
    · apply State.setBit_keeps
      exact hk

/-- A change of HBM. -/
theorem Keeps.hbm {s0 s : State} {m : Memory} {b : Sparse BadUnit} (h : Keeps s0 s) (hm : s.hbm.wf = true → m.wf = true) :
    Keeps s0 { s with hbm := m, bad := b } :=
  h.trans ⟨rfl, le_rfl, fun k => ⟨hm k.1, k.2⟩, id, fun _ h => h, le_rfl, List.prefix_rfl, le_rfl⟩

theorem State.encodeUnit_keeps {s0 s : State} {j a : Nat} {bs : List Byte} (h : Keeps s0 s) : Keeps s0 (s.encodeUnit j a bs) :=
  h.hbm (Memory.wf_write _ _)

theorem State.readUnit_keeps {s0 s : State} {j a x : Nat} (hk : Keeps s0 s) : Keeps s0 (s.readUnit j a x).1 := by
  unfold State.readUnit
  split
  split
  · dsimp only
    exact hk
  · dsimp only
    apply State.enlist_keeps
    apply State.correction_keeps
    exact hk
  · dsimp only
    apply State.uncorrectable_keeps
    exact hk

theorem State.readUnits_keeps {s0 s : State} {j x a n : Nat} (h : Keeps s0 s) : Keeps s0 (s.readUnits j x a n).1 := by
  induction n generalizing s a with
  | zero => exact h
  | succ n ih => exact ih (State.readUnit_keeps h)

theorem State.readStack_keeps {s0 s : State} {j a n x : Nat} (hk : Keeps s0 s) : Keeps s0 (s.readStack j a n x).1 := by
  unfold State.readStack
  extract_lets y1
  split
  dsimp only
  refine Keeps.ofEq (by assumption) ?_
  apply State.readUnits_keeps
  exact hk

theorem State.writeUnit_keeps {s0 s : State} {j a x : Nat} {bs : List Byte} {sched : Bool} (hk : Keeps s0 s) : Keeps s0 (s.writeUnit j a x bs sched) := by
  unfold State.writeUnit
  extract_lets y1 y2
  have hy1 : Keeps s0 y1 := by
    subst y1
    apply State.uncorrectable_keeps
    exact hk
  clear_value y1
  have hy2 : Keeps s0 y2 := by
    subst y2
    refine Keeps.upd ?_ rfl rfl rfl rfl rfl
    exact hy1
  clear_value y2
  refine Keeps.ite ?_ ?_
  · apply State.encodeUnit_keeps
    exact hk
  · split
    split
    · apply State.encodeUnit_keeps
      exact hk
    · apply State.encodeUnit_keeps
      apply State.correction_keeps
      exact hk
    · refine Keeps.ite ?_ ?_
      · apply State.failShot_keeps
        exact hy2
      · exact hy2

theorem State.writeUnits_keeps {s0 s : State} {j x : Nat} {sched : Bool} {n a : Nat} {bs : List Byte} (h : Keeps s0 s) :
    Keeps s0 (s.writeUnits j x sched n a bs) := by
  induction n generalizing s a bs with
  | zero => exact h
  | succ n ih =>
    unfold State.writeUnits
    exact Keeps.ite h (ih (State.writeUnit_keeps h))

theorem State.writeStack_keeps {s0 s : State} {j a x : Nat} {bs : List Byte} {sched : Bool} (hk : Keeps s0 s) : Keeps s0 (s.writeStack j a x bs sched) := by
  unfold State.writeStack
  apply State.writeUnits_keeps
  exact hk

theorem State.ponyClear_keeps {s0 s : State} {j a n : Nat} (hk : Keeps s0 s) : Keeps s0 (s.ponyClear j a n) := by
  unfold State.ponyClear
  extract_lets y1 y2
  apply State.setStack_keeps
  exact hk

theorem State.readMem_keeps {s0 s : State} {a n x : Nat} (hk : Keeps s0 s) : Keeps s0 (s.readMem a n x).1 := by
  unfold State.readMem
  refine Keeps.foldl1 _ ?_ (fun a1 b1 k1 => ?_)
  · dsimp only
    exact hk
  · split
    split
    · split
      dsimp only
      refine Keeps.ofEq (by assumption) ?_
      apply State.readStack_keeps
      exact k1
    · dsimp only
      exact k1

theorem State.readMarked_keeps {s0 s : State} {a n x : Nat} (hk : Keeps s0 s) : Keeps s0 (s.readMarked a n x).1 := by
  unfold State.readMarked
  refine Keeps.foldl1 _ ?_ (fun a1 b1 k1 => ?_)
  · dsimp only
    exact hk
  · split
    split
    · split
      dsimp only
      refine Keeps.ofEq (by assumption) ?_
      apply State.readStack_keeps
      exact k1
    · dsimp only
      exact k1

theorem State.readFree_keeps {s0 s : State} {a n x : Nat} (hk : Keeps s0 s) : Keeps s0 (s.readFree a n x).1 := by
  unfold State.readFree
  split
  split
  dsimp only
  refine Keeps.ofEq (by assumption) ?_
  apply State.fresh_keeps
  refine Keeps.ofEq (by assumption) ?_
  apply State.readMarked_keeps
  exact hk

theorem State.writeMem_keeps {s0 s : State} {a x : Nat} {bs : List Byte} {sched : Bool} (hk : Keeps s0 s) : Keeps s0 (s.writeMem a x bs sched) := by
  unfold State.writeMem
  refine Keeps.foldl1 _ ?_ (fun a1 b1 k1 => ?_)
  · dsimp only
    exact hk
  · split
    extract_lets y1
    have hy1 : Keeps s0 y1 := by
      subst y1
      split
      · apply State.writeStack_keeps
        apply State.ponyClear_keeps
        exact k1
      · exact k1
    clear_value y1
    dsimp only
    exact hy1


/-! ### Loft -/

theorem State.loftSettle_keeps {s0 s : State} (hk : Keeps s0 s) : Keeps s0 (s.loftSettle) := by
  unfold State.loftSettle
  extract_lets y1 y2
  refine Keeps.upd ?_ rfl rfl rfl rfl rfl
  exact hk

theorem State.sendFar_keeps {s0 s : State} {f : Frame} (hk : Keeps s0 s) : Keeps s0 (s.sendFar f) := by
  unfold State.sendFar
  split
  · apply State.emit_keeps
    exact hk
  · exact hk

theorem State.readReq_keeps {s0 s : State} {e : List Byte} {off len : Nat} (hk : Keeps s0 s) : Keeps s0 (s.readReq e off len) := by
  unfold State.readReq
  extract_lets y1 y2
  apply State.sendFar_keeps
  refine Keeps.upd ?_ rfl rfl rfl rfl rfl
  exact hk

theorem State.askCopy_keeps {s0 s : State} {p : Nat} (hk : Keeps s0 s) : Keeps s0 (s.askCopy p) := by
  unfold State.askCopy
  extract_lets y1 y2 y3
  split
  · refine Keeps.ite ?_ ?_
    · apply State.emit_keeps
      exact hk
    · exact hk
  · refine Keeps.ite ?_ ?_
    · apply State.emit_keeps
      refine Keeps.upd ?_ rfl rfl rfl rfl rfl
      exact hk
    · exact hk
  · refine Keeps.foldl _ ?_ (fun a1 b1 k1 => ?_)
    · exact hk
    · apply State.readReq_keeps
      exact k1
  · exact hk

theorem State.promote_keeps {s0 s : State} {who : Holder} {p : Nat} (hk : Keeps s0 s) : Keeps s0 (s.promote who p) := by
  unfold State.promote
  extract_lets y1 y2 y3 y4
  split
  · extract_lets y5
    have hy1 : Keeps s0 y5 := by
      subst y5
      refine Keeps.upd ?_ rfl rfl rfl rfl rfl
      exact hk
    clear_value y5
    refine Keeps.ite ?_ ?_
    · apply State.modStall_keeps
      exact hy1
    · exact hy1
  · refine Keeps.ite ?_ ?_
    · exact hk
    · split
      extract_lets y6 y7 y8 y9 y10
      have hy2 : Keeps s0 y6 := by
        subst y6
        refine Keeps.upd ?_ rfl rfl rfl rfl rfl
        exact hk
      clear_value y6
      have hy3 : Keeps s0 y8 := by
        subst y8
        refine Keeps.upd ?_ rfl rfl rfl rfl rfl
        exact hy2
      clear_value y8
      have hy4 : Keeps s0 y9 := by
        subst y9
        refine Keeps.ite ?_ ?_
        · exact hy3
        · apply State.modStall_keeps
          exact hy3
      clear_value y9
      split
      · apply State.askCopy_keeps
        refine Keeps.upd ?_ rfl rfl rfl rfl rfl
        exact hy2
      · refine Keeps.ite ?_ ?_
        · exact hy4
        · apply State.event_keeps
          refine Keeps.upd ?_ rfl rfl rfl rfl rfl
          exact hy4

theorem execLoftPromotionRequest_keeps (s : State) : ∃ u, execLoftPromotionRequest s = .next u ∧ Keeps s u := by
  unfold execLoftPromotionRequest
  refine ⟨_, rfl, ?_⟩
  have hk : Keeps s s := Keeps.refl s
  extract_lets y1 y2
  have hy1 : Keeps s y1 := by
    subst y1
    apply State.loftSettle_keeps
    exact hk
  clear_value y1
  split
  · exact hy1
  · apply State.promote_keeps
    refine Keeps.upd ?_ rfl rfl rfl rfl rfl
    exact hy1

theorem execPromotionCopyDone_keeps (page : Nat) (data : List Byte) (s : State) : ∃ u, execPromotionCopyDone page data s = .next u ∧ Keeps s u := by
  unfold execPromotionCopyDone
  refine ⟨_, rfl, ?_⟩
  have hk : Keeps s s := Keeps.refl s
  extract_lets y1
  have hy1 : Keeps s y1 := by
    subst y1
    apply State.loftSettle_keeps
    exact hk
  clear_value y1
  split
  · exact hy1
  · extract_lets y2 y3 y4 y5
    have hy2 : Keeps s y3 := by
      subst y3
      apply State.writeMem_keeps
      exact hy1
    clear_value y3
    have hy3 : Keeps s y5 := by
      subst y5
      refine Keeps.upd ?_ rfl rfl rfl rfl rfl
      exact hy2
    clear_value y5
    refine Keeps.ite ?_ ?_
    · exact hy1
    · refine Keeps.foldl _ ?_ (fun a1 b1 k1 => ?_)
      · exact hy3
      · apply State.modStall_keeps
        exact k1

end Sys2Proof.Machine
end

