-- ==== Sys2Proof/Laws/State.lean ====
section
/-!
SUPPORT. What each operation that changes one part of the state leaves in every field, and what reads give after writes.
-/
namespace Sys2Proof.Machine

/-! ### at_ -/

@[simp] theorem State.at__pending (s : State) (x : Nat) : (s.at_ x).pending = s.pending := rfl
@[simp] theorem State.at__cyc (s : State) (x : Nat) : (s.at_ x).cyc = max s.cyc x := rfl
@[simp] theorem State.at__off (s : State) (x : Nat) : (s.at_ x).off = s.off := rfl
@[simp] theorem State.at__regs (s : State) (x : Nat) : (s.at_ x).regs = s.regs := rfl
@[simp] theorem State.at__hold (s : State) (x : Nat) : (s.at_ x).hold = s.hold := rfl
@[simp] theorem State.at__sets (s : State) (x : Nat) : (s.at_ x).sets = s.sets := rfl
@[simp] theorem State.at__cdc (s : State) (x : Nat) : (s.at_ x).cdc = s.cdc := rfl
@[simp] theorem State.at__stalls (s : State) (x : Nat) : (s.at_ x).stalls = s.stalls := rfl
@[simp] theorem State.at__barns (s : State) (x : Nat) : (s.at_ x).barns = s.barns := rfl
@[simp] theorem State.at__dies (s : State) (x : Nat) : (s.at_ x).dies = s.dies := rfl
@[simp] theorem State.at__hbm (s : State) (x : Nat) : (s.at_ x).hbm = s.hbm := rfl
@[simp] theorem State.at__bad (s : State) (x : Nat) : (s.at_ x).bad = s.bad := rfl
@[simp] theorem State.at__far (s : State) (x : Nat) : (s.at_ x).far = s.far := rfl
@[simp] theorem State.at__log (s : State) (x : Nat) : (s.at_ x).log = s.log := rfl
@[simp] theorem State.at__shot (s : State) (x : Nat) : (s.at_ x).shot = s.shot := rfl
@[simp] theorem State.at__safe (s : State) (x : Nat) : (s.at_ x).safe = s.safe := rfl
@[simp] theorem State.at__train (s : State) (x : Nat) : (s.at_ x).train = s.train := rfl
@[simp] theorem State.at__ckpt (s : State) (x : Nat) : (s.at_ x).ckpt = s.ckpt := rfl
@[simp] theorem State.at__fab (s : State) (x : Nat) : (s.at_ x).fab = s.fab := rfl
@[simp] theorem State.at__host (s : State) (x : Nat) : (s.at_ x).host = s.host := rfl
@[simp] theorem State.at__flash (s : State) (x : Nat) : (s.at_ x).flash = s.flash := rfl
@[simp] theorem State.at__sec (s : State) (x : Nat) : (s.at_ x).sec = s.sec := rfl
@[simp] theorem State.at__boot (s : State) (x : Nat) : (s.at_ x).boot = s.boot := rfl
@[simp] theorem State.at__power (s : State) (x : Nat) : (s.at_ x).power = s.power := rfl
@[simp] theorem State.at__free (s : State) (x : Nat) : (s.at_ x).free = s.free := rfl
@[simp] theorem State.at__out (s : State) (x : Nat) : (s.at_ x).out = s.out := rfl

/-! ### idle -/

@[simp] theorem State.idle_pending (s : State) : (s.idle).pending = s.pending := rfl
@[simp] theorem State.idle_cyc (s : State) : (s.idle).cyc = s.cyc + 1 := rfl
@[simp] theorem State.idle_off (s : State) : (s.idle).off = s.off := rfl
@[simp] theorem State.idle_regs (s : State) : (s.idle).regs = s.regs := rfl
@[simp] theorem State.idle_hold (s : State) : (s.idle).hold = s.hold := rfl
@[simp] theorem State.idle_sets (s : State) : (s.idle).sets = s.sets := rfl
@[simp] theorem State.idle_cdc (s : State) : (s.idle).cdc = s.cdc := rfl
@[simp] theorem State.idle_stalls (s : State) : (s.idle).stalls = s.stalls := rfl
@[simp] theorem State.idle_barns (s : State) : (s.idle).barns = s.barns := rfl
@[simp] theorem State.idle_dies (s : State) : (s.idle).dies = s.dies := rfl
@[simp] theorem State.idle_hbm (s : State) : (s.idle).hbm = s.hbm := rfl
@[simp] theorem State.idle_bad (s : State) : (s.idle).bad = s.bad := rfl
@[simp] theorem State.idle_far (s : State) : (s.idle).far = s.far := rfl
@[simp] theorem State.idle_log (s : State) : (s.idle).log = s.log := rfl
@[simp] theorem State.idle_shot (s : State) : (s.idle).shot = s.shot := rfl
@[simp] theorem State.idle_safe (s : State) : (s.idle).safe = s.safe := rfl
@[simp] theorem State.idle_train (s : State) : (s.idle).train = s.train := rfl
@[simp] theorem State.idle_ckpt (s : State) : (s.idle).ckpt = s.ckpt := rfl
@[simp] theorem State.idle_fab (s : State) : (s.idle).fab = s.fab := rfl
@[simp] theorem State.idle_host (s : State) : (s.idle).host = s.host := rfl
@[simp] theorem State.idle_flash (s : State) : (s.idle).flash = s.flash := rfl
@[simp] theorem State.idle_sec (s : State) : (s.idle).sec = s.sec := rfl
@[simp] theorem State.idle_boot (s : State) : (s.idle).boot = s.boot := rfl
@[simp] theorem State.idle_power (s : State) : (s.idle).power = s.power := rfl
@[simp] theorem State.idle_free (s : State) : (s.idle).free = s.free := rfl
@[simp] theorem State.idle_out (s : State) : (s.idle).out = s.out := rfl

/-! ### setReg -/

@[simp] theorem State.setReg_pending (s : State) (a v : Nat) : (s.setReg a v).pending = s.pending := rfl
@[simp] theorem State.setReg_cyc (s : State) (a v : Nat) : (s.setReg a v).cyc = s.cyc := rfl
@[simp] theorem State.setReg_off (s : State) (a v : Nat) : (s.setReg a v).off = s.off := rfl
@[simp] theorem State.setReg_regs (s : State) (a v : Nat) : (s.setReg a v).regs = s.regs.set a v := rfl
@[simp] theorem State.setReg_hold (s : State) (a v : Nat) : (s.setReg a v).hold = s.hold := rfl
@[simp] theorem State.setReg_sets (s : State) (a v : Nat) : (s.setReg a v).sets = s.sets := rfl
@[simp] theorem State.setReg_cdc (s : State) (a v : Nat) : (s.setReg a v).cdc = s.cdc := rfl
@[simp] theorem State.setReg_stalls (s : State) (a v : Nat) : (s.setReg a v).stalls = s.stalls := rfl
@[simp] theorem State.setReg_barns (s : State) (a v : Nat) : (s.setReg a v).barns = s.barns := rfl
@[simp] theorem State.setReg_dies (s : State) (a v : Nat) : (s.setReg a v).dies = s.dies := rfl
@[simp] theorem State.setReg_hbm (s : State) (a v : Nat) : (s.setReg a v).hbm = s.hbm := rfl
@[simp] theorem State.setReg_bad (s : State) (a v : Nat) : (s.setReg a v).bad = s.bad := rfl
@[simp] theorem State.setReg_far (s : State) (a v : Nat) : (s.setReg a v).far = s.far := rfl
@[simp] theorem State.setReg_log (s : State) (a v : Nat) : (s.setReg a v).log = s.log := rfl
@[simp] theorem State.setReg_shot (s : State) (a v : Nat) : (s.setReg a v).shot = s.shot := rfl
@[simp] theorem State.setReg_safe (s : State) (a v : Nat) : (s.setReg a v).safe = s.safe := rfl
@[simp] theorem State.setReg_train (s : State) (a v : Nat) : (s.setReg a v).train = s.train := rfl
@[simp] theorem State.setReg_ckpt (s : State) (a v : Nat) : (s.setReg a v).ckpt = s.ckpt := rfl
@[simp] theorem State.setReg_fab (s : State) (a v : Nat) : (s.setReg a v).fab = s.fab := rfl
@[simp] theorem State.setReg_host (s : State) (a v : Nat) : (s.setReg a v).host = s.host := rfl
@[simp] theorem State.setReg_flash (s : State) (a v : Nat) : (s.setReg a v).flash = s.flash := rfl
@[simp] theorem State.setReg_sec (s : State) (a v : Nat) : (s.setReg a v).sec = s.sec := rfl
@[simp] theorem State.setReg_boot (s : State) (a v : Nat) : (s.setReg a v).boot = s.boot := rfl
@[simp] theorem State.setReg_power (s : State) (a v : Nat) : (s.setReg a v).power = s.power := rfl
@[simp] theorem State.setReg_free (s : State) (a v : Nat) : (s.setReg a v).free = s.free := rfl
@[simp] theorem State.setReg_out (s : State) (a v : Nat) : (s.setReg a v).out = s.out := rfl

/-! ### setField -/

@[simp] theorem State.setField_pending (s : State) (a hi lo v : Nat) : (s.setField a hi lo v).pending = s.pending := rfl
@[simp] theorem State.setField_cyc (s : State) (a hi lo v : Nat) : (s.setField a hi lo v).cyc = s.cyc := rfl
@[simp] theorem State.setField_off (s : State) (a hi lo v : Nat) : (s.setField a hi lo v).off = s.off := rfl
@[simp] theorem State.setField_regs (s : State) (a hi lo v : Nat) : (s.setField a hi lo v).regs = s.regs.setField a hi lo v := rfl
@[simp] theorem State.setField_hold (s : State) (a hi lo v : Nat) : (s.setField a hi lo v).hold = s.hold := rfl
@[simp] theorem State.setField_sets (s : State) (a hi lo v : Nat) : (s.setField a hi lo v).sets = s.sets := rfl
@[simp] theorem State.setField_cdc (s : State) (a hi lo v : Nat) : (s.setField a hi lo v).cdc = s.cdc := rfl
@[simp] theorem State.setField_stalls (s : State) (a hi lo v : Nat) : (s.setField a hi lo v).stalls = s.stalls := rfl
@[simp] theorem State.setField_barns (s : State) (a hi lo v : Nat) : (s.setField a hi lo v).barns = s.barns := rfl
@[simp] theorem State.setField_dies (s : State) (a hi lo v : Nat) : (s.setField a hi lo v).dies = s.dies := rfl
@[simp] theorem State.setField_hbm (s : State) (a hi lo v : Nat) : (s.setField a hi lo v).hbm = s.hbm := rfl
@[simp] theorem State.setField_bad (s : State) (a hi lo v : Nat) : (s.setField a hi lo v).bad = s.bad := rfl
@[simp] theorem State.setField_far (s : State) (a hi lo v : Nat) : (s.setField a hi lo v).far = s.far := rfl
@[simp] theorem State.setField_log (s : State) (a hi lo v : Nat) : (s.setField a hi lo v).log = s.log := rfl
@[simp] theorem State.setField_shot (s : State) (a hi lo v : Nat) : (s.setField a hi lo v).shot = s.shot := rfl
@[simp] theorem State.setField_safe (s : State) (a hi lo v : Nat) : (s.setField a hi lo v).safe = s.safe := rfl
@[simp] theorem State.setField_train (s : State) (a hi lo v : Nat) : (s.setField a hi lo v).train = s.train := rfl
@[simp] theorem State.setField_ckpt (s : State) (a hi lo v : Nat) : (s.setField a hi lo v).ckpt = s.ckpt := rfl
@[simp] theorem State.setField_fab (s : State) (a hi lo v : Nat) : (s.setField a hi lo v).fab = s.fab := rfl
@[simp] theorem State.setField_host (s : State) (a hi lo v : Nat) : (s.setField a hi lo v).host = s.host := rfl
@[simp] theorem State.setField_flash (s : State) (a hi lo v : Nat) : (s.setField a hi lo v).flash = s.flash := rfl
@[simp] theorem State.setField_sec (s : State) (a hi lo v : Nat) : (s.setField a hi lo v).sec = s.sec := rfl
@[simp] theorem State.setField_boot (s : State) (a hi lo v : Nat) : (s.setField a hi lo v).boot = s.boot := rfl
@[simp] theorem State.setField_power (s : State) (a hi lo v : Nat) : (s.setField a hi lo v).power = s.power := rfl
@[simp] theorem State.setField_free (s : State) (a hi lo v : Nat) : (s.setField a hi lo v).free = s.free := rfl
@[simp] theorem State.setField_out (s : State) (a hi lo v : Nat) : (s.setField a hi lo v).out = s.out := rfl

/-! ### setBit -/

@[simp] theorem State.setBit_pending (s : State) (a i : Nat) : (s.setBit a i).pending = s.pending := rfl
@[simp] theorem State.setBit_cyc (s : State) (a i : Nat) : (s.setBit a i).cyc = s.cyc := rfl
@[simp] theorem State.setBit_off (s : State) (a i : Nat) : (s.setBit a i).off = s.off := rfl
@[simp] theorem State.setBit_regs (s : State) (a i : Nat) : (s.setBit a i).regs = s.regs.set a (orBit (s.reg a) i) := rfl
@[simp] theorem State.setBit_hold (s : State) (a i : Nat) : (s.setBit a i).hold = s.hold := rfl
@[simp] theorem State.setBit_sets (s : State) (a i : Nat) : (s.setBit a i).sets = (a, i, s.cyc) :: s.sets.filter fun q => decide (q.2.2 = s.cyc ∧ ¬(q.1 = a ∧ q.2.1 = i)) := rfl
@[simp] theorem State.setBit_cdc (s : State) (a i : Nat) : (s.setBit a i).cdc = s.cdc := rfl
@[simp] theorem State.setBit_stalls (s : State) (a i : Nat) : (s.setBit a i).stalls = s.stalls := rfl
@[simp] theorem State.setBit_barns (s : State) (a i : Nat) : (s.setBit a i).barns = s.barns := rfl
@[simp] theorem State.setBit_dies (s : State) (a i : Nat) : (s.setBit a i).dies = s.dies := rfl
@[simp] theorem State.setBit_hbm (s : State) (a i : Nat) : (s.setBit a i).hbm = s.hbm := rfl
@[simp] theorem State.setBit_bad (s : State) (a i : Nat) : (s.setBit a i).bad = s.bad := rfl
@[simp] theorem State.setBit_far (s : State) (a i : Nat) : (s.setBit a i).far = s.far := rfl
@[simp] theorem State.setBit_log (s : State) (a i : Nat) : (s.setBit a i).log = s.log := rfl
@[simp] theorem State.setBit_shot (s : State) (a i : Nat) : (s.setBit a i).shot = s.shot := rfl
@[simp] theorem State.setBit_safe (s : State) (a i : Nat) : (s.setBit a i).safe = s.safe := rfl
@[simp] theorem State.setBit_train (s : State) (a i : Nat) : (s.setBit a i).train = s.train := rfl
@[simp] theorem State.setBit_ckpt (s : State) (a i : Nat) : (s.setBit a i).ckpt = s.ckpt := rfl
@[simp] theorem State.setBit_fab (s : State) (a i : Nat) : (s.setBit a i).fab = s.fab := rfl
@[simp] theorem State.setBit_host (s : State) (a i : Nat) : (s.setBit a i).host = s.host := rfl
@[simp] theorem State.setBit_flash (s : State) (a i : Nat) : (s.setBit a i).flash = s.flash := rfl
@[simp] theorem State.setBit_sec (s : State) (a i : Nat) : (s.setBit a i).sec = s.sec := rfl
@[simp] theorem State.setBit_boot (s : State) (a i : Nat) : (s.setBit a i).boot = s.boot := rfl
@[simp] theorem State.setBit_power (s : State) (a i : Nat) : (s.setBit a i).power = s.power := rfl
@[simp] theorem State.setBit_free (s : State) (a i : Nat) : (s.setBit a i).free = s.free := rfl
@[simp] theorem State.setBit_out (s : State) (a i : Nat) : (s.setBit a i).out = s.out := rfl

/-! ### bump -/

@[simp] theorem State.bump_pending (s : State) (a hi lo k : Nat) : (s.bump a hi lo k).pending = s.pending := rfl
@[simp] theorem State.bump_cyc (s : State) (a hi lo k : Nat) : (s.bump a hi lo k).cyc = s.cyc := rfl
@[simp] theorem State.bump_off (s : State) (a hi lo k : Nat) : (s.bump a hi lo k).off = s.off := rfl
@[simp] theorem State.bump_regs (s : State) (a hi lo k : Nat) : (s.bump a hi lo k).regs = s.regs.count a hi lo k := rfl
@[simp] theorem State.bump_hold (s : State) (a hi lo k : Nat) : (s.bump a hi lo k).hold = s.hold := rfl
@[simp] theorem State.bump_sets (s : State) (a hi lo k : Nat) : (s.bump a hi lo k).sets = s.sets := rfl
@[simp] theorem State.bump_cdc (s : State) (a hi lo k : Nat) : (s.bump a hi lo k).cdc = s.cdc := rfl
@[simp] theorem State.bump_stalls (s : State) (a hi lo k : Nat) : (s.bump a hi lo k).stalls = s.stalls := rfl
@[simp] theorem State.bump_barns (s : State) (a hi lo k : Nat) : (s.bump a hi lo k).barns = s.barns := rfl
@[simp] theorem State.bump_dies (s : State) (a hi lo k : Nat) : (s.bump a hi lo k).dies = s.dies := rfl
@[simp] theorem State.bump_hbm (s : State) (a hi lo k : Nat) : (s.bump a hi lo k).hbm = s.hbm := rfl
@[simp] theorem State.bump_bad (s : State) (a hi lo k : Nat) : (s.bump a hi lo k).bad = s.bad := rfl
@[simp] theorem State.bump_far (s : State) (a hi lo k : Nat) : (s.bump a hi lo k).far = s.far := rfl
@[simp] theorem State.bump_log (s : State) (a hi lo k : Nat) : (s.bump a hi lo k).log = s.log := rfl
@[simp] theorem State.bump_shot (s : State) (a hi lo k : Nat) : (s.bump a hi lo k).shot = s.shot := rfl
@[simp] theorem State.bump_safe (s : State) (a hi lo k : Nat) : (s.bump a hi lo k).safe = s.safe := rfl
@[simp] theorem State.bump_train (s : State) (a hi lo k : Nat) : (s.bump a hi lo k).train = s.train := rfl
@[simp] theorem State.bump_ckpt (s : State) (a hi lo k : Nat) : (s.bump a hi lo k).ckpt = s.ckpt := rfl
@[simp] theorem State.bump_fab (s : State) (a hi lo k : Nat) : (s.bump a hi lo k).fab = s.fab := rfl
@[simp] theorem State.bump_host (s : State) (a hi lo k : Nat) : (s.bump a hi lo k).host = s.host := rfl
@[simp] theorem State.bump_flash (s : State) (a hi lo k : Nat) : (s.bump a hi lo k).flash = s.flash := rfl
@[simp] theorem State.bump_sec (s : State) (a hi lo k : Nat) : (s.bump a hi lo k).sec = s.sec := rfl
@[simp] theorem State.bump_boot (s : State) (a hi lo k : Nat) : (s.bump a hi lo k).boot = s.boot := rfl
@[simp] theorem State.bump_power (s : State) (a hi lo k : Nat) : (s.bump a hi lo k).power = s.power := rfl
@[simp] theorem State.bump_free (s : State) (a hi lo k : Nat) : (s.bump a hi lo k).free = s.free := rfl
@[simp] theorem State.bump_out (s : State) (a hi lo k : Nat) : (s.bump a hi lo k).out = s.out := rfl

/-! ### setStall -/

@[simp] theorem State.setStall_pending (s : State) (i : Nat) (t : Stall) : (s.setStall i t).pending = s.pending := rfl
@[simp] theorem State.setStall_cyc (s : State) (i : Nat) (t : Stall) : (s.setStall i t).cyc = s.cyc := rfl
@[simp] theorem State.setStall_off (s : State) (i : Nat) (t : Stall) : (s.setStall i t).off = s.off := rfl
@[simp] theorem State.setStall_regs (s : State) (i : Nat) (t : Stall) : (s.setStall i t).regs = s.regs := rfl
@[simp] theorem State.setStall_hold (s : State) (i : Nat) (t : Stall) : (s.setStall i t).hold = s.hold := rfl
@[simp] theorem State.setStall_sets (s : State) (i : Nat) (t : Stall) : (s.setStall i t).sets = s.sets := rfl
@[simp] theorem State.setStall_cdc (s : State) (i : Nat) (t : Stall) : (s.setStall i t).cdc = s.cdc := rfl
@[simp] theorem State.setStall_stalls (s : State) (i : Nat) (t : Stall) : (s.setStall i t).stalls = sset zeroStall s.stalls i t := rfl
@[simp] theorem State.setStall_barns (s : State) (i : Nat) (t : Stall) : (s.setStall i t).barns = s.barns := rfl
@[simp] theorem State.setStall_dies (s : State) (i : Nat) (t : Stall) : (s.setStall i t).dies = s.dies := rfl
@[simp] theorem State.setStall_hbm (s : State) (i : Nat) (t : Stall) : (s.setStall i t).hbm = s.hbm := rfl
@[simp] theorem State.setStall_bad (s : State) (i : Nat) (t : Stall) : (s.setStall i t).bad = s.bad := rfl
@[simp] theorem State.setStall_far (s : State) (i : Nat) (t : Stall) : (s.setStall i t).far = s.far := rfl
@[simp] theorem State.setStall_log (s : State) (i : Nat) (t : Stall) : (s.setStall i t).log = s.log := rfl
@[simp] theorem State.setStall_shot (s : State) (i : Nat) (t : Stall) : (s.setStall i t).shot = s.shot := rfl
@[simp] theorem State.setStall_safe (s : State) (i : Nat) (t : Stall) : (s.setStall i t).safe = s.safe := rfl
@[simp] theorem State.setStall_train (s : State) (i : Nat) (t : Stall) : (s.setStall i t).train = s.train := rfl
@[simp] theorem State.setStall_ckpt (s : State) (i : Nat) (t : Stall) : (s.setStall i t).ckpt = s.ckpt := rfl
@[simp] theorem State.setStall_fab (s : State) (i : Nat) (t : Stall) : (s.setStall i t).fab = s.fab := rfl
@[simp] theorem State.setStall_host (s : State) (i : Nat) (t : Stall) : (s.setStall i t).host = s.host := rfl
@[simp] theorem State.setStall_flash (s : State) (i : Nat) (t : Stall) : (s.setStall i t).flash = s.flash := rfl
@[simp] theorem State.setStall_sec (s : State) (i : Nat) (t : Stall) : (s.setStall i t).sec = s.sec := rfl
@[simp] theorem State.setStall_boot (s : State) (i : Nat) (t : Stall) : (s.setStall i t).boot = s.boot := rfl
@[simp] theorem State.setStall_power (s : State) (i : Nat) (t : Stall) : (s.setStall i t).power = s.power := rfl
@[simp] theorem State.setStall_free (s : State) (i : Nat) (t : Stall) : (s.setStall i t).free = s.free := rfl
@[simp] theorem State.setStall_out (s : State) (i : Nat) (t : Stall) : (s.setStall i t).out = s.out := rfl

/-! ### modStall -/

@[simp] theorem State.modStall_pending (s : State) (i : Nat) (f : Stall → Stall) : (s.modStall i f).pending = s.pending := rfl
@[simp] theorem State.modStall_cyc (s : State) (i : Nat) (f : Stall → Stall) : (s.modStall i f).cyc = s.cyc := rfl
@[simp] theorem State.modStall_off (s : State) (i : Nat) (f : Stall → Stall) : (s.modStall i f).off = s.off := rfl
@[simp] theorem State.modStall_regs (s : State) (i : Nat) (f : Stall → Stall) : (s.modStall i f).regs = s.regs := rfl
@[simp] theorem State.modStall_hold (s : State) (i : Nat) (f : Stall → Stall) : (s.modStall i f).hold = s.hold := rfl
@[simp] theorem State.modStall_sets (s : State) (i : Nat) (f : Stall → Stall) : (s.modStall i f).sets = s.sets := rfl
@[simp] theorem State.modStall_cdc (s : State) (i : Nat) (f : Stall → Stall) : (s.modStall i f).cdc = s.cdc := rfl
@[simp] theorem State.modStall_stalls (s : State) (i : Nat) (f : Stall → Stall) : (s.modStall i f).stalls = sset zeroStall s.stalls i (f (s.stall i)) := rfl
@[simp] theorem State.modStall_barns (s : State) (i : Nat) (f : Stall → Stall) : (s.modStall i f).barns = s.barns := rfl
@[simp] theorem State.modStall_dies (s : State) (i : Nat) (f : Stall → Stall) : (s.modStall i f).dies = s.dies := rfl
@[simp] theorem State.modStall_hbm (s : State) (i : Nat) (f : Stall → Stall) : (s.modStall i f).hbm = s.hbm := rfl
@[simp] theorem State.modStall_bad (s : State) (i : Nat) (f : Stall → Stall) : (s.modStall i f).bad = s.bad := rfl
@[simp] theorem State.modStall_far (s : State) (i : Nat) (f : Stall → Stall) : (s.modStall i f).far = s.far := rfl
@[simp] theorem State.modStall_log (s : State) (i : Nat) (f : Stall → Stall) : (s.modStall i f).log = s.log := rfl
@[simp] theorem State.modStall_shot (s : State) (i : Nat) (f : Stall → Stall) : (s.modStall i f).shot = s.shot := rfl
@[simp] theorem State.modStall_safe (s : State) (i : Nat) (f : Stall → Stall) : (s.modStall i f).safe = s.safe := rfl
@[simp] theorem State.modStall_train (s : State) (i : Nat) (f : Stall → Stall) : (s.modStall i f).train = s.train := rfl
@[simp] theorem State.modStall_ckpt (s : State) (i : Nat) (f : Stall → Stall) : (s.modStall i f).ckpt = s.ckpt := rfl
@[simp] theorem State.modStall_fab (s : State) (i : Nat) (f : Stall → Stall) : (s.modStall i f).fab = s.fab := rfl
@[simp] theorem State.modStall_host (s : State) (i : Nat) (f : Stall → Stall) : (s.modStall i f).host = s.host := rfl
@[simp] theorem State.modStall_flash (s : State) (i : Nat) (f : Stall → Stall) : (s.modStall i f).flash = s.flash := rfl
@[simp] theorem State.modStall_sec (s : State) (i : Nat) (f : Stall → Stall) : (s.modStall i f).sec = s.sec := rfl
@[simp] theorem State.modStall_boot (s : State) (i : Nat) (f : Stall → Stall) : (s.modStall i f).boot = s.boot := rfl
@[simp] theorem State.modStall_power (s : State) (i : Nat) (f : Stall → Stall) : (s.modStall i f).power = s.power := rfl
@[simp] theorem State.modStall_free (s : State) (i : Nat) (f : Stall → Stall) : (s.modStall i f).free = s.free := rfl
@[simp] theorem State.modStall_out (s : State) (i : Nat) (f : Stall → Stall) : (s.modStall i f).out = s.out := rfl

/-! ### setBarn -/

@[simp] theorem State.setBarn_pending (s : State) (b : Nat) (v : Barn) : (s.setBarn b v).pending = s.pending := rfl
@[simp] theorem State.setBarn_cyc (s : State) (b : Nat) (v : Barn) : (s.setBarn b v).cyc = s.cyc := rfl
@[simp] theorem State.setBarn_off (s : State) (b : Nat) (v : Barn) : (s.setBarn b v).off = s.off := rfl
@[simp] theorem State.setBarn_regs (s : State) (b : Nat) (v : Barn) : (s.setBarn b v).regs = s.regs := rfl
@[simp] theorem State.setBarn_hold (s : State) (b : Nat) (v : Barn) : (s.setBarn b v).hold = s.hold := rfl
@[simp] theorem State.setBarn_sets (s : State) (b : Nat) (v : Barn) : (s.setBarn b v).sets = s.sets := rfl
@[simp] theorem State.setBarn_cdc (s : State) (b : Nat) (v : Barn) : (s.setBarn b v).cdc = s.cdc := rfl
@[simp] theorem State.setBarn_stalls (s : State) (b : Nat) (v : Barn) : (s.setBarn b v).stalls = s.stalls := rfl
@[simp] theorem State.setBarn_barns (s : State) (b : Nat) (v : Barn) : (s.setBarn b v).barns = sset zeroBarn s.barns b v := rfl
@[simp] theorem State.setBarn_dies (s : State) (b : Nat) (v : Barn) : (s.setBarn b v).dies = s.dies := rfl
@[simp] theorem State.setBarn_hbm (s : State) (b : Nat) (v : Barn) : (s.setBarn b v).hbm = s.hbm := rfl
@[simp] theorem State.setBarn_bad (s : State) (b : Nat) (v : Barn) : (s.setBarn b v).bad = s.bad := rfl
@[simp] theorem State.setBarn_far (s : State) (b : Nat) (v : Barn) : (s.setBarn b v).far = s.far := rfl
@[simp] theorem State.setBarn_log (s : State) (b : Nat) (v : Barn) : (s.setBarn b v).log = s.log := rfl
@[simp] theorem State.setBarn_shot (s : State) (b : Nat) (v : Barn) : (s.setBarn b v).shot = s.shot := rfl
@[simp] theorem State.setBarn_safe (s : State) (b : Nat) (v : Barn) : (s.setBarn b v).safe = s.safe := rfl
@[simp] theorem State.setBarn_train (s : State) (b : Nat) (v : Barn) : (s.setBarn b v).train = s.train := rfl
@[simp] theorem State.setBarn_ckpt (s : State) (b : Nat) (v : Barn) : (s.setBarn b v).ckpt = s.ckpt := rfl
@[simp] theorem State.setBarn_fab (s : State) (b : Nat) (v : Barn) : (s.setBarn b v).fab = s.fab := rfl
@[simp] theorem State.setBarn_host (s : State) (b : Nat) (v : Barn) : (s.setBarn b v).host = s.host := rfl
@[simp] theorem State.setBarn_flash (s : State) (b : Nat) (v : Barn) : (s.setBarn b v).flash = s.flash := rfl
@[simp] theorem State.setBarn_sec (s : State) (b : Nat) (v : Barn) : (s.setBarn b v).sec = s.sec := rfl
@[simp] theorem State.setBarn_boot (s : State) (b : Nat) (v : Barn) : (s.setBarn b v).boot = s.boot := rfl
@[simp] theorem State.setBarn_power (s : State) (b : Nat) (v : Barn) : (s.setBarn b v).power = s.power := rfl
@[simp] theorem State.setBarn_free (s : State) (b : Nat) (v : Barn) : (s.setBarn b v).free = s.free := rfl
@[simp] theorem State.setBarn_out (s : State) (b : Nat) (v : Barn) : (s.setBarn b v).out = s.out := rfl

/-! ### setStack -/

@[simp] theorem State.setStack_pending (s : State) (j : Nat) (v : Stack) : (s.setStack j v).pending = s.pending := rfl
@[simp] theorem State.setStack_cyc (s : State) (j : Nat) (v : Stack) : (s.setStack j v).cyc = s.cyc := rfl
@[simp] theorem State.setStack_off (s : State) (j : Nat) (v : Stack) : (s.setStack j v).off = s.off := rfl
@[simp] theorem State.setStack_regs (s : State) (j : Nat) (v : Stack) : (s.setStack j v).regs = s.regs := rfl
@[simp] theorem State.setStack_hold (s : State) (j : Nat) (v : Stack) : (s.setStack j v).hold = s.hold := rfl
@[simp] theorem State.setStack_sets (s : State) (j : Nat) (v : Stack) : (s.setStack j v).sets = s.sets := rfl
@[simp] theorem State.setStack_cdc (s : State) (j : Nat) (v : Stack) : (s.setStack j v).cdc = s.cdc := rfl
@[simp] theorem State.setStack_stalls (s : State) (j : Nat) (v : Stack) : (s.setStack j v).stalls = s.stalls := rfl
@[simp] theorem State.setStack_barns (s : State) (j : Nat) (v : Stack) : (s.setStack j v).barns = s.barns := rfl
@[simp] theorem State.setStack_dies (s : State) (j : Nat) (v : Stack) : (s.setStack j v).dies = sset zeroStack s.dies j v := rfl
@[simp] theorem State.setStack_hbm (s : State) (j : Nat) (v : Stack) : (s.setStack j v).hbm = s.hbm := rfl
@[simp] theorem State.setStack_bad (s : State) (j : Nat) (v : Stack) : (s.setStack j v).bad = s.bad := rfl
@[simp] theorem State.setStack_far (s : State) (j : Nat) (v : Stack) : (s.setStack j v).far = s.far := rfl
@[simp] theorem State.setStack_log (s : State) (j : Nat) (v : Stack) : (s.setStack j v).log = s.log := rfl
@[simp] theorem State.setStack_shot (s : State) (j : Nat) (v : Stack) : (s.setStack j v).shot = s.shot := rfl
@[simp] theorem State.setStack_safe (s : State) (j : Nat) (v : Stack) : (s.setStack j v).safe = s.safe := rfl
@[simp] theorem State.setStack_train (s : State) (j : Nat) (v : Stack) : (s.setStack j v).train = s.train := rfl
@[simp] theorem State.setStack_ckpt (s : State) (j : Nat) (v : Stack) : (s.setStack j v).ckpt = s.ckpt := rfl
@[simp] theorem State.setStack_fab (s : State) (j : Nat) (v : Stack) : (s.setStack j v).fab = s.fab := rfl
@[simp] theorem State.setStack_host (s : State) (j : Nat) (v : Stack) : (s.setStack j v).host = s.host := rfl
@[simp] theorem State.setStack_flash (s : State) (j : Nat) (v : Stack) : (s.setStack j v).flash = s.flash := rfl
@[simp] theorem State.setStack_sec (s : State) (j : Nat) (v : Stack) : (s.setStack j v).sec = s.sec := rfl
@[simp] theorem State.setStack_boot (s : State) (j : Nat) (v : Stack) : (s.setStack j v).boot = s.boot := rfl
@[simp] theorem State.setStack_power (s : State) (j : Nat) (v : Stack) : (s.setStack j v).power = s.power := rfl
@[simp] theorem State.setStack_free (s : State) (j : Nat) (v : Stack) : (s.setStack j v).free = s.free := rfl
@[simp] theorem State.setStack_out (s : State) (j : Nat) (v : Stack) : (s.setStack j v).out = s.out := rfl

/-! ### setPort -/

@[simp] theorem State.setPort_pending (s : State) (p : Nat) (v : Port) : (s.setPort p v).pending = s.pending := rfl
@[simp] theorem State.setPort_cyc (s : State) (p : Nat) (v : Port) : (s.setPort p v).cyc = s.cyc := rfl
@[simp] theorem State.setPort_off (s : State) (p : Nat) (v : Port) : (s.setPort p v).off = s.off := rfl
@[simp] theorem State.setPort_regs (s : State) (p : Nat) (v : Port) : (s.setPort p v).regs = s.regs := rfl
@[simp] theorem State.setPort_hold (s : State) (p : Nat) (v : Port) : (s.setPort p v).hold = s.hold := rfl
@[simp] theorem State.setPort_sets (s : State) (p : Nat) (v : Port) : (s.setPort p v).sets = s.sets := rfl
@[simp] theorem State.setPort_cdc (s : State) (p : Nat) (v : Port) : (s.setPort p v).cdc = s.cdc := rfl
@[simp] theorem State.setPort_stalls (s : State) (p : Nat) (v : Port) : (s.setPort p v).stalls = s.stalls := rfl
@[simp] theorem State.setPort_barns (s : State) (p : Nat) (v : Port) : (s.setPort p v).barns = s.barns := rfl
@[simp] theorem State.setPort_dies (s : State) (p : Nat) (v : Port) : (s.setPort p v).dies = s.dies := rfl
@[simp] theorem State.setPort_hbm (s : State) (p : Nat) (v : Port) : (s.setPort p v).hbm = s.hbm := rfl
@[simp] theorem State.setPort_bad (s : State) (p : Nat) (v : Port) : (s.setPort p v).bad = s.bad := rfl
@[simp] theorem State.setPort_far (s : State) (p : Nat) (v : Port) : (s.setPort p v).far = s.far := rfl
@[simp] theorem State.setPort_log (s : State) (p : Nat) (v : Port) : (s.setPort p v).log = s.log := rfl
@[simp] theorem State.setPort_shot (s : State) (p : Nat) (v : Port) : (s.setPort p v).shot = s.shot := rfl
@[simp] theorem State.setPort_safe (s : State) (p : Nat) (v : Port) : (s.setPort p v).safe = s.safe := rfl
@[simp] theorem State.setPort_train (s : State) (p : Nat) (v : Port) : (s.setPort p v).train = s.train := rfl
@[simp] theorem State.setPort_ckpt (s : State) (p : Nat) (v : Port) : (s.setPort p v).ckpt = s.ckpt := rfl
@[simp] theorem State.setPort_fab (s : State) (p : Nat) (v : Port) : (s.setPort p v).fab = { s.fab with ports := sset zeroPort s.fab.ports p v } := rfl
@[simp] theorem State.setPort_host (s : State) (p : Nat) (v : Port) : (s.setPort p v).host = s.host := rfl
@[simp] theorem State.setPort_flash (s : State) (p : Nat) (v : Port) : (s.setPort p v).flash = s.flash := rfl
@[simp] theorem State.setPort_sec (s : State) (p : Nat) (v : Port) : (s.setPort p v).sec = s.sec := rfl
@[simp] theorem State.setPort_boot (s : State) (p : Nat) (v : Port) : (s.setPort p v).boot = s.boot := rfl
@[simp] theorem State.setPort_power (s : State) (p : Nat) (v : Port) : (s.setPort p v).power = s.power := rfl
@[simp] theorem State.setPort_free (s : State) (p : Nat) (v : Port) : (s.setPort p v).free = s.free := rfl
@[simp] theorem State.setPort_out (s : State) (p : Nat) (v : Port) : (s.setPort p v).out = s.out := rfl

/-! ### setRing -/

@[simp] theorem State.setRing_pending (s : State) (r : Nat) (v : Ring) : (s.setRing r v).pending = s.pending := rfl
@[simp] theorem State.setRing_cyc (s : State) (r : Nat) (v : Ring) : (s.setRing r v).cyc = s.cyc := rfl
@[simp] theorem State.setRing_off (s : State) (r : Nat) (v : Ring) : (s.setRing r v).off = s.off := rfl
@[simp] theorem State.setRing_regs (s : State) (r : Nat) (v : Ring) : (s.setRing r v).regs = s.regs := rfl
@[simp] theorem State.setRing_hold (s : State) (r : Nat) (v : Ring) : (s.setRing r v).hold = s.hold := rfl
@[simp] theorem State.setRing_sets (s : State) (r : Nat) (v : Ring) : (s.setRing r v).sets = s.sets := rfl
@[simp] theorem State.setRing_cdc (s : State) (r : Nat) (v : Ring) : (s.setRing r v).cdc = s.cdc := rfl
@[simp] theorem State.setRing_stalls (s : State) (r : Nat) (v : Ring) : (s.setRing r v).stalls = s.stalls := rfl
@[simp] theorem State.setRing_barns (s : State) (r : Nat) (v : Ring) : (s.setRing r v).barns = s.barns := rfl
@[simp] theorem State.setRing_dies (s : State) (r : Nat) (v : Ring) : (s.setRing r v).dies = s.dies := rfl
@[simp] theorem State.setRing_hbm (s : State) (r : Nat) (v : Ring) : (s.setRing r v).hbm = s.hbm := rfl
@[simp] theorem State.setRing_bad (s : State) (r : Nat) (v : Ring) : (s.setRing r v).bad = s.bad := rfl
@[simp] theorem State.setRing_far (s : State) (r : Nat) (v : Ring) : (s.setRing r v).far = s.far := rfl
@[simp] theorem State.setRing_log (s : State) (r : Nat) (v : Ring) : (s.setRing r v).log = s.log := rfl
@[simp] theorem State.setRing_shot (s : State) (r : Nat) (v : Ring) : (s.setRing r v).shot = s.shot := rfl
@[simp] theorem State.setRing_safe (s : State) (r : Nat) (v : Ring) : (s.setRing r v).safe = s.safe := rfl
@[simp] theorem State.setRing_train (s : State) (r : Nat) (v : Ring) : (s.setRing r v).train = s.train := rfl
@[simp] theorem State.setRing_ckpt (s : State) (r : Nat) (v : Ring) : (s.setRing r v).ckpt = s.ckpt := rfl
@[simp] theorem State.setRing_fab (s : State) (r : Nat) (v : Ring) : (s.setRing r v).fab = s.fab := rfl
@[simp] theorem State.setRing_host (s : State) (r : Nat) (v : Ring) : (s.setRing r v).host = { s.host with rings := sset zeroRing s.host.rings r v } := rfl
@[simp] theorem State.setRing_flash (s : State) (r : Nat) (v : Ring) : (s.setRing r v).flash = s.flash := rfl
@[simp] theorem State.setRing_sec (s : State) (r : Nat) (v : Ring) : (s.setRing r v).sec = s.sec := rfl
@[simp] theorem State.setRing_boot (s : State) (r : Nat) (v : Ring) : (s.setRing r v).boot = s.boot := rfl
@[simp] theorem State.setRing_power (s : State) (r : Nat) (v : Ring) : (s.setRing r v).power = s.power := rfl
@[simp] theorem State.setRing_free (s : State) (r : Nat) (v : Ring) : (s.setRing r v).free = s.free := rfl
@[simp] theorem State.setRing_out (s : State) (r : Nat) (v : Ring) : (s.setRing r v).out = s.out := rfl

/-! ### emit -/

@[simp] theorem State.emit_pending (s : State) (o : Out) : (s.emit o).pending = s.pending := rfl
@[simp] theorem State.emit_cyc (s : State) (o : Out) : (s.emit o).cyc = s.cyc := rfl
@[simp] theorem State.emit_off (s : State) (o : Out) : (s.emit o).off = s.off := rfl
@[simp] theorem State.emit_regs (s : State) (o : Out) : (s.emit o).regs = s.regs := rfl
@[simp] theorem State.emit_hold (s : State) (o : Out) : (s.emit o).hold = s.hold := rfl
@[simp] theorem State.emit_sets (s : State) (o : Out) : (s.emit o).sets = s.sets := rfl
@[simp] theorem State.emit_cdc (s : State) (o : Out) : (s.emit o).cdc = s.cdc := rfl
@[simp] theorem State.emit_stalls (s : State) (o : Out) : (s.emit o).stalls = s.stalls := rfl
@[simp] theorem State.emit_barns (s : State) (o : Out) : (s.emit o).barns = s.barns := rfl
@[simp] theorem State.emit_dies (s : State) (o : Out) : (s.emit o).dies = s.dies := rfl
@[simp] theorem State.emit_hbm (s : State) (o : Out) : (s.emit o).hbm = s.hbm := rfl
@[simp] theorem State.emit_bad (s : State) (o : Out) : (s.emit o).bad = s.bad := rfl
@[simp] theorem State.emit_far (s : State) (o : Out) : (s.emit o).far = s.far := rfl
@[simp] theorem State.emit_log (s : State) (o : Out) : (s.emit o).log = s.log := rfl
@[simp] theorem State.emit_shot (s : State) (o : Out) : (s.emit o).shot = s.shot := rfl
@[simp] theorem State.emit_safe (s : State) (o : Out) : (s.emit o).safe = s.safe := rfl
@[simp] theorem State.emit_train (s : State) (o : Out) : (s.emit o).train = s.train := rfl
@[simp] theorem State.emit_ckpt (s : State) (o : Out) : (s.emit o).ckpt = s.ckpt := rfl
@[simp] theorem State.emit_fab (s : State) (o : Out) : (s.emit o).fab = s.fab := rfl
@[simp] theorem State.emit_host (s : State) (o : Out) : (s.emit o).host = s.host := rfl
@[simp] theorem State.emit_flash (s : State) (o : Out) : (s.emit o).flash = s.flash := rfl
@[simp] theorem State.emit_sec (s : State) (o : Out) : (s.emit o).sec = s.sec := rfl
@[simp] theorem State.emit_boot (s : State) (o : Out) : (s.emit o).boot = s.boot := rfl
@[simp] theorem State.emit_power (s : State) (o : Out) : (s.emit o).power = s.power := rfl
@[simp] theorem State.emit_free (s : State) (o : Out) : (s.emit o).free = s.free := rfl
@[simp] theorem State.emit_out (s : State) (o : Out) : (s.emit o).out = s.out ++ [o] := rfl

/-! ### event -/

@[simp] theorem State.event_pending (s : State) (code src x : Nat) (detail : List Byte) : (s.event code src x detail).pending = s.pending := rfl
@[simp] theorem State.event_cyc (s : State) (code src x : Nat) (detail : List Byte) : (s.event code src x detail).cyc = s.cyc := rfl
@[simp] theorem State.event_off (s : State) (code src x : Nat) (detail : List Byte) : (s.event code src x detail).off = s.off := rfl
@[simp] theorem State.event_regs (s : State) (code src x : Nat) (detail : List Byte) : (s.event code src x detail).regs = s.regs := rfl
@[simp] theorem State.event_hold (s : State) (code src x : Nat) (detail : List Byte) : (s.event code src x detail).hold = s.hold := rfl
@[simp] theorem State.event_sets (s : State) (code src x : Nat) (detail : List Byte) : (s.event code src x detail).sets = s.sets := rfl
@[simp] theorem State.event_cdc (s : State) (code src x : Nat) (detail : List Byte) : (s.event code src x detail).cdc = s.cdc := rfl
@[simp] theorem State.event_stalls (s : State) (code src x : Nat) (detail : List Byte) : (s.event code src x detail).stalls = s.stalls := rfl
@[simp] theorem State.event_barns (s : State) (code src x : Nat) (detail : List Byte) : (s.event code src x detail).barns = s.barns := rfl
@[simp] theorem State.event_dies (s : State) (code src x : Nat) (detail : List Byte) : (s.event code src x detail).dies = s.dies := rfl
@[simp] theorem State.event_hbm (s : State) (code src x : Nat) (detail : List Byte) : (s.event code src x detail).hbm = s.hbm := rfl
@[simp] theorem State.event_bad (s : State) (code src x : Nat) (detail : List Byte) : (s.event code src x detail).bad = s.bad := rfl
@[simp] theorem State.event_far (s : State) (code src x : Nat) (detail : List Byte) : (s.event code src x detail).far = s.far := rfl
@[simp] theorem State.event_log (s : State) (code src x : Nat) (detail : List Byte) : (s.event code src x detail).log = { s.log with held := s.log.held ++ [⟨code, src, s.shotNo, s.countAt x, detail⟩] } := rfl
@[simp] theorem State.event_shot (s : State) (code src x : Nat) (detail : List Byte) : (s.event code src x detail).shot = s.shot := rfl
@[simp] theorem State.event_safe (s : State) (code src x : Nat) (detail : List Byte) : (s.event code src x detail).safe = s.safe := rfl
@[simp] theorem State.event_train (s : State) (code src x : Nat) (detail : List Byte) : (s.event code src x detail).train = s.train := rfl
@[simp] theorem State.event_ckpt (s : State) (code src x : Nat) (detail : List Byte) : (s.event code src x detail).ckpt = s.ckpt := rfl
@[simp] theorem State.event_fab (s : State) (code src x : Nat) (detail : List Byte) : (s.event code src x detail).fab = s.fab := rfl
@[simp] theorem State.event_host (s : State) (code src x : Nat) (detail : List Byte) : (s.event code src x detail).host = s.host := rfl
@[simp] theorem State.event_flash (s : State) (code src x : Nat) (detail : List Byte) : (s.event code src x detail).flash = s.flash := rfl
@[simp] theorem State.event_sec (s : State) (code src x : Nat) (detail : List Byte) : (s.event code src x detail).sec = s.sec := rfl
@[simp] theorem State.event_boot (s : State) (code src x : Nat) (detail : List Byte) : (s.event code src x detail).boot = s.boot := rfl
@[simp] theorem State.event_power (s : State) (code src x : Nat) (detail : List Byte) : (s.event code src x detail).power = s.power := rfl
@[simp] theorem State.event_free (s : State) (code src x : Nat) (detail : List Byte) : (s.event code src x detail).free = s.free := rfl
@[simp] theorem State.event_out (s : State) (code src x : Nat) (detail : List Byte) : (s.event code src x detail).out = s.out := rfl

/-! ### Reads after writes -/

/-- Register a of 32 bits reads what was written, every other register what it read before. -/
theorem State.reg_setReg {s : State} (a b v : Nat) :
    (s.setReg a v).reg b = if b = a then v % 2 ^ 32 else s.reg b := sget_sset _ _ _ _

theorem State.reg_setField {s : State} (a b hi lo v : Nat) :
    (s.setField a hi lo v).reg b = if b = a then setBits (s.reg a) hi lo v % 2 ^ 32 else s.reg b := sget_sset _ _ _ _

theorem State.stall_setStall {s : State} (i j : Nat) (t : Stall) :
    (s.setStall i t).stall j = if j = i then t else s.stall j := sget_sset _ _ _ _

theorem State.stall_modStall {s : State} (i j : Nat) (f : Stall → Stall) :
    (s.modStall i f).stall j = if j = i then f (s.stall i) else s.stall j := sget_sset _ _ _ _

theorem State.barn_setBarn {s : State} (b c : Nat) (v : Barn) :
    (s.setBarn b v).barn c = if c = b then v else s.barn c := sget_sset _ _ _ _

theorem State.stack_setStack {s : State} (j k : Nat) (v : Stack) :
    (s.setStack j v).stack k = if k = j then v else s.stack k := sget_sset _ _ _ _

theorem State.port_setPort {s : State} (p q : Nat) (v : Port) :
    (s.setPort p v).port q = if q = p then v else s.port q := sget_sset _ _ _ _

theorem State.ring_setRing {s : State} (r q : Nat) (v : Ring) :
    (s.setRing r v).ring q = if q = r then v else s.ring q := sget_sset _ _ _ _

end Sys2Proof.Machine
end

