-- ==== Sys2Proof/Laws/Issue.lean ====
section
/-!
SUPPORT. What the issue of a stall's instruction does, said once: the stall is as its effect leaves it, retired, and nothing else of
it changes but its events and the stop of an audit halt.
-/
namespace Sys2Proof.Machine

open Sys2Proof.Safety

/-- `t` has the stalls of `s`, but for events and stops. -/
structure SameStalls (s t : State) : Prop where
  same : ∀ j, quietly (t.stall j) = quietly (s.stall j)

theorem SameStalls.refl (s : State) : SameStalls s s := ⟨fun _ => rfl⟩

theorem SameStalls.trans {s t u : State} (h : SameStalls s t) (k : SameStalls t u) : SameStalls s u :=
  ⟨fun j => (k.same j).trans (h.same j)⟩

theorem SameStalls.ofEq {s t : State} (h : t.stalls = s.stalls) : SameStalls s t :=
  ⟨fun j => by unfold State.stall; rw [h]⟩

theorem SameStalls.modStall {s : State} {i : Nat} {f : Stall → Stall} (h : ∀ t, quietly (f t) = quietly t) :
    SameStalls s (s.modStall i f) := by
  refine ⟨fun j => ?_⟩
  rw [State.stall_modStall]
  split
  · subst j; exact h _
  · rfl

theorem SameStalls.foldl {α : Type} {s t : State} {f : State → α → State} (l : List α) (h : SameStalls s t)
    (hf : ∀ x a, SameStalls x (f x a)) : SameStalls s (l.foldl f t) := by
  induction l generalizing t with
  | nil => exact h
  | cons a l ih => exact ih (h.trans (hf t a))

theorem SameStalls.eachStall {s : State} {l : List Nat} {f : Stall → Stall} (h : ∀ t, quietly (f t) = quietly t) :
    SameStalls s (s.eachStall l f) := SameStalls.foldl l (.refl s) fun _ _ => .modStall h

theorem SameStalls.haltFrom {s : State} {x : Nat} : SameStalls s (s.haltFrom x) := by
  unfold State.haltFrom
  extract_lets w a b
  have ha : SameStalls s a := .ofEq rfl
  have hb : SameStalls s b := ha.trans (.eachStall fun _ => rfl)
  clear_value b
  exact SameStalls.foldl _ hb fun x b => SameStalls.ofEq rfl

theorem State.failShot_stalls (s : State) (x code src : Nat) : (s.failShot x code src).stalls = s.stalls := by
  unfold State.failShot
  split
  · rfl
  · split
    · split <;> rfl
    · rfl

theorem SameStalls.takeEvent {s : State} {i : Nat} {e : StallEvent} : SameStalls s (s.takeEvent i e) := by
  unfold State.takeEvent
  extract_lets st dup detail a b w c
  have ha : SameStalls s a := by subst a; split <;> exact .ofEq rfl
  have hb : SameStalls s b := by
    subst b
    split
    · exact ha.trans (.ofEq (State.failShot_stalls _ _ _ _))
    · exact ha
  have hc : SameStalls s c := by
    subst c
    split
    · exact hb.trans (.ofEq rfl)
    · exact hb
  split
  · exact hc.trans .haltFrom
  · exact hc

theorem SameStalls.flush {s : State} {l : List Nat} : SameStalls s (s.flush l) := by
  unfold State.flush
  exact SameStalls.foldl _ (.eachStall fun _ => rfl) fun _ _ => .takeEvent

theorem readied_keeps (s : State) : Keeps s (readied s) := by
  unfold readied
  exact Keeps.ite (State.syncAll_keeps (Keeps.refl s)) (Keeps.refl s)

/-- A stall whose next instruction is the word f at cycle c, on time, in its place and not stopped, issues it. -/
theorem Stall.issueIf_done {t u v : Stall} {sel : Insn → FetchCheck → Bool} {eff : Stall → Nat → Insn → Nat → Issue} {f : Fetched}
    {c : Nat} (hu : u = t.withHead.runTo c) (hr : t.seq.ready = true) (hh : t.withHead.head = some (f, c))
    (hs : ∀ x, t.withHead.seq.stop = some x → c < x) (hg : f.check ≠ .bad) (ht : u.seq.ref + deltaOf f.word = c)
    (hp : u.seq.hasPlace c (classOf (opcodeOf f.word)) = true) (hn : u.seq.patch = none) (hsel : sel f.word f.check = true)
    (he : eff { u with seq := { u.seq with
      placeCycle := c, places := u.seq.placesAt c ++ [classOf (opcodeOf f.word)], patch := none } } c f.word f.index = .done v) :
    t.issueIf sel eff = v.retire c (if opcodeOf f.word = 0x02 then c + bitsOf f.word 31 0 else c)
      (u.seq.course.step f.word false) f.index := by
  unfold Stall.issueIf
  rw [if_neg (by simp [hr])]
  dsimp only
  rw [hh]
  dsimp only
  rw [if_neg (by simp [hsel])]
  rw [if_neg (by
    split
    · have := hs _ ‹_›; simp; omega
    · decide), ← hu]
  unfold Stall.issueAt
  dsimp only
  have h1 : (if u.seq.ref + deltaOf f.word < c then u.countSkip c .inconsistent f.index (opcodeOf f.word) else u) = u :=
    if_neg (by omega)
  rw [h1, if_neg (by rw [hp]; decide), if_neg hg]
  have hpat : Stall.patched { u with seq := { u.seq with
      placeCycle := c, places := u.seq.placesAt c ++ [classOf (opcodeOf f.word)] } } f.word = some f.word := by
    unfold Stall.patched
    dsimp only
    rw [hn]
  rw [hpat]
  dsimp only
  rw [he]

/-- The whole of an issue that is not skipped. -/
theorem State.issue_done {s : State} {i : Nat} {sel : Insn → FetchCheck → Bool} {eff : Stall → Nat → Insn → Nat → Issue}
    {f : Fetched} {c : Nat} {v : Stall} (h : Issues s i f c) (hsel : sel f.word f.check = true)
    (he : eff (atIssue s i (opcodeOf f.word) c) c f.word f.index = .done v) :
    quietly ((s.issue i sel eff).stall i) = quietly (v.retire c (if opcodeOf f.word = 0x02 then c + bitsOf f.word 31 0 else c)
      ((atIssue s i (opcodeOf f.word) c).seq.course.step f.word false) f.index) := by
  have hi : s.issue i sel eff = (((readied s).setStall i (((readied s).stall i).issueIf sel eff)).at_
      (((readied s).stall i).issueIf sel eff).seq.lastCycle).flush [i] := by
    unfold State.issue
    rw [if_neg (by simp [h.clocked])]
    rfl
  rw [hi, SameStalls.flush.same]
  show quietly (((readied s).setStall i _).stall i) = _
  rw [State.stall_setStall, if_pos rfl]
  rw [Stall.issueIf_done rfl h.ready h.head h.noStop h.good h.onTime h.place h.noPatch hsel he]
  rfl

/-- What an issue leaves in the stall and in time. -/
theorem State.issue_retired {s : State} {i : Nat} {sel : Insn → FetchCheck → Bool} {eff : Stall → Nat → Insn → Nat → Issue}
    {f : Fetched} {c : Nat} {v : Stall} (h : Issues s i f c) (hsel : sel f.word f.check = true)
    (he : eff (atIssue s i (opcodeOf f.word) c) c f.word f.index = .done v) :
    Retired (s.issue i sel eff) i f c (if opcodeOf f.word = 0x02 then c + bitsOf f.word 31 0 else c) := by
  have k := State.issue_done h hsel he
  refine ⟨congrArg (fun t => t.seq.ref) k, congrArg (fun t => t.seq.lastCycle) k, congrArg (fun t => t.seq.lastIndex) k, ?_⟩
  have hi : s.issue i sel eff = (((readied s).setStall i (((readied s).stall i).issueIf sel eff)).at_
      (((readied s).stall i).issueIf sel eff).seq.lastCycle).flush [i] := by
    unfold State.issue
    rw [if_neg (by simp [h.clocked])]
    rfl
  have hc := (State.flush_keeps (l := [i]) (Keeps.refl (((readied s).setStall i (((readied s).stall i).issueIf sel eff)).at_
      (((readied s).stall i).issueIf sel eff).seq.lastCycle))).cyc
  rw [← hi] at hc
  refine le_trans ?_ hc
  rw [Stall.issueIf_done rfl h.ready h.head h.noStop h.good h.onTime h.place h.noPatch hsel he]
  exact le_max_right _ _

/-- A stall whose next instruction is the word f at cycle c skips it where its effect refuses its fields or the state (R200). -/
theorem Stall.issueIf_skip {t u : Stall} {sel : Insn → FetchCheck → Bool} {eff : Stall → Nat → Insn → Nat → Issue} {f : Fetched}
    {c : Nat} (hu : u = t.withHead.runTo c) (hr : t.seq.ready = true) (hh : t.withHead.head = some (f, c))
    (hs : ∀ x, t.withHead.seq.stop = some x → c < x) (hg : f.check ≠ .bad) (ht : u.seq.ref + deltaOf f.word = c)
    (hp : u.seq.hasPlace c (classOf (opcodeOf f.word)) = true) (hn : u.seq.patch = none) (hsel : sel f.word f.check = true)
    (he : eff { u with seq := { u.seq with
      placeCycle := c, places := u.seq.placesAt c ++ [classOf (opcodeOf f.word)], patch := none } } c f.word f.index = .illegal) :
    t.issueIf sel eff = Stall.skip { u with seq := { u.seq with
      placeCycle := c, places := u.seq.placesAt c ++ [classOf (opcodeOf f.word)] } } c .illegal f f.word := by
  unfold Stall.issueIf
  rw [if_neg (by simp [hr])]
  dsimp only
  rw [hh]
  dsimp only
  rw [if_neg (by simp [hsel])]
  rw [if_neg (by
    split
    · have := hs _ ‹_›; simp; omega
    · decide), ← hu]
  unfold Stall.issueAt
  dsimp only
  have h1 : (if u.seq.ref + deltaOf f.word < c then u.countSkip c .inconsistent f.index (opcodeOf f.word) else u) = u :=
    if_neg (by omega)
  rw [h1, if_neg (by rw [hp]; decide), if_neg hg]
  have hpat : Stall.patched { u with seq := { u.seq with
      placeCycle := c, places := u.seq.placesAt c ++ [classOf (opcodeOf f.word)] } } f.word = some f.word := by
    unfold Stall.patched
    dsimp only
    rw [hn]
  rw [hpat]
  dsimp only
  rw [he]

/-- The whole of an issue whose word is skipped as illegal. -/
theorem State.issue_skip {s : State} {i : Nat} {sel : Insn → FetchCheck → Bool} {eff : Stall → Nat → Insn → Nat → Issue}
    {f : Fetched} {c : Nat} (h : Issues s i f c) (hsel : sel f.word f.check = true)
    (he : eff (atIssue s i (opcodeOf f.word) c) c f.word f.index = .illegal) :
    ∃ u : Stall, { u with seq := { u.seq with patch := none } } = atIssue s i (opcodeOf f.word) c ∧
      quietly ((s.issue i sel eff).stall i) = quietly (u.skip c .illegal f f.word) ∧
      (u.skip c .illegal f f.word).seq.lastCycle ≤ (s.issue i sel eff).cyc := by
  have hi : s.issue i sel eff = (((readied s).setStall i (((readied s).stall i).issueIf sel eff)).at_
      (((readied s).stall i).issueIf sel eff).seq.lastCycle).flush [i] := by
    unfold State.issue
    rw [if_neg (by simp [h.clocked])]
    rfl
  have e := Stall.issueIf_skip rfl h.ready h.head h.noStop h.good h.onTime h.place h.noPatch hsel he
  refine ⟨{ (((readied s).stall i).withHead.runTo c) with seq := { (((readied s).stall i).withHead.runTo c).seq with
      placeCycle := c, places := (((readied s).stall i).withHead.runTo c).seq.placesAt c ++ [classOf (opcodeOf f.word)] } },
    rfl, ?_, ?_⟩
  · rw [hi, SameStalls.flush.same]
    show quietly (((readied s).setStall i _).stall i) = _
    rw [State.stall_setStall, if_pos rfl, e]
  · have hc := (State.flush_keeps (l := [i]) (Keeps.refl (((readied s).setStall i (((readied s).stall i).issueIf sel eff)).at_
        (((readied s).stall i).issueIf sel eff).seq.lastCycle))).cyc
    rw [← hi] at hc
    refine le_trans ?_ hc
    rw [e]
    exact le_max_right _ _

theorem State.flush_quiet (s : State) (i : Nat) (h : (s.stall i).events = []) : s.flush [i] = s := by
  unfold State.flush
  simp [h, State.eachStall]

/-- Two stalls that agree but for stops and events: events apart. -/
theorem State.haltFrom_events (s : State) (x j : Nat) : ((s.haltFrom x).stall j).events = (s.stall j).events := by
  have each : ∀ (l : List Nat) (f : Stall → Stall) (s : State), (∀ t, (f t).events = t.events) →
      ((s.eachStall l f).stall j).events = (s.stall j).events := by
    intro l f
    induction l with
    | nil => intro s _; rfl
    | cons a l ih =>
      intro s hf
      refine (ih (s.modStall a f) hf).trans ?_
      rw [State.stall_modStall]
      split
      · subst a; exact hf _
      · rfl
  have barns : ∀ (l : List Nat) (s : State), (l.foldl (fun s b => s.setBarn b { s.barn b with stop := stopAt (s.barn b).stop x }) s).stalls
      = s.stalls := by
    intro l
    induction l with
    | nil => intro s; rfl
    | cons a l ih => intro s; exact ih _
  unfold State.haltFrom
  extract_lets w a b
  have hb : (b.stall j).events = (a.stall j).events := each _ _ _ fun _ => rfl
  exact (congrArg (fun m => (sget zeroStall m j).events) (barns _ b)).trans hb

theorem State.takeEvent_events (s : State) (i j : Nat) (e : StallEvent) : ((s.takeEvent i e).stall j).events = (s.stall j).events := by
  unfold State.takeEvent
  extract_lets st dup detail a b w c
  have ha : a.stalls = s.stalls := by subst a; split <;> rfl
  have hb : b.stalls = s.stalls := by
    subst b
    split
    · exact (State.failShot_stalls _ _ _ _).trans ha
    · exact ha
  have hc : c.stalls = s.stalls := by
    subst c
    split
    · exact hb
    · exact hb
  have hs : (c.stall j).events = (s.stall j).events := congrArg (fun m => (sget zeroStall m j).events) hc
  split
  · exact (State.haltFrom_events _ _ _).trans hs
  · exact hs

theorem State.eachStall_clear (l : List Nat) (s : State) (j : Nat) :
    ((s.eachStall l fun st => { st with events := [] }).stall j).events = if j ∈ l then [] else (s.stall j).events := by
  induction l generalizing s with
  | nil => rfl
  | cons a l ih =>
    refine (ih (s.modStall a fun st => { st with events := [] })).trans ?_
    rw [State.stall_modStall]
    by_cases h : j ∈ l
    · simp [h]
    · by_cases k : j = a <;> simp [h, k]

/-- Taking events leaves none in the stalls taken, and those of the others as they were. -/
theorem State.flush_events (s : State) (l : List Nat) (j : Nat) :
    ((s.flush l).stall j).events = if j ∈ l then [] else (s.stall j).events := by
  have take : ∀ (es : List (Nat × StallEvent)) (s : State), ((es.foldl (fun s e => s.takeEvent e.1 e.2) s).stall j).events
      = (s.stall j).events := by
    intro es
    induction es with
    | nil => intro s; rfl
    | cons a l ih => intro s; exact (ih _).trans (State.takeEvent_events _ _ _ _)
  unfold State.flush
  refine (take _ _).trans ((State.eachStall_clear _ _ _).trans ?_)
  by_cases h : j ∈ l
  · by_cases k : (s.stall j).events = []
    · simp [h, k]
    · simp [h, k]
  · simp [h]

theorem State.sync_events (s : State) (i x : Nat) : ((s.sync i x).stall i).events = [] := by
  unfold State.sync
  split
  · unfold State.syncAll
    rw [State.flush_events]
    split
    · rfl
    · rename_i h
      have e : ∀ (l : List Nat) (s : State), i ∉ l → (s.eachStall l fun st => st.runTo x).stall i = s.stall i := by
        intro l
        induction l with
        | nil => intro s _; rfl
        | cons a l ih =>
          intro s hn
          rw [List.mem_cons, not_or] at hn
          refine (ih _ hn.2).trans ?_
          rw [State.stall_modStall, if_neg hn.1]
      rw [e _ _ h]
      show (sget zeroStall _ i).events = []
      have : ∀ (m : Sparse Stall), i ∉ m.map (·.1) → sget zeroStall m i = .reset := by
        intro m
        induction m with
        | nil => intro _; rfl
        | cons a m ih =>
          intro hn
          rw [List.map_cons, List.mem_cons, not_or] at hn
          obtain ⟨k, v⟩ := a
          show (if i = k then v else sget zeroStall m i) = _
          rw [if_neg hn.1]
          exact ih hn.2
      rw [this _ h]
      rfl
  · rw [State.flush_events, if_pos (List.mem_singleton.mpr rfl)]

/-- An operation on a stall that raises nothing: the stall is brought forward and changed, and that is all. -/
theorem State.onStall_quiet (s : State) (i x : Nat) (f : Stall → Stall) (h : (f ((s.sync i x).stall i)).events = []) :
    s.onStall i x f = (s.sync i x).modStall i f := by
  unfold State.onStall
  refine State.flush_quiet _ _ ?_
  rw [State.stall_modStall, if_pos rfl]
  exact h

/-- What an operation on a stall leaves in it. -/
theorem State.onStall_stall (s : State) (i x : Nat) (f : Stall → Stall) :
    quietly ((s.onStall i x f).stall i) = quietly (f ((s.sync i x).stall i)) := by
  unfold State.onStall
  rw [SameStalls.flush.same, State.stall_modStall, if_pos rfl]

/-- An operation on a stall that raises one event: the log writer takes it. -/
theorem State.onStall_event (s : State) (i x : Nat) (f : Stall → Stall) (e : StallEvent)
    (h : (f ((s.sync i x).stall i)).events = [e]) :
    s.onStall i x f = (((s.sync i x).modStall i f).eachStall [i] fun st => { st with events := [] }).takeEvent i e := by
  have k : (((s.sync i x).modStall i f).stall i).events = [e] := by
    rw [State.stall_modStall, if_pos rfl]; exact h
  show ((s.sync i x).modStall i f).flush [i] = _
  unfold State.flush
  simp [k, insertEvent]

end Sys2Proof.Machine
end

