-- ==== Sys2Proof/Laws/KeepsStreams.lean ====
section
/-!
SUPPORT. The commands of streams and of the yardmasters keep what Keeps says.
-/
namespace Sys2Proof.Machine

open Sys2Proof.Safety

/-! ### StreamCommands -/

theorem State.orderAbort_keeps {s0 s : State} {x : Nat} (hk : Keeps s0 s) : Keeps s0 (s.orderAbort x) := by
  unfold State.orderAbort
  extract_lets y1
  refine Keeps.ite ?_ ?_
  · refine Keeps.upd ?_ rfl rfl rfl rfl rfl
    exact hk
  · exact hk

theorem State.failOwner_keeps {s0 s : State} {i n x code : Nat} (hk : Keeps s0 s) : Keeps s0 (s.failOwner i n x code) := by
  unfold State.failOwner
  extract_lets y1 y2 y3 y4
  refine Keeps.ite ?_ ?_
  · split
    · refine Keeps.upd ?_ rfl rfl rfl rfl rfl
      exact hk
    · exact hk
  · refine Keeps.ite ?_ ?_
    · refine Keeps.upd ?_ rfl rfl rfl rfl rfl
      exact hk
    · exact hk

theorem State.ctxFaultAt_keeps {s0 s : State} {i n cause bit code x : Nat} {fails : Bool} (hk : Keeps s0 s) : Keeps s0 (s.ctxFaultAt i n cause bit code x fails) := by
  unfold State.ctxFaultAt
  apply State.onStall_keeps
  exact hk

theorem State.farTimeout_keeps {s0 s : State} {i x : Nat} {f : Flying} (hk : Keeps s0 s) : Keeps s0 (s.farTimeout i x f) := by
  unfold State.farTimeout
  apply State.onStall_keeps
  exact hk

theorem State.addFarRead_keeps {s0 s : State} {r : FarRead} (hk : Keeps s0 s) : Keeps s0 (s.addFarRead r) := by
  unfold State.addFarRead
  extract_lets y1
  refine Keeps.upd ?_ rfl rfl rfl rfl rfl
  exact hk

theorem State.askFar_keeps {s0 s : State} {i n p : Nat} (hk : Keeps s0 s) : Keeps s0 (s.askFar i n p) := by
  unfold State.askFar
  extract_lets y1
  split
  · refine Keeps.upd ?_ rfl rfl rfl rfl rfl
    exact hk
  · refine Keeps.ite ?_ ?_
    · refine Keeps.upd ?_ rfl rfl rfl rfl rfl
      exact hk
    · exact hk

theorem State.serveLoft_keeps {s0 s : State} {i n id x k a : Nat} {mems : List Nat} (hk : Keeps s0 s) : Keeps s0 (s.serveLoft i n id x k a mems) := by
  unfold State.serveLoft
  extract_lets y1 y2
  have hy1 : Keeps s0 y2 := by
    subst y2
    refine Keeps.upd ?_ rfl rfl rfl rfl rfl
    exact hk
  clear_value y2
  split
  · extract_lets y3
    split
    · apply State.setStack_keeps
      exact hy1
    · exact hy1
  · exact hy1

theorem State.askSource_keeps {s0 s : State} {i id off len : Nat} {e : List Byte} {rd : Nat → FarRead} (hk : Keeps s0 s) : Keeps s0 (s.askSource i id off len e rd) := by
  unfold State.askSource
  extract_lets y1 y2 y3
  have hy1 : Keeps s0 y2 := by
    subst y2
    apply State.addFarRead_keeps
    exact hk
  clear_value y2
  split
  · refine Keeps.ite ?_ ?_
    · apply State.emit_keeps
      apply State.addFarRead_keeps
      exact hk
    · exact hk
  · refine Keeps.ite ?_ ?_
    · apply State.emit_keeps
      refine Keeps.upd ?_ rfl rfl rfl rfl rfl
      exact hy1
    · apply State.addFarRead_keeps
      exact hk
  · apply State.sendFar_keeps
    apply State.addFarRead_keeps
    exact hk

theorem State.serveFar_keeps {s0 s : State} {i n id x : Nat} {body : Piece} (hk : Keeps s0 s) : Keeps s0 (s.serveFar i n id x body) := by
  unfold State.serveFar
  extract_lets y1 y2 y3 y4 y5 y6 y7
  have hy1 : Keeps s0 y4 := by
    subst y4
    apply State.modStall_keeps
    exact hk
  clear_value y4
  have hy2 : Keeps s0 y6 := by
    subst y6
    apply State.askFar_keeps
    exact hy1
  clear_value y6
  split
  · apply State.serveLoft_keeps
    exact hy1
  · apply State.askSource_keeps
    exact hy2

theorem State.launch_keeps {s0 s : State} {i n x lat : Nat} {write far : Bool} {quota : Option (Nat × Nat)} {body : Piece} (hk : Keeps s0 s) : Keeps s0 (s.launch i n x lat write far quota body) := by
  unfold State.launch
  extract_lets y1 y2 y3 y4 y5
  split
  extract_lets y6 y7 y8 y9 y10 y11 y12 y13
  have hy1 : Keeps s0 y11 := by
    subst y11
    apply State.setStall_keeps
    exact hk
  clear_value y11
  have hy2 : Keeps s0 y12 := by
    subst y12
    apply State.setBit_keeps
    exact hy1
  clear_value y12
  have hy3 : Keeps s0 y13 := by
    subst y13
    apply State.onStall_keeps
    exact hy2
  clear_value y13
  refine Keeps.ite ?_ ?_
  · apply State.serveFar_keeps
    exact hy1
  · split
    · extract_lets y14
      apply State.setStack_keeps
      exact hy1
    · apply State.modStall_keeps
      exact hy3

theorem State.runAheadPage_keeps {s0 s : State} {i n : Nat} {inBound : Bool} {p : Nat} (hk : Keeps s0 s) : Keeps s0 (s.runAheadPage i n inBound p) := by
  unfold State.runAheadPage
  extract_lets y1 y2 y3 y4
  subst y2
  have hy1 : Keeps s0 y3 := by
    subst y3
    apply State.modStall_keeps
    exact hk
  clear_value y3
  refine Keeps.ite ?_ ?_
  · beta_reduce
    apply State.modStall_keeps
    exact hk
  · refine Keeps.ite ?_ ?_
    · exact hk
    · refine Keeps.upd ?_ rfl rfl rfl rfl rfl
      exact hy1

theorem State.coverEmit_keeps {s0 s : State} {i n : Nat} {w : Walk} {y : Nat} (hk : Keeps s0 s) : Keeps s0 (s.coverEmit i n w y) := by
  unfold State.coverEmit
  extract_lets y1 y2 y3 y4 y5 y6
  have hy1 : Keeps s0 y6 := by
    subst y6
    apply State.modStall_keeps
    exact hk
  clear_value y6
  refine Keeps.foldl _ ?_ (fun a1 b1 k1 => ?_)
  · exact hy1
  · extract_lets y7
    refine Keeps.ite ?_ ?_
    · apply State.runAheadPage_keeps
      exact k1
    · refine Keeps.ite ?_ ?_
      · exact k1
      · apply State.modStall_keeps
        exact k1

theorem State.aheadTo_keeps {s0 s : State} {i n x k : Nat} (h : Keeps s0 s) : Keeps s0 (s.aheadTo i n x k) := by
  induction k generalizing s with
  | zero => exact h
  | succ k ih =>
    unfold State.aheadTo
    dsimp only
    refine Keeps.ite h ?_
    split
    · exact Keeps.ite (ih (State.coverEmit_keeps (State.at__keeps h _))) h
    · exact h

theorem execRunAheadStep_keeps (st : StallId) (ctx : CtxId) (s : State) : ∃ u, execRunAheadStep st ctx s = .next u ∧ Keeps s u := by
  unfold execRunAheadStep
  refine ⟨_, rfl, ?_⟩
  have hk : Keeps s s := Keeps.refl s
  extract_lets y1 y2 y3
  refine Keeps.ite ?_ ?_
  · exact hk
  · split
    · apply State.coverEmit_keeps
      apply State.at__keeps
      exact hk
    · exact hk

theorem execStreamPieceIssue_keeps (st : StallId) (ctx : CtxId) (s : State) : ∃ u, execStreamPieceIssue st ctx s = .next u ∧ Keeps s u := by
  unfold execStreamPieceIssue
  refine ⟨_, rfl, ?_⟩
  have hk : Keeps s s := Keeps.refl s
  extract_lets y1 y2 y3 y4 y5 y6 y7
  have hy1 : Keeps s y6 := by
    subst y6
    apply State.modStall_keeps
    exact hk
  clear_value y6
  refine Keeps.ite ?_ ?_
  · exact hk
  · split
    · exact hy1
    · extract_lets y8 y9 y10 y11 y12 y13 y14 y15
      have hy2 : Keeps s y9 := by
        subst y9
        apply State.sync_keeps
        apply State.aheadTo_keeps
        exact hk
      clear_value y9
      have hy3 : Keeps s y10 := by
        subst y10
        apply State.modStall_keeps
        apply State.at__keeps
        exact hy2
      clear_value y10
      refine Keeps.ite ?_ ?_
      · exact hy1
      · refine Keeps.ite ?_ ?_
        · apply State.ctxFaultAt_keeps
          exact hy3
        · refine Keeps.ite ?_ ?_
          · apply State.ctxFaultAt_keeps
            apply State.failOwner_keeps
            exact hy3
          · refine Keeps.ite ?_ ?_
            · apply State.ctxFaultAt_keeps
              exact hy3
            · apply State.launch_keeps
              exact hy3

theorem State.serveArrival_keeps {s0 s : State} {j : Nat} {a : Arrival} (hk : Keeps s0 s) : Keeps s0 (s.serveArrival j a) := by
  unfold State.serveArrival
  extract_lets y1 y2 y3
  have hy1 : Keeps s0 y2 := by
    subst y2
    apply State.setStack_keeps
    exact hk
  clear_value y2
  have hy2 : Keeps s0 y3 := by
    subst y3
    apply State.sync_keeps
    exact hy1
  clear_value y3
  split
  · exact hy2
  · extract_lets y4 y5
    have hy3 : Keeps s0 y5 := by
      subst y5
      refine Keeps.foldl _ ?_ (fun a1 b1 k1 => ?_)
      · exact hy2
      · apply State.writeStack_keeps
        apply State.ponyClear_keeps
        exact k1
    clear_value y5
    refine Keeps.ite ?_ ?_
    · apply State.modStall_keeps
      exact hy3
    · split
      refine Keeps.ite ?_ ?_
      · refine Keeps.ofEq (by assumption) ?_
        refine Keeps.foldl1 _ ?_ (fun a2 b2 k2 => ?_)
        · dsimp only
          exact hy2
        · split
          dsimp only
          refine Keeps.ofEq (by assumption) ?_
          apply State.readStack_keeps
          exact k2
      · apply State.modStall_keeps
        refine Keeps.ofEq (by assumption) ?_
        refine Keeps.foldl1 _ ?_ (fun a3 b3 k3 => ?_)
        · dsimp only
          exact hy2
        · split
          dsimp only
          refine Keeps.ofEq (by assumption) ?_
          apply State.readStack_keeps
          exact k3

theorem State.serveArrivals_keeps {s0 s : State} {j x n : Nat} (h : Keeps s0 s) : Keeps s0 (s.serveArrivals j x n) := by
  induction n generalizing s with
  | zero => exact h
  | succ n ih =>
    unfold State.serveArrivals
    split
    · exact Keeps.ite (ih (State.serveArrival_keeps h)) h
    · exact h

theorem execBaseDieArrival_keeps (j : StackId) (s : State) : ∃ u, execBaseDieArrival j s = .next u ∧ Keeps s u := by
  unfold execBaseDieArrival
  refine ⟨_, rfl, ?_⟩
  have hk : Keeps s s := Keeps.refl s
  split
  · refine Keeps.ite ?_ ?_
    · apply State.serveArrival_keeps
      apply State.at__keeps
      exact hk
    · exact hk
  · exact hk

theorem execPieceLanding_keeps (st : StallId) (ctx : CtxId) (arrived : Bool) (s : State) : ∃ u, execPieceLanding st ctx arrived s = .next u ∧ Keeps s u := by
  unfold execPieceLanding
  refine ⟨_, rfl, ?_⟩
  have hk : Keeps s s := Keeps.refl s
  extract_lets y1
  split
  · exact hk
  · extract_lets y2 y3 y4
    have hy1 : Keeps s y2 := by
      subst y2
      refine Keeps.foldl _ ?_ (fun a1 b1 k1 => ?_)
      · exact hk
      · refine Keeps.ite ?_ ?_
        · apply State.serveArrivals_keeps
          exact k1
        · exact k1
    clear_value y2
    have hy2 : Keeps s y4 := by
      subst y4
      apply State.sync_keeps
      apply State.at__keeps
      exact hy1
    clear_value y4
    refine Keeps.ite ?_ ?_
    · exact hk
    · split
      · exact hy2
      · extract_lets y5 y6 y7 y8
        have hy3 : Keeps s y5 := by
          subst y5
          apply State.modStall_keeps
          exact hy2
        clear_value y5
        have hy4 : Keeps s y7 := by
          subst y7
          refine Keeps.upd ?_ rfl rfl rfl rfl rfl
          exact hy3
        clear_value y7
        refine Keeps.ite ?_ ?_
        · exact hy4
        · split
          · apply State.modStall_keeps
            exact hy4
          · refine Keeps.ite ?_ ?_
            · apply State.farTimeout_keeps
              apply State.failOwner_keeps
              exact hy4
            · apply State.onStall_keeps
              exact hy4

theorem execStreamDeadlockCheck_keeps (st : StallId) (ctx : CtxId) (s : State) : ∃ u, execStreamDeadlockCheck st ctx s = .next u ∧ Keeps s u := by
  unfold execStreamDeadlockCheck
  refine ⟨_, rfl, ?_⟩
  have hk : Keeps s s := Keeps.refl s
  extract_lets y1 y2 y3 y4
  refine Keeps.ite ?_ ?_
  · apply State.orderAbort_keeps
    apply State.ctxFaultAt_keeps
    apply State.sync_keeps
    apply State.at__keeps
    exact hk
  · exact hk

theorem State.reserveHbm_keeps {s0 s t : State} {room : Nat} {l : List (Nat × Nat × Nat × Nat)} (h : Keeps s0 s)
    (e : s.reserveHbm room l = some t) : Keeps s0 t := by
  induction l generalizing s with
  | nil => cases e; exact h
  | cons a l ih =>
    unfold State.reserveHbm at e
    split at e
    · exact ih (State.setStack_keeps h) e
    · cases e

theorem State.dropPonies_keeps {s0 s : State} {i x : Nat} (hk : Keeps s0 s) : Keeps s0 (s.dropPonies i x) := by
  unfold State.dropPonies
  split
  · exact hk
  · exact State.onStall_keeps hk

theorem State.ponyUnassigned_keeps {s0 s : State} {i x tack : Nat} (hk : Keeps s0 s) : Keeps s0 (s.ponyUnassigned i x tack) := by
  unfold State.ponyUnassigned
  apply State.onStall_keeps
  apply State.setBit_keeps
  exact hk

theorem State.acceptHbm_keeps {s0 s : State} {i x a room : Nat} {p : Pony} (hk : Keeps s0 s) : Keeps s0 (s.acceptHbm i x a room p) := by
  unfold State.acceptHbm
  dsimp only
  split
  · exact State.modStall_keeps (State.ponyUnassigned_keeps (State.at__keeps hk _))
  · split
    · exact hk
    · rename_i e
      exact Keeps.ite (State.modStall_keeps (State.at__keeps (State.reserveHbm_keeps hk e) x))
        (State.ponyUnassigned_keeps (State.modStall_keeps (State.at__keeps (State.reserveHbm_keeps hk e) x)))

theorem State.acceptStall_keeps {s0 s : State} {i k x a room : Nat} {p : Pony} (hk : Keeps s0 s) : Keeps s0 (s.acceptStall i k x a room p) := by
  unfold State.acceptStall
  extract_lets y1 y2
  have hy1 : Keeps s0 y1 := by
    subst y1
    apply State.sync_keeps
    exact hk
  clear_value y1
  split
  · exact hy1
  · split
    extract_lets y3
    apply State.modStall_keeps
    apply State.setStall_keeps
    apply State.at__keeps
    exact hy1

theorem State.acceptNext_keeps {s0 s : State} {i : Nat} {free : Bool} (hk : Keeps s0 s) : Keeps s0 (s.acceptNext i free) := by
  unfold State.acceptNext
  split
  · exact hk
  · extract_lets y1 y2
    have hy1 : Keeps s0 y2 := by
      subst y2
      apply State.dropPonies_keeps
      apply State.onStall_keeps
      exact hk
    clear_value y2
    refine Keeps.ite ?_ ?_
    · exact hk
    · split
      · apply State.at__keeps
        exact hy1
      · extract_lets y3
        split
        · apply State.at__keeps
          exact hy1
        · apply State.acceptStall_keeps
          exact hy1
        · apply State.acceptHbm_keeps
          exact hy1

theorem execPonyAccept_keeps (st : StallId) (s : State) : ∃ u, execPonyAccept st s = .next u ∧ Keeps s u := by
  unfold execPonyAccept
  refine ⟨_, rfl, ?_⟩
  have hk : Keeps s s := Keeps.refl s
  apply State.acceptNext_keeps
  exact hk

theorem execPonyDelivery_keeps (st : StallId) (s : State) : ∃ u, execPonyDelivery st s = .next u ∧ Keeps s u := by
  unfold execPonyDelivery
  refine ⟨_, rfl, ?_⟩
  have hk : Keeps s s := Keeps.refl s
  extract_lets y1
  split
  · exact hk
  · extract_lets y2 y3
    have hy1 : Keeps s y2 := by
      subst y2
      apply State.at__keeps
      exact hk
    clear_value y2
    have hy2 : Keeps s y3 := by
      subst y3
      split
      · extract_lets y4 y5 y6
        have hy3 : Keeps s y5 := by
          subst y5
          apply State.sync_keeps
          exact hy1
        clear_value y5
        apply State.modStall_keeps
        exact hy3
      · refine Keeps.foldl _ ?_ (fun a1 b1 k1 => ?_)
        · exact hy1
        · apply State.setStack_keeps
          exact k1
      · exact hy1
    clear_value y3
    refine Keeps.ite ?_ ?_
    · exact hk
    · apply State.onStall_keeps
      exact hy2

theorem execBaseDiePonyDrain_keeps (j : StackId) (s : State) : ∃ u, execBaseDiePonyDrain j s = .next u ∧ Keeps s u := by
  unfold execBaseDiePonyDrain
  refine ⟨_, rfl, ?_⟩
  have hk : Keeps s s := Keeps.refl s
  extract_lets y1
  split
  · exact hk
  · extract_lets y2 y3 y4 y5
    have hy1 : Keeps s y2 := by
      subst y2
      apply State.setStack_keeps
      exact hk
    clear_value y2
    have hy2 : Keeps s y4 := by
      subst y4
      apply State.uncorrectable_keeps
      exact hy1
    clear_value y4
    have hy3 : Keeps s y5 := by
      subst y5
      refine Keeps.upd ?_ rfl rfl rfl rfl rfl
      exact hy2
    clear_value y5
    refine Keeps.ite ?_ ?_
    · exact hk
    · split
      extract_lets y6
      split
      · apply State.encodeUnit_keeps
        exact hy1
      · apply State.encodeUnit_keeps
        apply State.correction_keeps
        exact hy1
      · refine Keeps.ite ?_ ?_
        · apply State.failShot_keeps
          exact hy3
        · exact hy3


/-! ### Yard -/

theorem State.broadcast_keeps {s0 s : State} {b x : Nat} {c : Change} (hk : Keeps s0 s) : Keeps s0 (s.broadcast b x c) := by
  unfold State.broadcast
  apply State.eachStall_keeps
  exact hk

theorem State.yardEvent_keeps {s0 s : State} {b code x : Nat} (hk : Keeps s0 s) : Keeps s0 (s.yardEvent b code x) := by
  unfold State.yardEvent
  extract_lets y1
  have hy1 : Keeps s0 y1 := by
    subst y1
    apply State.failEvent_keeps
    exact hk
  clear_value y1
  refine Keeps.ite ?_ ?_
  · apply State.haltFrom_keeps
    exact hy1
  · exact hy1

theorem State.ymSkip_keeps {s0 s : State} {b c : Nat} {k : SkipKind} (hk : Keeps s0 s) : Keeps s0 (s.ymSkip b c k) := by
  unfold State.ymSkip
  extract_lets y1 y2 y3 y4 y5 y6
  have hy1 : Keeps s0 y3 := by
    subst y3
    refine Keeps.ite ?_ ?_
    · apply State.setField_keeps
      exact hk
    · exact hk
  clear_value y3
  have hy2 : Keeps s0 y4 := by
    subst y4
    apply State.bump_keeps
    apply State.setBit_keeps
    exact hy1
  clear_value y4
  have hy3 : Keeps s0 y6 := by
    subst y6
    apply State.setBarn_keeps
    exact hy2
  clear_value y6
  refine Keeps.ite ?_ ?_
  · apply State.yardEvent_keeps
    exact hy3
  · exact hy3

theorem State.ymCorrected_keeps {s0 s : State} {b c : Nat} (hk : Keeps s0 s) : Keeps s0 (s.ymCorrected b c) := by
  unfold State.ymCorrected
  extract_lets y1
  refine Keeps.ite ?_ ?_
  · exact hk
  · apply State.event_keeps
    apply State.setBarn_keeps
    exact hk

theorem State.histRecord_keeps {s0 s : State} {e x : Nat} (hk : Keeps s0 s) : Keeps s0 (s.histRecord e x).1 := by
  unfold State.histRecord
  split
  · split
    dsimp only
    refine Keeps.ofEq (by assumption) ?_
    apply State.readMem_keeps
    exact hk
  · dsimp only
    exact hk

theorem State.selectWrite_keeps {s0 s : State} {b : Nat} {f : FmtSel} (hk : Keeps s0 s) : Keeps s0 (s.selectWrite b f) := by
  unfold State.selectWrite
  extract_lets y1 y2 y3
  have hy1 : Keeps s0 y3 := by
    subst y3
    apply State.setBarn_keeps
    exact hk
  clear_value y3
  split
  split
  · extract_lets y4
    refine Keeps.ite ?_ ?_
    · refine Keeps.ofEq (by assumption) ?_
      apply State.histRecord_keeps
      exact hy1
    · apply State.broadcast_keeps
      refine Keeps.ofEq (by assumption) ?_
      apply State.histRecord_keeps
      exact hy1
  · refine Keeps.ofEq (by assumption) ?_
    apply State.histRecord_keeps
    exact hy1

theorem State.settleSel_keeps {s0 s : State} {b x : Nat} (hk : Keeps s0 s) : Keeps s0 (s.settleSel b x) := by
  unfold State.settleSel
  split
  · refine Keeps.ite ?_ ?_
    · apply State.selectWrite_keeps
      exact hk
    · exact hk
  · exact hk

theorem execFormatSelectionWrite_keeps (b : BarnId) (s : State) : ∃ u, execFormatSelectionWrite b s = .next u ∧ Keeps s u := by
  unfold execFormatSelectionWrite
  refine ⟨_, rfl, ?_⟩
  have hk : Keeps s s := Keeps.refl s
  split
  · refine Keeps.ite ?_ ?_
    · apply State.selectWrite_keeps
      apply State.at__keeps
      exact hk
    · exact hk
  · exact hk

theorem State.ymIssue_keeps {s0 s : State} {b : Nat} {sel : Insn → FetchCheck → Bool} {eff : State → Nat → Insn → YmIssue}
    (hk : Keeps s0 s) (hf : ∀ u c w v r, Keeps s0 u → eff u c w = .done v r → Keeps s0 v) : Keeps s0 (s.ymIssue b sel eff) := by
  unfold State.ymIssue
  dsimp only
  refine Keeps.ite hk ?_
  generalize hc : (s.barn b).ref + deltaOf (sget zeroTack (s.barn b).prog (s.barn b).index).read.1 = c
  have h1 : Keeps s0 ((s.at_ c).settleSel b c) := State.settleSel_keeps (State.at__keeps hk c)
  generalize (s.at_ c).settleSel b c = t at h1
  have h2 : Keeps s0 (if (sget zeroTack (s.barn b).prog (s.barn b).index).read.2 = .corrected then t.ymCorrected b c else t) :=
    Keeps.ite (State.ymCorrected_keeps h1) h1
  generalize (if (sget zeroTack (s.barn b).prog (s.barn b).index).read.2 = .corrected then t.ymCorrected b c else t) = u at h2
  refine Keeps.ite (State.ymSkip_keeps h2) (Keeps.ite (State.ymSkip_keeps h2) ?_)
  split
  · exact State.ymSkip_keeps h2
  · exact State.ymSkip_keeps h2
  · exact State.setBarn_keeps (hf _ _ _ _ _ h2 ‹_›)

theorem execYmNop_keeps (b : BarnId) (s : State) : ∃ u, execYmNop b s = .next u ∧ Keeps s u := by
  unfold execYmNop
  refine ⟨_, rfl, State.ymIssue_keeps (Keeps.refl s) fun u c w v r k h => ?_⟩
  split at h
  · cases h
  · cases h; exact k

theorem execYmEnd_keeps (b : BarnId) (s : State) : ∃ u, execYmEnd b s = .next u ∧ Keeps s u := by
  unfold execYmEnd
  refine ⟨_, rfl, State.ymIssue_keeps (Keeps.refl s) fun u c w v r k h => ?_⟩
  split at h
  · cases h
  · cases h; exact State.setBarn_keeps k

theorem execYmWait_keeps (b : BarnId) (s : State) : ∃ u, execYmWait b s = .next u ∧ Keeps s u := by
  unfold execYmWait
  refine ⟨_, rfl, State.ymIssue_keeps (Keeps.refl s) fun u c w v r k h => ?_⟩
  split at h
  · cases h
  · cases h; exact k

theorem execYmFtab_keeps (b : BarnId) (s : State) : ∃ u, execYmFtab b s = .next u ∧ Keeps s u := by
  unfold execYmFtab
  refine ⟨_, rfl, State.ymIssue_keeps (Keeps.refl s) fun u c w v r k h => ?_⟩
  extract_lets y early slot at h
  clear_value early slot
  split at h
  · cases h
  · split at h
    · cases h
    · cases h; exact State.broadcast_keeps (State.setBarn_keeps k)

theorem execFtabLoadEnd_keeps (b : BarnId) (s : State) : ∃ u, execFtabLoadEnd b s = .next u ∧ Keeps s u := by
  unfold execFtabLoadEnd
  refine ⟨_, rfl, ?_⟩
  have hk : Keeps s s := Keeps.refl s
  extract_lets y1
  split
  · exact hk
  · extract_lets y2 y3 y4
    have hy1 : Keeps s y3 := by
      subst y3
      apply State.setBarn_keeps
      apply State.at__keeps
      exact hk
    clear_value y3
    refine Keeps.ite ?_ ?_
    · exact hk
    · refine Keeps.foldl _ ?_ (fun a1 b1 k1 => ?_)
      · exact hy1
      · apply State.onStall_keeps
        exact k1

theorem execYmFmt_keeps (b : BarnId) (s : State) : ∃ u, execYmFmt b s = .next u ∧ Keeps s u := by
  unfold execYmFmt
  refine ⟨_, rfl, State.ymIssue_keeps (Keeps.refl s) fun u c w v r k h => ?_⟩
  dsimp only at h
  split at h
  · cases h
  · split at h
    · cases h
    · split at h
      · cases h; exact State.broadcast_keeps k
      · cases h; exact State.setBarn_keeps k

theorem execYmAnchor_keeps (b : BarnId) (s : State) : ∃ u, execYmAnchor b s = .next u ∧ Keeps s u := by
  unfold execYmAnchor
  refine ⟨_, rfl, State.ymIssue_keeps (Keeps.refl s) fun u c w v r k h => ?_⟩
  dsimp only at h
  split at h
  · cases h
  · split at h
    · cases h
    · cases h; exact State.eachStall_keeps k

theorem State.markDma_keeps {s0 s : State} {d : TackDma} (hk : Keeps s0 s) : Keeps s0 (s.markDma d) := by
  unfold State.markDma
  apply State.eachStall_keeps
  exact hk

theorem State.startMoves_keeps {s0 s : State} {b : Nat} (hk : Keeps s0 s) : Keeps s0 (s.startMoves b) := by
  unfold State.startMoves
  extract_lets y1
  refine Keeps.ite ?_ ?_
  · exact hk
  · split
    · extract_lets y2 y3
      have hy1 : Keeps s0 y3 := by
        subst y3
        apply State.modStall_keeps
        refine Keeps.upd ?_ rfl rfl rfl rfl rfl
        exact hk
      clear_value y3
      apply State.setField_keeps
      apply State.setBit_keeps
      exact hy1
    · exact hk

theorem State.endDma_keeps {s0 s : State} {b : Nat} (hk : Keeps s0 s) : Keeps s0 (s.endDma b) := by
  unfold State.endDma
  extract_lets y1 y2 y3
  have hy1 : Keeps s0 y3 := by
    subst y3
    apply State.setField_keeps
    apply State.setBarn_keeps
    exact hk
  clear_value y3
  apply State.startMoves_keeps
  exact hy1

theorem execYmTdmaGo_keeps (b : BarnId) (v : Word) (s : State) : ∃ u, execYmTdmaGo b v s = .next u ∧ Keeps s u := by
  unfold execYmTdmaGo
  refine ⟨_, rfl, ?_⟩
  have hk : Keeps s s := Keeps.refl s
  extract_lets y1 y2 y3 y4 y5 y6 y7 y8 y9
  have hy1 : Keeps s y1 := by
    subst y1
    apply State.writeReg_keeps
    exact hk
  clear_value y1
  have hy2 : Keeps s y3 := by
    subst y3
    apply State.setField_keeps
    exact hy1
  clear_value y3
  have hy3 : Keeps s y8 := by
    subst y8
    apply State.setBit_keeps
    apply State.setField_keeps
    exact hy2
  clear_value y8
  refine Keeps.ite ?_ ?_
  · exact hk
  · refine Keeps.ite ?_ ?_
    · exact hy1
    · refine Keeps.ite ?_ ?_
      · apply State.setBit_keeps
        exact hy2
      · refine Keeps.ite ?_ ?_
        · apply State.endDma_keeps
          exact hy3
        · apply State.markDma_keeps
          apply State.setBarn_keeps
          exact hy3

theorem execTackDmaWrite_keeps (b : BarnId) (st : StallId) (s : State) : ∃ u, execTackDmaWrite b st s = .next u ∧ Keeps s u := by
  unfold execTackDmaWrite
  refine ⟨_, rfl, ?_⟩
  have hk : Keeps s s := Keeps.refl s
  extract_lets y1 y2 y3 y4
  have hy1 : Keeps s y3 := by
    subst y3
    apply State.sync_keeps
    apply State.at__keeps
    exact hk
  clear_value y3
  split
  · exact hk
  · extract_lets y5
    split
    · exact hk
    · extract_lets y6 y7
      refine Keeps.ite ?_ ?_
      · exact hk
      · split
        extract_lets y8 y9 y10 y11 y12 y13 y14
        have hy2 : Keeps s y8 := by
          subst y8
          apply State.flush_keeps
          apply State.setStall_keeps
          exact hy1
        clear_value y8
        have hy3 : Keeps s y9 := by
          subst y9
          refine Keeps.ite ?_ ?_
          · apply State.setField_keeps
            exact hy2
          · exact hy2
        clear_value y9
        have hy4 : Keeps s y12 := by
          subst y12
          apply State.modStall_keeps
          exact hy3
        clear_value y12
        refine Keeps.ite ?_ ?_
        · apply State.setBarn_keeps
          exact hy3
        · refine Keeps.ite ?_ ?_
          · apply State.endDma_keeps
            exact hy4
          · apply State.markDma_keeps
            apply State.setBarn_keeps
            exact hy4

theorem execYmTackSwitchRequest_keeps (b : BarnId) (v : Word) (s : State) : ∃ u, execYmTackSwitchRequest b v s = .next u ∧ Keeps s u := by
  unfold execYmTackSwitchRequest
  refine ⟨_, rfl, ?_⟩
  have hk : Keeps s s := Keeps.refl s
  extract_lets y1 y2 y3
  have hy1 : Keeps s y1 := by
    subst y1
    apply State.writeReg_keeps
    exact hk
  clear_value y1
  refine Keeps.ite ?_ ?_
  · exact hk
  · refine Keeps.ite ?_ ?_
    · exact hy1
    · apply State.eachStall_keeps
      exact hy1


/-! ### HostOps -/

/-- A change of the event log. -/
theorem Keeps.log {s0 s : State} {l : Log} (h : Keeps s0 s) (hm : s.log.ring.wf = true → l.ring.wf = true) :
    Keeps s0 { s with log := l } :=
  h.trans ⟨rfl, le_rfl, fun k => ⟨k.1, hm k.2.1, k.2.2⟩, id, fun _ h => h, le_rfl, List.prefix_rfl, le_rfl⟩

theorem Log.put_wf {l : Log} (bs : List Byte) (h : l.ring.wf = true) : (l.put bs).ring.wf = true := by
  unfold Log.put
  dsimp only [Log.advance]
  split <;> simp only [Memory.wf_write, h]

theorem Log.place_wf {l : Log} (e : Event) (h : l.ring.wf = true) : (l.place e).ring.wf = true := Log.put_wf _ h

theorem Log.overflow_ring (l : Log) (e : Event) : (l.overflow e).ring = l.ring := by
  unfold Log.overflow; split <;> rfl

theorem State.logPlaced_keeps {s0 s : State} {l : Log} (h : Keeps s0 s) (hl : s.log.ring.wf = true → l.ring.wf = true) :
    Keeps s0 (s.logPlaced l) := by
  unfold State.logPlaced
  exact Keeps.ite (State.msix_keeps (h.log hl)) (h.log hl)

theorem State.logCheck_keeps {s0 s : State} (h : Keeps s0 s) : Keeps s0 s.logCheck := by
  unfold State.logCheck
  refine Keeps.ite h (State.logPlaced_keeps (h.log fun _ => rfl) fun k => Log.place_wf _ k)

theorem State.logDue_keeps {s0 s : State} (hk : Keeps s0 s) : Keeps s0 (s.logDue) := by
  unfold State.logDue
  split
  · exact hk
  · extract_lets y1
    apply State.syncAll_keeps
    apply State.at__keeps
    exact hk

theorem execEventLogPlace_keeps (s : State) : ∃ u, execEventLogPlace s = .next u ∧ Keeps s u := by
  unfold execEventLogPlace
  refine ⟨_, rfl, ?_⟩
  have h := State.logCheck_keeps (State.logDue_keeps (Keeps.refl s))
  generalize s.logDue.logCheck = t at h
  dsimp only
  split
  · refine Keeps.ite (State.logPlaced_keeps h fun k => Log.place_wf _ k) ?_
    split
    · exact h
    · exact (State.at__keeps h _).log fun k => by rw [Log.overflow_ring]; exact k
  · split
    · exact h
    · refine Keeps.ite (State.logPlaced_keeps (State.at__keeps h _) fun k => Log.place_wf _ k) ?_
      exact (State.at__keeps h _).log fun k => by rw [Log.overflow_ring]; exact k

theorem execEvtOverflowRecord_keeps (s : State) : ∃ u, execEvtOverflowRecord s = .next u ∧ Keeps s u := by
  unfold execEvtOverflowRecord
  refine ⟨_, rfl, ?_⟩
  have h := State.logCheck_keeps (Keeps.refl s)
  generalize s.logCheck = t at h
  dsimp only
  exact Keeps.ite h (State.logPlaced_keeps h fun k => Log.place_wf _ k)

theorem execEvtRptrWrite_keeps (v : Word) (s : State) : ∃ u, execEvtRptrWrite v s = .next u ∧ Keeps s u := by
  unfold execEvtRptrWrite
  refine ⟨_, rfl, ?_⟩
  have hk : Keeps s s := Keeps.refl s
  extract_lets y1 y2 y3 y4 y5
  have hy1 : Keeps s y1 := by
    subst y1
    apply State.logCheck_keeps
    exact hk
  clear_value y1
  have hy2 : Keeps s y5 := by
    subst y5
    refine Keeps.upd ?_ rfl rfl rfl rfl rfl
    exact hy1
  clear_value y5
  refine Keeps.ite ?_ ?_
  · exact hk
  · refine Keeps.ite ?_ ?_
    · refine Keeps.ite ?_ ?_
      · apply State.msix_keeps
        exact hy2
      · exact hy2
    · apply State.setBit_keeps
      exact hy1

theorem State.groomEvent_keeps {s0 s : State} {code : Nat} {detail : List Byte} (hk : Keeps s0 s) : Keeps s0 (s.groomEvent code detail) := by
  unfold State.groomEvent
  apply State.event_keeps
  exact hk

theorem State.complete_keeps {s0 s : State} {e : Entry} {status cause info shot result lat due : Nat} (hk : Keeps s0 s) : Keeps s0 (s.complete e status cause info shot result lat due) := by
  unfold State.complete
  extract_lets y1 y2
  refine Keeps.upd ?_ rfl rfl rfl rfl rfl
  exact hk

theorem State.refuse_keeps {s0 s : State} {e : Entry} {code cause : Nat} (hk : Keeps s0 s) : Keeps s0 (s.refuse e code cause) := by
  unfold State.refuse
  apply State.complete_keeps
  apply State.groomEvent_keeps
  exact hk

theorem State.writeComp_keeps {s0 s : State} {c : Completion} (hk : Keeps s0 s) : Keeps s0 (s.writeComp c) := by
  unfold State.writeComp
  extract_lets y1 y2 y3 y4 y5 y6 y7 y8
  have hy1 : Keeps s0 y5 := by
    subst y5
    apply State.emit_keeps
    apply State.emit_keeps
    exact hk
  clear_value y5
  have hy2 : Keeps s0 y7 := by
    subst y7
    apply State.setRing_keeps
    exact hy1
  clear_value y7
  refine Keeps.ite ?_ ?_
  · exact hk
  · refine Keeps.ite ?_ ?_
    · apply State.msix_keeps
      exact hy2
    · exact hy2

theorem execCompletionWrite_keeps (s : State) : ∃ u, execCompletionWrite s = .next u ∧ Keeps s u := by
  unfold execCompletionWrite
  refine ⟨_, rfl, ?_⟩
  have hk : Keeps s s := Keeps.refl s
  split
  · exact hk
  · extract_lets y1 y2 y3 y4
    have hy1 : Keeps s y1 := by
      subst y1
      apply State.at__keeps
      exact hk
    clear_value y1
    have hy2 : Keeps s y3 := by
      subst y3
      refine Keeps.upd ?_ rfl rfl rfl rfl rfl
      exact hy1
    clear_value y3
    refine Keeps.ite ?_ ?_
    · exact hk
    · refine Keeps.ite ?_ ?_
      · apply State.writeComp_keeps
        exact hy2
      · refine Keeps.upd ?_ rfl rfl rfl rfl rfl
        exact hy2

theorem execHostRequestsAllowed_keeps (s : State) : ∃ u, execHostRequestsAllowed s = .next u ∧ Keeps s u := by
  unfold execHostRequestsAllowed
  refine ⟨_, rfl, ?_⟩
  have hk : Keeps s s := Keeps.refl s
  extract_lets y1 y2 y3 y4
  have hy1 : Keeps s y1 := by
    subst y1
    apply State.cross_keeps
    exact hk
  clear_value y1
  have hy2 : Keeps s y4 := by
    subst y4
    refine Keeps.upd ?_ rfl rfl rfl rfl rfl
    exact hy1
  clear_value y4
  refine Keeps.ite ?_ ?_
  · exact hk
  · refine Keeps.foldl _ ?_ (fun a1 b1 k1 => ?_)
    · exact hy2
    · split
      · apply State.msix_keeps
        exact k1
      · apply State.writeComp_keeps
        exact k1

theorem execBusMasterEnableClear_keeps (s : State) : ∃ u, execBusMasterEnableClear s = .next u ∧ Keeps s u := by
  unfold execBusMasterEnableClear
  refine ⟨_, rfl, ?_⟩
  have hk : Keeps s s := Keeps.refl s
  extract_lets y1 y2
  have hy1 : Keeps s y1 := by
    subst y1
    apply State.cross_keeps
    exact hk
  clear_value y1
  refine Keeps.ite ?_ ?_
  · exact hk
  · refine Keeps.upd ?_ rfl rfl rfl rfl rfl
    exact hy1

theorem State.unmask_keeps {s0 s : State} {v : Nat} (hk : Keeps s0 s) : Keeps s0 (s.unmask v) := by
  unfold State.unmask
  extract_lets y1 y2 y3
  have hy1 : Keeps s0 y2 := by
    subst y2
    refine Keeps.ite ?_ ?_
    · exact hk
    · refine Keeps.upd ?_ rfl rfl rfl rfl rfl
      exact hk
  clear_value y2
  refine Keeps.ite ?_ ?_
  · apply State.msix_keeps
    refine Keeps.upd ?_ rfl rfl rfl rfl rfl
    exact hy1
  · exact hy1

theorem execMsixMaskClear_keeps (vector : BitVec 11) (s : State) : ∃ u, execMsixMaskClear vector s = .next u ∧ Keeps s u := by
  unfold execMsixMaskClear
  refine ⟨_, rfl, ?_⟩
  have hk : Keeps s s := Keeps.refl s
  refine Keeps.ite ?_ ?_
  · apply State.unmask_keeps
    exact hk
  · exact hk

theorem State.completeRun_keeps {s0 s : State} {q : RunEntry} {status cause due : Nat} (hk : Keeps s0 s) : Keeps s0 (s.completeRun q status cause due) := by
  unfold State.completeRun
  apply State.complete_keeps
  exact hk

theorem State.refuseRun_keeps {s0 s : State} {q : RunEntry} {cause : Nat} (hk : Keeps s0 s) : Keeps s0 (s.refuseRun q cause) := by
  unfold State.refuseRun
  apply State.completeRun_keeps
  apply State.groomEvent_keeps
  exact hk

end Sys2Proof.Machine
end

