-- ==== Sys2Proof/Laws/KeepsFabric.lean ====
section
/-!
SUPPORT. The commands of links, frames and module time keep what Keeps says.
-/
namespace Sys2Proof.Machine

open Sys2Proof.Safety

/-! ### Links -/

theorem State.fabErr_keeps {s0 s : State} {bit number : Nat} (hk : Keeps s0 s) : Keeps s0 (s.fabErr bit number) := by
  unfold State.fabErr
  extract_lets y1
  have hy1 : Keeps s0 y1 := by
    subst y1
    refine Keeps.ite ?_ ?_
    · apply State.setField_keeps
      exact hk
    · exact hk
  clear_value y1
  apply State.setBit_keeps
  exact hy1

theorem State.discard_keeps {s0 s : State} {p : Nat} {f : Frame} (hk : Keeps s0 s) : Keeps s0 (s.discard p f) := by
  unfold State.discard
  apply State.fabErr_keeps
  apply State.setBit_keeps
  apply State.portEvent_keeps
  exact hk

theorem State.foreign_keeps {s0 s : State} {p : Nat} (hk : Keeps s0 s) : Keeps s0 (s.foreign p) := by
  unfold State.foreign
  apply State.setBit_keeps
  exact hk

theorem State.transmit_keeps {s0 s : State} {p : Nat} {f : Frame} {first : Bool} (hk : Keeps s0 s) : Keeps s0 (s.transmit p f first) := by
  unfold State.transmit
  extract_lets y1 y2 y3 y4 y5 y6 y7 y8
  have hy1 : Keeps s0 y5 := by
    subst y5
    apply State.emit_keeps
    exact hk
  clear_value y5
  subst y8
  refine Keeps.ite ?_ ?_
  · split
    · apply State.emit_keeps
      apply State.setPort_keeps
      exact hy1
    · exact hy1
  · refine Keeps.ite ?_ ?_
    · apply State.setPort_keeps
      exact hk
    · refine Keeps.ite ?_ ?_
      · beta_reduce
        split
        · apply State.emit_keeps
          apply State.setPort_keeps
          apply State.emit_keeps
          exact hk
        · apply State.setPort_keeps
          apply State.emit_keeps
          exact hk
      · refine Keeps.ite ?_ ?_
        · apply State.setPort_keeps
          exact hk
        · beta_reduce
          split
          · apply State.emit_keeps
            apply State.setPort_keeps
            apply State.emit_keeps
            exact hk
          · apply State.setPort_keeps
            apply State.emit_keeps
            exact hk

theorem State.sendData_keeps {s0 s : State} {p at_ : Nat} {f : Frame} (hk : Keeps s0 s) : Keeps s0 (s.sendData p at_ f) := by
  unfold State.sendData
  extract_lets y1 y2 y3 y4
  have hy1 : Keeps s0 y4 := by
    subst y4
    apply State.setPort_keeps
    exact hk
  clear_value y4
  refine Keeps.ite ?_ ?_
  · exact hk
  · refine Keeps.ite ?_ ?_
    · apply State.emit_keeps
      exact hk
    · apply State.transmit_keeps
      exact hy1

theorem State.sendControl_keeps {s0 s : State} {p : Nat} {f : Frame} (hk : Keeps s0 s) : Keeps s0 (s.sendControl p f) := by
  unfold State.sendControl
  refine Keeps.ite ?_ ?_
  · apply State.emit_keeps
    exact hk
  · exact hk

theorem State.sendLink_keeps {s0 s : State} {p what lseq : Nat} (hk : Keeps s0 s) : Keeps s0 (s.sendLink p what lseq) := by
  unfold State.sendLink
  extract_lets y1
  apply State.sendControl_keeps
  exact hk

theorem State.answer_keeps {s0 s : State} {p : Nat} {f : Frame} {kind : Nat} {payload : List Byte} (hk : Keeps s0 s) : Keeps s0 (s.answer p f kind payload) := by
  unfold State.answer
  extract_lets y1 y2
  apply State.sendControl_keeps
  exact hk

theorem State.linkTake_keeps {s0 s : State} {p : Nat} {f : Frame} (hk : Keeps s0 s) : Keeps s0 (s.linkTake p f).1 := by
  unfold State.linkTake
  extract_lets y1 y2 y3 y4 y5 y6 y7
  have hy1 : Keeps s0 y6 := by
    subst y6
    apply State.setPort_keeps
    exact hk
  clear_value y6
  have hy2 : Keeps s0 y7 := by
    subst y7
    apply State.sendLink_keeps
    exact hy1
  clear_value y7
  split
  · dsimp only
    apply State.sendLink_keeps
    exact hk
  · split
    · dsimp only
      apply State.sendLink_keeps
      exact hk
    · dsimp only
      refine Keeps.ite ?_ ?_
      · apply State.sendLink_keeps
        exact hy2
      · exact hy2

theorem State.takeFrame_keeps {s0 s : State} {p : Nat} {f : Frame} (hk : Keeps s0 s) : Keeps s0 (s.takeFrame p f).1 := by
  unfold State.takeFrame
  split
  · dsimp only
    exact hk
  · split
    · split
      · dsimp only
        apply State.foreign_keeps
        exact hk
      · split
        · apply State.linkTake_keeps
          exact hk
        · dsimp only
          exact hk
    · split
      · dsimp only
        apply State.foreign_keeps
        exact hk
      · split
        · dsimp only
          exact hk
        · dsimp only
          exact hk

theorem State.downLink_keeps {s0 s : State} {p : Nat} (hk : Keeps s0 s) : Keeps s0 (s.downLink p) := by
  unfold State.downLink
  extract_lets y1 y2 y3
  have hy1 : Keeps s0 y2 := by
    subst y2
    apply State.setPort_keeps
    exact hk
  clear_value y2
  have hy2 : Keeps s0 y3 := by
    subst y3
    apply State.setBit_keeps
    apply State.portEvent_keeps
    exact hy1
  clear_value y3
  refine Keeps.ite ?_ ?_
  · exact hk
  · apply State.setField_keeps
    apply State.bump_keeps
    exact hy2

theorem State.resend_keeps {s0 s : State} {p : Nat} {r : Replay} (hk : Keeps s0 s) : Keeps s0 (s.resend p r) := by
  unfold State.resend
  extract_lets y1 y2 y3 y4 y5 y6 y7
  have hy1 : Keeps s0 y4 := by
    subst y4
    apply State.setPort_keeps
    exact hk
  clear_value y4
  have hy2 : Keeps s0 y5 := by
    subst y5
    apply State.bump_keeps
    exact hy1
  clear_value y5
  have hy3 : Keeps s0 y7 := by
    subst y7
    refine Keeps.ite ?_ ?_
    · exact hy2
    · apply State.setBit_keeps
      apply State.portEvent_keeps
      refine Keeps.upd ?_ rfl rfl rfl rfl rfl
      exact hy2
  clear_value y7
  refine Keeps.ite ?_ ?_
  · apply State.downLink_keeps
    exact hk
  · apply State.transmit_keeps
    exact hy3

theorem execLinkAckTimeout_keeps (p : PortId) (lseq : BitVec 16) (s : State) : ∃ u, execLinkAckTimeout p lseq s = .next u ∧ Keeps s u := by
  unfold execLinkAckTimeout
  refine ⟨_, rfl, ?_⟩
  have hk : Keeps s s := Keeps.refl s
  split
  · refine Keeps.ite ?_ ?_
    · apply State.resend_keeps
      apply State.at__keeps
      exact hk
    · exact hk
  · exact hk

theorem execLinkFrame_keeps (p : PortId) (f : Frame) (s : State) : ∃ u, execLinkFrame p f s = .next u ∧ Keeps s u := by
  unfold execLinkFrame
  refine ⟨_, rfl, ?_⟩
  have hk : Keeps s s := Keeps.refl s
  extract_lets y1
  refine Keeps.ite ?_ ?_
  · exact hk
  · refine Keeps.ite ?_ ?_
    · apply State.foreign_keeps
      exact hk
    · split
      · apply State.setPort_keeps
        exact hk
      · split
        · apply State.resend_keeps
          exact hk
        · exact hk
      · apply State.setField_keeps
        apply State.setPort_keeps
        exact hk
      · exact hk

theorem execLinkDown_keeps (p : PortId) (s : State) : ∃ u, execLinkDown p s = .next u ∧ Keeps s u := by
  unfold execLinkDown
  refine ⟨_, rfl, ?_⟩
  have hk : Keeps s s := Keeps.refl s
  refine Keeps.ite ?_ ?_
  · apply State.downLink_keeps
    apply State.cross_keeps
    exact hk
  · exact hk

theorem execLinkUp_keeps (p : PortId) (mod : BitVec 16) (port : BitVec 5) (s : State) : ∃ u, execLinkUp p mod port s = .next u ∧ Keeps s u := by
  unfold execLinkUp
  refine ⟨_, rfl, ?_⟩
  have hk : Keeps s s := Keeps.refl s
  extract_lets y1 y2 y3
  have hy1 : Keeps s y3 := by
    subst y3
    apply State.setPort_keeps
    apply State.cross_keeps
    exact hk
  clear_value y3
  refine Keeps.ite ?_ ?_
  · exact hk
  · refine Keeps.ite ?_ ?_
    · apply State.sendLink_keeps
      apply State.setField_keeps
      exact hy1
    · exact hy1

theorem execFabInjCtrlWrite_keeps (p : PortId) (v : Word) (s : State) : ∃ u, execFabInjCtrlWrite p v s = .next u ∧ Keeps s u := by
  unfold execFabInjCtrlWrite
  refine ⟨_, rfl, ?_⟩
  have hk : Keeps s s := Keeps.refl s
  extract_lets y1 y2 y3 y4 y5 y6 y7 y8
  have hy1 : Keeps s y3 := by
    subst y3
    apply State.setField_keeps
    apply State.writeReg_keeps
    exact hk
  clear_value y3
  have hy2 : Keeps s y5 := by
    subst y5
    apply State.setPort_keeps
    exact hy1
  clear_value y5
  have hy3 : Keeps s y8 := by
    subst y8
    refine Keeps.upd ?_ rfl rfl rfl rfl rfl
    exact hy2
  clear_value y8
  refine Keeps.ite ?_ ?_
  · exact hk
  · refine Keeps.ite ?_ ?_
    · apply State.setBit_keeps
      exact hk
    · refine Keeps.ite ?_ ?_
      · exact hy2
      · apply State.fabErr_keeps
        apply State.portEvent_keeps
        exact hy3


/-! ### CkptOps -/

theorem State.settlePoint_keeps {s0 s : State} (hk : Keeps s0 s) : Keeps s0 (s.settlePoint) := by
  unfold State.settlePoint
  extract_lets y1
  split
  · refine Keeps.ite ?_ ?_
    · refine Keeps.upd ?_ rfl rfl rfl rfl rfl
      exact hk
    · exact hk
  · exact hk

theorem State.destFail_keeps {s0 s : State} {d cause : Nat} (hk : Keeps s0 s) : Keeps s0 (s.destFail d cause) := by
  unfold State.destFail
  extract_lets y1 y2 y3 y4
  have hy1 : Keeps s0 y1 := by
    subst y1
    apply State.groomEvent_keeps
    exact hk
  clear_value y1
  have hy2 : Keeps s0 y2 := by
    subst y2
    refine Keeps.ite ?_ ?_
    · exact hy1
    · apply State.setField_keeps
      exact hy1
  clear_value y2
  have hy3 : Keeps s0 y3 := by
    subst y3
    apply State.setBit_keeps
    exact hy2
  clear_value y3
  split
  · refine Keeps.ite ?_ ?_
    · exact hk
    · apply State.settlePoint_keeps
      refine Keeps.upd ?_ rfl rfl rfl rfl rfl
      exact hy3
  · exact hk

theorem State.stepSkew_keeps {s0 s : State} {g sigma : Nat} (hk : Keeps s0 s) : Keeps s0 (s.stepSkew g sigma) := by
  unfold State.stepSkew
  extract_lets y1 y2 y3 y4 y5 y6
  have hy1 : Keeps s0 y2 := by
    subst y2
    refine Keeps.upd ?_ rfl rfl rfl rfl rfl
    exact hk
  clear_value y2
  have hy2 : Keeps s0 y4 := by
    subst y4
    refine Keeps.upd ?_ rfl rfl rfl rfl rfl
    exact hy1
  clear_value y4
  have hy3 : Keeps s0 y5 := by
    subst y5
    apply State.groomEvent_keeps
    exact hy2
  clear_value y5
  have hy4 : Keeps s0 y6 := by
    subst y6
    refine Keeps.ite ?_ ?_
    · exact hy3
    · apply State.setReg_keeps
      apply State.setField_keeps
      exact hy3
  clear_value y6
  refine Keeps.ite ?_ ?_
  · exact hy1
  · apply State.setBit_keeps
    exact hy4


/-! ### Frames -/

theorem State.closedWindow_keeps {s0 s : State} {p : Nat} {f : Frame} (hk : Keeps s0 s) : Keeps s0 (s.closedWindow p f) := by
  unfold State.closedWindow
  apply State.answer_keeps
  apply State.bump_keeps
  exact hk

theorem State.badFit_keeps {s0 s : State} {p : Nat} {f : Frame} (hk : Keeps s0 s) : Keeps s0 (s.badFit p f) := by
  unfold State.badFit
  extract_lets y1
  have hy1 : Keeps s0 y1 := by
    subst y1
    apply State.answer_keeps
    apply State.discard_keeps
    exact hk
  clear_value y1
  refine Keeps.ite ?_ ?_
  · apply State.failShot_keeps
    exact hy1
  · exact hy1

theorem State.injectSend_keeps {s0 s : State} {t : Transfer} {k : Nat} (hk : Keeps s0 s) : Keeps s0 (s.injectSend t k) := by
  unfold State.injectSend
  extract_lets y1 y2 y3 y4 y5 y6 y7 y8
  have hy1 : Keeps s0 y7 := by
    subst y7
    apply State.at__keeps
    exact hk
  clear_value y7
  split
  · exact hk
  · split
    extract_lets y9 y10 y11
    have hy2 : Keeps s0 y9 := by
      subst y9
      refine Keeps.ite ?_ ?_
      · apply State.failEvent_keeps
        refine Keeps.ofEq (by assumption) ?_
        apply State.readMem_keeps
        exact hy1
      · refine Keeps.ofEq (by assumption) ?_
        apply State.readMem_keeps
        exact hy1
    clear_value y9
    refine Keeps.ite ?_ ?_
    · apply State.failShot_keeps
      exact hy2
    · refine Keeps.ite ?_ ?_
      · apply State.sendData_keeps
        exact hy2
      · exact hy2

theorem State.exchSource_keeps {s0 s : State} {t : Transfer} {k x : Nat} (hk : Keeps s0 s) : Keeps s0 (s.exchSource t k x).1 := by
  unfold State.exchSource
  extract_lets y1 y2 y3
  have hy1 : Keeps s0 y2 := by
    subst y2
    apply State.syncAll_keeps
    exact hk
  clear_value y2
  split
  · dsimp only
    refine Keeps.upd ?_ rfl rfl rfl rfl rfl
    exact hy1
  · split
    · split
      dsimp only
      refine Keeps.ofEq (by assumption) ?_
      apply State.readMem_keeps
      exact hk
    · split
      dsimp only
      refine Keeps.ofEq (by assumption) ?_
      apply State.readMem_keeps
      exact hk

theorem State.sendExch_keeps {s0 s : State} {t : Transfer} {k j : Nat} {data : List Byte} (hk : Keeps s0 s) : Keeps s0 (s.sendExch t k j data) := by
  unfold State.sendExch
  extract_lets y1
  split
  · exact hk
  · extract_lets y2 y3 y4
    refine Keeps.ite ?_ ?_
    · apply State.sendData_keeps
      exact hk
    · exact hk

theorem State.setExch_keeps {s0 s : State} {e : Exch} (hk : Keeps s0 s) : Keeps s0 (s.setExch e) := by
  unfold State.setExch
  extract_lets y1
  refine Keeps.upd ?_ rfl rfl rfl rfl rfl
  exact hk

theorem State.injectExch_keeps {s0 s : State} {t : Transfer} {k : Nat} (hk : Keeps s0 s) : Keeps s0 (s.injectExch t k) := by
  unfold State.injectExch
  extract_lets y1 y2
  refine Keeps.ite ?_ ?_
  · exact hk
  · split
    extract_lets y3 y4
    have hy1 : Keeps s0 y3 := by
      subst y3
      refine Keeps.ite ?_ ?_
      · apply State.failEvent_keeps
        refine Keeps.ofEq (by assumption) ?_
        apply State.exchSource_keeps
        apply State.at__keeps
        exact hk
      · refine Keeps.ofEq (by assumption) ?_
        apply State.exchSource_keeps
        apply State.at__keeps
        exact hk
    clear_value y3
    have hy2 : Keeps s0 y4 := by
      subst y4
      apply State.setExch_keeps
      exact hy1
    clear_value y4
    refine Keeps.ite ?_ ?_
    · apply State.failShot_keeps
      exact hy1
    · apply State.sendExch_keeps
      exact hy2

theorem execFrameInject_keeps (number : BitVec 16) (frame : Nat) (s : State) : ∃ u, execFrameInject number frame s = .next u ∧ Keeps s u := by
  unfold execFrameInject
  refine ⟨_, rfl, ?_⟩
  have hk : Keeps s s := Keeps.refl s
  extract_lets y1 y2 y3
  have hy1 : Keeps s y3 := by
    subst y3
    refine Keeps.upd ?_ rfl rfl rfl rfl rfl
    exact hk
  clear_value y3
  refine Keeps.ite ?_ ?_
  · exact hk
  · split
    · exact hk
    · refine Keeps.ite ?_ ?_
      · refine Keeps.ite ?_ ?_
        · apply State.injectExch_keeps
          exact hy1
        · apply State.injectSend_keeps
          exact hy1
      · exact hk

theorem State.holdForward_keeps {s0 s : State} {p : Nat} {f : Frame} (hk : Keeps s0 s) : Keeps s0 (s.holdForward p f) := by
  unfold State.holdForward
  extract_lets y1 y2 y3
  split
  · apply State.discard_keeps
    exact hk
  · refine Keeps.upd ?_ rfl rfl rfl rfl rfl
    exact hk

theorem State.relay_keeps {s0 s : State} {f : Frame} (hk : Keeps s0 s) : Keeps s0 (s.relay f) := by
  unfold State.relay
  split
  · refine Keeps.ite ?_ ?_
    · apply State.sendData_keeps
      exact hk
    · apply State.sendControl_keeps
      exact hk
  · exact hk

theorem execFrameForward_keeps (p : PortId) (lseq : BitVec 16) (s : State) : ∃ u, execFrameForward p lseq s = .next u ∧ Keeps s u := by
  unfold execFrameForward
  refine ⟨_, rfl, ?_⟩
  have hk : Keeps s s := Keeps.refl s
  extract_lets y1
  split
  · exact hk
  · extract_lets y2
    have hy1 : Keeps s y2 := by
      subst y2
      refine Keeps.upd ?_ rfl rfl rfl rfl rfl
      exact hk
    clear_value y2
    refine Keeps.ite ?_ ?_
    · apply State.bump_keeps
      exact hy1
    · split
      · exact hy1
      · refine Keeps.ite ?_ ?_
        · apply State.sendData_keeps
          apply State.at__keeps
          exact hy1
        · apply State.at__keeps
          exact hy1

theorem State.takeWrite_keeps {s0 s : State} {p : Nat} {f : Frame} (hk : Keeps s0 s) : Keeps s0 (s.takeWrite p f) := by
  unfold State.takeWrite
  extract_lets y1 y2
  have hy1 : Keeps s0 y1 := by
    subst y1
    split
    · refine Keeps.ite ?_ ?_
      · apply State.writeMem_keeps
        exact hk
      · split
        · extract_lets y3
          apply State.modStall_keeps
          apply State.sync_keeps
          exact hk
        · exact hk
    · exact hk
  clear_value y1
  have hy2 : Keeps s0 y2 := by
    subst y2
    refine Keeps.ite ?_ ?_
    · apply State.stepSkew_keeps
      exact hk
    · exact hk
  clear_value y2
  refine Keeps.ite ?_ ?_
  · apply State.closedWindow_keeps
    exact hk
  · refine Keeps.ite ?_ ?_
    · apply State.badFit_keeps
      exact hk
    · refine Keeps.ite ?_ ?_
      · apply State.answer_keeps
        exact hy1
      · split
        · apply State.failShot_keeps
          apply State.discard_keeps
          exact hk
        · extract_lets y4 y5 y6
          have hy3 : Keeps s0 y5 := by
            subst y5
            split
            · refine Keeps.ite ?_ ?_
              · split
                · apply State.modStall_keeps
                  exact hy2
                · exact hy2
              · exact hy2
            · exact hy2
          clear_value y5
          refine Keeps.upd ?_ rfl rfl rfl rfl rfl
          exact hy3

theorem State.deliver_keeps {s0 s : State} {p : Nat} {f : Frame} {here : State → State} (hk : Keeps s0 s)
    (hf : ∀ u, Keeps s0 u → Keeps s0 (here u)) : Keeps s0 (s.deliver p f here) := by
  unfold State.deliver
  split
  refine Keeps.ite ?_ ?_
  · refine Keeps.ofEq (by assumption) ?_
    apply State.takeFrame_keeps
    exact hk
  · refine Keeps.ite ?_ ?_
    · refine Keeps.ite ?_ ?_
      · apply State.holdForward_keeps
        refine Keeps.ofEq (by assumption) ?_
        apply State.takeFrame_keeps
        exact hk
      · apply State.relay_keeps
        refine Keeps.ofEq (by assumption) ?_
        apply State.takeFrame_keeps
        exact hk
    · refine hf _ ?_
      refine Keeps.ofEq (by assumption) ?_
      apply State.takeFrame_keeps
      exact hk

theorem execWriteFrame_keeps (p : PortId) (f : Frame) (s : State) : ∃ u, execWriteFrame p f s = .next u ∧ Keeps s u := by
  unfold execWriteFrame
  refine ⟨_, rfl, ?_⟩
  have hk : Keeps s s := Keeps.refl s
  refine Keeps.ite ?_ ?_
  · apply State.deliver_keeps
    · exact hk
    · intro a1 k1
      apply State.takeWrite_keeps
      exact k1
  · exact hk

theorem execCsumFrame_keeps (p : PortId) (f : Frame) (s : State) : ∃ u, execCsumFrame p f s = .next u ∧ Keeps s u := by
  unfold execCsumFrame
  refine ⟨_, rfl, ?_⟩
  have hk : Keeps s s := Keeps.refl s
  refine Keeps.ite ?_ ?_
  · apply State.deliver_keeps
    · exact hk
    · intro a1 k1
      apply State.takeWrite_keeps
      exact k1
  · exact hk

theorem State.landWrite_keeps {s0 s : State} {h : Held} {r : WindowRec} (hk : Keeps s0 s) : Keeps s0 (s.landWrite h r) := by
  unfold State.landWrite
  extract_lets y1
  refine Keeps.ite ?_ ?_
  · apply State.writeMem_keeps
    exact hk
  · split
    · extract_lets y2
      apply State.modStall_keeps
      apply State.sync_keeps
      exact hk
    · exact hk

theorem State.landSum_keeps {s0 s : State} {h : Held} {t : Transfer} {k : Nat} {r : WindowRec} (hk : Keeps s0 s) : Keeps s0 (s.landSum h t k r) := by
  unfold State.landSum
  extract_lets y1 y2 y3 y4 y5 y6 y7 y8 y9
  have hy1 : Keeps s0 y7 := by
    subst y7
    refine Keeps.upd ?_ rfl rfl rfl rfl rfl
    exact hk
  clear_value y7
  refine Keeps.foldl _ ?_ (fun a1 b1 k1 => ?_)
  · exact hy1
  · extract_lets y10
    split
    · exact k1
    · split
      refine Keeps.ite ?_ ?_
      · apply State.failShot_keeps
        refine Keeps.ofEq (by assumption) ?_
        apply State.readMem_keeps
        exact k1
      · split
        extract_lets y11
        have hy2 : Keeps s0 y11 := by
          subst y11
          refine Keeps.ite ?_ ?_
          · apply State.failEvent_keeps
            refine Keeps.ofEq (by assumption) ?_
            apply State.readMem_keeps
            exact k1
          · refine Keeps.ofEq (by assumption) ?_
            apply State.readMem_keeps
            exact k1
        clear_value y11
        apply State.writeMem_keeps
        exact hy2

theorem State.landHeld_keeps {s0 s : State} {h : Held} (hk : Keeps s0 s) : Keeps s0 (s.landHeld h) := by
  unfold State.landHeld
  extract_lets y1 y2 y3
  have hy1 : Keeps s0 y2 := by
    subst y2
    refine Keeps.upd ?_ rfl rfl rfl rfl rfl
    exact hk
  clear_value y2
  split
  · extract_lets y4
    have hy2 : Keeps s0 y4 := by
      subst y4
      refine Keeps.upd ?_ rfl rfl rfl rfl rfl
      exact hy1
    clear_value y4
    refine Keeps.ite ?_ ?_
    · apply State.landSum_keeps
      exact hy2
    · apply State.landWrite_keeps
      exact hy2
  · exact hy1

theorem execFrameLanding_keeps (number : BitVec 16) (frame : Nat) (s : State) : ∃ u, execFrameLanding number frame s = .next u ∧ Keeps s u := by
  unfold execFrameLanding
  refine ⟨_, rfl, ?_⟩
  have hk : Keeps s s := Keeps.refl s
  refine Keeps.ite ?_ ?_
  · exact hk
  · split
    · exact hk
    · extract_lets y1 y2 y3 y4 y5 y6 y7
      have hy1 : Keeps s y2 := by
        subst y2
        apply State.at__keeps
        exact hk
      clear_value y2
      have hy2 : Keeps s y4 := by
        subst y4
        refine Keeps.foldl _ ?_ (fun a1 b1 k1 => ?_)
        · exact hy1
        · apply State.landHeld_keeps
          exact k1
      clear_value y4
      have hy3 : Keeps s y6 := by
        subst y6
        refine Keeps.upd ?_ rfl rfl rfl rfl rfl
        exact hy2
      clear_value y6
      refine Keeps.ite ?_ ?_
      · exact hy2
      · apply State.failEvent_keeps
        exact hy3

theorem execExchFrame_keeps (p : PortId) (f : Frame) (s : State) : ∃ u, execExchFrame p f s = .next u ∧ Keeps s u := by
  unfold execExchFrame
  refine ⟨_, rfl, ?_⟩
  have hk : Keeps s s := Keeps.refl s
  extract_lets y1
  refine Keeps.ite ?_ ?_
  · exact hk
  · apply State.deliver_keeps
    · exact hk
    · intro a1 k1
      extract_lets y2 y3
      split
      · apply State.failShot_keeps
        apply State.discard_keeps
        exact k1
      · extract_lets y4 y5 y6 y7
        have hy1 : Keeps s y7 := by
          subst y7
          apply State.injectExch_keeps
          exact k1
        clear_value y7
        refine Keeps.ite ?_ ?_
        · apply State.failShot_keeps
          apply State.discard_keeps
          exact k1
        · split
          · exact hy1
          · extract_lets y8 y9
            have hy2 : Keeps s y9 := by
              subst y9
              apply State.setExch_keeps
              exact hy1
            clear_value y9
            refine Keeps.ite ?_ ?_
            · exact hy1
            · refine Keeps.ite ?_ ?_
              · apply State.sendExch_keeps
                exact hy2
              · refine Keeps.ite ?_ ?_
                · apply State.sendExch_keeps
                  exact hy2
                · exact hy2

theorem execExchangeResultWrite_keeps (number : BitVec 16) (s : State) : ∃ u, execExchangeResultWrite number s = .next u ∧ Keeps s u := by
  unfold execExchangeResultWrite
  refine ⟨_, rfl, ?_⟩
  have hk : Keeps s s := Keeps.refl s
  extract_lets y1
  refine Keeps.ite ?_ ?_
  · exact hk
  · split
    · exact hk
    · extract_lets y2 y3 y4 y5 y6 y7 y8 y9
      have hy1 : Keeps s y4 := by
        subst y4
        apply State.at__keeps
        exact hk
      clear_value y4
      have hy2 : Keeps s y6 := by
        subst y6
        refine Keeps.upd ?_ rfl rfl rfl rfl rfl
        exact hy1
      clear_value y6
      have hy3 : Keeps s y8 := by
        subst y8
        refine Keeps.foldl _ ?_ (fun a1 b1 k1 => ?_)
        · exact hy2
        · split
          · refine Keeps.ite ?_ ?_
            · apply State.writeMem_keeps
              exact k1
            · exact k1
          · exact k1
      clear_value y8
      refine Keeps.ite ?_ ?_
      · split
        · refine Keeps.upd ?_ rfl rfl rfl rfl rfl
          exact hy3
        · exact hy3
      · apply State.failEvent_keeps
        exact hy3

theorem State.readStall_keeps {s0 s : State} {i a len : Nat} (hk : Keeps s0 s) : Keeps s0 (s.readStall i a len).1 := by
  unfold State.readStall
  extract_lets y1 y2
  have hy1 : Keeps s0 y2 := by
    subst y2
    apply State.sync_keeps
    exact hk
  clear_value y2
  split
  dsimp only
  apply State.flush_keeps
  apply State.setStall_keeps
  exact hy1

theorem execReadReq_keeps (p : PortId) (f : Frame) (s : State) : ∃ u, execReadReq p f s = .next u ∧ Keeps s u := by
  unfold execReadReq
  refine ⟨_, rfl, ?_⟩
  have hk : Keeps s s := Keeps.refl s
  refine Keeps.ite ?_ ?_
  · exact hk
  · apply State.deliver_keeps
    · exact hk
    · intro a1 k1
      refine Keeps.ite ?_ ?_
      · apply State.closedWindow_keeps
        exact k1
      · refine Keeps.ite ?_ ?_
        · apply State.badFit_keeps
          exact k1
        · split
          · exact k1
          · split
            split
            · refine Keeps.ofEq (by assumption) ?_
              split
              · split
                dsimp only
                refine Keeps.ofEq (by assumption) ?_
                apply State.readMem_keeps
                exact k1
              · split
                · apply State.readStall_keeps
                  exact k1
                · dsimp only
                  exact k1
            · refine Keeps.foldl _ ?_ (fun a2 b1 k2 => ?_)
              · refine Keeps.ofEq (by assumption) ?_
                split
                · split
                  dsimp only
                  refine Keeps.ofEq (by assumption) ?_
                  apply State.readMem_keeps
                  exact k1
                · split
                  · apply State.readStall_keeps
                    exact k1
                  · dsimp only
                    exact k1
              · extract_lets y1 y2 y3
                split
                · apply State.sendData_keeps
                  exact k2
                · exact k2

theorem State.deliverFar_keeps {s0 s : State} {r : FarRead} {bs : List Byte} (hk : Keeps s0 s) : Keeps s0 (s.deliverFar r bs) := by
  unfold State.deliverFar
  extract_lets y1 y2
  have hy1 : Keeps s0 y2 := by
    subst y2
    refine Keeps.upd ?_ rfl rfl rfl rfl rfl
    exact hk
  clear_value y2
  apply State.modStall_keeps
  exact hy1

theorem execReadResp_keeps (p : PortId) (f : Frame) (s : State) : ∃ u, execReadResp p f s = .next u ∧ Keeps s u := by
  unfold execReadResp
  refine ⟨_, rfl, ?_⟩
  have hk : Keeps s s := Keeps.refl s
  refine Keeps.ite ?_ ?_
  · exact hk
  · apply State.deliver_keeps
    · exact hk
    · intro a1 k1
      extract_lets y1
      split
      · exact k1
      · extract_lets y2 y3
        refine Keeps.ite ?_ ?_
        · apply State.deliverFar_keeps
          exact k1
        · refine Keeps.upd ?_ rfl rfl rfl rfl rfl
          exact k1

theorem execAckFrame_keeps (p : PortId) (f : Frame) (s : State) : ∃ u, execAckFrame p f s = .next u ∧ Keeps s u := by
  unfold execAckFrame
  refine ⟨_, rfl, ?_⟩
  have hk : Keeps s s := Keeps.refl s
  refine Keeps.ite ?_ ?_
  · exact hk
  · apply State.deliver_keeps
    · exact hk
    · intro a1 k1
      extract_lets y1
      refine Keeps.upd ?_ rfl rfl rfl rfl rfl
      exact k1

theorem State.failMessage_keeps {s0 s : State} {m : Message} {cause : Nat} (hk : Keeps s0 s) : Keeps s0 (s.failMessage m cause) := by
  unfold State.failMessage
  extract_lets y1 y2
  have hy1 : Keeps s0 y2 := by
    subst y2
    refine Keeps.upd ?_ rfl rfl rfl rfl rfl
    exact hk
  clear_value y2
  split
  · apply State.destFail_keeps
    exact hy1
  · exact hy1

theorem execNackFrame_keeps (p : PortId) (f : Frame) (s : State) : ∃ u, execNackFrame p f s = .next u ∧ Keeps s u := by
  unfold execNackFrame
  refine ⟨_, rfl, ?_⟩
  have hk : Keeps s s := Keeps.refl s
  extract_lets y1
  refine Keeps.ite ?_ ?_
  · exact hk
  · apply State.deliver_keeps
    · exact hk
    · intro a1 k1
      extract_lets y2 y3 y4
      have hy1 : Keeps s y2 := by
        subst y2
        apply State.fabErr_keeps
        apply State.portEvent_keeps
        exact k1
      clear_value y2
      have hy2 : Keeps s y3 := by
        subst y3
        refine Keeps.ite ?_ ?_
        · apply State.setBit_keeps
          exact hy1
        · exact hy1
      clear_value y3
      refine Keeps.ite ?_ ?_
      · exact k1
      · refine Keeps.ite ?_ ?_
        · apply State.failShot_keeps
          exact hy2
        · split
          · apply State.failMessage_keeps
            exact hy2
          · refine Keeps.upd ?_ rfl rfl rfl rfl rfl
            exact hy2

theorem execUnscheduledResend_keeps (number : BitVec 16) (s : State) : ∃ u, execUnscheduledResend number s = .next u ∧ Keeps s u := by
  unfold execUnscheduledResend
  refine ⟨_, rfl, ?_⟩
  have hk : Keeps s s := Keeps.refl s
  split
  · exact hk
  · extract_lets y1 y2 y3 y4
    have hy1 : Keeps s y1 := by
      subst y1
      apply State.at__keeps
      exact hk
    clear_value y1
    have hy2 : Keeps s y4 := by
      subst y4
      refine Keeps.upd ?_ rfl rfl rfl rfl rfl
      exact hy1
    clear_value y4
    refine Keeps.ite ?_ ?_
    · exact hk
    · refine Keeps.ite ?_ ?_
      · apply State.failMessage_keeps
        exact hy1
      · split
        · apply State.sendData_keeps
          exact hy2
        · exact hy2

theorem execUnknownFrame_keeps (p : PortId) (f : Frame) (s : State) : ∃ u, execUnknownFrame p f s = .next u ∧ Keeps s u := by
  unfold execUnknownFrame
  refine ⟨_, rfl, ?_⟩
  have hk : Keeps s s := Keeps.refl s
  split
  refine Keeps.ite ?_ ?_
  · apply State.discard_keeps
    refine Keeps.ofEq (by assumption) ?_
    apply State.takeFrame_keeps
    exact hk
  · refine Keeps.ofEq (by assumption) ?_
    apply State.takeFrame_keeps
    exact hk

theorem State.setWindow_keeps {s0 s : State} {n : Nat} {w : Window} (hk : Keeps s0 s) : Keeps s0 (s.setWindow n w) := by
  unfold State.setWindow
  extract_lets y1
  refine Keeps.upd ?_ rfl rfl rfl rfl rfl
  exact hk

theorem State.setBinding_keeps {s0 s : State} {n : Nat} {b : Binding} (hk : Keeps s0 s) : Keeps s0 (s.setBinding n b) := by
  unfold State.setBinding
  extract_lets y1
  refine Keeps.upd ?_ rfl rfl rfl rfl rfl
  exact hk

theorem execFabWinCtrlGo_keeps (v : Word) (s : State) : ∃ u, execFabWinCtrlGo v s = .next u ∧ Keeps s u := by
  unfold execFabWinCtrlGo
  refine ⟨_, rfl, ?_⟩
  have hk : Keeps s s := Keeps.refl s
  extract_lets y1 y2 y3
  have hy1 : Keeps s y1 := by
    subst y1
    apply State.writeReg_keeps
    exact hk
  clear_value y1
  refine Keeps.ite ?_ ?_
  · exact hk
  · refine Keeps.ite ?_ ?_
    · exact hy1
    · refine Keeps.ite ?_ ?_
      · apply State.setWindow_keeps
        exact hy1
      · apply State.setWindow_keeps
        exact hy1

theorem execFabBindCtrlGo_keeps (v : Word) (s : State) : ∃ u, execFabBindCtrlGo v s = .next u ∧ Keeps s u := by
  unfold execFabBindCtrlGo
  refine ⟨_, rfl, ?_⟩
  have hk : Keeps s s := Keeps.refl s
  extract_lets y1 y2 y3 y4
  have hy1 : Keeps s y1 := by
    subst y1
    apply State.writeReg_keeps
    exact hk
  clear_value y1
  refine Keeps.ite ?_ ?_
  · exact hk
  · refine Keeps.ite ?_ ?_
    · exact hy1
    · refine Keeps.ite ?_ ?_
      · apply State.setBinding_keeps
        exact hy1
      · apply State.setBinding_keeps
        exact hy1

theorem State.applyWindows_keeps {s0 s : State} (hk : Keeps s0 s) : Keeps s0 (s.applyWindows) := by
  unfold State.applyWindows
  extract_lets y1
  have hy1 : Keeps s0 y1 := by
    subst y1
    refine Keeps.foldl _ ?_ (fun a1 b1 k1 => ?_)
    · exact hk
    · split
      · apply State.setWindow_keeps
        exact k1
      · exact k1
  clear_value y1
  refine Keeps.foldl _ ?_ (fun a2 b2 k2 => ?_)
  · exact hy1
  · extract_lets y2
    split
    · apply State.setBinding_keeps
      exact k2
    · exact k2

theorem execArpRequest_keeps (p : PortId) (addr : Nat) (s : State) : ∃ u, execArpRequest p addr s = .next u ∧ Keeps s u := by
  unfold execArpRequest
  refine ⟨_, rfl, ?_⟩
  have hk : Keeps s s := Keeps.refl s
  refine Keeps.ite ?_ ?_
  · exact hk
  · refine Keeps.ite ?_ ?_
    · apply State.emit_keeps
      exact hk
    · apply State.foreign_keeps
      exact hk

theorem execNeighborSolicitation_keeps (p : PortId) (addr : Nat) (s : State) : ∃ u, execNeighborSolicitation p addr s = .next u ∧ Keeps s u := by
  unfold execNeighborSolicitation
  refine ⟨_, rfl, ?_⟩
  have hk : Keeps s s := Keeps.refl s
  refine Keeps.ite ?_ ?_
  · exact hk
  · refine Keeps.ite ?_ ?_
    · apply State.emit_keeps
      exact hk
    · apply State.foreign_keeps
      exact hk


/-! ### Time -/

theorem State.setEpoch_keeps {s0 s : State} {n count : Nat} (hk : Keeps s0 s) : Keeps s0 (s.setEpoch n count) := by
  unfold State.setEpoch
  extract_lets y1 y2 y3 y4
  have hy1 : Keeps s0 y3 := by
    subst y3
    refine Keeps.upd ?_ rfl rfl rfl rfl rfl
    exact hk
  clear_value y3
  refine Keeps.upd ?_ rfl rfl rfl rfl rfl
  exact hy1

theorem State.badAnnounce_keeps {s0 s : State} (hk : Keeps s0 s) : Keeps s0 (s.badAnnounce) := by
  unfold State.badAnnounce
  apply State.bump_keeps
  exact hk

theorem State.holdAnnounce_keeps {s0 s : State} {n count : Nat} (hk : Keeps s0 s) : Keeps s0 (s.holdAnnounce n count) := by
  unfold State.holdAnnounce
  extract_lets y1
  refine Keeps.upd ?_ rfl rfl rfl rfl rfl
  exact hk

theorem State.takeAnnounce_keeps {s0 s : State} {n count : Nat} (hk : Keeps s0 s) : Keeps s0 (s.takeAnnounce n count).1 := by
  unfold State.takeAnnounce
  extract_lets y1 y2
  have hy1 : Keeps s0 y1 := by
    subst y1
    refine Keeps.ite ?_ ?_
    · apply State.setEpoch_keeps
      exact hk
    · exact hk
  clear_value y1
  split
  · dsimp only
    apply State.badAnnounce_keeps
    exact hy1
  · split
    · dsimp only
      exact hy1
    · dsimp only
      apply State.holdAnnounce_keeps
      exact hy1

theorem State.announceChildren_keeps {s0 s : State} {payload : List Byte} (hk : Keeps s0 s) : Keeps s0 (s.announceChildren payload) := by
  unfold State.announceChildren
  refine Keeps.foldl _ ?_ (fun a1 b1 k1 => ?_)
  · exact hk
  · extract_lets y1 y2
    apply State.sendControl_keeps
    apply State.sendControl_keeps
    exact k1

theorem execTickFrame_keeps (p : PortId) (f : Frame) (s : State) : ∃ u, execTickFrame p f s = .next u ∧ Keeps s u := by
  unfold execTickFrame
  refine ⟨_, rfl, ?_⟩
  have hk : Keeps s s := Keeps.refl s
  extract_lets y1 y2
  refine Keeps.ite ?_ ?_
  · exact hk
  · split
    refine Keeps.ite ?_ ?_
    · refine Keeps.ofEq (by assumption) ?_
      apply State.takeFrame_keeps
      exact hk
    · refine Keeps.ite ?_ ?_
      · apply State.badAnnounce_keeps
        refine Keeps.ofEq (by assumption) ?_
        apply State.takeFrame_keeps
        exact hk
      · split
        refine Keeps.ite ?_ ?_
        · apply State.announceChildren_keeps
          refine Keeps.ofEq (by assumption) ?_
          apply State.takeAnnounce_keeps
          refine Keeps.ofEq (by assumption) ?_
          apply State.takeFrame_keeps
          exact hk
        · refine Keeps.ofEq (by assumption) ?_
          apply State.takeAnnounce_keeps
          refine Keeps.ofEq (by assumption) ?_
          apply State.takeFrame_keeps
          exact hk

theorem execTickInWord_keeps (w : BitVec 128) (s : State) : ∃ u, execTickInWord w s = .next u ∧ Keeps s u := by
  unfold execTickInWord
  refine ⟨_, rfl, ?_⟩
  have hk : Keeps s s := Keeps.refl s
  extract_lets y1 y2
  refine Keeps.ite ?_ ?_
  · exact hk
  · refine Keeps.ite ?_ ?_
    · apply State.badAnnounce_keeps
      exact hk
    · apply State.takeAnnounce_keeps
      exact hk

theorem State.setOffset_keeps {s0 s : State} {o : Int} (hk : Keeps s0 s) : Keeps s0 (s.setOffset o) := by
  unfold State.setOffset
  extract_lets y1
  apply State.setReg_keeps
  refine Keeps.upd ?_ rfl rfl rfl rfl rfl
  exact hk

theorem State.stepTime_keeps {s0 s : State} {offset : Int} (hk : Keeps s0 s) : Keeps s0 (s.stepTime offset) := by
  unfold State.stepTime
  extract_lets y1 y2 y3 y4 y5 y6
  have hy1 : Keeps s0 y2 := by
    subst y2
    refine Keeps.upd ?_ rfl rfl rfl rfl rfl
    exact hk
  clear_value y2
  have hy2 : Keeps s0 y3 := by
    subst y3
    apply State.setOffset_keeps
    exact hy1
  clear_value y3
  have hy3 : Keeps s0 y5 := by
    subst y5
    refine Keeps.upd ?_ rfl rfl rfl rfl rfl
    exact hy2
  clear_value y5
  split
  · refine Keeps.upd ?_ rfl rfl rfl rfl rfl
    exact hy3
  · exact hy3

theorem execPtpSync_keeps (offset : Int) (s : State) : ∃ u, execPtpSync offset s = .next u ∧ Keeps s u := by
  unfold execPtpSync
  refine ⟨_, rfl, ?_⟩
  have hk : Keeps s s := Keeps.refl s
  extract_lets y1 y2 y3
  have hy1 : Keeps s y1 := by
    subst y1
    apply State.setOffset_keeps
    exact hk
  clear_value y1
  refine Keeps.ite ?_ ?_
  · exact hk
  · refine Keeps.ite ?_ ?_
    · apply State.stepTime_keeps
      exact hk
    · refine Keeps.ite ?_ ?_
      · apply State.fabErr_keeps
        apply State.groomEvent_keeps
        refine Keeps.upd ?_ rfl rfl rfl rfl rfl
        exact hy1
      · refine Keeps.ite ?_ ?_
        · refine Keeps.upd ?_ rfl rfl rfl rfl rfl
          exact hy1
        · exact hy1

theorem execPdelayReq_keeps (p : PortId) (s : State) : ∃ u, execPdelayReq p s = .next u ∧ Keeps s u := by
  unfold execPdelayReq
  refine ⟨_, rfl, ?_⟩
  have hk : Keeps s s := Keeps.refl s
  refine Keeps.ite ?_ ?_
  · apply State.emit_keeps
    apply State.emit_keeps
    exact hk
  · exact hk

theorem execPtpMessageInterval_keeps (s : State) : ∃ u, execPtpMessageInterval s = .next u ∧ Keeps s u := by
  unfold execPtpMessageInterval
  refine ⟨_, rfl, ?_⟩
  have hk : Keeps s s := Keeps.refl s
  extract_lets y1
  refine Keeps.ite ?_ ?_
  · exact hk
  · refine Keeps.foldl _ ?_ (fun a1 b1 k1 => ?_)
    · exact hk
    · extract_lets y2
      have hy1 : Keeps s y2 := by
        subst y2
        apply State.emit_keeps
        exact k1
      clear_value y2
      refine Keeps.ite ?_ ?_
      · exact k1
      · refine Keeps.ite ?_ ?_
        · apply State.emit_keeps
          apply State.emit_keeps
          exact hy1
        · exact hy1

end Sys2Proof.Machine
end

