-- ==== Sys2Proof/Laws/KeepsTraining.lean ====
section
/-!
SUPPORT. The commands of training, checkpoints, refresh and serving keep what Keeps says.
-/
namespace Sys2Proof.Machine

open Sys2Proof.Safety

/-! ### Securing -/

theorem State.setGroup_keeps {s0 s : State} {g : Nat} {bs : List Byte} (hk : Keeps s0 s) : Keeps s0 (s.setGroup g bs) := by
  unfold State.setGroup
  split
  · apply State.writeMem_keeps
    exact hk
  · exact hk

theorem State.diverge_keeps {s0 s : State} (hk : Keeps s0 s) : Keeps s0 (s.diverge) := by
  unfold State.diverge
  extract_lets y1
  refine Keeps.ite ?_ ?_
  · exact hk
  · apply State.doorbell_keeps
    refine Keeps.upd ?_ rfl rfl rfl rfl rfl
    exact hk

theorem State.runResult_keeps {s0 s : State} {r : Nat} (hk : Keeps s0 s) : Keeps s0 (s.runResult r) := by
  unfold State.runResult
  extract_lets y1
  split
  · refine Keeps.ite ?_ ?_
    · refine Keeps.upd ?_ rfl rfl rfl rfl rfl
      exact hk
    · exact hk
  · exact hk

theorem State.updateInterval_keeps {s0 s : State} {c : CkptPolicy} (hk : Keeps s0 s) : Keeps s0 (s.updateInterval c) := by
  unfold State.updateInterval
  extract_lets y1 y2
  have hy1 : Keeps s0 y2 := by
    subst y2
    refine Keeps.upd ?_ rfl rfl rfl rfl rfl
    exact hk
  clear_value y2
  split
  extract_lets y3 y4 y5 y6
  have hy2 : Keeps s0 y3 := by
    subst y3
    apply State.setReg_keeps
    exact hy1
  clear_value y3
  have hy3 : Keeps s0 y4 := by
    subst y4
    apply State.setReg_keeps
    apply State.setReg_keeps
    exact hy2
  clear_value y4
  apply State.setReg_keeps
  exact hy3

theorem State.abandonPoint_keeps {s0 s : State} (hk : Keeps s0 s) : Keeps s0 (s.abandonPoint) := by
  unfold State.abandonPoint
  extract_lets y1 y2
  have hy1 : Keeps s0 y1 := by
    subst y1
    apply State.setBit_keeps
    apply State.groomEvent_keeps
    exact hk
  clear_value y1
  refine Keeps.upd ?_ rfl rfl rfl rfl rfl
  exact hy1

theorem State.copyGroup_keeps {s0 s : State} {p : Point} {k i : Nat} {r : UpdRecord} (hk : Keeps s0 s) : Keeps s0 (s.copyGroup p k i r).1 := by
  unfold State.copyGroup
  split
  · apply State.readFree_keeps
    exact hk
  · split
    split
    dsimp only
    refine Keeps.ofEq (by assumption) ?_
    apply State.readFree_keeps
    refine Keeps.ofEq (by assumption) ?_
    apply State.readFree_keeps
    exact hk

theorem State.readSeg_keeps {s0 s : State} {p : Point} {q : Seg} {n : Nat} (hk : Keeps s0 s) : Keeps s0 (s.readSeg p q n).1 := by
  unfold State.readSeg
  extract_lets y1
  split
  · refine Keeps.foldl1 _ ?_ (fun a1 b1 k1 => ?_)
    · dsimp only
      exact hk
    · split
      dsimp only
      refine Keeps.ofEq (by assumption) ?_
      apply State.copyGroup_keeps
      exact k1
  · refine Keeps.foldl1 _ ?_ (fun a2 b2 k2 => ?_)
    · dsimp only
      exact hk
    · split
      dsimp only
      refine Keeps.ofEq (by assumption) ?_
      apply State.copyGroup_keeps
      exact k2
  · refine Keeps.foldl1 _ ?_ (fun a3 b3 k3 => ?_)
    · dsimp only
      exact hk
    · split
      dsimp only
      refine Keeps.ofEq (by assumption) ?_
      apply State.readMem_keeps
      exact k3
  · split
    dsimp only
    refine Keeps.ofEq (by assumption) ?_
    apply State.readMem_keeps
    exact hk

theorem State.sendMessage_keeps {s0 s : State} {f : Frame} (hk : Keeps s0 s) : Keeps s0 (s.sendMessage f) := by
  unfold State.sendMessage
  extract_lets y1 y2
  have hy1 : Keeps s0 y2 := by
    subst y2
    refine Keeps.upd ?_ rfl rfl rfl rfl rfl
    exact hk
  clear_value y2
  split
  · apply State.sendData_keeps
    exact hy1
  · exact hy1

theorem State.firstWrite_keeps {s0 s : State} {p : Point} {e : Dest} {d off : Nat} (hk : Keeps s0 s) : Keeps s0 (s.firstWrite p e d off) := by
  unfold State.firstWrite
  extract_lets y1
  split
  · exact hk
  · extract_lets y2
    refine Keeps.ite ?_ ?_
    · refine Keeps.ite ?_ ?_
      · apply State.emit_keeps
        refine Keeps.upd ?_ rfl rfl rfl rfl rfl
        exact hk
      · exact hk
    · refine Keeps.ite ?_ ?_
      · split
        extract_lets y3 y4 y5
        have hy1 : Keeps s0 y4 := by
          subst y4
          apply State.sendMessage_keeps
          refine Keeps.ofEq (by assumption) ?_
          apply State.readSeg_keeps
          exact hk
        clear_value y4
        refine Keeps.upd ?_ rfl rfl rfl rfl rfl
        exact hy1
      · exact hk

theorem State.openDest_keeps {s0 s : State} {d : Nat} (hk : Keeps s0 s) : Keeps s0 (s.openDest d) := by
  unfold State.openDest
  extract_lets y1
  split
  · split
    · apply State.destFail_keeps
      exact hk
    · apply State.firstWrite_keeps
      refine Keeps.upd ?_ rfl rfl rfl rfl rfl
      exact hk
  · exact hk

theorem State.startPoint_keeps {s0 s : State} {step shot count : Nat} (hk : Keeps s0 s) : Keeps s0 (s.startPoint step shot count) := by
  unfold State.startPoint
  extract_lets y1 y2
  split
  · exact hk
  · extract_lets y3 y4 y5 y6 y7 y8
    have hy1 : Keeps s0 y8 := by
      subst y8
      refine Keeps.upd ?_ rfl rfl rfl rfl rfl
      exact hk
    clear_value y8
    refine Keeps.ite ?_ ?_
    · exact hk
    · apply State.settlePoint_keeps
      refine Keeps.foldl _ ?_ (fun a1 b1 k1 => ?_)
      · exact hy1
      · apply State.openDest_keeps
        exact k1

theorem State.passesDone_keeps {s0 s : State} (hk : Keeps s0 s) : Keeps s0 (s.passesDone) := by
  unfold State.passesDone
  extract_lets y1
  refine Keeps.ite ?_ ?_
  · exact hk
  · split
    · apply State.startPoint_keeps
      refine Keeps.upd ?_ rfl rfl rfl rfl rfl
      exact hk
    · exact hk


/-! ### Train -/

theorem State.beginSweep_keeps {s0 s : State} (hk : Keeps s0 s) : Keeps s0 (s.beginSweep) := by
  unfold State.beginSweep
  extract_lets y1
  split
  · extract_lets y2
    refine Keeps.ite ?_ ?_
    · apply State.setReg_keeps
      refine Keeps.upd ?_ rfl rfl rfl rfl rfl
      exact hk
    · exact hk
  · exact hk

theorem execSweepStart_keeps (s : State) : ∃ u, execSweepStart s = .next u ∧ Keeps s u := by
  unfold execSweepStart
  refine ⟨_, rfl, ?_⟩
  have hk : Keeps s s := Keeps.refl s
  refine Keeps.ite ?_ ?_
  · apply State.beginSweep_keeps
    exact hk
  · exact hk

theorem State.sweepGroup_keeps {s0 s : State} {w : Sweep} {g : Nat} (hk : Keeps s0 s) : Keeps s0 (s.sweepGroup w g).1 := by
  unfold State.sweepGroup
  split
  · dsimp only
    exact hk
  · split
    · split
      dsimp only
      refine Keeps.ofEq (by assumption) ?_
      apply State.readMem_keeps
      exact hk
    · split
      split
      dsimp only
      refine Keeps.ofEq (by assumption) ?_
      apply State.readMem_keeps
      refine Keeps.ofEq (by assumption) ?_
      apply State.readMem_keeps
      exact hk

theorem State.sweepLost_keeps {s0 s : State} {w : Sweep} (hk : Keeps s0 s) : Keeps s0 (s.sweepLost w) := by
  unfold State.sweepLost
  extract_lets y1 y2 y3
  have hy1 : Keeps s0 y3 := by
    subst y3
    refine Keeps.upd ?_ rfl rfl rfl rfl rfl
    exact hk
  clear_value y3
  apply State.complete_keeps
  apply State.groomEvent_keeps
  apply State.setReg_keeps
  exact hy1

theorem execSnapshotSend_keeps (s : State) : ∃ u, execSnapshotSend s = .next u ∧ Keeps s u := by
  unfold execSnapshotSend
  refine ⟨_, rfl, ?_⟩
  have hk : Keeps s s := Keeps.refl s
  split
  · exact hk
  · extract_lets y1 y2 y3 y4 y5 y6
    refine Keeps.ite ?_ ?_
    · exact hk
    · refine Keeps.ite ?_ ?_
      · apply State.sweepLost_keeps
        exact hk
      · split
        split
        extract_lets y7 y8 y9 y10 y11 y12 y13 y14
        have hy1 : Keeps s y10 := by
          subst y10
          apply State.sendData_keeps
          refine Keeps.ofEq (by assumption) ?_
          apply State.fresh_keeps
          refine Keeps.ofEq (by assumption) ?_
          refine Keeps.foldl1 _ ?_ (fun a1 b1 k1 => ?_)
          · dsimp only
            exact hk
          · split
            dsimp only
            refine Keeps.ofEq (by assumption) ?_
            apply State.sweepGroup_keeps
            exact k1
        clear_value y10
        have hy2 : Keeps s y11 := by
          subst y11
          apply State.setReg_keeps
          exact hy1
        clear_value y11
        have hy3 : Keeps s y13 := by
          subst y13
          apply State.setField_keeps
          exact hy1
        clear_value y13
        refine Keeps.ite ?_ ?_
        · apply State.complete_keeps
          refine Keeps.upd ?_ rfl rfl rfl rfl rfl
          exact hy2
        · refine Keeps.upd ?_ rfl rfl rfl rfl rfl
          exact hy3

theorem State.stopPass_keeps {s0 s : State} {j : Nat} (hk : Keeps s0 s) : Keeps s0 (s.stopPass j) := by
  unfold State.stopPass
  extract_lets y1 y2 y3 y4 y5 y6 y7
  have hy1 : Keeps s0 y3 := by
    subst y3
    refine Keeps.foldl _ ?_ (fun a1 b1 k1 => ?_)
    · exact hk
    · extract_lets y8 y9
      have hy2 : Keeps s0 y9 := by
        subst y9
        refine Keeps.ite ?_ ?_
        · apply State.setField_keeps
          exact k1
        · exact k1
      clear_value y9
      apply State.setGroup_keeps
      exact hy2
  clear_value y3
  have hy3 : Keeps s0 y6 := by
    subst y6
    refine Keeps.upd ?_ rfl rfl rfl rfl rfl
    exact hy1
  clear_value y6
  have hy4 : Keeps s0 y7 := by
    subst y7
    apply State.setBit_keeps
    apply State.event_keeps
    exact hy3
  clear_value y7
  apply State.diverge_keeps
  apply State.runResult_keeps
  apply State.setField_keeps
  apply State.failureEvent_keeps
  exact hy4

theorem State.saveSnapshot_keeps {s0 s : State} {j g : Nat} {bytes : List Byte} (hk : Keeps s0 s) : Keeps s0 (s.saveSnapshot j g bytes) := by
  unfold State.saveSnapshot
  split
  · refine Keeps.ite ?_ ?_
    · split
      · extract_lets y1 y2
        have hy1 : Keeps s0 y1 := by
          subst y1
          apply State.writeMem_keeps
          exact hk
        clear_value y1
        refine Keeps.upd ?_ rfl rfl rfl rfl rfl
        exact hy1
      · exact hk
    · exact hk
  · exact hk

theorem State.saveSecuring_keeps {s0 s : State} {j k i : Nat} {bytes : List Byte} (hk : Keeps s0 s) :
    Keeps s0 (s.saveSecuring j k i bytes) := by
  unfold State.saveSecuring
  split
  · dsimp only
    split
    · exact Keeps.ite ((State.writeMem_keeps hk).upd rfl rfl rfl rfl rfl) hk
    · exact hk
  · exact hk

theorem State.writeGroup_keeps {s0 s : State} {u : UpdPass} {r : UpdRecord} {old : List Byte} {n : NewGroup} (hk : Keeps s0 s) : Keeps s0 (s.writeGroup u r old n) := by
  unfold State.writeGroup
  extract_lets y1 y2 y3 y4 y5 y6 y7 y8
  have hy1 : Keeps s0 y2 := by
    subst y2
    apply State.saveSnapshot_keeps
    exact hk
  clear_value y2
  have hy2 : Keeps s0 y3 := by
    subst y3
    apply State.saveSecuring_keeps
    exact hy1
  clear_value y3
  have hy3 : Keeps s0 y4 := by
    subst y4
    apply State.writeMem_keeps
    exact hy2
  clear_value y4
  have hy4 : Keeps s0 y5 := by
    subst y5
    apply State.writeMem_keeps
    exact hy3
  clear_value y5
  have hy5 : Keeps s0 y6 := by
    subst y6
    apply State.writeMem_keeps
    exact hy4
  clear_value y6
  have hy6 : Keeps s0 y7 := by
    subst y7
    apply State.bump_keeps
    exact hy5
  clear_value y7
  refine Keeps.ite ?_ ?_
  · apply State.setBit_keeps
    apply State.event_keeps
    refine Keeps.upd ?_ rfl rfl rfl rfl rfl
    exact hy6
  · exact hy6

theorem execUpdateWindow_keeps (j : StackId) (agree : Bool) (s : State) : ∃ u, execUpdateWindow j agree s = .next u ∧ Keeps s u := by
  unfold execUpdateWindow
  refine ⟨_, rfl, ?_⟩
  have hk : Keeps s s := Keeps.refl s
  split
  · exact hk
  · extract_lets y1 y2
    have hy1 : Keeps s y2 := by
      subst y2
      apply State.at__keeps
      exact hk
    clear_value y2
    refine Keeps.ite ?_ ?_
    · exact hk
    · split
      · exact hk
      · split
        split
        split
        extract_lets y3 y4 y5 y6
        have hy2 : Keeps s y3 := by
          subst y3
          apply State.writeGroup_keeps
          refine Keeps.ofEq (by assumption) ?_
          apply State.readMem_keeps
          refine Keeps.ofEq (by assumption) ?_
          apply State.readMem_keeps
          refine Keeps.ofEq (by assumption) ?_
          apply State.readMem_keeps
          exact hy1
        clear_value y3
        have hy3 : Keeps s y6 := by
          subst y6
          refine Keeps.upd ?_ rfl rfl rfl rfl rfl
          exact hy2
        clear_value y6
        refine Keeps.ite ?_ ?_
        · apply State.stopPass_keeps
          refine Keeps.ofEq (by assumption) ?_
          apply State.readMem_keeps
          refine Keeps.ofEq (by assumption) ?_
          apply State.readMem_keeps
          refine Keeps.ofEq (by assumption) ?_
          apply State.readMem_keeps
          exact hy1
        · apply State.passesDone_keeps
          exact hy3

theorem State.onGood_keeps {s0 s : State} {x : Nat} {f : Stall → Stall} (hk : Keeps s0 s) : Keeps s0 (s.onGood x f) := by
  unfold State.onGood
  extract_lets y1
  apply State.flush_keeps
  apply State.eachStall_keeps
  exact hk

theorem State.clearMark_keeps {s0 s : State} {step : Nat} (hk : Keeps s0 s) : Keeps s0 (s.clearMark step) := by
  unfold State.clearMark
  extract_lets y1
  refine Keeps.upd ?_ rfl rfl rfl rfl rfl
  exact hk

theorem State.lastResult_keeps {s0 s : State} {step result cause suppressed : Nat} (hk : Keeps s0 s) : Keeps s0 (s.lastResult step result cause suppressed) := by
  unfold State.lastResult
  extract_lets y1
  have hy1 : Keeps s0 y1 := by
    subst y1
    apply State.setWide_keeps
    exact hk
  clear_value y1
  apply State.runResult_keeps
  apply State.setReg_keeps
  exact hy1

theorem State.commitNot_keeps {s0 s : State} {x step cause : Nat} (hk : Keeps s0 s) : Keeps s0 (s.commitNot x step cause) := by
  unfold State.commitNot
  apply State.clearMark_keeps
  apply State.lastResult_keeps
  apply State.onGood_keeps
  exact hk

theorem State.commitGroup_keeps {s0 s : State} {mask : List Byte} {g : Nat} (hk : Keeps s0 s) : Keeps s0 (s.commitGroup mask g).1 := by
  unfold State.commitGroup
  extract_lets y1 y2 y3 y4
  split
  · dsimp only
    apply State.setGroup_keeps
    exact hk
  · split
    · dsimp only
      apply State.setGroup_keeps
      exact hk
    · dsimp only
      apply State.setGroup_keeps
      exact hk

theorem State.applyFreeze_keeps {s0 s : State} (hk : Keeps s0 s) : Keeps s0 (s.applyFreeze) := by
  unfold State.applyFreeze
  extract_lets y1
  split
  · extract_lets y2 y3
    have hy1 : Keeps s0 y3 := by
      subst y3
      apply State.setGroup_keeps
      exact hk
    clear_value y3
    refine Keeps.upd ?_ rfl rfl rfl rfl rfl
    exact hy1
  · exact hk

theorem State.commitYes_keeps {s0 s : State} {x step : Nat} {mask : List Byte} (hk : Keeps s0 s) : Keeps s0 (s.commitYes x step mask) := by
  unfold State.commitYes
  extract_lets y1
  have hy1 : Keeps s0 y1 := by
    subst y1
    apply State.applyFreeze_keeps
    apply State.beginSweep_keeps
    exact hk
  clear_value y1
  split
  extract_lets y2 y3 y4 y5 y6 y7 y8 y9 y10 y11 y12
  have hy2 : Keeps s0 y6 := by
    subst y6
    refine Keeps.upd ?_ rfl rfl rfl rfl rfl
    refine Keeps.ofEq (by assumption) ?_
    refine Keeps.foldl1 _ ?_ (fun a1 b1 k1 => ?_)
    · dsimp only
      exact hy1
    · split
      dsimp only
      refine Keeps.ofEq (by assumption) ?_
      apply State.commitGroup_keeps
      exact k1
  clear_value y6
  have hy3 : Keeps s0 y7 := by
    subst y7
    apply State.lastResult_keeps
    apply State.onGood_keeps
    exact hy2
  clear_value y7
  have hy4 : Keeps s0 y8 := by
    subst y8
    apply State.setReg_keeps
    apply State.setReg_keeps
    exact hy3
  clear_value y8
  have hy5 : Keeps s0 y10 := by
    subst y10
    split
    · refine Keeps.upd ?_ rfl rfl rfl rfl rfl
      exact hy4
    · exact hy4
  clear_value y10
  have hy6 : Keeps s0 y11 := by
    subst y11
    refine Keeps.ite ?_ ?_
    · apply State.abandonPoint_keeps
      exact hy5
    · exact hy5
  clear_value y11
  have hy7 : Keeps s0 y12 := by
    subst y12
    split
    · extract_lets y13 y14
      have hy8 : Keeps s0 y13 := by
        subst y13
        apply State.updateInterval_keeps
        exact hy6
      clear_value y13
      refine Keeps.ite ?_ ?_
      · refine Keeps.upd ?_ rfl rfl rfl rfl rfl
        exact hy8
      · refine Keeps.ite ?_ ?_
        · refine Keeps.upd ?_ rfl rfl rfl rfl rfl
          exact hy8
        · exact hy8
    · exact hy6
  clear_value y12
  apply State.passesDone_keeps
  apply State.clearMark_keeps
  exact hy7

theorem State.commitRelease_keeps {s0 s : State} {x : Nat} (hk : Keeps s0 s) : Keeps s0 (s.commitRelease x) := by
  unfold State.commitRelease
  extract_lets step alone t own result
  have ht : Keeps s0 t := Keeps.ite (State.syncAll_keeps hk) hk
  clear_value t own result
  split
  · exact State.diverge_keeps (State.commitNot_keeps (State.failureEvent_keeps (State.setBit_keeps (State.groomEvent_keeps ht))))
  · exact Keeps.ite (State.commitNot_keeps ht) (State.commitYes_keeps ht)

theorem State.barrierLate_keeps {s0 s : State} {b : Barrier} {k : Nat} (hk : Keeps s0 s) : Keeps s0 (s.barrierLate b k) := by
  unfold State.barrierLate
  extract_lets y1 y2 y3 y4 y5
  have hy1 : Keeps s0 y5 := by
    subst y5
    refine Keeps.upd ?_ rfl rfl rfl rfl rfl
    exact hk
  clear_value y5
  refine Keeps.ite ?_ ?_
  · exact hk
  · refine Keeps.foldl _ ?_ (fun a1 b1 k1 => ?_)
    · exact hy1
    · apply State.setBit_keeps
      apply State.yardEvent_keeps
      exact k1

theorem execBarrierLate_keeps (id : BitVec 8) (s : State) : ∃ u, execBarrierLate id s = .next u ∧ Keeps s u := by
  unfold execBarrierLate
  refine ⟨_, rfl, ?_⟩
  have hk : Keeps s s := Keeps.refl s
  refine Keeps.ite ?_ ?_
  · exact hk
  · split
    · exact hk
    · extract_lets y1
      refine Keeps.ite ?_ ?_
      · exact hk
      · apply State.barrierLate_keeps
        apply State.at__keeps
        exact hk

theorem execBarrierRelease_keeps (id : BitVec 8) (s : State) : ∃ u, execBarrierRelease id s = .next u ∧ Keeps s u := by
  unfold execBarrierRelease
  refine ⟨_, rfl, ?_⟩
  have hk : Keeps s s := Keeps.refl s
  refine Keeps.ite ?_ ?_
  · exact hk
  · split
    · exact hk
    · extract_lets y1 y2 y3 y4 y5 y6 y7 y8 y9 y10 y11
      have hy1 : Keeps s y3 := by
        subst y3
        refine Keeps.foldl _ ?_ (fun a1 b1 k1 => ?_)
        · exact hk
        · apply State.dropPonies_keeps
          exact k1
      clear_value y3
      have hy2 : Keeps s y6 := by
        subst y6
        apply State.at__keeps
        exact hy1
      clear_value y6
      have hy3 : Keeps s y7 := by
        subst y7
        refine Keeps.ite ?_ ?_
        · apply State.barrierLate_keeps
          exact hy2
        · exact hy2
      clear_value y7
      have hy4 : Keeps s y9 := by
        subst y9
        refine Keeps.upd ?_ rfl rfl rfl rfl rfl
        exact hy3
      clear_value y9
      have hy5 : Keeps s y10 := by
        subst y10
        apply State.eachStall_keeps
        exact hy4
      clear_value y10
      have hy6 : Keeps s y11 := by
        subst y11
        refine Keeps.foldl _ ?_ (fun a2 b2 k2 => ?_)
        · exact hy5
        · apply State.bump_keeps
          apply State.setField_keeps
          exact k2
      clear_value y11
      refine Keeps.ite ?_ ?_
      · exact hy1
      · refine Keeps.ite ?_ ?_
        · apply State.commitRelease_keeps
          exact hy6
        · exact hy6

theorem execUpdFreezeGo_keeps (v : Word) (s : State) : ∃ u, execUpdFreezeGo v s = .next u ∧ Keeps s u := by
  unfold execUpdFreezeGo
  refine ⟨_, rfl, ?_⟩
  have hk : Keeps s s := Keeps.refl s
  extract_lets y1 y2 y3
  have hy1 : Keeps s y1 := by
    subst y1
    apply State.writeReg_keeps
    exact hk
  clear_value y1
  have hy2 : Keeps s y2 := by
    subst y2
    apply State.setField_keeps
    exact hy1
  clear_value y2
  refine Keeps.ite ?_ ?_
  · exact hk
  · refine Keeps.ite ?_ ?_
    · exact hy1
    · refine Keeps.ite ?_ ?_
      · apply State.setBit_keeps
        exact hy1
      · refine Keeps.upd ?_ rfl rfl rfl rfl rfl
        exact hy2


/-! ### Ckpt -/

theorem State.writeDest_keeps {s0 s : State} {e : Dest} {off : Nat} {bs : List Byte} (hk : Keeps s0 s) : Keeps s0 (s.writeDest e off bs) := by
  unfold State.writeDest
  extract_lets y1
  refine Keeps.ite ?_ ?_
  · apply State.emit_keeps
    apply State.emit_keeps
    refine Keeps.upd ?_ rfl rfl rfl rfl rfl
    exact hk
  · refine Keeps.ite ?_ ?_
    · refine Keeps.foldl _ ?_ (fun a1 b1 k1 => ?_)
      · exact hk
      · apply State.sendMessage_keeps
        exact k1
    · apply State.emit_keeps
      exact hk

theorem State.shipment_keeps {s0 s : State} {p : Point} (hk : Keeps s0 s) : Keeps s0 (s.shipment p).1 := by
  unfold State.shipment
  refine Keeps.foldl1 _ ?_ (fun a1 b1 k1 => ?_)
  · dsimp only
    exact hk
  · split
    dsimp only
    refine Keeps.ofEq (by assumption) ?_
    apply State.readSeg_keeps
    exact k1

theorem State.shipTo_keeps {s0 s : State} {p : Point} {e : Dest} {d : Nat} {offs : List Nat} {data : List (List Byte)} (hk : Keeps s0 s) : Keeps s0 (s.shipTo p e d offs data) := by
  unfold State.shipTo
  extract_lets y1 y2 y3 y4 y5 y6 y7 y8 y9
  have hy1 : Keeps s0 y4 := by
    subst y4
    refine Keeps.foldl _ ?_ (fun a1 b1 k1 => ?_)
    · exact hk
    · apply State.writeDest_keeps
      exact k1
  clear_value y4
  have hy2 : Keeps s0 y5 := by
    subst y5
    apply State.writeDest_keeps
    exact hy1
  clear_value y5
  have hy3 : Keeps s0 y6 := by
    subst y6
    refine Keeps.ite ?_ ?_
    · apply State.emit_keeps
      exact hy2
    · exact hy2
  clear_value y6
  refine Keeps.upd ?_ rfl rfl rfl rfl rfl
  exact hy3

theorem State.pointRegs_keeps {s0 s : State} (hk : Keeps s0 s) : Keeps s0 (s.pointRegs) := by
  unfold State.pointRegs
  extract_lets y1
  have hy1 : Keeps s0 y1 := by
    subst y1
    split
    · apply State.setWide_keeps
      exact hk
    · exact hk
  clear_value y1
  split
  · apply State.setWide_keeps
    exact hy1
  · exact hy1

theorem State.durable_keeps {s0 s : State} {p : Point} (hk : Keeps s0 s) : Keeps s0 (s.durable p) := by
  unfold State.durable
  extract_lets y1 y2 y3 y4 y5 y6 y7
  have hy1 : Keeps s0 y7 := by
    subst y7
    refine Keeps.upd ?_ rfl rfl rfl rfl rfl
    exact hk
  clear_value y7
  apply State.doorbell_keeps
  apply State.pointRegs_keeps
  exact hy1

theorem State.durableAt_keeps {s0 s : State} {p : Point} {d : Nat} (hk : Keeps s0 s) : Keeps s0 (s.durableAt p d) := by
  unfold State.durableAt
  extract_lets y1 y2 y3
  have hy1 : Keeps s0 y3 := by
    subst y3
    refine Keeps.upd ?_ rfl rfl rfl rfl rfl
    exact hk
  clear_value y3
  apply State.settlePoint_keeps
  refine Keeps.ite ?_ ?_
  · apply State.durable_keeps
    exact hy1
  · exact hy1

theorem execPointDurable_keeps (dest : Fin 4) (s : State) : ∃ u, execPointDurable dest s = .next u ∧ Keeps s u := by
  unfold execPointDurable
  refine ⟨_, rfl, ?_⟩
  have hk : Keeps s s := Keeps.refl s
  split
  · extract_lets y1
    refine Keeps.ite ?_ ?_
    · exact hk
    · split
      · exact hk
      · refine Keeps.ite ?_ ?_
        · exact hk
        · split
          refine Keeps.ite ?_ ?_
          · apply State.abandonPoint_keeps
            refine Keeps.ofEq (by assumption) ?_
            apply State.shipment_keeps
            exact hk
          · apply State.durableAt_keeps
            apply State.shipTo_keeps
            refine Keeps.ofEq (by assumption) ?_
            apply State.shipment_keeps
            exact hk
  · exact hk

theorem execDestTimeout_keeps (dest : Fin 4) (s : State) : ∃ u, execDestTimeout dest s = .next u ∧ Keeps s u := by
  unfold execDestTimeout
  refine ⟨_, rfl, ?_⟩
  have hk : Keeps s s := Keeps.refl s
  split
  · refine Keeps.ite ?_ ?_
    · apply State.destFail_keeps
      apply State.at__keeps
      exact hk
    · exact hk
  · exact hk

theorem execCkpFailReport_keeps (v : Word) (s : State) : ∃ u, execCkpFailReport v s = .next u ∧ Keeps s u := by
  unfold execCkpFailReport
  refine ⟨_, rfl, ?_⟩
  have hk : Keeps s s := Keeps.refl s
  refine Keeps.ite ?_ ?_
  · apply State.failureEvent_keeps
    exact hk
  · exact hk

theorem State.restoreEnd_keeps {s0 s : State} {ok : Bool} {cause : Nat} (hk : Keeps s0 s) : Keeps s0 (s.restoreEnd ok cause) := by
  unfold State.restoreEnd
  apply State.setField_keeps
  apply State.setField_keeps
  apply State.setField_keeps
  exact hk

theorem State.restoreSource_keeps {s0 s : State} {cause : Nat} (hk : Keeps s0 s) : Keeps s0 (s.restoreSource cause) := by
  unfold State.restoreSource
  apply State.restoreEnd_keeps
  apply State.setBit_keeps
  apply State.groomEvent_keeps
  exact hk

theorem execCkpRestoreGo_keeps (v : Word) (src : RestoreSource) (s : State) : ∃ u, execCkpRestoreGo v src s = .next u ∧ Keeps s u := by
  unfold execCkpRestoreGo
  refine ⟨_, rfl, ?_⟩
  have hk : Keeps s s := Keeps.refl s
  extract_lets y1 y2 y3 y4 y5
  have hy1 : Keeps s y1 := by
    subst y1
    apply State.writeReg_keeps
    exact hk
  clear_value y1
  have hy2 : Keeps s y5 := by
    subst y5
    refine Keeps.upd ?_ rfl rfl rfl rfl rfl
    exact hy1
  clear_value y5
  refine Keeps.ite ?_ ?_
  · exact hk
  · refine Keeps.ite ?_ ?_
    · exact hy1
    · refine Keeps.ite ?_ ?_
      · apply State.restoreSource_keeps
        exact hy1
      · split
        · apply State.restoreSource_keeps
          exact hy1
        · refine Keeps.ite ?_ ?_
          · apply State.restoreSource_keeps
            exact hy1
          · refine Keeps.ite ?_ ?_
            · apply State.restoreSource_keeps
              exact hy1
            · apply State.setField_keeps
              apply State.setField_keeps
              apply State.failureEvent_keeps
              exact hy2

theorem State.putGroup_keeps {s0 s : State} {g : Nat} {a b : List Byte} (hk : Keeps s0 s) : Keeps s0 (s.putGroup g a b) := by
  unfold State.putGroup
  split
  · apply State.writeMem_keeps
    apply State.writeMem_keeps
    exact hk
  · exact hk

theorem State.replayRecord_keeps {s0 s : State} {k : Nat} {table journal : List Byte} (hk : Keeps s0 s) : Keeps s0 (s.replayRecord k table journal) := by
  unfold State.replayRecord
  split
  · exact hk
  · refine Keeps.ite ?_ ?_
    · exact hk
    · refine Keeps.foldl _ ?_ (fun a1 b1 k1 => ?_)
      · exact hk
      · extract_lets y1
        split
        · split
          apply State.putGroup_keeps
          exact k1
        · exact k1

theorem State.putMoments_keeps {s0 s : State} {k : Nat} {moments : List Byte} (hk : Keeps s0 s) : Keeps s0 (s.putMoments k moments) := by
  unfold State.putMoments
  refine Keeps.foldl _ ?_ (fun a1 b1 k1 => ?_)
  · exact hk
  · extract_lets y1
    split
    · extract_lets y2
      apply State.putGroup_keeps
      exact k1
    · exact k1

theorem State.rebuild_keeps {s0 s : State} {src : RestoreSource} {step k : Nat} (hk : Keeps s0 s) : Keeps s0 (s.rebuild src step k) := by
  unfold State.rebuild
  split
  · exact hk
  · extract_lets y1 y2
    have hy1 : Keeps s0 y1 := by
      subst y1
      refine Keeps.foldl _ ?_ (fun a1 b1 k1 => ?_)
      · exact hk
      · apply State.putGroup_keeps
        exact k1
    clear_value y1
    have hy2 : Keeps s0 y2 := by
      subst y2
      refine Keeps.foldl _ ?_ (fun a2 b2 k2 => ?_)
      · exact hy1
      · split
        · apply State.replayRecord_keeps
          exact k2
        · exact k2
    clear_value y2
    split
    · apply State.putMoments_keeps
      exact hy2
    · exact hy2

theorem State.restoreState_keeps {s0 s : State} {src : RestoreSource} {step : Nat} (hk : Keeps s0 s) : Keeps s0 (s.restoreState src step) := by
  unfold State.restoreState
  extract_lets y1 y2
  have hy1 : Keeps s0 y1 := by
    subst y1
    split
    · apply State.writeMem_keeps
      exact hk
    · exact hk
  clear_value y1
  have hy2 : Keeps s0 y2 := by
    subst y2
    split
    · extract_lets y3
      apply State.onGood_keeps
      exact hy1
    · exact hy1
  clear_value y2
  refine Keeps.foldl _ ?_ (fun a1 b1 k1 => ?_)
  · exact hy2
  · apply State.rebuild_keeps
    exact k1

theorem State.latestPoint_keeps {s0 s : State} {step : Nat} {src : RestoreSource} (hk : Keeps s0 s) : Keeps s0 (s.latestPoint step src) := by
  unfold State.latestPoint
  extract_lets y1 y2 y3 y4 y5
  apply State.pointRegs_keeps
  refine Keeps.upd ?_ rfl rfl rfl rfl rfl
  exact hk

theorem State.stopRestore_keeps {s0 s : State} {src : RestoreSource} {step cause : Nat} (hk : Keeps s0 s) : Keeps s0 (s.stopRestore src step cause) := by
  unfold State.stopRestore
  extract_lets y1 y2 y3
  have hy1 : Keeps s0 y1 := by
    subst y1
    apply State.restoreState_keeps
    exact hk
  clear_value y1
  have hy2 : Keeps s0 y2 := by
    subst y2
    apply State.setBit_keeps
    apply State.groomEvent_keeps
    exact hy1
  clear_value y2
  apply State.doorbell_keeps
  apply State.restoreEnd_keeps
  refine Keeps.upd ?_ rfl rfl rfl rfl rfl
  exact hy2

theorem execRestoreEnd_keeps (outcome : RestoreOutcome) (s : State) : ∃ u, execRestoreEnd outcome s = .next u ∧ Keeps s u := by
  unfold execRestoreEnd
  refine ⟨_, rfl, ?_⟩
  have hk : Keeps s s := Keeps.refl s
  split
  · exact hk
  · refine Keeps.ite ?_ ?_
    · exact hk
    · split
      · apply State.doorbell_keeps
        apply State.restoreEnd_keeps
        apply State.latestPoint_keeps
        apply State.restoreState_keeps
        exact hk
      · apply State.stopRestore_keeps
        exact hk
      · apply State.stopRestore_keeps
        exact hk

theorem State.repairFail_keeps {s0 s : State} (hk : Keeps s0 s) : Keeps s0 (s.repairFail) := by
  unfold State.repairFail
  apply State.setBit_keeps
  apply State.groomEvent_keeps
  exact hk

theorem execTensorRepair_keeps (j : StackId) (addr : BitVec 36) (s : State) : ∃ u, execTensorRepair j addr s = .next u ∧ Keeps s u := by
  unfold execTensorRepair
  refine ⟨_, rfl, ?_⟩
  have hk : Keeps s s := Keeps.refl s
  extract_lets y1 y2 y3
  refine Keeps.ite ?_ ?_
  · exact hk
  · refine Keeps.ite ?_ ?_
    · refine Keeps.upd ?_ rfl rfl rfl rfl rfl
      exact hk
    · apply State.repairFail_keeps
      exact hk

theorem State.replaySlots_keeps {s0 s : State} {k : Nat} (hk : Keeps s0 s) : Keeps s0 (s.replaySlots k) := by
  unfold State.replaySlots
  split
  · refine Keeps.foldl _ ?_ (fun a1 b1 k1 => ?_)
    · exact hk
    · extract_lets y1 y2 y3
      apply State.replayRecord_keeps
      exact k1
  · exact hk

theorem State.breakChain_keeps {s0 s : State} {t : Nat} (hk : Keeps s0 s) : Keeps s0 (s.breakChain t) := by
  unfold State.breakChain
  extract_lets y1
  refine Keeps.upd ?_ rfl rfl rfl rfl rfl
  exact hk

theorem execTensorRepairDone_keeps (record : Nat) (src : RestoreSource) (ok : Bool) (s : State) : ∃ u, execTensorRepairDone record src ok s = .next u ∧ Keeps s u := by
  unfold execTensorRepairDone
  refine ⟨_, rfl, ?_⟩
  have hk : Keeps s s := Keeps.refl s
  extract_lets y1 y2 y3 y4
  have hy1 : Keeps s y2 := by
    subst y2
    refine Keeps.upd ?_ rfl rfl rfl rfl rfl
    exact hk
  clear_value y2
  have hy2 : Keeps s y4 := by
    subst y4
    apply State.replaySlots_keeps
    apply State.rebuild_keeps
    exact hy1
  clear_value y4
  refine Keeps.ite ?_ ?_
  · exact hk
  · refine Keeps.ite ?_ ?_
    · apply State.repairFail_keeps
      exact hy1
    · split
      · apply State.breakChain_keeps
        exact hy2
      · exact hy2


/-! ### Refresh -/

theorem State.scrubUnit_keeps {s0 s : State} {j a x : Nat} (hk : Keeps s0 s) : Keeps s0 (s.scrubUnit j a x) := by
  unfold State.scrubUnit
  extract_lets y1
  have hy1 : Keeps s0 y1 := by
    subst y1
    apply State.bump_keeps
    exact hk
  clear_value y1
  split
  split
  · exact hk
  · apply State.encodeUnit_keeps
    exact hk
  · apply State.recordUnit_keeps
    apply State.event_keeps
    exact hy1

theorem State.repairUnit_keeps {s0 s : State} {j a x : Nat} (hk : Keeps s0 s) : Keeps s0 (s.repairUnit j a x) := by
  unfold State.repairUnit
  split
  split
  · exact hk
  · apply State.encodeUnit_keeps
    exact hk
  · apply State.uncorrectable_keeps
    exact hk

theorem State.refreshPc_keeps {s0 s : State} {j pc x : Nat} (hk : Keeps s0 s) : Keeps s0 (s.refreshPc j pc x) := by
  unfold State.refreshPc
  extract_lets y1 y2 y3 y4 y5 y6 y7 y8 y9 y10 y11 y12 y13 y14 y15
  have hy1 : Keeps s0 y4 := by
    subst y4
    refine Keeps.ite ?_ ?_
    · exact hk
    · apply State.setField_keeps
      exact hk
  clear_value y4
  have hy2 : Keeps s0 y6 := by
    subst y6
    refine Keeps.foldl _ ?_ (fun a1 b1 k1 => ?_)
    · exact hy1
    · apply State.repairUnit_keeps
      exact k1
  clear_value y6
  have hy3 : Keeps s0 y10 := by
    subst y10
    apply State.setStack_keeps
    exact hy2
  clear_value y10
  have hy4 : Keeps s0 y11 := by
    subst y11
    apply State.setField_keeps
    exact hy3
  clear_value y11
  have hy5 : Keeps s0 y14 := by
    subst y14
    apply State.scrubUnit_keeps
    apply State.scrubUnit_keeps
    exact hy4
  clear_value y14
  refine Keeps.ite ?_ ?_
  · exact hy4
  · refine Keeps.ite ?_ ?_
    · apply State.setStack_keeps
      exact hy5
    · apply State.setStack_keeps
      exact hy5

theorem execRefreshSlot_keeps (j : StackId) (q : Fin 4) (s : State) : ∃ u, execRefreshSlot j q s = .next u ∧ Keeps s u := by
  unfold execRefreshSlot
  refine ⟨_, rfl, ?_⟩
  have hk : Keeps s s := Keeps.refl s
  refine Keeps.ite ?_ ?_
  · exact hk
  · split
    · exact hk
    · refine Keeps.foldl _ ?_ (fun a1 b1 k1 => ?_)
      · apply State.at__keeps
        exact hk
      · apply State.refreshPc_keeps
        exact k1

theorem execOwnTimerRefresh_keeps (j : StackId) (pc : Fin 64) (s : State) : ∃ u, execOwnTimerRefresh j pc s = .next u ∧ Keeps s u := by
  unfold execOwnTimerRefresh
  refine ⟨_, rfl, ?_⟩
  have hk : Keeps s s := Keeps.refl s
  extract_lets y1
  refine Keeps.ite ?_ ?_
  · exact hk
  · apply State.refreshPc_keeps
    apply State.at__keeps
    exact hk


/-! ### Serve -/

theorem State.modReq_keeps {s0 s : State} {id : Nat} {f : Request → Request} (hk : Keeps s0 s) : Keeps s0 (s.modReq id f) := by
  unfold State.modReq
  extract_lets y1
  refine Keeps.upd ?_ rfl rfl rfl rfl rfl
  exact hk

theorem State.dropReq_keeps {s0 s : State} {id : Nat} (hk : Keeps s0 s) : Keeps s0 (s.dropReq id) := by
  unfold State.dropReq
  extract_lets y1
  refine Keeps.upd ?_ rfl rfl rfl rfl rfl
  exact hk

theorem State.reply_keeps {s0 s : State} {q : Request} {flags off : Nat} {bs : List Byte} (hk : Keeps s0 s) : Keeps s0 (s.reply q flags off bs) := by
  unfold State.reply
  extract_lets y1
  apply State.sendData_keeps
  exact hk

theorem State.failReq_keeps {s0 s : State} {q : Request} {code : Nat} (hk : Keeps s0 s) : Keeps s0 (s.failReq q code) := by
  unfold State.failReq
  extract_lets y1
  have hy1 : Keeps s0 y1 := by
    subst y1
    apply State.dropReq_keeps
    exact hk
  clear_value y1
  split
  · apply State.complete_keeps
    exact hy1
  · apply State.reply_keeps
    exact hy1

theorem State.replyAll_keeps {s0 s : State} {q : Request} {bs : List Byte} (hk : Keeps s0 s) : Keeps s0 (s.replyAll q bs) := by
  unfold State.replyAll
  refine Keeps.foldl _ ?_ (fun a1 b1 k1 => ?_)
  · exact hk
  · apply State.reply_keeps
    exact k1

theorem State.deliverReq_keeps {s0 s : State} {q : Request} (hk : Keeps s0 s) : Keeps s0 (s.deliverReq q) := by
  unfold State.deliverReq
  split
  · extract_lets y1 y2 y3
    have hy1 : Keeps s0 y2 := by
      subst y2
      apply State.at__keeps
      exact hk
    clear_value y2
    split
    · apply State.failReq_keeps
      exact hy1
    · refine Keeps.ite ?_ ?_
      · apply State.failReq_keeps
        apply State.groomEvent_keeps
        exact hy1
      · split
        refine Keeps.ite ?_ ?_
        · apply State.failReq_keeps
          refine Keeps.ofEq (by assumption) ?_
          apply State.readMem_keeps
          exact hy1
        · split
          · refine Keeps.ite ?_ ?_
            · apply State.failReq_keeps
              apply State.event_keeps
              refine Keeps.ofEq (by assumption) ?_
              apply State.readMem_keeps
              exact hy1
            · apply State.complete_keeps
              apply State.emit_keeps
              apply State.dropReq_keeps
              refine Keeps.ofEq (by assumption) ?_
              apply State.readMem_keeps
              exact hy1
          · apply State.replyAll_keeps
            apply State.dropReq_keeps
            refine Keeps.ofEq (by assumption) ?_
            apply State.readMem_keeps
            exact hy1
  · apply State.failReq_keeps
    exact hk

theorem execServeDelivery_keeps (id : Nat) (s : State) : ∃ u, execServeDelivery id s = .next u ∧ Keeps s u := by
  unfold execServeDelivery
  refine ⟨_, rfl, ?_⟩
  have hk : Keeps s s := Keeps.refl s
  split
  · refine Keeps.ite ?_ ?_
    · apply State.deliverReq_keeps
      exact hk
    · exact hk
  · exact hk

theorem State.settleReqs_keeps {s0 s : State} (hk : Keeps s0 s) : Keeps s0 (s.settleReqs) := by
  unfold State.settleReqs
  refine Keeps.foldl _ ?_ (fun a1 b1 k1 => ?_)
  · exact hk
  · split
    · apply State.failReq_keeps
      exact k1
    · refine Keeps.ite ?_ ?_
      · apply State.failReq_keeps
        exact k1
      · refine Keeps.ite ?_ ?_
        · apply State.deliverReq_keeps
          exact k1
        · apply State.failReq_keeps
          exact k1

theorem State.dropStale_keeps {s0 s : State} (hk : Keeps s0 s) : Keeps s0 (s.dropStale) := by
  unfold State.dropStale
  extract_lets y1
  refine Keeps.upd ?_ rfl rfl rfl rfl rfl
  exact hk

theorem State.takeRequest_keeps {s0 s : State} {q : Request} {size : Nat} (hk : Keeps s0 s) : Keeps s0 (s.takeRequest q size) := by
  unfold State.takeRequest
  refine Keeps.ite ?_ ?_
  · apply State.failReq_keeps
    exact hk
  · split
    · apply State.failReq_keeps
      apply State.portEvent_keeps
      exact hk
    · split
      · apply State.failReq_keeps
        exact hk
      · extract_lets y1
        have hy1 : Keeps s0 y1 := by
          subst y1
          apply State.writeMem_keeps
          exact hk
        clear_value y1
        refine Keeps.ite ?_ ?_
        · apply State.failReq_keeps
          exact hk
        · apply State.modReq_keeps
          exact hy1

theorem execRequestFrame_keeps (p : PortId) (f : Frame) (s : State) : ∃ u, execRequestFrame p f s = .next u ∧ Keeps s u := by
  unfold execRequestFrame
  refine ⟨_, rfl, ?_⟩
  have hk : Keeps s s := Keeps.refl s
  extract_lets y1
  refine Keeps.ite ?_ ?_
  · exact hk
  · split
    extract_lets y2 y3
    refine Keeps.ite ?_ ?_
    · refine Keeps.ofEq (by assumption) ?_
      apply State.takeFrame_keeps
      exact hk
    · split
      extract_lets y4 y5
      have hy1 : Keeps s y5 := by
        subst y5
        apply State.modReq_keeps
        refine Keeps.ofEq (by assumption) ?_
        split
        · dsimp only
          refine Keeps.ofEq (by assumption) ?_
          apply State.takeFrame_keeps
          exact hk
        · dsimp only
          refine Keeps.upd ?_ rfl rfl rfl rfl rfl
          refine Keeps.ofEq (by assumption) ?_
          apply State.takeFrame_keeps
          exact hk
      clear_value y5
      split
      · refine Keeps.ite ?_ ?_
        · apply State.takeRequest_keeps
          exact hy1
        · exact hy1
      · exact hy1

theorem State.dropEntry_keeps {s0 s : State} (hk : Keeps s0 s) : Keeps s0 (s.dropEntry) := by
  unfold State.dropEntry
  extract_lets y1
  refine Keeps.upd ?_ rfl rfl rfl rfl rfl
  exact hk

theorem execServe_keeps (r : RingId) (s : State) : ∃ u, execServe r s = .next u ∧ Keeps s u := by
  unfold execServe
  refine ⟨_, rfl, ?_⟩
  have hk : Keeps s s := Keeps.refl s
  extract_lets y1 y2
  have hy1 : Keeps s y1 := by
    subst y1
    apply State.dropEntry_keeps
    exact hk
  clear_value y1
  split
  · exact hk
  · extract_lets y3 y4
    refine Keeps.ite ?_ ?_
    · exact hk
    · refine Keeps.ite ?_ ?_
      · apply State.refuse_keeps
        exact hy1
      · refine Keeps.ite ?_ ?_
        · apply State.refuse_keeps
          exact hy1
        · refine Keeps.ite ?_ ?_
          · apply State.refuse_keeps
            exact hy1
          · refine Keeps.ite ?_ ?_
            · apply State.refuse_keeps
              exact hy1
            · split
              · apply State.refuse_keeps
                exact hy1
              · extract_lets y5 y6
                have hy2 : Keeps s y6 := by
                  subst y6
                  refine Keeps.upd ?_ rfl rfl rfl rfl rfl
                  exact hy1
                clear_value y6
                refine Keeps.ite ?_ ?_
                · apply State.emit_keeps
                  exact hy2
                · exact hy2

theorem execServeInputCopy_keeps (id : Nat) (data : List Byte) (ok : Bool) (s : State) : ∃ u, execServeInputCopy id data ok s = .next u ∧ Keeps s u := by
  unfold execServeInputCopy
  refine ⟨_, rfl, ?_⟩
  have hk : Keeps s s := Keeps.refl s
  split
  · exact hk
  · extract_lets y1 y2
    refine Keeps.ite ?_ ?_
    · exact hk
    · refine Keeps.ite ?_ ?_
      · apply State.failReq_keeps
        apply State.event_keeps
        exact hk
      · refine Keeps.ite ?_ ?_
        · apply State.failReq_keeps
          apply State.groomEvent_keeps
          exact hk
        · split
          · apply State.modReq_keeps
            apply State.writeMem_keeps
            exact hk
          · exact hk

end Sys2Proof.Machine
end

