-- ==== Sys2Proof/Laws/KeepsShots.lean ====
section
/-!
SUPPORT. The commands of fences, shots and the host interface keep what Keeps says.
-/
namespace Sys2Proof.Machine

open Sys2Proof.Safety

/-! ### Fence -/

theorem State.showAck_keeps {s0 s : State} (hk : Keeps s0 s) : Keeps s0 (s.showAck) := by
  unfold State.showAck
  extract_lets y1
  split
  · refine Keeps.ite ?_ ?_
    · exact hk
    · apply State.doorbell_keeps
      apply State.setReg_keeps
      refine Keeps.upd ?_ rfl rfl rfl rfl rfl
      exact hk
  · exact hk

theorem State.ack_keeps {s0 s : State} {tag code : Nat} (hk : Keeps s0 s) : Keeps s0 (s.ack tag code) := by
  unfold State.ack
  extract_lets y1
  apply State.showAck_keeps
  refine Keeps.upd ?_ rfl rfl rfl rfl rfl
  exact hk

theorem State.setFar_keeps {s0 s : State} {base p : Nat} {e : List Byte} (hk : Keeps s0 s) : Keeps s0 (s.setFar base p e) := by
  unfold State.setFar
  extract_lets y1 y2 y3 y4
  have hy1 : Keeps s0 y1 := by
    subst y1
    apply State.writeMem_keeps
    exact hk
  clear_value y1
  have hy2 : Keeps s0 y2 := by
    subst y2
    split
    · refine Keeps.upd ?_ rfl rfl rfl rfl rfl
      exact hy1
    · exact hy1
  clear_value y2
  refine Keeps.upd ?_ rfl rfl rfl rfl rfl
  exact hy2

theorem State.applyFar_keeps {s0 s : State} (hk : Keeps s0 s) : Keeps s0 (s.applyFar) := by
  unfold State.applyFar
  split
  · extract_lets y1 y2
    have hy1 : Keeps s0 y1 := by
      subst y1
      refine Keeps.foldl _ ?_ (fun a1 b1 k1 => ?_)
      · exact hk
      · apply State.setFar_keeps
        exact k1
    clear_value y1
    refine Keeps.ite ?_ ?_
    · exact hk
    · apply State.ack_keeps
      refine Keeps.upd ?_ rfl rfl rfl rfl rfl
      exact hy1
  · exact hk

theorem State.checkReplace_keeps {s0 s : State} (hk : Keeps s0 s) : Keeps s0 (s.checkReplace) := by
  unfold State.checkReplace
  refine Keeps.ite ?_ ?_
  · exact hk
  · apply State.emit_keeps
    apply State.doorbell_keeps
    apply State.groomEvent_keeps
    apply State.setBit_keeps
    exact hk

theorem State.leaveDma_keeps {s0 s : State} {i : Nat} (hk : Keeps s0 s) : Keeps s0 (s.leaveDma i) := by
  unfold State.leaveDma
  extract_lets y1 y2
  split
  · exact hk
  · extract_lets y3 y4
    refine Keeps.ite ?_ ?_
    · apply State.endDma_keeps
      exact hk
    · apply State.markDma_keeps
      apply State.setBarn_keeps
      exact hk

/-- A change of the stall map and the moves. -/
theorem Keeps.map {s0 s : State} {m : Sparse Nat} {mv : List StallMove} (hk : Keeps s0 s)
    (hm : swf noStall s.safe.map = true → swf noStall m = true) : Keeps s0 { s with safe := { s.safe with map := m, moves := mv } } :=
  hk.trans ⟨rfl, le_rfl, id, fun b => ⟨b.1, b.2.1, b.2.2.1, b.2.2.2.1, b.2.2.2.2.1, hm b.2.2.2.2.2⟩, fun _ h => h, le_rfl,
    List.prefix_rfl, le_rfl⟩

theorem State.fenceOne_keeps {s0 s : State} {i reason x : Nat} (hk : Keeps s0 s) : Keeps s0 (s.fenceOne i reason x) := by
  unfold State.fenceOne
  extract_lets l spare move a b c d e f g
  have hg : Keeps s0 g := Keeps.ite (State.failureEvent_keeps (State.setField_keeps (State.setReg_keeps (State.event_keeps
    (State.leaveDma_keeps (State.modStall_keeps (State.onStall_keeps hk))))))) (State.setField_keeps (State.setReg_keeps
    (State.event_keeps (State.leaveDma_keeps (State.modStall_keeps (State.onStall_keeps hk))))))
  clear_value g l spare move
  split
  · exact hg
  · dsimp only
    split
    · exact State.startMoves_keeps (State.setBit_keeps ((State.modStall_keeps hg).map (swf_sset _ _)))
    · exact State.startMoves_keeps (hg.map (swf_sset _ _))

theorem State.fence_keeps {s0 s : State} {l : List (Nat × Nat)} {x : Nat} (hk : Keeps s0 s) : Keeps s0 (s.fence l x) := by
  unfold State.fence
  dsimp only
  refine State.checkReplace_keeps (Keeps.foldl _ ?_ fun u a k => State.fenceOne_keeps k)
  exact hk.trans ⟨rfl, le_rfl, id, id, fun i h => List.mem_append_left _ h, le_rfl, List.prefix_rfl, le_rfl⟩

theorem State.marginFences_keeps {s0 s : State} {x : Nat} (hk : Keeps s0 s) : Keeps s0 (s.marginFences x) := by
  unfold State.marginFences
  extract_lets y1 y2 y3 y4
  have hy1 : Keeps s0 y1 := by
    subst y1
    apply State.eachStall_keeps
    exact hk
  clear_value y1
  refine Keeps.ite ?_ ?_
  · exact hy1
  · apply State.fence_keeps
    refine Keeps.upd ?_ rfl rfl rfl rfl rfl
    exact hy1

theorem execStrikeDecay_keeps (st : StallId) (s : State) : ∃ u, execStrikeDecay st s = .next u ∧ Keeps s u := by
  unfold execStrikeDecay
  refine ⟨_, rfl, ?_⟩
  have hk : Keeps s s := Keeps.refl s
  refine Keeps.ite ?_ ?_
  · exact hk
  · apply State.modStall_keeps
    exact hk

theorem execSafeFenceReqGo_keeps (v : Word) (s : State) : ∃ u, execSafeFenceReqGo v s = .next u ∧ Keeps s u := by
  unfold execSafeFenceReqGo
  refine ⟨_, rfl, ?_⟩
  have hk : Keeps s s := Keeps.refl s
  extract_lets y1 y2 y3
  have hy1 : Keeps s y1 := by
    subst y1
    apply State.writeReg_keeps
    exact hk
  clear_value y1
  refine Keeps.ite ?_ ?_
  · exact hk
  · refine Keeps.ite ?_ ?_
    · exact hy1
    · refine Keeps.ite ?_ ?_
      · refine Keeps.ite ?_ ?_
        · exact hy1
        · refine Keeps.upd ?_ rfl rfl rfl rfl rfl
          exact hy1
      · apply State.fence_keeps
        exact hy1

theorem execMoveCopyDone_keeps (logical : Fin 576) (s : State) : ∃ u, execMoveCopyDone logical s = .next u ∧ Keeps s u := by
  unfold execMoveCopyDone
  refine ⟨_, rfl, ?_⟩
  have hk : Keeps s s := Keeps.refl s
  split
  · extract_lets y1 y2 y3 y4 y5 y6
    have hy1 : Keeps s y1 := by
      subst y1
      apply State.modStall_keeps
      exact hk
    clear_value y1
    have hy2 : Keeps s y3 := by
      subst y3
      refine Keeps.upd ?_ rfl rfl rfl rfl rfl
      exact hy1
    clear_value y3
    refine Keeps.ite ?_ ?_
    · exact hk
    · apply State.startMoves_keeps
      refine Keeps.ite ?_ ?_
      · exact hy2
      · apply State.setField_keeps
        exact hy2
  · exact hk

theorem State.carryMoves_keeps {s0 s : State} (hk : Keeps s0 s) : Keeps s0 (s.carryMoves) := by
  unfold State.carryMoves
  extract_lets y1 y2
  apply State.putBit_keeps
  refine Keeps.upd ?_ rfl rfl rfl rfl rfl
  exact hk


/-! ### Shots -/

theorem State.abortShot_keeps {s0 s : State} {x : Nat} (hk : Keeps s0 s) : Keeps s0 (s.abortShot x) := by
  unfold State.abortShot
  extract_lets y1 y2 y3 y4
  have hy1 : Keeps s0 y1 := by
    subst y1
    apply State.onGood_keeps
    exact hk
  clear_value y1
  have hy2 : Keeps s0 y2 := by
    subst y2
    refine Keeps.foldl _ ?_ (fun a1 b1 k1 => ?_)
    · exact hy1
    · apply State.setBarn_keeps
      exact k1
  clear_value y2
  refine Keeps.upd ?_ rfl rfl rfl rfl rfl
  exact hy2

theorem execShotAbort_keeps (s : State) : ∃ u, execShotAbort s = .next u ∧ Keeps s u := by
  unfold execShotAbort
  refine ⟨_, rfl, ?_⟩
  have hk : Keeps s s := Keeps.refl s
  extract_lets y1
  split
  · refine Keeps.ite ?_ ?_
    · apply State.abortShot_keeps
      apply State.at__keeps
      exact hk
    · refine Keeps.upd ?_ rfl rfl rfl rfl rfl
      exact hk
  · exact hk

theorem execSafeCtrlAbort_keeps (v : Word) (s : State) : ∃ u, execSafeCtrlAbort v s = .next u ∧ Keeps s u := by
  unfold execSafeCtrlAbort
  refine ⟨_, rfl, ?_⟩
  have hk : Keeps s s := Keeps.refl s
  extract_lets y1
  have hy1 : Keeps s y1 := by
    subst y1
    apply State.writeReg_keeps
    exact hk
  clear_value y1
  refine Keeps.ite ?_ ?_
  · exact hk
  · refine Keeps.ite ?_ ?_
    · exact hy1
    · apply State.orderAbort_keeps
      apply State.failEvent_keeps
      exact hy1

theorem State.endSweep_keeps {s0 s : State} {report : Bool} (hk : Keeps s0 s) : Keeps s0 (s.endSweep report) := by
  unfold State.endSweep
  extract_lets y1 y2
  have hy1 : Keeps s0 y2 := by
    subst y2
    refine Keeps.upd ?_ rfl rfl rfl rfl rfl
    exact hk
  clear_value y2
  split
  · extract_lets y3
    have hy2 : Keeps s0 y3 := by
      subst y3
      refine Keeps.ite ?_ ?_
      · apply State.setReg_keeps
        exact hy1
      · exact hy1
    clear_value y3
    refine Keeps.ite ?_ ?_
    · apply State.refuse_keeps
      exact hy2
    · exact hy2
  · exact hk

theorem State.releaseImage_keeps {s0 s : State} {report : Bool} (hk : Keeps s0 s) : Keeps s0 (s.releaseImage report) := by
  unfold State.releaseImage
  extract_lets y1 y2 y3 y4 y5 y6 y7 y8 y9 y10 y11 y12 y13 y14 y15 y16 y17 y18 y19
  have hy1 : Keeps s0 y1 := by
    subst y1
    apply State.endSweep_keeps
    exact hk
  clear_value y1
  have hy2 : Keeps s0 y2 := by
    subst y2
    refine Keeps.foldl _ ?_ (fun a1 b1 k1 => ?_)
    · exact hy1
    · split
      · refine Keeps.ite ?_ ?_
        · apply State.refuse_keeps
          exact k1
        · exact k1
      · exact k1
  clear_value y2
  have hy3 : Keeps s0 y3 := by
    subst y3
    apply State.eachStall_keeps
    exact hy2
  clear_value y3
  have hy4 : Keeps s0 y4 := by
    subst y4
    refine Keeps.foldl _ ?_ (fun a2 b2 k2 => ?_)
    · exact hy3
    · extract_lets y20
      apply State.setBarn_keeps
      exact k2
  clear_value y4
  have hy5 : Keeps s0 y5 := by
    subst y5
    split
    · refine Keeps.ite ?_ ?_
      · apply State.ack_keeps
        exact hy4
      · exact hy4
    · exact hy4
  clear_value y5
  have hy6 : Keeps s0 y14 := by
    subst y14
    refine Keeps.upd ?_ rfl rfl rfl rfl rfl
    exact hy5
  clear_value y14
  have hy7 : Keeps s0 y15 := by
    subst y15
    refine Keeps.foldl _ ?_ (fun a3 b3 k3 => ?_)
    · exact hy6
    · apply State.setReg_keeps
      apply State.setReg_keeps
      exact k3
  clear_value y15
  have hy8 : Keeps s0 y16 := by
    subst y16
    apply State.setField_keeps
    apply State.setReg_keeps
    apply State.setReg_keeps
    exact hy7
  clear_value y16
  have hy9 : Keeps s0 y17 := by
    subst y17
    apply State.putBit_keeps
    exact hy8
  clear_value y17
  have hy10 : Keeps s0 y18 := by
    subst y18
    apply State.putBit_keeps
    apply State.putBit_keeps
    exact hy9
  clear_value y18
  have hy11 : Keeps s0 y19 := by
    subst y19
    apply State.setReg_keeps
    exact hy10
  clear_value y19
  apply State.doorbell_keeps
  exact hy11

theorem State.marginStreams_keeps {s0 s : State} {x : Nat} (hk : Keeps s0 s) : Keeps s0 (s.marginStreams x) := by
  unfold State.marginStreams
  extract_lets y1
  refine Keeps.ite ?_ ?_
  · exact hk
  · refine Keeps.foldl _ ?_ (fun a1 b1 k1 => ?_)
    · exact hk
    · apply State.orderAbort_keeps
      apply State.ctxFaultAt_keeps
      exact k1

theorem State.watchdog_keeps {s0 s : State} {x : Nat} (hk : Keeps s0 s) : Keeps s0 (s.watchdog x) := by
  unfold State.watchdog
  extract_lets y1 y2
  have hy1 : Keeps s0 y2 := by
    subst y2
    refine Keeps.foldl _ ?_ (fun a1 b1 k1 => ?_)
    · exact hk
    · apply State.onStall_keeps
      exact k1
  clear_value y2
  refine Keeps.ite ?_ ?_
  · exact hk
  · refine Keeps.foldl _ ?_ (fun a2 b2 k2 => ?_)
    · exact hy1
    · refine Keeps.ite ?_ ?_
      · apply State.setBarn_keeps
        apply State.failEvent_keeps
        exact k2
      · exact k2

theorem State.journalHeader_keeps {s0 s : State} (hk : Keeps s0 s) : Keeps s0 (s.journalHeader) := by
  unfold State.journalHeader
  extract_lets y1
  split
  · extract_lets y2 y3 y4 y5
    have hy1 : Keeps s0 y4 := by
      subst y4
      apply State.writeMem_keeps
      exact hk
    clear_value y4
    refine Keeps.upd ?_ rfl rfl rfl rfl rfl
    exact hy1
  · refine Keeps.upd ?_ rfl rfl rfl rfl rfl
    exact hk

theorem State.marginSwitches_keeps {s0 s : State} (hk : Keeps s0 s) : Keeps s0 (s.marginSwitches) := by
  unfold State.marginSwitches
  extract_lets y1
  apply State.eachStall_keeps
  exact hk

theorem State.takeOver_keeps {s0 s : State} (hk : Keeps s0 s) : Keeps s0 (s.takeOver) := by
  unfold State.takeOver
  extract_lets y1
  refine Keeps.ite ?_ ?_
  · refine Keeps.upd ?_ rfl rfl rfl rfl rfl
    exact hk
  · exact hk

theorem State.marginWork_keeps {s0 s : State} {x : Nat} (hk : Keeps s0 s) : Keeps s0 (s.marginWork x) := by
  unfold State.marginWork
  extract_lets y1 y2 y3 y4 y5 y6 y7 y8 y9 y10 y11
  have hy1 : Keeps s0 y1 := by
    subst y1
    split
    · refine Keeps.ite ?_ ?_
      · apply State.abortShot_keeps
        exact hk
      · exact hk
    · exact hk
  clear_value y1
  have hy2 : Keeps s0 y2 := by
    subst y2
    apply State.syncAll_keeps
    exact hy1
  clear_value y2
  have hy3 : Keeps s0 y3 := by
    subst y3
    apply State.marginStreams_keeps
    exact hy2
  clear_value y3
  have hy4 : Keeps s0 y4 := by
    subst y4
    apply State.watchdog_keeps
    exact hy3
  clear_value y4
  have hy5 : Keeps s0 y5 := by
    subst y5
    split
    · apply State.abortShot_keeps
      exact hy4
    · exact hy4
  clear_value y5
  have hy6 : Keeps s0 y6 := by
    subst y6
    apply State.eachStall_keeps
    exact hy5
  clear_value y6
  have hy7 : Keeps s0 y7 := by
    subst y7
    apply State.marginFences_keeps
    exact hy6
  clear_value y7
  have hy8 : Keeps s0 y8 := by
    subst y8
    apply State.marginSwitches_keeps
    exact hy7
  clear_value y8
  have hy9 : Keeps s0 y9 := by
    subst y9
    apply State.applyWindows_keeps
    apply State.applyFar_keeps
    exact hy8
  clear_value y9
  have hy10 : Keeps s0 y10 := by
    subst y10
    apply State.takeOver_keeps
    apply State.journalHeader_keeps
    exact hy9
  clear_value y10
  refine Keeps.upd ?_ rfl rfl rfl rfl rfl
  exact hy10

theorem State.failRecord_keeps {s0 s : State} (hk : Keeps s0 s) : Keeps s0 (s.failRecord) := by
  unfold State.failRecord
  extract_lets y1 y2
  have hy1 : Keeps s0 y2 := by
    subst y2
    apply State.setReg_keeps
    apply State.setReg_keeps
    exact hk
  clear_value y2
  apply State.bump_keeps
  apply State.setReg_keeps
  exact hy1

theorem State.markFailed_keeps {s0 s : State} {step : Nat} (hk : Keeps s0 s) : Keeps s0 (s.markFailed step) := by
  unfold State.markFailed
  extract_lets y1 y2
  refine Keeps.ite ?_ ?_
  · refine Keeps.upd ?_ rfl rfl rfl rfl rfl
    exact hk
  · exact hk

theorem State.setHead_keeps {s0 s : State} {q : Option RunEntry} (hk : Keeps s0 s) : Keeps s0 (s.setHead q) := by
  unfold State.setHead
  extract_lets y1
  refine Keeps.upd ?_ rfl rfl rfl rfl rfl
  exact hk

theorem State.nextShot_keeps {s0 s : State} {q : RunEntry} (hk : Keeps s0 s) : Keeps s0 (s.nextShot q) := by
  unfold State.nextShot
  extract_lets y1 y2 y3
  have hy1 : Keeps s0 y3 := by
    subst y3
    refine Keeps.upd ?_ rfl rfl rfl rfl rfl
    exact hk
  clear_value y3
  refine Keeps.ite ?_ ?_
  · apply State.completeRun_keeps
    apply State.setHead_keeps
    exact hy1
  · apply State.setHead_keeps
    exact hy1

theorem State.reloadTables_keeps {s0 s : State} (hk : Keeps s0 s) : Keeps s0 (s.reloadTables) := by
  unfold State.reloadTables
  split
  · exact hk
  · apply State.eachStall_keeps
    exact hk

theorem State.runVerdict_keeps {s0 s : State} {q : RunEntry} {p : Plan} (hk : Keeps s0 s) : Keeps s0 (s.runVerdict q p) := by
  unfold State.runVerdict
  dsimp only
  refine Keeps.ite (State.nextShot_keeps hk) (Keeps.ite (State.nextShot_keeps (State.markFailed_keeps hk)) (Keeps.ite ?_ ?_))
  · exact (State.setHead_keeps (State.reloadTables_keeps hk)).upd rfl rfl rfl rfl rfl
  · exact State.completeRun_keeps (State.setHead_keeps ((State.markFailed_keeps (State.groomEvent_keeps hk)).upd rfl rfl rfl rfl rfl))

theorem State.energyVerdict_keeps {s0 s : State} (hk : Keeps s0 s) : Keeps s0 (s.energyVerdict) := by
  unfold State.energyVerdict
  extract_lets y1 y2 y3
  have hy1 : Keeps s0 y3 := by
    subst y3
    apply State.setReg_keeps
    apply State.setReg_keeps
    exact hk
  clear_value y3
  refine Keeps.ite ?_ ?_
  · exact hy1
  · apply State.doorbell_keeps
    apply State.setBit_keeps
    apply State.groomEvent_keeps
    exact hy1

theorem State.enterFault_keeps {s0 s : State} (hk : Keeps s0 s) : Keeps s0 (s.enterFault) := by
  unfold State.enterFault
  extract_lets y1 y2 y3 y4 y5 y6
  have hy1 : Keeps s0 y5 := by
    subst y5
    refine Keeps.upd ?_ rfl rfl rfl rfl rfl
    exact hk
  clear_value y5
  have hy2 : Keeps s0 y6 := by
    subst y6
    refine Keeps.foldl _ ?_ (fun a1 b1 k1 => ?_)
    · exact hy1
    · apply State.refuseRun_keeps
      exact k1
  clear_value y6
  refine Keeps.foldl _ ?_ (fun a2 b2 k2 => ?_)
  · exact hy2
  · split
    · apply State.refuse_keeps
      exact k2
    · apply State.failReq_keeps
      exact k2

theorem State.closeShot_keeps {s0 s : State} (hk : Keeps s0 s) : Keeps s0 (s.closeShot) := by
  unfold State.closeShot
  extract_lets y1 y2 y3 y4 y5 y6 y7
  have hy1 : Keeps s0 y1 := by
    subst y1
    apply State.energyVerdict_keeps
    exact hk
  clear_value y1
  have hy2 : Keeps s0 y2 := by
    subst y2
    refine Keeps.ite ?_ ?_
    · apply State.onGood_keeps
      apply State.failRecord_keeps
      exact hy1
    · exact hy1
  clear_value y2
  have hy3 : Keeps s0 y3 := by
    subst y3
    apply State.settleReqs_keeps
    exact hy2
  clear_value y3
  have hy4 : Keeps s0 y4 := by
    subst y4
    split
    · refine Keeps.ite ?_ ?_
      · apply State.runVerdict_keeps
        exact hy3
      · exact hy3
    · exact hy3
  clear_value y4
  have hy5 : Keeps s0 y5 := by
    subst y5
    apply State.eachStall_keeps
    exact hy4
  clear_value y5
  have hy6 : Keeps s0 y7 := by
    subst y7
    refine Keeps.upd ?_ rfl rfl rfl rfl rfl
    exact hy5
  clear_value y7
  refine Keeps.ite ?_ ?_
  · exact hk
  · refine Keeps.ite ?_ ?_
    · apply State.enterFault_keeps
      exact hy6
    · exact hy6

theorem State.doRelease_keeps {s0 s : State} (hk : Keeps s0 s) : Keeps s0 (s.doRelease) := by
  unfold State.doRelease
  apply State.releaseImage_keeps
  apply State.closeShot_keeps
  exact hk

theorem execClosingMargin_keeps (s : State) : ∃ u, execClosingMargin s = .next u ∧ Keeps s u := by
  unfold execClosingMargin
  refine ⟨_, rfl, ?_⟩
  have hk : Keeps s s := Keeps.refl s
  extract_lets y1 y2
  have hy1 : Keeps s y2 := by
    subst y2
    apply State.marginWork_keeps
    apply State.at__keeps
    exact hk
  clear_value y2
  refine Keeps.ite ?_ ?_
  · exact hk
  · refine Keeps.ite ?_ ?_
    · apply State.doRelease_keeps
      exact hy1
    · exact hy1

theorem State.startHead_keeps {s0 s : State} {n x fuel : Nat} (h : Keeps s0 s) : Keeps s0 (s.startHead n x fuel) := by
  induction fuel generalizing s with
  | zero => exact h
  | succ k ih =>
    unfold State.startHead
    split
    · exact h
    · refine Keeps.ite h ?_
      dsimp only
      exact Keeps.ite (ih (State.refuseRun_keeps (State.setHead_keeps h))) (State.setHead_keeps h)

theorem State.checkBanks_keeps {s0 s : State} (hk : Keeps s0 s) : Keeps s0 (s.checkBanks) := by
  unfold State.checkBanks
  extract_lets y1 y2
  have hy1 : Keeps s0 y2 := by
    subst y2
    refine Keeps.upd ?_ rfl rfl rfl rfl rfl
    exact hk
  clear_value y2
  split
  · extract_lets y3
    have hy2 : Keeps s0 y3 := by
      subst y3
      refine Keeps.ite ?_ ?_
      · apply State.markFailed_keeps
        exact hy1
      · exact hy1
    clear_value y3
    refine Keeps.ite ?_ ?_
    · apply State.refuseRun_keeps
      apply State.setHead_keeps
      exact hy2
    · exact hk
  · exact hk

theorem State.leaveHold_keeps {s0 s : State} (hk : Keeps s0 s) : Keeps s0 (s.leaveHold) := by
  unfold State.leaveHold
  extract_lets y1 y2
  refine Keeps.ite ?_ ?_
  · refine Keeps.upd ?_ rfl rfl rfl rfl rfl
    exact hk
  · exact hk

theorem State.boundary_keeps {s0 s : State} {x : Nat} (hk : Keeps s0 s) : Keeps s0 (s.boundary x) := by
  unfold State.boundary
  extract_lets y1 y2
  have hy1 : Keeps s0 y1 := by
    subst y1
    refine Keeps.ite ?_ ?_
    · exact hk
    · apply State.closeShot_keeps
      exact hk
  clear_value y1
  have hy2 : Keeps s0 y2 := by
    subst y2
    apply State.checkBanks_keeps
    apply State.carryMoves_keeps
    apply State.leaveHold_keeps
    exact hy1
  clear_value y2
  refine Keeps.ite ?_ ?_
  · exact hy1
  · refine Keeps.ite ?_ ?_
    · exact hy2
    · apply State.startHead_keeps
      exact hy2

theorem execRunStart_keeps (s : State) : ∃ u, execRunStart s = .next u ∧ Keeps s u := by
  unfold execRunStart
  refine ⟨_, rfl, ?_⟩
  have hk : Keeps s s := Keeps.refl s
  split
  · extract_lets y1
    refine Keeps.ite ?_ ?_
    · exact hk
    · refine Keeps.ite ?_ ?_
      · apply State.boundary_keeps
        apply State.at__keeps
        exact hk
      · exact hk
  · exact hk

theorem State.firstShot_keeps {s0 s : State} {q : RunEntry} {p : Plan} (hk : Keeps s0 s) : Keeps s0 (s.firstShot q p) := by
  unfold State.firstShot
  extract_lets y1
  have hy1 : Keeps s0 y1 := by
    subst y1
    refine Keeps.ite ?_ ?_
    · apply State.clearMark_keeps
      exact hk
    · exact hk
  clear_value y1
  refine Keeps.ite ?_ ?_
  · exact hk
  · apply State.setHead_keeps
    exact hy1

theorem State.stallsBegin_keeps {s0 s : State} {x : Nat} {entry : Nat → Option Nat} {step : Nat} (hk : Keeps s0 s) : Keeps s0 (s.stallsBegin x entry step) := by
  unfold State.stallsBegin
  extract_lets y1
  apply State.flush_keeps
  refine Keeps.foldl _ ?_ (fun a1 b1 k1 => ?_)
  · exact hk
  · apply State.modStall_keeps
    exact k1

theorem State.barnsBegin_keeps {s0 s : State} {x : Nat} {p : Option Plan} (hk : Keeps s0 s) : Keeps s0 (s.barnsBegin x p) := by
  unfold State.barnsBegin
  refine Keeps.foldl _ ?_ (fun a1 b1 k1 => ?_)
  · exact hk
  · extract_lets y1 y2 y3 y4
    have hy1 : Keeps s0 y4 := by
      subst y4
      apply State.setBarn_keeps
      exact k1
    clear_value y4
    apply State.setField_keeps
    apply State.setReg_keeps
    exact hy1

theorem State.beginShot_keeps {s0 s : State} {x : Nat} {q : Option RunEntry} {p : Option Plan} (hk : Keeps s0 s) : Keeps s0 (s.beginShot x q p) := by
  unfold State.beginShot
  extract_lets y1 y2 y3 y4 y5 y6
  have hy1 : Keeps s0 y4 := by
    subst y4
    refine Keeps.upd ?_ rfl rfl rfl rfl rfl
    exact hk
  clear_value y4
  have hy2 : Keeps s0 y6 := by
    subst y6
    apply State.barnsBegin_keeps
    apply State.stallsBegin_keeps
    exact hy1
  clear_value y6
  split
  · apply State.failEvent_keeps
    exact hy2
  · exact hy2

theorem State.startShot_keeps {s0 s : State} {x : Nat} (hk : Keeps s0 s) : Keeps s0 (s.startShot x) := by
  unfold State.startShot
  split
  · split
    · extract_lets y1 y2 y3 y4 y5 y6 y7 y8
      have hy1 : Keeps s0 y1 := by
        subst y1
        apply State.firstShot_keeps
        exact hk
      clear_value y1
      have hy2 : Keeps s0 y5 := by
        subst y5
        apply State.setHead_keeps
        exact hy1
      clear_value y5
      have hy3 : Keeps s0 y7 := by
        subst y7
        refine Keeps.ite ?_ ?_
        · apply State.bump_keeps
          refine Keeps.upd ?_ rfl rfl rfl rfl rfl
          exact hy2
        · exact hy2
      clear_value y7
      have hy4 : Keeps s0 y8 := by
        subst y8
        apply State.setField_keeps
        apply State.putBit_keeps
        apply State.putBit_keeps
        exact hy3
      clear_value y8
      refine Keeps.ite ?_ ?_
      · apply State.beginShot_keeps
        apply State.putBit_keeps
        exact hk
      · refine Keeps.ite ?_ ?_
        · apply State.beginShot_keeps
          apply State.putBit_keeps
          exact hk
        · apply State.beginShot_keeps
          exact hy4
    · apply State.beginShot_keeps
      apply State.putBit_keeps
      exact hk
  · apply State.beginShot_keeps
    apply State.setField_keeps
    apply State.putBit_keeps
    exact hk

theorem State.substitute_keeps {s0 s : State} (hk : Keeps s0 s) : Keeps s0 (s.substitute) := by
  unfold State.substitute
  extract_lets y1
  refine Keeps.ite ?_ ?_
  · apply State.setField_keeps
    exact hk
  · exact hk

theorem State.tickOut_keeps {s0 s : State} {e n : Nat} (hk : Keeps s0 s) : Keeps s0 (s.tickOut e n) := by
  unfold State.tickOut
  extract_lets y1 y2 y3
  have hy1 : Keeps s0 y3 := by
    subst y3
    refine Keeps.ite ?_ ?_
    · apply State.announceChildren_keeps
      exact hk
    · exact hk
  clear_value y3
  apply State.emit_keeps
  exact hy1

theorem State.fire_keeps {s0 s : State} {e n x : Nat} (hk : Keeps s0 s) : Keeps s0 (s.fire e n x) := by
  unfold State.fire
  extract_lets y1 y2 y3 y4
  have hy1 : Keeps s0 y1 := by
    subst y1
    apply State.setShotNo_keeps
    exact hk
  clear_value y1
  have hy2 : Keeps s0 y3 := by
    subst y3
    refine Keeps.upd ?_ rfl rfl rfl rfl rfl
    exact hy1
  clear_value y3
  have hy3 : Keeps s0 y4 := by
    subst y4
    apply State.dropStale_keeps
    apply State.tickOut_keeps
    apply State.substitute_keeps
    exact hy2
  clear_value y4
  refine Keeps.ite ?_ ?_
  · apply State.startShot_keeps
    exact hy3
  · exact hy3

theorem State.missTick_keeps {s0 s : State} {n x : Nat} (hk : Keeps s0 s) : Keeps s0 (s.missTick n x) := by
  unfold State.missTick
  extract_lets y1 y2 y3 y4
  have hy1 : Keeps s0 y2 := by
    subst y2
    refine Keeps.ite ?_ ?_
    · apply State.bump_keeps
      exact hk
    · exact hk
  clear_value y2
  have hy2 : Keeps s0 y4 := by
    subst y4
    refine Keeps.upd ?_ rfl rfl rfl rfl rfl
    exact hy1
  clear_value y4
  split
  · refine Keeps.ite ?_ ?_
    · apply State.nextShot_keeps
      apply State.markFailed_keeps
      exact hy2
    · exact hy2
  · exact hy2

theorem execTick_keeps (s : State) : ∃ u, execTick s = .next u ∧ Keeps s u := by
  unfold execTick
  refine ⟨_, rfl, ?_⟩
  have hk : Keeps s s := Keeps.refl s
  extract_lets y1
  split
  · extract_lets y2 y3
    have hy1 : Keeps s y3 := by
      subst y3
      apply State.boundary_keeps
      apply State.at__keeps
      exact hk
    clear_value y3
    refine Keeps.ite ?_ ?_
    · exact hk
    · refine Keeps.ite ?_ ?_
      · apply State.fire_keeps
        exact hy1
      · apply State.missTick_keeps
        exact hy1
  · exact hk

theorem execTickLossDetect_keeps (s : State) : ∃ u, execTickLossDetect s = .next u ∧ Keeps s u := by
  unfold execTickLossDetect
  refine ⟨_, rfl, ?_⟩
  have hk : Keeps s s := Keeps.refl s
  split
  · extract_lets y1 y2 y3 y4
    have hy1 : Keeps s y1 := by
      subst y1
      apply State.at__keeps
      exact hk
    clear_value y1
    have hy2 : Keeps s y2 := by
      subst y2
      apply State.failureEvent_keeps
      apply State.setBit_keeps
      apply State.groomEvent_keeps
      exact hy1
    clear_value y2
    refine Keeps.upd ?_ rfl rfl rfl rfl rfl
    exact hy2
  · exact hk

theorem execAuditHalt_keeps (s : State) : ∃ u, execAuditHalt s = .next u ∧ Keeps s u := by
  unfold execAuditHalt
  refine ⟨_, rfl, ?_⟩
  have hk : Keeps s s := Keeps.refl s
  split
  · extract_lets y1 y2 y3 y4
    have hy1 : Keeps s y1 := by
      subst y1
      apply State.at__keeps
      exact hk
    clear_value y1
    have hy2 : Keeps s y2 := by
      subst y2
      apply State.onGood_keeps
      exact hy1
    clear_value y2
    have hy3 : Keeps s y3 := by
      subst y3
      refine Keeps.foldl _ ?_ (fun a1 b1 k1 => ?_)
      · exact hy2
      · extract_lets y5
        refine Keeps.ite ?_ ?_
        · apply State.setBarn_keeps
          exact k1
        · exact k1
    clear_value y3
    refine Keeps.ite ?_ ?_
    · exact hk
    · apply State.setBit_keeps
      refine Keeps.upd ?_ rfl rfl rfl rfl rfl
      exact hy3
  · exact hk

theorem execGlbAuditRelease_keeps (v : Word) (s : State) : ∃ u, execGlbAuditRelease v s = .next u ∧ Keeps s u := by
  unfold execGlbAuditRelease
  refine ⟨_, rfl, ?_⟩
  have hk : Keeps s s := Keeps.refl s
  extract_lets y1
  have hy1 : Keeps s y1 := by
    subst y1
    apply State.putBit_keeps
    exact hk
  clear_value y1
  refine Keeps.ite ?_ ?_
  · exact hk
  · refine Keeps.ite ?_ ?_
    · apply State.closeShot_keeps
      exact hy1
    · exact hy1


/-! ### Host -/

theorem execRingEnable_keeps (r : RingId) (v : Word) (s : State) : ∃ u, execRingEnable r v s = .next u ∧ Keeps s u := by
  unfold execRingEnable
  refine ⟨_, rfl, ?_⟩
  have hk : Keeps s s := Keeps.refl s
  extract_lets y1 y2 y3 y4 y5
  have hy1 : Keeps s y3 := by
    subst y3
    apply State.writeReg_keeps
    exact hk
  clear_value y3
  refine Keeps.ite ?_ ?_
  · exact hk
  · refine Keeps.ite ?_ ?_
    · apply State.writeReg_keeps
      exact hk
    · apply State.setRing_keeps
      exact hy1

theorem execRingDisable_keeps (r : RingId) (v : Word) (s : State) : ∃ u, execRingDisable r v s = .next u ∧ Keeps s u := by
  unfold execRingDisable
  refine ⟨_, rfl, ?_⟩
  have hk : Keeps s s := Keeps.refl s
  extract_lets y1 y2 y3 y4
  have hy1 : Keeps s y3 := by
    subst y3
    apply State.writeReg_keeps
    exact hk
  clear_value y3
  refine Keeps.ite ?_ ?_
  · exact hk
  · refine Keeps.ite ?_ ?_
    · apply State.writeReg_keeps
      exact hk
    · apply State.setRing_keeps
      exact hy1

theorem State.badDoorbell_keeps {s0 s : State} {n : Nat} (hk : Keeps s0 s) : Keeps s0 (s.badDoorbell n) := by
  unfold State.badDoorbell
  extract_lets y1
  apply State.event_keeps
  apply State.setRing_keeps
  exact hk

theorem execDbSqTailWrite_keeps (r : RingId) (v : Word) (s : State) : ∃ u, execDbSqTailWrite r v s = .next u ∧ Keeps s u := by
  unfold execDbSqTailWrite
  refine ⟨_, rfl, ?_⟩
  have hk : Keeps s s := Keeps.refl s
  extract_lets y1 y2
  refine Keeps.ite ?_ ?_
  · exact hk
  · refine Keeps.ite ?_ ?_
    · apply State.setRing_keeps
      exact hk
    · apply State.badDoorbell_keeps
      exact hk

theorem execDbCqHeadWrite_keeps (r : RingId) (v : Word) (s : State) : ∃ u, execDbCqHeadWrite r v s = .next u ∧ Keeps s u := by
  unfold execDbCqHeadWrite
  refine ⟨_, rfl, ?_⟩
  have hk : Keeps s s := Keeps.refl s
  extract_lets y1 y2
  refine Keeps.ite ?_ ?_
  · exact hk
  · refine Keeps.ite ?_ ?_
    · apply State.setRing_keeps
      exact hk
    · apply State.badDoorbell_keeps
      exact hk

theorem execRingFetch_keeps (r : RingId) (data : List Byte) (ok : Bool) (s : State) : ∃ u, execRingFetch r data ok s = .next u ∧ Keeps s u := by
  unfold execRingFetch
  refine ⟨_, rfl, ?_⟩
  have hk : Keeps s s := Keeps.refl s
  extract_lets y1 y2 y3 y4 y5 y6
  have hy1 : Keeps s y3 := by
    subst y3
    apply State.emit_keeps
    exact hk
  clear_value y3
  have hy2 : Keeps s y5 := by
    subst y5
    apply State.setRing_keeps
    exact hy1
  clear_value y5
  refine Keeps.ite ?_ ?_
  · exact hk
  · refine Keeps.ite ?_ ?_
    · apply State.event_keeps
      apply State.setRing_keeps
      exact hy1
    · refine Keeps.ite ?_ ?_
      · refine Keeps.upd ?_ rfl rfl rfl rfl rfl
        exact hy2
      · apply State.refuse_keeps
        exact hy2

theorem execNopEntry_keeps (r : RingId) (s : State) : ∃ u, execNopEntry r s = .next u ∧ Keeps s u := by
  unfold execNopEntry
  refine ⟨_, rfl, ?_⟩
  have hk : Keeps s s := Keeps.refl s
  split
  · refine Keeps.ite ?_ ?_
    · apply State.complete_keeps
      apply State.dropEntry_keeps
      exact hk
    · exact hk
  · exact hk

theorem execRun_keeps (r : RingId) (s : State) : ∃ u, execRun r s = .next u ∧ Keeps s u := by
  unfold execRun
  refine ⟨_, rfl, ?_⟩
  have hk : Keeps s s := Keeps.refl s
  extract_lets y1 y2
  have hy1 : Keeps s y1 := by
    subst y1
    apply State.dropEntry_keeps
    exact hk
  clear_value y1
  split
  · exact hk
  · extract_lets y3 y4 y5
    refine Keeps.ite ?_ ?_
    · exact hk
    · refine Keeps.ite ?_ ?_
      · apply State.refuseRun_keeps
        exact hy1
      · refine Keeps.upd ?_ rfl rfl rfl rfl rfl
        exact hy1

theorem execSnapshotShip_keeps (r : RingId) (s : State) : ∃ u, execSnapshotShip r s = .next u ∧ Keeps s u := by
  unfold execSnapshotShip
  refine ⟨_, rfl, ?_⟩
  have hk : Keeps s s := Keeps.refl s
  extract_lets y1 y2 y3
  have hy1 : Keeps s y1 := by
    subst y1
    apply State.dropEntry_keeps
    exact hk
  clear_value y1
  split
  · exact hk
  · extract_lets y4
    refine Keeps.ite ?_ ?_
    · exact hk
    · refine Keeps.ite ?_ ?_
      · apply State.refuse_keeps
        exact hy1
      · refine Keeps.upd ?_ rfl rfl rfl rfl rfl
        exact hy1

theorem State.cmdCheck_keeps {s0 s : State} (hk : Keeps s0 s) : Keeps s0 (s.cmdCheck) := by
  unfold State.cmdCheck
  extract_lets y1 y2
  have hy1 : Keeps s0 y2 := by
    subst y2
    refine Keeps.upd ?_ rfl rfl rfl rfl rfl
    exact hk
  clear_value y2
  refine Keeps.ite ?_ ?_
  · exact hk
  · apply State.ack_keeps
    apply State.groomEvent_keeps
    exact hy1

theorem State.setLast_keeps {s0 s : State} {p : List Packet} (hk : Keeps s0 s) : Keeps s0 (s.setLast p) := by
  unfold State.setLast
  extract_lets y1
  refine Keeps.upd ?_ rfl rfl rfl rfl rfl
  exact hk

theorem execMbxCmdDataWrite_keeps (v : Word) (s : State) : ∃ u, execMbxCmdDataWrite v s = .next u ∧ Keeps s u := by
  unfold execMbxCmdDataWrite
  refine ⟨_, rfl, ?_⟩
  have hk : Keeps s s := Keeps.refl s
  extract_lets y1 y2
  have hy1 : Keeps s y1 := by
    subst y1
    apply State.cmdCheck_keeps
    exact hk
  clear_value y1
  refine Keeps.ite ?_ ?_
  · exact hk
  · split
    · refine Keeps.ite ?_ ?_
      · exact hy1
      · apply State.setLast_keeps
        exact hy1
    · refine Keeps.ite ?_ ?_
      · exact hy1
      · refine Keeps.upd ?_ rfl rfl rfl rfl rfl
        exact hy1

theorem execMbxCmdPush_keeps (v : Word) (s : State) : ∃ u, execMbxCmdPush v s = .next u ∧ Keeps s u := by
  unfold execMbxCmdPush
  refine ⟨_, rfl, ?_⟩
  have hk : Keeps s s := Keeps.refl s
  extract_lets y1
  have hy1 : Keeps s y1 := by
    subst y1
    apply State.cmdCheck_keeps
    exact hk
  clear_value y1
  refine Keeps.ite ?_ ?_
  · exact hk
  · split
    · exact hy1
    · refine Keeps.ite ?_ ?_
      · apply State.setLast_keeps
        exact hy1
      · apply State.ack_keeps
        apply State.setLast_keeps
        exact hy1

theorem State.dropCmd_keeps {s0 s : State} (hk : Keeps s0 s) : Keeps s0 (s.dropCmd) := by
  unfold State.dropCmd
  extract_lets y1
  refine Keeps.upd ?_ rfl rfl rfl rfl rfl
  exact hk

theorem execNopCommand_keeps (s : State) : ∃ u, execNopCommand s = .next u ∧ Keeps s u := by
  unfold execNopCommand
  refine ⟨_, rfl, ?_⟩
  have hk : Keeps s s := Keeps.refl s
  extract_lets y1
  have hy1 : Keeps s y1 := by
    subst y1
    apply State.cmdCheck_keeps
    exact hk
  clear_value y1
  refine Keeps.ite ?_ ?_
  · exact hk
  · split
    · refine Keeps.ite ?_ ?_
      · exact hy1
      · apply State.ack_keeps
        apply State.dropCmd_keeps
        exact hy1
    · exact hy1

theorem execFarMap_keeps (s : State) : ∃ u, execFarMap s = .next u ∧ Keeps s u := by
  unfold execFarMap
  refine ⟨_, rfl, ?_⟩
  have hk : Keeps s s := Keeps.refl s
  extract_lets y1 y2
  have hy1 : Keeps s y1 := by
    subst y1
    apply State.cmdCheck_keeps
    exact hk
  clear_value y1
  have hy2 : Keeps s y2 := by
    subst y2
    apply State.dropCmd_keeps
    exact hy1
  clear_value y2
  refine Keeps.ite ?_ ?_
  · exact hk
  · split
    · extract_lets y3 y4 y5 y6
      refine Keeps.ite ?_ ?_
      · exact hy1
      · refine Keeps.ite ?_ ?_
        · apply State.ack_keeps
          exact hy2
        · split
          · apply State.ack_keeps
            exact hy2
          · refine Keeps.ite ?_ ?_
            · apply State.ack_keeps
              exact hy2
            · split
              extract_lets y7 y8
              refine Keeps.ite ?_ ?_
              · apply State.ack_keeps
                refine Keeps.ofEq (by assumption) ?_
                apply State.readMem_keeps
                exact hy2
              · refine Keeps.ite ?_ ?_
                · apply State.ack_keeps
                  refine Keeps.ofEq (by assumption) ?_
                  apply State.readMem_keeps
                  exact hy2
                · refine Keeps.upd ?_ rfl rfl rfl rfl rfl
                  refine Keeps.ofEq (by assumption) ?_
                  apply State.readMem_keeps
                  exact hy2
    · exact hy1

theorem execMbxHdbClear_keeps (v : Word) (s : State) : ∃ u, execMbxHdbClear v s = .next u ∧ Keeps s u := by
  unfold execMbxHdbClear
  refine ⟨_, rfl, ?_⟩
  have hk : Keeps s s := Keeps.refl s
  refine Keeps.ite ?_ ?_
  · apply State.showAck_keeps
    apply State.writeReg_keeps
    exact hk
  · exact hk

theorem execMbxHdbMaskWrite_keeps (v : Word) (s : State) : ∃ u, execMbxHdbMaskWrite v s = .next u ∧ Keeps s u := by
  unfold execMbxHdbMaskWrite
  refine ⟨_, rfl, ?_⟩
  have hk : Keeps s s := Keeps.refl s
  extract_lets y1 y2 y3
  have hy1 : Keeps s y2 := by
    subst y2
    apply State.writeReg_keeps
    exact hk
  clear_value y2
  refine Keeps.ite ?_ ?_
  · exact hk
  · refine Keeps.ite ?_ ?_
    · apply State.msix_keeps
      exact hy1
    · exact hy1

theorem State.bar2Unassigned_keeps {s0 s : State} (hk : Keeps s0 s) : Keeps s0 (s.bar2Unassigned) := by
  unfold State.bar2Unassigned
  refine Keeps.ite ?_ ?_
  · exact hk
  · apply State.event_keeps
    apply State.setBit_keeps
    exact hk

theorem State.serveBar2_keeps {s0 s : State} {off len : Nat} (hk : Keeps s0 s) : Keeps s0 (s.serveBar2 off len) := by
  unfold State.serveBar2
  extract_lets y1 y2
  split
  extract_lets y3
  have hy1 : Keeps s0 y3 := by
    subst y3
    refine Keeps.ite ?_ ?_
    · apply State.bar2Unassigned_keeps
      refine Keeps.ofEq (by assumption) ?_
      apply State.readMem_keeps
      exact hk
    · refine Keeps.ofEq (by assumption) ?_
      apply State.readMem_keeps
      exact hk
  clear_value y3
  apply State.emit_keeps
  exact hy1

theorem execBar2Read_keeps (off len : Nat) (s : State) : ∃ u, execBar2Read off len s = .next u ∧ Keeps s u := by
  unfold execBar2Read
  refine ⟨_, rfl, ?_⟩
  have hk : Keeps s s := Keeps.refl s
  extract_lets y1
  refine Keeps.ite ?_ ?_
  · exact hk
  · refine Keeps.ite ?_ ?_
    · apply State.serveBar2_keeps
      exact hk
    · refine Keeps.upd ?_ rfl rfl rfl rfl rfl
      exact hk

theorem execBar2ReadTimeout_keeps (s : State) : ∃ u, execBar2ReadTimeout s = .next u ∧ Keeps s u := by
  unfold execBar2ReadTimeout
  refine ⟨_, rfl, ?_⟩
  have hk : Keeps s s := Keeps.refl s
  split
  · extract_lets y1 y2
    have hy1 : Keeps s y1 := by
      subst y1
      apply State.at__keeps
      exact hk
    clear_value y1
    apply State.emit_keeps
    apply State.event_keeps
    apply State.setBit_keeps
    refine Keeps.upd ?_ rfl rfl rfl rfl rfl
    exact hy1
  · exact hk

theorem execBar2Write_keeps (off : Nat) (data : List Byte) (s : State) : ∃ u, execBar2Write off data s = .next u ∧ Keeps s u := by
  unfold execBar2Write
  refine ⟨_, rfl, ?_⟩
  have hk : Keeps s s := Keeps.refl s
  extract_lets y1 y2
  refine Keeps.ite ?_ ?_
  · exact hk
  · split
    extract_lets y3 y4
    have hy1 : Keeps s y3 := by
      subst y3
      refine Keeps.ite ?_ ?_
      · apply State.bar2Unassigned_keeps
        refine Keeps.ofEq (by assumption) ?_
        refine Keeps.foldl1 _ ?_ (fun a1 b1 k1 => ?_)
        · dsimp only
          exact hk
        · split
          extract_lets y5
          split
          · dsimp only
            apply State.writeMem_keeps
            exact k1
          · dsimp only
            exact k1
      · refine Keeps.ofEq (by assumption) ?_
        refine Keeps.foldl1 _ ?_ (fun a2 b2 k2 => ?_)
        · dsimp only
          exact hk
        · split
          extract_lets y6
          split
          · dsimp only
            apply State.writeMem_keeps
            exact k2
          · dsimp only
            exact k2
    clear_value y3
    have hy2 : Keeps s y4 := by
      subst y4
      apply State.bump_keeps
      exact hy1
    clear_value y4
    refine Keeps.ite ?_ ?_
    · exact hy1
    · refine Keeps.ite ?_ ?_
      · exact hy2
      · apply State.event_keeps
        apply State.setBit_keeps
        exact hy2

theorem execHostReadCompletion_keeps (tag : Nat) (data : List Byte) (ok : Bool) (s : State) : ∃ u, execHostReadCompletion tag data ok s = .next u ∧ Keeps s u := by
  unfold execHostReadCompletion
  refine ⟨_, rfl, ?_⟩
  have hk : Keeps s s := Keeps.refl s
  extract_lets y1
  split
  · refine Keeps.ite ?_ ?_
    · apply State.deliverFar_keeps
      exact hk
    · refine Keeps.upd ?_ rfl rfl rfl rfl rfl
      exact hk
  · exact hk

theorem State.nvmeFail_keeps {s0 s : State} {c : NvmeCmd} (hk : Keeps s0 s) : Keeps s0 (s.nvmeFail c) := by
  unfold State.nvmeFail
  extract_lets y1
  split
  · refine Keeps.upd ?_ rfl rfl rfl rfl rfl
    exact hk
  · split
    · refine Keeps.ite ?_ ?_
      · refine Keeps.upd ?_ rfl rfl rfl rfl rfl
        exact hk
      · exact hk
    · exact hk
  · apply State.destFail_keeps
    exact hk
  · exact hk

theorem State.nvmeDone_keeps {s0 s : State} {c : NvmeCmd} {data : List Byte} (hk : Keeps s0 s) : Keeps s0 (s.nvmeDone c data) := by
  unfold State.nvmeDone
  split
  · split
    · apply State.deliverFar_keeps
      exact hk
    · exact hk
  · exact hk

theorem execNvmeCompletion_keeps (cid : Nat) (status : BitVec 15) (data : List Byte) (s : State) : ∃ u, execNvmeCompletion cid status data s = .next u ∧ Keeps s u := by
  unfold execNvmeCompletion
  refine ⟨_, rfl, ?_⟩
  have hk : Keeps s s := Keeps.refl s
  extract_lets y1 y2
  have hy1 : Keeps s y2 := by
    subst y2
    refine Keeps.upd ?_ rfl rfl rfl rfl rfl
    exact hk
  clear_value y2
  split
  · exact hk
  · extract_lets y3
    have hy2 : Keeps s y3 := by
      subst y3
      apply State.groomEvent_keeps
      exact hy1
    clear_value y3
    refine Keeps.ite ?_ ?_
    · apply State.nvmeDone_keeps
      exact hy1
    · apply State.nvmeFail_keeps
      exact hy2

theorem State.nvmeFailAll_keeps {s0 s : State} (hk : Keeps s0 s) : Keeps s0 (s.nvmeFailAll) := by
  unfold State.nvmeFailAll
  extract_lets y1 y2
  refine Keeps.foldl _ ?_ (fun a1 b1 k1 => ?_)
  · refine Keeps.upd ?_ rfl rfl rfl rfl rfl
    exact hk
  · apply State.nvmeFail_keeps
    exact k1

theorem execAuxLinkDown_keeps (s : State) : ∃ u, execAuxLinkDown s = .next u ∧ Keeps s u := by
  unfold execAuxLinkDown
  refine ⟨_, rfl, ?_⟩
  have hk : Keeps s s := Keeps.refl s
  extract_lets y1 y2 y3
  have hy1 : Keeps s y1 := by
    subst y1
    apply State.cross_keeps
    exact hk
  clear_value y1
  have hy2 : Keeps s y3 := by
    subst y3
    refine Keeps.upd ?_ rfl rfl rfl rfl rfl
    exact hy1
  clear_value y3
  refine Keeps.ite ?_ ?_
  · exact hk
  · apply State.nvmeFailAll_keeps
    apply State.groomEvent_keeps
    apply State.setField_keeps
    exact hy2

theorem execAuxLinkReady_keeps (ok : Bool) (s : State) : ∃ u, execAuxLinkReady ok s = .next u ∧ Keeps s u := by
  unfold execAuxLinkReady
  refine ⟨_, rfl, ?_⟩
  have hk : Keeps s s := Keeps.refl s
  extract_lets y1 y2 y3 y4 y5
  have hy1 : Keeps s y1 := by
    subst y1
    apply State.cross_keeps
    exact hk
  clear_value y1
  have hy2 : Keeps s y3 := by
    subst y3
    refine Keeps.upd ?_ rfl rfl rfl rfl rfl
    exact hy1
  clear_value y3
  have hy3 : Keeps s y4 := by
    subst y4
    apply State.setField_keeps
    exact hy2
  clear_value y4
  refine Keeps.ite ?_ ?_
  · exact hk
  · split
    · apply State.ack_keeps
      refine Keeps.upd ?_ rfl rfl rfl rfl rfl
      exact hy3
    · exact hy3

theorem execNvmeReset_keeps (s : State) : ∃ u, execNvmeReset s = .next u ∧ Keeps s u := by
  unfold execNvmeReset
  refine ⟨_, rfl, ?_⟩
  have hk : Keeps s s := Keeps.refl s
  extract_lets y1 y2 y3
  have hy1 : Keeps s y1 := by
    subst y1
    apply State.cmdCheck_keeps
    exact hk
  clear_value y1
  have hy2 : Keeps s y2 := by
    subst y2
    apply State.nvmeFailAll_keeps
    apply State.dropCmd_keeps
    exact hy1
  clear_value y2
  refine Keeps.ite ?_ ?_
  · exact hk
  · split
    · extract_lets y4
      have hy3 : Keeps s y4 := by
        subst y4
        refine Keeps.upd ?_ rfl rfl rfl rfl rfl
        exact hy2
      clear_value y4
      refine Keeps.ite ?_ ?_
      · exact hy1
      · refine Keeps.ite ?_ ?_
        · apply State.ack_keeps
          apply State.dropCmd_keeps
          exact hy1
        · apply State.setField_keeps
          exact hy3
    · exact hy1

theorem execAuxDeviceMemoryRequest_keeps (addr len : Nat) (data : Option (List Byte)) (s : State) : ∃ u, execAuxDeviceMemoryRequest addr len data s = .next u ∧ Keeps s u := by
  unfold execAuxDeviceMemoryRequest
  refine ⟨_, rfl, ?_⟩
  have hk : Keeps s s := Keeps.refl s
  refine Keeps.ite ?_ ?_
  · exact hk
  · split
    · refine Keeps.ite ?_ ?_
      · apply State.emit_keeps
        exact hk
      · apply State.writeMem_keeps
        exact hk
    · refine Keeps.ite ?_ ?_
      · apply State.emit_keeps
        exact hk
      · split
        apply State.emit_keeps
        refine Keeps.ofEq (by assumption) ?_
        apply State.readFree_keeps
        exact hk

end Sys2Proof.Machine
end

