-- ==== Sys2Proof/Laws/KeepsService.lean ====
section
/-!
SUPPORT. The commands of the loader, resets, power, secure service and register access keep what Keeps says.
-/
namespace Sys2Proof.Machine

open Sys2Proof.Safety

/-! ### Loader -/

theorem State.admitStalls_keeps {s0 s : State} {im : Image} (hk : Keeps s0 s) : Keeps s0 (s.admitStalls im) := by
  unfold State.admitStalls
  dsimp only
  refine Keeps.foldl _ ?_ fun x a k => ?_
  · exact (Keeps.foldl _ hk fun x a k => State.modStall_keeps k).map fun _ => swf_ssetList _ _ rfl
  · split
    · exact Keeps.ite k (State.groomEvent_keeps k)
    · exact k

theorem State.admitBarns_keeps {s0 s : State} {im : Image} (hk : Keeps s0 s) : Keeps s0 (s.admitBarns im) := by
  unfold State.admitBarns
  refine Keeps.foldl _ ?_ (fun a1 b1 k1 => ?_)
  · exact hk
  · extract_lets y1 y2
    apply State.setBarn_keeps
    exact k1

theorem State.putDigest_keeps {s0 s : State} {a : Nat} {d : List Byte} (hk : Keeps s0 s) : Keeps s0 (s.putDigest a d) := by
  unfold State.putDigest
  refine Keeps.foldl _ ?_ (fun a1 b1 k1 => ?_)
  · exact hk
  · apply State.setReg_keeps
    exact k1

theorem State.admitPorts_keeps {s0 s : State} {im : Image} (hk : Keeps s0 s) : Keeps s0 (s.admitPorts im) := by
  unfold State.admitPorts
  beta_reduce
  refine Keeps.foldl _ ?_ (fun a1 b1 k1 => ?_)
  · refine Keeps.foldl _ ?_ (fun a2 b2 k2 => ?_)
    · exact hk
    · extract_lets y1
      apply State.setPort_keeps
      exact k2
  · apply State.emit_keeps
    exact k1

theorem State.admitImage_keeps {s0 s : State} {im : Image} {bs : List Byte} (hk : Keeps s0 s) : Keeps s0 (s.admitImage im bs) := by
  unfold State.admitImage
  extract_lets y1 y2 y3 y4 y5 y6 y7 y8 y9 y10 y11 y12 y13 y14 y15 y16 y17 y18 y19
  have hy1 : Keeps s0 y13 := by
    subst y13
    refine Keeps.upd ?_ rfl rfl rfl rfl rfl
    exact hk
  clear_value y13
  have hy2 : Keeps s0 y14 := by
    subst y14
    refine Keeps.foldl _ ?_ (fun a1 b1 k1 => ?_)
    · exact hy1
    · apply State.writeMem_keeps
      exact k1
  clear_value y14
  have hy3 : Keeps s0 y15 := by
    subst y15
    apply State.admitPorts_keeps
    apply State.admitBarns_keeps
    apply State.admitStalls_keeps
    exact hy2
  clear_value y15
  have hy4 : Keeps s0 y16 := by
    subst y16
    split
    · refine Keeps.foldl _ ?_ (fun a2 b2 k2 => ?_)
      · exact hy3
      · extract_lets y20
        refine Keeps.ite ?_ ?_
        · refine Keeps.upd ?_ rfl rfl rfl rfl rfl
          exact k2
        · exact k2
    · exact hy3
  clear_value y16
  have hy5 : Keeps s0 y17 := by
    subst y17
    apply State.putDigest_keeps
    apply State.putDigest_keeps
    exact hy4
  clear_value y17
  have hy6 : Keeps s0 y18 := by
    subst y18
    apply State.putBit_keeps
    apply State.setReg_keeps
    exact hy5
  clear_value y18
  have hy7 : Keeps s0 y19 := by
    subst y19
    split
    · apply State.setField_keeps
      exact hy6
    · exact hy6
  clear_value y19
  apply State.setField_keeps
  apply State.putBit_keeps
  exact hy7

theorem State.stagedBytes_keeps {s0 s : State} {a n : Nat} (hk : Keeps s0 s) : Keeps s0 (s.stagedBytes a n).1 := by
  unfold State.stagedBytes
  split
  split
  dsimp only
  refine Keeps.ofEq (by assumption) ?_
  apply State.fresh_keeps
  refine Keeps.ofEq (by assumption) ?_
  apply State.readMem_keeps
  exact hk

theorem State.dropQueued_keeps {s0 s : State} (hk : Keeps s0 s) : Keeps s0 (s.dropQueued) := by
  unfold State.dropQueued
  extract_lets y1 y2 y3
  have hy1 : Keeps s0 y3 := by
    subst y3
    refine Keeps.upd ?_ rfl rfl rfl rfl rfl
    exact hk
  clear_value y3
  refine Keeps.foldl _ ?_ (fun a1 b1 k1 => ?_)
  · exact hy1
  · apply State.refuseRun_keeps
    exact k1

theorem execCfgRelease_keeps (v : Word) (s : State) : ∃ u, execCfgRelease v s = .next u ∧ Keeps s u := by
  unfold execCfgRelease
  refine ⟨_, rfl, ?_⟩
  have hk : Keeps s s := Keeps.refl s
  extract_lets y1 y2 y3 y4
  have hy1 : Keeps s y1 := by
    subst y1
    apply State.putBit_keeps
    exact hk
  clear_value y1
  have hy2 : Keeps s y3 := by
    subst y3
    apply State.putBit_keeps
    refine Keeps.upd ?_ rfl rfl rfl rfl rfl
    exact hy1
  clear_value y3
  have hy3 : Keeps s y4 := by
    subst y4
    apply State.dropQueued_keeps
    exact hy2
  clear_value y4
  refine Keeps.ite ?_ ?_
  · exact hk
  · refine Keeps.ite ?_ ?_
    · apply State.setBit_keeps
      exact hk
    · refine Keeps.ite ?_ ?_
      · apply State.doRelease_keeps
        exact hy3
      · exact hy3

theorem State.markReset_keeps {s0 s : State} (hk : Keeps s0 s) : Keeps s0 (s.markReset) := by
  unfold State.markReset
  split
  · refine Keeps.ite ?_ ?_
    · apply State.markFailed_keeps
      exact hk
    · exact hk
  · exact hk

theorem execFunctionLevelReset_keeps (s : State) : ∃ u, execFunctionLevelReset s = .next u ∧ Keeps s u := by
  unfold execFunctionLevelReset
  refine ⟨_, rfl, Keeps.ite (Keeps.refl s) (Keeps.ite (State.cross_keeps (Keeps.refl s)) ?_)⟩
  extract_lets r t e v h w2 w3 w4 u x y w6 z
  have h1 : Keeps s t := Keeps.ite (State.orderAbort_keeps (State.cross_keeps (Keeps.refl s))) (State.cross_keeps (Keeps.refl s))
  clear_value t
  have h2 : Keeps s v := State.markReset_keeps (State.endSweep_keeps h1)
  clear_value v
  have hu : Keeps s u := h2.trans ⟨rfl, le_rfl, id,
    fun b => ⟨b.1, b.2.1, b.2.2.1, b.2.2.2.1, swf_foldl _ _ (fun _ _ k => swf_sset _ _ k) rfl, b.2.2.2.2.2⟩, fun _ h => h, le_rfl,
    List.prefix_rfl, le_rfl⟩
  clear_value u
  have hy : Keeps s y := State.setField_keeps (Keeps.foldl _ hu fun x a k => State.setReg_keeps k)
  clear_value y
  refine Keeps.ite hy ?_
  have hz : Keeps s z := State.putBit_keeps (hy.upd rfl rfl rfl rfl rfl)
  exact Keeps.ite (State.doRelease_keeps hz) hz


/-! ### Admit -/

theorem State.refuseImage_keeps {s0 s : State} {f : Found} (hk : Keeps s0 s) : Keeps s0 (s.refuseImage f) := by
  unfold State.refuseImage
  split
  extract_lets y1 y2
  have hy1 : Keeps s0 y1 := by
    subst y1
    apply State.setField_keeps
    refine Keeps.ofEq (by assumption) ?_
    split
    · dsimp only
      exact hk
    · split
      dsimp only
      refine Keeps.ofEq (by assumption) ?_
      apply State.fresh_keeps
      exact hk
  clear_value y1
  have hy2 : Keeps s0 y2 := by
    subst y2
    apply State.setReg_keeps
    apply State.setReg_keeps
    exact hy1
  clear_value y2
  apply State.groomEvent_keeps
  exact hy2

theorem execCfgLoad_keeps (v : Word) (image : Image) (s : State) : ∃ u, execCfgLoad v image s = .next u ∧ Keeps s u := by
  unfold execCfgLoad
  refine ⟨_, rfl, ?_⟩
  have hk : Keeps s s := Keeps.refl s
  extract_lets y1 y2 y3
  have hy1 : Keeps s y1 := by
    subst y1
    apply State.putBit_keeps
    exact hk
  clear_value y1
  refine Keeps.ite ?_ ?_
  · exact hk
  · refine Keeps.ite ?_ ?_
    · apply State.setBit_keeps
      exact hk
    · split
      split
      · apply State.refuseImage_keeps
        refine Keeps.ofEq (by assumption) ?_
        apply State.stagedBytes_keeps
        exact hy1
      · apply State.admitImage_keeps
        refine Keeps.ofEq (by assumption) ?_
        apply State.stagedBytes_keeps
        exact hy1


/-! ### Boot -/

theorem State.lost_keeps {s0 s : State} {mode : Mode} (hk : Keeps s0 s) : Keeps s0 (s.lost mode) := by
  unfold State.lost
  refine State.setField_keeps (hk.trans ⟨rfl, ?_, fun k => ⟨rfl, rfl, k.2.2.1, rfl, rfl⟩, fun b => ⟨?_, rfl, rfl, ?_, rfl, rfl⟩,
    fun _ h => h, le_rfl, List.prefix_rfl, le_rfl⟩)
  · show s.cyc ≤ (s.cyc + 3670015) / 3670016 * 3670016
    omega
  · exact swf_foldl _ _ (fun _ _ h => swf_sset _ _ h) rfl
  · exact swf_foldl _ _ (fun _ _ h => swf_sset _ _ h) rfl

theorem State.passToken_keeps {s0 s : State} (hk : Keeps s0 s) : Keeps s0 (s.passToken) := by
  unfold State.passToken
  extract_lets y1 y2 y3 y4 y5 y6
  have hy1 : Keeps s0 y1 := by
    subst y1
    apply State.groomEvent_keeps
    exact hk
  clear_value y1
  have hy2 : Keeps s0 y4 := by
    subst y4
    refine Keeps.upd ?_ rfl rfl rfl rfl rfl
    exact hy1
  clear_value y4
  have hy3 : Keeps s0 y6 := by
    subst y6
    refine Keeps.ite ?_ ?_
    · refine Keeps.upd ?_ rfl rfl rfl rfl rfl
      exact hy2
    · exact hy2
  clear_value y6
  refine Keeps.ite ?_ ?_
  · exact hk
  · apply State.doorbell_keeps
    exact hy3

theorem State.splitAuthority_keeps {s0 s : State} {token : BitVec 2} (hk : Keeps s0 s) : Keeps s0 (s.splitAuthority token) := by
  unfold State.splitAuthority
  extract_lets y1 y2 y3
  have hy1 : Keeps s0 y1 := by
    subst y1
    apply State.groomEvent_keeps
    exact hk
  clear_value y1
  have hy2 : Keeps s0 y3 := by
    subst y3
    refine Keeps.upd ?_ rfl rfl rfl rfl rfl
    exact hy1
  clear_value y3
  refine Keeps.ite ?_ ?_
  · exact hk
  · refine Keeps.ite ?_ ?_
    · exact hy2
    · apply State.enterFault_keeps
      exact hy2

theorem execGlbAuthRelease_keeps (v : Word) (s : State) : ∃ u, execGlbAuthRelease v s = .next u ∧ Keeps s u := by
  unfold execGlbAuthRelease
  refine ⟨_, rfl, ?_⟩
  have hk : Keeps s s := Keeps.refl s
  refine Keeps.ite ?_ ?_
  · apply State.passToken_keeps
    exact hk
  · exact hk

theorem execTokenInconsistent_keeps (token : BitVec 2) (s : State) : ∃ u, execTokenInconsistent token s = .next u ∧ Keeps s u := by
  unfold execTokenInconsistent
  refine ⟨_, rfl, ?_⟩
  have hk : Keeps s s := Keeps.refl s
  refine Keeps.ite ?_ ?_
  · apply State.splitAuthority_keeps
    exact hk
  · exact hk

theorem State.reportLatch_keeps {s0 s : State} (hk : Keeps s0 s) : Keeps s0 (s.reportLatch) := by
  unfold State.reportLatch
  extract_lets y1
  refine Keeps.ite ?_ ?_
  · exact hk
  · split
    extract_lets y2 y3
    have hy1 : Keeps s0 y2 := by
      subst y2
      apply State.setBit_keeps
      apply State.setField_keeps
      exact hk
    clear_value y2
    refine Keeps.upd ?_ rfl rfl rfl rfl rfl
    exact hy1

/-- A change of the flash that keeps its bytes and does not lower the fuses. -/
theorem Keeps.flash {s0 s : State} {f : Flash} {b : Boot} {h : HostIf} (hk : Keeps s0 s) (hb : s.flash.bytes.wf = true → f.bytes.wf = true)
    (hm : s.flash.minimum ≤ f.minimum) (hr : h.rings = s.host.rings := by rfl) : Keeps s0 { s with flash := f, boot := b, host := h } :=
  hk.trans ⟨rfl, le_rfl, fun k => ⟨k.1, k.2.1, hb k.2.2.1, k.2.2.2⟩, (fun b => ⟨b.1, b.2.1, b.2.2.1, b.2.2.2.1, by rw [hr]; exact b.2.2.2.2.1, b.2.2.2.2.2⟩), fun _ h => h, hm, List.prefix_rfl, le_rfl⟩

theorem State.startGrooms_keeps {s0 s : State} {found : StartFindings} (hk : Keeps s0 s) : Keeps s0 (s.startGrooms found) := by
  unfold State.startGrooms
  split
  · exact hk.upd rfl rfl rfl rfl rfl
  · exact hk.flash id le_rfl

theorem State.reportFallback_keeps {s0 s : State} {found : StartFindings} (hk : Keeps s0 s) : Keeps s0 (s.reportFallback found) := by
  unfold State.reportFallback
  split
  · apply State.groomEvent_keeps
    exact hk
  · exact hk

theorem Flash.ready_bytes (f : Flash) : f.ready.bytes = f.bytes := by
  unfold Flash.ready; split <;> rfl

theorem Flash.ready_minimum (f : Flash) : f.minimum ≤ f.ready.minimum := by
  unfold Flash.ready; split
  · exact le_max_left _ _
  · exact le_rfl

theorem State.startRest_keeps {s0 s : State} {found : StartFindings} (hk : Keeps s0 s) : Keeps s0 (s.startRest found) := by
  unfold State.startRest
  dsimp only
  have h1 : Keeps s0 (s.reportFallback found) := State.reportFallback_keeps hk
  generalize s.reportFallback found = t at h1
  have h2 : Keeps s0 (if found.gw.isNone = true then { t.passToken with boot := { t.passToken.boot with clockGe := true } } else t) :=
    Keeps.ite ((State.passToken_keeps h1).upd rfl rfl rfl rfl rfl) h1
  generalize (if found.gw.isNone = true then { t.passToken with boot := { t.passToken.boot with clockGe := true } } else t) = u at h2
  refine Keeps.ite (State.splitAuthority_keeps ((State.fresh_keeps h2).upd rfl rfl rfl rfl rfl)) ?_
  refine Keeps.flash (State.checkReplace_keeps (State.fence_keeps (Keeps.foldl _ h2 fun x a k =>
    State.event_keeps (State.setStack_keeps k)))) ?_ (Flash.ready_minimum _)
  rw [Flash.ready_bytes]; exact id

theorem State.auxStatus_keeps {s0 s : State} (hk : Keeps s0 s) : Keeps s0 (s.auxStatus) := by
  unfold State.auxStatus
  apply State.putBit_keeps
  apply State.putBit_keeps
  exact hk

theorem State.startUp_keeps {s0 s : State} {cause : Nat} {found : StartFindings} (hk : Keeps s0 s) : Keeps s0 (s.startUp cause found) := by
  unfold State.startUp
  extract_lets y1 y2
  have hy1 : Keeps s0 y2 := by
    subst y2
    apply State.lost_keeps
    exact hk
  clear_value y2
  split
  extract_lets y3 y4 y5 y6
  have hy2 : Keeps s0 y3 := by
    subst y3
    refine Keeps.upd ?_ rfl rfl rfl rfl rfl
    refine Keeps.ofEq (by assumption) ?_
    apply State.fresh_keeps
    exact hy1
  clear_value y3
  have hy3 : Keeps s0 y4 := by
    subst y4
    apply State.setReg_keeps
    exact hy2
  clear_value y4
  have hy4 : Keeps s0 y5 := by
    subst y5
    apply State.startGrooms_keeps
    exact hy3
  clear_value y5
  have hy5 : Keeps s0 y6 := by
    subst y6
    refine Keeps.ite ?_ ?_
    · apply State.reportLatch_keeps
      exact hy4
    · exact hy4
  clear_value y6
  refine Keeps.ite ?_ ?_
  · exact hy4
  · apply State.auxStatus_keeps
    apply State.startRest_keeps
    exact hy5

theorem execPerstN_keeps (found : StartFindings) (s : State) : ∃ u, execPerstN found s = .next u ∧ Keeps s u := by
  unfold execPerstN
  refine ⟨_, rfl, ?_⟩
  have hk : Keeps s s := Keeps.refl s
  refine Keeps.ite ?_ ?_
  · apply State.startUp_keeps
    exact hk
  · exact hk

theorem execGlbResetModule_keeps (v : Word) (found : StartFindings) (s : State) : ∃ u, execGlbResetModule v found s = .next u ∧ Keeps s u := by
  unfold execGlbResetModule
  refine ⟨_, rfl, ?_⟩
  have hk : Keeps s s := Keeps.refl s
  refine Keeps.ite ?_ ?_
  · apply State.startUp_keeps
    exact hk
  · exact hk

theorem execI3cTargetReset_keeps (found : StartFindings) (s : State) : ∃ u, execI3cTargetReset found s = .next u ∧ Keeps s u := by
  unfold execI3cTargetReset
  refine ⟨_, rfl, ?_⟩
  have hk : Keeps s s := Keeps.refl s
  refine Keeps.ite ?_ ?_
  · apply State.startUp_keeps
    exact hk
  · exact hk

theorem execGroomWatchdogExpire_keeps (both : Bool) (found : StartFindings) (s : State) : ∃ u, execGroomWatchdogExpire both found s = .next u ∧ Keeps s u := by
  unfold execGroomWatchdogExpire
  refine ⟨_, rfl, ?_⟩
  have hk : Keeps s s := Keeps.refl s
  extract_lets y1 y2
  have hy1 : Keeps s y1 := by
    subst y1
    apply State.passToken_keeps
    exact hk
  clear_value y1
  refine Keeps.ite ?_ ?_
  · exact hk
  · refine Keeps.ite ?_ ?_
    · apply State.startUp_keeps
      exact hk
    · refine Keeps.upd ?_ rfl rfl rfl rfl rfl
      exact hy1

theorem State.powerUp_keeps {s0 s : State} {found : StartFindings} (hk : Keeps s0 s) : Keeps s0 (s.powerUp found) := by
  unfold State.powerUp
  refine Keeps.ite ?_ ?_
  · exact hk
  · apply State.startUp_keeps
    exact hk

theorem execPwrEnRise_keeps (found : StartFindings) (s : State) : ∃ u, execPwrEnRise found s = .next u ∧ Keeps s u := by
  unfold execPwrEnRise
  refine ⟨_, rfl, ?_⟩
  have hk : Keeps s s := Keeps.refl s
  extract_lets y1 y2
  refine Keeps.ite ?_ ?_
  · exact hk
  · apply State.powerUp_keeps
    refine Keeps.upd ?_ rfl rfl rfl rfl rfl
    exact hk

theorem execPwrEnFall_keeps (s : State) : ∃ u, execPwrEnFall s = .next u ∧ Keeps s u := by
  unfold execPwrEnFall
  refine ⟨_, rfl, ?_⟩
  have hk : Keeps s s := Keeps.refl s
  extract_lets y1 y2
  have hy1 : Keeps s y1 := by
    subst y1
    apply State.lost_keeps
    exact hk
  clear_value y1
  refine Keeps.ite ?_ ?_
  · exact hk
  · refine Keeps.upd ?_ rfl rfl rfl rfl rfl
    exact hy1

theorem execInputVoltageRise_keeps (mv : Nat) (found : StartFindings) (s : State) : ∃ u, execInputVoltageRise mv found s = .next u ∧ Keeps s u := by
  unfold execInputVoltageRise
  refine ⟨_, rfl, ?_⟩
  have hk : Keeps s s := Keeps.refl s
  extract_lets y1
  refine Keeps.ite ?_ ?_
  · exact hk
  · apply State.powerUp_keeps
    refine Keeps.upd ?_ rfl rfl rfl rfl rfl
    exact hk

theorem State.cut_keeps {s0 s : State} {cause : Nat} (hk : Keeps s0 s) : Keeps s0 (s.cut cause) := by
  unfold State.cut
  extract_lets y1 y2
  have hy1 : Keeps s0 y1 := by
    subst y1
    apply State.lost_keeps
    exact hk
  clear_value y1
  refine Keeps.ite ?_ ?_
  · exact hk
  · refine Keeps.upd ?_ rfl rfl rfl rfl rfl
    exact hy1

theorem execPowerCut_keeps (cause : BitVec 4) (s : State) : ∃ u, execPowerCut cause s = .next u ∧ Keeps s u := by
  unfold execPowerCut
  refine ⟨_, rfl, ?_⟩
  have hk : Keeps s s := Keeps.refl s
  apply State.cut_keeps
  exact hk

theorem execAnalogThermalTrip_keeps (s : State) : ∃ u, execAnalogThermalTrip s = .next u ∧ Keeps s u := by
  unfold execAnalogThermalTrip
  refine ⟨_, rfl, ?_⟩
  have hk : Keeps s s := Keeps.refl s
  apply State.cut_keeps
  exact hk

theorem execClearFaults_keeps (s : State) : ∃ u, execClearFaults s = .next u ∧ Keeps s u := by
  unfold execClearFaults
  refine ⟨_, rfl, ?_⟩
  have hk : Keeps s s := Keeps.refl s
  extract_lets y1 y2
  have hy1 : Keeps s y1 := by
    subst y1
    apply State.cross_keeps
    exact hk
  clear_value y1
  refine Keeps.upd ?_ rfl rfl rfl rfl rfl
  exact hy1


/-! ### Power -/

theorem State.setSensor_keeps {s0 s : State} {i : Nat} {v : Sensor} (hk : Keeps s0 s) : Keeps s0 (s.setSensor i v) := by
  unfold State.setSensor
  extract_lets y1
  refine Keeps.upd ?_ rfl rfl rfl rfl rfl
  exact hk

theorem State.endRun_keeps {s0 s : State} {code : Nat} (hk : Keeps s0 s) : Keeps s0 (s.endRun code) := by
  unfold State.endRun
  extract_lets y1
  split
  · extract_lets y2 y3 y4 y5
    have hy1 : Keeps s0 y3 := by
      subst y3
      refine Keeps.ite ?_ ?_
      · apply State.markFailed_keeps
        exact hk
      · exact hk
    clear_value y3
    have hy2 : Keeps s0 y5 := by
      subst y5
      refine Keeps.upd ?_ rfl rfl rfl rfl rfl
      exact hy1
    clear_value y5
    refine Keeps.ite ?_ ?_
    · exact hk
    · apply State.completeRun_keeps
      apply State.setHead_keeps
      exact hy2
  · exact hk

theorem State.finishAbort_keeps {s0 s : State} (hk : Keeps s0 s) : Keeps s0 (s.finishAbort) := by
  unfold State.finishAbort
  split
  · apply State.abortShot_keeps
    apply State.at__keeps
    exact hk
  · exact hk

theorem State.cutPasses_keeps {s0 s : State} (hk : Keeps s0 s) : Keeps s0 (s.cutPasses) := by
  unfold State.cutPasses
  extract_lets y1 y2
  have hy1 : Keeps s0 y1 := by
    subst y1
    apply State.setField_keeps
    exact hk
  clear_value y1
  refine Keeps.ite ?_ ?_
  · exact hk
  · apply State.diverge_keeps
    refine Keeps.upd ?_ rfl rfl rfl rfl rfl
    exact hy1

theorem State.stopClocks_keeps {s0 s : State} (hk : Keeps s0 s) : Keeps s0 (s.stopClocks) := by
  unfold State.stopClocks
  extract_lets y1 y2 y3 y4
  have hy1 : Keeps s0 y1 := by
    subst y1
    refine Keeps.ite ?_ ?_
    · apply State.finishAbort_keeps
      apply State.orderAbort_keeps
      apply State.failShot_keeps
      exact hk
    · exact hk
  clear_value y1
  have hy2 : Keeps s0 y2 := by
    subst y2
    apply State.cutPasses_keeps
    apply State.endRun_keeps
    exact hy1
  clear_value y2
  refine Keeps.upd ?_ rfl rfl rfl rfl rfl
  exact hy2

theorem State.judgeWarm_keeps {s0 s : State} (hk : Keeps s0 s) : Keeps s0 (s.judgeWarm) := by
  unfold State.judgeWarm
  extract_lets y1 y2 y3 y4 y5 y6
  have hy1 : Keeps s0 y2 := by
    subst y2
    apply State.putBit_keeps
    apply State.setBit_keeps
    apply State.groomEvent_keeps
    exact hk
  clear_value y2
  have hy2 : Keeps s0 y4 := by
    subst y4
    refine Keeps.upd ?_ rfl rfl rfl rfl rfl
    exact hy1
  clear_value y4
  have hy3 : Keeps s0 y5 := by
    subst y5
    apply State.putBit_keeps
    apply State.putBit_keeps
    exact hk
  clear_value y5
  refine Keeps.ite ?_ ?_
  · apply State.emit_keeps
    apply State.doorbell_keeps
    exact hy2
  · refine Keeps.ite ?_ ?_
    · apply State.emit_keeps
      refine Keeps.upd ?_ rfl rfl rfl rfl rfl
      exact hy3
    · exact hk

theorem State.judgeHot_keeps {s0 s : State} (hk : Keeps s0 s) : Keeps s0 (s.judgeHot) := by
  unfold State.judgeHot
  extract_lets y1 y2
  have hy1 : Keeps s0 y1 := by
    subst y1
    apply State.emit_keeps
    apply State.setBit_keeps
    apply State.groomEvent_keeps
    exact hk
  clear_value y1
  refine Keeps.ite ?_ ?_
  · exact hk
  · apply State.stopClocks_keeps
    refine Keeps.upd ?_ rfl rfl rfl rfl rfl
    exact hy1

theorem State.readInput_keeps {s0 s : State} (hk : Keeps s0 s) : Keeps s0 (s.readInput) := by
  unfold State.readInput
  extract_lets y1 y2 y3 y4 y5
  have hy1 : Keeps s0 y4 := by
    subst y4
    refine Keeps.ite ?_ ?_
    · apply State.setField_keeps
      refine Keeps.upd ?_ rfl rfl rfl rfl rfl
      exact hk
    · exact hk
  clear_value y4
  have hy2 : Keeps s0 y5 := by
    subst y5
    refine Keeps.ite ?_ ?_
    · apply State.setField_keeps
      exact hy1
    · exact hy1
  clear_value y5
  apply State.putBit_keeps
  exact hy2

theorem execSensorSample_keeps (readings : List (Nat × Option Int)) (s : State) : ∃ u, execSensorSample readings s = .next u ∧ Keeps s u := by
  unfold execSensorSample
  refine ⟨_, rfl, ?_⟩
  have hk : Keeps s s := Keeps.refl s
  extract_lets y1 y2
  have hy1 : Keeps s y1 := by
    subst y1
    apply State.cross_keeps
    exact hk
  clear_value y1
  have hy2 : Keeps s y2 := by
    subst y2
    refine Keeps.foldl _ ?_ (fun a1 b1 k1 => ?_)
    · exact hy1
    · apply State.setSensor_keeps
      exact k1
  clear_value y2
  refine Keeps.ite ?_ ?_
  · exact hk
  · apply State.judgeHot_keeps
    apply State.judgeWarm_keeps
    apply State.readInput_keeps
    exact hy2

theorem execSensorFault_keeps (index : Nat) (s : State) : ∃ u, execSensorFault index s = .next u ∧ Keeps s u := by
  unfold execSensorFault
  refine ⟨_, rfl, ?_⟩
  have hk : Keeps s s := Keeps.refl s
  extract_lets y1 y2
  have hy1 : Keeps s y2 := by
    subst y2
    apply State.setSensor_keeps
    exact hk
  clear_value y2
  refine Keeps.ite ?_ ?_
  · exact hk
  · apply State.judgeWarm_keeps
    apply State.putBit_keeps
    apply State.setBit_keeps
    apply State.groomEvent_keeps
    exact hy1

theorem execPwrCtrlResume_keeps (v : Word) (s : State) : ∃ u, execPwrCtrlResume v s = .next u ∧ Keeps s u := by
  unfold execPwrCtrlResume
  refine ⟨_, rfl, ?_⟩
  have hk : Keeps s s := Keeps.refl s
  extract_lets y1 y2 y3 y4 y5 y6 y7 y8
  have hy1 : Keeps s y1 := by
    subst y1
    apply State.putBit_keeps
    exact hk
  clear_value y1
  have hy2 : Keeps s y7 := by
    subst y7
    refine Keeps.upd ?_ rfl rfl rfl rfl rfl
    exact hy1
  clear_value y7
  have hy3 : Keeps s y8 := by
    subst y8
    apply State.emit_keeps
    exact hy2
  clear_value y8
  refine Keeps.ite ?_ ?_
  · exact hk
  · refine Keeps.ite ?_ ?_
    · apply State.putBit_keeps
      exact hk
    · refine Keeps.foldl _ ?_ (fun a1 b1 k1 => ?_)
      · exact hy3
      · apply State.serveBar2_keeps
        exact k1

theorem execInputVoltageExcursion_keeps (mv : Nat) (s : State) : ∃ u, execInputVoltageExcursion mv s = .next u ∧ Keeps s u := by
  unfold execInputVoltageExcursion
  refine ⟨_, rfl, ?_⟩
  have hk : Keeps s s := Keeps.refl s
  extract_lets y1 y2 y3 y4 y5
  have hy1 : Keeps s y2 := by
    subst y2
    apply State.setField_keeps
    refine Keeps.upd ?_ rfl rfl rfl rfl rfl
    exact hk
  clear_value y2
  have hy2 : Keeps s y3 := by
    subst y3
    apply State.putBit_keeps
    exact hy1
  clear_value y3
  have hy3 : Keeps s y4 := by
    subst y4
    apply State.setBit_keeps
    apply State.groomEvent_keeps
    exact hy2
  clear_value y4
  refine Keeps.ite ?_ ?_
  · exact hk
  · refine Keeps.ite ?_ ?_
    · exact hy2
    · refine Keeps.upd ?_ rfl rfl rfl rfl rfl
      exact hy3

theorem State.excursion_keeps {s0 s : State} (hk : Keeps s0 s) : Keeps s0 (s.excursion) := by
  unfold State.excursion
  extract_lets y1 y2 y3
  have hy1 : Keeps s0 y1 := by
    subst y1
    apply State.setBit_keeps
    apply State.failEvent_keeps
    exact hk
  clear_value y1
  have hy2 : Keeps s0 y2 := by
    subst y2
    apply State.putBit_keeps
    apply State.bump_keeps
    exact hy1
  clear_value y2
  refine Keeps.upd ?_ rfl rfl rfl rfl rfl
  exact hy2

theorem State.coolDown_keeps {s0 s : State} {budget : Nat} (hk : Keeps s0 s) : Keeps s0 (s.coolDown budget) := by
  unfold State.coolDown
  extract_lets y1 y2
  refine Keeps.ite ?_ ?_
  · apply State.putBit_keeps
    refine Keeps.upd ?_ rfl rfl rfl rfl rfl
    exact hk
  · exact hk

theorem execEnergyInterval_keeps (nj : Nat) (s : State) : ∃ u, execEnergyInterval nj s = .next u ∧ Keeps s u := by
  unfold execEnergyInterval
  refine ⟨_, rfl, ?_⟩
  have hk : Keeps s s := Keeps.refl s
  extract_lets y1 y2 y3 y4 y5 y6 y7 y8 y9
  have hy1 : Keeps s y5 := by
    subst y5
    apply State.setField_keeps
    apply State.setField_keeps
    exact hk
  clear_value y5
  have hy2 : Keeps s y8 := by
    subst y8
    refine Keeps.upd ?_ rfl rfl rfl rfl rfl
    exact hy1
  clear_value y8
  have hy3 : Keeps s y9 := by
    subst y9
    apply State.setField_keeps
    exact hy2
  clear_value y9
  refine Keeps.ite ?_ ?_
  · exact hk
  · refine Keeps.ite ?_ ?_
    · apply State.excursion_keeps
      exact hy3
    · apply State.coolDown_keeps
      exact hy3

theorem execPwrCtrlPeakClear_keeps (v : Word) (s : State) : ∃ u, execPwrCtrlPeakClear v s = .next u ∧ Keeps s u := by
  unfold execPwrCtrlPeakClear
  refine ⟨_, rfl, ?_⟩
  have hk : Keeps s s := Keeps.refl s
  refine Keeps.ite ?_ ?_
  · apply State.setField_keeps
    exact hk
  · exact hk

theorem execCablePresentChange_keeps (p : PortId) (present : Bool) (s : State) : ∃ u, execCablePresentChange p present s = .next u ∧ Keeps s u := by
  unfold execCablePresentChange
  refine ⟨_, rfl, ?_⟩
  have hk : Keeps s s := Keeps.refl s
  extract_lets y1 y2
  have hy1 : Keeps s y2 := by
    subst y2
    apply State.setPort_keeps
    exact hk
  clear_value y2
  refine Keeps.ite ?_ ?_
  · apply State.emit_keeps
    exact hy1
  · exact hy1

theorem execPldmRequest_keeps (type : BitVec 8) (sensor : Nat) (s : State) : ∃ u, execPldmRequest type sensor s = .next u ∧ Keeps s u := by
  unfold execPldmRequest
  refine ⟨_, rfl, ?_⟩
  have hk : Keeps s s := Keeps.refl s
  refine Keeps.ite ?_ ?_
  · exact hk
  · refine Keeps.ite ?_ ?_
    · apply State.emit_keeps
      exact hk
    · refine Keeps.ite ?_ ?_
      · apply State.emit_keeps
        exact hk
      · exact hk

theorem execDynamicAddressAssignment_keeps (addr : BitVec 7) (s : State) : ∃ u, execDynamicAddressAssignment addr s = .next u ∧ Keeps s u := by
  unfold execDynamicAddressAssignment
  refine ⟨_, rfl, ?_⟩
  have hk : Keeps s s := Keeps.refl s
  extract_lets y1 y2
  have hy1 : Keeps s y1 := by
    subst y1
    apply State.cross_keeps
    exact hk
  clear_value y1
  refine Keeps.ite ?_ ?_
  · exact hk
  · refine Keeps.upd ?_ rfl rfl rfl rfl rfl
    exact hy1


/-! ### Secure -/

theorem State.setSession_keeps {s0 s : State} {t : Transport} {v : Session} (hk : Keeps s0 s) : Keeps s0 (s.setSession t v) := by
  unfold State.setSession
  extract_lets y1
  split
  · refine Keeps.upd ?_ rfl rfl rfl rfl rfl
    exact hk
  · refine Keeps.upd ?_ rfl rfl rfl rfl rfl
    exact hk

theorem State.spdmError_keeps {s0 s : State} {t : Transport} {code : Nat} (hk : Keeps s0 s) : Keeps s0 (s.spdmError t code) := by
  unfold State.spdmError
  apply State.emit_keeps
  exact hk

theorem State.negotiated_keeps {s0 s : State} {t : Transport} {f : State → State} (hk : Keeps s0 s)
    (hf : ∀ u, Keeps s0 u → Keeps s0 (f u)) : Keeps s0 (s.negotiated t f) := by
  unfold State.negotiated
  refine Keeps.ite ?_ ?_
  · exact hk
  · refine Keeps.ite ?_ ?_
    · apply State.spdmError_keeps
      exact hk
    · refine hf _ ?_
      exact hk

theorem State.versionAnswer_keeps {s0 s : State} {t : Transport} (hk : Keeps s0 s) : Keeps s0 (s.versionAnswer t) := by
  unfold State.versionAnswer
  extract_lets y1
  apply State.emit_keeps
  apply State.setSession_keeps
  exact hk

theorem execGetVersion_keeps (t : Transport) (_version : BitVec 8) (s : State) : ∃ u, execGetVersion t _version s = .next u ∧ Keeps s u := by
  unfold execGetVersion
  refine ⟨_, rfl, ?_⟩
  have hk : Keeps s s := Keeps.refl s
  refine Keeps.ite ?_ ?_
  · apply State.versionAnswer_keeps
    exact hk
  · exact hk

theorem execGetCapabilities_keeps (t : Transport) (version : BitVec 8) (s : State) : ∃ u, execGetCapabilities t version s = .next u ∧ Keeps s u := by
  unfold execGetCapabilities
  refine ⟨_, rfl, ?_⟩
  have hk : Keeps s s := Keeps.refl s
  extract_lets y1
  refine Keeps.ite ?_ ?_
  · exact hk
  · refine Keeps.ite ?_ ?_
    · apply State.versionAnswer_keeps
      exact hk
    · refine Keeps.ite ?_ ?_
      · apply State.spdmError_keeps
        exact hk
      · apply State.emit_keeps
        apply State.setSession_keeps
        exact hk

theorem execNegotiateAlgorithms_keeps (t : Transport) (supported : Bool) (s : State) : ∃ u, execNegotiateAlgorithms t supported s = .next u ∧ Keeps s u := by
  unfold execNegotiateAlgorithms
  refine ⟨_, rfl, ?_⟩
  have hk : Keeps s s := Keeps.refl s
  extract_lets y1
  refine Keeps.ite ?_ ?_
  · exact hk
  · refine Keeps.ite ?_ ?_
    · apply State.spdmError_keeps
      exact hk
    · refine Keeps.ite ?_ ?_
      · apply State.spdmError_keeps
        exact hk
      · apply State.emit_keeps
        apply State.setSession_keeps
        exact hk

theorem execGetDigests_keeps (t : Transport) (s : State) : ∃ u, execGetDigests t s = .next u ∧ Keeps s u := by
  unfold execGetDigests
  refine ⟨_, rfl, ?_⟩
  have hk : Keeps s s := Keeps.refl s
  apply State.negotiated_keeps
  · exact hk
  · intro a1 k1
    apply State.emit_keeps
    exact k1

theorem execGetCertificate_keeps (t : Transport) (slot : BitVec 8) (off len : BitVec 16) (s : State) : ∃ u, execGetCertificate t slot off len s = .next u ∧ Keeps s u := by
  unfold execGetCertificate
  refine ⟨_, rfl, ?_⟩
  have hk : Keeps s s := Keeps.refl s
  apply State.negotiated_keeps
  · exact hk
  · intro a1 k1
    refine Keeps.ite ?_ ?_
    · apply State.spdmError_keeps
      exact k1
    · apply State.emit_keeps
      exact k1

theorem execChallenge_keeps (t : Transport) (slot : BitVec 8) (nonce : List Byte) (s : State) : ∃ u, execChallenge t slot nonce s = .next u ∧ Keeps s u := by
  unfold execChallenge
  refine ⟨_, rfl, ?_⟩
  have hk : Keeps s s := Keeps.refl s
  extract_lets y1
  apply State.negotiated_keeps
  · exact hk
  · intro a1 k1
    refine Keeps.ite ?_ ?_
    · apply State.spdmError_keeps
      exact k1
    · apply State.emit_keeps
      exact k1

theorem execGetMeasurements_keeps (t : Transport) (index : BitVec 8) (sign : Bool) (nonce : List Byte) (s : State) : ∃ u, execGetMeasurements t index sign nonce s = .next u ∧ Keeps s u := by
  unfold execGetMeasurements
  refine ⟨_, rfl, ?_⟩
  have hk : Keeps s s := Keeps.refl s
  extract_lets y1 y2
  apply State.negotiated_keeps
  · exact hk
  · intro a1 k1
    extract_lets y3
    refine Keeps.ite ?_ ?_
    · apply State.spdmError_keeps
      exact k1
    · apply State.emit_keeps
      exact k1

theorem execKeyExchange_keeps (t : Transport) (mutual_ : Bool) (exchange : List Byte) (s : State) : ∃ u, execKeyExchange t mutual_ exchange s = .next u ∧ Keeps s u := by
  unfold execKeyExchange
  refine ⟨_, rfl, ?_⟩
  have hk : Keeps s s := Keeps.refl s
  apply State.negotiated_keeps
  · exact hk
  · intro a1 k1
    extract_lets y1 y2 y3 y4 y5 y6
    have hy1 : Keeps s y3 := by
      subst y3
      refine Keeps.upd ?_ rfl rfl rfl rfl rfl
      exact k1
    clear_value y3
    have hy2 : Keeps s y5 := by
      subst y5
      apply State.setSession_keeps
      exact hy1
    clear_value y5
    refine Keeps.ite ?_ ?_
    · apply State.spdmError_keeps
      exact k1
    · apply State.emit_keeps
      exact hy2

theorem execFinish_keeps (t : Transport) (valid : Bool) (keyDigest : List Byte) (s : State) : ∃ u, execFinish t valid keyDigest s = .next u ∧ Keeps s u := by
  unfold execFinish
  refine ⟨_, rfl, ?_⟩
  have hk : Keeps s s := Keeps.refl s
  extract_lets y1
  refine Keeps.ite ?_ ?_
  · exact hk
  · refine Keeps.ite ?_ ?_
    · apply State.spdmError_keeps
      exact hk
    · refine Keeps.ite ?_ ?_
      · apply State.spdmError_keeps
        apply State.setSession_keeps
        exact hk
      · apply State.emit_keeps
        apply State.setSession_keeps
        exact hk

theorem State.inSession_keeps {s0 s : State} {t : Transport} {f : State → State} (hk : Keeps s0 s)
    (hf : ∀ u, Keeps s0 u → Keeps s0 (f u)) : Keeps s0 (s.inSession t f) := by
  unfold State.inSession
  refine Keeps.ite ?_ ?_
  · exact hk
  · refine Keeps.ite ?_ ?_
    · apply State.spdmError_keeps
      exact hk
    · refine hf _ ?_
      exact hk

theorem execHeartbeat_keeps (t : Transport) (s : State) : ∃ u, execHeartbeat t s = .next u ∧ Keeps s u := by
  unfold execHeartbeat
  refine ⟨_, rfl, ?_⟩
  have hk : Keeps s s := Keeps.refl s
  apply State.inSession_keeps
  · exact hk
  · intro a1 k1
    apply State.emit_keeps
    exact k1

theorem execKeyUpdate_keeps (t : Transport) (s : State) : ∃ u, execKeyUpdate t s = .next u ∧ Keeps s u := by
  unfold execKeyUpdate
  refine ⟨_, rfl, ?_⟩
  have hk : Keeps s s := Keeps.refl s
  apply State.inSession_keeps
  · exact hk
  · intro a1 k1
    extract_lets y1
    apply State.emit_keeps
    apply State.setSession_keeps
    exact k1

theorem execEndSession_keeps (t : Transport) (s : State) : ∃ u, execEndSession t s = .next u ∧ Keeps s u := by
  unfold execEndSession
  refine ⟨_, rfl, ?_⟩
  have hk : Keeps s s := Keeps.refl s
  apply State.inSession_keeps
  · exact hk
  · intro a1 k1
    apply State.emit_keeps
    apply State.setSession_keeps
    exact k1

theorem State.vendorAnswer_keeps {s0 s : State} {t : Transport} {code : Nat} {bytes : List Byte} (hk : Keeps s0 s) : Keeps s0 (s.vendorAnswer t code bytes) := by
  unfold State.vendorAnswer
  apply State.emit_keeps
  exact hk

theorem State.secureOp_keeps {s0 s : State} {t : Transport} {op : Nat} {f : State → State × Nat} (hk : Keeps s0 s)
    (hf : ∀ u, Keeps s0 u → Keeps s0 (f u).1) : Keeps s0 (s.secureOp t op f) := by
  unfold State.secureOp
  refine State.inSession_keeps hk fun u k => ?_
  exact Keeps.ite (State.vendorAnswer_keeps k) (State.vendorAnswer_keeps ((hf u k).upd rfl rfl rfl rfl rfl))

theorem State.pollOp_keeps {s0 s : State} {t : Transport} (hk : Keeps s0 s) : Keeps s0 (s.pollOp t) := by
  unfold State.pollOp
  apply State.inSession_keeps
  · exact hk
  · intro a1 k1
    extract_lets y1
    apply State.vendorAnswer_keeps
    refine Keeps.upd ?_ rfl rfl rfl rfl rfl
    exact k1

theorem State.stageFw_keeps {s0 s : State} {off : Nat} {data : List Byte} (hk : Keeps s0 s) : Keeps s0 (s.stageFw off data).1 := by
  unfold State.stageFw
  split
  · exact hk
  · refine Keeps.flash (b := s.boot) (h := s.host) hk (fun k => Memory.wf_write _ _ ?_) le_rfl
    split
    · exact k
    · exact swf_filter _ k

theorem State.activateFw_keeps {s0 s : State} {commit : Bool} {found : Option Nat} (hk : Keeps s0 s) :
    Keeps s0 (s.activateFw commit found).1 := by
  unfold State.activateFw
  dsimp only
  split <;> exact Keeps.flash (b := s.boot) (h := s.host) hk id le_rfl

theorem State.badSlot_keeps {s0 s : State} (hk : Keeps s0 s) : Keeps s0 (s.badSlot).1 := by
  unfold State.badSlot
  split
  dsimp only
  refine Keeps.ofEq (by assumption) ?_
  apply State.fresh_keeps
  exact hk

theorem State.enrollKey_keeps {s0 s : State} {t : Transport} {slot : Nat} {key : List Byte} (hk : Keeps s0 s) :
    Keeps s0 (s.enrollKey t slot key).1 := by
  unfold State.enrollKey
  split
  · exact hk
  · split
    · exact hk
    · split
      · exact State.badSlot_keeps hk
      · exact Keeps.flash (b := s.boot) (h := s.host) hk id le_rfl

theorem State.revokeKey_keeps {s0 s : State} {t : Transport} {slot : Nat} (hk : Keeps s0 s) : Keeps s0 (s.revokeKey t slot).1 := by
  unfold State.revokeKey
  split
  · exact hk
  · split
    · exact State.badSlot_keeps hk
    · exact Keeps.flash (b := s.boot) (h := s.host) hk id le_rfl

theorem State.infoOp_keeps {s0 s : State} {t : Transport} (hk : Keeps s0 s) : Keeps s0 (s.infoOp t) := by
  unfold State.infoOp
  apply State.inSession_keeps
  · exact hk
  · intro a1 k1
    extract_lets y1
    refine Keeps.ite ?_ ?_
    · apply State.vendorAnswer_keeps
      exact k1
    · apply State.vendorAnswer_keeps
      refine Keeps.upd ?_ rfl rfl rfl rfl rfl
      exact k1

theorem execPoll_keeps (t : Transport) (s : State) : ∃ u, execPoll t s = .next u ∧ Keeps s u := by
  unfold execPoll
  refine ⟨_, rfl, ?_⟩
  have hk : Keeps s s := Keeps.refl s
  apply State.pollOp_keeps
  exact hk

theorem execFwStage_keeps (t : Transport) (off : Nat) (data : List Byte) (s : State) : ∃ u, execFwStage t off data s = .next u ∧ Keeps s u := by
  unfold execFwStage
  refine ⟨_, rfl, ?_⟩
  have hk : Keeps s s := Keeps.refl s
  apply State.secureOp_keeps
  · exact hk
  · intro a1 k1
    apply State.stageFw_keeps
    exact k1

theorem execFwActivate_keeps (t : Transport) (commit : Bool) (found : Option Nat) (s : State) : ∃ u, execFwActivate t commit found s = .next u ∧ Keeps s u := by
  unfold execFwActivate
  refine ⟨_, rfl, ?_⟩
  have hk : Keeps s s := Keeps.refl s
  apply State.secureOp_keeps
  · exact hk
  · intro a1 k1
    apply State.activateFw_keeps
    exact k1

theorem execKeyEnroll_keeps (t : Transport) (slot : Nat) (key : List Byte) (s : State) : ∃ u, execKeyEnroll t slot key s = .next u ∧ Keeps s u := by
  unfold execKeyEnroll
  refine ⟨_, rfl, ?_⟩
  have hk : Keeps s s := Keeps.refl s
  apply State.secureOp_keeps
  · exact hk
  · intro a1 k1
    apply State.enrollKey_keeps
    exact k1

theorem execKeyRevoke_keeps (t : Transport) (slot : Nat) (s : State) : ∃ u, execKeyRevoke t slot s = .next u ∧ Keeps s u := by
  unfold execKeyRevoke
  refine ⟨_, rfl, ?_⟩
  have hk : Keeps s s := Keeps.refl s
  apply State.secureOp_keeps
  · exact hk
  · intro a1 k1
    apply State.revokeKey_keeps
    exact k1

theorem execInfo_keeps (t : Transport) (s : State) : ∃ u, execInfo t s = .next u ∧ Keeps s u := by
  unfold execInfo
  refine ⟨_, rfl, ?_⟩
  have hk : Keeps s s := Keeps.refl s
  apply State.infoOp_keeps
  exact hk

theorem State.vendorOp_keeps {s0 s : State} {t : Transport} {p : List Byte} (hk : Keeps s0 s) : Keeps s0 (s.vendorOp t p) := by
  unfold State.vendorOp
  extract_lets y1
  split
  · refine Keeps.ite ?_ ?_
    · apply State.pollOp_keeps
      exact hk
    · apply State.secureOp_keeps
      · exact hk
      · intro a1 k1
        dsimp only
        exact k1
  · refine Keeps.ite ?_ ?_
    · apply State.secureOp_keeps
      · exact hk
      · intro a2 k2
        dsimp only
        exact k2
    · apply State.secureOp_keeps
      · exact hk
      · intro a3 k3
        apply State.stageFw_keeps
        exact k3
  · refine Keeps.ite ?_ ?_
    · apply State.secureOp_keeps
      · exact hk
      · intro a4 k4
        dsimp only
        exact k4
    · apply State.secureOp_keeps
      · exact hk
      · intro a5 k5
        split
        apply State.activateFw_keeps
        refine Keeps.ofEq (by assumption) ?_
        apply State.fresh_keeps
        exact k5
  · refine Keeps.ite ?_ ?_
    · apply State.secureOp_keeps
      · exact hk
      · intro a6 k6
        dsimp only
        exact k6
    · apply State.secureOp_keeps
      · exact hk
      · intro a7 k7
        apply State.enrollKey_keeps
        exact k7
  · refine Keeps.ite ?_ ?_
    · apply State.secureOp_keeps
      · exact hk
      · intro a8 k8
        dsimp only
        exact k8
    · apply State.secureOp_keeps
      · exact hk
      · intro a9 k9
        apply State.revokeKey_keeps
        exact k9
  · refine Keeps.ite ?_ ?_
    · apply State.infoOp_keeps
      exact hk
    · apply State.secureOp_keeps
      · exact hk
      · intro a10 k10
        dsimp only
        exact k10
  · apply State.secureOp_keeps
    · exact hk
    · intro a11 k11
      dsimp only
      exact k11

theorem execVendorDefinedRequest_keeps (t : Transport) (secured : Bool) (payload : VendorRequest) (s : State) : ∃ u, execVendorDefinedRequest t secured payload s = .next u ∧ Keeps s u := by
  unfold execVendorDefinedRequest
  refine ⟨_, rfl, ?_⟩
  have hk : Keeps s s := Keeps.refl s
  refine Keeps.ite ?_ ?_
  · exact hk
  · refine Keeps.ite ?_ ?_
    · apply State.spdmError_keeps
      exact hk
    · refine Keeps.ite ?_ ?_
      · apply State.spdmError_keeps
        exact hk
      · apply State.vendorOp_keeps
        exact hk

theorem execSecureOperationEnd_keeps (s : State) : ∃ u, execSecureOperationEnd s = .next u ∧ Keeps s u := by
  unfold execSecureOperationEnd
  refine ⟨_, rfl, ?_⟩
  have hk : Keeps s s := Keeps.refl s
  extract_lets y1
  split
  · refine Keeps.ite ?_ ?_
    · refine Keeps.upd ?_ rfl rfl rfl rfl rfl
      exact hk
    · exact hk
  · exact hk


/-! ### Registers -/

theorem State.readWord_keeps {s0 s : State} {a : Nat} (hk : Keeps s0 s) : Keeps s0 (s.readWord a) := by
  unfold State.readWord
  refine Keeps.ite hk (State.emit_keeps (Keeps.ite (hk.trans ?_) hk))
  exact ⟨rfl, le_rfl, fun k => ⟨k.1, k.2.1, k.2.2.1, k.2.2.2.1, swf_foldl _ _ (fun _ _ h => swf_sset _ _ h) k.2.2.2.2⟩, id, fun _ h => h, le_rfl,
    List.prefix_rfl, le_rfl⟩

theorem execWideLowRead_keeps (addr : BarRead) (s : State) : ∃ u, execWideLowRead addr s = .next u ∧ Keeps s u := by
  unfold execWideLowRead
  refine ⟨_, rfl, ?_⟩
  have hk : Keeps s s := Keeps.refl s
  refine Keeps.ite ?_ ?_
  · apply State.readWord_keeps
    apply State.readWord_keeps
    exact hk
  · apply State.readWord_keeps
    exact hk

theorem execBar0BadAccess_keeps (addr size : Nat) (write : Bool) (s : State) : ∃ u, execBar0BadAccess addr size write s = .next u ∧ Keeps s u := by
  unfold execBar0BadAccess
  refine ⟨_, rfl, ?_⟩
  have hk : Keeps s s := Keeps.refl s
  extract_lets y1
  have hy1 : Keeps s y1 := by
    subst y1
    apply State.event_keeps
    apply State.setBit_keeps
    exact hk
  clear_value y1
  refine Keeps.ite ?_ ?_
  · exact hk
  · refine Keeps.ite ?_ ?_
    · exact hy1
    · apply State.emit_keeps
      exact hy1

theorem State.writeMsix_keeps {s0 s : State} {a v : Nat} (hk : Keeps s0 s) : Keeps s0 (s.writeMsix a v) := by
  unfold State.writeMsix
  extract_lets y1
  refine Keeps.ite ?_ ?_
  · refine Keeps.ite ?_ ?_
    · refine Keeps.upd ?_ rfl rfl rfl rfl rfl
      exact hk
    · exact hk
  · apply State.setReg_keeps
    exact hk

theorem State.writeRow_keeps {s0 s : State} {r : RegRow} {a v : Nat} (hk : Keeps s0 s) : Keeps s0 (s.writeRow r a v) := by
  unfold State.writeRow
  extract_lets y1
  refine Keeps.ite ?_ ?_
  · exact hk
  · refine Keeps.ite ?_ ?_
    · exact hk
    · refine Keeps.ite ?_ ?_
      · apply State.onStall_keeps
        exact hk
      · apply State.writeReg_keeps
        exact hk

theorem State.writeWord_keeps {s0 s : State} {a v : Nat} (hk : Keeps s0 s) : Keeps s0 (s.writeWord a v) := by
  unfold State.writeWord
  refine Keeps.ite ?_ ?_
  · exact hk
  · refine Keeps.ite ?_ ?_
    · apply State.writeMsix_keeps
      exact hk
    · split
      · apply State.writeRow_keeps
        exact hk
      · exact hk

theorem execRegisterWrite_keeps (addr : Nat) (v : BarValue) (s : State) : ∃ u, execRegisterWrite addr v s = .next u ∧ Keeps s u := by
  unfold execRegisterWrite
  refine ⟨_, rfl, ?_⟩
  have hk : Keeps s s := Keeps.refl s
  split
  · apply State.writeWord_keeps
    apply State.writeWord_keeps
    exact hk
  · apply State.writeWord_keeps
    exact hk

end Sys2Proof.Machine
end

