-- ==== Sys2Proof/Tests/Slice0.lean ====
section
/-!
SUPPORT. Tests: ill-formed commands that WellFormed refuses; for every statement with hypotheses a state and operands that meet them,
clause by clause; small tests of one command each, with values taken from the spec.
-/
open Sys2Proof Sys2Proof.Machine Sys2Proof.Safety

namespace Sys2Proof.Tests

set_option maxRecDepth 8000
set_option Elab.async false

/-! ### Small states -/

/-- A module that has started: READY, its clocks running. -/
def up : State := { State.reset with boot := { Boot.reset with mode := .ready, stage := 7 }, cyc := 10 }

/-- `Issues` as a Boolean. -/
def issuesB (s : State) (i : Nat) (f : Fetched) (c : Nat) : Bool :=
  let st := ((readied s).stall i).withHead
  s.clocked && ((readied s).stall i).seq.ready && decide (st.head = some (f, c)) &&
    (match st.seq.stop with | some x => decide (c < x) | none => true) && decide (f.check ≠ .bad) &&
    decide ((st.runTo c).seq.ref + deltaOf f.word = c) && (st.runTo c).seq.hasPlace c (classOf (opcodeOf f.word)) &&
    decide ((st.runTo c).seq.patch = none)

theorem issues_of {s : State} {i : Nat} {f : Fetched} {c : Nat} (h : issuesB s i f c = true) : Issues s i f c := by
  simp only [issuesB, Bool.and_eq_true, decide_eq_true_eq] at h
  obtain ⟨⟨⟨⟨⟨⟨⟨h1, h2⟩, h3⟩, h4⟩, h5⟩, h6⟩, h7⟩, h8⟩ := h
  refine ⟨h1, h2, h3, ?_, h5, h6, h7, h8⟩
  intro x hx
  rw [hx] at h4
  exact of_decide_eq_true h4

/-- An instruction word with delta 2: opcode and operand bits. -/
def word (op operand : Nat) : Insn := BitVec.ofNat 64 (op * 2 ^ 56 + 2 * 2 ^ 44 + operand)

/-- A word fetched at index n in cycle 0. -/
def at0 (w : Insn) : Fetched := ⟨0, 0, w, .good⟩

/-- A state in which stall 0 is `st` with the word w next. -/
def stallState (st : Stall) (w : Insn) : State :=
  { up with stalls := sset zeroStall up.stalls 0 { st with
      seq := { st.seq with state := .running, queue := [⟨st.seq.course.index, 0, w, .good⟩] } } }

/-- The word is the next of stall 0 and issues at cycle 2. -/
def Next (st : Stall) (w : Insn) : Prop := issuesB (stallState st w) 0 ⟨st.seq.course.index, 0, w, .good⟩ 2 = true

/-- The stall as its instruction finds it. -/
def found (st : Stall) (w : Insn) : Stall := atIssue (stallState st w) 0 (opcodeOf w) 2

/-- A stall at a course. -/
def onCourse (c : Course) : Stall := { Stall.reset with seq := { Seq.reset with course := c } }


/-! ### Hypotheses of the statements about stall instructions -/

theorem witness_ControlFlowSteps_course :
    let nop := word 0x00 0
    let jump := word 0x03 (7 * 2 ^ 31)
    let loop := word 0x04 (1 * 2 ^ 31 + 2 ^ 15)
    let call := word 0x05 (9 * 2 ^ 31)
    let ret := word 0x06 0
    let l : Loop := ⟨0, 0, 1, 0⟩
    (Next .reset nop ∧ opcodeOf nop = 0x00 ∧ bitsOf nop 43 0 = 0 ∧ (found .reset nop).seq.course.loops = []) ∧
    (Next (onCourse ⟨0, [l], []⟩) nop ∧ (found (onCourse ⟨0, [l], []⟩) nop).seq.course = ⟨0, [l], []⟩) ∧
    (Next .reset jump ∧ opcodeOf jump = 0x03 ∧ bitsOf jump 30 0 = 0 ∧ (found .reset jump).seq.course.allows jump = true) ∧
    (Next .reset loop ∧ opcodeOf loop = 0x04 ∧ bitsOf loop 14 0 = 0 ∧ 0 < bitsOf loop 43 31 ∧
      (found .reset loop).seq.course.allows loop = true) ∧
    (Next (onCourse ⟨0, [], [1, 2, 3]⟩) call ∧ opcodeOf call = 0x05 ∧ bitsOf call 30 0 = 0 ∧
      (found (onCourse ⟨0, [], [1, 2, 3]⟩) call).seq.course.rets.length < 4) ∧
    (Next (onCourse ⟨0, [], [5]⟩) ret ∧ opcodeOf ret = 0x06 ∧ bitsOf ret 43 0 = 0 ∧
      (found (onCourse ⟨0, [], [5]⟩) ret).seq.course.rets = [5]) := by
  unfold Next; decide +kernel

theorem witness_ControlFlowSteps_cycle :
    let wait := word 0x02 (2 ^ 32 - 1)
    let fin := word 0x01 0
    let subst := word 0x07 (2 * 2 ^ 36 + 40 * 2 ^ 30)
    (Next .reset wait ∧ opcodeOf wait = 0x02 ∧ bitsOf wait 43 32 = 0 ∧ bitsOf wait 31 0 ≠ 0) ∧
    (Next .reset fin ∧ opcodeOf fin = 0x01 ∧ bitsOf fin 43 0 = 0) ∧
    (Next .reset subst ∧ opcodeOf subst = 0x07 ∧ bitsOf subst 29 0 = 0 ∧ bitsOf subst 37 36 < 3 ∧
      bitsOf subst 35 30 + (match bitsOf subst 37 36 with | 0 => 3 | 1 => 2 | _ => 4) ≤ 44) := by
  unfold Next; decide +kernel

theorem witness_ContextSaveRestore :
    let save := word 0x08 (65535 * 2 ^ 28)
    let restore := word 0x09 0
    (Next .reset save ∧ opcodeOf save = 0x08 ∧ bitsOf save 27 0 = 0 ∧ (found .reset save).ctxBusy 2 = false ∧
      (found .reset save).wholeBusy = false) ∧
    (Next .reset restore ∧ opcodeOf restore = 0x09 ∧ bitsOf restore 27 0 = 0 ∧ (found .reset restore).ctxBusy 2 = false ∧
      (found .reset restore).wholeBusy = false) := by
  unfold Next; decide +kernel

/-- An image with nothing in it, whose fabric is a module alone. -/
def image0 : Image :=
  ⟨0, [], [], [], [], [], [], [], [], [], [], none, none, none, Fabric.alone, [], ⟨0, 0, 0, []⟩, false, []⟩

/-- A plan with nothing in it. -/
def plan0 : Plan := ⟨0, 0, [], [], [], [], [], [], [], [], [], [], [], [], [], false⟩

/-- Stall 0 carries logical stall 0 in a shot of a plan with one barrier entry. -/
def barState (b : Barrier) (w : Insn) : State :=
  let s := stallState { Stall.reset with logical := some 0 } w
  { s with
    boot := { s.boot with mode := .run, image := some { image0 with plans := [{ plan0 with bars := [b] }] } }
    shot := { s.shot with begun := true, plan := some 0 } }

theorem witness_BarrierArrival :
    let b : Barrier := ⟨3, false, [0], [50], false⟩
    let w := word 0x10 (3 * 2 ^ 36)
    let u := atIssue (barState b w) 0 (opcodeOf w) 2
    issuesB (barState b w) 0 (at0 w) 2 = true ∧ opcodeOf w = 0x10 ∧ bitsOf w 35 0 = 0 ∧
      ((barState b w).env 0).bars.find? (fun b => b.id = bitsOf w 43 36) = some b ∧ u.logical = some 0 ∧ 0 ∈ b.members ∧
      sget zeroNat u.seq.arrived (bitsOf w 43 36) < b.releases.length := by
  decide +kernel

theorem witness_OpePathIssue_passes :
    let acc := word 0x20 (3 * 2 ^ 39 + 65535 * 2 ^ 17)
    let warm := word 0x27 (1023 * 2 ^ 33)
    let ld := word 0x21 (7 * 2 ^ 41)
    let shape := word 0x26 (3 * 2 ^ 42 + 2 ^ 41)
    let o := (found .reset acc).ope
    (Next .reset acc ∧ opcodeOf acc = 0x20 ∧ bitsOf acc 15 0 = 0 ∧ bitsOf acc 32 17 ≠ 0 ∧ tileValid o.shape o.fp (bitsOf acc 43 39) = true ∧
      descIllegal (o.desc (bitsOf acc 38 36)).active = false ∧ descIllegal (o.desc (bitsOf acc 35 33)).active = false ∧
      (found .reset acc).wholeBusy = false ∧ (found .reset acc).crestBars 2 = false ∧ o.move = none ∧ o.castEnd ≤ 2) ∧
    (Next .reset warm ∧ opcodeOf warm = 0x27 ∧ bitsOf warm 29 0 = 0 ∧ (found .reset warm).wholeBusy = false ∧
      (found .reset warm).ope.castEnd ≤ 2 + 7) ∧
    (Next .reset ld ∧ opcodeOf ld = 0x21 ∧ bitsOf ld 22 0 = 0 ∧ (found .reset ld).wholeBusy = false ∧
      (found .reset ld).crestBars 2 = false) ∧
    (Next .reset shape ∧ opcodeOf shape = 0x26 ∧ bitsOf shape 39 0 = 0 ∧
      (bitsOf shape 41 41 = 1 → bitsOf shape 43 42 = 3 ∧ bitsOf shape 40 40 = 0) ∧ (found .reset shape).moveBusy 2 = false ∧
      (found .reset shape).ope.flights = []) := by
  unfold Next; decide +kernel

theorem witness_OpePathIssue_moves :
    let preload := word 0x22 (3 * 2 ^ 39 + 128 * 2 ^ 31)
    let drain := word 0x23 (3 * 2 ^ 39 + 5 * 2 ^ 36)
    let save := word 0x24 (0x38000 * 2 ^ 26)
    let restore := word 0x25 0
    let o := (found .reset preload).ope
    (Next .reset preload ∧ (found .reset preload).moveBusy 2 = false ∧ opcodeOf preload = 0x22 ∧ tileValid o.shape o.fp (bitsOf preload 43 39) = true ∧ bitsOf preload 30 28 ≠ 7 ∧
      (bitsOf preload 30 28 = 0 → o.fp = false) ∧ bitsOf preload 27 26 ≠ 3 ∧ (bitsOf preload 30 28 = 0 → bitsOf preload 25 8 % 4 = 0)) ∧
    (Next .reset drain ∧ (found .reset drain).moveBusy 2 = false ∧ opcodeOf drain = 0x23 ∧ tileValid o.shape o.fp (bitsOf drain 43 39) = true ∧ bitsOf drain 38 36 ≤ 5 ∧
      (bitsOf drain 38 36 = 0 → o.fp = false) ∧ (found .reset drain).ope.casting [3] 2 = false) ∧
    (Next .reset save ∧ (found .reset save).moveBusy 2 = false ∧ opcodeOf save = 0x24 ∧ wholeLegal (found .reset save) save = true ∧ (found .reset save).ctxBusy 2 = false ∧
      (found .reset save).ope.casting [0, 1, 2, 3] 2 = false) ∧
    (Next .reset restore ∧ (found .reset restore).moveBusy 2 = false ∧ opcodeOf restore = 0x25 ∧ wholeLegal (found .reset restore) restore = true ∧ (found .reset restore).ctxBusy 2 = false) := by
  unfold Next; decide +kernel

/-- A stall whose function slot 0 is ready. -/
def slotted : Stall := { Stall.reset with vec := { Vec.reset with valid := [0] } }

/-- The hypotheses of a VEC instruction: it issues, its shape is legal, its addresses are aligned. -/
def vecNext (w : Insn) (sh : Option VecShape) : Bool :=
  match sh with
  | some sh => issuesB (stallState slotted w) 0 (at0 w) 2 && (found slotted w).vec.aligned (sh.reads ++ sh.writes) &&
      !(found slotted w).crestBars 2
  | none => false

theorem witness_VecTakesInstructions :
    (vecNext (word 0x30 0) (shapeOp (word 0x30 0)) && vecNext (word 0x31 0) (shapeCvt (word 0x31 0)) &&
      vecNext (word 0x32 0) (shapeFunc (word 0x32 0)) && (found slotted (word 0x32 0)).vec.slotReady 0 &&
      vecNext (word 0x33 0) (shapeDfunc (word 0x33 0)) && vecNext (word 0x34 0) (shapeMaskf (word 0x34 0)) &&
      vecNext (word 0x35 0) (shapeMaskb (word 0x35 0)) && vecNext (word 0x36 0) (shapeDrop (word 0x36 0)) &&
      vecNext (word 0x37 0) (shapeLadd (word 0x37 0)) && vecNext (word 0x38 0) (shapePack (word 0x38 0)) &&
      vecNext (word 0x39 0) (shapeUnpack (word 0x39 0)) && vecNext (word 0x3A 0) (shapeCadd (word 0x3A 0)) &&
      vecNext (word 0x3B 0) (shapeHist (word 0x3B 0))) = true := by decide +kernel

theorem witness_VecStoresAndRegisters :
    let seta := word 0x3D 0
    let setk := word 0x3E 0
    let setr := word 0x3F (2 ^ 40 - 1)
    vecNext (word 0x3C 0) (shapeHstore (word 0x3C 0)) = true ∧
    (Next .reset seta ∧ opcodeOf seta = 0x3D ∧ (found .reset seta).crestBars 2 = false) ∧
    (Next .reset setk ∧ opcodeOf setk = 0x3E ∧ bitsOf setk 40 32 = 0 ∧ (found .reset setk).crestBars 2 = false) ∧
    (Next .reset setr ∧ opcodeOf setr = 0x3F ∧ bitsOf setr 39 0 < 2 ^ setrWidth (bitsOf setr 41 40) ∧
      (found .reset setr).crestBars 2 = false) := by
  unfold Next; decide +kernel

theorem witness_SpdIssue :
    let copy := word 0x40 (65535 * 2 ^ 28 + 255 * 2 ^ 4)
    let fill := word 0x41 (255 * 2 ^ 20)
    let pwr := word 0x42 (2 ^ 43)
    (Next .reset copy ∧ opcodeOf copy = 0x40 ∧ bitsOf copy 3 0 = 0 ∧ (found .reset copy).spd.copy = none) ∧
    (Next .reset fill ∧ opcodeOf fill = 0x41 ∧ bitsOf fill 11 0 = 0 ∧ (found .reset fill).spd.copy = none) ∧
    (Next .reset pwr ∧ opcodeOf pwr = 0x42 ∧ bitsOf pwr 10 0 = 0 ∧ bitsOf pwr 43 12 ≠ 0) := by
  unfold Next; decide +kernel

/-- A stream descriptor that reads one line at module address 0 (R234): bounds 0 and 4,096, program 0. -/
def desc0 : List Byte := leBytes 6 0 ++ leBytes 6 0 ++ leBytes 6 0x1000 ++ zeroBytes 14

/-- EMIT of one line, END (R239). -/
def prog0 : List Nat := [0x30000000, 0x70000000]

/-- Stall 0 carries logical stall 0, whose profile has descriptor 63 and program 0. -/
def strState (st : Stall) (w : Insn) : State :=
  let s := stallState { st with logical := some 0 } w
  { s with boot := { s.boot with mode := .run, image := some { image0 with
      map := [some 0], profiles := [⟨[0], { Profile.empty with descs := [(63, desc0)], progs := [(0, prog0)] }, 0⟩] } } }

/-- A context that streams the one line of `desc0`. -/
def ctx0 : Ctx := { Ctx.reset with state := .active, raw := desc0, prog := prog0, hi := 0x1000, duration := 100, walk := .start 0 }

def streaming : Stall := { Stall.reset with str := { Streams.reset with ctxs := [(0, ctx0)] } }

theorem witness_StreamInstructions :
    let start := word 0x50 (63 * 2 ^ 35)
    let halt := word 0x51 0
    let set := word 0x53 (7 * 2 ^ 41 + 2 ^ 40 + 2 ^ 36 - 1)
    let pony := word 0x52 (4 * 2 ^ 18 + 63 * 2 ^ 12)
    (let u := atIssue (strState .reset start) 0 (opcodeOf start) 2;
      issuesB (strState .reset start) 0 (at0 start) 2 = true ∧ opcodeOf start = 0x50 ∧
      ((strState .reset start).env 0).profile.descs.find? (fun d => d.1 = bitsOf start 40 35) = some (63, desc0) ∧
      bitsOf start 25 0 = 0 ∧ bitsOf start 33 26 = 0 ∧ (u.ctx 0).activeAt 2 = false ∧ u.str.serial = false ∧ u.str.badDescs = [] ∧
      u.str.badProgs = [] ∧ progOk (match ((strState .reset start).env 0).profile.progs.find? (fun p => p.1 = sdProgram desc0) with
        | some p => p.2 | none => []) (sdFmtEn desc0) = true) ∧
    (Next streaming halt ∧ opcodeOf halt = 0x51 ∧ bitsOf halt 40 0 = 0 ∧ ((found streaming halt).ctx 0).activeAt 2 = true) ∧
    (Next .reset set ∧ opcodeOf set = 0x53 ∧ bitsOf set 39 36 = 0) ∧
    (Next .reset pony ∧ opcodeOf pony = 0x52 ∧ bitsOf pony 39 18 % 4 = 0 ∧ (found .reset pony).pony.bad = false ∧
      (found .reset pony).pony.queue.length < 16) := by
  unfold Next; decide +kernel

theorem witness_IllegalWordFallsThrough : ∀ op ∈ [0x0A, 0x11, 0x28, 0x43, 0x54, 0xFF],
    Next .reset (word op 0) ∧ stallOpcode (opcodeOf (word op 0)) = false := by
  unfold Next; decide +kernel

theorem witness_StallFrames : Next .reset (word 0x00 0) := by unfold Next; decide +kernel


/-! ### Hypotheses of the statements about what else happens in a stall, about streams, the pony lane and HBM -/

/-- A state with stall 0 as given. -/
def withStall (st : Stall) : State := { up with stalls := sset zeroStall up.stalls 0 st }

/-- A shot of an empty plan runs, of 100,000 cycles of the time count. -/
def inShot (s : State) : State :=
  ({ s with
    boot := { s.boot with mode := .run, image := some { image0 with plans := [plan0] } }
    shot := { s.shot with begun := true, plan := some 0 } } : State).setReg A.glbShotPeriod 100000

theorem witness_ResidueVerdicts_verdict : ∀ b ∈ [(5 : Nat), 6],
    let d : Verdict := ⟨20, 0, [(3, 5, b, true)]⟩
    let s := inShot (withStall { Stall.reset with ope := { Ope.reset with verdicts := [d] } })
    let w := (s.at_ d.fin).sync 0 (max d.fin (s.stall 0).clk)
    (w.stall 0).ope.verdicts = [d] ∧ Ev.residueMismatch ∉ (w.stall 0).once ∧ w.shot.begun = true ∧ w.shot.margin = false ∧
      w.shot.fail = none ∧ d.fin ≤ w.marginAt := by decide +kernel

theorem witness_LaneSelftest :
    let s := inShot up
    let w := s.sync 0 (max s.cyc (s.stall 0).clk)
    let seen := withStall { Stall.reset with vec := { Vec.reset with err := 2 ^ 31 } }
    let off := withStall { Stall.reset with fenced := true }
    s.clocked = true ∧ (s.stall 0).fenced = false ∧ natBit (w.stall 0).vec.err 31 = false ∧ w.shot.begun = true ∧
      w.shot.margin = false ∧ w.shot.fail = none ∧ s.cyc ≤ w.marginAt ∧
      natBit ((seen.sync 0 (max seen.cyc (seen.stall 0).clk)).stall 0).vec.err 31 = true ∧
      (off.clocked = true ∧ (off.stall 0).fenced = true) ∧ Vec.reset.lastIssue ≠ some 4095 ∧ 127 = (127 * 4096 + 4095) / 4096 % 128 ∧
      127 ≠ (127 * 4096 + 4096) / 4096 % 128 := by decide +kernel

/-- Bank 31 of stall 0 in a power state. -/
def bankState (p : BankPower) : State := withStall { Stall.reset with spd := { Spad.reset with banks := sset bankOn [] 31 p } }

theorem witness_BankPowerCommands_power :
    (let s := bankState (.waiting 9);
      let x := max (s.stallNow 0) (9 + 1)
      let u := (brought s 0 x).stall 0
      s.clocked = true ∧ sget bankOn (s.stall 0).spd.banks 31 = .waiting 9 ∧ sget bankOn u.spd.banks 31 = .waiting 9 ∧ x < 9 + 2048 ∧
        u.bankInFlight x 31 = false) ∧
    (let s := bankState (.waiting 9);
      sget bankOn ((brought s 0 (max (s.stallNow 0) (9 + 2048))).stall 0).spd.banks 31 = .waiting 9) ∧
    (let s := bankState (.waking 73);
      sget bankOn (s.stall 0).spd.banks 31 = .waking 73 ∧
        sget bankOn ((brought s 0 (max (s.stallNow 0) 73)).stall 0).spd.banks 31 = .waking 73) := by
  decide +kernel

/-- The values written to STL_SPD_IADDR: go, and go with write, for line 65,535. -/
def goRead : Word := 0x8000FFFF
def goWrite : Word := 0xC000FFFF

/-- Stall 0 as an indirect access finds it. -/
def indirectFound (s : State) (v : Word) : Stall := ((s.writeReg (stallReg A.stlSpdIaddr 0) v.toNat).sync 0 (s.stallNow 0)).stall 0

theorem witness_BankPowerCommands_access :
    let line := natBits goRead.toNat 15 0
    let off := bankState .down
    (up.awake = true ∧ natBit goRead.toNat 31 = true ∧ natBit goRead.toNat 30 = false ∧ line = 65535 ∧
      (indirectFound up goRead).bankUp (up.stallNow 0) line = true) ∧
    (off.awake = true ∧ (indirectFound off goRead).bankUp (off.stallNow 0) line = false) ∧
    (natBit goWrite.toNat 31 = true ∧ natBit goWrite.toNat 30 = true ∧ up.running = false ∧
      (indirectFound up goWrite).bankUp (up.stallNow 0) line = true ∧ (indirectFound up goWrite).spd.poolUsed 2 < 12 ∧
      (indirectFound up goWrite).spd.gather = []) ∧
    ((inShot up).awake = true ∧ (inShot up).running = true) := by decide +kernel

/-- Stall 0 with an indirect read of line 5 waiting. -/
def readWaits : Stall := { Stall.reset with spd := { Spad.reset with ind := ⟨5, true, false, false, false, zeroBytes 64⟩ } }

theorem witness_BankPowerCommands_sample :
    let s := withStall readWaits
    let held := withStall { readWaits with clk := 10, spd := { readWaits.spd with readPorts := (10, [bankOfLine readWaits.spd.tmap 5]) } }
    let u := (brought s 0 (s.stallNow 0)).stall 0
    let v := (brought held 0 (held.stallNow 0)).stall 0
    s.clocked = true ∧ (s.stall 0).spd.ind.waiting = true ∧ (s.stall 0).spd.ind.write = false ∧
      u.readPortHeld (s.stallNow 0) u.spd.ind.line = false ∧ u.bankUp (s.stallNow 0) u.spd.ind.line = true ∧
      (held.stall 0).spd.ind.waiting = true ∧ v.readPortHeld (held.stallNow 0) v.spd.ind.line = true := by decide +kernel

theorem witness_SampleAndDrain_gather :
    let g (l : Nat) : Gather := ⟨l, 2, List.replicate 63 false ++ [true], zeroBytes 64, 10, 0⟩
    let s (l : List Gather) := withStall { Stall.reset with clk := 10, spd := { Spad.reset with gather := l } }
    let u (l : List Gather) := (brought (s l) 0 10).stall 0
    let first (l : List Gather) (n : Nat) := (u l).spd.gather.find? fun g => g.line = n && g.valid.any id && decide (g.since ≤ 10)
    let busy : Stall := { u [g 65535] with spd := { (u [g 65535]).spd with drains := (10, [(2, (g 65503).places (u []).spd.tmap)]) } }
    (s []).clocked = true ∧ (s [g 65535]).stallNow 0 = 10 ∧ first [g 65535] 65535 = some (g 65535) ∧ (g 65535).valid.length ≤ 64 ∧
      (u [g 65535]).drainable 10 (g 65535) = true ∧ (u [g 65535]).outranked 10 (g 65535) = false ∧ (u [g 65535]).bankUp 10 65535 = true ∧
      busy.drainable 10 (g 65535) = false ∧ first [g 65535, g 65503] 65503 = some (g 65503) ∧
      (u [g 65535, g 65503]).outranked 10 (g 65503) = true := by decide +kernel

theorem witness_PieceIssue :
    let w (s : State) := ((s.aheadTo 0 0 0 (0 + 1 - ((s.stall 0).ctx 0).ahead.t)).sync 0 0).at_ 0
    let u (s : State) (c' : Ctx) :=
      ((w s).stall 0).setCtx 0 { ((w s).stall 0).ctx 0 with walk := c'.walk, posts := c'.posts, iterFin := c'.iterFin }
    let s := withStall streaming
    let c := (s.stall 0).ctx 0
    let b : Piece := ⟨[0], [0]⟩
    (s.clocked = true ∧ c.state = .active ∧ c.endAt = none ∧ c.halted = none ∧ c.lo ≤ 0 ∧ 0 < c.hi) ∧
    (match c.nextPiece ((s.stall 0).ctx (sdPartner c.raw)) with
      | some (c', b', x) =>
        decide (x = 0) && decide (b' = b) && decide ((w s).locate 0 = some (0, 0)) &&
          (u s c').str.room x b.mems.length (sdWrite c.raw) (some (0, pcOf 0))
      | none => false) = true ∧
    (let c1 := { ctx0 with hi := 0 };
      let s1 := inShot (withStall { Stall.reset with str := { Streams.reset with ctxs := [(0, c1)] } })
      (s1.stall 0).ctx 0 = c1 ∧
        (match c1.nextPiece ((s1.stall 0).ctx (sdPartner c1.raw)) with
          | some (c', b', x) =>
            let z := ((w s1).setStall 0 (u s1 c')).sync 0 x
            decide (x = 0) && decide (b' = b) && z.shot.begun && !z.shot.margin && z.shot.fail.isNone && decide (x ≤ z.marginAt)
          | none => false) = true) := by decide +kernel

/-- A piece of context 0 in flight: one line of stack 0 to line 1, landing at cycle 650. -/
def flying (write : Bool) (data : Option (List Byte)) : Flying :=
  ⟨7, 0, 0, 0, 10, 650, write, false, none, ⟨[0], [64]⟩, 0, data, false, 1⟩

def withFlying (f : Flying) : State := withStall { Stall.reset with str := { Streams.reset with flying := [f] } }

/-- Its request on its way to base die 0, for the last line of the stack. -/
def arriving (write : Bool) : Arrival := ⟨298, 10, 0, 7, [2 ^ 36 - 64], write, false⟩

/-- Its request on its way, and the state in which it is served. -/
def arrivalState (write : Bool) (data : Option (List Byte)) : State :=
  (withFlying (flying write data)).setStack 0 { Stack.reset with arrivals := [arriving write] }

def served (write : Bool) (data : Option (List Byte)) : State :=
  (((arrivalState write data).at_ 298).setStack 0 { (arrivalState write data).stack 0 with arrivals := [] }).sync 0 298

theorem witness_BaseDieServes :
    let l := 2 ^ 36 - 64
    (∀ p ∈ [(true, some (zeroBytes 64)), (false, none)],
      (arrivalState p.1 p.2).clocked = true ∧ firstArrival ((arrivalState p.1 p.2).stack 0).arrivals = some (arriving p.1) ∧
        (arriving p.1).lines = [l] ∧
        ((served p.1 p.2).stall 0).str.flying.find? (fun q => q.id = 7) = some (flying p.1 p.2)) ∧
    l % 64 = 0 ∧ l + 64 ≤ 2 ^ 36 ∧ (arrivalState false none).bad = [] ∧ ((arrivalState false none).stack 0).pony = [] := by
  decide +kernel

theorem witness_PieceLands : ∀ d ∈ [some (zeroBytes 64), none],
    let s := inShot (withFlying (flying false d))
    let x := max 650 (s.stall 0).clk
    let w := brought s 0 x
    s.clocked = true ∧ (s.stall 0).str.firstLanding 0 = some (flying false d) ∧ (∀ j < 32, (s.stack j).arrivals = []) ∧
      (w.stall 0).str.flying.find? (fun f => f.id = 7) = some (flying false d) ∧ w.shot.begun = true ∧ w.shot.margin = false ∧
      w.shot.fail = none ∧ x ≤ w.marginAt := by decide +kernel

theorem witness_RunAheadAndDeadlock :
    let c : Ctx := { ctx0 with raw := overlay desc0 26 [1, 0] }
    let later : Ctx := { c with
      prog := [0x10000100, 0x30000000, 0x70000000]
      ahead := { c.ahead with ix := [1, 0, 0, 0, 0, 0], n := 1 }
      walk := { c.walk with opened := true, p := 1 } }
    let s (c : Ctx) := inShot (withStall { Stall.reset with str := { Streams.reset with ctxs := [(0, c)] } })
    let x := min (c.start + 2 * c.duration) (s c).marginAt
    (∀ d ∈ [c, later], (s d).clocked = true ∧ ((s d).stall 0).ctx 0 = d ∧ d.state = .active ∧ d.endAt = none ∧ sdDistance d.raw = 1 ∧
      d.ahead.closed = false ∧ d.halted = none ∧ d.nextAhead (progEmits d.prog + 1) d.ahead = some d.ahead) ∧
    c.ahead.n < 1 ∧ ¬ later.ahead.n < 1 ∧ later.begunEmit (later.ahead.n - 1) = true ∧
    (s c).running = true ∧ c.activeAt x = true ∧ (s c).shot.gone = none ∧ (s c).safe.abort = none := by decide +kernel

/-- A pony transfer of 4 bytes through entry 0 of the destination table, and stall 0 with it at the head of its queue. -/
def pony0 : Pony := ⟨6, 10, 0, 0, 0, 4, zeroBytes 4, none, none, 0, 0, 1⟩

/-- A destination entry: kind, logical stall, base address (R265). -/
def ponyEntry (kind l base : Nat) : List Byte := leBytes 1 kind ++ [0] ++ leBytes 2 l ++ leBytes 6 base ++ zeroBytes 6

def ponyState (e : List Byte) (p : Option PonyDest) : State :=
  let s := withStall { Stall.reset with logical := some 0, pony := { PonyPort.reset with
    queue := if p.isSome then [] else [pony0], flying := if p.isSome then [{ pony0 with dest := p, accepted := some 10, fin := 50 }] else [] } }
  { s with
    safe := { s.safe with map := sset noStall [] 0 0 }
    boot := { s.boot with mode := .run, image := some { image0 with
      map := [some 0], profiles := [⟨[0], { Profile.empty with pony := [e] }, 0⟩]
      regions := [⟨0, 2 ^ 36, 0, 0, 0, 0, true, false, 0, 0⟩] } } }

theorem witness_PonyTransfers_accept :
    let s := ponyState (ponyEntry 1 0 64) none
    let h := ponyState (ponyEntry 2 0 64) none
    let v (s : State) := (s.onStall 0 10 fun t => t.ponyCheck 10 noTack).dropPonies 0 10
    (s.clocked = true ∧ (s.stall 0).pony.queue = [pony0] ∧ max (s.stallNow 0) (max pony0.offer 0) = 10 ∧ (s.stall 0).pony.lastAccept = none ∧
      ((v s).stall 0).pony.queue = [pony0] ∧ (v s).ponyDest 0 pony0 = some (.stall 0 64) ∧
      ((((v s).sync 0 (max 10 ((v s).stall 0).clk)).stall 0).reserve 10 64 pony0.len 12).isSome = true) ∧
    (((v h).stall 0).pony.queue = [pony0] ∧ (v h).ponyDest 0 pony0 = some (.hbm 64) ∧ (v h).ponyParts 64 pony0.len = [(0, 4, 0, 64)] ∧
      ((v h).reserveHbm 32 [(0, 4, 0, 64)]).isSome = true) := by decide +kernel

theorem witness_PonyTransfers_deliver :
    let s := ponyState (ponyEntry 2 0 64) (some (.hbm 64))
    let e : PonyEntry := ⟨2 ^ 31 - 1, List.replicate 31 none ++ [some 5], true, 0⟩
    let k := up.setStack 31 { Stack.reset with pony := [e] }
    ((s.stall 0).pony.first).map (fun p => (p.dest, p.fin)) = some (some (.hbm 64), 50) ∧ s.locate 64 = some (0, 64) ∧
      k.clocked = true ∧ (k.stack 31).pony.find? (fun e => e.bytes.any (·.isSome)) = some e ∧ e.bytes.length = 32 ∧
      e.unit * 32 + 32 ≤ 2 ^ 36 ∧ sget noBad k.bad (unitKey 31 (e.unit * 32)) = ⟨0, []⟩ := by decide +kernel

theorem witness_LoftPromotion :
    let far (m : Memory) : State := { withStall streaming with
      hbm := m
      boot := { up.boot with image := some { image0 with
        regions := [⟨0, 2 ^ 36, 0, 0, 0, 0, true, false, 0, 0⟩], far := some (0, 65536) } } }
    let s (m : Memory) : State := { far m with far := { Far.reset with frames := [.empty], asks := [(⟨0, 0, 0⟩, 9)] } }
    let p : State := { far [] with far := { Far.reset with frames := [⟨9, .promoting, [⟨0, 0, 0⟩], false, false⟩] } }
    (∀ m ∈ [[(145, 1)], []], (s m).loftSettle = s m ∧ (s m).far.asks = [(⟨0, 0, 0⟩, 9)] ∧ (s m).far.frameOf 9 = none ∧
      farLoft ((s m).farEntry 9) = !m.isEmpty) ∧
      (s []).far.frames.findIdx? (fun x => decide (x.state = .free)) = some 0 ∧
      p.loftSettle = p ∧ p.far.frameOf 9 = some 0 ∧ (p.far.frame 0).state = .promoting := by decide +kernel


/-! ### Hypotheses of the statements about yardmasters, tack DMA, shots, halts and fences -/

/-- `YmIssues` as a Boolean. -/
def ymIssuesB (s : State) (b : Nat) (w : Insn) (c : Nat) : Bool :=
  s.clocked && decide ((s.barn b).state = .running) && decide ((s.barn b).index < 2048) &&
    decide ((sget zeroTack (s.barn b).prog (s.barn b).index).read = (w, .good)) && decide ((s.barn b).ref + deltaOf w = c) &&
    (match (s.barn b).stop with | some x => decide (c < x) | none => true) && decide ((s.barn b).sel = none) &&
    decide ((s.barn b).lastIssue ≠ some c)

theorem ymIssues_of {s : State} {b : Nat} {w : Insn} {c : Nat} (h : ymIssuesB s b w c = true) : YmIssues s b w c := by
  simp only [ymIssuesB, Bool.and_eq_true, decide_eq_true_eq] at h
  obtain ⟨⟨⟨⟨⟨⟨⟨h1, h2⟩, h3⟩, h4⟩, h5⟩, h6⟩, h7⟩, h8⟩ := h
  refine ⟨h1, h2, h3, h4, h5, ?_, h7, h8⟩
  intro x hx
  rw [hx] at h6
  exact of_decide_eq_true h6

/-- The program of barn 7 is one word, which is next. -/
def barnState (w : Insn) : State :=
  up.setBarn 7 { Barn.reset with prog := sset zeroTack [] 0 ⟨w, 0⟩, state := .running }

/-- The word is the next of yardmaster 7 and issues at cycle 2. -/
def ymNextB (w : Insn) : Bool := ymIssuesB (barnState w) 7 w 2

theorem witness_YardmasterInstructions_words :
    let nop := word 0xE0 0
    let fin := word 0xE1 0
    let wait := word 0xE2 (2 ^ 32 - 1)
    let ftab := word 0xE3 (7 * 2 ^ 41)
    let fmt := word 0xE4 (4 * 2 ^ 35)
    let sel := word 0xE4 (2 ^ 34)
    let anchor := word 0xE5 (15 * 2 ^ 27)
    (ymNextB nop = true ∧ opcodeOf nop = 0xE0 ∧ bitsOf nop 43 0 = 0) ∧ (ymNextB fin = true ∧ opcodeOf fin = 0xE1 ∧ bitsOf fin 43 0 = 0) ∧
    (ymNextB wait = true ∧ opcodeOf wait = 0xE2 ∧ bitsOf wait 43 32 = 0 ∧ bitsOf wait 31 0 ≠ 0) ∧
    (ymNextB ftab = true ∧ opcodeOf ftab = 0xE3 ∧ bitsOf ftab 35 0 = 0 ∧ ((barnState ftab).barn 7).ftabAt = none) ∧
    (ymNextB fmt = true ∧ opcodeOf fmt = 0xE4 ∧ bitsOf fmt 33 0 = 0 ∧ bitsOf fmt 37 35 ≤ 4 ∧ bitsOf fmt 34 34 = 0) ∧
    (ymNextB sel = true ∧ opcodeOf sel = 0xE4 ∧ bitsOf sel 33 0 = 0 ∧ bitsOf sel 37 35 = 0 ∧ bitsOf sel 34 34 = 1) ∧
    (ymNextB anchor = true ∧ opcodeOf anchor = 0xE5 ∧ bitsOf anchor 26 0 = 0 ∧ bitsOf anchor 30 27 ≠ 0) := by decide +kernel

/-- An update section with its histogram table in region 0. -/
def upd0 : UpdSec := ⟨[], [], 0, 0, [], [], [], []⟩

/-- A region of the whole of stack 0. -/
def region0 : Region := ⟨0, 2 ^ 36, 0, 0, 0, 0, true, false, 0, 0⟩

/-- Barn 7 selects for entry 0, the region of the histograms as given. -/
def selState (l : List Region) (bad : Sparse BadUnit) : State :=
  let s := up.setBarn 7 { Barn.reset with sel := some ⟨0, 2, 0⟩ }
  { s with bad := bad, boot := { s.boot with mode := .run, image := some { image0 with update := some upd0, regions := l } } }

theorem witness_YardmasterInstructions_ends :
    let f : FmtSel := ⟨0, 2, 0⟩
    let l := up.setBarn 7 { Barn.reset with loads := [⟨2, 7, 31⟩] }
    let h (s : State) := ((s.at_ (f.issue + 847)).setBarn 7 { s.barn 7 with sel := none }).histRecord f.entry (f.issue + 384)
    let lost := selState [region0] [(0, ⟨3, zeroBytes 32⟩)]
    (l.clocked = true ∧ (l.barn 7).loads = [⟨2, 7, 31⟩] ∧ ∃ i ∈ l.barnStalls 7, i = 639) ∧
    ((selState [region0] []).barn 7).sel = some f ∧ ((selState [region0] []).boot.image.bind fun im => im.update) = some upd0 ∧
    (selState [region0] []).barnStalls 7 ≠ [] ∧ (h (selState [region0] [])).2.2 = true ∧ (h lost).2.2 = false := by decide +kernel

theorem witness_TackDmaCommands :
    let v : Word := 0xC0000000
    let d (k : Nat) : TackDma := ⟨false, 0, [[0]], [k], []⟩
    let s (k : Nat) := up.setBarn 0 { Barn.reset with dma := some (d k) }
    let known : State := { up with boot := { up.boot with mode := .run, image := some { image0 with overlays := [⟨0, []⟩] } } }
    let carrying := (s 0).setStall 0 { Stall.reset with logical := some 0 }
    (up.clocked = true ∧ up.awake = true ∧ natBit v.toNat 31 = true) ∧ ((s 0).barn 0).dma.isSome = true ∧
    (known.boot.image.map fun im => im.overlays.any fun o => o.num = natBits v.toNat 7 0) = some true ∧ (known.barn 0).dma = none ∧
    known.movePending 0 = false ∧ known.dmaTargets 0 v.toNat = [[0]] ∧
    (∀ k ∈ [0, 1023], ((s k).barn 0).dma = some (d k) ∧ (d k).todo.findIdx? (fun l => l.head? = some 0) = some 0 ∧
      (d k).next.getD 0 0 = k ∧ ((brought (s k) 0 ((s k).stallNow 0)).stall 0).logical = none) ∧
    (s 0).safe.moves = [] ∧ (d 0).dropped = [] ∧ ((brought carrying 0 (carrying.stallNow 0)).stall 0).logical ≠ none ∧
    ((brought carrying 0 (carrying.stallNow 0)).stall 0).tack.active = (d 0).bank ∧ (0 : Nat) ∈ [0] ∧
    ((up.setStall 0 { Stall.reset with logical := some 0 }).stall 0).tack.active ≠ true := by decide +kernel

/-- A module in RUN whose ticks come every 1,000 counts from its own clock (tick source 0) or from TICK_IN (2). -/
def ticking (src : Nat) : State :=
  ({ up with
    boot := { up.boot with mode := .run, image := some { image0 with plans := [plan0], fabric := { Fabric.alone with tickSource := src } } }
    shot := { up.shot with epoch := some 0, nextNo := 1 } } : State).setReg A.glbShotPeriod 1000

theorem witness_TickBeginsShot :
    let w (s : State) := (s.at_ (s.boundaryAt 0)).boundary (s.boundaryAt 0)
    let own := ticking 0
    let in_ := ticking 2
    own.shot.epoch = some 0 ∧ own.boot.image.isSome = true ∧ own.shot.begun = false ∧ (w own).fires = true ∧
      (w own).startsShots (own.boundaryAt 0) = true ∧ (w own).host.runs = [] ∧ in_.shot.epoch = some 0 ∧ in_.boot.image.isSome = true ∧
      (w in_).fires = false ∧ ({ up with shot := { up.shot with missAt := some 5 } } : State).shot.missAt = some 5 := by decide +kernel

/-- A RUN of plan p, one shot, fetched in cycle 0. -/
def run0 (p : Nat) : RunEntry := ⟨⟨0, 1, 0, zeroBytes 64, 0⟩, p, 1, 0, 0, false, 0, 0, 0, none, 0, 0, 0, false⟩

theorem witness_RunStarts :
    let s (p : Nat) : State := { ticking 0 with host := { up.host with runs := [run0 p] } }
    ∀ p ∈ [0, 5],
      let x := (s p).boundaryAt 0
      let m := (s p).at_ x
      let c := if m.bit A.glbAudit 0 then m else m.closeShot
      let v := c.leaveHold.carryMoves.checkBanks
      (s p).shot.epoch = some 0 ∧ (s p).boot.image.isSome = true ∧ (s p).shot.begun = false ∧ (s p).fires = true ∧
        (s p).startsShots x = true ∧ c.fires = true ∧ c.startsShots x = true ∧ v.power.cool = false ∧ v.host.runs = [run0 p] ∧
        (run0 p).started = false ∧ v.eligible (run0 p) v.shot.nextNo x = true ∧
        v.runCause (run0 p) v.shot.nextNo = (if p = 0 then 0 else 7) := by decide +kernel

/-- The module in a shot of 200 counts. -/
def shortShot : State := (inShot up).setReg A.glbShotPeriod 200

theorem witness_ClosingMarginWork :
    let s (r : Nat) : State := { shortShot with boot := { shortShot.boot with releasing := r } }
    ∀ r ∈ [0, 1],
      (s r).shot.begun = true ∧ (s r).shot.margin = false ∧ (s r).fencesOpen = true ∧
        (((s r).at_ (s r).marginAt).marginWork (s r).marginAt).canRelease = decide (r = 1) := by decide +kernel

theorem witness_AuditHaltAndRelease :
    let s : State := { inShot up with shot := { (inShot up).shot with halt := some 20 } }
    let h := (inShot up).setBit A.glbAudit 0
    let e : State := { (h.setReg A.glbShotPeriod 1) with shot := { h.shot with margin := true } }
    let a : State := { inShot up with safe := { up.safe with abort := some 17 } }
    (s.shot.halt = some 20 ∧ s.shot.begun = true ∧ s.bit A.glbAudit 0 = false) ∧
    (h.awake = true ∧ natBit (2 : Word).toNat 1 = true ∧ h.bit A.glbAudit 0 = true ∧ h.shot.margin = false) ∧
    (e.bit A.glbAudit 0 = true ∧ e.shot.margin = true ∧ e.shotEnd ≤ e.cyc) ∧
    ((inShot up).awake = true ∧ natBit (0x80000000 : Word).toNat 31 = true ∧ (inShot up).shot.begun = true ∧ (inShot up).shot.gone = none ∧
      (inShot up).safe.abort = none ∧ (inShot up).bit A.glbAudit 0 = false ∧ (inShot up).shot.margin = false ∧
      (inShot up).shot.fail = none ∧ (inShot up).cyc ≤ (inShot up).marginAt) ∧
    (a.safe.abort = some 17 ∧ a.shot.begun = true) := by decide +kernel

theorem witness_StrikesAndFences :
    let v : Word := 0x800003CF
    let i := natBits v.toNat 9 7 * 80 + natBits v.toNat 6 0
    let q := withStall { Stall.reset with aud := { Audit.reset with quiet := 65536 } }
    let m : StallMove := ⟨575, 639, 0xFF, 0xFF, false, true, true, false⟩
    let c : State := { inShot up with safe := { up.safe with moves := [m] } }
    65536 ≤ (q.stall 0).aud.quiet ∧
    (up.awake = true ∧ natBit v.toNat 31 = true ∧ natBits v.toNat 6 0 < 80 ∧ i = 639 ∧ i ∉ up.safe.fenced ∧ up.fencesOpen = true ∧
      up.boot.mode ≠ .run) ∧
    ((inShot up).awake = true ∧ (inShot up).fencesOpen = true ∧ (inShot up).boot.mode = .run ∧ i ∉ (inShot up).safe.requests) ∧
    (c.clocked = true ∧ c.boot.image.isSome = true ∧
      (c.safe.moves.find? fun m => decide (m.logical = 575) && m.started && !m.copied) = some m) := by decide +kernel


/-! ### Hypotheses of the statements about barriers, training, securing and refresh -/

/-- A shot of a plan with one barrier entry, whose member has arrived at the first occurrence at cycle 20. -/
def arrivedState (b : Barrier) (dims : List Nat) : State :=
  let st : Stall := { Stall.reset with
    clk := 10
    logical := some 0
    seq := { Seq.reset with state := .running, waiting := some 3, arrived := sset zeroNat [] 3 1, arrCycle := 20 } }
  let s := inShot (withStall st)
  { s with
    boot := { s.boot with image := some { image0 with plans := [{ plan0 with bars := [b] }], fabric := { Fabric.alone with dims := dims } } }
    safe := { s.safe with map := sset noStall [] 0 0 } }

theorem witness_BarrierOccurrences_release :
    let b : Barrier := ⟨3, false, [0], [32], false⟩
    let s := arrivedState b [1, 1, 1, 1]
    s.clocked = true ∧ s.running = true ∧ (s.plan.bind fun p => p.bars.find? fun b => b.id = 3) = some b ∧
      s.releasedOf b.id < b.releases.length ∧
      ((b.members.map s.phys).all fun p => match p with | some i => (s.stall i).arrivedAt b.id 0 | none => false) = true ∧
      (s.stall 0).seq.arrCycle + 12 ≤ s.shot.begin_ + b.releases.getD 0 0 ∧ b.commit = false ∧ s.shot.bars = [] ∧ s.shot.gone = none ∧
      s.safe.abort = none ∧ s.shot.halt = none ∧ b.barns ≠ [] ∧ s.shot.margin = false ∧ s.shot.begin_ + b.releases.getD 0 0 ≤ s.marginAt := by
  decide +kernel

theorem witness_BarrierOccurrences_commit :
    let b : Barrier := ⟨3, false, [0], [32], true⟩
    let s := arrivedState b [2, 1, 1, 1]
    let with_ (r : List Byte) : State := { s with train := { s.train with result := some r } }
    s.clocked = true ∧ s.running = true ∧ s.fabric.size ≠ 1 ∧ (s.plan.bind fun p => p.bars.find? fun b => b.id = 3) = some b ∧
      s.releasedOf b.id < b.releases.length ∧ b.commit = true ∧
      ((b.members.map s.phys).all fun p => match p with | some i => (s.stall i).arrivedAt b.id 0 | none => false) = true ∧
      s.train.result = none ∧ (with_ (zeroBytes 520)).train.result = some (zeroBytes 520) ∧
      natBit (leAt (zeroBytes 520) 512 1) 0 = false ∧ natBit (leAt (zeroBytes 512 ++ [1]) 512 1) 0 = true := by decide +kernel

/-- An update record of one group, its planes and journal in region 0; a pass of it on stack 0. -/
def rec0 : UpdRecord := ⟨0, 0, 0, 0, 0, 0, 1, 0, 0, 0⟩

def pass0 : UpdPass := ⟨0, 0, 0, 0, 1, 20⟩

/-- A shot of a plan in a module that trains, with a pass of its record under way. -/
def updState : State :=
  let s := inShot up
  { s with
    boot := { s.boot with image := some { image0 with
      plans := [plan0], regions := [region0], update := some { upd0 with records := [rec0], shadows := [0] } } }
    train := { s.train with passes := [pass0] } }

theorem witness_UpdateWindows :
    let s := updState
    let m := s.at_ (20 + 1024)
    let pa := m.readMem (m.addrA rec0 0) 2112 20
    let pb := pa.1.readMem (pa.1.addrB rec0 0) 10240 20
    let pg := pb.1.readMem (pb.1.addrG rec0 0 0) (carrierGroupBytes 0) 20
    s.clocked = true ∧ s.nextPass 0 = some (pass0, 20) ∧ s.records[pass0.record]? = some rec0 ∧ pa.2.2.1.any id = false ∧
      pb.2.2.1.any id = false ∧ pg.2.2.1.any id = false ∧ s.host.sweep = none ∧ s.ckpt.cur = none := by decide +kernel

theorem witness_UpdateWindows_sweep :
    let v : Word := 0xC0000FFF
    let kept : State := { up with train := { up.train with freeze := some (5, true) } }
    let sw (run : Bool) (n : Nat) : Sweep := ⟨⟨0, 1, 0, zeroBytes 64, 0⟩, 0, 0, 0, 0, true, run, n, 1, [], 0⟩
    let s (run : Bool) (n : Nat) : State :=
      { updState with train := .reset, host := { updState.host with sweep := some (sw run n) } }
    (up.awake = true ∧ natBit v.toNat 31 = true ∧ up.train.freeze = none ∧ kept.train.freeze ≠ none) ∧
    ((s false 0).clocked = true ∧ (s false 0).host.sweep = some (sw false 0) ∧ (sw false 0).armed = true ∧ (s false 0).train.passes = []) ∧
    (∀ n ∈ [0, 6], (s true n).host.sweep = some (sw true n) ∧ (s true n).host.snapBad = []) ∧
    (1792 * 0 + min 1792 (12352 * 1 - 1792 * 0) < 12352 ∧ 12352 ≤ 1792 * 6 + min 1792 (12352 * 1 - 1792 * 6)) := by decide +kernel

/-- A policy with one active destination, the buddy module of entry 3 (R348). -/
def policy0 : CkptPolicy :=
  ⟨1, 10, 0, 0, 0, 0, 0, 0, 1, 0, [], [0], [⟨0, false, 0, 0, 0, 0⟩, ⟨0, false, 0, 0, 0, 0⟩, ⟨0, false, 0, 0, 0, 0⟩, ⟨1, true, 0, 0, 0, 0⟩], []⟩

def point0 (durable : List Nat) (ms : List (Nat × Method)) : Point := ⟨7, 0, 1, 0, ms, true, durable, [], [], 0, [], [], [], [], [], []⟩

/-- A securing point in progress. -/
def pointState (durable : List Nat) : State :=
  { up with
    boot := { up.boot with mode := .run, image := some { image0 with ckpt := some policy0 } }
    ckpt := { up.ckpt with cur := some (point0 durable []) } }

theorem witness_SecuringPoints :
    let p (l : List Nat) : Point := { point0 l [] with segs := [⟨2, 0, 0, 0, 256⟩], places := [(3, [0, 4096])] }
    let s (l : List Nat) (bad : Sparse BadUnit) : State := { updState with
      train := .reset
      bad := bad
      boot := { updState.boot with image := updState.boot.image.map fun im => { im with ckpt := some policy0 } }
      host := { updState.host with auxReady := true }
      ckpt := { updState.ckpt with cur := some (p l) } }
    let lost := sset noBad [] (unitKey 0 224) ⟨3, zeroBytes 32⟩
    ∀ l ∈ [[], [2]],
      ((s l []).ckpt.cur = some (p l) ∧ (s l []).policy = some policy0 ∧ (s l []).awake = true ∧ 3 ∈ policy0.active ∧
        3 ∉ (p l).durableAt ∧ 3 ∉ (p l).failedAt ∧ policy0.dests[3]? = some ⟨1, true, 0, 0, 0, 0⟩ ∧
        (s l []).canShip (p l) ⟨1, true, 0, 0, 0, 0⟩ 3 = true ∧ ((s l []).shipment (p l)).2.2 = false) ∧
      ((s l lost).canShip (p l) ⟨1, true, 0, 0, 0, 0⟩ 3 = true ∧ ((s l lost).shipment (p l)).2.2 = true) := by decide +kernel

/-- A source for a restore with one point, of a step, with a first byte of its digest and of its position. -/
def source0 (step digest pos : Nat) : RestoreSource :=
  ⟨[⟨leBytes 8 step ++ zeroBytes 8 ++ leBytes 8 pos ++ leBytes 32 digest ++ zeroBytes 4032, []⟩]⟩

theorem witness_RestoresAndReports :
    let v : Word := 0x80000000
    let s := pointState []
    let busy : State := { s with shot := { s.shot with begun := true, plan := some 0 } }
    let r : State := { s with ckpt := { s.ckpt with restore := some ⟨7, 1⟩ } }
    (s.awake = true ∧ natBit v.toNat 31 = true ∧ s.ckpt.restore = none ∧ s.boot.image.isSome = true ∧ s.busyRun = false ∧
      s.confDigest = zeroBytes 32 ∧ s.position = [0, 0, 0, 0]) ∧
    s.wide A.ckpRestoreLo A.ckpRestoreHi = 0 ∧
    ((pointOf (source0 0 0 0) 0).map (fun p => (stDigest p, stPosition p)) = some (s.confDigest, s.position) ∧
      (pointOf (source0 0 1 0) 0).map (fun p => decide (stDigest p = s.confDigest)) = some false ∧
      (pointOf (source0 0 0 1) 0).map (fun p => (stDigest p, decide (stPosition p = s.position))) = some (s.confDigest, false) ∧
      pointOf (source0 1 0 0) 0 = none) ∧
    (up.boot.image = none ∧ up.ckpt.restore = none ∧ busy.busyRun = true) ∧
    (r.ckpt.restore = some ⟨7, 1⟩ ∧ r.clocked = true) := by decide +kernel

theorem witness_RefreshAndRepair :
    let slot : State := { inShot up with boot := { (inShot up).boot with image := some { image0 with
      plans := [{ plan0 with refresh := [(31, 3, 100)] }] } } }
    let lost (l : List Point) : State := { updState with
      bad := sset noBad [] (unitKey 0 2080) ⟨3, zeroBytes 32⟩
      boot := { updState.boot with image := updState.boot.image.map fun im => { im with ckpt := some policy0 } }
      ckpt := { updState.ckpt with done := l } }
    let under : State := { up with ckpt := { up.ckpt with repairs := [0] } }
    (slot.clocked = true ∧ slot.running = true ∧ (slot.stack 31).failed = false ∧ slot.nextSlot 31 3 = some 100) ∧
    (up.clocked = true ∧ up.running = false ∧ (up.stack 31).failed = false) ∧
    (∀ l ∈ [[point0 [] [(0, .journal false)]], []],
      (lost l).clocked = true ∧ ((lost l).recordsAt 0 2080).filter (fun k => !(lost l).ckpt.repairs.contains k) = [0] ∧
        ((lost l).decodeUnit 0 2080).2 = .lost ∧
        (match (lost l).tensorOf 0 with | some t => (lost l).journalled t | none => false) = !l.isEmpty) ∧
    (under.clocked = true ∧ 0 ∈ under.ckpt.repairs) := by decide +kernel


/-! ### Hypotheses of the statements about the fabric and time -/

/-- A link that is up and scheduled. -/
def upPort : Port := { Port.reset with up := true, cable := true, peer := some (1, 1) }

/-- A paddock of two modules, window 0 of 4,096 bytes at module address 0, binding 0, ticks from TICK_IN. -/
def fabric2 : Fabric :=
  { Fabric.alone with dims := [2, 1, 1, 1], windows := [⟨false, 7, 0, 0, 0, 0, 4096, 0⟩], bindings := [(1, 0, 0)], tickSource := 2 }

/-- A shot of a plan with transfer records in module 0 of the paddock, ports 0, 1 and 8 up, window 0 open in generation 1. -/
def fabState (ts : List Transfer) (fab : Fab) : State :=
  let s := inShot up
  { s with
    cyc := 100
    boot := { s.boot with image := some { image0 with plans := [{ plan0 with transfers := ts }], fabric := fabric2, regions := [region0] } }
    shot := { s.shot with nextNo := 1 }
    fab := { fab with
      ports := sset zeroPort (sset zeroPort (sset zeroPort [] 0 upPort) 1 upPort) 8 upPort
      windows := sset zeroWindow [] 0 ⟨true, 1, none⟩ } }

/-- Transfer 5: one line to or from module 1 in shot cycle 0. -/
def transfer0 (recv : Bool) (kind : Nat) : Transfer := ⟨5, recv, false, kind, 0, 1, 0, 0, 0, 0, 1, 1, 0xFFFF, 0⟩

/-- A frame of one line from module 1, to generation 1 of window 0, sent in shot 7 modulo 8 (no tick has set GLB_SHOT since reset). -/
def frame0 (kind flags : Nat) : Frame :=
  { Frame.blank with kind := kind, flags := flags, src := 1, hops := 1, gen := 1, length := 64, number := 5, whenS := 7, payload := zeroBytes 64 }

theorem witness_ScheduledSends :
    let s := fabState [transfer0 false 0] Fab.reset
    let m := ({ s with fab := { s.fab with injected := s.fab.injected ++ [(5, 0)] } } : State).at_ 0
    let h (due : Nat) : Held := ⟨1, { frame0 0 1 with dst := 1, lseq := 9 }, 50, due⟩
    let fwd (due : Nat) := fabState [] { Fab.reset with held := [h due] }
    (s.clocked = true ∧ s.running = true ∧ (5, 0) ∉ s.fab.injected ∧
      (s.transfers.find? fun t => !t.recv && decide (t.number = 5)) = some (transfer0 false 0) ∧ (transfer0 false 0).kind ≠ 2 ∧
      28 * 0 < s.linesOf (transfer0 false 0) ∧ s.fabric.route s.caseNow s.fabric.me (s.fabric.physOf s.caseNow 1) = [(0, true)] ∧
      s.portScheduled (hopPort false (0, true)) = true ∧
      (m.readMem 0 (frameBytes (s.linesOf (transfer0 false 0)) 0) 0).2.2.1.any id = false) ∧
    (∀ due ∈ [49, 50],
      ((fwd due).fab.held.find? fun h => decide (h.port = 1 ∧ h.f.lseq = 9 ∧ h.f.dst ≠ (fwd due).myId)) = some (h due)) ∧
    (fwd 50).fabric.route (fwd 50).caseNow (fwd 50).fabric.me ((h 50).f.dst % 8192) = [(0, true)] ∧
    (fwd 50).portScheduled (hopPort (10 ≤ 1) (0, true)) = true := by decide +kernel

theorem witness_Resends :
    let r (sched n : Nat) : Replay := ⟨{ frame0 0 sched with lseq := 9 }, 20, n⟩
    let s (sched n : Nat) := (fabState [] Fab.reset).setPort 0 { upPort with replay := [r sched n] }
    let m (n : Nat) : Message := ⟨frame0 0 0, 0, 20, n, none⟩
    let t (n : Nat) := fabState [] { Fab.reset with msgs := [m n] }
    (∀ p ∈ [(1, 100), (0, 6), (0, 7)], (s p.1 p.2).awake = true ∧ ((s p.1 p.2).port 0).up = true ∧ (r p.1 p.2).f.sched = decide (p.1 = 1) ∧
      (((s p.1 p.2).port 0).replay.find? fun r => r.f.lseq = 9) = some (r p.1 p.2)) ∧
    (∀ n ∈ [2, 3], (t n).awake = true ∧ ((t n).fab.msgs.find? fun m => m.f.number = 5) = some (m n)) := by decide +kernel

/-- The state after a port has taken a frame. -/
def taken (s : State) (p : Nat) (f : Frame) : State := (s.takeFrame p f).1

theorem witness_FramesTaken_writes :
    let s := fabState [transfer0 true 0] Fab.reset
    let s1 := fabState [transfer0 true 1] Fab.reset
    let sums : State := { s1 with boot := { s1.boot with image := s1.boot.image.map fun im =>
      { im with fabric := { im.fabric with windows := [⟨false, 7, 1, 0, 0, 0, 4096, 0⟩] } } } }
    (∀ k ∈ [0, 1], ∀ f ∈ [{ frame0 k 0 with gen := 2 }, frame0 k 0, frame0 k 1], (s.takeFrame 0 f).2 = true ∧ f.dst = (taken s 0 f).myId) ∧
    (taken s 0 { frame0 0 0 with gen := 2 }).windowTakes { frame0 0 0 with gen := 2 } = false ∧
    ((taken s 0 (frame0 0 0)).windowTakes (frame0 0 0) = true ∧ (taken s 0 (frame0 0 0)).windowFits (frame0 0 0) 64 = true ∧
      ((taken s 0 (frame0 0 0)).windowRec 0).map (fun r => r.target) = some 0 ∧ (frame0 0 0).sched = false) ∧
    ((taken s 0 (frame0 0 1)).windowTakes (frame0 0 1) = true ∧ (taken s 0 (frame0 0 1)).windowFits (frame0 0 1) 64 = true ∧
      (frame0 0 1).sched = true ∧ (taken s 0 (frame0 0 1)).matchRecord (frame0 0 1) = some (transfer0 true 0, 0)) ∧
    ((sums.takeFrame 0 (frame0 1 1)).2 = true ∧ (taken sums 0 (frame0 1 1)).windowTakes (frame0 1 1) = true ∧
      (taken sums 0 (frame0 1 1)).windowFits (frame0 1 1) 64 = true ∧
      (taken sums 0 (frame0 1 1)).matchRecord (frame0 1 1) = some (transfer0 true 1, 0)) := by decide +kernel

theorem witness_FramesTaken_others :
    let s := fabState [] { Fab.reset with msgs := [⟨frame0 0 0, 0, 20, 0, none⟩] }
    let nack : Frame := { frame0 6 0 with payload := leBytes 2 Ev.windowClosed ++ zeroBytes 2 }
    let req : Frame := { frame0 3 0 with src := 8192, sigma := 1792 }
    let resp : Frame := { frame0 4 0 with offset := 64 }
    let r : FarRead := ⟨0, 7, 0, 3, 1, 0, 64, 64, [], 5⟩
    let far : State := { s with far := { s.far with reads := [r] } }
    (∀ f ∈ [frame0 5 0, nack, frame0 12 0, req, resp], (s.takeFrame 0 f).2 = true ∧ f.dst = (taken s 0 f).myId) ∧
    (leAt nack.payload 0 2 = Ev.windowClosed ∧ nack.sched = false) ∧
    ((taken s 0 nack).fab.msgs.find? fun m => decide (m.f.number = 5 ∧ m.f.dst = 1)) = none ∧
    ((taken s 0 req).windowTakes req = true ∧ (taken s 0 req).windowFits req req.sigma = true ∧
      ((taken s 0 req).windowRec 0).map (fun r => r.target) = some 0 ∧ (taken s 0 req).portTo req.src req.number = some 8 ∧
      ((taken s 0 req).port 8).up = true ∧ isTorus 8 = false ∧
      ((taken s 0 req).readMem 0 1792 (taken s 0 req).cyc).2.2.1.any id = false) ∧
    ((far.takeFrame 0 resp).2 = true ∧
      ((taken far 0 resp).far.reads.find? fun r => decide (r.kind = 3 ∧ r.tagNo % 65536 = 5 ∧ r.ident = 1)) = some r ∧ r.got = [] ∧
      resp.offset = r.addr ∧ resp.payload.length = r.len) := by decide +kernel

theorem witness_LandingAndExchange :
    let h : Held := ⟨0, frame0 0 1, 90, 350 + 875⟩
    let s (l : List Held) := fabState [transfer0 true 0] { Fab.reset with held := l }
    let e (l : List Nat) : Exch := ⟨5, 0, zeroBytes 64, l⟩
    let x (l : List Nat) := fabState [transfer0 false 2] { Fab.reset with exchs := [e l] }
    let f := frame0 2 1
    (∀ l ∈ [[h], []], (s l).clocked = true ∧ (s l).running = true ∧
      ((s l).transfers.find? fun t => t.recv && decide (t.number = 5 ∧ 28 * 0 < (s l).linesOf t) &&
        !(s l).fab.landed.contains (t.peer, t.number, 0)) = some (transfer0 true 0) ∧
      ((s l).fab.held.filter fun h => decide (h.due = 1225 ∧ h.arr ≤ 1225 ∧ h.f.dst = (s l).myId)) = l) ∧
    ((s [h]).matchRecord h.f = some (transfer0 true 0, 0) ∧ ((s [h]).windowRec h.f.window).map (fun r => r.target) = some 0) ∧
    ((s []).shot.margin = false ∧ (s []).shot.fail = none ∧ 1225 ≤ (s []).marginAt) ∧
    (∀ l ∈ [[0], []], (8192, 5, 0) ∉ (x l).fab.landed ∧
      ((x l).transfers.find? fun t => !t.recv && decide (t.kind = 2 ∧ t.number = 5)) = some (transfer0 false 2) ∧
      (accLines (transfer0 false 2) + 27) / 28 = 1 ∧ (x l).exch 5 0 = some (e l) ∧
      ((List.range (x l).fabric.steps.length).all fun j => (e l).steps.contains j) = !l.isEmpty) ∧
    (let w := taken (x []) 1 f;
      ((x []).takeFrame 1 f).2 = true ∧ f.dst = w.myId ∧ w.exch 5 (f.offset / 1792) = some (e []) ∧ f.whenC = 0 ∧ f.hops = 1 ∧
        f.whenS = w.shotNo % 8 ∧ firstSlot 0 ≤ w.shotCycle w.cyc ∧
        some (portHop 1) = (w.fabric.steps[(w.shotCycle w.cyc - firstSlot 0) / 875]?.map fun d => (d, false))) := by decide +kernel

theorem witness_PortsWindowsBindings :
    let s := fabState [] Fab.reset
    let v : Word := 0xC0000000
    let idle : State := { s with shot := { s.shot with begun := false } }
    let ack : Frame := { frame0 7 0 with payload := leBytes 1 0 }
    let inj : State := { s with boot := { s.boot with image := s.boot.image.map fun im => { im with injPorts := [0] } } }
    let first : State := { s with cdc := sset zeroNat [] (64 * cdcSerdes) 1000 }
    (s.awake = true ∧ (up.port 0).up = false ∧ ((up.setPort 0 { Port.reset with cable := true }).port 0).cable = true ∧
      up.boot.image = none) ∧
    (s.crossing cdcSerdes 0 = false ∧ first.crossing cdcSerdes 0 = true ∧ natBit (first.reg A.glbCdcStatus) cdcSerdes = false ∧
      (first.port 0).up = true ∧ first.awake = true) ∧
    ((s.port 0).up = true ∧ isTorus 0 = true ∧ ack.good = true ∧ ack.mine = true ∧ ack.etype = s.fabric.etype ∧ leAt ack.payload 0 1 = 0) ∧
    (natBit v.toNat 31 = true ∧ (s.windowRec (natBits v.toNat 7 0)).isSome = true ∧ s.running = true ∧ idle.running = false ∧
      natBit v.toNat 30 = true ∧ natBit (0x80000000 : Word).toNat 30 = false) ∧
    natBits v.toNat 25 16 < s.fabric.bindings.length ∧
    (inj.boot.image.map fun im => decide (0 ∈ im.injPorts)) = some true ∧ (s.boot.image.map fun im => im.injPorts) = some [] := by
  decide +kernel

theorem witness_TimeAndAnnouncements :
    let s (src : Nat) (e : Option Nat) : State := { ticking src with shot := { (ticking src).shot with epoch := e } }
    let w (crc : Nat) : BitVec 128 := BitVec.ofNat 128 (1 * 2 ^ 80 + 1000 * 2 ^ 16 + crc)
    let right := w (tickCrc 1 1000)
    let f : Frame := { frame0 8 0 with payload := leBytes 6 1 ++ leBytes 8 1000 ++ leBytes 4 1000 }
    let f1 : State := (ticking 1).setPort 0 upPort
    let begun (o : Bool) : State := { ticking 1 with
      shot := { (ticking 1).shot with begun := true }, fab := { (ticking 1).fab with aligned := o } }
    ((s 2 none).awake = true ∧ (s 2 none).fabric.tickSource = 2 ∧ (s 2 none).boot.image.isSome = true) ∧
    (let x := w (tickCrc 1 1000 + 1);
      bitsOf x 15 0 ≠ tickCrc (bitsOf x 127 80) (bitsOf x 79 16)) ∧
    (bitsOf right 15 0 = tickCrc (bitsOf right 127 80) (bitsOf right 79 16) ∧ (s 2 (some 0)).shot.epoch = some 0 ∧
      (s 2 (some 0)).boundaryNo (bitsOf right 127 80) = 1 ∧ bitsOf right 79 16 = (s 2 (some 0)).tickCount 0 1 ∧
      (s 2 (some 0)).shot.nextNo ≤ 1 ∧ ({ up with shot := { up.shot with nextNo := 2 ^ 48 - 1 } } : State).boundaryNo 0 = 2 ^ 48 ∧
      (s 2 (some 0)).shot.anns = [] ∧ (s 2 none).shot.epoch = none) ∧
    (f.kind = 8 ∧ f1.fabric.tickSource = 1 ∧ (f1.takeFrame 0 f).2 = true ∧ leAt f.payload 14 4 = (taken f1 0 f).period ∧
      (taken f1 0 f).shot.epoch = some 0 ∧ (taken f1 0 f).boundaryNo (leAt f.payload 0 6) = 1 ∧
      leAt f.payload 6 8 = (taken f1 0 f).tickCount 0 1 ∧ (taken f1 0 f).shot.nextNo ≤ 1 ∧ (taken f1 0 f).shot.anns = []) ∧
    ((ticking 1).boot.image.isSome = true ∧ (ticking 1).fabric.tickSource ≠ 0 ∧ (ticking 1).shot.begun = false ∧
      (ticking 1).fab.synced = false) ∧
    ((begun true).shot.begun = true ∧ (begun true).fab.aligned = true ∧ (begun true).boot.mode = .run) ∧
    ((f1.port 0).up = true ∧ isTorus 0 = true) := by decide +kernel


/-! ### Hypotheses of the statements about the host interface -/

/-- A slice of class 5 with one place, its area in region 0. -/
def slice0 (capacity : Nat) : Slice := ⟨true, [], 5, 1000, 2000, 3000, 4000, capacity, false⟩

/-- A shot of a plan with that slice runs; port 8 is up, requests to host memory are allowed. -/
def serveState (capacity : Nat) (reqs : List Request) (es : List Entry) : State :=
  let s := inShot up
  { s.setPort 8 upPort with
    boot := { s.boot with image := some { image0 with
      plans := [{ plan0 with slices := [slice0 capacity] }], serve := [⟨5, 0, 0, 64, 4096, 64⟩], regions := [region0] } }
    shot := { s.shot with epoch := some 0, nextNo := 1, no := s.shotNo }
    host := { s.host with reqs := reqs, entries := es, busMaster := true } }

/-- A submission entry of ring 63: opcode, 16-bit field at 2, length and capacity at 32 and 36. -/
def entry0 (op cls len cap : Nat) : Entry :=
  ⟨63, 1, 0, leBytes 1 op ++ [0] ++ leBytes 2 cls ++ leBytes 2 1 ++ zeroBytes 26 ++ leBytes 4 len ++ leBytes 4 cap ++ zeroBytes 24, 1⟩

/-- An accepted request of slice 0 of the running shot. -/
def request0 (host : Option Entry) (input : List (Nat × List Byte)) : Request :=
  ⟨9, host, 0, 0, 77, 8, 5, 2 ^ 48 - 1, 0, 0, 0, 0, some 64, true, none, input, 0⟩

theorem witness_ServingRequests_frames :
    let f (cls flags : Nat) : Frame :=
      { Frame.blank with kind := 9, window := cls, flags := flags, sigma := 77, length := 64, payload := zeroBytes 64 }
    let s (capacity : Nat) := serveState capacity [] []
    (∀ c ∈ [0, 1], ∀ g ∈ [f 5 0, f 5 2, f 6 2], g.kind = 9 ∧ isTorus 8 = false ∧ ((s c).takeFrame 8 g).2 = true ∧
      (taken (s c) 8 g).boot.image.isSome = true ∧ (taken (s c) 8 g).host.reqs = []) ∧
    ((f 5 0).isLast = false ∧ (f 5 2).isLast = true ∧ (taken (s 1) 8 (f 6 2)).hasClass 6 = false) ∧
    ((taken (s 0) 8 (f 5 2)).hasClass 5 = true ∧ (taken (s 0) 8 (f 5 2)).acceptInto 5 (taken (s 0) 8 (f 5 2)).now = none) ∧
    ((taken (s 1) 8 (f 5 2)).acceptInto 5 (taken (s 1) 8 (f 5 2)).now = some (2 ^ 48 - 1, 0, 0, 0) ∧
      ((taken (s 1) 8 (f 5 2)).areaOf 5 0).map (fun a => a.inSlot) = some 64) := by decide +kernel

theorem witness_ServingRequests_entries :
    let e := entry0 2 5 64 64
    let s (capacity : Nat) := serveState capacity [] [e]
    let cause (s : State) : Nat := if s.stopped then 12 else if s.boot.image.isNone || s.releasing then 1 else if !s.hasClass 5 then 8
      else if !s.serveFits 5 64 64 then 9 else 0
    let off : State := { s 1 with boot := { (s 1).boot with releasing := 1 } }
    leAt e.bytes 2 2 = 5 ∧ leAt e.bytes 32 4 = 64 ∧ leAt e.bytes 36 4 = 64 ∧
    (∀ c ∈ [0, 1], (s c).awake = true ∧ (s c).headEntry 63 2 = some e ∧ cause (s c) = 0) ∧ cause off = 1 ∧ off.headEntry 63 2 = some e ∧
    (s 0).acceptInto 5 e.count = none ∧ (s 1).acceptInto 5 e.count = some (2 ^ 48 - 1, 0, 0, 0) := by decide +kernel

theorem witness_ServingRequests_ends :
    let e := entry0 2 5 64 64
    let s (h : Option Entry) (i : List (Nat × List Byte)) := serveState 1 [request0 h i] []
    let late : State := { s (some e) [] with cyc := 2001 }
    let m (s : State) := s.at_ (s.shot.begin_ + 3000)
    (∀ t ∈ [s (some e) [], late], t.awake = true ∧
      (t.host.reqs.find? fun q => q.id = 9 && q.host.isSome && q.input.isEmpty) = some (request0 (some e) [])) ∧
    (s (some e) []).hostOk = true ∧
      ({ s (some e) [] with host := { (s (some e) []).host with busMaster := false } } : State).hostOk = false ∧
    ((s (some e) []).sliceStart (request0 (some e) []) = some 2000 ∧ (s (some e) []).cyc ≤ 2000 ∧ 2000 < late.cyc ∧
      late.sliceStart (request0 (some e) []) = some 2000 ∧ ((s (some e) []).areaOf 5 0).isSome = true) ∧
    (∀ p ∈ [(none, [(0, [])]), (some e, [(0, [])]), (some e, [])], (s p.1 p.2).clocked = true ∧ (s p.1 p.2).running = true ∧
      (s p.1 p.2).shot.gone = none ∧ (s p.1 p.2).shot.fail = none ∧
      ((s p.1 p.2).shotReqs.find? fun q => q.id = 9) = some (request0 p.1 p.2) ∧ (request0 p.1 p.2).fail = none ∧
      (s p.1 p.2).shot.plan = some 0 ∧ ((s p.1 p.2).plan.bind fun p => p.slices[0]?) = some (slice0 1) ∧
      ((s p.1 p.2).areaOf 5 0).map (fun a => (a.outBase, a.outSlot)) = some (4096, 64) ∧
      ((m (s p.1 p.2)).readMem 4096 64 3000).2.2.1.any id = false ∧ ((s p.1 p.2).port 8).up = true ∧ (s p.1 p.2).hostOk = true) := by
  decide +kernel

/-- Ring 63 as given, requests to host memory allowed. -/
def ringState (r : Ring) : State := { up.setRing 63 r with host := { (up.setRing 63 r).host with busMaster := true } }

/-- An enabled ring of 4 entries with a tail of 1. -/
def enabled : Ring := ⟨0x1000, 2, .enabled, 0, 1, 0, 0, 0, 0, 1⟩

theorem witness_RingsAndDoorbells :
    let on : State := up.putBit (ringReg A.glbRingCfg 63) 31 true
    let s := ringState enabled
    let x (n : Nat) := (n + 65536 - enabled.fetched % 65536) % 65536
    up.awake = true ∧ natBit (0x80000002 : Word).toNat 31 = true ∧ up.bit (ringReg A.glbRingCfg 63) 31 = false ∧
    on.bit (ringReg A.glbRingCfg 63) 31 = true ∧ natBit (0 : Word).toNat 31 = false ∧
    (s.awake = true ∧ (s.ring 63).state = .enabled ∧ x 4 ≤ (s.ring 63).entries ∧ (s.ring 63).entries < x 5) ∧
    ((0 + 65536 - enabled.head) % 65536 ≤ enabled.entries ∧ (enabled.written % 65536 + 65536 - 0) % 65536 ≤ enabled.entries ∧
      enabled.entries < (5 + 65536 - enabled.head) % 65536) ∧
    (s.hostOk = true ∧ (enabled.tail + 65536 - enabled.fetched % 65536) % 65536 ≠ 0 ∧
      (enabled.fetched % 65536 + 65536 - enabled.head) % 65536 < enabled.entries ∧ validEntry (bytesAt (zeroBytes 64) 0 64) = true ∧
      validEntry (bytesAt (0xFF :: zeroBytes 63) 0 64) = false) := by decide +kernel

theorem witness_EntriesExecute :
    let s (op cls : Nat) := serveState 1 [] [entry0 op cls 0 0]
    let none_ : State := { up with host := { up.host with entries := [entry0 1 0 0 0] } }
    let hold : State := { none_ with boot := { none_.boot with mode := .hold } }
    let c (s : State) (e : Entry) := s.runCause (e.run (s.cycleOf e.count)) (s.firstOpen (s.cycleOf e.count))
    let snap : State := { updState with host := { updState.host with entries := [entry0 3 8 0 0] } }
    ((s 0 0).awake = true ∧ (s 0 0).headEntry 63 0 = some (entry0 0 0 0 0)) ∧
    ((s 1 0).headEntry 63 1 = some (entry0 1 0 0 0) ∧ c (s 1 0) (entry0 1 0 0 0) = 0) ∧
    ((s 1 3).headEntry 63 1 = some (entry0 1 3 0 0) ∧ c (s 1 3) (entry0 1 3 0 0) = 7 ∧ (s 1 3).boot.mode = .run ∧
      (s 1 3).boot.releasing = 0 ∧ ((s 1 3).boot.image.bind fun im => im.planNo 3) = none) ∧
    (none_.boot.mode = .ready ∧ none_.boot.image = none ∧ none_.headEntry 63 1 = some (entry0 1 0 0 0) ∧ hold.awake = true) ∧
    (snap.awake = true ∧ snap.headEntry 63 3 = some (entry0 3 8 0 0) ∧ snap.snapCause = 0) ∧
    ((s 3 8).headEntry 63 3 = some (entry0 3 8 0 0) ∧ (s 3 8).snapCause ≠ 0) := by decide +kernel

/-- A completion without an event, due now. -/
def comp0 (cause : Option Nat) : Completion := ⟨63, 1, zeroBytes 28, 0, true, cause, 0⟩

theorem witness_CompletionsAndMessages :
    let s (c : Completion) : State := { ringState enabled with host := { (ringState enabled).host with comps := [c] } }
    let quiet : State := { s (comp0 none) with host := { (s (comp0 none)).host with busMaster := false } }
    let waits (h : HostIf) : State := { up with host := { h with waiting := [.msg 2047], unmasked := [2047] } }
    let pend (l : List Nat) : State := { ringState enabled with host := { (ringState enabled).host with pba := l } }
    let held : State := { s (comp0 (some 0x0402)) with log := { Log.reset with held := [⟨0x0402, 0, 0, 0, []⟩] } }
    (firstComp (s (comp0 none)).host.comps = some (comp0 none) ∧ (s (comp0 none)).compReady (comp0 none) = true ∧
      (s (comp0 none)).hostOk = true ∧ (s (comp0 none)).host.waiting = [] ∧ ((s (comp0 none)).ring 63).pass = 1) ∧
    held.compReady (comp0 (some 0x0402)) = false ∧ quiet.hostOk = false ∧ quiet.compReady (comp0 none) = true ∧
    (up.crossing cdcHost 0 = false ∧ up.awake = true ∧ (waits up.host).host.fmask = false ∧ (waits up.host).host.waiting = [2047].map HostWait.msg ∧
      ∀ v ∈ [2047], v ∈ (waits up.host).host.unmasked) ∧
    ((BitVec.ofNat 11 2047).toNat ∈ (pend [2047]).host.pba ∧ (pend [2047]).host.fmask = false ∧ (pend [2047]).hostOk = true ∧
      (pend [2047]).host.waiting = [] ∧ (BitVec.ofNat 11 2047).toNat ∉ (pend []).host.pba) := by decide +kernel

theorem witness_CompletionPlaces :
    let s : State := { ringState enabled with host := { (ringState enabled).host with comps := [comp0 none] } }
    firstComp s.host.comps = some (comp0 none) ∧ s.compReady (comp0 none) = true ∧ s.hostOk = true ∧ s.host.waiting = [] ∧
      (s.ring 63).pass = (comp0 none).pass := by decide +kernel

/-- The command queue holds one packet: opcode, and words 2 on. -/
def packet (op : Nat) (ws : List Nat) (len : Nat) : Packet := ⟨(op + 2 ^ 16) :: ws, len, true⟩

theorem witness_MailboxCommands :
    let s (p : Packet) : State := { up with host := { up.host with packets := [p] } }
    let far (im : Image) (bad : Sparse BadUnit) (p : Packet) : State :=
      { s p with bad := bad, boot := { up.boot with mode := .run, image := some { im with far := some (0, 65536) } } }
    let map (first count : Nat) := packet 1 [first, count, 0, 0] 24
    let open_ (ws : List Nat) : State := s ⟨ws, 0, false⟩
    let bad : State := { up with host := { up.host with cmdBad := true } }
    let rd (t : State) := t.readMem 0 16 t.cyc
    let es (t : State) := [bytesAt (rd t).2.1 0 16]
    let good := far { image0 with regions := [region0] } [] (map 65535 1)
    let wrong : State := { good with hbm := Memory.write [] 0 [4] }
    (up.awake = true ∧ up.host.cmdBad = false ∧ up.openPacket = none ∧ 8 ≤ up.cmdSpace) ∧
    ((open_ [5]).openPacket = some ⟨[5], 0, false⟩ ∧ 4 ≤ (open_ [5]).cmdSpace) ∧
    (12 ≤ (⟨[0, 0], 0, false⟩ : Packet).bytes ∧ (⟨[0], 0, false⟩ : Packet).bytes < 12 ∧ natBit (1 : Word).toNat 0 = true) ∧
    (up.bit A.mbxHdb 0 = false ∧ up.host.acks = [] ∧ bad.host.cmdBad = true) ∧
    (∀ p ∈ [packet 0 [0] 12, packet 3 [0] 12, map 0 0, map 65535 2, map 65535 1, packet 2 [0] 12], (s p).nextCmd = some p) ∧
    ((map 0 0).len = 24 ∧ (map 0 0).words.getD 2 0 = 0 ∧ (map 65535 2).words.getD 2 0 = 2 ∧ 65536 < 65535 + 2) ∧
    ((rd (far image0 [] (map 65535 1))).2.2.2 = true) ∧
    ((rd good).2.2.2 = false ∧ (rd good).2.2.1.any id = false ∧ (es good).any badFarEntry = false ∧ (rd wrong).2.2.2 = false ∧
      (rd wrong).2.2.1.any id = false ∧ (es wrong).any badFarEntry = true) ∧
    (up.host.nvme = [] ∧ good.nextCmd = some (map 65535 1)) := by decide +kernel

theorem witness_MailboxCommands_answers :
    let acked : State := { up with host := { up.host with acks := [⟨7, 0⟩] } }
    let bell : State := { (up.setBit A.mbxHdb 5).setReg A.mbxHdbMask (2 ^ 5) with
      host := { up.host with busMaster := true, unmasked := [0] } }
    let r : FarRead := ⟨0, 7, 0, 1, 0, 0, 0, 64, [], 3⟩
    let now : State := { up.setBit A.mbxHdb 0 with sets := [(A.mbxHdb, 0, up.cyc)] }
    acked.host.acks = [⟨7, 0⟩] ∧ up.host.acks = [] ∧ natBit (up.setNow A.mbxHdb) 0 = false ∧ natBit (now.setNow A.mbxHdb) 0 = true ∧
    now.bit A.mbxHdb 0 = true ∧
    (∃ i < 32, natBit (bell.reg A.mbxHdbMask) i = true ∧ natBit (0 : Word).toNat i = false ∧ bell.bit A.mbxHdb i = true) ∧
    (bell.host.fmask = false ∧ bell.hostOk = true ∧ bell.host.waiting = [] ∧ bell.field A.mbxCfg 10 0 ∈ bell.host.unmasked) ∧
    (({ Far.reset with reads := [r] } : Far).reads.find? fun r => decide (r.kind = 1 ∧ r.tagNo = 3)) = some r := by decide +kernel

/-- A module whose MCTP session stands as given. -/
def sessState (x : Session) : State := { up with sec := { up.sec with mctp := x } }

theorem witness_SpdmSessions :
    let x : Session := { Session.reset with version := true, caps := true, algs := true }
    up.responds = true ∧ (up.session .mctp).version = false ∧ (up.session .mctp).caps = false ∧ (up.session .mctp).algs = false ∧
    ((sessState x).responds = true ∧ ((sessState x).session .mctp).algs = true ∧ ((sessState x).session .mctp).state = .none) ∧
    ((sessState { x with state := .handshaking }).session .mctp).state = .handshaking ∧
    ((sessState { x with state := .secured }).session .mctp).state = .secured ∧ 7 < (BitVec.ofNat 8 8).toNat := by decide +kernel

theorem witness_SecureOperations :
    let x : Session := { Session.reset with state := .secured, mutual_ := true, keyDigest := [1] }
    let s := sessState x
    let own : State := { s with flash := { s.flash with keys := [some [1], none, none, none] } }
    let busy : State := { s with sec := { s.sec with running := some 2 } }
    let weak := sessState { x with mutual_ := false }
    s.responds = true ∧ s.secured .mctp = true ∧ s.sec.running = none ∧ busy.sec.running = some 2 ∧ up.secured .mctp = false ∧
    s.mayKey .mctp true = true ∧ weak.mayKey .mctp true = false ∧ own.mayKey .mctp false = true ∧ s.mayKey .mctp false = false ∧
    (zeroBytes 388).length = 388 ∧ 3072 < (zeroBytes 3073).length ∧ copySize - 3072 + (zeroBytes 3072).length ≤ copySize := by decide +kernel

theorem witness_SecureOperationsComplete :
    let x : Session := { Session.reset with state := .secured, mutual_ := true, keyDigest := [1] }
    let s := sessState x
    let own : State := { s with flash := { s.flash with keys := [some [1], none, none, none] } }
    let busy : State := { s with sec := { s.sec with running := some 2 } }
    (s.responds = true ∧ s.secured .mctp = true ∧ s.sec.running = none ∧ s.mayKey .mctp true = true ∧ (zeroBytes 388).length = 388) ∧
    (own.responds = true ∧ own.secured .mctp = true ∧ own.sec.running = none ∧ own.mayKey .mctp false = true) ∧
    (0x1F4E : BitVec 16).toNat = s.host.pci.vendor ∧ ([6] : List Byte) ≠ [1] ∧ (0x1F4F : BitVec 16).toNat ≠ s.host.pci.vendor ∧
    (busy.alive = true ∧ busy.sec.running = some 2) := by decide +kernel

theorem witness_EventLogPlaces :
    let e : Event := ⟨0x0402, 0, 0, 5, []⟩
    let l : Log := { Log.reset with held := [e] }
    let full : Log := { l with wptr := logSize, wptr2 := logSize }
    let crowd : Log := { full with full := List.replicate 256 e }
    (l.rptr = l.rptr2 ∧ l.wptr = l.wptr2 ∧ l.full = [] ∧ firstEvent l.held = some e ∧ l.lostNow = 0 ∧ l.fits (e.record false).length = true ∧
      l.padFor (e.record false).length = 0) ∧
    (full.wptr = full.wptr2 ∧ full.fits (e.record false).length = false ∧ full.used ≠ 0) ∧
    (({ l with full := [e] } : Log).lostNow = 0 ∧ ({ l with full := [e] } : Log).fits (e.record false).length = true) ∧
    (crowd.full.length = 256 ∧ firstEvent crowd.held = some e ∧ crowd.full.head? = some e) ∧
    (({ l with lostNow := 1 } : Log).lostNow ≠ 0 ∧ ({ l with lostNow := 1 } : Log).fits 32 = true) ∧
    (natBits (0 : Word).toNat 18 0 = up.log.wptr ∧ up.awake = true ∧ natBits (32 : Word).toNat 18 0 ≠ up.log.wptr ∧ 32 ∉ up.log.starts) ∧
    ({ Log.reset with rptr := 32 } : Log).rptr ≠ ({ Log.reset with rptr := 32 } : Log).rptr2 := by decide +kernel

theorem witness_EventLogPlaces_due :
    let e : Event := ⟨0x0402, 0, 0, 5, []⟩
    let s (l : Log) : State := { up with log := l }
    let l : Log := { Log.reset with held := [e] }
    let full : Log := { l with wptr := logSize, wptr2 := logSize }
    let crowd : Log := { full with full := List.replicate 256 e }
    firstEvent (s l).log.held = some e ∧ (s l).cyc < (s l).reach (e.count + 64) ∧ Log.reset.held = [] ∧
    ∀ k ∈ [l, full, { l with full := [e] }, crowd], (s k).logDue.log = k ∧ (s k).logDue.cyc = (s k).reach (e.count + 64) := by decide +kernel

theorem witness_HostAccesses :
    let rd := up.readMem (up.bar2Addr 0) 64 up.cyc
    let im : State := { up with boot := { up.boot with mode := .run, image := some { image0 with
      regions := [{ region0 with hostWrite := false }] } } }
    let stopped : State := { up with power := { up.power with stopped := true } }
    let un := (inShot up).readMem ((inShot up).bar2Addr 0) 64 up.cyc
    let waits : State := { up with host := { up.host with bar2 := [⟨0, 64, 10⟩] } }
    let row : RegRow := ⟨A.fabSubst, 1, 134217728, 1, 134217728, 1, 134217728, 0x0, 0xF, 0x0, 0x0⟩
    (up.awake = true ∧ up.clocked = true ∧ up.bar2Addr 0 + 64 ≤ 2 ^ 41 ∧ rd.2.2.1.any id = false ∧ rd.2.2.1.length = rd.2.1.length) ∧
    (un.2.2.2 = true ∧ (inShot up).bit A.glbHostErr 28 = false ∧ stopped.clocked = false ∧ waits.host.bar2 = [⟨0, 64, 10⟩]) ∧
    (up.bar2Takes 0 = true ∧ im.bar2Addr 0 = 0 ∧ im.bar2Takes 0 = false ∧ (im.locate 0).isSome = true ∧ im.bit A.glbHostErr 31 = false) ∧
    (badAccess 4 8 = true ∧ badAccess 0 2 = true ∧ badAccess 8 8 = false) ∧
    (isWideLow A.glbTimeLo = true ∧ isWideLow A.glbTimeHi = false ∧ isWideLow A.cfgDigest = true ∧ upperWords A.cfgDigest = 7) ∧
    (regRow A.fabSubst = some row ∧ (A.fabSubst < 0x80000 ∨ 0x88000 ≤ A.fabSubst) ∧ A.fabSubst < 0x1000000 ∧ ownRegister row = false ∧
      (5 : Word).toNat &&& actionBits row = 0) ∧
    ((regRow (ringReg A.glbRingCfg 0)).map ownRegister = some true) ∧
    ((regRow (stallReg A.stlOpeErr 639)).map (fun r => r.base) = some A.stlOpeErr) := by decide +kernel

theorem witness_AuxiliaryPort :
    let c : NvmeCmd := ⟨5, 1, 2, 1, 0, 1, .far 0 7⟩
    let r : FarRead := ⟨0, 7, 0, 2, 0, 0, 0, 64, [], 3⟩
    let s : State := { up with host := { up.host with nvme := [c], auxUp := true }, far := { Far.reset with reads := [r] } }
    let tag : State := { up with host := { up.host with nvmeTag := some 65535 } }
    let rd := s.readMarked (2 ^ 41 - 64) 64 s.cyc
    (s.host.nvme.find? fun c => c.cid = 5) = some c ∧
      (s.far.reads.find? fun r => decide (r.kind = 2 ∧ r.stall = 0 ∧ r.id = 7)) = some r ∧ s.awake = true ∧ s.host.auxUp = true ∧
      up.host.nvmeTag = none ∧ tag.host.nvmeTag = some 65535 ∧ tag.bit A.mbxHdb 0 = false ∧ tag.host.acks = [] ∧
      rd.2.2.any id = false ∧ rd.2.2.length = rd.2.1.length ∧ up.crossing cdcAux 0 = false := by decide +kernel


/-! ### Hypotheses of the statements about images, resets, authority and power -/

theorem witness_ImagesComeAndGo :
    let len := up.reg A.cfgImgLen
    let m := (up.putBit A.cfgStatus 28 false).stagedBytes 0 len
    let s := inShot up
    let idle : State := { s with shot := { s.shot with begun := false } }
    up.awake = true ∧ (up.boot.mode = .ready ∧ up.boot.image = none ∧ up.boot.releasing = 0 ∧
      image0.decoded = image0 ∧ m.1.imageCheck image0 m.2 len = some ⟨0x0101, 0xFFFF, some 0⟩) ∧
    (s.boot.image.isSome = true ∧ natBit (0xC0000000 : Word).toNat 31 = true ∧ natBit (0xC0000000 : Word).toNat 30 = true) ∧
    (s.boot.releasing = 0 ∧ s.ckpt.restore = none ∧ s.ckpt.repairs = [] ∧ s.fencesOpen = true ∧ s.neverBegan = false ∧
      idle.neverBegan = true ∧ idle.host.runs = [] ∧ idle.train.passes = []) ∧
    (s.shot.begun = true ∧ s.shot.gone = none ∧ s.safe.abort = none ∧ s.bit A.glbAudit 0 = false) ∧
    (s.crossing cdcHost 1 = false ∧ ({ s with cdc := sset zeroNat [] (64 * cdcHost + 1) 1000 } : State).crossing cdcHost 1 = true) := by
  decide +kernel

/-- A start-up that finds nothing amiss. -/
def start0 : StartFindings := ⟨some (0, 0), some (0, 0), none, [], [], true, true⟩

theorem witness_ResetsStartAnew :
    let r := State.reset
    let on : State := { r with power := { r.power with pwrEn := true, vin := 40000 } }
    let lock : State := { r with power := { r.power with locked := true } }
    start0.gw = some (0, 0) ∧ start0.fallback = none ∧ start0.settled = true ∧ start0.failedStacks = [] ∧ start0.badStalls = [] ∧
      swf zeroPort r.fab.ports = true ∧ (up.alive = true ∧ up.awake = true ∧ natBit (1 : Word).toNat 0 = true) ∧
      (r.alive = false ∧ r.power.pwrEn = false ∧ 46000 ≤ r.power.vin ∧ r.power.locked = false) ∧
      (lock.power.locked = true ∧ lock.cyc < lock.power.lowSince + 175000000) ∧
      (on.alive = false ∧ on.power.pwrEn = true ∧ on.power.locked = false) := by decide +kernel

theorem witness_AuthorityToken :
    let gone : State := { up with boot := { up.boot with gwSilent := true, token := 0b10 } }
    let split : State := { up with boot := { up.boot with split := true } }
    up.awake = true ∧ natBit (0x80000000 : Word).toNat 31 = true ∧ up.boot.gwSilent = false ∧ up.boot.token = 0b01 ∧
      up.boot.image = none ∧ ((inShot up).boot.image.isSome = true ∧ (inShot up).shot.begun = true) ∧ gone.boot.gwSilent = true ∧
      gone.boot.token ≠ 0b01 ∧ up.boot.split = false ∧ up.shot.begun = false ∧ split.boot.split = true := by decide +kernel

/-- Sensor 75 as given. -/
def sensorState (x : Sensor) : State := { up with power := { up.power with sensors := sset zeroSensor [] 75 x } }

theorem witness_CutsAndTemperature :
    let hot := sensorState ⟨1760, true, 0, 2, false⟩
    let warm := sensorState ⟨1440, true, 0, 0, false⟩
    let hold (s : State) : State := { s with boot := { s.boot with mode := .hold } }
    (1 ≤ (6 : BitVec 4).toNat ∧ (6 : BitVec 4).toNat ≤ 6 ∧ up.alive = true ∧ 6 < (7 : BitVec 4).toNat) ∧
    (up.awake = true ∧ inputOk 46000 = true ∧ inputOk 56000 = true ∧ inputOk 45999 = false ∧ inputOk 56001 = false) ∧
    (validReading 75 1760 = true ∧ 75 ∈ sampled ∧ (∀ i < 76, (up.sensor i).hot < 2) ∧ ((sensorState ⟨1760, true, 0, 1, false⟩).sensor 75).hot = 1 ∧
      2 ≤ (hot.sensor 75).hot ∧ up.power.thermOut = false) ∧
    (((sensorState ⟨0, false, 3, 0, false⟩).sensor 75).failed = false ∧ 3 ≤ ((sensorState ⟨0, false, 3, 0, false⟩).sensor 75).bad) ∧
    (up.boot.mode ≠ .hold ∧ ((hold warm).junctions.any fun x => decide (1440 ≤ x)) = true ∧
      ((hold up).junctions.any fun x => decide (1440 ≤ x)) = false ∧ (hold up).boot.mode = .hold ∧ (hold up).host.bar2 = [] ∧
      (hold up).awake = true) := by decide +kernel

theorem witness_EnergyAndSideband :
    let s := inShot up
    let above : State := { up with power := { up.power with runAbove := 9765 }, boot := { up.boot with image := some image0 } }
    up.awake = true ∧ 4800 * 1024 < 4915201 ∧ (s.shot.begun = true ∧ s.shot.margin = false ∧ s.cyc ≤ s.marginAt ∧ s.shot.fail = none) ∧
      (above.boot.image.isSome = true ∧ above.power.runAbove + 1 = 9766) ∧ natBit (0x40000000 : Word).toNat 30 = true ∧ up.alive = true ∧
      up.crossing cdcSideband 0 = false ∧ up.crossing cdcPmbus 0 = false := by decide +kernel

theorem witness_StepTakesTheFront : State.reset.pending = [] := rfl

theorem witness_StepKeepsCanonical :
    MemoryOk up ∧ BanksOk up ∧ Memory.wf [(0, 1), (2 ^ 41, 255)] = true ∧ Memory.wf [(0, 0)] = false := by
  unfold MemoryOk BanksOk; decide +kernel

theorem witness_FramePayloads :
    wellFormed (.writeFrame 0 { Frame.blank with length := 1792, payload := zeroBytes 1792 }) = true := by decide +kernel

theorem witness_BlockMap :
    up.awake = true ∧ ∀ a ∈ [0x650000, 0x6FFFFC, 0x980000, 0xFFFFFC, 0x2000000, 0x3FFFFFC, 0x1180000, 0x1FFFFFC],
      (0x650000 ≤ a ∧ a < 0x700000) ∨ (0x980000 ≤ a ∧ a < 0x1000000) ∨ (0x2000000 ≤ a ∧ a < 0x4000000) ∨
        (0x1000000 ≤ a ∧ a < 0x2000000 ∧ 0x180000 ≤ a % 0x200000) := by decide +kernel

theorem witness_ReturnStack :
    ctlLegal 0 (word 0x05 0) = true ∧ opcodeOf (word 0x05 0) = 0x05 ∧ ctlLegal 0 (word 0x04 (1 * 2 ^ 31 + 2 ^ 15)) = true ∧
      ctlLegal 0 (word 0x06 0) = true ∧ opcodeOf (word 0x06 0) = 0x06 := by decide +kernel

theorem witness_HostFences :
    let v : Word := 0x800003CF
    let i := natBits v.toNat 9 7 * 80 + natBits v.toNat 6 0
    let old : State := { up with safe := { up.safe with fenced := [i] } }
    let asked : State := { inShot up with safe := { up.safe with requests := [i] } }
    up.awake = true ∧ natBit v.toNat 31 = true ∧ natBits v.toNat 6 0 < 80 ∧ up.fencesOpen = true ∧ i ∉ up.safe.fenced ∧ i ∈ old.safe.fenced ∧
      (inShot up).boot.mode = .run ∧ up.boot.mode ≠ .run ∧ i ∈ asked.safe.requests ∧ asked.shot.begun = true ∧
      asked.shot.margin = false ∧ asked.fencesOpen = true := by decide +kernel


/-! ### A signed image (R438 to R442) -/

/-- The modulus of a signer made for this test, and its signature over `imageBody` (made outside Lean with openssl). -/
def testModulus : List Byte :=
    beBytes 48 0xc9327858d6df01244cd90cbe540918971518b1ae222158ef96a89744f3a76ab4cd060acb5d9e9808588b6e8054df802f ++
    beBytes 48 0xeaec8eae4600fc6dc25a79efa69c3c0c83e7e80bf831a17bdbe926de6f5984bc97a6a61e4dab2d33d6a7583271cf1c97 ++
    beBytes 48 0xe210ca9e90cadcf82c2e4eb1a6704ddb290aacf3c122cd878eb539313d1a6fe825f7c29b97f3223ee9abf81d8b1ce267 ++
    beBytes 48 0xd85473997f782067d5de897eb1cdb0c6d67bba6f9441f8bfca9e2a971ef81ad5b64d6cdea8b94b1cd95b9a77d9cbf039 ++
    beBytes 48 0xf1235c0db478569945814bd7a2efcf98e9e2d2a2b14a6b7a0eda5cfc90455bc46a56c74d7a95ec86e5e6b3f271fa6bb6 ++
    beBytes 48 0xfaca40bf13bd43ed9177bfdbb2d75dc6b5799c3348617d4615d64446c644f220144fc3ec651367e705d9faef06fd5f90 ++
    beBytes 48 0x38daae919b73cbf890bbf210149d5371b50e764edb1ec6f4537015ebf43ff2033c1da08a89dcedbdce95f36d33bef1f2 ++
    beBytes 48 0xe1b3af1f3f229dd1d2115e6df2a41813b751c48a5f315fe2adefc379882dae5c01aca795ecf0b72595ed3f26b5760c49

def testSignature : List Byte :=
    beBytes 48 0x6d34fae53b42dabae50688aa21db57b4d59310832b53c52de795143d76d65badcd95e60fb45f27b92ffed432a70cd683 ++
    beBytes 48 0xba22d30070d882185aca93d7dd564d4d4d8b4801da1450f6b19aadcdd7f5826fd7467bd6537c637cb033a4900efd10e8 ++
    beBytes 48 0xe43f8f57905311002f5cb9edd3b1f017aeae10c01cf16d6416d21a7076b3261edd94223c9efe3cb893e73d0c09a72d0e ++
    beBytes 48 0x13457f742c99632a374d5b1e6c589a9fd4e3511a23f1e5522e9ae8603510027260c7f3f659b2cd10eae8796c6e26ea9c ++
    beBytes 48 0xbcd91d21ccd98b8c2f0bca4f7278d07790ad048ce0734a8502177214b07492d4fe2f3a93162c9d1f754382a1a79ef440 ++
    beBytes 48 0xccc580928cb2916f502aea12c578ae079141bfb525f44e9db90690a85cf2d2d3c143987bdb27d59927b04dbec70242ee ++
    beBytes 48 0x02b325508073d595d91752dc251c5a364874df6273f1a1242eaf0880e5b10d8cb509e6efd052fd0d33f130f043c67d5a ++
    beBytes 48 0x36c4d04a1414a968fa5e0a656ead917b24e048cab0bb54c946562ef3044a3c93ae247045f1ab31aa86e852d25d729f0f

/-- A section table entry. -/
def tableEntry (kind index off len : Nat) : List Byte :=
  leBytes 2 kind ++ leBytes 2 index ++ zeroBytes 4 ++ leBytes 8 off ++ leBytes 8 len ++ zeroBytes 8

/-- Header, the table of the 15 sections that an image must hold, and the POWER section, all other sections being empty. -/
def imageBody : List Byte :=
  bytesAt (bytesAt (leBytes 4 0x52534D45 ++ leBytes 2 1 ++ leBytes 2 15 ++ leBytes 8 4096) 0 64 ++
    tableEntry 1 0 1024 0 ++ tableEntry 2 0 1088 0 ++ tableEntry 3 0 1152 0 ++ tableEntry 4 0 1216 0 ++
    ((List.range 8).map fun b => tableEntry 5 b (1280 + 64 * b) 0).flatten ++
    tableEntry 7 0 1792 0 ++ tableEntry 0x0B 0 1856 0 ++ tableEntry 0x0D 0 1920 128) 0 1920 ++
  bytesAt (leBytes 2 1000 ++ leBytes 2 100 ++ leBytes 1 16) 0 1152

def imageBytes : List Byte := imageBody ++ testModulus ++ beBytes 4 65537 ++ zeroBytes 252 ++ testSignature

/-! ### Staged bytes. The staged bytes are the image's: a memory that lists the bytes of a list reads as that list. -/

/-- A memory that holds the bytes of a list from address n on. -/
def cellsFrom : Nat → List Byte → Memory
  | _, [] => []
  | n, b :: t => if b = 0 then cellsFrom (n + 1) t else (n, b) :: cellsFrom (n + 1) t

theorem get_cellsFrom (l : List Byte) (n k : Nat) :
    sget zeroByte (cellsFrom n l) k = if n ≤ k then l.getD (k - n) 0 else 0 := by
  induction l generalizing n with
  | nil => simp [cellsFrom, sget, zeroByte]
  | cons b t ih =>
    rcases Nat.lt_trichotomy k n with h | h | h
    · by_cases hb : b = 0#8 <;> simp [cellsFrom, hb, sget, ih, show ¬ n ≤ k by omega, show ¬ n + 1 ≤ k by omega, show k ≠ n by omega]
    · subst h; by_cases hb : b = 0#8 <;> simp [cellsFrom, hb, sget, ih]
    · obtain ⟨j, rfl⟩ : ∃ j, k = n + 1 + j := ⟨k - (n + 1), by omega⟩
      have e : n + 1 + j - n = j + 1 := by omega
      by_cases hb : b = 0#8 <;> simp [cellsFrom, hb, sget, ih, e, show n ≤ n + 1 + j by omega, show n + 1 + j ≠ n by omega]

theorem read_cellsFrom (l : List Byte) (k n : Nat) (h : k + n ≤ l.length) :
    (cellsFrom 0 l).read k n = (l.drop k).take n := by
  apply List.ext_getElem
  · simp [Memory.read, sgetList]; omega
  · intro i h1 h2
    have hi : k + i < l.length := by simp at h2; omega
    simp [Memory.read, sgetList, get_cellsFrom, List.getElem_drop, List.getElem?_eq_getElem hi]

theorem readUnits_clean (s : State) (l : List Byte) (x : Nat) (hb : s.bad = []) (hp : (s.stack 0).pony = []) (hm : s.hbm = cellsFrom 0 l) :
    ∀ n k, 32 * k + 32 * n ≤ l.length → l.length ≤ 2 ^ 36 →
      s.readUnits 0 x (32 * k) n = (s, (l.drop (32 * k)).take (32 * n), List.replicate (32 * n) false) := by
  intro n
  induction n with
  | zero => intro k _ _; simp [State.readUnits]
  | succ n ih =>
    intro k h hl
    have hu : s.readUnit 0 (32 * k) x = (s, (l.drop (32 * k)).take 32, false) := by
      have hk : hkey 0 (32 * k / 32 * 32) = 32 * k := by simp only [hkey]; omega
      simp only [State.readUnit, State.decodeUnit, State.ponyMerge, hb, hp, sget, noBad, State.unitBytes, hk, hm,
        read_cellsFrom l (32 * k) 32 (by omega), List.find?_nil]
    have e : 32 * k + 32 = 32 * (k + 1) := by ring
    rw [State.readUnits, hu]
    simp only [e, ih (k + 1) (by omega) hl]
    refine Prod.ext rfl (Prod.ext ?_ ?_)
    · simp only [show 32 * (n + 1) = 32 + 32 * n by ring, List.take_add, List.drop_drop, e]
    · simp only [show 32 * (n + 1) = 32 + 32 * n by ring, List.replicate_add]

theorem readStack_clean (s : State) (l : List Byte) (x k n : Nat) (hb : s.bad = []) (hp : (s.stack 0).pony = []) (hm : s.hbm = cellsFrom 0 l)
    (h : 32 * k + 32 * n ≤ l.length) (hl : l.length ≤ 2 ^ 36) :
    s.readStack 0 (32 * k) (32 * n) x = (s, (l.drop (32 * k)).take (32 * n), List.replicate (32 * n) false) := by
  have e1 : 32 * k / 32 * 32 = 32 * k := by omega
  have e2 : (32 * k + 32 * n + 31) / 32 - 32 * k / 32 = n := by omega
  simp only [State.readStack, e1, e2, readUnits_clean s l x hb hp hm n k h hl, Nat.sub_self, List.drop_zero, List.take_take, Nat.min_self,
    List.take_replicate]

theorem freed_clean (l : List Byte) (k n : Nat) (h : l.length = n) :
    (((bytesAt l 0 n).zip ((List.replicate n false ++ List.replicate n true).take n)).zipIdx.map
      fun p => if p.1.2 then Config.withheld k p.2 else p.1.1) = l := by
  subst h
  have hb : bytesAt l 0 l.length = l := by simp [bytesAt, zeroBytes]
  rw [hb, List.take_append_of_le_length (by simp), List.take_of_length_le (by simp)]
  apply List.ext_getElem
  · simp
  · intro i h1 h2; simp

theorem staged_clean (s : State) (l : List Byte) (hb : s.bad = []) (hp : (s.stack 0).pony = []) (hm : s.hbm = cellsFrom 0 l)
    (hi : s.boot.image = none) (h : l.length = 4096) : s.stagedBytes 0 4096 = (s.fresh.1, l) := by
  have p : partsOf 0 4096 = [(0, 2048), (2048, 2048)] := by decide
  have r0 := readStack_clean s l s.cyc 0 64 hb hp hm (by omega) (by omega)
  have r1 := readStack_clean s l s.cyc 64 64 hb hp hm (by omega) (by omega)
  norm_num at r0 r1
  have l0 : s.locate 0 = some (0, 0) := by simp [State.locate, hi]
  have l1 : s.locate 2048 = some (0, 2048) := by simp [State.locate, hi]
  have rm : s.readMem 0 4096 s.cyc = (s, l, List.replicate 4096 false, false) := by
    simp only [State.readMem, p, List.foldl_cons, List.foldl_nil, l0, l1, r0, r1, List.nil_append]
    refine Prod.ext rfl (Prod.ext ?_ (Prod.ext ?_ rfl))
    · show l.take 2048 ++ (l.drop 2048).take 2048 = l
      rw [List.take_of_length_le (l := l.drop 2048) (by simp; omega), List.take_append_drop]
    · show List.replicate 2048 false ++ List.replicate 2048 false = _
      rw [← List.replicate_add]
  rw [State.stagedBytes]
  simp only [rm]
  refine Prod.ext rfl ?_
  exact freed_clean l s.free 4096 h

/-- READY, with the image staged at module address 0 and the digest of its signer in key slot 3. -/
def stagedState : State :=
  let s : State := { up with
    hbm := cellsFrom 0 imageBytes
    flash := { up.flash with keys := [none, none, none, some (beBytes 32 0x3b3e2c6e2b26d79b704f4a101a7bef8642cdf8dcd6e4478d129c1ff0452a171e)] } }
  s.setReg A.cfgImgLen 4096

/-- What the staged sections say: a plan of 5,000 counts with the refresh slots that R293 and R294 ask for, one profile, one overlay. -/
def stagedImage : Image :=
  let slots := (List.range 10).map (1600 + 3400 * ·) ++ [33500]
  { image0 with
    plans := [{ plan0 with
      period := 5000
      refresh := ((List.range 128).map fun k => slots.map fun c => (k / 4, k % 4, c)).flatten }]
    profiles := [⟨[], { Profile.empty with pony := List.replicate 16 (zeroBytes 16) }, 0⟩]
    overlays := [⟨0, []⟩]
    ymprogs := List.replicate 8 ⟨[], []⟩
    power := ⟨1000, 100, 16, List.replicate 18 0⟩ }

theorem staged_bytes : (stagedState.putBit A.cfgStatus 28 false).stagedBytes 0 4096 =
    ((stagedState.putBit A.cfgStatus 28 false).fresh.1, imageBytes) :=
  staged_clean _ _ rfl (by decide +kernel) rfl rfl (by decide +kernel)

theorem staged_header : headerCheck imageBytes 4096 = none ∧ tableCheck 4096 (sectionTable imageBytes) = none := by decide +kernel

theorem staged_signed : (stagedState.putBit A.cfgStatus 28 false).fresh.1.signCheck imageBytes 4096 = none := by decide +kernel

theorem staged_sections :
    firstFound ((stagedState.putBit A.cfgStatus 28 false).fresh.1.sectionChecks stagedImage imageBytes (sectionTable imageBytes)) = none := by
  decide +kernel

theorem imageCheck_none {s : State} {im : Image} {bs : List Byte} {n : Nat} (h : headerCheck bs n = none)
    (ht : tableCheck n (sectionTable bs) = none) (hs : s.signCheck bs n = none)
    (hc : firstFound (s.sectionChecks im bs (sectionTable bs)) = none) : s.imageCheck im bs n = none := by
  rw [State.imageCheck, h]
  simp only [ht, hs, hc]

theorem staged_admits {m : State × List Byte} (h : m = ((stagedState.putBit A.cfgStatus 28 false).fresh.1, imageBytes)) :
    m.1.imageCheck stagedImage m.2 4096 = none := by
  subst h
  exact imageCheck_none staged_header.1 staged_header.2 staged_signed staged_sections

theorem witness_ImagesComeAndGo_admission :
    let m := (stagedState.putBit A.cfgStatus 28 false).stagedBytes (stagedState.wide A.cfgImgAddrLo A.cfgImgAddrHi) 4096
    stagedState.reg A.cfgImgLen = 4096 ∧ stagedState.awake = true ∧ stagedState.boot.mode = .ready ∧ stagedState.boot.image = none ∧
      stagedState.boot.releasing = 0 ∧ stagedImage.decoded = stagedImage ∧ m.1.imageCheck stagedImage m.2 4096 = none := by
  have a : stagedState.wide A.cfgImgAddrLo A.cfgImgAddrHi = 0 := by decide +kernel
  refine ⟨by decide +kernel, by decide +kernel, rfl, rfl, rfl, by decide +kernel, ?_⟩
  exact staged_admits (by rw [a, staged_bytes])

/-! ### Ill-formed commands, one for each check -/

theorem test_refuses_frames :
    let f := frame0 0 0
    wellFormed (.writeFrame 0 f) = true ∧
    ([{ f with payload := zeroBytes 1793, length := 1793 }, { f with length := f.length + 1 }, { f with kind := 256 }, { f with flags := 256 },
      { f with src := 65536 }, { f with dst := 65536 }, { f with window := 256 }, { f with hops := 256 }, { f with gen := 65536 },
      { f with lseq := 65536 }, { f with number := 65536 }, { f with offset := 2 ^ 48 }, { f with pgroup := 65536 }, { f with sigma := 2 ^ 32 },
      { f with whenC := 2 ^ 29 }, { f with whenS := 8 }].all fun g =>
      !wellFormed (.writeFrame 0 g) && !wellFormed (.csumFrame 0 g) && !wellFormed (.exchFrame 0 g) && !wellFormed (.readReq 0 g) &&
        !wellFormed (.readResp 0 g) && !wellFormed (.ackFrame 0 g) && !wellFormed (.nackFrame 0 g) && !wellFormed (.linkFrame 0 g) &&
        !wellFormed (.tickFrame 0 g) && !wellFormed (.requestFrame 0 g) && !wellFormed (.unknownFrame 0 g)) = true := by decide +kernel

theorem test_refuses_host_accesses :
    wellFormed (.ringFetch 0 (zeroBytes 64) true) = true ∧ wellFormed (.ringFetch 0 (zeroBytes 63) true) = false ∧
    wellFormed (.bar2Read 0 512) = true ∧ wellFormed (.bar2Read 0 0) = false ∧ wellFormed (.bar2Read 0 513) = false ∧
    wellFormed (.bar2Read (2 ^ 41) 4) = false ∧ wellFormed (.bar2Write 0 []) = false ∧ wellFormed (.bar2Write (2 ^ 41) [0]) = false ∧
    wellFormed (.bar0BadAccess 2 4 true) = true ∧ wellFormed (.bar0BadAccess 8 2 false) = true ∧
    wellFormed (.bar0BadAccess 4 4 true) = false ∧ wellFormed (.bar0BadAccess 0x4000000 2 true) = false ∧
    wellFormed (.wideLowRead ⟨4, false⟩) = true ∧ wellFormed (.wideLowRead ⟨2, false⟩) = false ∧ wellFormed (.wideLowRead ⟨0x4000000, false⟩) = false ∧
    wellFormed (.wideLowRead ⟨8, true⟩) = true ∧ wellFormed (.wideLowRead ⟨4, true⟩) = false ∧ wellFormed (.registerWrite 8 ⟨0, some 0⟩) = true ∧
    wellFormed (.registerWrite 4 ⟨0, some 0⟩) = false ∧ wellFormed (.registerWrite 6 ⟨0, none⟩) = false ∧
    wellFormed (.registerWrite 0x4000000 ⟨0, none⟩) = false := by decide +kernel

theorem test_refuses_sensors :
    wellFormed (.sensorSample [(79, none), (145, some 3)]) = true ∧ wellFormed (.sensorSample [(0, none), (109, none)]) = false ∧
    wellFormed (.sensorFault 141) = false ∧ wellFormed (.sensorFault 146) = false := by decide +kernel

/-! ### Worked examples of the spec -/

/-- 03, narrowing one FP32 operand: 0x3C480000 to E4M3 at f = −8 is 0x44 (3.0). -/
theorem test_narrowing : feederRound 0 false 25 (-11 + 8) = 0x44 ∧ feederConvert fp32 0x3C480000 0 (-8) = elemOf 0 0x44 (-8) := by decide +kernel

/-- 03, two products in one cell: the sum −37 × 2^76 at anchor −20, and its drains. -/
theorem test_drains :
    let x : Acc := put160 (-9 * 2 ^ 78 - 2 ^ 76) false false
    x.v.toNat = 0xFFFFFFFFFFFFFFFFFFFDB0000000000000000000 ∧ drainElem 2 true x (-20) 0 = [0x14, 0xBE] ∧
    drainElem 4 true x (-20) 0 = [0xA1] ∧ (drainElem 0 true x (-20) 0).getD 21 0 = 0xEC := by decide +kernel

/-- 04, residue of one element: operand residues 3 and 243, both residues 173. -/
theorem test_residue :
    rho 12 (-10) = 3 ∧ rho (-6) 1 = 243 ∧ 3 * 243 * pow2mod8 84 % 255 = 189 ∧ (189 + 239) % 255 = 173 ∧
    residue160 (BitVec.ofInt 160 (-37 * 2 ^ 76)) = 173 := by decide +kernel

/-- 03, two shards, one element: 640 at anchor −10 and −384 at anchor −7 give −2,432 at anchor −10. -/
theorem test_carriers :
    let b (a e : Int) : Block := ⟨a, e :: List.replicate 31 0⟩
    blockAdd 1 (b (-10) 640) (b (-7) (-384)) = (b (-10) (-2432), false) ∧
    (blockElemBytes 1 (b (-10) (-2432))).take 5 = [0x80, 0xF6, 0xFF, 0xFF, 0xFF] := by decide +kernel

/-- 03, splitting a master weight: 77 × 2^−8 gives scale byte 0x75, code 0x7A, residual −3,145,728, and back. -/
theorem test_split :
    let p := splitBlock (⟨77, -8⟩ :: List.replicate 31 ⟨0, 0⟩)
    p.1 = 0x75 ∧ p.2.1.head? = some 0x7A ∧ p.2.2.head? = some (-3145728) ∧
      dyAdd (masterWeight 0x7A 0x75 (-3145728)) ⟨-77, -8⟩ = ⟨0, -28⟩ := by decide +kernel

/-- 10, one parameter through a step: the rates at σ = 1,500, the sign, the new weight and the new moment. -/
theorem test_parameter_step :
    let point (i : Nat) : List Byte := leBytes 4 (if i = 0 then 1000 else 3000) ++ leBytes 4 (if i = 0 then 0x39800000 else 0x39000000) ++
      leBytes 4 0x3E000000 ++ leBytes 4 0x3F600000 ++ leBytes 4 0x3F7E0000
    let r := curveAt point 2 1500
    let g : FVal := .num true 1 (-7)
    let m := (momentOf 0x3B00).1
    r = ⟨0x39600000, 0x3E000000, 0x3F600000, 0x3F7E0000⟩ ∧ signDown r g m = false ∧ (newMoment r g m).1 = 0x3AF6 ∧
      dyAdd (newWeight r ⟨77, -8⟩ false).1 ⟨-20170213, -26⟩ = ⟨0, (newWeight r ⟨77, -8⟩ false).1.e⟩ ∧
      (splitBlock ((newWeight r ⟨77, -8⟩ false).1 :: List.replicate 31 ⟨0, 0⟩)).2.2.head? = some (-3205228) := by decide +kernel

/-- 05, one weight-gradient block: largest element 13 × 2^−12, so s = −17; 83 × 2^−20 rounds to 0x52 and the largest to 0x7D. -/
theorem test_pack_values :
    blockScale 3 [.num false 83 (-20), .num false 13 (-12)] = some (-17, false) ∧
    (vecConvert 3 .near (scaleF (.num false 83 (-20)) 17)).1 = 0x52 ∧ (vecConvert 3 .near (scaleF (.num false 13 (-12)) 17)).1 = 0x7D := by
  decide +kernel

/-- 06, an input-gradient pass on transposed blocks: byte 0x454CD lies in bank 11, sector position 3, word 138. -/
theorem test_transposed_place : placeOf 0b1100 (0x454CD / 8) = (11, 3, 138) := by decide +kernel

/-- 09, one plane A group: units 1,031 and 1,032 of an interleaved region. -/
theorem test_region_place :
    let r : Region := ⟨0x400000000000, 2 ^ 30, 2 ^ 32, 2, 0, 1, false, false, 320, 160⟩
    r.locate (r.base + 2112000) = (7, 0x100010200) ∧ r.locate (r.base + 2112000 + 1536) = (8, 0x100010000) ∧ pcOf 0x100010200 = 32 := by
  decide +kernel

/-- 09, two contexts and one frame: the hand passes the pinned frame and takes frame 1, then frame 2 at once. -/
theorem test_evictor :
    let f : Far := { Far.reset with frames := [⟨40, .resident, [⟨0, 0, 0⟩], false, false⟩, ⟨41, .resident, [], false, true⟩,
      ⟨42, .resident, [], false, true⟩] }
    let p := Far.evict 6 f
    p.2 = some 1 ∧ p.1.hand = 2 ∧ (p.1.frame 2).ref = false ∧ (Far.evict 6 p.1).2 = some 2 := by decide +kernel

/-- 11, interval and methods: 392 host-reported and 8 local failure events in 100 h give λ = 4.0 per hour and p = 30. -/
theorem test_interval :
    let c : CkptPolicy := { policy0 with window := 168, priorRate := 4 * 65536, mode := 1, depth := 128, initCost := 1280000, initStep := 1550000 }
    let s : State := { up with cyc := 7 * (100 * hourCounts), ckpt := { up.ckpt with fails := List.replicate 400 (99 * hourCounts) } }
    let s := s.setField A.ckpCtrl 31 16 100
    ((s.failRate c).1 = 4 * (s.failRate c).2) ∧ s.proposal c = 30 := by decide +kernel

/-- 02, three events in one count: sources of B0.A2.S11, B7.A0.S03 and port 14; 15: source of barn 2, index 64. -/
theorem test_sources : srcStall 51 = 0x33 ∧ srcStall 563 = 0x0E03 ∧ srcPort 14 = 0x310E ∧ srcStall 224 = 0x0440 := by decide +kernel

/-- FIPS 180-4: the digest of abc begins ba7816bf and ends f20015ad. -/
theorem test_sha256 :
    (sha256 [0x61, 0x62, 0x63]).take 4 = [0xba, 0x78, 0x16, 0xbf] ∧ (sha256 [0x61, 0x62, 0x63]).drop 28 = [0xf2, 0x00, 0x15, 0xad] := by
  decide +kernel

/-! ### One command -/

/-- The next state of a command, where it has one. -/
def after (c : Instr) (s : State) : State := match exec c s with | .next t => t | _ => s

theorem test_idle : Machine.step State.reset = .next State.reset.idle := rfl

/-- R196, R203: a wait of 100 that issues at cycle 2 leaves the reference cycle at 102. -/
theorem test_ctlWait : ((after (.ctlWait 0) (stallState .reset (word 0x02 100))).stall 0).seq.ref = 102 := by decide +kernel

/-- R203: a jump to index 7. -/
theorem test_ctlJump : ((after (.ctlJump 0) (stallState .reset (word 0x03 (7 * 2 ^ 31)))).stall 0).seq.course.index = 7 := by decide +kernel

/-- R205: a call pushes the next index. -/
theorem test_ctlCall : ((after (.ctlCall 0) (stallState .reset (word 0x05 (9 * 2 ^ 31)))).stall 0).seq.course = ⟨9, [], [1]⟩ := by decide +kernel

/-- R203: the end of a program. -/
theorem test_ctlEnd : ((after (.ctlEnd 0) (stallState .reset (word 0x01 0))).stall 0).seq.state = .ended := by decide +kernel

/-- R209: an instruction with a reserved bit set is skipped, and its cycle is kept. -/
theorem test_illegal_keeps_slot :
    let t := after (.ctlNop 0) (stallState .reset (word 0x00 1))
    (t.stall 0).seq.ref = 2 ∧ (t.stall 0).seq.course.index = 1 := by decide +kernel

/-- R408: enabling a ring zeroes its counts. -/
theorem test_ringEnable :
    let t := after (.ringEnable 3 0x80000000) (up.setRing 3 { Ring.reset with tail := 5, head := 5, written := 5, fetched := 5 })
    (t.ring 3).state = .enabled ∧ (t.ring 3).tail = 0 ∧ (t.ring 3).head = 0 ∧ (t.ring 3).written = 0 := by decide +kernel

/-- R506: a write of peak_clear. -/
theorem test_peak_clear : (after (.pwrCtrlPeakClear 0xFFFFFFFF) (up.setField A.pwrPin 31 16 77)).field A.pwrPin 31 16 = 0 := by decide +kernel

end Sys2Proof.Tests
end

/-!
# What every step keeps

One inversion of a command: it answers a next state, and that state keeps what `Keeps` says. Every invariant of the block's memories,
its clock and its outward list is read off this one fact.
-/
section
namespace Sys2Proof.Machine

open Sys2Proof.Safety

/-! ### Canonical banks are determined by what they read as -/

section
variable {α : Type} [DecidableEq α] {d : Nat → α}

/-- A bank whose keys all lie above `a` reads as unlisted up to `a`. -/
theorem sget_of_swfFrom_le {a k : Nat} {m : Sparse α} (hm : swfFrom d (some a) m = true) (hk : k ≤ a) : sget d m k = d k := by
  induction m generalizing a with
  | nil => rfl
  | cons p t ih =>
    obtain ⟨b, v⟩ := p
    obtain ⟨hb, -, ht⟩ := swfFrom_cons.mp hm
    have hab : a < b := hb
    rw [sget_cons, if_neg (by omega), ih ht (by omega)]

/-- The first key of a canonical bank is the least at which it does not read as unlisted. -/
theorem head_le_of_sget_ne {lo : Option Nat} {b k : Nat} {v : α} {t : Sparse α} (hm : swfFrom d lo ((b, v) :: t) = true)
    (hk : sget d ((b, v) :: t) k ≠ d k) : b ≤ k := by
  obtain ⟨-, -, ht⟩ := swfFrom_cons.mp hm
  by_contra hlt
  rw [sget_cons, if_neg (by omega), sget_of_swfFrom_le ht (by omega)] at hk
  exact hk rfl

/-- The first key of a canonical bank does not read as unlisted. -/
theorem sget_head_ne {lo : Option Nat} {b : Nat} {v : α} {t : Sparse α} (hm : swfFrom d lo ((b, v) :: t) = true) :
    sget d ((b, v) :: t) b ≠ d b := by
  rw [sget_cons, if_pos rfl]
  exact (swfFrom_cons.mp hm).2.1

/-- Canonical banks that read alike are equal. -/
theorem swfFrom_ext {m n : Sparse α} {lo lo' : Option Nat} (hm : swfFrom d lo m = true) (hn : swfFrom d lo' n = true)
    (h : ∀ k, sget d m k = sget d n k) : m = n := by
  induction m generalizing lo lo' n with
  | nil =>
    cases n with
    | nil => rfl
    | cons q u => exact absurd (h q.1).symm (sget_head_ne hn)
  | cons p t ih =>
    cases n with
    | nil => exact absurd (h p.1) (sget_head_ne hm)
    | cons q u =>
      obtain ⟨a, v⟩ := p
      obtain ⟨b, w⟩ := q
      have hab : a = b := le_antisymm (head_le_of_sget_ne hm (h b ▸ sget_head_ne hn)) (head_le_of_sget_ne hn (h a ▸ sget_head_ne hm))
      subst hab
      obtain ⟨-, -, ht⟩ := swfFrom_cons.mp hm
      obtain ⟨-, -, hu⟩ := swfFrom_cons.mp hn
      have hvw : v = w := by simpa using h a
      have htu : t = u := ih ht hu fun k => by
        by_cases hk : k = a
        · rw [sget_of_swfFrom_le ht hk.le, sget_of_swfFrom_le hu hk.le]
        · simpa [hk] using h k
      rw [hvw, htu]

end

/-! ### Every command, every step -/

/-- Every command answers a next state, which keeps the queue, the canonical forms and the bounds of `Keeps`. -/
theorem exec_keeps (c : Instr) (s : State) : ∃ t, exec c s = .next t ∧ Keeps s t := by
  cases c with
  | ctlNop st => exact execCtlNop_keeps st s
  | ctlEnd st => exact execCtlEnd_keeps st s
  | ctlWait st => exact execCtlWait_keeps st s
  | ctlJump st => exact execCtlJump_keeps st s
  | ctlLoop st => exact execCtlLoop_keeps st s
  | ctlCall st => exact execCtlCall_keeps st s
  | ctlRet st => exact execCtlRet_keeps st s
  | ctlSubst st => exact execCtlSubst_keeps st s
  | ctlCsave st => exact execCtlCsave_keeps st s
  | ctlCrest st => exact execCtlCrest_keeps st s
  | synBar st => exact execSynBar_keeps st s
  | barrierRelease id => exact execBarrierRelease_keeps id s
  | barrierLate id => exact execBarrierLate_keeps id s
  | opeAcc st => exact execOpeAcc_keeps st s
  | opeLddesc st => exact execOpeLddesc_keeps st s
  | opePreload st => exact execOpePreload_keeps st s
  | opeDrain st => exact execOpeDrain_keeps st s
  | opeSave st => exact execOpeSave_keeps st s
  | opeRestore st => exact execOpeRestore_keeps st s
  | opeShape st => exact execOpeShape_keeps st s
  | opeKeepwarm st => exact execOpeKeepwarm_keeps st s
  | residueVerdict st => exact execResidueVerdict_keeps st s
  | vecOp st => exact execVecOp_keeps st s
  | vecCvt st => exact execVecCvt_keeps st s
  | vecFunc st => exact execVecFunc_keeps st s
  | vecDfunc st => exact execVecDfunc_keeps st s
  | vecMaskf st => exact execVecMaskf_keeps st s
  | vecMaskb st => exact execVecMaskb_keeps st s
  | vecDrop st => exact execVecDrop_keeps st s
  | vecLadd st => exact execVecLadd_keeps st s
  | vecPack st => exact execVecPack_keeps st s
  | vecUnpack st => exact execVecUnpack_keeps st s
  | vecCadd st => exact execVecCadd_keeps st s
  | vecHist st => exact execVecHist_keeps st s
  | vecHstore st => exact execVecHstore_keeps st s
  | vecSeta st => exact execVecSeta_keeps st s
  | vecSetk st => exact execVecSetk_keeps st s
  | vecSetr st => exact execVecSetr_keeps st s
  | laneSelftest st agree => exact execLaneSelftest_keeps st agree s
  | spdCopy st => exact execSpdCopy_keeps st s
  | spdFill st => exact execSpdFill_keeps st s
  | spdPwr st => exact execSpdPwr_keeps st s
  | bankPowerDown st bank => exact execBankPowerDown_keeps st bank s
  | bankPowerDownCancel st bank => exact execBankPowerDownCancel_keeps st bank s
  | bankWakeDone st bank => exact execBankWakeDone_keeps st bank s
  | gatherDrain st line => exact execGatherDrain_keeps st line s
  | spdIndirectRead st v => exact execSpdIndirectRead_keeps st v s
  | indirectReadSample st => exact execIndirectReadSample_keeps st s
  | spdIndirectWrite st v => exact execSpdIndirectWrite_keeps st v s
  | strStart st => exact execStrStart_keeps st s
  | strHalt st => exact execStrHalt_keeps st s
  | strPony st => exact execStrPony_keeps st s
  | strSetctx st => exact execStrSetctx_keeps st s
  | streamPieceIssue st ctx => exact execStreamPieceIssue_keeps st ctx s
  | pieceLanding st ctx arrived => exact execPieceLanding_keeps st ctx arrived s
  | runAheadStep st ctx => exact execRunAheadStep_keeps st ctx s
  | streamDeadlockCheck st ctx => exact execStreamDeadlockCheck_keeps st ctx s
  | ponyAccept st => exact execPonyAccept_keeps st s
  | ponyDelivery st => exact execPonyDelivery_keeps st s
  | baseDiePonyDrain j => exact execBaseDiePonyDrain_keeps j s
  | baseDieArrival j => exact execBaseDieArrival_keeps j s
  | ymNop b => exact execYmNop_keeps b s
  | ymEnd b => exact execYmEnd_keeps b s
  | ymWait b => exact execYmWait_keeps b s
  | ymFtab b => exact execYmFtab_keeps b s
  | ftabLoadEnd b => exact execFtabLoadEnd_keeps b s
  | ymFmt b => exact execYmFmt_keeps b s
  | formatSelectionWrite b => exact execFormatSelectionWrite_keeps b s
  | ymAnchor b => exact execYmAnchor_keeps b s
  | ymTdmaGo b v => exact execYmTdmaGo_keeps b v s
  | tackDmaWrite b st => exact execTackDmaWrite_keeps b st s
  | ymTackSwitchRequest b v => exact execYmTackSwitchRequest_keeps b v s
  | tick => exact execTick_keeps s
  | closingMargin => exact execClosingMargin_keeps s
  | moveCopyDone logical => exact execMoveCopyDone_keeps logical s
  | strikeDecay st => exact execStrikeDecay_keeps st s
  | tickLossDetect => exact execTickLossDetect_keeps s
  | auditHalt => exact execAuditHalt_keeps s
  | shotAbort => exact execShotAbort_keeps s
  | safeCtrlAbort v => exact execSafeCtrlAbort_keeps v s
  | safeFenceReqGo v => exact execSafeFenceReqGo_keeps v s
  | glbAuditRelease v => exact execGlbAuditRelease_keeps v s
  | updateWindow j agree => exact execUpdateWindow_keeps j agree s
  | updFreezeGo v => exact execUpdFreezeGo_keeps v s
  | sweepStart => exact execSweepStart_keeps s
  | snapshotSend => exact execSnapshotSend_keeps s
  | pointDurable dest => exact execPointDurable_keeps dest s
  | destTimeout dest => exact execDestTimeout_keeps dest s
  | ckpFailReport v => exact execCkpFailReport_keeps v s
  | ckpRestoreGo v src => exact execCkpRestoreGo_keeps v src s
  | restoreEnd outcome => exact execRestoreEnd_keeps outcome s
  | tensorRepair j addr => exact execTensorRepair_keeps j addr s
  | refreshSlot j q => exact execRefreshSlot_keeps j q s
  | ownTimerRefresh j pc => exact execOwnTimerRefresh_keeps j pc s
  | loftPromotionRequest => exact execLoftPromotionRequest_keeps s
  | promotionCopyDone page data => exact execPromotionCopyDone_keeps page data s
  | frameInject number frame => exact execFrameInject_keeps number frame s
  | frameForward p lseq => exact execFrameForward_keeps p lseq s
  | frameLanding number frame => exact execFrameLanding_keeps number frame s
  | exchangeResultWrite number => exact execExchangeResultWrite_keeps number s
  | writeFrame p f => exact execWriteFrame_keeps p f s
  | csumFrame p f => exact execCsumFrame_keeps p f s
  | exchFrame p f => exact execExchFrame_keeps p f s
  | readReq p f => exact execReadReq_keeps p f s
  | readResp p f => exact execReadResp_keeps p f s
  | ackFrame p f => exact execAckFrame_keeps p f s
  | nackFrame p f => exact execNackFrame_keeps p f s
  | linkFrame p f => exact execLinkFrame_keeps p f s
  | tickFrame p f => exact execTickFrame_keeps p f s
  | requestFrame p f => exact execRequestFrame_keeps p f s
  | serveDelivery id => exact execServeDelivery_keeps id s
  | linkAckTimeout p lseq => exact execLinkAckTimeout_keeps p lseq s
  | unscheduledResend number => exact execUnscheduledResend_keeps number s
  | linkDown p => exact execLinkDown_keeps p s
  | linkUp p mod port => exact execLinkUp_keeps p mod port s
  | arpRequest p addr => exact execArpRequest_keeps p addr s
  | neighborSolicitation p addr => exact execNeighborSolicitation_keeps p addr s
  | ptpSync offset => exact execPtpSync_keeps offset s
  | pdelayReq p => exact execPdelayReq_keeps p s
  | ptpMessageInterval => exact execPtpMessageInterval_keeps s
  | tickInWord w => exact execTickInWord_keeps w s
  | fabWinCtrlGo v => exact execFabWinCtrlGo_keeps v s
  | fabBindCtrlGo v => exact execFabBindCtrlGo_keeps v s
  | fabInjCtrlWrite p v => exact execFabInjCtrlWrite_keeps p v s
  | nopEntry r => exact execNopEntry_keeps r s
  | run r => exact execRun_keeps r s
  | runStart => exact execRunStart_keeps s
  | serve r => exact execServe_keeps r s
  | serveInputCopy id data ok => exact execServeInputCopy_keeps id data ok s
  | snapshotShip r => exact execSnapshotShip_keeps r s
  | ringEnable r v => exact execRingEnable_keeps r v s
  | ringDisable r v => exact execRingDisable_keeps r v s
  | dbSqTailWrite r v => exact execDbSqTailWrite_keeps r v s
  | dbCqHeadWrite r v => exact execDbCqHeadWrite_keeps r v s
  | ringFetch r data ok => exact execRingFetch_keeps r data ok s
  | completionWrite => exact execCompletionWrite_keeps s
  | hostRequestsAllowed => exact execHostRequestsAllowed_keeps s
  | msixMaskClear vector => exact execMsixMaskClear_keeps vector s
  | mbxCmdDataWrite v => exact execMbxCmdDataWrite_keeps v s
  | mbxCmdPush v => exact execMbxCmdPush_keeps v s
  | nopCommand => exact execNopCommand_keeps s
  | farMap => exact execFarMap_keeps s
  | nvmeReset => exact execNvmeReset_keeps s
  | mbxHdbClear v => exact execMbxHdbClear_keeps v s
  | mbxHdbMaskWrite v => exact execMbxHdbMaskWrite_keeps v s
  | poll t => exact execPoll_keeps t s
  | fwStage t off data => exact execFwStage_keeps t off data s
  | fwActivate t commit found => exact execFwActivate_keeps t commit found s
  | keyEnroll t slot key => exact execKeyEnroll_keeps t slot key s
  | keyRevoke t slot => exact execKeyRevoke_keeps t slot s
  | info t => exact execInfo_keeps t s
  | getVersion t version => exact execGetVersion_keeps t version s
  | getCapabilities t version => exact execGetCapabilities_keeps t version s
  | negotiateAlgorithms t supported => exact execNegotiateAlgorithms_keeps t supported s
  | getDigests t => exact execGetDigests_keeps t s
  | getCertificate t slot off len => exact execGetCertificate_keeps t slot off len s
  | challenge t slot nonce => exact execChallenge_keeps t slot nonce s
  | getMeasurements t index sign nonce => exact execGetMeasurements_keeps t index sign nonce s
  | keyExchange t mutual_ exchange => exact execKeyExchange_keeps t mutual_ exchange s
  | finish t valid keyDigest => exact execFinish_keeps t valid keyDigest s
  | heartbeat t => exact execHeartbeat_keeps t s
  | keyUpdate t => exact execKeyUpdate_keeps t s
  | endSession t => exact execEndSession_keeps t s
  | vendorDefinedRequest t secured payload => exact execVendorDefinedRequest_keeps t secured payload s
  | evtRptrWrite v => exact execEvtRptrWrite_keeps v s
  | eventLogPlace => exact execEventLogPlace_keeps s
  | evtOverflowRecord => exact execEvtOverflowRecord_keeps s
  | bar2Read off len => exact execBar2Read_keeps off len s
  | bar2ReadTimeout => exact execBar2ReadTimeout_keeps s
  | bar2Write off data => exact execBar2Write_keeps off data s
  | bar0BadAccess addr size write => exact execBar0BadAccess_keeps addr size write s
  | wideLowRead addr => exact execWideLowRead_keeps addr s
  | registerWrite addr v => exact execRegisterWrite_keeps addr v s
  | nvmeCompletion cid status data => exact execNvmeCompletion_keeps cid status data s
  | auxLinkDown => exact execAuxLinkDown_keeps s
  | cfgLoad v image => exact execCfgLoad_keeps v image s
  | cfgRelease v => exact execCfgRelease_keeps v s
  | functionLevelReset => exact execFunctionLevelReset_keeps s
  | pwrEnRise found => exact execPwrEnRise_keeps found s
  | pwrEnFall => exact execPwrEnFall_keeps s
  | perstN found => exact execPerstN_keeps found s
  | glbResetModule v found => exact execGlbResetModule_keeps v found s
  | i3cTargetReset found => exact execI3cTargetReset_keeps found s
  | groomWatchdogExpire both found => exact execGroomWatchdogExpire_keeps both found s
  | glbAuthRelease v => exact execGlbAuthRelease_keeps v s
  | tokenInconsistent token => exact execTokenInconsistent_keeps token s
  | inputVoltageExcursion mv => exact execInputVoltageExcursion_keeps mv s
  | powerCut cause => exact execPowerCut_keeps cause s
  | analogThermalTrip => exact execAnalogThermalTrip_keeps s
  | sensorSample readings => exact execSensorSample_keeps readings s
  | sensorFault index => exact execSensorFault_keeps index s
  | pwrCtrlResume v => exact execPwrCtrlResume_keeps v s
  | pwrCtrlPeakClear v => exact execPwrCtrlPeakClear_keeps v s
  | energyInterval nj => exact execEnergyInterval_keeps nj s
  | cablePresentChange p present => exact execCablePresentChange_keeps p present s
  | inputVoltageRise mv found => exact execInputVoltageRise_keeps mv found s
  | busMasterEnableClear => exact execBusMasterEnableClear_keeps s
  | hostReadCompletion tag data ok => exact execHostReadCompletion_keeps tag data ok s
  | tensorRepairDone record src ok => exact execTensorRepairDone_keeps record src ok s
  | auxLinkReady ok => exact execAuxLinkReady_keeps ok s
  | auxDeviceMemoryRequest addr len data => exact execAuxDeviceMemoryRequest_keeps addr len data s
  | secureOperationEnd => exact execSecureOperationEnd_keeps s
  | unknownFrame p f => exact execUnknownFrame_keeps p f s
  | pldmRequest type sensor => exact execPldmRequest_keeps type sensor s
  | clearFaults => exact execClearFaults_keeps s
  | dynamicAddressAssignment addr => exact execDynamicAddressAssignment_keeps addr s

/-- A step answers a next state in which every memory and bank that was canonical is so still. -/
theorem step_keeps (s : State) : ∃ t, step s = .next t ∧ (MemoryOk s → MemoryOk t) ∧ (BanksOk s → BanksOk t) := by
  cases hq : s.pending with
  | nil => exact ⟨s.idle, by simp [step, hq], id, id⟩
  | cons c rest =>
    obtain ⟨t, ht, hk⟩ := exec_keeps c { s with pending := rest }
    exact ⟨t, by simp [step, hq, ht], hk.mem, hk.banks⟩

/-- Settles O54: what a step keeps is read off its command's `Keeps`; two canonical memories list the same keys. -/
theorem stepKeepsCanonical : Obligations.StepKeepsCanonical := by
  refine ⟨fun s t hm hb hs => ?_, fun m n hm hn h => swfFrom_ext hm hn h⟩
  obtain ⟨u, hu, hmem, hbanks⟩ := step_keeps s
  obtain rfl : u = t := Host.Outcome.next.inj (hu.symm.trans hs)
  exact ⟨hmem hm, hbanks hb⟩

end Sys2Proof.Machine
end

/-!
# Bit fields

What `natBit`, `natBits`, `setBits` and `orBit` read after one another.
-/
section
namespace Sys2Proof

theorem natBit_eq_testBit (w i : Nat) : natBit w i = w.testBit i := by
  simp [natBit, Nat.testBit_eq_decide_div_mod_eq, Nat.shiftRight_eq_div_pow]

/-- The mask of a whole register has each of its bits. -/
theorem testBit_ones32 {i : Nat} (hi : i < 32) : Nat.testBit 0xFFFFFFFF i = true := by
  rw [show (0xFFFFFFFF : Nat) = 2 ^ 32 - 1 from rfl, Nat.testBit_two_pow_sub_one]
  exact decide_eq_true hi

/-- The low n bits of a number are its own. -/
theorem natBit_mod {w n i : Nat} (hi : i < n) : natBit (w % 2 ^ n) i = natBit w i := by
  simp [natBit_eq_testBit, Nat.testBit_mod_two_pow, hi]

theorem natBit_orBit (w i j : Nat) : natBit (Machine.orBit w i) j = (natBit w j || decide (i = j)) := by
  simp [natBit_eq_testBit, Machine.orBit, Nat.testBit_or, Nat.testBit_two_pow]

theorem natBit_setBits (w v : Nat) {hi lo : Nat} (h : lo ≤ hi) (i : Nat) :
    natBit (setBits w hi lo v) i = if lo ≤ i ∧ i ≤ hi then natBit v (i - lo) else natBit w i := by
  simp only [natBit_eq_testBit, setBits, Nat.testBit_or, Nat.testBit_shiftLeft, Nat.testBit_shiftRight, Nat.testBit_mod_two_pow]
  by_cases h1 : i < lo
  · have h2 : ¬ lo ≤ i := by omega
    have h3 : ¬ hi + 1 ≤ i := by omega
    simp [h1, h2, h3]
  · by_cases h2 : i ≤ hi
    · have h3 : ¬ hi + 1 ≤ i := by omega
      have h4 : i - lo < hi + 1 - lo := by omega
      have h5 : lo ≤ i := by omega
      simp [h1, h2, h3, h4, h5]
    · have h3 : hi + 1 ≤ i := by omega
      have h4 : ¬ i - lo < hi + 1 - lo := by omega
      have h5 : hi + 1 + (i - (hi + 1)) = i := by omega
      simp [h1, h2, h3, h4, h5]

theorem testBit_natBits (w : Nat) {hi lo : Nat} (h : lo ≤ hi) (i : Nat) :
    (natBits w hi lo).testBit i = (decide (i + lo ≤ hi) && natBit w (lo + i)) := by
  simp only [natBits, natBit_eq_testBit, Nat.testBit_mod_two_pow, Nat.testBit_shiftRight]
  congr 1
  simp only [decide_eq_decide]
  omega

/-- Two numbers with the same bits from lo to hi have the same field there. -/
theorem natBits_congr {v w hi lo : Nat} (h : lo ≤ hi) (e : ∀ i, lo ≤ i → i ≤ hi → natBit v i = natBit w i) :
    natBits v hi lo = natBits w hi lo := by
  refine Nat.eq_of_testBit_eq fun i => ?_
  rw [testBit_natBits _ h, testBit_natBits _ h]
  by_cases hi' : i + lo ≤ hi
  · rw [e (lo + i) (by omega) (by omega)]
  · simp [hi']

/-- A field reads the low bits of what was put there. -/
theorem natBits_setBits_same (w v : Nat) {hi lo : Nat} (h : lo ≤ hi) : natBits (setBits w hi lo v) hi lo = v % 2 ^ (hi + 1 - lo) := by
  refine Nat.eq_of_testBit_eq fun i => ?_
  rw [testBit_natBits _ h, natBit_setBits _ _ h, Nat.testBit_mod_two_pow, natBit_eq_testBit, Nat.add_sub_cancel_left]
  by_cases hi' : i + lo ≤ hi
  · simp [hi', show i < hi + 1 - lo by omega, show lo ≤ lo + i ∧ lo + i ≤ hi by omega]
  · simp [hi', show ¬ i < hi + 1 - lo by omega]

theorem natBits_lt (w hi lo : Nat) : natBits w hi lo < 2 ^ (hi + 1 - lo) := Nat.mod_lt _ (Nat.two_pow_pos _)

end Sys2Proof
end

/-!
# Registers, doorbell bits and acknowledgements

What a register, a bit or a field reads after each operation that writes registers, and what a doorbell bit and the acknowledgement of
a command leave alone (R4, R5, R10, R424, R425).
-/
section
namespace Sys2Proof.Machine

open Sys2Proof.Safety

/-! ### Reads after writes -/

theorem State.reg_setBit (s : State) (a b i : Nat) :
    (s.setBit a i).reg b = if b = a then orBit (s.reg a) i % 2 ^ 32 else s.reg b := State.reg_setReg a b _

theorem State.bit_setBit_same (s : State) (a : Nat) {i : Nat} (hi : i < 32) : (s.setBit a i).bit a i = true := by
  rw [State.bit, State.reg_setBit, if_pos rfl, natBit_mod hi, natBit_orBit]
  simp

theorem State.bit_setField (s : State) (a v : Nat) {hi lo i : Nat} (h : lo ≤ hi) (hi32 : i < 32) :
    (s.setField a hi lo v).bit a i = if lo ≤ i ∧ i ≤ hi then natBit v (i - lo) else s.bit a i := by
  rw [State.bit, State.reg_setField, if_pos rfl, natBit_mod hi32, natBit_setBits _ _ h]; rfl

/-- A bit outside a counting field is as it was. -/
theorem State.bit_bump (s : State) (a k : Nat) {hi lo i : Nat} (h : lo ≤ hi) (hi32 : i < 32) (hout : i < lo ∨ hi < i) :
    (s.bump a hi lo k).bit a i = s.bit a i :=
  (State.bit_setField s a _ h hi32).trans (if_neg (by omega))

/-- A counting field stops at its greatest value. -/
theorem State.field_bump (s : State) (a k : Nat) {hi lo : Nat} (h : lo ≤ hi) (h32 : hi < 32) :
    (s.bump a hi lo k).field a hi lo = min (2 ^ (hi + 1 - lo) - 1) (s.field a hi lo + k) := by
  have hr : (s.bump a hi lo k).field a hi lo = natBits (setBits (s.reg a) hi lo (min (2 ^ (hi + 1 - lo) - 1) (s.field a hi lo + k)) %
      2 ^ 32) hi lo := congrArg (natBits · hi lo) ((State.reg_setField a a hi lo _).trans (if_pos rfl))
  rw [hr, natBits_congr h fun i _ hi' => natBit_mod (by omega), natBits_setBits_same _ _ h]
  have := Nat.two_pow_pos (hi + 1 - lo)
  exact Nat.mod_eq_of_lt (by omega)

/-- A field beside a bit that becomes set is as it was. -/
theorem State.field_setBit (s : State) (a : Nat) {hi lo i : Nat} (h : lo ≤ hi) (h32 : hi < 32) (hout : i < lo ∨ hi < i) :
    (s.setBit a i).field a hi lo = s.field a hi lo := by
  have hr : (s.setBit a i).field a hi lo = natBits (orBit (s.reg a) i % 2 ^ 32) hi lo :=
    congrArg (natBits · hi lo) ((State.reg_setBit s a a i).trans (if_pos rfl))
  rw [hr]
  refine natBits_congr h fun j hlo hhi => ?_
  rw [natBit_mod (by omega), natBit_orBit, decide_eq_false (by omega), Bool.or_false]
  rfl

theorem State.field_of_reg {s t : State} {a : Nat} (hi lo : Nat) (h : t.reg a = s.reg a) : t.field a hi lo = s.field a hi lo :=
  congrArg (natBits · hi lo) h

theorem State.bit_of_reg {s t : State} {a : Nat} (i : Nat) (h : t.reg a = s.reg a) : t.bit a i = s.bit a i :=
  congrArg (natBit · i) h

/-! ### Writes of the host -/

/-- A write of the host to a register of row r changes that register alone (R4, R5, R10). -/
theorem State.writeReg_of_row {s : State} {a v : Nat} {r : RegRow} (h : regRow a = some r) :
    s.writeReg a v = s.setReg a (r.write s.boot.image.isSome (s.reg a) (v &&& (0xFFFFFFFF ^^^ (r.w1c &&& s.setNow a)))) := by
  unfold State.writeReg
  rw [h]

theorem State.writeReg_host (s : State) (a v : Nat) : (s.writeReg a v).host = s.host := by
  unfold State.writeReg
  split <;> rfl

theorem State.writeReg_out (s : State) (a v : Nat) : (s.writeReg a v).out = s.out := by
  unfold State.writeReg
  split <;> rfl

/-! ### What an interrupt, a doorbell bit and an acknowledgement leave alone -/

/-- `t` differs from `s` only in what the host is shown: registers, the list of acknowledgements, interrupts, what has been sent. -/
structure Shows (s t : State) : Prop where
  rest : { t with regs := s.regs, sets := s.sets, host := s.host, out := s.out } = s
  host : { t.host with acks := s.host.acks, pba := s.host.pba, waiting := s.host.waiting } = s.host

namespace Shows

variable {s t u : State}

theorem refl (s : State) : Shows s s := ⟨rfl, rfl⟩

theorem trans (h : Shows s t) (k : Shows t u) : Shows s u where
  rest := (congrArg (fun w : State => { w with regs := s.regs, sets := s.sets, host := s.host, out := s.out }) k.rest).trans h.rest
  host := (congrArg (fun w : HostIf => { w with acks := s.host.acks, pba := s.host.pba, waiting := s.host.waiting }) k.host).trans h.host

theorem aside (h : Shows s t) : Aside s t :=
  ⟨(congrArg State.hbm h.rest :), (congrArg State.stalls h.rest :), (congrArg State.barns h.rest :), (congrArg State.dies h.rest :)⟩

theorem log (h : Shows s t) : t.log = s.log := (congrArg State.log h.rest :)

theorem packets (h : Shows s t) : t.host.packets = s.host.packets := (congrArg HostIf.packets h.host :)

theorem cmdBad (h : Shows s t) : t.host.cmdBad = s.host.cmdBad := (congrArg HostIf.cmdBad h.host :)

end Shows

theorem State.msix_regs (s : State) (v : Nat) : (s.msix v).regs = s.regs := by
  unfold State.msix
  split
  · split <;> rfl
  · split <;> rfl

theorem State.msix_acks (s : State) (v : Nat) : (s.msix v).host.acks = s.host.acks := by
  unfold State.msix
  split
  · split <;> rfl
  · split <;> rfl

/-- A message goes out, is remembered as pending, or waits (R406, R433). -/
theorem State.msix_shows (s : State) (v : Nat) : Shows s (s.msix v) := by
  unfold State.msix
  split
  · split
    · exact .refl s
    · exact ⟨rfl, rfl⟩
  · split
    · exact ⟨rfl, rfl⟩
    · exact ⟨rfl, rfl⟩

/-- An unmasked vector's message goes out at once where the host takes requests and nothing waits before it. -/
theorem State.msix_sent {s : State} {v : Nat} (hm : s.host.fmask = false) (hv : v ∈ s.host.unmasked) (ho : s.hostOk = true)
    (hw : s.host.waiting = []) : s.msix v = s.emit (.msix v) := by
  simp [State.msix, hm, hv, ho, hw]

theorem State.emit_shows (s : State) (o : Out) : Shows s (s.emit o) := ⟨rfl, rfl⟩

theorem State.setBit_shows (s : State) (a i : Nat) : Shows s (s.setBit a i) := ⟨rfl, rfl⟩

theorem State.setReg_shows (s : State) (a v : Nat) : Shows s (s.setReg a v) := ⟨rfl, rfl⟩

theorem State.doorbell_shows (s : State) (i : Nat) : Shows s (s.doorbell i) := by
  unfold State.doorbell
  extract_lets t
  split
  · exact s.setBit_shows _ _
  · split
    · exact s.setBit_shows _ _
    · exact (s.setBit_shows _ _).trans (t.msix_shows _)

theorem State.doorbell_regs (s : State) (i : Nat) : (s.doorbell i).regs = (s.setBit A.mbxHdb i).regs := by
  unfold State.doorbell
  extract_lets t
  split
  · rfl
  · split
    · rfl
    · exact t.msix_regs _

theorem State.doorbell_acks (s : State) (i : Nat) : (s.doorbell i).host.acks = s.host.acks := by
  unfold State.doorbell
  extract_lets t
  split
  · rfl
  · split
    · rfl
    · exact t.msix_acks _

/-- The acknowledgement (tag, code) stands in MBX_ACK with its doorbell bit set, `rest` wait behind it, and nothing else but what the host is
shown has changed (R424). -/
structure AckShown (s t : State) (tag code : Nat) (rest : List AckDue) : Prop where
  frame : Shows s t
  acks : t.host.acks = rest
  ack : t.reg A.mbxAck = code % 256 * 65536 + tag % 65536
  bell : t.bit A.mbxHdb 0 = true

theorem State.showAck_nil {s : State} (h : s.host.acks = []) : s.showAck = s := by
  unfold State.showAck
  rw [h]

theorem State.showAck_waits {s : State} (h : s.bit A.mbxHdb 0 = true) : s.showAck = s := by
  unfold State.showAck
  split
  · exact if_pos h
  · rfl

/-- With bit 0 of the doorbell register clear, the oldest acknowledgement is shown. -/
theorem State.showAck_cons {s : State} {a : AckDue} {l : List AckDue} (ha : s.host.acks = a :: l) (hb : s.bit A.mbxHdb 0 = false) :
    AckShown s s.showAck a.tag a.code l := by
  unfold State.showAck
  rw [ha]
  dsimp only
  rw [if_neg (by simp [hb])]
  set u : State := ({ s with host := { s.host with acks := l } } : State).setReg A.mbxAck (a.code % 256 * 65536 + a.tag % 65536) with hu
  have hregs : ∀ k, (u.doorbell 0).reg k = (u.setBit A.mbxHdb 0).reg k := fun k => congrArg (RegBank.get · k) (u.doorbell_regs 0)
  have hsu : Shows s u := ⟨rfl, rfl⟩
  refine ⟨hsu.trans (u.doorbell_shows 0), u.doorbell_acks 0, ?_, ?_⟩
  · rw [hregs, State.reg_setBit, if_neg (by decide), hu, State.reg_setReg, if_pos rfl]
    omega
  · rw [State.bit_of_reg 0 (hregs A.mbxHdb)]
    exact u.bit_setBit_same _ (by decide)

/-- The acknowledgement of a command is shown at once where none waits and the host has cleared the last one. -/
theorem State.ack_shown {s : State} (tag code : Nat) (ha : s.host.acks = []) (hb : s.bit A.mbxHdb 0 = false) :
    AckShown s (s.ack tag code) tag code [] := by
  let u : State := { s with host := { s.host with acks := s.host.acks ++ [⟨tag, code⟩] } }
  have h : AckShown u u.showAck tag code [] := State.showAck_cons (a := ⟨tag, code⟩) (l := []) (congrArg (· ++ [⟨tag, code⟩]) ha) hb
  have hsu : Shows s u := ⟨rfl, rfl⟩
  exact ⟨hsu.trans h.frame, h.acks, h.ack, h.bell⟩

theorem State.showAck_shows (s : State) : Shows s s.showAck := by
  cases ha : s.host.acks with
  | nil => rw [State.showAck_nil ha]; exact .refl s
  | cons a l =>
    cases hb : s.bit A.mbxHdb 0 with
    | true => rw [State.showAck_waits hb]; exact .refl s
    | false => exact (State.showAck_cons ha hb).frame

theorem State.ack_shows (s : State) (tag code : Nat) : Shows s (s.ack tag code) :=
  (show Shows s { s with host := { s.host with acks := s.host.acks ++ [⟨tag, code⟩] } } from ⟨rfl, rfl⟩).trans (State.showAck_shows _)

end Sys2Proof.Machine
end

/-!
# Reads and writes of HBM

What a base die may change while it serves a read or a write (R288 to R291): its own state and registers, the stored bytes where it writes,
the log's held events, the shot's failure and list of corrected stacks, the failures that securing counts. And a read finds the same whatever
stands in the host interface.
-/
section
namespace Sys2Proof.Machine

/-- `t` differs from `s` only in what base dies change when they serve a request. -/
structure HbmServed (s t : State) : Prop where
  rest : { t with regs := s.regs, sets := s.sets, dies := s.dies, hbm := s.hbm, bad := s.bad, log := s.log, shot := s.shot,
                  ckpt := s.ckpt } = s
  log : { t.log with held := s.log.held } = s.log
  shot : { t.shot with fail := s.shot.fail, corrected := s.shot.corrected } = s.shot
  low : ∀ k < 0x700000, t.reg k = s.reg k

/-- A request that stores nothing. -/
structure HbmRead (s t : State) : Prop extends HbmServed s t where
  hbm : t.hbm = s.hbm
  bad : t.bad = s.bad

namespace HbmServed

variable {s t u : State}

theorem refl (s : State) : HbmServed s s := ⟨rfl, rfl, rfl, fun _ _ => rfl⟩

theorem trans (h : HbmServed s t) (k : HbmServed t u) : HbmServed s u where
  rest := (congrArg (fun w : State => { w with
    regs := s.regs, sets := s.sets, dies := s.dies, hbm := s.hbm, bad := s.bad, log := s.log, shot := s.shot, ckpt := s.ckpt })
      k.rest).trans h.rest
  log := (congrArg (fun w : Log => { w with held := s.log.held }) k.log).trans h.log
  shot := (congrArg (fun w : Shot => { w with fail := s.shot.fail, corrected := s.shot.corrected }) k.shot).trans h.shot
  low a ha := (k.low a ha).trans (h.low a ha)

theorem stalls (h : HbmServed s t) : t.stalls = s.stalls := (congrArg State.stalls h.rest :)
theorem out (h : HbmServed s t) : t.out = s.out := (congrArg State.out h.rest :)

end HbmServed

namespace HbmRead

variable {s t u : State}

theorem refl (s : State) : HbmRead s s := ⟨.refl s, rfl, rfl⟩

theorem trans (h : HbmRead s t) (k : HbmRead t u) : HbmRead s u :=
  ⟨h.toHbmServed.trans k.toHbmServed, k.hbm.trans h.hbm, k.bad.trans h.bad⟩

/-- A write of a register that the base dies or securing hold. -/
theorem setReg (s : State) {a : Nat} (v : Nat) (ha : 0x700000 ≤ a) : HbmRead s (s.setReg a v) :=
  ⟨⟨rfl, rfl, rfl, fun k hk => (State.reg_setReg a k v).trans (if_neg (by omega))⟩, rfl, rfl⟩

theorem setBit (s : State) {a : Nat} (i : Nat) (ha : 0x700000 ≤ a) : HbmRead s (s.setBit a i) :=
  ⟨⟨rfl, rfl, rfl, (setReg s _ ha).low⟩, rfl, rfl⟩

theorem setField (s : State) {a : Nat} (hi lo v : Nat) (ha : 0x700000 ≤ a) : HbmRead s (s.setField a hi lo v) := setReg s _ ha

theorem bump (s : State) {a : Nat} (hi lo k : Nat) (ha : 0x700000 ≤ a) : HbmRead s (s.bump a hi lo k) := setField s hi lo _ ha

theorem event (s : State) (code src x : Nat) (detail : List Byte) : HbmRead s (s.event code src x detail) :=
  ⟨⟨rfl, rfl, rfl, fun _ _ => rfl⟩, rfl, rfl⟩

theorem setStack (s : State) (j : Nat) (v : Stack) : HbmRead s (s.setStack j v) := ⟨⟨rfl, rfl, rfl, fun _ _ => rfl⟩, rfl, rfl⟩

end HbmRead

/-- The registers of the stacks stand above those of the host interface. -/
theorem le_stackReg {a : Nat} (j : Nat) (h : 0x900000 ≤ a) : 0x700000 ≤ stackReg a j := by unfold stackReg; omega

/-! ### Corrected and uncorrectable units -/

theorem State.failureEvent_read (s : State) (k : Nat) : HbmRead s (s.failureEvent k) := by
  unfold State.failureEvent
  extract_lets _ t
  have h : HbmRead s t := ⟨⟨rfl, rfl, rfl, fun _ _ => rfl⟩, rfl, rfl⟩
  exact h.trans (.bump t _ _ _ (by decide))

theorem State.recordUnit_read (s : State) (j a flag : Nat) : HbmRead s (s.recordUnit j a flag) := by
  unfold State.recordUnit
  extract_lets e t u
  have ht : HbmRead s t := (HbmRead.setReg s _ (le_stackReg j (by decide))).trans (.setReg _ _ (le_stackReg j (by decide)))
  have he : 0x700000 ≤ e := le_stackReg j (by decide)
  have hu : HbmRead s u := by
    subst u
    split
    · exact .refl s
    · exact ht.trans (.setField t _ _ _ he)
  exact hu.trans (.setBit u _ he)

theorem State.uncorrectable_read (s : State) (j a x : Nat) : HbmRead s (s.uncorrectable j a x) := by
  unfold State.uncorrectable
  extract_lets t u v
  have hv : HbmRead s v :=
    ((HbmRead.bump s _ _ _ (le_stackReg j (by decide))).trans (.event t _ _ _ _)).trans (u.recordUnit_read _ _ _)
  split
  · exact hv.trans (v.failureEvent_read 1)
  · exact hv

theorem State.correction_read (s : State) (j a x : Nat) : HbmRead s (s.correction j a x) := by
  unfold State.correction
  extract_lets t _
  have ht : HbmRead s t := (HbmRead.bump s _ _ _ (le_stackReg j (by decide))).trans (.setBit _ _ (le_stackReg j (by decide)))
  split
  · exact ht
  · have hu : HbmRead t { t with shot := { t.shot with corrected := t.shot.corrected ++ [j] } } :=
      ⟨⟨rfl, rfl, rfl, fun _ _ => rfl⟩, rfl, rfl⟩
    exact (ht.trans hu).trans (.event _ _ _ _ _)

theorem State.enlist_read (s : State) (j a : Nat) : HbmRead s (s.enlist j a) := by
  unfold State.enlist
  extract_lets k
  split
  · exact .refl s
  · split
    · exact (HbmRead.setStack s _ _).trans (.setField _ _ _ _ (le_stackReg j (by decide)))
    · exact .setBit s _ (le_stackReg j (by decide))

/-! ### Reads -/

theorem State.readUnit_read (s : State) (j a x : Nat) : HbmRead s (s.readUnit j a x).1 := by
  unfold State.readUnit
  split
  split
  · exact .refl s
  · exact (s.correction_read _ _ _).trans (State.enlist_read _ _ _)
  · exact s.uncorrectable_read _ _ _

theorem State.readUnits_read (s : State) (j x a n : Nat) : HbmRead s (s.readUnits j x a n).1 := by
  induction n generalizing s a with
  | zero => exact .refl s
  | succ n ih => exact (s.readUnit_read j a x).trans (ih _ _)

theorem State.readStack_read (s : State) (j a n x : Nat) : HbmRead s (s.readStack j a n x).1 := s.readUnits_read _ _ _ _

theorem State.readMem_read (s : State) (a n x : Nat) : HbmRead s (s.readMem a n x).1 := by
  unfold State.readMem
  refine List.foldlRecOn (motive := fun acc : State × List Byte × List Bool × Bool => HbmRead s acc.1) _ _ (.refl s) fun acc h p _ => ?_
  obtain ⟨t, bs, ls, un⟩ := acc
  dsimp only
  split
  · exact h.trans (t.readStack_read _ _ _ _)
  · exact h

/-! ### Writes -/

theorem State.failShot_served (s : State) (x code src : Nat) : HbmServed s (s.failShot x code src) := by
  have h : HbmServed s { s with shot := { s.shot with fail := some ⟨x, code, src⟩ } } := ⟨rfl, rfl, rfl, fun _ _ => rfl⟩
  unfold State.failShot
  split
  · exact .refl s
  · split
    · split
      · exact h
      · exact .refl s
    · exact h

theorem State.encodeUnit_served (s : State) (j a : Nat) (bs : List Byte) : HbmServed s (s.encodeUnit j a bs) :=
  ⟨rfl, rfl, rfl, fun _ _ => rfl⟩

theorem State.writeUnit_served (s : State) (j a x : Nat) (bs : List Byte) (sched : Bool) : HbmServed s (s.writeUnit j a x bs sched) := by
  unfold State.writeUnit
  extract_lets t u
  have hu : HbmServed s u := (s.uncorrectable_read j a x).toHbmServed.trans ⟨rfl, rfl, rfl, fun _ _ => rfl⟩
  split
  · exact s.encodeUnit_served _ _ _
  · split
    split
    · exact s.encodeUnit_served _ _ _
    · exact (s.correction_read _ _ _).toHbmServed.trans (State.encodeUnit_served _ _ _ _)
    · split
      · exact hu.trans (u.failShot_served _ _ _)
      · exact hu

theorem State.writeUnits_served (s : State) (j x : Nat) (sched : Bool) (n a : Nat) (bs : List Byte) :
    HbmServed s (s.writeUnits j x sched n a bs) := by
  induction n generalizing s a bs with
  | zero => exact .refl s
  | succ n ih =>
    unfold State.writeUnits
    split
    · exact .refl s
    · exact (s.writeUnit_served _ _ _ _ _).trans (ih _ _ _)

theorem State.writeStack_served (s : State) (j a x : Nat) (bs : List Byte) (sched : Bool) : HbmServed s (s.writeStack j a x bs sched) :=
  s.writeUnits_served _ _ _ _ _ _

theorem State.writeMem_served (s : State) (a x : Nat) (bs : List Byte) (sched : Bool) : HbmServed s (s.writeMem a x bs sched) := by
  unfold State.writeMem
  refine List.foldlRecOn (motive := fun acc : State × List Byte => HbmServed s acc.1) _ _ (.refl s) fun acc h p _ => ?_
  obtain ⟨t, rest⟩ := acc
  dsimp only
  split
  · exact h.trans ((HbmRead.setStack t _ _).toHbmServed.trans (State.writeStack_served _ _ _ _ _ _))
  · exact h

/-! ### A read does not look at the host interface -/

/-- The state with another host interface. -/
def State.withHost (s : State) (h : HostIf) : State := { s with host := h }

theorem State.ite_withHost {c : Prop} [Decidable c] {h : HostIf} {a b a' b' : State} (ha : a' = a.withHost h)
    (hb : b' = b.withHost h) : (if c then a' else b') = (if c then a else b).withHost h := by
  split
  · exact ha
  · exact hb

theorem State.recordUnit_withHost (s : State) (h : HostIf) (j a flag : Nat) :
    (s.withHost h).recordUnit j a flag = (s.recordUnit j a flag).withHost h := by
  unfold State.recordUnit
  extract_lets e t u t' u'
  have hu : u = u'.withHost h := State.ite_withHost rfl rfl
  rw [hu]
  rfl

theorem State.uncorrectable_withHost (s : State) (h : HostIf) (j a x : Nat) :
    (s.withHost h).uncorrectable j a x = (s.uncorrectable j a x).withHost h := by
  unfold State.uncorrectable
  extract_lets t u v t' u' v'
  have hv : v = v'.withHost h := u'.recordUnit_withHost h j a 30
  rw [hv]
  exact State.ite_withHost rfl rfl

theorem State.correction_withHost (s : State) (h : HostIf) (j a x : Nat) :
    (s.withHost h).correction j a x = (s.correction j a x).withHost h := by
  unfold State.correction
  exact State.ite_withHost rfl rfl

theorem State.enlist_withHost (s : State) (h : HostIf) (j a : Nat) : (s.withHost h).enlist j a = (s.enlist j a).withHost h := by
  unfold State.enlist
  exact State.ite_withHost rfl (State.ite_withHost rfl rfl)

theorem State.readUnit_withHost (s : State) (h : HostIf) (j a x : Nat) :
    (s.withHost h).readUnit j a x = ((s.readUnit j a x).1.withHost h, (s.readUnit j a x).2) := by
  have hd : (s.withHost h).decodeUnit j a = s.decodeUnit j a := rfl
  unfold State.readUnit
  rw [hd]
  obtain ⟨bs, k⟩ := s.decodeUnit j a
  cases k with
  | clean => rfl
  | fixed => simp only [State.correction_withHost, State.enlist_withHost]; rfl
  | lost => simp only [State.uncorrectable_withHost]

theorem State.readUnits_withHost (s : State) (h : HostIf) (j x a n : Nat) :
    (s.withHost h).readUnits j x a n = ((s.readUnits j x a n).1.withHost h, (s.readUnits j x a n).2) := by
  induction n generalizing s a with
  | zero => rfl
  | succ n ih => simp only [State.readUnits, State.readUnit_withHost, ih]

theorem State.readStack_withHost (s : State) (h : HostIf) (j a n x : Nat) :
    (s.withHost h).readStack j a n x = ((s.readStack j a n x).1.withHost h, (s.readStack j a n x).2) := by
  simp only [State.readStack, State.readUnits_withHost]

/-- A read of module memory gives the same bytes and marks under every host interface, and leaves that interface. -/
theorem State.readMem_withHost (s : State) (h : HostIf) (a n x : Nat) :
    (s.withHost h).readMem a n x = ((s.readMem a n x).1.withHost h, (s.readMem a n x).2) := by
  unfold State.readMem
  refine List.foldl_hom (init := (s, [], [], false))
    (fun acc : State × List Byte × List Bool × Bool => (acc.1.withHost h, acc.2)) fun acc p => ?_
  obtain ⟨t, bs, ls, un⟩ := acc
  have hl : (t.withHost h).locate p.1 = t.locate p.1 := rfl
  dsimp only
  rw [hl]
  split
  · simp only [State.readStack_withHost]
  · rfl

end Sys2Proof.Machine
end

/-!
# Bringing stalls forward

What an operation on a stall, with the events and the audit halt that follow from it, can change outside the stalls: the yardmasters' stops,
the log's held events, the shot's failure and halt (R59, R201).
-/
section
namespace Sys2Proof.Machine

open Sys2Proof.Safety

/-- `t` differs from `s` only in stalls and in what follows from a stall's events. -/
structure StallsOnly (s t : State) : Prop where
  rest : { t with stalls := s.stalls, barns := s.barns, log := s.log, shot := s.shot } = s
  log : { t.log with held := s.log.held } = s.log
  shot : { t.shot with fail := s.shot.fail, skewed := s.shot.skewed, halt := s.shot.halt } = s.shot

namespace StallsOnly

variable {s t u : State}

theorem refl (s : State) : StallsOnly s s := ⟨rfl, rfl, rfl⟩

theorem trans (h : StallsOnly s t) (k : StallsOnly t u) : StallsOnly s u where
  rest := (congrArg (fun w : State => { w with stalls := s.stalls, barns := s.barns, log := s.log, shot := s.shot }) k.rest).trans h.rest
  log := (congrArg (fun w : Log => { w with held := s.log.held }) k.log).trans h.log
  shot := (congrArg (fun w : Shot => { w with fail := s.shot.fail, skewed := s.shot.skewed, halt := s.shot.halt }) k.shot).trans h.shot

theorem foldl {α : Type} {f : State → α → State} (l : List α) (h : StallsOnly s t) (hf : ∀ x a, StallsOnly x (f x a)) :
    StallsOnly s (l.foldl f t) :=
  List.foldlRecOn (motive := StallsOnly s) l f h fun x hx a _ => hx.trans (hf x a)

theorem regs (h : StallsOnly s t) : t.regs = s.regs := (congrArg State.regs h.rest :)
theorem hbm (h : StallsOnly s t) : t.hbm = s.hbm := (congrArg State.hbm h.rest :)

end StallsOnly

theorem State.modStall_only (s : State) (i : Nat) (f : Stall → Stall) : StallsOnly s (s.modStall i f) := ⟨rfl, rfl, rfl⟩

theorem State.eachStall_only (s : State) (l : List Nat) (f : Stall → Stall) : StallsOnly s (s.eachStall l f) :=
  (StallsOnly.refl s).foldl l fun x i => x.modStall_only i f

theorem State.event_only (s : State) (code src x : Nat) (detail : List Byte) : StallsOnly s (s.event code src x detail) :=
  ⟨rfl, rfl, rfl⟩

theorem State.failShot_only (s : State) (x code src : Nat) : StallsOnly s (s.failShot x code src) := by
  unfold State.failShot
  split
  · exact .refl s
  · split
    · split
      · exact ⟨rfl, rfl, rfl⟩
      · exact .refl s
    · exact ⟨rfl, rfl, rfl⟩

theorem State.haltFrom_only (s : State) (x : Nat) : StallsOnly s (s.haltFrom x) := by
  unfold State.haltFrom
  extract_lets _ t u
  have ht : StallsOnly s t := ⟨rfl, rfl, rfl⟩
  exact (ht.trans (t.eachStall_only _ _)).foldl _ fun _ _ => ⟨rfl, rfl, rfl⟩

theorem State.takeEvent_only (s : State) (i : Nat) (e : StallEvent) : StallsOnly s (s.takeEvent i e) := by
  unfold State.takeEvent
  extract_lets st dup detail a b _ c
  have ha : StallsOnly s a := by
    subst a
    split
    · exact .refl s
    · exact s.event_only _ _ _ _
  have hb : StallsOnly s b := by
    subst b
    split
    · exact ha.trans (a.failShot_only _ _ _)
    · exact ha
  have hc : StallsOnly s c := by
    subst c
    split
    · exact hb.trans ⟨rfl, rfl, rfl⟩
    · exact hb
  split
  · exact hc.trans (c.haltFrom_only _)
  · exact hc

theorem State.flush_only (s : State) (l : List Nat) : StallsOnly s (s.flush l) := by
  unfold State.flush
  exact (s.eachStall_only _ _).foldl _ fun x e => x.takeEvent_only e.1 e.2

theorem State.syncAll_only (s : State) (x : Nat) : StallsOnly s (s.syncAll x) := (s.eachStall_only _ _).trans (State.flush_only _ _)

theorem State.sync_only (s : State) (i x : Nat) : StallsOnly s (s.sync i x) := by
  unfold State.sync
  split
  · exact (s.modStall_only _ _).trans (State.syncAll_only _ _)
  · exact (s.modStall_only _ _).trans (State.flush_only _ _)

/-- An operation on a stall leaves everything outside the stalls but what their events bring about. -/
theorem State.onStall_only (s : State) (i x : Nat) (f : Stall → Stall) : StallsOnly s (s.onStall i x f) :=
  ((s.sync_only i x).trans (State.modStall_only _ _ _)).trans (State.flush_only _ _)

end Sys2Proof.Machine
end

/-!
# The block map and the reset state

Where the registers of BAR0 stand (R6, R13, R21, R402): every row of the register table lies inside the block map, so an address outside it
has no row, holds no part of a wide value, and reads as zero. And what the module is after reset.
-/
section
namespace Sys2Proof.Machine

open Sys2Proof.Safety

/-! ### Addresses of a row -/

/-- The greatest distance of a register of the row from the first, strides counted modulo m (as they are for m = 0). -/
def RegRow.span (r : RegRow) (m : Nat) : Nat := (r.n1 - 1) * (r.s1 % m) + (r.n2 - 1) * (r.s2 % m) + (r.n3 - 1) * (r.s3 % m)

/-- An address of the block map with 28 bytes of the map behind it: below the end of the fabric's windows, in those of securing to the stacks,
or in a barn's window below its end (R6, R13, R21). -/
def Mapped (a : Nat) : Prop :=
  a + 28 < 0x650000 ∨ (0x700000 ≤ a ∧ a + 28 < 0x980000) ∨ (0x1000000 ≤ a ∧ a + 28 < 0x2000000 ∧ a % 0x200000 + 28 < 0x180000)

/-- Every register of the row lies in the block map, by the row's base and spans alone. -/
def RegRow.inMap (r : RegRow) : Bool :=
  decide (r.base + r.span 0 + 28 < 0x650000) ||
    decide (0x700000 ≤ r.base ∧ r.base + r.span 0 + 28 < 0x980000) ||
    decide (0x1000000 ≤ r.base ∧ r.base + r.span 0 + 28 < 0x2000000 ∧ r.base % 0x200000 + r.span 0x200000 + 28 < 0x180000)

theorem inMap_of_mem_regRows : ∀ r ∈ regRows, r.inMap = true := by decide +kernel

/-- An address that a row holds is its base and, of each stride, at most as many as the row repeats. -/
theorem RegRow.strides_of_holds {r : RegRow} {a : Nat} (h : r.holds a = true) :
    ∃ i j k, i ≤ r.n1 - 1 ∧ j ≤ r.n2 - 1 ∧ k ≤ r.n3 - 1 ∧ a = r.base + (i * r.s1 + j * r.s2 + k * r.s3) := by
  simp only [RegRow.holds, Bool.and_eq_true, decide_eq_true_eq] at h
  obtain ⟨hb, ⟨⟨h1, h2⟩, h3⟩, h4⟩ := h
  set d := a - r.base with hd
  refine ⟨d / r.s1, d % r.s1 / r.s2, d % r.s1 % r.s2 / r.s3, by omega, by omega, by omega, ?_⟩
  have e1 := Nat.div_add_mod' d r.s1
  have e2 := Nat.div_add_mod' (d % r.s1) r.s2
  have e3 := Nat.div_add_mod' (d % r.s1 % r.s2) r.s3
  omega

/-- The strides of an address of the row add up to at most its span. -/
theorem RegRow.strides_le_span {r : RegRow} {i j k : Nat} (m : Nat) (hi : i ≤ r.n1 - 1) (hj : j ≤ r.n2 - 1) (hk : k ≤ r.n3 - 1) :
    i * (r.s1 % m) + j * (r.s2 % m) + k * (r.s3 % m) ≤ r.span m := by
  unfold RegRow.span
  gcongr

theorem RegRow.mapped_of_holds {r : RegRow} {a : Nat} (hr : r.inMap = true) (h : r.holds a = true) : Mapped a := by
  obtain ⟨i, j, k, hi, hj, hk, ha⟩ := RegRow.strides_of_holds h
  have habs := RegRow.strides_le_span 0 hi hj hk
  have hmod := RegRow.strides_le_span 0x200000 hi hj hk
  simp only [Nat.mod_zero] at habs
  have hoff : a % 0x200000 =
      (r.base % 0x200000 + (i * (r.s1 % 0x200000) + j * (r.s2 % 0x200000) + k * (r.s3 % 0x200000))) % 0x200000 := by
    rw [ha]
    simp [Nat.add_mod, Nat.mul_mod]
  simp only [RegRow.inMap, Bool.or_eq_true, decide_eq_true_eq] at hr
  unfold Mapped
  omega

theorem mapped_of_regRow {a : Nat} {r : RegRow} (h : regRow a = some r) : Mapped a := by
  have hfind : regRows.find? (fun q => q.holds a) = some r := h
  have hholds := List.find?_some hfind
  exact RegRow.mapped_of_holds (inMap_of_mem_regRows r (List.mem_of_find?_eq_some hfind)) hholds

/-! ### Wide values -/

theorem mapped_of_isWideLow {a : Nat} (h : isWideLow a = true) : Mapped a := by
  simp only [isWideLow, Bool.or_eq_true] at h
  obtain (h | h) | h := h
  · have hall : ∀ b ∈ wideLows, b + 28 < 0x980000 ∧ (b + 28 < 0x650000 ∨ 0x700000 ≤ b) := by decide
    have := hall a (List.contains_iff_mem.mp h)
    unfold Mapped
    omega
  · have : a = 0x500040 ∨ a = 0x500060 := of_decide_eq_true h
    unfold Mapped
    omega
  · cases hr : regRow a with
    | some r => exact mapped_of_regRow hr
    | none => rw [hr] at h; cases h

/-- An address outside the block map (R6). -/
def OffMap (a : Nat) : Prop :=
  (0x650000 ≤ a ∧ a < 0x700000) ∨ (0x980000 ≤ a ∧ a < 0x1000000) ∨ (0x2000000 ≤ a ∧ a < 0x4000000) ∨
    (0x1000000 ≤ a ∧ a < 0x2000000 ∧ 0x180000 ≤ a % 0x200000)

/-- No mapped address lies within 28 bytes below an address outside the map. -/
theorem OffMap.not_mapped_sub {a : Nat} (h : OffMap a) {d : Nat} (hd : d ≤ 28) : ¬ Mapped (a - d) := by
  unfold OffMap at h
  unfold Mapped
  omega

theorem OffMap.regRow_none {a : Nat} (h : OffMap a) : regRow a = none := by
  cases hr : regRow a with
  | none => rfl
  | some r => exact absurd (mapped_of_regRow hr) (h.not_mapped_sub (Nat.zero_le 28))

theorem OffMap.isWideLow_false {a : Nat} (h : OffMap a) : isWideLow a = false :=
  Bool.eq_false_iff.mpr fun hw => h.not_mapped_sub (Nat.zero_le 28) (mapped_of_isWideLow hw)

theorem OffMap.isUpper_false {a : Nat} (h : OffMap a) : isUpper a = false := by
  refine Bool.eq_false_iff.mpr fun hu => ?_
  obtain ⟨k, hk, hw⟩ := List.any_eq_true.mp hu
  simp only [Bool.and_eq_true] at hw
  have := List.mem_range.mp hk
  exact h.not_mapped_sub (show 4 * (k + 1) ≤ 28 by omega) (mapped_of_isWideLow hw.1.2)

/-! ### Accesses outside the map -/

theorem OffMap.regNow_zero {a : Nat} (h : OffMap a) (s : State) : s.regNow a = 0 := by
  unfold State.regNow
  unfold OffMap at h
  by_cases hb : 0x1000000 ≤ a
  · rw [if_pos hb]
    extract_lets b o
    by_cases h8 : 8 ≤ b
    · rw [if_pos h8]
    · rw [if_neg h8, if_neg (by omega), if_neg (by omega)]
  · rw [if_neg hb]
    by_cases h9 : 0x900000 ≤ a
    · rw [if_pos h9, if_neg (by omega)]
    · rw [if_neg h9, if_neg (by omega), if_neg (by omega), if_pos (by omega), if_neg (by omega), if_neg (by omega)]

theorem OffMap.readReg_zero {a : Nat} (h : OffMap a) (s : State) : s.readReg a = 0 := by
  unfold State.readReg
  rw [h.isUpper_false, h.regNow_zero]
  split <;> rfl

/-- A register without the upper words of a wide value behind it: a read changes nothing but what is sent. -/
theorem State.readWord_of_not_wideLow {s : State} {a : Nat} (hs : s.awake = true) (h : isWideLow a = false) :
    s.readWord a = s.emit (.bar0 (s.readReg a)) := by
  simp [State.readWord, hs, h]

theorem OffMap.writeWord_eq {a : Nat} (h : OffMap a) (s : State) (v : Nat) : s.writeWord a v = s := by
  unfold State.writeWord
  rw [h.regRow_none, if_neg (show ¬(0x80000 ≤ a ∧ a < 0x88000) by unfold OffMap at h; omega)]
  split <;> rfl

/-- Within the stacks' range the register at offset o of window j is that of stack j (R13). -/
theorem State.regNow_stack (s : State) {j o : Nat} (hj : j < 32) (ho : o < 0x4000) :
    s.regNow (0x900000 + j * 0x4000 + o) = s.stackRegs j o := by
  have hdiv : (0x900000 + j * 0x4000 + o - 0x900000) / 0x4000 = j := by omega
  have hmod : (0x900000 + j * 0x4000 + o) % 0x4000 = o := by omega
  unfold State.regNow
  rw [if_neg (by omega), if_pos (by omega), if_pos (by omega), hdiv, hmod]

/-- Settles O57: outside the block map no row stands and no part of a wide value; inside it a stack's window follows from its number. -/
theorem blockMap : Obligations.BlockMap := by
  refine ⟨fun s a v hs ha => ?_, fun b _ a _ n _ => ?_, fun s j o hj ho => s.regNow_stack hj ho⟩
  · have hoff : OffMap a := ha
    constructor
    · show Host.Outcome.next (s.readWord a) = _
      rw [State.readWord_of_not_wideLow hs hoff.isWideLow_false, hoff.readReg_zero]
    · exact congrArg Host.Outcome.next (hoff.writeWord_eq s _)
  · unfold aisleOf
    omega

/-- Settles O53: each field stands in `State.reset`, and nothing powered answers a read. -/
theorem afterReset : Obligations.AfterReset := by
  have hmem : MemoryOk .reset := ⟨rfl, rfl, rfl, rfl, rfl⟩
  have hbanks : BanksOk .reset := ⟨rfl, rfl, rfl, rfl, rfl, rfl⟩
  exact ⟨hmem, hbanks, rfl, rfl, rfl, rfl, rfl, rfl, rfl, rfl, rfl, rfl, rfl, rfl, fun _ => ⟨rfl, rfl⟩, fun _ => rfl, fun _ => rfl,
    fun _ => rfl, fun _ => rfl⟩

end Sys2Proof.Machine
end

/-!
# The mailbox

The command queue and its acknowledgements (R422 to R425, R427): one equation per command in the state the statement speaks of, then the
clauses from these and the rules of acknowledgements and reads.
-/
section
namespace Sys2Proof.Machine

open Sys2Proof.Safety

/-! ### The command queue -/

theorem State.cmdCheck_good {s : State} (h : s.host.cmdBad = false) : s.cmdCheck = s := by
  simp [State.cmdCheck, h]

theorem Packet.tag_lt (p : Packet) : p.tag < 65536 := natBits_lt _ 31 16

/-- A word begins a packet where none is open and there is room for its length word (R422). -/
theorem execMbxCmdDataWrite_begin {s : State} (v : Word) (hs : s.awake = true) (hp : s.cmdCheck.openPacket = none)
    (hr : 8 ≤ s.cmdCheck.cmdSpace) :
    execMbxCmdDataWrite v s = .next { s.cmdCheck with
      host := { s.cmdCheck.host with packets := s.cmdCheck.host.packets ++ [⟨[v.toNat], 0, false⟩] } } := by
  unfold execMbxCmdDataWrite
  rw [if_neg (by simp [hs])]
  dsimp only
  rw [hp]
  dsimp only
  rw [if_neg (by omega)]

/-- A word joins the open packet. -/
theorem execMbxCmdDataWrite_join {s : State} (v : Word) {p : Packet} (hs : s.awake = true) (hc : s.host.cmdBad = false)
    (hp : s.openPacket = some p) (hr : 4 ≤ s.cmdSpace) :
    execMbxCmdDataWrite v s = .next (s.setLast [{ p with words := p.words ++ [v.toNat] }]) := by
  unfold execMbxCmdDataWrite
  rw [if_neg (by simp [hs]), State.cmdCheck_good hc]
  dsimp only
  rw [hp]
  dsimp only
  rw [if_neg (by omega)]

/-- A push seals the open packet, or discards one of a wrong length with code 2 (R422). -/
theorem execMbxCmdPush_open {s : State} {v : Word} {p : Packet} (hs : s.awake = true) (hv : natBit v.toNat 0 = true)
    (hc : s.host.cmdBad = false) (hp : s.openPacket = some p) :
    execMbxCmdPush v s = .next (if 12 ≤ p.bytes ∧ p.bytes ≤ 256 then s.setLast [{ p with len := p.bytes, sealed_ := true }]
      else (s.setLast []).ack p.tag 2) := by
  unfold execMbxCmdPush
  rw [if_neg (by simp [hs, hv]), State.cmdCheck_good hc]
  dsimp only
  rw [hp]

/-- A damaged queue is emptied, with its event and an acknowledgement of code 8 (R427). -/
theorem State.cmdCheck_bad {s : State} (h : s.host.cmdBad = true) :
    s.cmdCheck.host.packets = [] ∧ s.cmdCheck.host.cmdBad = false ∧ Aside s s.cmdCheck ∧ Logged s s.cmdCheck [(Ev.queuePtr, s.srcGroom)] := by
  let u : State := { s with host := { s.host with packets := [], cmdBad := false } }
  have hcheck : s.cmdCheck = (u.groomEvent Ev.queuePtr (queueDetail 1)).ack 0xFFFF 8 := if_neg (by simp [h])
  have hack := (u.groomEvent Ev.queuePtr (queueDetail 1)).ack_shows 0xFFFF 8
  rw [hcheck]
  refine ⟨hack.packets, hack.cmdBad, ⟨hack.aside.hbm, hack.aside.stalls, hack.aside.barns, hack.aside.dies⟩, ?_⟩
  unfold Logged
  rw [hack.log]
  simp [State.groomEvent, u]
  rfl

/-! ### Commands -/

/-- The packet p is the command that runs next (R423): the queue is undamaged, and every acknowledgement has been taken. -/
structure NextRuns (s : State) (p : Packet) : Prop where
  awake : s.awake = true
  good : s.host.cmdBad = false
  next : s.nextCmd = some p
  clear : s.bit A.mbxHdb 0 = false
  acks : s.host.acks = []

/-- The command p has left the queue and its acknowledgement is shown with a code (R424); memory and stalls are as they were. -/
def Answered (s t : State) (p : Packet) (code : Nat) : Prop :=
  t.host.packets = s.host.packets.drop 1 ∧ t.reg A.mbxAck = code * 65536 + p.tag ∧ t.bit A.mbxHdb 0 = true ∧ t.hbm = s.hbm ∧
    t.stalls = s.stalls

/-- A state in which p's acknowledgement can be shown: p has left the queue. -/
structure Dropped (s u : State) : Prop where
  host : u.host = s.dropCmd.host
  bell : u.bit A.mbxHdb 0 = s.bit A.mbxHdb 0
  hbm : u.hbm = s.hbm
  stalls : u.stalls = s.stalls

theorem State.dropCmd_dropped (s : State) : Dropped s s.dropCmd := ⟨rfl, rfl, rfl, rfl⟩

theorem Dropped.answered {s u : State} {p : Packet} {code : Nat} (h : Dropped s u) (hr : NextRuns s p) (hcode : code < 256) :
    Answered s (u.ack p.tag code) p code := by
  have hack := State.ack_shown (s := u) p.tag code (by rw [h.host]; exact hr.acks) (by rw [h.bell]; exact hr.clear)
  refine ⟨?_, ?_, hack.bell, hack.frame.aside.hbm.trans h.hbm, hack.frame.aside.stalls.trans h.stalls⟩
  · rw [hack.frame.packets, h.host]; rfl
  · rw [hack.ack, Nat.mod_eq_of_lt hcode, Nat.mod_eq_of_lt p.tag_lt]

theorem execNopCommand_next {s : State} {p : Packet} (h : NextRuns s p) (h1 : p.opcode ≠ 1) (h2 : p.opcode ≠ 2) :
    execNopCommand s = .next (s.dropCmd.ack p.tag (if p.opcode ≠ 0 then 1 else if p.len ≠ 12 then 2 else 0)) := by
  unfold execNopCommand
  rw [if_neg (by simp [h.awake]), State.cmdCheck_good h.good]
  dsimp only
  rw [h.next]
  dsimp only
  rw [if_neg (by simp [h1, h2])]

/-! ### FAR_MAP -/

/-- Word i of a packet, the length word being word 0. -/
def Packet.word (p : Packet) (i : Nat) : Nat := p.words.getD (i - 1) 0

/-- The pages of an image's far table. -/
def Image.farPages (im : Image) : Nat := match im.far with | some (_, n) => n | none => 0

/-- The entries that FAR_MAP asks for, as its read of module memory finds them. -/
def State.farMapRead (s : State) (p : Packet) : State × List Byte × List Bool × Bool :=
  s.readMem (p.word 4 + 2 ^ 32 * p.word 5) (16 * p.word 3) s.cyc

/-- The entries of bytes read. -/
def farEntries (bs : List Byte) (n : Nat) : List (List Byte) := (List.range n).map fun k => bytesAt bs (16 * k) 16

/-- What FAR_MAP does once its packet has left the queue. -/
def State.runFarMap (u : State) (p : Packet) : State :=
  if p.len ≠ 24 ∨ p.word 3 = 0 ∨ 65536 < p.word 3 then u.ack p.tag 2
  else
    match u.boot.image with
    | none => u.ack p.tag 3
    | some im =>
      if im.farPages < p.word 2 + p.word 3 then u.ack p.tag 4
      else
        let rd := u.farMapRead p
        if (rd.2.2.2 || rd.2.2.1.any id) = true then rd.1.ack p.tag 5
        else if (farEntries rd.2.1 (p.word 3)).any badFarEntry = true then rd.1.ack p.tag 6
        else { rd.1 with far := { rd.1.far with change := some ⟨p.word 2, farEntries rd.2.1 (p.word 3), p.tag⟩ } }

theorem execFarMap_next {s : State} {p : Packet} (h : NextRuns s p) (ho : p.opcode = 1) :
    execFarMap s = .next (s.dropCmd.runFarMap p) := by
  unfold execFarMap
  rw [if_neg (by simp [h.awake]), State.cmdCheck_good h.good]
  dsimp only
  rw [h.next]
  dsimp only
  rw [if_neg (by simp [ho])]
  rfl

theorem State.runFarMap_illFormed {u : State} {p : Packet} (hf : p.len ≠ 24 ∨ p.word 3 = 0 ∨ 65536 < p.word 3) :
    u.runFarMap p = u.ack p.tag 2 := if_pos hf

/-- A request within its form is refused with code 4 beyond the table; within it, bytes withheld or unassigned give code 5, an entry that is
not valid code 6, and otherwise the change is accepted (R298, R424). -/
theorem State.runFarMap_formed {u : State} {p : Packet} {im : Image} (hf : p.len = 24 ∧ 0 < p.word 3 ∧ p.word 3 ≤ 65536)
    (him : u.boot.image = some im) :
    u.runFarMap p =
      if im.farPages < p.word 2 + p.word 3 then u.ack p.tag 4
      else if ((u.farMapRead p).2.2.2 || (u.farMapRead p).2.2.1.any id) = true then (u.farMapRead p).1.ack p.tag 5
      else if (farEntries (u.farMapRead p).2.1 (p.word 3)).any badFarEntry = true then (u.farMapRead p).1.ack p.tag 6
      else { (u.farMapRead p).1 with
        far := { (u.farMapRead p).1.far with change := some ⟨p.word 2, farEntries (u.farMapRead p).2.1 (p.word 3), p.tag⟩ } } := by
  unfold State.runFarMap
  rw [if_neg (by omega), him]

/-- The read of a FAR_MAP finds the same before and after its packet leaves the queue. -/
theorem State.farMapRead_dropCmd (s : State) (p : Packet) :
    s.dropCmd.farMapRead p = ((s.farMapRead p).1.withHost s.dropCmd.host, (s.farMapRead p).2) :=
  s.readMem_withHost s.dropCmd.host _ _ _

/-- After its read a FAR_MAP has left the queue. -/
theorem State.farMapRead_dropped (s : State) (p : Packet) : Dropped s ((s.farMapRead p).1.withHost s.dropCmd.host) := by
  have h : HbmRead s (s.farMapRead p).1 := s.readMem_read _ _ _
  exact ⟨rfl, State.bit_of_reg 0 (h.low _ (by decide)), h.hbm, h.stalls⟩

/-! ### NVME_RESET -/

theorem State.nvmeFailAll_nil {s : State} (h : s.host.nvme = []) : s.nvmeFailAll = { s with host := { s.host with nvme := [] } } := by
  unfold State.nvmeFailAll
  rw [h]
  rfl

theorem execNvmeReset_next {s : State} {p : Packet} (h : NextRuns s p) (ho : p.opcode = 2) (hl : p.len = 12) :
    execNvmeReset s = .next (({ s.dropCmd.nvmeFailAll with
      host := { s.dropCmd.nvmeFailAll.host with auxReady := false, nvmeTag := some p.tag } } : State).setField A.glbAuxStatus 30 30 0) := by
  unfold execNvmeReset
  rw [if_neg (by simp [h.awake]), State.cmdCheck_good h.good]
  dsimp only
  rw [h.next]
  dsimp only
  rw [if_neg (by simp [ho]), if_neg (by simp [hl])]

/-! ### The doorbell register and its mask -/

/-- Bit i after a write of the host: a bit with write access takes the value, another stays, and a one clears a W1C bit (R4, R5). -/
theorem RegRow.natBit_write (r : RegRow) (locked : Bool) (old v : Nat) {i : Nat} (hi : i < 32) :
    natBit (r.write locked old v) i =
      ((if natBit (if locked then r.rw else r.rw ||| r.rwl) i then natBit v i else natBit old i) &&
        !(natBit v i && natBit r.w1c i)) := by
  simp only [RegRow.write, natBit_eq_testBit, Nat.testBit_and, Nat.testBit_or, Nat.testBit_xor, testBit_ones32 hi]
  generalize (if locked then r.rw else r.rw ||| r.rwl).testBit i = x
  cases x <;> simp

/-- Of what the host writes, the W1C bits that the module has set in the same cycle are taken out (R10). -/
theorem natBit_writtenBits (v w1c now : Nat) {i : Nat} (hi : i < 32) :
    natBit (v &&& (0xFFFFFFFF ^^^ (w1c &&& now))) i = (natBit v i && !(natBit w1c i && natBit now i)) := by
  simp [natBit_eq_testBit, testBit_ones32 hi]

theorem regRow_mbxHdb : regRow A.mbxHdb =
    some ⟨A.mbxHdb, 1, 134217728, 1, 134217728, 1, 134217728, 0x0, 0x0, 0xFFFFFFFF, 0x0⟩ := by decide +kernel

theorem regRow_mbxHdbMask : regRow A.mbxHdbMask =
    some ⟨A.mbxHdbMask, 1, 134217728, 1, 134217728, 1, 134217728, 0xFFFFFFFF, 0xFFFFFFFF, 0x0, 0x0⟩ := by decide +kernel

/-- A one written to bit 0 of the doorbell register clears it, unless the module has set it in the same cycle (R10, R425). -/
theorem State.bit_writeReg_mbxHdb {s : State} {v : Nat} (hv : natBit v 0 = true) :
    (s.writeReg A.mbxHdb v).bit A.mbxHdb 0 = (s.bit A.mbxHdb 0 && natBit (s.setNow A.mbxHdb) 0) := by
  rw [State.writeReg_of_row regRow_mbxHdb, State.bit, State.reg_setReg, if_pos rfl, natBit_mod (by decide),
    RegRow.natBit_write _ _ _ _ (by decide), natBit_writtenBits _ _ _ (by decide), hv]
  cases s.boot.image.isSome <;> simp [State.bit, show natBit 0 0 = false from rfl, show natBit 0xFFFFFFFF 0 = true from rfl]

/-- The mask register holds what is written. -/
theorem State.reg_writeReg_mbxHdbMask (s : State) (v : Word) : (s.writeReg A.mbxHdbMask v.toNat).reg A.mbxHdbMask = v.toNat := by
  rw [State.writeReg_of_row regRow_mbxHdbMask, State.reg_setReg, if_pos rfl]
  refine Nat.eq_of_testBit_eq fun i => ?_
  rw [Nat.testBit_mod_two_pow]
  by_cases hi : i < 32
  · have hones : natBit 0xFFFFFFFF i = true := (natBit_eq_testBit _ _).trans (testBit_ones32 hi)
    rw [← natBit_eq_testBit, ← natBit_eq_testBit, RegRow.natBit_write _ _ _ _ hi, natBit_writtenBits _ _ _ hi]
    cases s.boot.image.isSome <;> simp [hi, hones, natBit_eq_testBit]
  · rw [decide_eq_false hi, Bool.false_and, Nat.testBit_lt_two_pow (lt_of_lt_of_le v.isLt (Nat.pow_le_pow_right (by decide) (by omega)))]

theorem State.writeReg_shows (s : State) (a v : Nat) : Shows s (s.writeReg a v) := by
  unfold State.writeReg
  split
  · exact s.setReg_shows _ _
  · exact .refl s

end Sys2Proof.Machine
end

/-!
# The clauses of the mailbox
-/
section
namespace Sys2Proof.Machine

open Sys2Proof.Safety

/-! ### Words and pushes -/

/-- A push of 12 to 256 bytes seals the open packet. -/
theorem execMbxCmdPush_sealed {s : State} {v : Word} {p : Packet} (hs : s.awake = true) (hv : natBit v.toNat 0 = true)
    (hc : s.host.cmdBad = false) (hp : s.openPacket = some p) (h12 : 12 ≤ p.bytes) (h256 : p.bytes ≤ 256) :
    execMbxCmdPush v s = .next (s.setLast [{ p with len := p.bytes, sealed_ := true }]) := by
  rw [execMbxCmdPush_open hs hv hc hp, if_pos ⟨h12, h256⟩]

/-- A push of another length discards the packet, with code 2. -/
theorem execMbxCmdPush_discarded {s : State} {v : Word} {p : Packet} (hs : s.awake = true) (hv : natBit v.toNat 0 = true)
    (hc : s.host.cmdBad = false) (hp : s.openPacket = some p) (hlen : p.bytes < 12 ∨ 256 < p.bytes) :
    execMbxCmdPush v s = .next ((s.setLast []).ack p.tag 2) := by
  rw [execMbxCmdPush_open hs hv hc hp, if_neg (by omega)]

/-- A word written to a damaged queue begins its first packet (R427). -/
theorem execMbxCmdDataWrite_damaged {s : State} (v : Word) (hs : s.awake = true) (hc : s.host.cmdBad = true) :
    ∃ t, execMbxCmdDataWrite v s = .next t ∧ Aside s t ∧ t.host.packets = [⟨[v.toNat], 0, false⟩] ∧ t.host.cmdBad = false ∧
      Logged s t [(Ev.queuePtr, s.srcGroom)] := by
  obtain ⟨hpk, hbad, haside, hlog⟩ := State.cmdCheck_bad hc
  have hopen : s.cmdCheck.openPacket = none := by simp [State.openPacket, hpk]
  have hspace : 8 ≤ s.cmdCheck.cmdSpace := by simp [State.cmdSpace, hpk]
  refine ⟨_, execMbxCmdDataWrite_begin v hs hopen hspace, ⟨haside.hbm, haside.stalls, haside.barns, haside.dies⟩, ?_, hbad, hlog⟩
  show s.cmdCheck.host.packets ++ _ = _
  rw [hpk]
  rfl

/-! ### Commands -/

/-- A FAR_MAP within its form and the table, once its read of the entries is clean. -/
theorem execFarMap_accepted {s : State} {p : Packet} {im : Image} (h : NextRuns s p) (ho : p.opcode = 1)
    (hf : p.len = 24 ∧ 0 < p.word 3 ∧ p.word 3 ≤ 65536) (him : s.boot.image = some im) (hb : p.word 2 + p.word 3 ≤ im.farPages)
    (hun : (s.farMapRead p).2.2.2 = false) (hlost : (s.farMapRead p).2.2.1.any id = false)
    (hbad : (farEntries (s.farMapRead p).2.1 (p.word 3)).any badFarEntry = false) :
    ∃ t, execFarMap s = .next t ∧ t.far.change = some ⟨p.word 2, farEntries (s.farMapRead p).2.1 (p.word 3), p.tag⟩ ∧
      t.host.packets = s.host.packets.drop 1 ∧ t.host.acks = [] ∧ t.hbm = s.hbm ∧ t.stalls = s.stalls := by
  have hd := s.farMapRead_dropped p
  refine ⟨_, execFarMap_next h ho, ?_⟩
  rw [State.runFarMap_formed hf (u := s.dropCmd) him, if_neg (by omega), State.farMapRead_dropCmd, if_neg (by simp [hun, hlost]),
    if_neg (by simp [hbad])]
  exact ⟨rfl, rfl, h.acks, hd.hbm, hd.stalls⟩

/-- A FAR_MAP of a form that is not valid is answered with code 2. -/
theorem execFarMap_illFormed {s : State} {p : Packet} (h : NextRuns s p) (ho : p.opcode = 1)
    (hf : p.len ≠ 24 ∨ p.word 3 = 0 ∨ 65536 < p.word 3) : ∃ t, execFarMap s = .next t ∧ Answered s t p 2 := by
  refine ⟨_, execFarMap_next h ho, ?_⟩
  rw [State.runFarMap_illFormed hf]
  exact s.dropCmd_dropped.answered h (by decide)

/-- A FAR_MAP beyond the table is answered with code 4. -/
theorem execFarMap_beyond {s : State} {p : Packet} {im : Image} (h : NextRuns s p) (ho : p.opcode = 1)
    (hf : p.len = 24 ∧ 0 < p.word 3 ∧ p.word 3 ≤ 65536) (him : s.boot.image = some im) (hb : im.farPages < p.word 2 + p.word 3) :
    ∃ t, execFarMap s = .next t ∧ Answered s t p 4 := by
  refine ⟨_, execFarMap_next h ho, ?_⟩
  rw [State.runFarMap_formed hf (u := s.dropCmd) him, if_pos hb]
  exact s.dropCmd_dropped.answered h (by decide)

/-- A FAR_MAP whose entries lie in unassigned addresses is answered with code 5. -/
theorem execFarMap_unassigned {s : State} {p : Packet} {im : Image} (h : NextRuns s p) (ho : p.opcode = 1)
    (hf : p.len = 24 ∧ 0 < p.word 3 ∧ p.word 3 ≤ 65536) (him : s.boot.image = some im) (hb : p.word 2 + p.word 3 ≤ im.farPages)
    (hun : (s.farMapRead p).2.2.2 = true) : ∃ t, execFarMap s = .next t ∧ Answered s t p 5 := by
  refine ⟨_, execFarMap_next h ho, ?_⟩
  rw [State.runFarMap_formed hf (u := s.dropCmd) him, if_neg (by omega), State.farMapRead_dropCmd, if_pos (by simp [hun])]
  exact (s.farMapRead_dropped p).answered h (by decide)

/-- A FAR_MAP with an entry that is not valid is answered with code 6. -/
theorem execFarMap_badEntry {s : State} {p : Packet} {im : Image} (h : NextRuns s p) (ho : p.opcode = 1)
    (hf : p.len = 24 ∧ 0 < p.word 3 ∧ p.word 3 ≤ 65536) (him : s.boot.image = some im) (hb : p.word 2 + p.word 3 ≤ im.farPages)
    (hun : (s.farMapRead p).2.2.2 = false) (hlost : (s.farMapRead p).2.2.1.any id = false)
    (hbad : (farEntries (s.farMapRead p).2.1 (p.word 3)).any badFarEntry = true) :
    ∃ t, execFarMap s = .next t ∧ Answered s t p 6 := by
  refine ⟨_, execFarMap_next h ho, ?_⟩
  rw [State.runFarMap_formed hf (u := s.dropCmd) him, if_neg (by omega), State.farMapRead_dropCmd, if_neg (by simp [hun, hlost]),
    if_pos hbad]
  exact (s.farMapRead_dropped p).answered h (by decide)

/-- With no command outstanding at the device, NVME_RESET leaves the queue and waits for its link (R435). -/
theorem execNvmeReset_waits {s : State} {p : Packet} (h : NextRuns s p) (ho : p.opcode = 2) (hl : p.len = 12) (hn : s.host.nvme = []) :
    ∃ t, execNvmeReset s = .next t ∧ t.host.nvmeTag = some p.tag ∧ t.host.auxReady = false ∧ t.bit A.glbAuxStatus 30 = false ∧
      t.host.packets = s.host.packets.drop 1 ∧ t.host.acks = [] ∧ Aside s t := by
  refine ⟨_, execNvmeReset_next h ho hl, ?_⟩
  rw [State.nvmeFailAll_nil (s := s.dropCmd) hn]
  refine ⟨rfl, rfl, ?_, rfl, h.acks, ⟨rfl, rfl, rfl, rfl⟩⟩
  rw [State.bit_setField _ _ _ (by decide) (by decide)]
  rfl

/-! ### The doorbell register, its mask, far data -/

theorem execMbxHdbClear_awake {s : State} (v : Word) (hs : s.awake = true) :
    execMbxHdbClear v s = .next (s.writeReg A.mbxHdb v.toNat).showAck := congrArg Host.Outcome.next (if_pos hs)

/-- A bit that the module has set in the same cycle stays set (R10), and the next acknowledgement waits. -/
theorem execMbxHdbClear_setNow {s : State} {v : Word} (hs : s.awake = true) (hv : natBit v.toNat 0 = true)
    (hn : natBit (s.setNow A.mbxHdb) 0 = true) (hb : s.bit A.mbxHdb 0 = true) :
    ∃ t, execMbxHdbClear v s = .next t ∧ t.host = s.host ∧ t.out = s.out ∧ t.bit A.mbxHdb 0 = true ∧ Aside s t := by
  have hbit : (s.writeReg A.mbxHdb v.toNat).bit A.mbxHdb 0 = true := by rw [State.bit_writeReg_mbxHdb hv, hb, hn]; rfl
  refine ⟨_, execMbxHdbClear_awake v hs, ?_⟩
  rw [State.showAck_waits hbit]
  exact ⟨s.writeReg_host _ _, s.writeReg_out _ _, hbit, (s.writeReg_shows _ _).aside⟩

/-- Clearing bit 0 shows the acknowledgement that waits (R424). -/
theorem execMbxHdbClear_shows {s : State} {v : Word} {a : AckDue} {l : List AckDue} (hs : s.awake = true) (hv : natBit v.toNat 0 = true)
    (hn : natBit (s.setNow A.mbxHdb) 0 = false) (ha : s.host.acks = a :: l) :
    ∃ t, execMbxHdbClear v s = .next t ∧ AckShown s t a.tag a.code l := by
  have hbit : (s.writeReg A.mbxHdb v.toNat).bit A.mbxHdb 0 = false := by rw [State.bit_writeReg_mbxHdb hv, hn, Bool.and_false]
  have hack := State.showAck_cons (s := s.writeReg A.mbxHdb v.toNat) (by rw [s.writeReg_host]; exact ha) hbit
  exact ⟨_, execMbxHdbClear_awake v hs, (s.writeReg_shows _ _).trans hack.frame, hack.acks, hack.ack, hack.bell⟩

/-- With no acknowledgement waiting the bit is cleared and nothing else happens. -/
theorem execMbxHdbClear_last {s : State} {v : Word} (hs : s.awake = true) (hv : natBit v.toNat 0 = true)
    (hn : natBit (s.setNow A.mbxHdb) 0 = false) (ha : s.host.acks = []) :
    ∃ t, execMbxHdbClear v s = .next t ∧ t.host = s.host ∧ t.out = s.out ∧ t.bit A.mbxHdb 0 = false ∧ Aside s t := by
  refine ⟨_, execMbxHdbClear_awake v hs, ?_⟩
  rw [State.showAck_nil (by rw [s.writeReg_host]; exact ha)]
  refine ⟨s.writeReg_host _ _, s.writeReg_out _ _, ?_, (s.writeReg_shows _ _).aside⟩
  rw [State.bit_writeReg_mbxHdb hv, hn, Bool.and_false]

/-- The message of the doorbell register is due when the mask of a set bit is cleared (R425). -/
theorem execMbxHdbMaskWrite_unmasks {s : State} {v : Word} (hs : s.awake = true)
    (hi : ∃ i < 32, natBit (s.reg A.mbxHdbMask) i = true ∧ natBit v.toNat i = false ∧ s.bit A.mbxHdb i = true) :
    execMbxHdbMaskWrite v s = .next ((s.writeReg A.mbxHdbMask v.toNat).msix (s.field A.mbxCfg 10 0)) := by
  have hother : ∀ k, k ≠ A.mbxHdbMask → (s.writeReg A.mbxHdbMask v.toNat).reg k = s.reg k := fun k hk => by
    rw [State.writeReg_of_row regRow_mbxHdbMask, State.reg_setReg, if_neg hk]
  obtain ⟨i, hi32, hold, hnew, hset⟩ := hi
  unfold execMbxHdbMaskWrite
  rw [if_neg (by simp [hs])]
  dsimp only
  rw [if_pos, State.field_of_reg 10 0 (hother A.mbxCfg (by decide))]
  refine List.any_eq_true.mpr ⟨i, List.mem_range.mpr hi32, ?_⟩
  rw [State.reg_writeReg_mbxHdbMask, State.bit_of_reg i (hother A.mbxHdb (by decide)), hold, hnew, hset]
  rfl

/-- It goes out at once where the host takes it. -/
theorem execMbxHdbMaskWrite_sends {s : State} {v : Word} (hs : s.awake = true)
    (hi : ∃ i < 32, natBit (s.reg A.mbxHdbMask) i = true ∧ natBit v.toNat i = false ∧ s.bit A.mbxHdb i = true)
    (hm : s.host.fmask = false) (ho : s.hostOk = true) (hw : s.host.waiting = []) (hu : s.field A.mbxCfg 10 0 ∈ s.host.unmasked) :
    ∃ t, execMbxHdbMaskWrite v s = .next t ∧ t.out = s.out ++ [.msix (s.field A.mbxCfg 10 0)] ∧ t.reg A.mbxHdbMask = v.toNat ∧
      Aside s t := by
  have hhost := s.writeReg_host A.mbxHdbMask v.toNat
  have hok : (s.writeReg A.mbxHdbMask v.toNat).hostOk = true := by rw [State.hostOk, hhost]; exact ho
  refine ⟨_, execMbxHdbMaskWrite_unmasks hs hi, ?_⟩
  rw [State.msix_sent (by rw [hhost]; exact hm) (by rw [hhost]; exact hu) hok (by rw [hhost]; exact hw)]
  exact ⟨congrArg (· ++ _) (s.writeReg_out _ _), s.reg_writeReg_mbxHdbMask v, ((s.writeReg_shows _ _).trans (State.emit_shows _ _)).aside⟩

/-- Far data reaches every piece of its number that has not yet landed (R300). -/
theorem State.deliverFar_data (s : State) (r : FarRead) (bs : List Byte) :
    ∀ g ∈ ((s.deliverFar r bs).stall r.stall).str.flying, g.id = r.id → s.cyc ≤ g.fin → g.data = some bs := by
  unfold State.deliverFar
  rw [State.stall_modStall, if_pos rfl]
  intro g hg hid hfin
  obtain ⟨f, -, hf⟩ := List.mem_filterMap.mp hg
  split at hf
  · dsimp only at hf
    split at hf
    · obtain rfl := Option.some.inj hf
      rfl
    · obtain rfl := Option.some.inj hf
      contradiction
  · obtain rfl := Option.some.inj hf
    contradiction

/-- Data from host memory goes to the far piece that asked for it. -/
theorem execHostReadCompletion_found {s : State} {tag : Nat} {data : List Byte} {r : FarRead}
    (hr : (s.far.reads.find? fun r => decide (r.kind = 1 ∧ r.tagNo = tag)) = some r) :
    execHostReadCompletion tag data true s = .next (s.deliverFar r (bytesAt data 0 r.len)) ∧ r.tagNo = tag := by
  have hfound := List.find?_some hr
  refine ⟨?_, (of_decide_eq_true hfound).2⟩
  unfold execHostReadCompletion
  rw [hr]
  rfl

/-! ### The clauses together -/

/-- Writes of a queue that is not damaged: a word begins a packet or joins one, a push seals or discards it (R422). -/
theorem mailbox_writes {s : State} (hs : s.awake = true) (v : Word) (hc : s.host.cmdBad = false) :
    (s.openPacket = none → 8 ≤ s.cmdSpace → ∃ t, execMbxCmdDataWrite v s = .next t ∧
      t = { s with host := { s.host with packets := s.host.packets ++ [⟨[v.toNat], 0, false⟩] } }) ∧
    (∀ p, s.openPacket = some p → 4 ≤ s.cmdSpace → ∃ t, execMbxCmdDataWrite v s = .next t ∧
      t = { s with host := { s.host with packets := s.host.packets.dropLast ++ [{ p with words := p.words ++ [v.toNat] }] } }) ∧
    (∀ p, natBit v.toNat 0 = true → s.openPacket = some p →
      (12 ≤ p.bytes → p.bytes ≤ 256 → ∃ t, execMbxCmdPush v s = .next t ∧ t.out = s.out ∧ t.hbm = s.hbm ∧
        t.host.packets = s.host.packets.dropLast ++ [{ p with len := p.bytes, sealed_ := true }]) ∧
      (p.bytes < 12 ∨ 256 < p.bytes → s.bit A.mbxHdb 0 = false → s.host.acks = [] → ∃ t, execMbxCmdPush v s = .next t ∧
        t.hbm = s.hbm ∧ t.host.packets = s.host.packets.dropLast ∧ t.reg A.mbxAck = 2 * 65536 + p.tag ∧ t.bit A.mbxHdb 0 = true)) := by
  have hgood := State.cmdCheck_good hc
  refine ⟨fun hp hr => ⟨_, execMbxCmdDataWrite_begin v hs (by rwa [hgood]) (by rwa [hgood]), by rw [hgood]⟩,
    fun p hp hr => ⟨_, execMbxCmdDataWrite_join v hs hc hp hr, rfl⟩,
    fun p hv hp => ⟨fun h12 h256 => ⟨_, execMbxCmdPush_sealed hs hv hc hp h12 h256, rfl, rfl, rfl⟩, fun hlen hb ha => ?_⟩⟩
  have hack := State.ack_shown (s := s.setLast []) p.tag 2 ha hb
  refine ⟨_, execMbxCmdPush_discarded hs hv hc hp hlen, hack.frame.aside.hbm, ?_, ?_, hack.bell⟩
  · rw [hack.frame.packets]
    exact List.append_nil _
  · rw [hack.ack, Nat.mod_eq_of_lt p.tag_lt]

/-- Settles O40: each clause is an equation of its command above, read with the rules of acknowledgements (R424) and of reads of HBM. -/
theorem mailboxCommands : Obligations.MailboxCommands := by
  intro s hs
  refine ⟨fun v hc => mailbox_writes hs v hc, fun v hc => execMbxCmdDataWrite_damaged v hs hc, fun p hc hp hb ha => ?_,
    fun v hv hn hb => execMbxHdbClear_setNow hs hv hn hb, fun v hv hn => ⟨fun a l ha => ?_, fun ha => execMbxHdbClear_last hs hv hn ha⟩,
    fun v hi hm ho hw hu => execMbxHdbMaskWrite_sends hs hi hm ho hw hu, fun tag data r hr => ?_⟩
  · have h : NextRuns s p := ⟨hs, hc, hp, hb, ha⟩
    have hd := s.dropCmd_dropped
    intro acked w
    refine ⟨fun ho hl => ⟨_, execNopCommand_next h (by omega) (by omega), ?_⟩, fun h0 h1 h2 => ⟨_, execNopCommand_next h h1 h2, ?_⟩,
      fun ho hf => execFarMap_illFormed h ho hf, fun im ho hl hw3 hw3' him => ⟨fun hlt => ?_, fun hle => ⟨?_, ?_, ?_⟩⟩,
      fun ho hl hn => execNvmeReset_waits h ho hl hn⟩
    · rw [if_neg (by simp [ho]), if_neg (by simp [hl])]
      exact hd.answered h (by decide)
    · rw [if_pos h0]
      exact hd.answered h (by decide)
    · exact execFarMap_beyond h ho ⟨hl, hw3, hw3'⟩ him hlt
    · exact fun hun => execFarMap_unassigned h ho ⟨hl, hw3, hw3'⟩ him hle hun
    · exact fun hun hlost hbad => execFarMap_badEntry h ho ⟨hl, hw3, hw3'⟩ him hle hun hlost hbad
    · exact fun hun hlost hbad => execFarMap_accepted h ho ⟨hl, hw3, hw3'⟩ him hle hun hlost hbad
  · obtain ⟨t, ht, hack⟩ := execMbxHdbClear_shows hs hv hn ha
    exact ⟨t, ht, hack.acks, hack.bell, hack.ack, hack.frame.aside⟩
  · obtain ⟨hexec, rfl⟩ := execHostReadCompletion_found (data := data) hr
    exact ⟨_, hexec, rfl, rfl, rfl, s.deliverFar_data r _⟩

end Sys2Proof.Machine
end

/-!
# Register reads

A read depends on neither the holding copies nor what has been sent, but for the upper words of wide values (R8, R9).
-/
section
namespace Sys2Proof.Machine

open Sys2Proof.Safety

/-! ### What a register reads as does not depend on what reads change -/

/-- The state with other holding copies and another list of what has been sent: all that a read changes. -/
def State.afterRead (s : State) (h : Sparse Nat) (o : List Out) : State := { s with hold := h, out := o }

section
variable (s : State) (h : Sparse Nat) (o : List Out)

theorem State.peekUnits_afterRead (j u n : Nat) : (s.afterRead h o).peekUnits j u n = s.peekUnits j u n := by
  induction n generalizing u with
  | zero => rfl
  | succ n ih => simp only [State.peekUnits, ih]; rfl

theorem State.farEntry_afterRead (p : Nat) : (s.afterRead h o).farEntry p = s.farEntry p := by
  have hpeek : ∀ a n, (s.afterRead h o).peek a n = s.peek a n := fun a n => by
    simp only [State.peek, State.peekStack, State.peekUnits_afterRead]
    rfl
  simp only [State.farEntry, hpeek]
  rfl

theorem State.loftPending_afterRead : (s.afterRead h o).loftPending = s.loftPending := by
  simp only [State.loftPending, State.farEntry_afterRead]
  rfl

theorem State.stackRegs_afterRead (j b : Nat) : (s.afterRead h o).stackRegs j b = s.stackRegs j b := by
  simp only [State.stackRegs, State.loftPending_afterRead]
  rfl

theorem State.regNow_afterRead (a : Nat) : (s.afterRead h o).regNow a = s.regNow a := by
  simp only [State.regNow, State.stackRegs_afterRead]
  rfl

end

/-! ### The upper words of a wide value -/

/-- The holding copies after a read of the low word at address a. -/
def State.held (s : State) (a : Nat) : Sparse Nat :=
  if isWideLow a then (List.range (upperWords a)).foldl (fun m k =>
    sset regReset m (a + 4 * (k + 1)) (s.regNow (a + 4 * (k + 1)) % 2 ^ 32)) s.hold
  else s.hold

/-- A read of 32 bits sends the register, and holds the upper words where it reads a low word (R9). -/
theorem State.readWord_eq {s : State} (hs : s.awake = true) (a : Nat) :
    s.readWord a = s.afterRead (s.held a) (s.out ++ [.bar0 (s.readReg a)]) := by
  unfold State.readWord State.held
  rw [if_neg (by simp [hs])]
  dsimp only
  split <;> rfl

/-- Words written at rising addresses read as they were written. -/
theorem sget_foldl_sset (f : Nat → Nat) (m : Sparse Nat) (a n k : Nat) :
    sget regReset ((List.range n).foldl (fun m k => sset regReset m (a + 4 * (k + 1)) (f k)) m) (a + 4 * (k + 1)) =
      if k < n then f k else sget regReset m (a + 4 * (k + 1)) := by
  induction n with
  | zero => rfl
  | succ n ih =>
    rw [List.range_succ, List.foldl_append, List.foldl_cons, List.foldl_nil, sget_sset, ih]
    by_cases hk : k = n
    · simp [hk]
    · rw [if_neg (by omega)]
      exact if_congr (by omega) rfl rfl

theorem upperWords_le (a : Nat) : upperWords a ≤ 7 := by
  unfold upperWords
  split <;> decide

theorem isUpper_of_isWideLow {a k : Nat} (hw : isWideLow a = true) (hk : k < upperWords a) : isUpper (a + 4 * (k + 1)) = true := by
  have h7 := upperWords_le a
  refine List.any_eq_true.mpr ⟨k, List.mem_range.mpr (by omega), ?_⟩
  rw [Nat.add_sub_cancel]
  simp [hw, hk]

/-- After a read of a low word each upper word reads as it stood then (R9). -/
theorem State.readReg_upper {s : State} (hs : s.awake = true) {a k : Nat} (hw : isWideLow a = true) (hk : k < upperWords a) :
    (s.readWord a).readReg (a + 4 * (k + 1)) = s.regNow (a + 4 * (k + 1)) % 2 ^ 32 := by
  have hawake : ∀ h o, (s.afterRead h o).awake = true := fun _ _ => hs
  rw [State.readWord_eq hs, State.readReg, if_neg (by simp [hawake]), if_pos (isUpper_of_isWideLow hw hk)]
  show sget regReset (s.held a) _ = _
  unfold State.held
  rw [if_pos hw, sget_foldl_sset, if_pos hk]

/-- After a read of a register that is no low word every register reads as before. -/
theorem State.readReg_readWord {s : State} (hs : s.awake = true) {a : Nat} (hw : isWideLow a = false) (b : Nat) :
    (s.readWord a).readReg b = s.readReg b := by
  have hheld : s.held a = s.hold := if_neg (by simp [hw])
  have hawake : ∀ h o, (s.afterRead h o).awake = s.awake := fun _ _ => rfl
  rw [State.readWord_eq hs, hheld]
  simp only [State.readReg, State.regNow_afterRead, hawake]
  rfl

end Sys2Proof.Machine
end

/-!
# Accesses of the host

BAR2 (R281, R403 to R405), register accesses (R4 to R10) and the MSI-X table (R433).
-/
section
namespace Sys2Proof.Machine

open Sys2Proof.Safety

/-! ### BAR2 -/

/-- A range inside one unit of 2 KiB is one part. -/
theorem partsOf_within {a n : Nat} (hn : 0 < n) (h : a % 2048 + n ≤ 2048) : partsOf a n = [(a, n)] := by
  have hmin : min n (2048 - a % 2048) = n := by omega
  simp only [partsOf, spans, show ¬ n = 0 by omega, if_false, hmin, Nat.sub_self, if_true]

/-- Bytes none of which is withheld are read as they are. -/
theorem map_zip_of_not_lost {bs : List Byte} {lost : List Bool} (h : lost.any id = false) (hl : lost.length = bs.length) :
    ((bs.zip lost).map fun p => if p.2 then 0xFF else p.1) = bs := by
  have hfst : ((bs.zip lost).map fun p => if p.2 then (0xFF : Byte) else p.1) = (bs.zip lost).map Prod.fst := by
    refine List.map_congr_left fun p hp => if_neg ?_
    have := List.any_eq_false.mp h p.2 (List.of_mem_zip hp).2
    simpa using this
  rw [hfst, List.map_fst_zip (by omega)]

theorem State.bar2Unassigned_frame (s : State) : (s.bar2Unassigned).out = s.out ∧ s.bar2Unassigned.hbm = s.hbm ∧
    s.bar2Unassigned.stalls = s.stalls := by
  unfold State.bar2Unassigned
  split <;> exact ⟨rfl, rfl, rfl⟩

/-- The first unassigned access of BAR2 sets its flag and raises its event (R281). -/
theorem State.bar2Unassigned_first {s : State} (h : s.bit A.glbHostErr 28 = false) :
    s.bar2Unassigned = (s.setBit A.glbHostErr 28).event Ev.hbmUnassigned srcGateLogic s.cyc [] := if_neg (by simp [h])

theorem State.event_logged (s : State) (code src x : Nat) (detail : List Byte) : Logged s (s.event code src x detail) [(code, src)] := by
  simp [Logged]

theorem mem_of_logged {s t : State} {l : List (Nat × Nat)} {p : Nat × Nat} (h : Logged s t l) (hp : p ∈ l) :
    p ∈ t.log.held.map fun e => (e.code, e.src) := by
  rw [h]
  exact List.mem_append_right _ hp

/-- A read that BAR2 serves in full: its bytes are sent; an unassigned address is flagged (R281, R403). -/
theorem State.serveBar2_eq {s : State} {off len : Nat} (hlen : s.bar2Addr off + len ≤ 2 ^ 41)
    (hlost : (s.readMem (s.bar2Addr off) len s.cyc).2.2.1.any id = false)
    (hl : (s.readMem (s.bar2Addr off) len s.cyc).2.2.1.length = (s.readMem (s.bar2Addr off) len s.cyc).2.1.length) :
    let rd := s.readMem (s.bar2Addr off) len s.cyc
    s.serveBar2 off len = (if rd.2.2.2 = true then rd.1.bar2Unassigned else rd.1).emit (.bar2Data rd.2.1) := by
  have hmin : min len (2 ^ 41 - s.bar2Addr off) = len := by omega
  have hbytes := map_zip_of_not_lost hlost hl
  unfold State.serveBar2
  simp only [hmin, hbytes, Nat.sub_self]
  simp [zeroBytes]

/-- The oldest read that waits is aborted 1 ms after it came (R405). -/
theorem execBar2ReadTimeout_cons {s : State} {r : Bar2Read} {l : List Bar2Read} (h : s.host.bar2 = r :: l) :
    let u := s.at_ (r.at_ + 1750000)
    let v : State := { u with host := { u.host with bar2 := l } }
    execBar2ReadTimeout s = .next (((v.setBit A.glbHostErr 30).event Ev.bar2Timeout srcGateLogic u.cyc []).emit .bar2Abort) := by
  unfold execBar2ReadTimeout
  rw [h]

/-- A BAR2 write within one unit, with its one part's fate (R403, R404). -/
theorem execBar2Write_within {s : State} {off : Nat} {data : List Byte} (hs : s.awake = true)
    (hlen : s.bar2Addr off + data.length ≤ 2 ^ 41) (hne : data ≠ []) (hunit : s.bar2Addr off % 2048 + data.length ≤ 2048) :
    let a := s.bar2Addr off
    let p := if s.bar2Takes a = true then (s.writeMem a s.cyc data false, data.drop data.length, false, false)
      else (s, data.drop data.length, true, false || (s.locate a).isNone)
    let u := if p.2.2.2 = true then p.1.bar2Unassigned else p.1
    let v := u.bump A.glbHostErr 15 0 1
    execBar2Write off data s = .next (if (!p.2.2.1) = true then u
      else if v.bit A.glbHostErr 31 = true then v else (v.setBit A.glbHostErr 31).event Ev.bar2Denied srcGateLogic v.cyc []) := by
  have hpos : 0 < data.length := List.length_pos_iff.mpr hne
  have hmin : min data.length (2 ^ 41 - s.bar2Addr off) = data.length := by omega
  unfold execBar2Write
  rw [if_neg (by simp [hs])]
  dsimp only
  rw [hmin, List.take_length, partsOf_within hpos hunit, List.foldl_cons, List.foldl_nil]
  dsimp only
  rw [List.take_length]

theorem execBar2Write_taken {s : State} {off : Nat} {data : List Byte} (hs : s.awake = true)
    (hlen : s.bar2Addr off + data.length ≤ 2 ^ 41) (hne : data ≠ []) (hunit : s.bar2Addr off % 2048 + data.length ≤ 2048)
    (ht : s.bar2Takes (s.bar2Addr off) = true) :
    execBar2Write off data s = .next (s.writeMem (s.bar2Addr off) s.cyc data false) := by
  rw [execBar2Write_within hs hlen hne hunit, if_pos ht]
  rfl

/-- A write that no region takes changes nothing but its count, its flag and its event. -/
theorem execBar2Write_denied {s : State} {off : Nat} {data : List Byte} (hs : s.awake = true)
    (hlen : s.bar2Addr off + data.length ≤ 2 ^ 41) (hne : data ≠ []) (hunit : s.bar2Addr off % 2048 + data.length ≤ 2048)
    (ht : s.bar2Takes (s.bar2Addr off) = false) (hl : (s.locate (s.bar2Addr off)).isSome = true) (hb : s.bit A.glbHostErr 31 = false) :
    execBar2Write off data s = .next (((s.bump A.glbHostErr 15 0 1).setBit A.glbHostErr 31).event Ev.bar2Denied srcGateLogic
      s.cyc []) := by
  have hn : (s.locate (s.bar2Addr off)).isNone = false := by rw [← Option.not_isSome, hl]; rfl
  have hb' : ¬ (s.bump A.glbHostErr 15 0 1).bit A.glbHostErr 31 = true := by
    rw [State.bit_bump s _ _ (by decide) (by decide) (by decide), hb]
    decide
  rw [execBar2Write_within hs hlen hne hunit, if_neg (show ¬ s.bar2Takes (s.bar2Addr off) = true by simp [ht]), hn]
  exact congrArg Host.Outcome.next (if_neg hb')

/-! ### Register writes -/

theorem State.writeWord_of_row {s : State} (hs : s.awake = true) {a v : Nat} {r : RegRow} (ha : a < 0x80000 ∨ 0x88000 ≤ a)
    (hr : regRow a = some r) : s.writeWord a v = s.writeRow r a v := by
  unfold State.writeWord
  rw [if_neg (by simp [hs]), if_neg (by omega), hr]

/-- A write that is a command of its own is not this one. -/
theorem State.writeRow_own {s : State} {r : RegRow} {a v : Nat} (h : ownRegister r = true ∨ v &&& actionBits r ≠ 0) :
    s.writeRow r a v = s := if_pos (by simpa using h)

/-- A plain write of a register outside the barns. -/
theorem State.writeRow_plain {s : State} {r : RegRow} {a v : Nat} (ha : a < 0x1000000) (ho : ownRegister r = false)
    (hv : v &&& actionBits r = 0) (hlo : r.base ≠ A.glbRingBaseLo) (hhi : r.base ≠ A.glbRingBaseHi) (hck : r.base ≠ A.ckpCtrl)
    (hw : r.base ≠ A.glbBar2Window) : s.writeRow r a v = s.writeReg a v := by
  have htaken : s.takenAs r v = v := by
    unfold State.takenAs
    rw [if_neg hck, if_neg hw]
  unfold State.writeRow
  rw [if_neg (by simp [ho, hv]), if_neg (by simp [hlo, hhi]), if_neg (by omega), htaken]

/-- A write of a stall's OPE error register reaches that stall (R21, R133). -/
theorem State.writeRow_stlOpeErr {s : State} {r : RegRow} {i v : Nat} (hb : r.base = A.stlOpeErr) :
    ∃ k, s.writeRow r (stallReg A.stlOpeErr i) v = s.onStall i s.cyc fun t => t.writeErr r k v := by
  have hown : ownRegister r = false := by simp only [ownRegister, hb]; decide
  have hact : actionBits r = 0 := by simp only [actionBits, hb]; decide
  have ha : stallReg A.stlOpeErr i = 0x1040810 + i / 80 * 0x200000 + i % 80 * 0x4000 := rfl
  have hidx : 80 * ((stallReg A.stlOpeErr i - 0x1000000) / 0x200000) + (stallReg A.stlOpeErr i % 0x200000 - 0x40000) / 0x4000 = i := by
    omega
  unfold State.writeRow
  rw [if_neg (by simp [hown, hact]), if_neg (fun h => absurd h.1 (by rw [hb]; decide)),
    if_pos ⟨by omega, by rw [hb]; decide, by omega⟩]
  dsimp only
  rw [hidx]
  exact ⟨_, rfl⟩

end Sys2Proof.Machine
end

/-!
# The clauses of the host's accesses
-/
section
namespace Sys2Proof.Machine

open Sys2Proof.Safety

section
variable {s : State}

theorem execBar2Read_served (hs : s.awake = true) (hc : s.clocked = true) (off len : Nat) :
    execBar2Read off len s = .next (s.serveBar2 off len) := by
  unfold execBar2Read
  rw [if_neg (by simp [hs]), if_pos hc]

theorem execBar2Read_waits (hs : s.awake = true) (hc : s.clocked = false) (off len : Nat) :
    execBar2Read off len s = .next { s with host := { s.host with bar2 := s.host.bar2 ++ [⟨off, len, s.cyc⟩] } } := by
  unfold execBar2Read
  rw [if_neg (by simp [hs]), if_neg (by simp [hc])]

/-- A read through BAR2 with the clocks running sends the bytes and leaves memory and stalls; an unassigned address is flagged once
(R281, R403). -/
theorem execBar2Read_clocked {off len : Nat} (hs : s.awake = true) (hc : s.clocked = true) (hlen : s.bar2Addr off + len ≤ 2 ^ 41)
    (hlost : (s.readMem (s.bar2Addr off) len s.cyc).2.2.1.any id = false)
    (hl : (s.readMem (s.bar2Addr off) len s.cyc).2.2.1.length = (s.readMem (s.bar2Addr off) len s.cyc).2.1.length) :
    let rd := s.readMem (s.bar2Addr off) len s.cyc
    ∃ t, execBar2Read off len s = .next t ∧ t.out = s.out ++ [.bar2Data rd.2.1] ∧ t.hbm = s.hbm ∧ t.stalls = s.stalls ∧
      (rd.2.2.2 = true → s.bit A.glbHostErr 28 = false →
        t.bit A.glbHostErr 28 = true ∧ (Ev.hbmUnassigned, srcGateLogic) ∈ t.log.held.map fun e => (e.code, e.src)) := by
  intro rd
  have hrd : HbmRead s rd.1 := s.readMem_read _ _ _
  refine ⟨_, execBar2Read_served hs hc off len, ?_⟩
  rw [State.serveBar2_eq hlen hlost hl]
  change State.out (State.emit (if rd.2.2.2 = true then rd.1.bar2Unassigned else rd.1) _) = _ ∧ _
  cases hun : rd.2.2.2 with
  | false => exact ⟨congrArg (· ++ _) hrd.out, hrd.hbm, hrd.stalls, fun h => by cases h⟩
  | true =>
    obtain ⟨hout, hhbm, hstalls⟩ := rd.1.bar2Unassigned_frame
    refine ⟨congrArg (· ++ _) (hout.trans hrd.out), hhbm.trans hrd.hbm, hstalls.trans hrd.stalls, fun _ hb => ?_⟩
    have hb' : rd.1.bit A.glbHostErr 28 = false := (State.bit_of_reg 28 (hrd.low _ (by decide))).trans hb
    have hfirst := State.bar2Unassigned_first hb'
    have hlog : Logged (rd.1.setBit A.glbHostErr 28) rd.1.bar2Unassigned [(Ev.hbmUnassigned, srcGateLogic)] := by
      rw [hfirst]; exact State.event_logged _ _ _ _ _
    refine ⟨?_, mem_of_logged hlog (List.mem_singleton.mpr rfl)⟩
    show State.bit rd.1.bar2Unassigned _ _ = true
    rw [hfirst]
    exact State.bit_setBit_same _ _ (by decide)

/-- An access of another size or alignment (R7). -/
theorem execBar0BadAccess_bad {a n : Nat} (hs : s.awake = true) (hb : badAccess a n = true) (w : Bool) :
    let t := (s.setBit A.glbHostErr 29).event Ev.barAccessSize srcGateLogic s.cyc []
    execBar0BadAccess a n w s = .next (if w = true then t else t.emit (.bar0 0)) := by
  unfold execBar0BadAccess
  rw [if_neg (by simp [hs, hb])]

/-- A set mask bit takes its vector out of the unmasked ones (R433). -/
theorem State.writeWord_msixMask {v : Nat} (hs : s.awake = true) (n : Fin 2048) (hv : natBit v 0 = true) :
    s.writeWord (0x80000 + 16 * n.val + 12) v =
      { s with host := { s.host with unmasked := s.host.unmasked.filter (· ≠ n.val) } } := by
  have hn := n.isLt
  have hidx : (0x80000 + 16 * n.val + 12 - 0x80000) / 16 = n.val := by omega
  unfold State.writeWord
  rw [if_neg (by simp [hs]), if_pos (by omega)]
  unfold State.writeMsix
  rw [if_pos (by omega), if_pos hv, hidx]

theorem State.at_cyc_self (s : State) : s.at_ s.cyc = s := by
  unfold State.at_
  rw [Nat.max_self]

/-- Two 32-bit reads in a row send both registers; the second reads the held upper word where the first reads a low one (R7, R9). -/
theorem State.readWord_twice (hs : s.awake = true) (a : Nat) :
    ((s.readWord a).readWord (a + 4)).out =
      s.out ++ [.bar0 (s.readReg a), .bar0 (if isWideLow a then s.regNow (a + 4) % 2 ^ 32 else s.readReg (a + 4))] := by
  have hs' : (s.readWord a).awake = true := by rw [State.readWord_eq hs]; exact hs
  have hsecond : (s.readWord a).readReg (a + 4) = if isWideLow a then s.regNow (a + 4) % 2 ^ 32 else s.readReg (a + 4) := by
    cases hw : isWideLow a with
    | true => exact State.readReg_upper hs hw (k := 0) (by unfold upperWords; split <;> decide)
    | false => exact State.readReg_readWord hs hw _
  rw [State.readWord_eq hs' (a + 4), ← hsecond, State.readWord_eq hs]
  exact List.append_assoc _ _ _

/-! ### The clauses one by one -/

/-- The oldest BAR2 read that has waited is aborted 1 ms after it came (R405). -/
theorem bar2ReadTimeout_aborts {r : Bar2Read} {l : List Bar2Read} (hr : s.host.bar2 = r :: l) :
    ∃ t, execBar2ReadTimeout s = .next t ∧ Aside s t ∧ t.out = s.out ++ [.bar2Abort] ∧ r.at_ + 1750000 ≤ t.cyc ∧ t.host.bar2 = l ∧
      t.bit A.glbHostErr 30 = true ∧ Logged s t [(Ev.bar2Timeout, srcGateLogic)] :=
  ⟨_, execBar2ReadTimeout_cons hr, ⟨rfl, rfl, rfl, rfl⟩, rfl, le_max_right _ _, rfl, State.bit_setBit_same _ _ (by decide),
    State.event_logged _ _ _ _ _⟩

/-- A denied BAR2 write is counted, flagged and logged (R404). -/
theorem bar2Write_deniedEffect {off : Nat} {data : List Byte} (hs : s.awake = true) (hlen : s.bar2Addr off + data.length ≤ 2 ^ 41)
    (hne : data ≠ []) (hunit : s.bar2Addr off % 2048 + data.length ≤ 2048) (ht : s.bar2Takes (s.bar2Addr off) = false)
    (hl : (s.locate (s.bar2Addr off)).isSome = true) (hb : s.bit A.glbHostErr 31 = false) :
    ∃ t, execBar2Write off data s = .next t ∧ Aside s t ∧ t.bit A.glbHostErr 31 = true ∧ t.out = s.out ∧
      t.field A.glbHostErr 15 0 = min 0xFFFF (s.field A.glbHostErr 15 0 + 1) ∧ Logged s t [(Ev.bar2Denied, srcGateLogic)] :=
  ⟨_, execBar2Write_denied hs hlen hne hunit ht hl hb, ⟨rfl, rfl, rfl, rfl⟩, State.bit_setBit_same _ _ (by decide), rfl,
    (State.field_setBit _ _ (by decide) (by decide) (by decide)).trans (State.field_bump s _ _ (by decide) (by decide)),
    State.event_logged _ _ _ _ _⟩

/-- An access of a wrong size changes nothing but its flag and its event; a read gives zero (R7). -/
theorem bar0BadAccess_effect {a n : Nat} (hs : s.awake = true) (hb : badAccess a n = true) (w : Bool) :
    ∃ t, execBar0BadAccess a n w s = .next t ∧ Aside s t ∧ t.bit A.glbHostErr 29 = true ∧
      (∀ k, k ≠ A.glbHostErr → t.reg k = s.reg k) ∧ t.out = s.out ++ (if w then [] else [.bar0 0]) ∧
      Logged s t [(Ev.barAccessSize, srcGateLogic)] := by
  have hreg : ∀ k, k ≠ A.glbHostErr → (s.setBit A.glbHostErr 29).reg k = s.reg k := fun k hk => by
    rw [State.reg_setBit, if_neg hk]
  have hbit := s.bit_setBit_same A.glbHostErr (i := 29) (by decide)
  refine ⟨_, execBar0BadAccess_bad hs hb w, ?_⟩
  cases w with
  | true => exact ⟨⟨rfl, rfl, rfl, rfl⟩, hbit, hreg, (List.append_nil _).symm, State.event_logged _ _ _ _ _⟩
  | false => exact ⟨⟨rfl, rfl, rfl, rfl⟩, hbit, hreg, rfl, State.event_logged _ _ _ _ _⟩

/-- A read of 32 bits sends the register and, of a low word, holds the upper words (R8, R9). -/
theorem readWord_effect (hs : s.awake = true) (a : Nat) :
    (s.readWord a).out = s.out ++ [.bar0 (s.readReg a)] ∧ (s.readWord a).regs = s.regs ∧ Aside s (s.readWord a) ∧
      (s.readWord a).log = s.log ∧
      (isWideLow a = true → ∀ k < upperWords a, (s.readWord a).readReg (a + 4 * (k + 1)) = s.regNow (a + 4 * (k + 1)) % 2 ^ 32) ∧
      (isWideLow a = false → (s.readWord a).hold = s.hold) := by
  have hupper (hw : isWideLow a = true) (k : Nat) (hk : k < upperWords a) := State.readReg_upper hs hw hk
  rw [State.readWord_eq hs] at hupper ⊢
  exact ⟨rfl, rfl, ⟨rfl, rfl, rfl, rfl⟩, rfl, hupper, fun hw => if_neg (by simp [hw])⟩

/-- A read of 64 bits is two of 32 bits, the lower address first (R7). -/
theorem readWord_twice_effect (hs : s.awake = true) (a : Nat) :
    let t := (s.readWord a).readWord (a + 4)
    t.regs = s.regs ∧ Aside s t ∧ t.log = s.log ∧
      t.out = s.out ++ [.bar0 (s.readReg a), .bar0 (if isWideLow a then s.regNow (a + 4) % 2 ^ 32 else s.readReg (a + 4))] := by
  have hs' : (s.readWord a).awake = true := by rw [State.readWord_eq hs]; exact hs
  obtain ⟨-, hregs, haside, hlog, -, -⟩ := readWord_effect hs a
  obtain ⟨-, hregs', haside', hlog', -, -⟩ := readWord_effect hs' (a + 4)
  exact ⟨hregs'.trans hregs, ⟨haside'.hbm.trans haside.hbm, haside'.stalls.trans haside.stalls, haside'.barns.trans haside.barns,
    haside'.dies.trans haside.dies⟩, hlog'.trans hlog, State.readWord_twice hs a⟩

/-- A plain write acts by the access codes of its row, on that register alone (R4, R5, R10). -/
theorem writeWord_plain {a v : Nat} {r : RegRow} (hs : s.awake = true) (hr : regRow a = some r) (ha : a < 0x80000 ∨ 0x88000 ≤ a)
    (hlt : a < 0x1000000) (ho : ownRegister r = false) (hv : v &&& actionBits r = 0) (hlo : r.base ≠ A.glbRingBaseLo)
    (hhi : r.base ≠ A.glbRingBaseHi) (hck : r.base ≠ A.ckpCtrl) (hw : r.base ≠ A.glbBar2Window) :
    { s.writeWord a v with regs := s.regs } = s ∧
      (s.writeWord a v).reg a =
        r.write s.boot.image.isSome (s.reg a) (v &&& (0xFFFFFFFF ^^^ (r.w1c &&& s.setNow a))) % 2 ^ 32 ∧
      ∀ k, k ≠ a → (s.writeWord a v).reg k = s.reg k := by
  rw [State.writeWord_of_row hs ha hr, State.writeRow_plain hlt ho hv hlo hhi hck hw, State.writeReg_of_row hr]
  exact ⟨rfl, (State.reg_setReg _ _ _).trans (if_pos rfl), fun k hk => (State.reg_setReg _ _ _).trans (if_neg hk)⟩

/-- A write of a stall's OPE error register acts on that stall, brought forward to the present cycle (R133). -/
theorem writeWord_stlOpeErr {i v : Nat} {r : RegRow} (hs : s.awake = true) (hr : regRow (stallReg A.stlOpeErr i) = some r)
    (hbase : r.base = A.stlOpeErr) :
    let t := s.writeWord (stallReg A.stlOpeErr i) v
    t.regs = s.regs ∧ t.hbm = s.hbm ∧ (t.stall i).ope.err = r.write false ((brought s i s.cyc).stall i).ope.err v := by
  obtain ⟨k, hk⟩ := State.writeRow_stlOpeErr (s := s) (i := i) (v := v) hbase
  have hhigh : 0x88000 ≤ stallReg A.stlOpeErr i := by
    unfold stallReg A.stlOpeErr
    omega
  have honly := s.onStall_only i s.cyc fun t => t.writeErr r k v
  have hstall := s.onStall_stall i s.cyc fun t => t.writeErr r k v
  have herr : ∀ t : Stall, (t.writeErr r k v).ope.err = r.write false t.ope.err v := fun t => by
    unfold Stall.writeErr
    rw [if_pos hbase]
  rw [State.writeWord_of_row hs (.inr hhigh) hr, hk, brought, State.at_cyc_self]
  exact ⟨honly.regs, honly.hbm, (congrArg (fun t : Stall => t.ope.err) hstall :).trans (herr _)⟩

/-- Masking a vector takes it, and no other, out of the unmasked ones (R433). -/
theorem writeWord_msixMask_effect (hs : s.awake = true) (n : Fin 2048) {v : Nat} (hv : natBit v 0 = true) :
    let t := s.writeWord (0x80000 + 16 * n.val + 12) v
    Aside s t ∧ t.out = s.out ∧ n.val ∉ t.host.unmasked ∧ ∀ k, k ≠ n.val → (k ∈ t.host.unmasked ↔ k ∈ s.host.unmasked) := by
  rw [State.writeWord_msixMask hs n hv]
  refine ⟨⟨rfl, rfl, rfl, rfl⟩, rfl, fun h => ?_, fun k hk => ?_⟩
  · simpa using List.of_mem_filter h
  · simp [hk]

end

/-- Settles O45: each clause is the effect of its access above. -/
theorem hostAccesses : Obligations.HostAccesses := by
  intro s hs
  refine ⟨fun off len => ⟨fun hc hlen hlost hl => execBar2Read_clocked hs hc hlen hlost hl, fun hc => execBar2Read_waits hs hc off len⟩,
    fun r l hr => bar2ReadTimeout_aborts hr,
    fun off data hlen hne hunit => ⟨fun ht => ?_, fun ht hl hb => bar2Write_deniedEffect hs hlen hne hunit ht hl hb⟩,
    fun a n w hb => bar0BadAccess_effect hs hb w, fun a => ⟨_, rfl, readWord_effect hs a⟩, fun a => ⟨_, rfl, readWord_twice_effect hs a⟩,
    fun a v w => ⟨_, rfl, rfl⟩, fun a v r hr ha => ⟨fun h => ?_, fun hlt ho hv hlo hhi hck hw => ?_⟩,
    fun i v r hr hbase => ⟨_, rfl, writeWord_stlOpeErr hs hr hbase⟩, fun n v hv => ⟨_, rfl, writeWord_msixMask_effect hs n hv⟩⟩
  · have hw : HbmServed s (s.writeMem (s.bar2Addr off) s.cyc data false) := s.writeMem_served _ _ _ _
    exact ⟨_, execBar2Write_taken hs hlen hne hunit ht, rfl, hw.stalls, hw.out⟩
  · show Host.Outcome.next (s.writeWord a v.toNat) = _
    rw [State.writeWord_of_row hs ha hr, State.writeRow_own h]
  · exact ⟨_, rfl, writeWord_plain hs hr ha hlt ho hv hlo hhi hck hw⟩

end Sys2Proof.Machine
end

/-!
# The SPDM responder

An answer changes its own transport's session and the output, nothing else (R16); each request is such an answer (R456 to R458).
-/
section
namespace Sys2Proof.Machine

/-! ### Sessions -/

theorem State.session_setSession_same (s : State) (t : Transport) (y : Session) : (s.setSession t y).session t = y := by
  cases t <;> rfl

theorem State.session_setSession_ne (s : State) (y : Session) {t k : Transport} (hk : k ≠ t) :
    (s.setSession t y).session k = s.session k := by
  cases t with
  | doe =>
    cases k with
    | doe => exact absurd rfl hk
    | mctp => rfl
  | mctp =>
    cases k with
    | doe => rfl
    | mctp => exact absurd rfl hk

theorem State.setSession_session (s : State) (t : Transport) : s.setSession t (s.session t) = s := by
  cases t <;> rfl

@[simp] theorem State.setSession_out (s : State) (t : Transport) (y : Session) : (s.setSession t y).out = s.out := by
  cases t <;> rfl

/-- A session is a part of `sec`: with `sec` and the output put back the state is the one before. -/
theorem State.setSession_frame (s : State) (t : Transport) (y : Session) (v : Secure) (o : List Out) :
    { s.setSession t y with sec := v, out := o } = { s with sec := v, out := o } := by
  cases t <;> rfl

/-- The state once `n` sessions have been begun. -/
def State.counted (s : State) (n : Nat) : State := { s with sec := { s.sec with sessions := n } }

theorem State.session_counted (s : State) (n : Nat) (t : Transport) : (s.counted n).session t = s.session t := by
  cases t <;> rfl

/-! ### Answers -/

/-- A request has one response on its transport, leaves session `y` there, and changes nothing else. -/
def Answers (s : State) (t : Transport) (c : Instr) (y : Session) (code : Nat) (bs : List Byte) : Prop :=
  ∃ u, exec c s = .next u ∧ u.out = s.out ++ [.spdm t code bs] ∧ u.session t = y ∧ (∀ k, k ≠ t → u.session k = s.session k) ∧
    { u with sec := s.sec, out := s.out } = s

section
variable {s : State} {t : Transport} {c : Instr} {y : Session} {code : Nat} {bs : List Byte}

theorem Answers.of_counted {n : Nat} (h : exec c s = .next (((s.counted n).setSession t y).emit (.spdm t code bs))) :
    Answers s t c y code bs := by
  refine ⟨_, h, ?_, (s.counted n).session_setSession_same t y, fun k hk => ?_, (s.counted n).setSession_frame t y s.sec s.out⟩
  · rw [State.emit_out, State.setSession_out]
    rfl
  · exact ((s.counted n).session_setSession_ne y hk).trans (s.session_counted n k)

theorem Answers.of_setSession (h : exec c s = .next ((s.setSession t y).emit (.spdm t code bs))) : Answers s t c y code bs :=
  .of_counted (n := s.sec.sessions) h

theorem Answers.of_emit (h : exec c s = .next (s.emit (.spdm t code bs))) : Answers s t c (s.session t) code bs :=
  .of_setSession (by rw [h, State.setSession_session])

/-- An ERROR response leaves the session as it is; its data is the error code. -/
theorem Answers.of_error (e : Nat) (h : exec c s = .next (s.spdmError t e)) : Answers s t c (s.session t) 0x7F [BitVec.ofNat 8 e] :=
  .of_emit h

end

/-! ### What stands before an answer -/

section
variable {s : State} {t : Transport} (hr : s.responds = true)
include hr

theorem State.negotiated_of_algs (ha : (s.session t).algs = true) (f : State → State) : s.negotiated t f = f s := by
  simp [State.negotiated, hr, ha]

theorem State.negotiated_of_not_algs (ha : (s.session t).algs = false) (f : State → State) :
    s.negotiated t f = s.spdmError t errUnexpected := by
  simp [State.negotiated, hr, ha]

theorem State.inSession_of_secured (hx : (s.session t).state = .secured) (f : State → State) : s.inSession t f = f s := by
  simp [State.inSession, State.secured, hr, hx]

theorem State.inSession_of_not_secured (hx : (s.session t).state ≠ .secured) (f : State → State) :
    s.inSession t f = s.spdmError t errSession := by
  simp [State.inSession, State.secured, hr, hx]

/-- A request before the algorithms stand is unexpected. -/
theorem answers_of_not_algs (ha : (s.session t).algs = false) {c : Instr} {f : State → State}
    (h : exec c s = .next (s.negotiated t f)) : Answers s t c (s.session t) 0x7F [0x04] :=
  .of_error errUnexpected (by rw [h, State.negotiated_of_not_algs hr ha])

/-- A request of a secured session, without one. -/
theorem answers_of_not_secured (hx : (s.session t).state ≠ .secured) {c : Instr} {f : State → State}
    (h : exec c s = .next (s.inSession t f)) : Answers s t c (s.session t) 0x7F [0x0B] :=
  .of_error errSession (by rw [h, State.inSession_of_not_secured hr hx])

/-- A request whose answer `f` is one message, once the algorithms stand. -/
theorem answers_of_algs (ha : (s.session t).algs = true) {c : Instr} {f : State → State} {code : Nat} {bs : List Byte}
    (h : exec c s = .next (s.negotiated t f)) (hf : f s = s.emit (.spdm t code bs)) : Answers s t c (s.session t) code bs :=
  .of_emit (by rw [h, State.negotiated_of_algs hr ha, hf])

/-! ### Version, capabilities, algorithms (R457) -/

theorem getVersion_answers (v : BitVec 8) :
    Answers s t (.getVersion t v) { s.session t with version := true, caps := false, algs := false } 0x04 [0x13] :=
  .of_setSession (congrArg Host.Outcome.next (if_pos hr))

/-- GET_CAPABILITIES where GW answers. -/
theorem exec_getCapabilities (v : BitVec 8) : exec (.getCapabilities t v) s = .next (
    if v ≠ 0x13 then s.versionAnswer t
    else if !(s.session t).version then s.spdmError t errUnexpected
    else (s.setSession t { s.session t with caps := true }).emit (.spdm t 0x61 [])) :=
  congrArg Host.Outcome.next (if_neg (by simp [hr]))

theorem getCapabilities_answers_version {v : BitVec 8} (hv : v ≠ 0x13) :
    Answers s t (.getCapabilities t v) { s.session t with version := true, caps := false, algs := false } 0x04 [0x13] :=
  .of_setSession (by rw [exec_getCapabilities hr, if_pos hv, State.versionAnswer])

theorem getCapabilities_answers (hx : (s.session t).version = true) :
    Answers s t (.getCapabilities t 0x13) { s.session t with caps := true } 0x61 [] :=
  .of_setSession (by simp [exec_getCapabilities hr, hx])

theorem getCapabilities_unexpected (hx : (s.session t).version = false) :
    Answers s t (.getCapabilities t 0x13) (s.session t) 0x7F [0x04] :=
  .of_error errUnexpected (by simp [exec_getCapabilities hr, hx])

/-- NEGOTIATE_ALGORITHMS where GW answers. -/
theorem exec_negotiateAlgorithms (b : Bool) : exec (.negotiateAlgorithms t b) s = .next (
    if !(s.session t).caps then s.spdmError t errUnexpected
    else if !b then s.spdmError t errUnsupported
    else (s.setSession t { s.session t with algs := true }).emit (.spdm t 0x63 [])) :=
  congrArg Host.Outcome.next (if_neg (by simp [hr]))

theorem negotiateAlgorithms_answers (hx : (s.session t).caps = true) :
    Answers s t (.negotiateAlgorithms t true) { s.session t with algs := true } 0x63 [] :=
  .of_setSession (by simp [exec_negotiateAlgorithms hr, hx])

theorem negotiateAlgorithms_unsupported (hx : (s.session t).caps = true) :
    Answers s t (.negotiateAlgorithms t false) (s.session t) 0x7F [0x07] :=
  .of_error errUnsupported (by simp [exec_negotiateAlgorithms hr, hx])

theorem negotiateAlgorithms_unexpected (hx : (s.session t).caps = false) (b : Bool) :
    Answers s t (.negotiateAlgorithms t b) (s.session t) 0x7F [0x04] :=
  .of_error errUnexpected (by simp [exec_negotiateAlgorithms hr, hx])

/-! ### Digests, certificate, challenge, measurements (R456 to R458) -/

theorem getDigests_answers (ha : (s.session t).algs = true) :
    Answers s t (.getDigests t) (s.session t) 0x01 (sha256 Config.certChain) :=
  answers_of_algs hr ha rfl rfl

theorem getCertificate_answers (ha : (s.session t).algs = true) (off len : BitVec 16) :
    Answers s t (.getCertificate t 0 off len) (s.session t) 0x02 ((Config.certChain.drop off.toNat).take (min len.toNat 4096)) :=
  answers_of_algs hr ha rfl (if_neg fun h => h rfl)

theorem getCertificate_invalid (ha : (s.session t).algs = true) {slot : BitVec 8} (off len : BitVec 16) (hs : slot ≠ 0) :
    Answers s t (.getCertificate t slot off len) (s.session t) 0x7F [0x01] :=
  answers_of_algs hr ha rfl (if_pos hs)

theorem challenge_answers (ha : (s.session t).algs = true) (n : List Byte) :
    Answers s t (.challenge t 0 n) (s.session t) 0x03
      (sha256 Config.certChain ++ n ++ Config.moduleSign (sha256 Config.certChain ++ n)) :=
  answers_of_algs hr ha rfl (if_neg fun h => h rfl)

theorem getMeasurements_count (ha : (s.session t).algs = true) (n : List Byte) :
    Answers s t (.getMeasurements t 0 false n) (s.session t) 0x60 [7] :=
  answers_of_algs hr ha rfl (if_neg (by decide))

/-- One block: its count, its index and its content, signed with the nonce on request. -/
theorem getMeasurements_block (ha : (s.session t).algs = true) {i : BitVec 8} (h1 : 1 ≤ i.toNat) (h7 : i.toNat ≤ 7) (b : Bool)
    (n : List Byte) :
    let body := [1, i] ++ s.measurement i.toNat
    Answers s t (.getMeasurements t i b n) (s.session t) 0x60 (if b then body ++ n ++ Config.moduleSign (body ++ n) else body) := by
  refine answers_of_algs hr ha rfl ((if_neg (by omega)).trans ?_)
  have h0 : i.toNat ≠ 0 := by omega
  have hall : i.toNat ≠ 0xFF := by omega
  simp [h0, hall, leBytes]

theorem getMeasurements_invalid (ha : (s.session t).algs = true) {i : BitVec 8} (b : Bool) (n : List Byte) (h7 : 7 < i.toNat)
    (hi : i ≠ 0xFF) : Answers s t (.getMeasurements t i b n) (s.session t) 0x7F [0x01] :=
  answers_of_algs hr ha rfl (if_pos ⟨h7, fun h => hi (BitVec.eq_of_toNat_eq h)⟩)

/-! ### Secured sessions (R457) -/

/-- KEY_EXCHANGE, where no session stands, begins the next one. -/
theorem keyExchange_answers (ha : (s.session t).algs = true) (m : Bool) (e : List Byte) (hx : (s.session t).state = .none) :
    let n := s.sec.sessions + 1
    Answers s t (.keyExchange t m e)
      { s.session t with state := .handshaking, id := n, mutual_ := m, keyDigest := [], updates := 0 } 0x64
      (Config.keyExchange e n ++ Config.moduleSign (Config.keyExchange e n)) := by
  intro n
  refine .of_counted (n := n) (congrArg Host.Outcome.next ((State.negotiated_of_algs hr ha _).trans ((if_neg (not_not.2 hx)).trans ?_)))
  show ((s.counted n).setSession t { (s.counted n).session t with
    state := .handshaking, id := n, mutual_ := m, keyDigest := [], updates := 0 }).emit _ = _
  rw [State.session_counted]

theorem keyExchange_limit (ha : (s.session t).algs = true) (m : Bool) (e : List Byte) (hx : (s.session t).state ≠ .none) :
    Answers s t (.keyExchange t m e) (s.session t) 0x7F [0x0A] :=
  answers_of_algs hr ha rfl (if_pos hx)

/-- FINISH where GW answers. -/
theorem exec_finish (b : Bool) (d : List Byte) : exec (.finish t b d) s = .next (
    if (s.session t).state ≠ .handshaking then s.spdmError t errUnexpected
    else if !b then (s.setSession t (s.session t).ended).spdmError t errDecrypt
    else (s.setSession t { s.session t with
      state := .secured, keyDigest := if (s.session t).mutual_ then d else [] }).emit (.spdm t 0x65 [])) :=
  congrArg Host.Outcome.next (if_neg (by simp [hr]))

theorem finish_secures (hx : (s.session t).state = .handshaking) (d : List Byte) :
    Answers s t (.finish t true d) { s.session t with
      state := .secured, keyDigest := if (s.session t).mutual_ then d else [] } 0x65 [] :=
  .of_setSession (by simp [exec_finish hr, hx])

theorem finish_ends (hx : (s.session t).state = .handshaking) (d : List Byte) :
    Answers s t (.finish t false d) (s.session t).ended 0x7F [0x06] :=
  .of_setSession (by
    rw [exec_finish hr, if_neg (not_not.2 hx)]
    rfl)

theorem finish_unexpected (b : Bool) (d : List Byte) (hx : (s.session t).state ≠ .handshaking) :
    Answers s t (.finish t b d) (s.session t) 0x7F [0x04] :=
  .of_error errUnexpected (by rw [exec_finish hr, if_pos hx])

theorem heartbeat_answers (hx : (s.session t).state = .secured) : Answers s t (.heartbeat t) (s.session t) 0x68 [] :=
  .of_emit (congrArg Host.Outcome.next (State.inSession_of_secured hr hx _))

theorem keyUpdate_answers (hx : (s.session t).state = .secured) :
    Answers s t (.keyUpdate t) { s.session t with updates := (s.session t).updates + 1 } 0x69 [] :=
  .of_setSession (congrArg Host.Outcome.next (State.inSession_of_secured hr hx _))

theorem endSession_answers (hx : (s.session t).state = .secured) : Answers s t (.endSession t) (s.session t).ended 0x6C [] :=
  .of_setSession (congrArg Host.Outcome.next (State.inSession_of_secured hr hx _))

end

/-- Settles O41: each clause is the answer of its request above. -/
theorem spdmSessions : Obligations.SpdmSessions := by
  intro s t hr x answers
  refine ⟨getVersion_answers hr, fun v hv => getCapabilities_answers_version hr hv, getCapabilities_answers hr,
    getCapabilities_unexpected hr, fun hx => ⟨negotiateAlgorithms_answers hr hx, negotiateAlgorithms_unsupported hr hx⟩,
    negotiateAlgorithms_unexpected hr,
    fun ha => ⟨answers_of_not_algs hr ha rfl, fun m e => answers_of_not_algs hr ha rfl, fun i b n => answers_of_not_algs hr ha rfl⟩,
    fun ha => ⟨getDigests_answers hr ha, getCertificate_answers hr ha, fun slot off len => getCertificate_invalid hr ha off len,
      challenge_answers hr ha, getMeasurements_count hr ha,
      fun i n h1 h7 => ⟨getMeasurements_block hr ha h1 h7 false n, getMeasurements_block hr ha h1 h7 true n⟩,
      fun i b n => getMeasurements_invalid hr ha b n, keyExchange_answers hr ha, keyExchange_limit hr ha⟩,
    fun d hx => ⟨finish_secures hr hx d, finish_ends hr hx d⟩, finish_unexpected hr,
    fun hx => ⟨heartbeat_answers hr hx, keyUpdate_answers hr hx, endSession_answers hr hx⟩,
    fun hx => ⟨answers_of_not_secured hr hx rfl, answers_of_not_secured hr hx rfl, answers_of_not_secured hr hx rfl⟩⟩

end Sys2Proof.Machine
end

/-!
# Every command completes

What a command and a step answer (R29, R450, R459, R474): read off the inversion `exec_keeps` and the definition of a step.
-/
section
namespace Sys2Proof.Machine

/-- Settles O55: a weakening of `exec_keeps`, with the outward list's prefix written as an append. -/
theorem everyCommandCompletes : Obligations.EveryCommandCompletes := by
  intro c s
  obtain ⟨t, ht, hk⟩ := exec_keeps c s
  obtain ⟨l, hl⟩ := hk.out
  exact ⟨t, ht, hk.pending, hk.cyc, hk.fenced, hk.fuse, ⟨l, hl.symm⟩, hk.free⟩

/-- A step with an empty queue lets one core cycle pass (log 1). -/
theorem step_nil {s : State} (h : s.pending = []) : step s = .next s.idle := by
  unfold step
  rw [h]

/-- Settles O52. -/
theorem stepTakesTheFront : Obligations.StepTakesTheFront :=
  ⟨fun _ _ _ => rfl, fun _ h => step_nil h⟩

end Sys2Proof.Machine
end

/-!
# The closing margin

What the margin's work leaves alone of an ordered abort and of fence requests (R33, R466, R476), and what a release leaves of an image
(R449).
-/
section
namespace Sys2Proof.Machine

open Sys2Proof.Safety

/-- A part of the state that each step of a fold leaves is left by the fold. -/
theorem foldl_same {σ α β : Type} (g : σ → β) {f : σ → α → σ} (l : List α) (s : σ) (h : ∀ x a, g (f x a) = g x) :
    g (l.foldl f s) = g s :=
  List.foldlRecOn (motive := fun t => g t = g s) l f rfl fun x hx a _ => (h x a).trans hx

/-! ### Work of a shot on stalls and yardmasters -/

/-- `t` differs from `s` only in stalls and yardmasters, and in what follows for the log, the shot and an ordered abort. -/
structure ShotWork (s t : State) : Prop where
  rest : { t with stalls := s.stalls, barns := s.barns, log := s.log, shot := s.shot, safe := s.safe } = s
  safe : { t.safe with abort := s.safe.abort } = s.safe

namespace ShotWork

variable {s t u : State}

theorem refl (s : State) : ShotWork s s := ⟨rfl, rfl⟩

theorem trans (h : ShotWork s t) (k : ShotWork t u) : ShotWork s u where
  rest := (congrArg (fun w : State => { w with
    stalls := s.stalls, barns := s.barns, log := s.log, shot := s.shot, safe := s.safe }) k.rest).trans h.rest
  safe := (congrArg (fun w : Safe => { w with abort := s.safe.abort }) k.safe).trans h.safe

theorem foldl {α : Type} {f : State → α → State} (l : List α) (h : ShotWork s t) (hf : ∀ x a, ShotWork x (f x a)) :
    ShotWork s (l.foldl f t) :=
  List.foldlRecOn (motive := ShotWork s) l f h fun x hx a _ => hx.trans (hf x a)

theorem ofStalls (h : StallsOnly s t) : ShotWork s t :=
  ⟨(congrArg (fun w : State => { w with safe := s.safe }) h.rest :),
    congrArg (fun w : State => { w.safe with abort := s.safe.abort }) h.rest⟩

theorem boot (h : ShotWork s t) : t.boot = s.boot := (congrArg State.boot h.rest :)
theorem fencesOpen (h : ShotWork s t) : t.fencesOpen = s.fencesOpen := (congrArg State.fencesOpen h.rest :)
theorem hbm (h : ShotWork s t) : t.hbm = s.hbm := (congrArg State.hbm h.rest :)

end ShotWork

theorem State.setBarn_work (s : State) (b : Nat) (v : Barn) : ShotWork s (s.setBarn b v) := ⟨rfl, rfl⟩

theorem State.onGood_only (s : State) (x : Nat) (f : Stall → Stall) : StallsOnly s (s.onGood x f) :=
  (s.eachStall_only _ _).trans (State.flush_only _ _)

theorem State.failEvent_only (s : State) (code src x : Nat) (detail : List Byte) : StallsOnly s (s.failEvent code src x detail) :=
  (s.event_only code src x detail).trans (State.failShot_only _ _ _ _)

theorem State.abortShot_work (s : State) (x : Nat) : ShotWork s (s.abortShot x) := by
  unfold State.abortShot
  extract_lets t u
  have ht : ShotWork s t := .ofStalls (s.onGood_only _ _)
  have hu : ShotWork t u := (ShotWork.refl t).foldl _ fun w b => w.setBarn_work b _
  clear_value u
  exact (ht.trans hu).trans ⟨rfl, rfl⟩

theorem State.orderAbort_work (s : State) (x : Nat) : ShotWork s (s.orderAbort x) := by
  unfold State.orderAbort
  split
  · exact ⟨rfl, rfl⟩
  · exact .refl s

theorem State.marginStreams_work (s : State) (x : Nat) : ShotWork s (s.marginStreams x) := by
  unfold State.marginStreams
  split
  · exact .refl s
  · exact (ShotWork.refl s).foldl _ fun w p => (ShotWork.ofStalls (w.onStall_only _ _ _)).trans (State.orderAbort_work _ _)

theorem State.watchdog_work (s : State) (x : Nat) : ShotWork s (s.watchdog x) := by
  unfold State.watchdog
  split
  · exact .refl s
  · refine ((ShotWork.refl s).foldl _ fun w i => .ofStalls (w.onStall_only _ _ _)).foldl _ fun w b => ?_
    split
    · exact (ShotWork.ofStalls (w.failEvent_only _ _ _ _)).trans (State.setBarn_work _ _ _)
    · exact .refl w

/-! ### The abort that is ordered and the fences that are asked for -/

/-- The cycle of an ordered abort and the fences that the host has asked for. -/
def State.asked (s : State) : Option Nat × List Nat := (s.safe.abort, s.safe.requests)

theorem StallsOnly.asked {s t : State} (h : StallsOnly s t) : t.asked = s.asked := (congrArg State.asked h.rest :)
theorem Shows.asked {s t : State} (h : Shows s t) : t.asked = s.asked := (congrArg State.asked h.rest :)
theorem HbmServed.asked {s t : State} (h : HbmServed s t) : t.asked = s.asked := (congrArg State.asked h.rest :)

theorem State.startMoves_asked (s : State) (b : Nat) : (s.startMoves b).asked = s.asked := by
  unfold State.startMoves
  split
  · rfl
  · split <;> rfl

theorem State.leaveDma_asked (s : State) (i : Nat) : (s.leaveDma i).asked = s.asked := by
  unfold State.leaveDma
  extract_lets b
  split
  · rfl
  · extract_lets keep d'
    split
    · exact State.startMoves_asked _ _
    · exact (State.eachStall_only _ _ _).asked

theorem State.fenceOne_asked (s : State) (i reason x : Nat) : (s.fenceOne i reason x).asked = s.asked := by
  unfold State.fenceOne
  extract_lets l spare move a b c d e f g
  have hc : c.asked = s.asked := (b.leaveDma_asked i).trans ((s.onStall_only _ _ _).trans (a.modStall_only _ _)).asked
  clear_value c
  have hf : f.asked = s.asked := hc
  clear_value f
  have hg : g.asked = s.asked := by
    subst g
    split
    · exact (f.failureEvent_read 1).asked.trans hf
    · exact hf
  clear_value g move spare l
  cases l with
  | none => exact hg
  | some l =>
    dsimp only
    split
    · exact (State.startMoves_asked _ _).trans hg
    · exact (State.startMoves_asked _ _).trans hg

theorem State.checkReplace_asked (s : State) : s.checkReplace.asked = s.asked := by
  unfold State.checkReplace
  split
  · rfl
  · exact (State.doorbell_shows _ 2).asked

theorem State.fence_asked (s : State) (l : List (Nat × Nat)) (x : Nat) : (s.fence l x).asked = s.asked := by
  unfold State.fence
  exact (State.checkReplace_asked _).trans (foldl_same State.asked _ _ fun w p => w.fenceOne_asked _ _ _)

/-- The fences of a margin leave no abort behind that was not there, and no request where fences may change (R455, R476). -/
theorem State.marginFences_asked (s : State) (x : Nat) :
    (s.marginFences x).asked = (s.safe.abort, if s.fencesOpen then [] else s.safe.requests) := by
  unfold State.marginFences
  extract_lets t struck asked
  have ht : StallsOnly s t := s.eachStall_only _ _
  clear_value t
  have hopen : t.fencesOpen = s.fencesOpen := (congrArg State.fencesOpen ht.rest :)
  rw [hopen]
  cases s.fencesOpen with
  | false => exact ht.asked
  | true =>
    refine (State.fence_asked _ _ _).trans ?_
    exact congrArg (fun p : Option Nat × List Nat => (p.1, ([] : List Nat))) ht.asked

theorem State.applyFar_asked (s : State) : s.applyFar.asked = s.asked := by
  unfold State.applyFar
  split
  · split
    · rfl
    · refine (State.ack_shows _ _ _).asked.trans (foldl_same State.asked _ s fun w e => ?_)
      unfold State.setFar
      extract_lets a b asks
      have ha : a.asked = w.asked := (w.writeMem_served _ _ _ _).asked
      have hb : b.asked = a.asked := by subst b; split <;> rfl
      exact hb.trans ha
  · rfl

theorem State.applyWindows_asked (s : State) : s.applyWindows.asked = s.asked := by
  unfold State.applyWindows
  refine (foldl_same State.asked _ _ fun w b => ?_).trans (foldl_same State.asked _ s fun w b => ?_)
  · split <;> rfl
  · split <;> rfl

theorem State.journalHeader_asked (s : State) : s.journalHeader.asked = s.asked := by
  unfold State.journalHeader
  split
  · extract_lets head body t
    have ht : t.asked = s.asked := (s.writeMem_served _ _ _ _).asked
    clear_value t
    exact ht
  · rfl

theorem State.takeOver_asked (s : State) : s.takeOver.asked = s.asked := by
  unfold State.takeOver
  split <;> rfl

/-- The margin's work leaves no abort, and no fence request where fences may change. -/
theorem State.marginWork_asked (s : State) (x : Nat) :
    (s.marginWork x).safe.abort = none ∧ (s.fencesOpen = true → (s.marginWork x).safe.requests = []) := by
  unfold State.marginWork
  extract_lets a b c d e f g h i j
  have hab : ShotWork s b := by
    have ha : ShotWork s a := by
      subst a
      split
      · split
        · exact s.abortShot_work _
        · exact .refl s
      · exact .refl s
    exact ha.trans (.ofStalls (a.syncAll_only _))
  have hd : ShotWork s d := (hab.trans (b.marginStreams_work x)).trans (c.watchdog_work x)
  have he : ShotWork s e ∧ e.safe.abort = none := by
    subst e
    split
    · exact ⟨hd.trans (d.abortShot_work _), rfl⟩
    · exact ⟨hd, ‹_›⟩
  clear_value e
  have hf : StallsOnly e f := e.eachStall_only _ _
  clear_value f
  have hopen : f.fencesOpen = s.fencesOpen := (congrArg State.fencesOpen hf.rest).trans he.1.fencesOpen
  have hg : g.asked = (f.safe.abort, if f.fencesOpen then [] else f.safe.requests) := f.marginFences_asked x
  clear_value g
  have hh : h.asked = g.asked := (g.eachStall_only _ _).asked
  clear_value h
  have hi : i.asked = h.asked := (State.applyWindows_asked _).trans (State.applyFar_asked _)
  clear_value i
  have hj : j.asked = i.asked := (State.takeOver_asked _).trans (State.journalHeader_asked _)
  clear_value j
  have hgj := hj.trans (hi.trans (hh.trans hg))
  have habort : f.safe.abort = none := (congrArg Prod.fst hf.asked).trans he.2
  exact ⟨(congrArg Prod.fst hgj).trans habort, fun ho => (congrArg Prod.snd hgj).trans (if_pos (hopen.trans ho))⟩

end Sys2Proof.Machine
end

/-!
# The release of an image

What a release leaves of an image, and what it leaves alone (R449); and the closing margin, which makes it.
-/
section
namespace Sys2Proof.Machine

open Sys2Proof.Safety

theorem State.putBit_shows (s : State) (a i : Nat) (v : Bool) : Shows s (s.putBit a i v) := ⟨rfl, rfl⟩

theorem State.setField_shows (s : State) (a hi lo v : Nat) : Shows s (s.setField a hi lo v) := ⟨rfl, rfl⟩

theorem Shows.foldl {α : Type} {s t : State} {f : State → α → State} (l : List α) (h : Shows s t) (hf : ∀ x a, Shows x (f x a)) :
    Shows s (l.foldl f t) :=
  List.foldlRecOn (motive := Shows s) l f h fun x hx a _ => hx.trans (hf x a)

/-- Nothing of an image, of its shots, moves, loft frames and requests is left (R449). -/
structure Released (t : State) : Prop where
  image : t.boot.image = none
  releasing : t.boot.releasing = 0
  mode : t.boot.mode ≠ .run
  begun : t.shot.begun = false
  epoch : t.shot.epoch = none
  moves : t.safe.moves = []
  frames : t.far.frames = []
  reqs : t.host.reqs = []

theorem Released.ofShows {s t : State} (h : Shows s t) (hs : Released s) : Released t where
  image := (congrArg (fun w : State => w.boot.image) h.rest).trans hs.image
  releasing := (congrArg (fun w : State => w.boot.releasing) h.rest).trans hs.releasing
  mode := fun e => hs.mode ((congrArg (fun w : State => w.boot.mode) h.rest).symm.trans e)
  begun := (congrArg (fun w : State => w.shot.begun) h.rest).trans hs.begun
  epoch := (congrArg (fun w : State => w.shot.epoch) h.rest).trans hs.epoch
  moves := (congrArg (fun w : State => w.safe.moves) h.rest).trans hs.moves
  frames := (congrArg (fun w : State => w.far.frames) h.rest).trans hs.frames
  reqs := (congrArg HostIf.reqs h.host).trans hs.reqs

/-- What a release leaves alone: HBM, the fence list, flash and fuses. -/
def State.lasting (s : State) : Memory × List Nat × Flash := (s.hbm, s.safe.fenced, s.flash)

theorem Shows.lasting {s t : State} (h : Shows s t) : t.lasting = s.lasting := (congrArg State.lasting h.rest :)

theorem State.endSweep_lasting (s : State) (report : Bool) : (s.endSweep report).lasting = s.lasting := by
  unfold State.endSweep
  split
  · split
    · split <;> rfl
    · split <;> rfl
  · rfl

theorem State.releaseImage_effect (s : State) (report : Bool) :
    Released (s.releaseImage report) ∧ (s.releaseImage report).lasting = s.lasting := by
  unfold State.releaseImage
  extract_lets a b c d e _ _ _ _ _ _ _ _ f g h i j k
  have ha : a.lasting = s.lasting := s.endSweep_lasting report
  clear_value a
  have hb : b.lasting = a.lasting := foldl_same State.lasting _ a fun w q => by
    split
    · split <;> rfl
    · rfl
  clear_value b
  have hc : c.lasting = b.lasting := foldl_same State.lasting _ b fun w i => rfl
  clear_value c
  have hd : d.lasting = c.lasting := foldl_same State.lasting _ c fun w n => rfl
  clear_value d
  have he : e.lasting = d.lasting := by
    subst e
    split
    · split
      · exact (d.ack_shows _ _).lasting
      · rfl
    · rfl
  clear_value e
  have hf : Released f ∧ f.lasting = e.lasting := by
    refine ⟨⟨rfl, rfl, ?_, rfl, rfl, rfl, rfl, rfl⟩, rfl⟩
    show (if e.boot.mode = .run then Mode.ready else e.boot.mode) ≠ .run
    split
    · decide
    · assumption
  clear_value f
  have hg : Shows f g := (Shows.refl f).foldl _ fun w n => (w.setReg_shows _ _).trans (State.setReg_shows _ _ _)
  clear_value g
  have hh : Shows g h := ((g.setReg_shows _ _).trans (State.setReg_shows _ _ _)).trans (State.setField_shows _ _ _ _ _)
  clear_value h
  have hk : Shows h k := (((h.putBit_shows _ _ _).trans (i.putBit_shows _ _ _)).trans (State.putBit_shows _ _ _ _)).trans
    (j.setReg_shows _ _)
  clear_value k
  have hfin : Shows f (k.doorbell 6) := ((hg.trans hh).trans hk).trans (k.doorbell_shows 6)
  exact ⟨hf.1.ofShows hfin, hfin.lasting.trans (hf.2.trans (he.trans (hd.trans (hc.trans (hb.trans ha)))))⟩

/-- A release that is made ends the shot in its margin, and leaves nothing of the image. -/
theorem State.doRelease_released (s : State) : Released s.doRelease := (State.releaseImage_effect _ _).1

/-! ### The closing margin -/

theorem execClosingMargin_begun {s : State} (hb : s.shot.begun = true) (hm : s.shot.margin = false) :
    let w := (s.at_ s.marginAt).marginWork s.marginAt
    exec .closingMargin s = .next (if w.canRelease then w.doRelease else w) :=
  congrArg Host.Outcome.next (if_neg (by simp [hb, hm]))

/-- Settles O22: the margin's work leaves no abort and no request behind, and a release that can be made follows it. -/
theorem closingMarginWork : Obligations.ClosingMarginWork := by
  intro s hb hm x w
  have hexec : exec .closingMargin s = .next (if w.canRelease then w.doRelease else w) := execClosingMargin_begun hb hm
  refine ⟨fun hc => ?_, fun hc => ?_⟩
  · obtain ⟨habort, hreq⟩ := (s.at_ x).marginWork_asked x
    have hcyc : (s.at_ x).cyc ≤ w.cyc := (State.marginWork_keeps (.refl _)).cyc
    refine ⟨by rw [hexec, hc]; rfl, rfl, (le_max_right _ _).trans hcyc, habort, hreq⟩
  · obtain ⟨h1, h2, h3, h4, h5, h6, h7, h8⟩ := w.doRelease_released
    exact ⟨w.doRelease, by rw [hexec, hc]; rfl, h1, h4, h6, h7, h2, h3, h5, h8⟩

end Sys2Proof.Machine
end

/-!
# Every stall and every yardmaster

What an operation on a list of stalls, or on each yardmaster, leaves in each of them.
-/
section
namespace Sys2Proof.Machine

open Sys2Proof.Safety

theorem StallsOnly.reg {s t : State} (h : StallsOnly s t) (a : Nat) : t.reg a = s.reg a := congrArg (RegBank.get · a) h.regs

/-- An operation on each stall of a list without repetitions. -/
theorem State.stall_eachStall (s : State) {l : List Nat} (hl : l.Nodup) (f : Stall → Stall) (i : Nat) :
    (s.eachStall l f).stall i = if i ∈ l then f (s.stall i) else s.stall i := by
  unfold State.eachStall
  induction l generalizing s with
  | nil => simp
  | cons a l ih =>
    obtain ⟨ha, hl⟩ := List.nodup_cons.mp hl
    rw [List.foldl_cons, ih (s.modStall a f) hl, State.stall_modStall]
    by_cases h : i = a
    · subst h
      simp [ha]
    · simp [h]

theorem State.goodStalls_nodup (s : State) : s.goodStalls.Nodup := List.nodup_range.filter _

/-- What an operation on every stall that is not fenced leaves in one of them. -/
theorem State.onGood_stall (s : State) (x : Nat) (f : Stall → Stall) {i : Nat} (hi : i ∈ s.goodStalls) :
    quietly ((s.onGood x f).stall i) = quietly (f ((s.stall i).runTo x)) := by
  unfold State.onGood
  rw [SameStalls.flush.same, State.stall_eachStall s s.goodStalls_nodup, if_pos hi]

/-- The steps of a fold over the barns of a list, each of which works on its own barn. -/
theorem barn_foldl {g : State → Nat → State} {f : Barn → Barn} (hb : ∀ s b c, (g s b).barn c = if c = b then f (s.barn b) else s.barn c)
    {l : List Nat} (hl : l.Nodup) (s : State) (c : Nat) : (l.foldl g s).barn c = if c ∈ l then f (s.barn c) else s.barn c := by
  induction l generalizing s with
  | nil => simp
  | cons b l ih =>
    obtain ⟨hn, hl⟩ := List.nodup_cons.mp hl
    rw [List.foldl_cons, ih hl (g s b), hb]
    by_cases h : c = b
    · subst h
      simp [hn]
    · simp [h]

/-- A step for each of the eight yardmasters. -/
theorem barn_foldl_range {g : State → Nat → State} {f : Barn → Barn}
    (hb : ∀ s b c, (g s b).barn c = if c = b then f (s.barn b) else s.barn c) (s : State) {c : Nat} (hc : c < 8) :
    ((List.range 8).foldl g s).barn c = f (s.barn c) :=
  (barn_foldl hb List.nodup_range s c).trans (if_pos (List.mem_range.mpr hc))

end Sys2Proof.Machine
end

/-!
# Frames that are sent

What sending a frame changes: ports and what leaves the module (R368, R388).
-/
section
namespace Sys2Proof.Machine

open Sys2Proof.Safety

/-- `t` differs from `s` only in its ports' link state and in what has left the module. -/
structure Sent (s t : State) : Prop where
  rest : { t with fab := s.fab, out := s.out } = s
  fab : { t.fab with ports := s.fab.ports } = s.fab

namespace Sent

variable {s t u : State}

theorem refl (s : State) : Sent s s := ⟨rfl, rfl⟩

theorem trans (h : Sent s t) (k : Sent t u) : Sent s u where
  rest := (congrArg (fun w : State => { w with fab := s.fab, out := s.out }) k.rest).trans h.rest
  fab := (congrArg (fun w : Fab => { w with ports := s.fab.ports }) k.fab).trans h.fab

theorem foldl {α : Type} {f : State → α → State} (l : List α) (h : Sent s t) (hf : ∀ x a, Sent x (f x a)) : Sent s (l.foldl f t) :=
  List.foldlRecOn (motive := Sent s) l f h fun x hx a _ => hx.trans (hf x a)

theorem regs (h : Sent s t) : t.regs = s.regs := (congrArg State.regs h.rest :)
theorem shot (h : Sent s t) : t.shot = s.shot := (congrArg State.shot h.rest :)
theorem log (h : Sent s t) : t.log = s.log := (congrArg State.log h.rest :)
theorem host (h : Sent s t) : t.host = s.host := (congrArg State.host h.rest :)
theorem cyc (h : Sent s t) : t.cyc = s.cyc := (congrArg State.cyc h.rest :)

theorem aside (h : Sent s t) : Aside s t :=
  ⟨(congrArg State.hbm h.rest :), (congrArg State.stalls h.rest :), (congrArg State.barns h.rest :), (congrArg State.dies h.rest :)⟩

end Sent

theorem State.emit_sent (s : State) (o : Out) : Sent s (s.emit o) := ⟨rfl, rfl⟩

theorem State.setPort_sent (s : State) (p : Nat) (v : Port) : Sent s (s.setPort p v) := ⟨rfl, rfl⟩

theorem State.sendControl_sent (s : State) (p : Nat) (f : Frame) : Sent s (s.sendControl p f) := by
  unfold State.sendControl
  split
  · exact s.emit_sent _
  · exact .refl s

theorem State.transmit_sent (s : State) (p : Nat) (f : Frame) (first : Bool) : Sent s (s.transmit p f first) := by
  unfold State.transmit
  extract_lets r mode n k t k' hit after
  have hafter : ∀ w : State, Sent w (after w) := by
    intro w
    subst after
    dsimp only
    split
    · exact (w.setPort_sent _ _).trans (State.emit_sent _ _)
    · exact w.setPort_sent _ _
  split
  · split
    · exact ((s.emit_sent _).trans (t.setPort_sent _ _)).trans (State.emit_sent _ _)
    · exact s.emit_sent _
  · split
    · exact s.setPort_sent _ _
    · split
      · exact (s.emit_sent _).trans (hafter _)
      · split
        · exact s.setPort_sent _ _
        · exact (s.emit_sent _).trans (hafter _)

theorem State.sendData_sent (s : State) (p at_ : Nat) (f : Frame) : Sent s (s.sendData p at_ f) := by
  unfold State.sendData
  extract_lets k slot g t
  split
  · exact .refl s
  · split
    · exact s.emit_sent _
    · exact (s.setPort_sent _ _).trans (t.transmit_sent _ _ _)

theorem State.reply_sent (s : State) (q : Request) (flags off : Nat) (bs : List Byte) : Sent s (s.reply q flags off bs) :=
  s.sendData_sent _ _ _

theorem State.replyAll_sent (s : State) (q : Request) (bs : List Byte) : Sent s (s.replyAll q bs) :=
  (Sent.refl s).foldl _ fun w _ => w.reply_sent _ _ _ _

theorem State.announceChildren_sent (s : State) (payload : List Byte) : Sent s (s.announceChildren payload) :=
  (Sent.refl s).foldl _ fun w _ => (w.sendControl_sent _ _).trans (State.sendControl_sent _ _ _)

end Sys2Proof.Machine
end

/-!
# The end of a shot

What the verdict on a shot leaves of the shot and of GLB_AUDIT (R35, R40, R59).
-/
section
namespace Sys2Proof.Machine

open Sys2Proof.Safety

/-- `t` differs from `s` only in the host interface, the log, ports and what has left the module: requests and RUNs that end. -/
structure Ends (s t : State) : Prop where
  rest : { t with host := s.host, log := s.log, fab := s.fab, out := s.out } = s

namespace Ends

variable {s t u : State}

theorem refl (s : State) : Ends s s := ⟨rfl⟩

theorem trans (h : Ends s t) (k : Ends t u) : Ends s u :=
  ⟨(congrArg (fun w : State => { w with host := s.host, log := s.log, fab := s.fab, out := s.out }) k.rest).trans h.rest⟩

theorem foldl {α : Type} {f : State → α → State} (l : List α) (h : Ends s t) (hf : ∀ x a, Ends x (f x a)) : Ends s (l.foldl f t) :=
  List.foldlRecOn (motive := Ends s) l f h fun x hx a _ => hx.trans (hf x a)

theorem ofSent (h : Sent s t) : Ends s t := ⟨(congrArg (fun w : State => { w with host := s.host, log := s.log }) h.rest :)⟩

theorem regs (h : Ends s t) : t.regs = s.regs := (congrArg State.regs h.rest :)
theorem shot (h : Ends s t) : t.shot = s.shot := (congrArg State.shot h.rest :)

theorem reg (h : Ends s t) (a : Nat) : t.reg a = s.reg a := congrArg (RegBank.get · a) h.regs

end Ends

theorem State.complete_ends (s : State) (e : Entry) (status cause info shot result lat due : Nat) :
    Ends s (s.complete e status cause info shot result lat due) := ⟨rfl⟩

theorem State.groomEvent_ends (s : State) (code : Nat) (detail : List Byte) : Ends s (s.groomEvent code detail) := ⟨rfl⟩

theorem State.refuse_ends (s : State) (e : Entry) (code cause : Nat) : Ends s (s.refuse e code cause) := ⟨rfl⟩

theorem State.refuseRun_ends (s : State) (q : RunEntry) (cause : Nat) : Ends s (s.refuseRun q cause) := ⟨rfl⟩

theorem State.dropReq_ends (s : State) (id : Nat) : Ends s (s.dropReq id) := ⟨rfl⟩

theorem State.failReq_ends (s : State) (q : Request) (code : Nat) : Ends s (s.failReq q code) := by
  unfold State.failReq
  extract_lets t
  have ht : Ends s t := s.dropReq_ends _
  split
  · exact ht.trans (t.complete_ends _ _ _ _ _ _ _ _)
  · exact ht.trans (.ofSent (t.reply_sent _ _ _ _))

/-- The delivery of a request changes no register but those of base dies. -/
theorem State.deliverReq_low (s : State) (q : Request) {a : Nat} (ha : a < 0x700000) : (s.deliverReq q).reg a = s.reg a := by
  unfold State.deliverReq
  split
  next sl ar _ _ =>
    extract_lets at_ t size
    have ht : t.reg a = s.reg a := rfl
    clear_value t
    split
    · exact ((t.failReq_ends _ _).reg a).trans ht
    · split
      · exact (((t.groomEvent_ends _ _).trans (State.failReq_ends _ _ _)).reg a).trans ht
      · have hr := (t.readMem_read (ar.outBase + q.slot * ar.outSlot) size t.cyc).low a ha
        generalize t.readMem (ar.outBase + q.slot * ar.outSlot) size t.cyc = rd at hr
        obtain ⟨v, bs, lost, un⟩ := rd
        refine Eq.trans ?_ (hr.trans ht)
        dsimp only
        split
        · exact (v.failReq_ends _ _).reg a
        · split
          · split
            · exact (((show Ends v (v.event _ _ _ _) from ⟨rfl⟩).trans (State.failReq_ends _ _ _))).reg a
            · rfl
          · exact ((v.dropReq_ends _).trans (.ofSent (State.replyAll_sent _ _ _))).reg a
  next => exact (s.failReq_ends _ _).reg a

/-- What the end of a shot does with its requests changes no register but those of base dies. -/
theorem State.settleReqs_low (s : State) {a : Nat} (ha : a < 0x700000) : s.settleReqs.reg a = s.reg a := by
  refine foldl_same (State.reg · a) _ s fun w q => ?_
  split
  · exact (w.failReq_ends _ _).reg a
  · split
    · exact (w.failReq_ends _ _).reg a
    · split
      · exact w.deliverReq_low q ha
      · exact (w.failReq_ends _ _).reg a

theorem State.markFailed_regs (s : State) (step : Nat) : (s.markFailed step).regs = s.regs := by
  unfold State.markFailed
  split <;> rfl

theorem State.nextShot_regs (s : State) (q : RunEntry) : (s.nextShot q).regs = s.regs := by
  unfold State.nextShot
  extract_lets
  split <;> rfl

theorem State.reloadTables_only (s : State) : StallsOnly s s.reloadTables := by
  unfold State.reloadTables
  split
  · exact .refl s
  · exact s.eachStall_only _ _

theorem State.runVerdict_regs (s : State) (q : RunEntry) (p : Plan) : (s.runVerdict q p).regs = s.regs := by
  unfold State.runVerdict
  extract_lets code q' limit t u v w
  split
  · exact s.nextShot_regs q
  · split
    · exact ((s.markFailed _).nextShot_regs _).trans (s.markFailed_regs _)
    · split
      · exact (s.reloadTables_only).regs
      · exact (State.markFailed_regs _ _)

theorem State.doorbell_audit (s : State) (i : Nat) : (s.doorbell i).reg A.glbAudit = s.reg A.glbAudit := by
  have h : (s.doorbell i).reg A.glbAudit = (s.setBit A.mbxHdb i).reg A.glbAudit := congrArg (RegBank.get · A.glbAudit) (s.doorbell_regs i)
  rw [h, State.reg_setBit, if_neg (by decide)]

theorem State.energyVerdict_audit (s : State) : s.energyVerdict.reg A.glbAudit = s.reg A.glbAudit := by
  unfold State.energyVerdict
  extract_lets t tol u
  have hu : u.reg A.glbAudit = s.reg A.glbAudit := by
    rw [State.reg_setReg, if_neg (by decide), State.reg_setReg, if_neg (by decide)]
  split
  · exact hu
  · rw [State.doorbell_audit, State.reg_setBit, if_neg (by decide)]
    exact hu

theorem State.failRecord_audit (s : State) : s.failRecord.reg A.glbAudit = s.reg A.glbAudit := by
  unfold State.failRecord
  extract_lets c t
  have ht : t.reg A.glbAudit = s.reg A.glbAudit := by
    rw [State.reg_setReg, if_neg (by decide), State.reg_setReg, if_neg (by decide)]
  show ((t.setReg A.safeFailCause _).setField _ _ _ _).reg A.glbAudit = _
  rw [State.reg_setField, if_neg (by decide), State.reg_setReg, if_neg (by decide)]
  exact ht

theorem State.enterFault_ends (s : State) : s.enterFault.regs = s.regs ∧ s.enterFault.shot = s.shot := by
  unfold State.enterFault
  extract_lets runs reqs _ _ t u
  have ht : t.regs = s.regs ∧ t.shot = s.shot := ⟨rfl, rfl⟩
  clear_value t
  have hu : Ends t u := (Ends.refl t).foldl _ fun w q => w.refuseRun_ends q 12
  clear_value u
  have hf := (Ends.refl u).foldl reqs (f := fun w q => match q.host with
    | some e => w.refuse e Ev.state 12
    | none => w.failReq q Ev.state) fun w q => by
      split
      · exact w.refuse_ends _ _ _
      · exact w.failReq_ends _ _
  exact ⟨(hu.trans hf).regs.trans ht.1, (hu.trans hf).shot.trans ht.2⟩

theorem State.closeShot_begun (s : State) : s.closeShot.shot.begun = false := by
  unfold State.closeShot
  split
  · simp_all
  · extract_lets a b c d e t f
    have hf : f.shot.begun = false := rfl
    clear_value f
    split
    · rw [f.enterFault_ends.2, hf]
    · exact hf

theorem State.closeShot_audit (s : State) : s.closeShot.reg A.glbAudit = s.reg A.glbAudit := by
  unfold State.closeShot
  split
  · rfl
  · extract_lets a b c d e t f
    have ha : a.reg A.glbAudit = s.reg A.glbAudit := s.energyVerdict_audit
    clear_value a
    have hb : b.reg A.glbAudit = a.reg A.glbAudit := by
      subst b
      split
      · exact ((a.failRecord.onGood_only _ _).reg _).trans a.failRecord_audit
      · rfl
    clear_value b
    have hc : c.reg A.glbAudit = b.reg A.glbAudit := b.settleReqs_low (by decide)
    clear_value c
    have hd : d.reg A.glbAudit = c.reg A.glbAudit := by
      subst d
      split
      · split
        · exact congrArg (RegBank.get · A.glbAudit) (c.runVerdict_regs _ _)
        · rfl
      · rfl
    clear_value d
    have he : e.reg A.glbAudit = d.reg A.glbAudit := (d.eachStall_only _ _).reg _
    clear_value e
    have hf : f.reg A.glbAudit = e.reg A.glbAudit := rfl
    clear_value f
    refine Eq.trans ?_ (hf.trans (he.trans (hd.trans (hc.trans (hb.trans ha)))))
    split
    · exact congrArg (RegBank.get · A.glbAudit) f.enterFault_ends.1
    · rfl

end Sys2Proof.Machine
end

/-!
# Audit halts and aborts

What an audit halt, its release, an abort and its arrival do (R59, R201, R465, R466).
-/
section
namespace Sys2Proof.Machine

open Sys2Proof.Safety

variable {s : State}

/-- A write of the host changes one register alone. -/
theorem State.reg_writeReg_ne (s : State) (v : Nat) {a b : Nat} (h : b ≠ a) : (s.writeReg a v).reg b = s.reg b := by
  unfold State.writeReg
  split
  · rw [State.reg_setReg, if_neg h]
  · rfl

theorem State.failShot_shot (s : State) {x code src : Nat} (hb : s.shot.begun = true) (hm : s.shot.margin = false)
    (hf : s.shot.fail = none) (hx : x ≤ s.marginAt) : (s.failShot x code src).shot = { s.shot with fail := some ⟨x, code, src⟩ } := by
  unfold State.failShot
  rw [if_neg (by simp [hb, hm]; omega), hf]

theorem seqState_of_quietly {t u : Stall} (h : quietly t = quietly u) : t.seq.state = u.seq.state := congrArg (fun v => v.seq.state) h

/-! ### Audit halts -/

/-- A sequencer under an audit halt. -/
def Stall.halted (t : Stall) : Stall := if t.seq.state = .running then { t with seq := { t.seq with state := .halted, fetchOn := false } } else t

theorem Stall.halted_not_running (t : Stall) : t.halted.seq.state ≠ .running := by
  unfold Stall.halted
  split
  · exact nofun
  · assumption

/-- A yardmaster under an audit halt. -/
def Barn.halted (y : Barn) : Barn := if y.state = .running then { y with state := .halted } else y

theorem Barn.halted_not_running (y : Barn) : y.halted.state ≠ .running := by
  unfold Barn.halted
  split
  · exact nofun
  · assumption

/-- The yardmaster of one barn under an audit halt. -/
def State.haltBarn (s : State) (b : Nat) : State := if (s.barn b).state = .running then s.setBarn b { s.barn b with state := .halted } else s

theorem State.barn_haltBarn (s : State) (b c : Nat) : (s.haltBarn b).barn c = if c = b then (s.barn b).halted else s.barn c := by
  unfold State.haltBarn Barn.halted
  split
  · rw [State.barn_setBarn]
  · split
    · subst c; rfl
    · rfl

theorem State.haltBarn_work (s : State) (b : Nat) : ShotWork s (s.haltBarn b) := by
  unfold State.haltBarn
  split
  · exact s.setBarn_work _ _
  · exact .refl s

theorem State.haltBarn_stalls (s : State) (b : Nat) : (s.haltBarn b).stalls = s.stalls := by
  unfold State.haltBarn
  split <;> rfl

/-- Sequencers and yardmasters halted at cycle x. -/
def State.haltAll (s : State) (x : Nat) : State :=
  (List.range 8).foldl (fun s b => s.haltBarn b) ((s.at_ x).onGood x fun t => t.halted)

theorem execAuditHalt_halts {x : Nat} (hx : s.shot.halt = some x) (hb : s.shot.begun = true) (ha : s.bit A.glbAudit 0 = false) :
    exec .auditHalt s = .next (({ s.haltAll x with shot := { (s.haltAll x).shot with ownFrom := x } } : State).setBit A.glbAudit 0) := by
  show execAuditHalt s = _
  unfold execAuditHalt
  rw [hx]
  dsimp only
  rw [if_neg (by simp [hb, ha])]
  unfold State.haltAll State.haltBarn Stall.halted
  generalize List.range 8 = l
  rfl

theorem State.haltAll_work (s : State) (x : Nat) : ShotWork (s.at_ x) (s.haltAll x) := by
  unfold State.haltAll
  exact (ShotWork.ofStalls ((s.at_ x).onGood_only _ _)).foldl _ State.haltBarn_work

theorem State.haltAll_stall (s : State) (x : Nat) {i : Nat} (hi : i ∈ s.goodStalls) : ((s.haltAll x).stall i).seq.state ≠ .running := by
  have hs : (s.haltAll x).stalls = ((s.at_ x).onGood x fun t => t.halted).stalls := by
    unfold State.haltAll
    generalize List.range 8 = l
    generalize (s.at_ x).onGood x _ = u
    exact foldl_same State.stalls (f := fun s b => s.haltBarn b) l u fun s b => s.haltBarn_stalls b
  have hq := (s.at_ x).onGood_stall x (fun t => t.halted) hi
  have he : (s.haltAll x).stall i = ((s.at_ x).onGood x fun t => t.halted).stall i := congrArg (sget zeroStall · i) hs
  rw [he, seqState_of_quietly hq]
  exact Stall.halted_not_running _

theorem State.haltAll_barn (s : State) (x : Nat) {b : Nat} (hb : b < 8) : ((s.haltAll x).barn b).state ≠ .running := by
  unfold State.haltAll
  rw [barn_foldl_range State.barn_haltBarn _ hb]
  exact Barn.halted_not_running _

theorem auditHalt_effect {x : Nat} (hx : s.shot.halt = some x) (hb : s.shot.begun = true) (ha : s.bit A.glbAudit 0 = false) :
    ∃ t, exec .auditHalt s = .next t ∧ x ≤ t.cyc ∧ natBit (t.reg A.glbAudit) 0 = true ∧ t.shot.ownFrom = x ∧
      (∀ i ∈ s.goodStalls, (t.stall i).seq.state ≠ .running) ∧ (∀ b < 8, (t.barn b).state ≠ .running) ∧ t.hbm = s.hbm := by
  have hexec := execAuditHalt_halts hx hb ha
  have hw := s.haltAll_work x
  have hstall : ∀ i ∈ s.goodStalls, ((s.haltAll x).stall i).seq.state ≠ .running := fun i hi => s.haltAll_stall x hi
  have hbarn : ∀ b < 8, ((s.haltAll x).barn b).state ≠ .running := fun b hb => s.haltAll_barn x hb
  generalize s.haltAll x = w at hexec hw hstall hbarn
  have hcyc : w.cyc = max s.cyc x := (congrArg State.cyc hw.rest :)
  exact ⟨_, hexec, hcyc ▸ le_max_right s.cyc x, State.bit_setBit_same _ _ (by decide), rfl, hstall, hbarn, hw.hbm⟩

/-! ### The release of an audit halt -/

theorem execGlbAuditRelease_releases {v : Word} (hs : s.awake = true) (hv : natBit v.toNat 1 = true) (ha : s.bit A.glbAudit 0 = true) :
    let u := s.putBit A.glbAudit 0 false
    exec (.glbAuditRelease v) s = .next (if s.shot.margin && decide (s.shotEnd ≤ s.cyc) then u.closeShot else u) := by
  intro u
  refine congrArg Host.Outcome.next ((if_neg (by simp [hs, hv, ha])).trans ?_)
  have he : u.shotEnd = s.shotEnd := by
    show s.shot.begin_ + 7 * u.period = s.shot.begin_ + 7 * s.period
    have hp : u.period = s.period := State.field_of_reg _ _ ((State.reg_setField _ _ _ _ _).trans (if_neg (by decide)))
    rw [hp]
  show (if s.shot.margin && decide (u.shotEnd ≤ s.cyc) then u.closeShot else u) = _
  rw [he]

theorem glbAuditRelease_effect {v : Word} (hs : s.awake = true) (hv : natBit v.toNat 1 = true) (ha : s.bit A.glbAudit 0 = true) :
    ∃ t, exec (.glbAuditRelease v) s = .next t ∧ natBit (t.reg A.glbAudit) 0 = false ∧
      (s.shot.margin = false → t.stalls = s.stalls ∧ t.shot = s.shot ∧ t.hbm = s.hbm) ∧
      (s.shot.margin = true → s.shotEnd ≤ s.cyc → t.shot.begun = false) := by
  refine ⟨_, execGlbAuditRelease_releases hs hv ha, ?_, fun hm => ?_, fun hm he => ?_⟩
  · have hu : (s.putBit A.glbAudit 0 false).bit A.glbAudit 0 = false := by
      unfold State.putBit
      rw [State.bit_setField _ _ _ le_rfl (by decide)]
      rfl
    split
    · rw [State.closeShot_audit]
      exact hu
    · exact hu
  · simp [hm, State.putBit]
  · simp [hm, he, State.closeShot_begun]

/-! ### Aborts -/

/-- The state in which a host's abort is entered for the log. -/
def State.hostAborted (s : State) (v : Word) : State := (s.writeReg A.safeCtrl v.toNat).failEvent Ev.hostAbort s.srcGroom s.cyc []

theorem execSafeCtrlAbort_orders {v : Word} (hs : s.awake = true) (hv : natBit v.toNat 31 = true) (hb : s.shot.begun = true)
    (hg : s.shot.gone = none) (ha : s.safe.abort = none) (hh : s.bit A.glbAudit 0 = false) :
    exec (.safeCtrlAbort v) s = .next ((s.hostAborted v).orderAbort s.cyc) := by
  have hw : Shows s (s.writeReg A.safeCtrl v.toNat) := s.writeReg_shows _ _
  have hbit : (s.writeReg A.safeCtrl v.toNat).bit A.glbAudit 0 = false := (State.bit_of_reg 0 (s.reg_writeReg_ne _ (by decide))).trans hh
  have hshot : (s.writeReg A.safeCtrl v.toNat).shot = s.shot := (congrArg State.shot hw.rest :)
  have hsafe : (s.writeReg A.safeCtrl v.toNat).safe = s.safe := (congrArg State.safe hw.rest :)
  have hcyc : (s.writeReg A.safeCtrl v.toNat).cyc = s.cyc := (congrArg State.cyc hw.rest :)
  have hsrc : (s.writeReg A.safeCtrl v.toNat).srcGroom = s.srcGroom := (congrArg State.srcGroom hw.rest :)
  refine congrArg Host.Outcome.next ((if_neg (by simp [hs])).trans ((if_neg ?_).trans ?_))
  · simp [hv, hshot, hb, hg, hsafe, ha, hbit]
  · rw [hsrc, hcyc]
    rfl

theorem State.orderAbort_orders (s : State) (x : Nat) (hb : s.shot.begun = true) (ha : s.safe.abort = none) (hg : s.shot.gone = none) :
    s.orderAbort x = { s with safe := { s.safe with abort := some (x + 7) } } := if_pos (by simp [hb, ha, hg])

theorem safeCtrlAbort_effect {v : Word} (hs : s.awake = true) (hv : natBit v.toNat 31 = true) (hb : s.shot.begun = true)
    (hg : s.shot.gone = none) (ha : s.safe.abort = none) (hh : s.bit A.glbAudit 0 = false) :
    ∃ t, exec (.safeCtrlAbort v) s = .next t ∧ t.safe.abort = some (s.cyc + 7) ∧ t.stalls = s.stalls ∧ t.hbm = s.hbm ∧
      t.log.held = s.log.held ++ [⟨Ev.hostAbort, s.srcGroom, s.shotNo, s.now, []⟩] ∧
      (s.shot.margin = false → s.shot.fail = none → s.cyc ≤ s.marginAt → t.shot.fail = some ⟨s.cyc, Ev.hostAbort, s.srcGroom⟩) := by
  set w := s.writeReg A.safeCtrl v.toNat with hwdef
  have hw : Shows s w := s.writeReg_shows _ _
  have hreg : ∀ a, a ≠ A.safeCtrl → w.reg a = s.reg a := fun a h => s.reg_writeReg_ne _ h
  have hshot : w.shot = s.shot := (congrArg State.shot hw.rest :)
  have hno : w.shotNo = s.shotNo := by
    unfold State.shotNo
    rw [hreg A.glbShotLo (by decide), State.field_of_reg 15 0 (hreg A.glbShotHi (by decide))]
  have hcount : w.countAt s.cyc = s.now := (congrArg (fun u : State => u.countAt s.cyc) hw.rest :)
  have hlog : (w.event Ev.hostAbort s.srcGroom s.cyc []).log.held =
      s.log.held ++ [⟨Ev.hostAbort, s.srcGroom, s.shotNo, s.now, []⟩] := by
    rw [State.event_log, hw.log, hno, hcount]
  set e := w.event Ev.hostAbort s.srcGroom s.cyc [] with he
  have hmargin : e.marginAt = s.marginAt := by
    show w.shot.begin_ + 7 * w.period - 512 = s.shot.begin_ + 7 * s.period - 512
    rw [hshot, show w.period = s.period from State.field_of_reg 25 0 (hreg A.glbShotPeriod (by decide))]
  have hf : StallsOnly e (s.hostAborted v) := e.failShot_only _ _ _
  have hfs : (s.hostAborted v).stalls = e.stalls := e.failShot_stalls _ _ _
  have hfl : (s.hostAborted v).log = e.log := by
    show (e.failShot _ _ _).log = _
    unfold State.failShot
    split
    · rfl
    · split
      · split <;> rfl
      · rfl
  have hkept := hf.shot
  refine ⟨_, execSafeCtrlAbort_orders hs hv hb hg ha hh, ?_⟩
  rw [State.orderAbort_orders _ _ ((congrArg Shot.begun hkept).trans ((congrArg Shot.begun hshot).trans hb))
    ((congrArg (fun u : State => u.safe.abort) hf.rest).trans ((congrArg (fun u : State => u.safe.abort) hw.rest).trans ha))
    ((congrArg Shot.gone hkept).trans ((congrArg Shot.gone hshot).trans hg))]
  refine ⟨rfl, hfs.trans hw.aside.stalls, hf.hbm.trans hw.aside.hbm, (congrArg Log.held hfl).trans hlog, fun hm hn hx => ?_⟩
  have hshot' : e.shot = s.shot := hshot
  have := e.failShot_shot (x := s.cyc) (code := Ev.hostAbort) (src := s.srcGroom) (by rw [hshot', hb]) (by rw [hshot', hm])
    (by rw [hshot', hn]) (by rw [hmargin]; exact hx)
  exact congrArg Shot.fail this

theorem State.abortShot_barn (s : State) (x : Nat) {b : Nat} (hb : b < 8) :
    ((s.abortShot x).barn b).state ≠ .running ∧ ((s.abortShot x).barn b).sel = none := by
  have h : (s.abortShot x).barn b = ((s.onGood x fun t => t.abort x).barn b).abort := by
    unfold State.abortShot
    generalize s.onGood x _ = u
    exact barn_foldl_range (f := Barn.abort) (g := fun s b => s.setBarn b (s.barn b).abort) (fun s b c => State.barn_setBarn b c _) u hb
  rw [h]
  unfold Barn.abort
  refine ⟨?_, rfl⟩
  dsimp only
  split
  · exact nofun
  · assumption

theorem shotAbort_effect {x : Nat} (hx : s.safe.abort = some x) (hb : s.shot.begun = true) :
    ∃ t, exec .shotAbort s = .next t ∧ x ≤ t.cyc ∧ t.shot.gone = some x ∧ t.safe.abort = none ∧
      (∀ b < 8, (t.barn b).state ≠ .running ∧ (t.barn b).sel = none) ∧ t.hbm = s.hbm := by
  have hexec : exec .shotAbort s = .next ((s.at_ x).abortShot x) := by
    show execShotAbort s = _
    unfold execShotAbort
    rw [hx]
    exact congrArg Host.Outcome.next (if_pos hb)
  have hw := (s.at_ x).abortShot_work x
  have hgone : ((s.at_ x).abortShot x).shot.gone = some x ∧ ((s.at_ x).abortShot x).safe.abort = none := by
    unfold State.abortShot
    exact ⟨rfl, rfl⟩
  have hbarn := fun b hb => (s.at_ x).abortShot_barn x (b := b) hb
  generalize (s.at_ x).abortShot x = w at hexec hw hgone hbarn
  have hcyc : w.cyc = max s.cyc x := (congrArg State.cyc hw.rest :)
  exact ⟨w, hexec, hcyc ▸ le_max_right s.cyc x, hgone.1, hgone.2, hbarn, hw.hbm⟩

end Sys2Proof.Machine

namespace Sys2Proof.Machine

/-- Settles O23: the effects of the four commands above. -/
theorem auditHaltAndRelease : Obligations.AuditHaltAndRelease :=
  ⟨fun _ => ⟨fun _ => auditHalt_effect, fun _ => glbAuditRelease_effect⟩,
    fun _ => ⟨fun _ => safeCtrlAbort_effect, fun _ => shotAbort_effect⟩⟩

end Sys2Proof.Machine
end

/-!
# Ticks

What a tick that fires, one that does not, and the loss of ticks do (R29 to R31, R60).
-/
section
namespace Sys2Proof.Machine

open Sys2Proof.Safety

/-! ### Shot numbers -/

theorem State.shotNo_of_regs {s t : State} (hl : t.reg A.glbShotLo = s.reg A.glbShotLo) (hh : t.reg A.glbShotHi = s.reg A.glbShotHi) :
    t.shotNo = s.shotNo := by
  unfold State.shotNo
  rw [hl, State.field_of_reg 15 0 hh]

/-- A shot number of 48 bits is read as it was set (R31). -/
theorem State.shotNo_setShotNo (s : State) {n : Nat} (hn : n < 2 ^ 48) : (s.setShotNo n).shotNo = n := by
  have hl : (s.setShotNo n).reg A.glbShotLo = n % 2 ^ 32 := by
    unfold State.setShotNo
    rw [State.reg_setField, if_neg (by decide), State.reg_setReg, if_pos rfl, Nat.mod_mod]
  have hh : (s.setShotNo n).field A.glbShotHi 15 0 = n / 2 ^ 32 := by
    have hr : (s.setShotNo n).reg A.glbShotHi = setBits ((s.setReg A.glbShotLo (n % 2 ^ 32)).reg A.glbShotHi) 15 0 (n / 2 ^ 32) % 2 ^ 32 :=
      (State.reg_setField _ _ _ _ _).trans (if_pos rfl)
    show natBits ((s.setShotNo n).reg A.glbShotHi) 15 0 = _
    rw [hr, natBits_congr (by decide) fun i _ hi => natBit_mod (by omega), natBits_setBits_same _ _ (by decide)]
    omega
  unfold State.shotNo
  rw [hl, hh]
  omega

/-- A shot number is read as before where only registers other than its own have changed. -/
theorem State.shotNo_setField (s : State) {a : Nat} (hi lo v : Nat) (h : a ≠ A.glbShotLo ∧ a ≠ A.glbShotHi) :
    (s.setField a hi lo v).shotNo = s.shotNo :=
  State.shotNo_of_regs ((State.reg_setField _ _ _ _ _).trans (if_neg h.1.symm)) ((State.reg_setField _ _ _ _ _).trans (if_neg h.2.symm))

theorem State.shotNo_setReg (s : State) {a : Nat} (v : Nat) (h : a ≠ A.glbShotLo ∧ a ≠ A.glbShotHi) :
    (s.setReg a v).shotNo = s.shotNo :=
  State.shotNo_of_regs ((State.reg_setReg _ _ _).trans (if_neg h.1.symm)) ((State.reg_setReg _ _ _).trans (if_neg h.2.symm))

/-! ### The begin of a shot -/

/-- A shot has begun at cycle x: nothing of it has failed by abort, its margin is to come; number, boundary and HBM are those of `s`. -/
structure Begun (s t : State) (x : Nat) : Prop where
  begun : t.shot.begun = true
  begin_ : t.shot.begin_ = x
  margin : t.shot.margin = false
  gone : t.shot.gone = none
  abort : t.safe.abort = none
  nextNo : t.shot.nextNo = s.shot.nextNo
  shotNo : t.shotNo = s.shotNo
  hbm : t.hbm = s.hbm

theorem Begun.ofStalls {s t u : State} {x : Nat} (h : Begun s t x) (k : StallsOnly t u) : Begun s u x where
  begun := (congrArg Shot.begun k.shot).trans h.begun
  begin_ := (congrArg Shot.begin_ k.shot).trans h.begin_
  margin := (congrArg Shot.margin k.shot).trans h.margin
  gone := (congrArg Shot.gone k.shot).trans h.gone
  abort := (congrArg (fun w : State => w.safe.abort) k.rest).trans h.abort
  nextNo := (congrArg Shot.nextNo k.shot).trans h.nextNo
  shotNo := (State.shotNo_of_regs (k.reg _) (k.reg _)).trans h.shotNo
  hbm := k.hbm.trans h.hbm

theorem State.stallsBegin_only (s : State) (x : Nat) (entry : Nat → Option Nat) (step : Nat) :
    StallsOnly s (s.stallsBegin x entry step) :=
  ((StallsOnly.refl s).foldl _ fun w i => w.modStall_only i _).trans (State.flush_only _ _)

/-- The registers of the yardmasters stand above those of the whole module. -/
theorem barnReg_ne {a b : Nat} (c : Nat) (ha : 0x1000000 ≤ a) (hb : b < 0x1000000) : barnReg a c ≠ b := by
  unfold barnReg
  omega

theorem State.barnsBegin_begun {s t : State} {x : Nat} (h : Begun s t x) (y : Nat) (p : Option Plan) : Begun s (t.barnsBegin y p) x := by
  unfold State.barnsBegin
  generalize List.range 8 = l
  refine List.foldlRecOn (motive := fun u => Begun s u x) l _ h fun u hu b _ => ?_
  extract_lets e run z v
  have hv : Begun s v x := ⟨hu.begun, hu.begin_, hu.margin, hu.gone, hu.abort, hu.nextNo, hu.shotNo, hu.hbm⟩
  clear_value v
  exact ⟨hv.begun, hv.begin_, hv.margin, hv.gone, hv.abort, hv.nextNo,
    (State.shotNo_setField _ _ _ _ ⟨barnReg_ne b (by decide) (by decide), barnReg_ne b (by decide) (by decide)⟩).trans
      ((State.shotNo_setReg _ _ ⟨barnReg_ne b (by decide) (by decide), barnReg_ne b (by decide) (by decide)⟩).trans hv.shotNo), hv.hbm⟩

theorem State.beginShot_begun (s : State) (x : Nat) (q : Option RunEntry) (p : Option Plan) : Begun s (s.beginShot x q p) x := by
  unfold State.beginShot
  extract_lets _ _ _ t entry u
  have ht : Begun s t x := ⟨rfl, rfl, rfl, rfl, rfl, rfl, rfl, rfl⟩
  clear_value t
  have hu : Begun s u x := State.barnsBegin_begun (ht.ofStalls (t.stallsBegin_only _ _ _)) _ _
  clear_value u
  split
  · exact hu.ofStalls (u.failEvent_only _ _ _ _)
  · exact hu

theorem State.barnsBegin_shot (s : State) (x : Nat) (p : Option Plan) : (s.barnsBegin x p).shot = s.shot := by
  unfold State.barnsBegin
  generalize List.range 8 = l
  refine foldl_same State.shot l s fun w b => ?_
  rfl

/-- A shot without a RUN runs no plan. -/
theorem State.beginShot_plan (s : State) (x : Nat) (p : Option Plan) : (s.beginShot x none p).shot.plan = none := by
  unfold State.beginShot
  extract_lets _ _ _ t entry u
  have ht : t.shot.plan = none := rfl
  clear_value t
  have hu : u.shot.plan = none := by
    subst u
    rw [State.barnsBegin_shot]
    have hv := t.stallsBegin_only x entry t.shot.step
    generalize t.stallsBegin x entry t.shot.step = v at hv
    exact (congrArg Shot.plan hv.shot).trans ht
  clear_value u
  split
  · exact (congrArg Shot.plan (u.failEvent_only _ _ _ _).shot).trans hu
  · exact hu

/-- What a shot's begin does before it: registers of the reruns, the head of the run queue, the step record. -/
structure Readied (s t : State) : Prop where
  shot : t.shot = s.shot
  shotNo : t.shotNo = s.shotNo
  hbm : t.hbm = s.hbm

theorem Readied.refl (s : State) : Readied s s := ⟨rfl, rfl, rfl⟩

theorem Readied.trans {s t u : State} (h : Readied s t) (k : Readied t u) : Readied s u :=
  ⟨k.shot.trans h.shot, k.shotNo.trans h.shotNo, k.hbm.trans h.hbm⟩

theorem State.setField_readied (s : State) {a : Nat} (hi lo v : Nat) (h : a ≠ A.glbShotLo ∧ a ≠ A.glbShotHi) :
    Readied s (s.setField a hi lo v) := ⟨rfl, s.shotNo_setField _ _ _ h, rfl⟩

theorem State.putBit_readied (s : State) {a : Nat} (i : Nat) (v : Bool) (h : a ≠ A.glbShotLo ∧ a ≠ A.glbShotHi) :
    Readied s (s.putBit a i v) := s.setField_readied _ _ _ h

theorem State.firstShot_readied (s : State) (q : RunEntry) (p : Plan) : Readied s (s.firstShot q p) := by
  unfold State.firstShot
  split
  · exact .refl s
  · extract_lets t
    have ht : Readied s t := by
      subst t
      split <;> exact ⟨rfl, rfl, rfl⟩
    clear_value t
    exact ht.trans ⟨rfl, rfl, rfl⟩

/-- Every shot that starts begins so; without a RUN in the queue it is an empty one (R31). -/
theorem State.startShot_begins (s : State) (x : Nat) :
    ∃ u q p, s.startShot x = u.beginShot x q p ∧ Readied s u ∧ (s.host.runs = [] → q = none) := by
  have hput : ∀ v, Readied s (s.putBit A.safeStatus 30 v) := fun v => s.putBit_readied 30 v (by decide)
  unfold State.startShot
  split
  next q _ hr =>
    have hne : s.host.runs ≠ [] := by simp [hr]
    split
    next p _ =>
      split
      · exact ⟨_, none, none, rfl, hput false, fun _ => rfl⟩
      · split
        · exact ⟨_, none, none, rfl, hput true, fun _ => rfl⟩
        · extract_lets t again _ q' u _ v w
          have ht : Readied s t := s.firstShot_readied q p
          clear_value t
          have hu : Readied t u := ⟨rfl, rfl, rfl⟩
          clear_value u
          have hv : Readied u v := by
            subst v
            split
            · exact (State.setField_readied _ _ _ _ (by decide)).trans ⟨rfl, rfl, rfl⟩
            · exact .refl u
          clear_value v
          have hw : Readied v w := ((v.putBit_readied _ _ (by decide)).trans (State.putBit_readied _ _ _ (by decide))).trans
            (State.setField_readied _ _ _ _ (by decide))
          exact ⟨w, _, _, rfl, ((ht.trans hu).trans hv).trans hw, fun h => absurd h hne⟩
    next => exact ⟨_, none, none, rfl, hput false, fun _ => rfl⟩
  next =>
    exact ⟨_, none, none, rfl, (hput false).trans (State.setField_readied _ _ _ _ (by decide)), fun _ => rfl⟩

/-! ### A tick that fires -/

/-- What leaves the module at a tick, and the substitution case, leave the shot and what decides whether one starts. -/
structure TickSent (s t : State) : Prop extends Readied s t where
  boot : t.boot = s.boot
  power : t.power = s.power
  runs : t.host.runs = s.host.runs
  audit : t.reg A.glbAudit = s.reg A.glbAudit

theorem TickSent.trans {s t u : State} (h : TickSent s t) (k : TickSent t u) : TickSent s u :=
  ⟨h.toReadied.trans k.toReadied, k.boot.trans h.boot, k.power.trans h.power, k.runs.trans h.runs, k.audit.trans h.audit⟩

theorem State.substitute_tick (s : State) : TickSent s s.substitute := by
  unfold State.substitute
  split
  · exact ⟨s.setField_readied _ _ _ (by decide), rfl, rfl, rfl, (State.reg_setField _ _ _ _ _).trans (if_neg (by decide))⟩
  · exact ⟨.refl s, rfl, rfl, rfl, rfl⟩

theorem Sent.tick {s t : State} (h : Sent s t) : TickSent s t :=
  ⟨⟨h.shot, (congrArg State.shotNo h.rest :), h.aside.hbm⟩, (congrArg State.boot h.rest :), (congrArg State.power h.rest :),
    congrArg HostIf.runs h.host, congrArg (RegBank.get · A.glbAudit) h.regs⟩

theorem State.tickOut_sent (s : State) (e n : Nat) : Sent s (s.tickOut e n) := by
  unfold State.tickOut
  extract_lets c k t
  have ht : Sent s t := by
    subst t
    split
    · exact s.announceChildren_sent _
    · exact .refl s
  exact ht.trans (t.emit_sent _)

theorem State.dropStale_tick (s : State) : TickSent s s.dropStale := ⟨⟨rfl, rfl, rfl⟩, rfl, rfl, rfl, rfl⟩

theorem State.startsShots_congr {s t : State} (x : Nat) (ha : t.reg A.glbAudit = s.reg A.glbAudit) (hb : t.boot = s.boot)
    (hp : t.power = s.power) : t.startsShots x = s.startsShots x := by
  unfold State.startsShots
  rw [State.bit_of_reg 0 ha, hb, hp]

/-- The tick of boundary n at a state in which shots start begins a shot at cycle x. -/
theorem State.fire_begins {s : State} (e n x : Nat) (hs : s.startsShots x = true) :
    ∃ u, Begun u (s.fire e n x) x ∧ u.shotNo = n % 2 ^ 48 ∧ u.shot.nextNo = n + 1 ∧ u.hbm = s.hbm ∧
      (s.host.runs = [] → (s.fire e n x).shot.plan = none) := by
  unfold State.fire
  extract_lets a _ b c
  have ha : a.shotNo = n % 2 ^ 48 := s.shotNo_setShotNo (Nat.mod_lt _ (by decide))
  have haudit : a.reg A.glbAudit = s.reg A.glbAudit := by
    show ((s.setReg _ _).setField _ _ _ _).reg _ = _
    rw [State.reg_setField, if_neg (by decide), State.reg_setReg, if_neg (by decide)]
  have hb : b.shotNo = n % 2 ^ 48 ∧ b.shot.nextNo = n + 1 ∧ b.hbm = s.hbm := ⟨ha, rfl, rfl⟩
  have hbs : b.reg A.glbAudit = s.reg A.glbAudit ∧ b.boot = s.boot ∧ b.power = s.power ∧ b.host = s.host := ⟨haudit, rfl, rfl, rfl⟩
  clear_value b
  obtain ⟨hno, hnext, hhbm⟩ := hb
  obtain ⟨haud, hboot, hpower, hhost⟩ := hbs
  have hc : TickSent b c := (b.substitute_tick.trans (State.tickOut_sent _ e n).tick).trans (State.dropStale_tick _)
  clear_value c
  have hstart : c.startsShots x = true :=
    (State.startsShots_congr x (hc.audit.trans haud) (hc.boot.trans hboot) (hc.power.trans hpower)).trans hs
  rw [if_pos hstart]
  obtain ⟨u, q, p, hbegin, hu, hq⟩ := c.startShot_begins x
  rw [hbegin]
  refine ⟨u, u.beginShot_begun x q p, hu.shotNo.trans (hc.shotNo.trans hno), (congrArg Shot.nextNo (hu.shot.trans hc.shot)).trans hnext,
    hu.hbm.trans (hc.hbm.trans hhbm), fun hr => ?_⟩
  rw [hq (hc.runs.trans ((congrArg HostIf.runs hhost).trans hr))]
  exact u.beginShot_plan x p

/-! ### A tick that does not fire -/

theorem State.nextShot_frame (s : State) (q : RunEntry) :
    (s.nextShot q).shot = s.shot ∧ (s.nextShot q).hbm = s.hbm ∧ (s.nextShot q).stalls = s.stalls := by
  unfold State.nextShot
  extract_lets
  split <;> exact ⟨rfl, rfl, rfl⟩

theorem State.markFailed_frame (s : State) (step : Nat) :
    (s.markFailed step).shot = s.shot ∧ (s.markFailed step).hbm = s.hbm ∧ (s.markFailed step).stalls = s.stalls := by
  unfold State.markFailed
  split <;> exact ⟨rfl, rfl, rfl⟩

/-- A boundary whose tick does not fire passes: no shot begins. -/
theorem State.missTick_passes (s : State) (n x : Nat) :
    (s.missTick n x).shot.nextNo = n + 1 ∧ (s.missTick n x).shot.begun = s.shot.begun ∧ (s.missTick n x).shotNo = s.shotNo ∧
      (s.missTick n x).hbm = s.hbm ∧ (s.missTick n x).stalls = s.stalls := by
  unfold State.missTick
  extract_lets lack a _ b
  have ha : a.shot = s.shot ∧ a.shotNo = s.shotNo ∧ a.hbm = s.hbm ∧ a.stalls = s.stalls := by
    subst a
    split
    · exact ⟨rfl, s.shotNo_setField _ _ _ (by decide), rfl, rfl⟩
    · exact ⟨rfl, rfl, rfl, rfl⟩
  clear_value a
  obtain ⟨hshot, hno, hhbm, hstalls⟩ := ha
  have hb : b.shot.nextNo = n + 1 ∧ b.shot.begun = s.shot.begun ∧ b.shotNo = s.shotNo ∧ b.hbm = s.hbm ∧ b.stalls = s.stalls :=
    ⟨rfl, (congrArg Shot.begun hshot :), hno, hhbm, hstalls⟩
  clear_value b
  split
  next q _ _ =>
    split
    · obtain ⟨hm1, hm2, hm3⟩ := b.markFailed_frame q.step
      obtain ⟨hn1, hn2, hn3⟩ := (b.markFailed q.step).nextShot_frame q
      have hs := hn1.trans hm1
      have hr : ((b.markFailed q.step).nextShot q).regs = b.regs := (State.nextShot_regs _ _).trans (b.markFailed_regs _)
      have hno' : ((b.markFailed q.step).nextShot q).shotNo = b.shotNo :=
        State.shotNo_of_regs (congrArg (RegBank.get · _) hr) (congrArg (RegBank.get · _) hr)
      rw [hs, hno', hn2.trans hm2, hn3.trans hm3]
      exact hb
    · exact hb
  next => exact hb

/-! ### The command TICK -/

theorem execTick_boundary {s : State} {e : Nat} (he : s.shot.epoch = some e) (hi : s.boot.image.isSome = true)
    (hm : s.shot.begun = true → s.shot.margin = true) :
    let x := s.boundaryAt e
    let w := (s.at_ x).boundary x
    exec .tick s = .next (if w.fires then w.fire e s.shot.nextNo x else w.missTick s.shot.nextNo x) := by
  show execTick s = _
  unfold execTick
  rw [he]
  refine congrArg Host.Outcome.next (if_neg ?_)
  have him : s.boot.image.isNone = false := by
    rw [← Option.not_isSome, hi]
    rfl
  cases hb : s.shot.begun with
  | false => simp [him]
  | true => simp [him, hm hb]

theorem tickLossDetect_effect {s : State} {x : Nat} (hx : s.shot.missAt = some x) :
    ∃ t, exec .tickLossDetect s = .next t ∧ x + 7 * min (2 * s.period) 25000 ≤ t.cyc ∧ t.shot.missAt = none ∧ t.shot.noTicks = true ∧
      t.fab.synced = false ∧ natBit (t.reg A.glbTickStatus) 31 = true ∧
      t.log.held.map (fun e => (e.code, e.src)) = s.log.held.map (fun e => (e.code, e.src)) ++ [(Ev.tickLost, s.srcGroom)] ∧
      t.stalls = s.stalls ∧ t.barns = s.barns ∧ t.hbm = s.hbm ∧ t.host = s.host := by
  let w : State := (s.at_ (x + 7 * min (2 * s.period) 25000)).groomEvent Ev.tickLost []
  let u : State := (w.setBit A.glbTickStatus 31).failureEvent 1
  let t : State := { u with shot := { u.shot with missAt := none, noTicks := true }, fab := { u.fab with synced := false } }
  have hexec : exec .tickLossDetect s = .next t := by
    show execTickLossDetect s = _
    unfold execTickLossDetect
    rw [hx]
  have hbit : u.bit A.glbTickStatus 31 = true := by
    have hr : u.reg A.glbTickStatus = (w.setBit A.glbTickStatus 31).reg A.glbTickStatus :=
      (State.reg_setField _ _ _ _ _).trans (if_neg (by decide))
    rw [State.bit_of_reg 31 hr]
    exact w.bit_setBit_same _ (by decide)
  exact ⟨t, hexec, le_max_right _ _, rfl, rfl, rfl, hbit, State.event_logged _ _ _ _ _, rfl, rfl, rfl, rfl⟩

/-- Settles O20: a tick that fires where shots start, one that does not, and the loss of ticks. -/
theorem tickBeginsShot : Obligations.TickBeginsShot := by
  refine ⟨fun s e he hi hm => ?_, fun s x hx => tickLossDetect_effect hx⟩
  intro n x w
  have hexec : exec .tick s = .next (if w.fires then w.fire e n x else w.missTick n x) := execTick_boundary he hi hm
  have hcyc : x ≤ w.cyc := (le_max_right s.cyc x).trans (State.boundary_keeps (.refl (s.at_ x))).cyc
  refine ⟨fun hf hs => ?_, fun hf => ?_⟩
  · obtain ⟨u, hu, hno, hnext, hhbm, hplan⟩ := State.fire_begins e n x hs
    exact ⟨w.fire e n x, by rw [hexec, if_pos hf], hcyc.trans (State.fire_keeps (.refl w)).cyc, hu.begun, hu.begin_, hu.margin, hu.gone,
      hu.shotNo.trans hno, hu.nextNo.trans hnext, hu.abort, hplan, hu.hbm.trans hhbm⟩
  · obtain ⟨hnext, hbegun, hno, hhbm, hstalls⟩ := w.missTick_passes n x
    exact ⟨w.missTick n x, by rw [hexec, hf]; rfl, hcyc.trans (State.missTick_keeps (.refl w)).cyc, hnext, hbegun, hno, hhbm, hstalls⟩

end Sys2Proof.Machine
end

/-!
# Announcements and time

What announcements, synchronisations and peer delay messages do (R60, R66, R394 to R397).
-/
section
namespace Sys2Proof.Machine

open Sys2Proof.Safety

variable {s : State}

/-! ### Announcements -/

/-- R31: the boundary nearest to the next one is that of the announced number itself, where it lies less than 2^47 ahead. -/
theorem State.boundaryNo_of_near {n : Nat} (h48 : n < 2 ^ 48) (hl : s.shot.nextNo ≤ n) (hh : n < s.shot.nextNo + 2 ^ 47) :
    s.boundaryNo n = n := by
  unfold State.boundaryNo
  dsimp only
  split <;> omega

/-- An announcement of the module's own T(b), of a boundary b that is to come and of which none is held, is held. -/
theorem State.takeAnnounce_held {n c e : Nat} (he : s.shot.epoch = some e) (hc : c = s.tickCount e (s.boundaryNo n))
    (hb : s.shot.nextNo ≤ s.boundaryNo n) (ha : ∀ a ∈ s.shot.anns, a.shot ≠ s.boundaryNo n) :
    s.takeAnnounce n c = (s.holdAnnounce (s.boundaryNo n) c, true) := by
  have hany : (s.shot.anns.any fun a => decide (a.shot = s.boundaryNo n)) = false := by
    rw [List.any_eq_false]
    simpa using ha
  have hfits : s.announceFits (s.boundaryNo n) c = true := by
    unfold State.announceFits
    rw [he]
    exact decide_eq_true hc
  have hlt : ¬ s.boundaryNo n < s.shot.nextNo := by omega
  unfold State.takeAnnounce
  simp [he, hfits, hany, hlt]

/-- The first announcement sets T(0) (R394). -/
theorem State.takeAnnounce_epoch (n c : Nat) (he : s.shot.epoch = none) :
    (s.takeAnnounce n c).1.shot.epoch = some ((c + 2 ^ 64 - n * s.period % 2 ^ 64) % 2 ^ 64) := by
  unfold State.takeAnnounce
  extract_lets t b
  have ht : t.shot.epoch = some ((c + 2 ^ 64 - n * s.period % 2 ^ 64) % 2 ^ 64) := by
    subst t
    rw [he]
    rfl
  clear_value t
  split
  · exact ht
  · split <;> exact ht

theorem execTickInWord_taken {w : BitVec 128} (hs : s.awake = true) (hsrc : s.fabric.tickSource = 2) (hi : s.boot.image.isSome = true) :
    exec (.tickInWord w) s = .next (if bitsOf w 15 0 ≠ tickCrc (bitsOf w 127 80) (bitsOf w 79 16) then s.badAnnounce
      else (s.takeAnnounce (bitsOf w 127 80) (bitsOf w 79 16)).1) := by
  have hi' : s.boot.image.isNone = false := by rw [← Option.not_isSome, hi]; rfl
  exact congrArg Host.Outcome.next (if_neg (by simp [hs, hsrc, hi']))

theorem bitsOf_lt {n : Nat} (w : BitVec n) (hi lo : Nat) : bitsOf w hi lo < 2 ^ (hi + 1 - lo) := Nat.mod_lt _ (Nat.two_pow_pos _)

theorem execTickFrame_held {p : PortId} {f : Frame} {w : State} {e : Nat} (hk : f.kind = 8) (hsrc : s.fabric.tickSource = 1)
    (hi : s.boot.image.isSome = true) (hw : s.takeFrame p.val f = (w, true)) (hp : leAt f.payload 14 4 = w.period)
    (he : w.shot.epoch = some e) (hc : leAt f.payload 6 8 = w.tickCount e (w.boundaryNo (leAt f.payload 0 6)))
    (hb : w.shot.nextNo ≤ w.boundaryNo (leAt f.payload 0 6)) (ha : ∀ a ∈ w.shot.anns, a.shot ≠ w.boundaryNo (leAt f.payload 0 6)) :
    exec (.tickFrame p f) s =
      .next ((w.holdAnnounce (w.boundaryNo (leAt f.payload 0 6)) (leAt f.payload 6 8)).announceChildren f.payload) := by
  have hi' : s.boot.image.isNone = false := by rw [← Option.not_isSome, hi]; rfl
  refine congrArg Host.Outcome.next ((if_neg (by simp [hk, hsrc, hi'])).trans ?_)
  rw [hw]
  dsimp only
  rw [State.takeAnnounce_held he hc hb ha]
  simp [hp]

/-! ### Synchronisations -/

theorem execPtpSync_admitted (o : Int) (hs : s.awake = true) (hi : s.boot.image.isSome = true) (hsrc : s.fabric.tickSource ≠ 0) :
    exec (.ptpSync o) s = .next (if !s.shot.begun && (!s.fab.synced || !s.fab.aligned) then s.stepTime o
      else
        let u := s.setOffset o
        let far := decide (o < -alignLimit ∨ alignLimit < o)
        if far && u.fab.aligned && decide (u.boot.mode = .run) then
          ({ u with fab := { u.fab with aligned := false } }.groomEvent Ev.timeAlign []).fabErr 29 0xFFFF
        else if !far then { u with fab := { u.fab with aligned := true } }
        else u) := by
  have hi' : s.boot.image.isNone = false := by rw [← Option.not_isSome, hi]; rfl
  exact congrArg Host.Outcome.next (if_neg (by simp [hs, hsrc, hi']))

theorem State.stepTime_effect (o : Int) :
    (s.stepTime o).fab.synced = true ∧ (s.stepTime o).fab.aligned = true ∧ (s.stepTime o).fab.offset = o - 4000 * stepCounts o ∧
      (s.stepTime o).off = (((s.off : Int) - stepCounts o) % (2 ^ 64 : Int)).toNat ∧ (s.stepTime o).cyc = s.cyc := by
  unfold State.stepTime
  extract_lets k _ a _ b
  split <;> exact ⟨rfl, rfl, rfl, rfl, rfl⟩

theorem State.fabErr_shows (s : State) (bit number : Nat) : Shows s (s.fabErr bit number) := by
  unfold State.fabErr
  extract_lets t
  have ht : Shows s t := by
    subst t
    split
    · exact s.setField_shows _ _ _ _
    · exact .refl s
  exact ht.trans (t.setBit_shows _ _)

/-! ### Message intervals -/

/-- What a message interval sends on port p: Pdelay_Req where its link is a torus link that is up, and Sync and Follow_Up towards a child. -/
def State.intervalOuts (s : State) (kids : List Nat) (p : Nat) : List Out :=
  if !isTorus p || !(s.port p).up then [] else .ptp p 2 :: if kids.contains p then [.ptp p 0, .ptp p 1] else []

theorem State.mem_intervalOuts {kids : List Nat} {p q : Nat} : Out.ptp p 2 ∈ s.intervalOuts kids q ↔ p = q ∧ isTorus q = true ∧ (s.port q).up = true := by
  unfold State.intervalOuts
  cases isTorus q <;> cases (s.port q).up <;> cases kids.contains q <;> simp

theorem State.interval_foldl (kids l : List Nat) (o : List Out) :
    l.foldl (fun (w : State) p => if !isTorus p || !(w.port p).up then w
      else
        let w := w.emit (.ptp p 2)
        if kids.contains p then (w.emit (.ptp p 0)).emit (.ptp p 1) else w) { s with out := o } =
      { s with out := o ++ l.flatMap (s.intervalOuts kids) } := by
  induction l generalizing o with
  | nil => simp
  | cons p l ih =>
    have hstep : (if !isTorus p || !(s.port p).up then ({ s with out := o } : State)
        else
          let w := ({ s with out := o } : State).emit (.ptp p 2)
          if kids.contains p then (w.emit (.ptp p 0)).emit (.ptp p 1) else w) = { s with out := o ++ s.intervalOuts kids p } := by
      unfold State.intervalOuts State.emit
      split
      · simp
      · split <;> simp
    rw [List.foldl_cons, List.flatMap_cons, ← List.append_assoc]
    exact (congrArg (List.foldl _ · l) hstep).trans (ih _)

theorem ptpMessageInterval_effect (hs : s.awake = true) (hi : s.boot.image.isSome = true) :
    ∃ t l, exec .ptpMessageInterval s = .next t ∧ t = { s with out := s.out ++ l } ∧
      ∀ p < 20, (Out.ptp p 2 ∈ l ↔ isTorus p = true ∧ (s.port p).up = true) := by
  have hi' : s.boot.image.isNone = false := by rw [← Option.not_isSome, hi]; rfl
  refine ⟨_, (List.range 20).flatMap (s.intervalOuts (s.childHops.map fun h => [hopPort false h, hopPort true h]).flatten),
    congrArg Host.Outcome.next ((if_neg (by simp [hs, hi'])).trans (State.interval_foldl _ _ s.out)), rfl, fun p hp => ?_⟩
  simp only [List.mem_flatMap, List.mem_range, State.mem_intervalOuts]
  exact ⟨fun ⟨q, _, hpq, h⟩ => hpq ▸ h, fun h => ⟨p, hp, rfl, h⟩⟩

/-- Settles O35: each clause is the effect of its command above. -/
theorem timeAndAnnouncements : Obligations.TimeAndAnnouncements := by
  intro s hs
  refine ⟨fun w hsrc hi => ?_, fun p f w e hk hsrc hi hw hp he => ?_, fun o hi hsrc => ?_, fun p hu ht => ?_, ptpMessageInterval_effect hs⟩
  · have hexec := execTickInWord_taken (w := w) hs hsrc hi
    refine ⟨fun hcrc => by rw [hexec, if_pos hcrc]; rfl, fun hl hh => State.boundaryNo_of_near (bitsOf_lt w 127 80) hl hh,
      fun e hcrc he hc hb ha => ?_, fun hcrc he => ⟨_, hexec, ?_⟩⟩
    · rw [hexec, if_neg (not_not.2 hcrc), State.takeAnnounce_held he hc hb ha]
      rfl
    · rw [if_neg (not_not.2 hcrc)]
      exact State.takeAnnounce_epoch _ _ he
  · intro b hc hb ha
    have hsent := (w.holdAnnounce b (leAt f.payload 6 8)).announceChildren_sent f.payload
    exact ⟨_, execTickFrame_held hk hsrc hi hw hp he hc hb ha, congrArg Shot.anns hsent.shot, congrArg Shot.missAt hsent.shot,
      congrArg Shot.noTicks hsent.shot, hsent.aside.stalls, hsent.aside.hbm⟩
  · have hexec := execPtpSync_admitted o hs hi hsrc
    refine ⟨fun hb hsy => ⟨s.stepTime o, by rw [hexec]; simp [hb, hsy], s.stepTime_effect o⟩, fun hb hl hh => ?_, fun hb hfar ha hm => ?_⟩
    · refine ⟨{ s.setOffset o with fab := { (s.setOffset o).fab with aligned := true } }, ?_, rfl, rfl, rfl, rfl⟩
      have hnear : ¬ (o < -4000 ∨ 4000 < o) := by omega
      rw [hexec]
      simp [hb, alignLimit, hnear]
    · let u : State := { s.setOffset o with fab := { (s.setOffset o).fab with aligned := false } }
      have hsh := (u.groomEvent Ev.timeAlign []).fabErr_shows 29 0xFFFF
      have hal : (s.setOffset o).fab.aligned = true := ha
      have hmode : (s.setOffset o).boot.mode = .run := hm
      refine ⟨(u.groomEvent Ev.timeAlign []).fabErr 29 0xFFFF, ?_, (congrArg (fun w : State => w.fab.offset) hsh.rest :),
        (congrArg (fun w : State => w.fab.aligned) hsh.rest :), (congrArg State.off hsh.rest :), ?_⟩
      · rw [hexec]
        simp [hb, alignLimit, hfar, hal, hmode, u]
      · rw [hsh.log]
        exact u.event_logged _ _ _ _
  · exact congrArg Host.Outcome.next (if_pos (by simp [hs, hu, ht]))

end Sys2Proof.Machine
end

/-!
# Crossings between clock domains

What an event that reaches a crossing leaves alone, and the overrun where the one before it is not usable yet (R44 to R48).
-/
section
namespace Sys2Proof.Machine

open Sys2Proof.Safety

/-- `t` differs from `s` only in what a crossing changes: its cycle, the free values taken, GLB_CDC_STATUS and the log. -/
structure Crossed (s t : State) : Prop where
  rest : { t with regs := s.regs, sets := s.sets, cdc := s.cdc, log := s.log, free := s.free } = s
  reg : ∀ a, a ≠ A.glbCdcStatus → t.reg a = s.reg a

theorem Crossed.trans {s t u : State} (h : Crossed s t) (k : Crossed t u) : Crossed s u where
  rest := (congrArg (fun w : State => { w with regs := s.regs, sets := s.sets, cdc := s.cdc, log := s.log, free := s.free }) k.rest).trans
    h.rest
  reg a ha := (k.reg a ha).trans (h.reg a ha)

theorem State.overrun_crossed (s : State) (g : Nat) : Crossed s (s.overrun g) := by
  unfold State.overrun
  extract_lets t
  have ht : Crossed s t := ⟨rfl, fun a ha => (State.reg_setField _ _ _ _ _).trans (if_neg ha)⟩
  clear_value t
  have hb : Crossed t (t.setBit A.glbCdcStatus g) := ⟨rfl, fun a ha => (State.reg_setBit _ _ _ _).trans (if_neg ha)⟩
  split
  · exact ht.trans hb
  · exact (ht.trans hb).trans ⟨rfl, fun _ _ => rfl⟩

/-- An overrun sets its group's flag. -/
theorem State.overrun_bit (s : State) {g : Nat} (hg : g < 16) : (s.overrun g).bit A.glbCdcStatus g = true := by
  unfold State.overrun
  extract_lets t
  split
  · exact t.bit_setBit_same _ (by omega)
  · exact t.bit_setBit_same _ (by omega)

/-- An overrun is entered for the log where its group's flag was clear. -/
theorem State.overrun_logged (s : State) {g : Nat} (hg : g < 16) (h : s.bit A.glbCdcStatus g = false) :
    Logged s (s.overrun g) [(Ev.cdcOverrun, s.srcGroom)] := by
  unfold State.overrun
  extract_lets t
  have ht : t.bit A.glbCdcStatus g = false := (State.bit_bump _ _ _ (by decide) (by omega) (by omega)).trans h
  rw [if_neg (by simp [ht])]
  exact (t.setBit A.glbCdcStatus g).event_logged _ _ _ _

/-- An event of a crossing whose last event is usable: nothing else happens. -/
theorem State.cross_usable {s : State} {g k : Nat} (h : s.crossing g k = false) : (s.cross g k).log = s.log ∧ (s.cross g k).regs = s.regs := by
  unfold State.cross
  rw [h]
  exact ⟨rfl, rfl⟩

/-- An event of a crossing whose last event is not usable yet overruns it. -/
theorem State.cross_overruns {s : State} {g k : Nat} (h : s.crossing g k = true) :
    (s.cross g k).log = (s.overrun g).log ∧ (s.cross g k).regs = (s.overrun g).regs := by
  unfold State.cross
  rw [h]
  exact ⟨rfl, rfl⟩

theorem State.cross_crossed (s : State) (g k : Nat) : Crossed s (s.cross g k) := by
  unfold State.cross
  extract_lets t
  have ht : Crossed s t := by
    subst t
    split
    · exact s.overrun_crossed g
    · exact ⟨rfl, fun _ _ => rfl⟩
  clear_value t
  exact ht.trans ⟨rfl, fun _ _ => rfl⟩

theorem Crossed.fab {s t : State} (h : Crossed s t) : t.fab = s.fab := (congrArg State.fab h.rest :)
theorem Crossed.hbm {s t : State} (h : Crossed s t) : t.hbm = s.hbm := (congrArg State.hbm h.rest :)

end Sys2Proof.Machine
end

/-!
# Links

What brings a port up and down, and what a link's acknowledgement, an address request and a cable change do (R364, R368, R370, R390, R503).
-/
section
namespace Sys2Proof.Machine

open Sys2Proof.Safety

variable {s : State}

theorem State.port_of_fab {s t : State} (h : t.fab = s.fab) (k : Nat) : t.port k = s.port k := congrArg (fun f : Fab => sget zeroPort f.ports k) h

theorem Shows.fab {s t : State} (h : Shows s t) : t.fab = s.fab := (congrArg State.fab h.rest :)

theorem State.sendControl_shows (s : State) (p : Nat) (f : Frame) : Shows s (s.sendControl p f) := by
  unfold State.sendControl
  split
  · exact s.emit_shows _
  · exact .refl s

theorem State.sendLink_shows (s : State) (p what lseq : Nat) : Shows s (s.sendLink p what lseq) := s.sendControl_shows _ _

theorem portReg_ne {a b : Nat} (p : Nat) (ha : 0x600000 ≤ a) (hb : b < 0x600000) : portReg a p ≠ b := by
  unfold portReg
  omega

theorem portReg_ne_portReg {a b : Nat} (p : Nat) (h : a ≠ b) : portReg a p ≠ portReg b p := by
  unfold portReg
  omega

/-- The link state of port p as LINK_UP sets it. -/
def State.linkedUp (s : State) (p : Nat) (m q : Nat) : Port :=
  { s.port p with
    up := true, training := false, seqNo := 0, replay := [], expect := 0, got := [], swapHeld := none
    back := s.shot.nextNo, peer := if isTorus p then some (m, q) else none }

theorem execLinkUp_comes (p : PortId) (m : BitVec 16) (q : BitVec 5) (hs : s.awake = true) (hu : (s.port p.val).up = false)
    (hc : (s.port p.val).cable = true) (hm : s.boot.image = none ∨ s.portMode p.val ≠ 0) :
    ∃ t, exec (.linkUp p m q) s = .next t ∧ Shows ((s.cross cdcSerdes p.val).setPort p.val (s.linkedUp p.val m.toNat q.toNat)) t := by
  have hoff : (s.boot.image.isSome && decide (s.portMode p.val = 0)) = false := by
    rcases hm with hm | hm
    · simp [hm]
    · simp [hm]
  refine ⟨_, congrArg Host.Outcome.next (if_neg (by simp [hs, hu, hc, hoff])), ?_⟩
  dsimp only
  unfold State.linkedUp
  cases isTorus p.val with
  | true => exact (State.setField_shows _ _ _ _ _).trans (State.sendLink_shows _ _ _ _)
  | false => exact .refl _

theorem linkUp_effect (p : PortId) (m : BitVec 16) (q : BitVec 5) (hs : s.awake = true) (hu : (s.port p.val).up = false)
    (hc : (s.port p.val).cable = true) (hm : s.boot.image = none ∨ s.portMode p.val ≠ 0) :
    ∃ t, exec (.linkUp p m q) s = .next t ∧ (t.port p.val).up = true ∧ (t.port p.val).replay = [] ∧ (t.port p.val).seqNo = 0 ∧
      (t.port p.val).expect = 0 ∧ (isTorus p.val = true → (t.port p.val).peer = some (m.toNat, q.toNat)) ∧
      (∀ k, k ≠ p.val → t.port k = s.port k) ∧ (s.crossing cdcSerdes p.val = false → t.log = s.log) ∧ t.hbm = s.hbm := by
  obtain ⟨t, hexec, hsh⟩ := execLinkUp_comes p m q hs hu hc hm
  have hcr := s.cross_crossed cdcSerdes p.val
  have hport : ∀ k, t.port k = if k = p.val then s.linkedUp p.val m.toNat q.toNat else s.port k := fun k => by
    rw [State.port_of_fab hsh.fab, State.port_setPort, State.port_of_fab hcr.fab]
  have hp : t.port p.val = s.linkedUp p.val m.toNat q.toNat := (hport _).trans (if_pos rfl)
  refine ⟨t, hexec, ?_, ?_, ?_, ?_, fun ht => ?_, fun k hk => (hport k).trans (if_neg hk),
    fun hx => hsh.log.trans (State.cross_usable hx).1, hsh.aside.hbm.trans hcr.hbm⟩
  · rw [hp]; rfl
  · rw [hp]; rfl
  · rw [hp]; rfl
  · rw [hp]; rfl
  · rw [hp]
    exact if_pos ht

/-! ### Links going down -/

/-- A port that is up goes down (R370). -/
theorem State.downLink_effect {p : Nat} (hu : (s.port p).up = true) :
    let t := s.downLink p
    (t.port p).up = false ∧ (t.port p).training = true ∧ (t.port p).replay = [] ∧ (t.port p).peer = none ∧
      t.bit (portReg A.fabPortErr p) 30 = true ∧ (∀ k, k ≠ p → t.port k = s.port k) ∧ Logged s t [(Ev.linkDown, srcPort p)] ∧
      t.reg A.glbCdcStatus = s.reg A.glbCdcStatus := by
  intro t
  set v : Port := { s.port p with up := false, training := true, replay := [], swapHeld := none, peer := none } with hv
  set a : State := (s.setPort p v).portEvent Ev.linkDown p s.cyc none with ha
  set b : State := a.setBit (portReg A.fabPortErr p) 30 with hb
  have ht : t = (b.bump (portReg A.fabPortStatus p) 15 0 1).setField (portReg A.fabPortPeer p) 20 0 0 := if_neg (by simp [hu])
  have hreg : ∀ k, k ≠ portReg A.fabPortStatus p → k ≠ portReg A.fabPortPeer p → t.reg k = b.reg k := fun k h1 h2 => by
    rw [ht, State.reg_setField, if_neg h2]
    exact (State.reg_setField _ _ _ _ _).trans (if_neg h1)
  have hfab : t.fab = (s.setPort p v).fab := by rw [ht]; rfl
  have hport : ∀ k, t.port k = if k = p then v else s.port k := fun k => by
    rw [State.port_of_fab hfab, State.port_setPort]
  have hp : t.port p = v := (hport p).trans (if_pos rfl)
  have hlog : t.log = a.log := by rw [ht]; rfl
  refine ⟨by rw [hp], by rw [hp], by rw [hp], by rw [hp], ?_, fun k hk => (hport k).trans (if_neg hk), ?_, ?_⟩
  · rw [State.bit_of_reg 30 (hreg _ (portReg_ne_portReg p (by decide)) (portReg_ne_portReg p (by decide)))]
    exact a.bit_setBit_same _ (by decide)
  · unfold Logged
    rw [hlog]
    exact (s.setPort p v).event_logged _ _ _ _
  · rw [hreg _ (portReg_ne p (by decide) (by decide)).symm (portReg_ne p (by decide) (by decide)).symm, hb, State.reg_setBit,
      if_neg (portReg_ne p (by decide) (by decide)).symm]
    rfl

theorem linkDown_effect (p : PortId) (hs : s.awake = true) (hu : (s.port p.val).up = true) :
    ∃ t, exec (.linkDown p) s = .next t ∧ (t.port p.val).up = false ∧ (t.port p.val).training = true ∧ (t.port p.val).replay = [] ∧
      (t.port p.val).peer = none ∧ natBit (t.reg (portReg A.fabPortErr p.val)) 30 = true ∧ (∀ k, k ≠ p.val → t.port k = s.port k) ∧
      (s.crossing cdcSerdes p.val = false → Logged s t [(Ev.linkDown, srcPort p.val)]) ∧
      (s.crossing cdcSerdes p.val = true → natBit (t.reg A.glbCdcStatus) cdcSerdes = true ∧
        (natBit (s.reg A.glbCdcStatus) cdcSerdes = false →
          Logged s t [(Ev.cdcOverrun, s.srcGroom), (Ev.linkDown, srcPort p.val)])) := by
  have hcr := s.cross_crossed cdcSerdes p.val
  have hport : ∀ k, (s.cross cdcSerdes p.val).port k = s.port k := State.port_of_fab hcr.fab
  obtain ⟨h1, h2, h3, h4, herr, hother, hlog, hcdc⟩ := State.downLink_effect (s := s.cross cdcSerdes p.val) (p := p.val)
    (by rw [hport]; exact hu)
  refine ⟨_, congrArg Host.Outcome.next (if_pos hs), h1, h2, h3, h4, herr, fun k hk => (hother k hk).trans (hport k), fun hx => ?_,
    fun hx => ⟨?_, fun hb => ?_⟩⟩
  · unfold Logged at hlog ⊢
    rw [hlog, (State.cross_usable hx).1]
  · rw [hcdc]
    exact (congrArg (fun m : RegBank => natBit (m.get A.glbCdcStatus) cdcSerdes) (State.cross_overruns hx).2).trans
      (s.overrun_bit (by decide))
  · have hover := s.overrun_logged (g := cdcSerdes) (by decide) hb
    unfold Logged at hlog hover ⊢
    rw [hlog, (State.cross_overruns hx).1, hover, List.append_assoc]
    rfl

/-! ### Link frames, addresses and cables -/

/-- A cumulative acknowledgement retires exactly the frames below its number (R368). -/
theorem execLinkFrame_acknowledges (p : PortId) (f : Frame) (hs : s.awake = true) (hu : (s.port p.val).up = true)
    (ht : isTorus p.val = true) (hg : f.good = true) (hmine : f.mine = true) (hk : f.kind = 7) (he : f.etype = s.fabric.etype)
    (h0 : leAt f.payload 0 1 = 0) :
    exec (.linkFrame p f) s = .next (s.setPort p.val { s.port p.val with
      replay := (s.port p.val).replay.filter fun r => decide ((r.f.lseq + 65536 - f.lseq) % 65536 < 32768) }) := by
  refine congrArg Host.Outcome.next ((if_neg (by simp [hs, hu, ht, hg, hk])).trans ((if_neg (by simp [he, hmine])).trans ?_))
  dsimp only
  rw [h0]
  rfl

theorem execArpRequest_answers (p : PortId) (a : Nat) (hs : s.awake = true) (hu : (s.port p.val).up = true) :
    exec (.arpRequest p a) s = .next (if s.ownAddress p.val a true then s.emit (.arpReply p.val a p.val)
      else s.setBit (portReg A.fabPortErr p.val) 28) :=
  congrArg Host.Outcome.next (if_neg (by simp [hs, hu]))

theorem execNeighborSolicitation_answers (p : PortId) (a : Nat) (hs : s.awake = true) (hu : (s.port p.val).up = true) :
    exec (.neighborSolicitation p a) s = .next (if s.ownAddress p.val a false then s.emit (.neighborAdvert p.val a p.val)
      else s.setBit (portReg A.fabPortErr p.val) 28) :=
  congrArg Host.Outcome.next (if_neg (by simp [hs, hu]))

theorem cablePresentChange_effect (p : PortId) (b : Bool) (hs : s.awake = true) :
    ∃ t, exec (.cablePresentChange p b) s = .next t ∧ t.port p.val = { s.port p.val with cable := b } ∧
      (∀ k, k ≠ p.val → t.port k = s.port k) ∧ (s.portMode p.val = 2 → t.out = s.out ++ [.pin (pinCable p.val) b]) ∧
      (s.portMode p.val ≠ 2 → t.out = s.out) := by
  let u : State := s.setPort p.val { s.port p.val with cable := b }
  have hexec : exec (.cablePresentChange p b) s = .next (if s.portMode p.val = 2 then u.emit (.pin (pinCable p.val) b) else u) := by
    have hau : u.awake = true := hs
    have hmode : u.portMode p.val = s.portMode p.val := rfl
    refine congrArg Host.Outcome.next ?_
    show (if u.awake && decide (u.portMode p.val = 2) then u.emit (.pin (pinCable p.val) b) else u) = _
    rw [hau, hmode]
    simp
  have hport : ∀ k, u.port k = if k = p.val then { s.port p.val with cable := b } else s.port k := fun k => State.port_setPort _ _ _
  rw [hexec]
  by_cases hm : s.portMode p.val = 2
  · rw [if_pos hm]
    exact ⟨_, rfl, (hport _).trans (if_pos rfl), fun k hk => (hport k).trans (if_neg hk), fun _ => rfl, fun h => absurd hm h⟩
  · rw [if_neg hm]
    exact ⟨_, rfl, (hport _).trans (if_pos rfl), fun k hk => (hport k).trans (if_neg hk), fun h => absurd h hm, fun _ => rfl⟩

end Sys2Proof.Machine
end

/-!
# Windows, bindings and fault injection

What the host's writes to them do (R381, R382, R398).
-/
section
namespace Sys2Proof.Machine

open Sys2Proof.Safety

variable {s : State}

theorem State.window_setWindow (s : State) (n k : Nat) (w : Window) : (s.setWindow n w).window k = if k = n then w else s.window k :=
  sget_sset _ _ _ _

theorem State.binding_setBinding (s : State) (n k : Nat) (b : Binding) :
    (s.setBinding n b).binding k = if k = n then b else s.binding k := sget_sset _ _ _ _

/-- Whether a shot with plan work runs is read from GLB_AUDIT and from no other register. -/
theorem State.running_writeReg (s : State) {a : Nat} (v : Nat) (h : A.glbAudit ≠ a) : (s.writeReg a v).running = s.running := by
  have hshot : (s.writeReg a v).shot = s.shot := (congrArg State.shot (s.writeReg_shows a v).rest :)
  unfold State.running
  rw [hshot, State.bit_of_reg 0 (s.reg_writeReg_ne v h)]

theorem fabWinCtrlGo_effect (v : Word) (hs : s.awake = true) (hv : natBit v.toNat 31 = true)
    (hr : (s.windowRec (natBits v.toNat 7 0)).isSome = true) :
    let n := natBits v.toNat 7 0
    ∃ t, exec (.fabWinCtrlGo v) s = .next t ∧ (∀ k, k ≠ n → t.window k = s.window k) ∧ t.hbm = s.hbm ∧ t.log = s.log ∧
      (s.running = true → t.window n = { s.window n with pend := some (natBit v.toNat 30) }) ∧
      (s.running = false → natBit v.toNat 30 = true →
        t.window n = ⟨true, if (s.window n).gen = 0xFFFF then 1 else (s.window n).gen + 1, none⟩) ∧
      (s.running = false → natBit v.toNat 30 = false → t.window n = ⟨false, (s.window n).gen, none⟩) := by
  intro n
  let u : State := s.writeReg A.fabWinCtrl v.toNat
  have hu : Shows s u := s.writeReg_shows _ _
  have hwin : ∀ k, u.window k = s.window k := fun k => congrArg (fun f : Fab => sget zeroWindow f.windows k) hu.fab
  have hrec : (u.windowRec n).isNone = false := by
    have : u.windowRec n = s.windowRec n := (congrArg (fun w : State => w.windowRec n) hu.rest :)
    rw [this, ← Option.not_isSome, hr]
    rfl
  have hrun : u.running = s.running := s.running_writeReg _ (by decide)
  have hexec : ∀ w, (if u.running then u.setWindow n { u.window n with pend := some (natBit v.toNat 30) }
      else u.setWindow n ((u.window n).change (natBit v.toNat 30))) = u.setWindow n w → exec (.fabWinCtrlGo v) s = .next (u.setWindow n w) :=
    fun w hw => congrArg Host.Outcome.next ((if_neg (by simp [hs])).trans ((if_neg (by simp [hv, hrec, u, n])).trans hw))
  have heff : ∀ w k, k ≠ n → (u.setWindow n w).window k = s.window k := fun w k hk => by
    rw [State.window_setWindow, if_neg hk, hwin]
  have hsame : ∀ w, (u.setWindow n w).window n = w := fun w => (State.window_setWindow _ _ _ _).trans (if_pos rfl)
  have hhbm : u.hbm = s.hbm := hu.aside.hbm
  have hlog : u.log = s.log := hu.log
  clear_value u
  cases hR : s.running with
  | true =>
    rw [hR] at hrun
    exact ⟨_, hexec _ (if_pos hrun), heff _, hhbm, hlog, fun _ => by rw [hsame, hwin], nofun, nofun⟩
  | false =>
    rw [hR] at hrun
    refine ⟨_, hexec _ (if_neg (by simp [hrun])), heff _, hhbm, hlog, nofun, fun _ hb => ?_, fun _ hb => ?_⟩
    · rw [hsame, hwin, hb]; rfl
    · rw [hsame, hwin, hb]; rfl

theorem fabBindCtrlGo_effect (v : Word) (hs : s.awake = true) (hv : natBit v.toNat 31 = true)
    (hn : natBits v.toNat 25 16 < s.fabric.bindings.length) :
    let n := natBits v.toNat 25 16
    ∃ t, exec (.fabBindCtrlGo v) s = .next t ∧ (∀ k, k ≠ n → t.binding k = s.binding k) ∧ t.hbm = s.hbm ∧ t.log = s.log ∧
      t.binding n = (if s.running then { s.binding n with pend := some (natBits v.toNat 15 0) }
        else { s.binding n with gen := natBits v.toNat 15 0 }) := by
  intro n
  let u : State := s.writeReg A.fabBindCtrl v.toNat
  have hu : Shows s u := s.writeReg_shows _ _
  have hbind : ∀ k, u.binding k = s.binding k := fun k => congrArg (fun f : Fab => sget zeroBinding f.bindings k) hu.fab
  have hfab : u.fabric = s.fabric := (congrArg State.fabric hu.rest :)
  have hrun : u.running = s.running := s.running_writeReg _ (by decide)
  let b : Binding := if u.running then { u.binding n with pend := some (natBits v.toNat 15 0) }
    else { u.binding n with gen := natBits v.toNat 15 0 }
  have hexec : exec (.fabBindCtrlGo v) s = .next (u.setBinding n b) := by
    refine congrArg Host.Outcome.next ((if_neg (by simp [hs])).trans ((if_neg ?_).trans ?_))
    · have hlt : ¬ u.fabric.bindings.length ≤ n := by rw [hfab]; omega
      have h : (!natBit v.toNat 31 || decide (u.fabric.bindings.length ≤ n)) = false := by rw [hv, decide_eq_false hlt]; rfl
      exact Bool.eq_false_iff.mp h
    · exact (apply_ite (u.setBinding n) (u.running = true) _ _).symm
  refine ⟨_, hexec, fun k hk => ?_, hu.aside.hbm, hu.log, ?_⟩
  · rw [State.binding_setBinding, if_neg hk, hbind]
  · rw [State.binding_setBinding, if_pos rfl, ← hrun, ← hbind]

/-- The control register of each port's fault injection is a row of the register table. -/
theorem regRow_fabInjCtrl : ∀ p : Fin 20, regRow (portReg A.fabInjCtrl p.val) =
    some ⟨A.fabInjCtrl, 1, 134217728, 1, 134217728, 20, 16384, 0x0, 0x4007FFFF, 0x0, 0x0⟩ := by decide +kernel

/-- The mode and parameter of a port's fault injection read as written. -/
theorem natBit_writeReg_fabInjCtrl (p : PortId) (v : Word) {i : Nat} (hi : i < 19) :
    natBit ((s.writeReg (portReg A.fabInjCtrl p.val) v.toNat).reg (portReg A.fabInjCtrl p.val)) i = natBit v.toNat i := by
  have hrw : natBit 0x4007FFFF i = true := by
    revert i
    decide
  rw [State.writeReg_of_row (regRow_fabInjCtrl p), State.reg_setReg, if_pos rfl, natBit_mod (by omega),
    RegRow.natBit_write _ _ _ _ (by omega), natBit_writtenBits _ _ _ (by omega)]
  have h0 : natBit 0 i = false := by simp [natBit_eq_testBit]
  cases s.boot.image.isSome <;> simp [hrw, h0]

theorem State.fabErr_reg (s : State) (bit number : Nat) {a : Nat} (h : a ≠ A.fabErr) : (s.fabErr bit number).reg a = s.reg a := by
  unfold State.fabErr
  extract_lets t
  rw [State.reg_setBit, if_neg h]
  subst t
  split
  · rw [State.reg_setField, if_neg h]
  · rfl

theorem fabInjCtrlWrite_listed (p : PortId) (v : Word) {im : Image} (hs : s.awake = true) (hi : s.boot.image = some im)
    (hp : p.val ∈ im.injPorts) :
    ∃ t, exec (.fabInjCtrlWrite p v) s = .next t ∧ t.port p.val = { s.port p.val with sent := 0 } ∧
      natBits (t.reg (portReg A.fabInjCtrl p.val)) 18 16 = natBits v.toNat 18 16 ∧
      natBits (t.reg (portReg A.fabInjCtrl p.val)) 15 0 = natBits v.toNat 15 0 := by
  let w : State := s.writeReg (portReg A.fabInjCtrl p.val) v.toNat
  let r : State := w.setField (portReg A.fabInjCtrl p.val) 31 31 0
  let u : State := r.setPort p.val { r.port p.val with sent := 0 }
  have hport : u.port p.val = { s.port p.val with sent := 0 } := by
    have hr : r.port p.val = s.port p.val := State.port_of_fab ((s.writeReg_shows _ _).trans (w.setField_shows _ _ _ _)).fab _
    rw [← hr]
    exact (State.port_setPort _ _ _).trans (if_pos rfl)
  have hbit : ∀ i < 19, natBit (u.reg (portReg A.fabInjCtrl p.val)) i = natBit v.toNat i := fun i hi => by
    have hu : u.reg (portReg A.fabInjCtrl p.val) = setBits (w.reg (portReg A.fabInjCtrl p.val)) 31 31 0 % 2 ^ 32 :=
      (State.reg_setField _ _ _ _ _).trans (if_pos rfl)
    rw [hu, natBit_mod (by omega), natBit_setBits _ _ (by decide), if_neg (by omega)]
    exact natBit_writeReg_fabInjCtrl p v hi
  have hexec : exec (.fabInjCtrlWrite p v) s = .next (
      if natBits v.toNat 18 16 = 0 ∨ 4 < natBits v.toNat 18 16 ∨ u.shot.injectEvt = true then u
      else (({ u with shot := { u.shot with injectEvt := true } } : State).portEvent Ev.linkInject p.val u.cyc none).fabErr 28 0xFFFF) := by
    refine congrArg Host.Outcome.next ((if_neg (by simp [hs])).trans ((if_neg ?_).trans rfl))
    simp [hi, hp]
  have hsame : ∃ t, exec (.fabInjCtrlWrite p v) s = .next t ∧ t.port p.val = u.port p.val ∧
      t.reg (portReg A.fabInjCtrl p.val) = u.reg (portReg A.fabInjCtrl p.val) := by
    refine ⟨_, hexec, ?_, ?_⟩
    · split
      · rfl
      · exact State.port_of_fab (State.fabErr_shows _ _ _).fab _
    · split
      · rfl
      · exact State.fabErr_reg _ _ _ (by unfold portReg; have := p.isLt; simp only [A.fabInjCtrl, A.fabErr]; omega)
  obtain ⟨t, ht, htp, htr⟩ := hsame
  refine ⟨t, ht, htp.trans hport, ?_, ?_⟩
  · rw [htr]
    exact natBits_congr (by decide) fun i _ h => hbit i (by omega)
  · rw [htr]
    exact natBits_congr (by decide) fun i _ h => hbit i (by omega)

theorem fabInjCtrlWrite_unlisted (p : PortId) (v : Word) {im : Image} (hs : s.awake = true) (hi : s.boot.image = some im)
    (hp : p.val ∉ im.injPorts) : exec (.fabInjCtrlWrite p v) s = .next (s.setBit (portReg A.fabInjCtrl p.val) 31) := by
  refine congrArg Host.Outcome.next ((if_neg (by simp [hs])).trans (if_pos ?_))
  simp [hi, hp]

/-- Settles O34: each clause is the effect of its command above. -/
theorem portsWindowsBindings : Obligations.PortsWindowsBindings := by
  intro s hs
  exact ⟨fun p m q => linkUp_effect p m q hs, fun p => linkDown_effect p hs, fun p f => execLinkFrame_acknowledges p f hs,
    fun v => fabWinCtrlGo_effect v hs, fun v => fabBindCtrlGo_effect v hs,
    fun p v im hi => ⟨fabInjCtrlWrite_listed p v hs hi, fabInjCtrlWrite_unlisted p v hs hi⟩,
    fun p a hu => ⟨execArpRequest_answers p a hs hu, execNeighborSolicitation_answers p a hs hu⟩,
    fun p b => cablePresentChange_effect p b hs⟩

end Sys2Proof.Machine
end

/-!
# Bytes and memories

The bytes of a list at a place, little-endian numbers, and what a memory holds after a write (R11).
-/
section
namespace Sys2Proof.Machine

/-! ### Bytes at a place of a list -/

@[simp] theorem length_zeroBytes (n : Nat) : (zeroBytes n).length = n := List.length_replicate

@[simp] theorem length_leBytes (n v : Nat) : (leBytes n v).length = n := by
  induction n generalizing v with
  | zero => rfl
  | succ n ih => simp [leBytes, ih]

@[simp] theorem length_bytesAt (bs : List Byte) (a n : Nat) : (bytesAt bs a n).length = n := by
  simp only [bytesAt, List.length_append, List.length_take, List.length_drop, length_zeroBytes]
  omega

theorem getElem?_bytesAt (bs : List Byte) (a : Nat) {n i : Nat} (hi : i < n) : (bytesAt bs a n)[i]? = some (bs[a + i]?.getD 0) := by
  by_cases h : a + i < bs.length
  · have hl : i < ((bs.drop a).take n).length := by simp; omega
    rw [bytesAt, List.getElem?_append_left hl]
    simp [hi, h]
  · have hl : ((bs.drop a).take n).length ≤ i := by simp; omega
    rw [bytesAt, List.getElem?_append_right hl, zeroBytes, List.getElem?_replicate, if_pos (by omega),
      List.getElem?_eq_none (by omega)]
    rfl

theorem bytesAt_congr {bs cs : List Byte} {a b n : Nat} (h : ∀ i < n, bs[a + i]?.getD 0 = cs[b + i]?.getD 0) :
    bytesAt bs a n = bytesAt cs b n :=
  List.ext_getElem? fun i => by
    by_cases hi : i < n
    · rw [getElem?_bytesAt _ _ hi, getElem?_bytesAt _ _ hi, h i hi]
    · rw [List.getElem?_eq_none (by simp; omega), List.getElem?_eq_none (by simp; omega)]

theorem bytesAt_self {bs : List Byte} {n : Nat} (h : bs.length = n) : bytesAt bs 0 n = bs := by
  simp [bytesAt, ← h, zeroBytes]

theorem bytesAt_append_left {l r : List Byte} {a n : Nat} (h : a + n ≤ l.length) : bytesAt (l ++ r) a n = bytesAt l a n :=
  bytesAt_congr fun i hi => by rw [List.getElem?_append_left (by omega)]

theorem bytesAt_append_right {l r : List Byte} {a n k : Nat} (h : l.length = k) (hk : k ≤ a) : bytesAt (l ++ r) a n = bytesAt r (a - k) n :=
  bytesAt_congr fun i hi => by rw [List.getElem?_append_right (by omega), show a + i - l.length = a - k + i by omega]

theorem bytesAt_bytesAt (bs : List Byte) {n a k : Nat} (h : a + k ≤ n) : bytesAt (bytesAt bs 0 n) a k = bytesAt bs a k :=
  bytesAt_congr fun i hi => by rw [getElem?_bytesAt _ _ (by omega : a + i < n), Nat.zero_add]; rfl

theorem leNat_leBytes (n v : Nat) : leNat (leBytes n v) = v % 256 ^ n := by
  induction n generalizing v with
  | zero => simp [leBytes, leNat, Nat.mod_one]
  | succ n ih => simp [leBytes, leNat, ih, pow_succ', Nat.mod_mul]

/-! ### Memories -/

theorem Memory.get_write (m : Memory) (a k : Nat) (bs : List Byte) :
    (m.write a bs).get k = if a ≤ k ∧ k < a + bs.length then bs[k - a]?.getD 0 else m.get k := by
  induction bs generalizing m a with
  | nil => exact (if_neg (by simp)).symm
  | cons b bs ih =>
    have hw : m.write a (b :: bs) = (m.set a b).write (a + 1) bs := rfl
    have hs : (m.set a b).get k = if k = a then b else m.get k := sget_sset m a k b
    rw [hw, ih, hs]
    rcases Nat.lt_trichotomy k a with hk | rfl | hk
    · rw [if_neg (by omega), if_neg (by omega), if_neg (by omega)]
    · rw [if_neg (by omega), if_pos rfl, if_pos (by simp)]
      simp
    · by_cases hl : k < a + 1 + bs.length
      · rw [if_pos (by omega), if_pos (by simp; omega), show k - a = (k - (a + 1)) + 1 by omega, List.getElem?_cons_succ]
      · rw [if_neg (by omega), if_neg (by omega), if_neg (by simp; omega)]

theorem Memory.get_write_outside (m : Memory) {a k : Nat} {bs : List Byte} (h : k < a ∨ a + bs.length ≤ k) :
    (m.write a bs).get k = m.get k := by
  rw [Memory.get_write, if_neg (by omega)]

theorem Memory.read_write_same (m : Memory) (a : Nat) {bs : List Byte} {n : Nat} (hn : bs.length = n) : (m.write a bs).read a n = bs := by
  refine List.ext_getElem (by simp [Memory.read, sgetList, hn]) fun i hi hb => ?_
  have hr : ((m.write a bs).read a n)[i] = (m.write a bs).get (a + i) := by simp [Memory.read, sgetList, Memory.get]
  rw [hr, Memory.get_write, if_pos (by omega), Nat.add_sub_cancel_left, List.getElem?_eq_getElem hb]
  rfl

end Sys2Proof.Machine
end

/-!
# The event log

What is entered for the log while stalls are brought forward, and what a record placed in the ring leaves (R61 to R63, R427 to R431).
-/
section
namespace Sys2Proof.Machine

open Sys2Proof.Safety

/-! ### Events entered -/

/-- The log of `t` is that of `s` with events entered behind those that wait. -/
def Entered (s t : State) : Prop := ∃ l, t.log = { s.log with held := s.log.held ++ l }

namespace Entered

variable {s t u : State}

theorem same (h : t.log = s.log) : Entered s t := ⟨[], by rw [h, List.append_nil]⟩

theorem refl (s : State) : Entered s s := same rfl

theorem trans (h : Entered s t) (k : Entered t u) : Entered s u := by
  obtain ⟨l, hl⟩ := h
  obtain ⟨m, hm⟩ := k
  exact ⟨l ++ m, by rw [hm, hl, List.append_assoc]⟩

theorem foldl {α : Type} {f : State → α → State} (l : List α) (h : Entered s t) (hf : ∀ x a, Entered x (f x a)) :
    Entered s (l.foldl f t) :=
  List.foldlRecOn (motive := Entered s) l f h fun x hx a _ => hx.trans (hf x a)

end Entered

theorem State.event_entered (s : State) (code src x : Nat) (detail : List Byte) : Entered s (s.event code src x detail) := ⟨_, rfl⟩

theorem State.failShot_log (s : State) (x code src : Nat) : (s.failShot x code src).log = s.log := by
  unfold State.failShot
  split
  · rfl
  · split
    · split <;> rfl
    · rfl

theorem State.eachStall_log (s : State) (l : List Nat) (f : Stall → Stall) : (s.eachStall l f).log = s.log :=
  foldl_same State.log l s fun _ _ => rfl

theorem State.haltFrom_log (s : State) (x : Nat) : (s.haltFrom x).log = s.log := by
  unfold State.haltFrom
  extract_lets _ t u
  have hu : u.log = s.log := t.eachStall_log _ _
  clear_value u
  generalize List.range 8 = l
  refine (foldl_same State.log l u fun _ _ => ?_).trans hu
  rfl

theorem State.takeEvent_entered (s : State) (i : Nat) (e : StallEvent) : Entered s (s.takeEvent i e) := by
  unfold State.takeEvent
  extract_lets st dup detail a b _ c
  have ha : Entered s a := by
    subst a
    split
    · exact .refl s
    · exact s.event_entered _ _ _ _
  have hb : Entered s b := by
    refine ha.trans (.same ?_)
    subst b
    split
    · exact a.failShot_log _ _ _
    · rfl
  have hc : Entered s c := by
    refine hb.trans (.same ?_)
    subst c
    split <;> rfl
  clear_value a b c
  split
  · exact hc.trans (.same (c.haltFrom_log _))
  · exact hc

theorem State.flush_entered (s : State) (l : List Nat) : Entered s (s.flush l) :=
  .foldl _ (.same (s.eachStall_log _ _)) fun w _ => w.takeEvent_entered _ _

theorem State.syncAll_entered (s : State) (x : Nat) : Entered s (s.syncAll x) :=
  .trans (.same (s.eachStall_log _ _)) (State.flush_entered _ _)

/-! ### Records -/

theorem Event.record_length (e : Event) (late : Bool) : (e.record late).length = 24 + (e.detail.length + 7) / 8 * 8 := length_bytesAt _ _ _

theorem Event.record_length_eq (e : Event) (late : Bool) : (e.record late).length = (e.record false).length := by
  rw [e.record_length, e.record_length]

end Sys2Proof.Machine
end

/-!
# Records in the ring of the event log

What placing a record leaves in the log, what the log writer does with the event whose turn it is, and the host's read pointer (R427 to R432).
-/
section
namespace Sys2Proof.Machine

open Sys2Proof.Safety

/-! ### Placing a record -/

/-- `m` is the log `l` with the record `bs` placed at the write pointer, behind the pad it needs (R428). -/
structure Placed (l m : Log) (bs : List Byte) : Prop where
  rest : { m with ring := l.ring, wptr := l.wptr, wptr2 := l.wptr2, starts := l.starts, last := l.last } = l
  wptr : m.wptr = (l.wptr + l.padFor bs.length + bs.length) % (2 * logSize)
  copy : m.wptr2 = m.wptr
  record : m.ring.read ((l.wptr + l.padFor bs.length) % logSize) bs.length = bs
  others : l.padFor bs.length = 0 → ∀ a, a < l.wptr % logSize ∨ l.wptr % logSize + bs.length ≤ a → m.ring.get a = l.ring.get a
  starts : l.padFor bs.length = 0 → m.starts = l.starts ++ [l.wptr]

theorem Log.put_placed (l : Log) (bs : List Byte) : Placed l (l.put bs) bs := by
  unfold Log.put
  extract_lets pad m
  have hpad : pad = l.padFor bs.length := rfl
  by_cases h0 : pad = 0
  · have hm : m = l := if_pos h0
    clear_value m
    subst hm
    rw [h0] at hpad
    refine ⟨rfl, ?_, rfl, ?_, fun _ a ha => Memory.get_write_outside _ ha, fun _ => rfl⟩
    · rw [← hpad]; rfl
    · rw [← hpad]; exact Memory.read_write_same _ _ rfl
  · obtain ⟨r, st, hm⟩ : ∃ r st, m = ({ l with ring := r, starts := st } : Log).advance pad := ⟨_, _, if_neg h0⟩
    clear_value m
    subst hm
    have hw : ((l.wptr + pad) % (2 * logSize) + bs.length) % (2 * logSize) = (l.wptr + pad + bs.length) % (2 * logSize) := by simp
    have ho : (l.wptr + pad) % (2 * logSize) % logSize = (l.wptr + pad) % logSize := Nat.mod_mul_left_mod _ _ _
    refine ⟨rfl, hw, rfl, ?_, fun h => absurd h h0, fun h => absurd h h0⟩
    rw [← hpad, ← ho]
    exact Memory.read_write_same _ _ rfl

theorem Log.place_placed (l : Log) (e : Event) : Placed l (l.place e) (e.record (decide (e.count < l.last))) :=
  have h := l.put_placed (e.record (decide (e.count < l.last)))
  ⟨(congrArg (fun m : Log => { m with last := l.last }) h.rest :), h.wptr, h.copy, h.record, h.others, h.starts⟩

/-- A record of 8 bytes of detail (R429): its length, its code and the detail stand at their places. -/
theorem Event.record_fields {e : Event} (hd : e.detail.length = 8) (late : Bool) :
    (e.record late).length = 32 ∧ bytesAt (e.record late) 0 2 = leBytes 2 32 ∧ bytesAt (e.record late) 4 2 = leBytes 2 e.code ∧
      bytesAt (e.record late) 24 8 = e.detail := by
  have hn : 24 + (e.detail.length + 7) / 8 * 8 = 32 := by omega
  refine ⟨(e.record_length late).trans hn, ?_, ?_, ?_⟩
  all_goals
    unfold Event.record
    rw [hn, bytesAt_bytesAt _ (by decide)]
    simp only [List.append_assoc]
  · rw [bytesAt_append_left (by simp), bytesAt_self (by simp)]
  · rw [bytesAt_append_right (k := 2) (by simp) (by decide), bytesAt_append_right (k := 2) rfl (by decide),
      bytesAt_append_left (by simp), bytesAt_self (by simp)]
  · rw [bytesAt_append_right (k := 2) (by simp) (by decide), bytesAt_append_right (k := 2) rfl (by decide),
      bytesAt_append_right (k := 2) (by simp) (by decide), bytesAt_append_right (k := 2) (by simp) (by decide),
      bytesAt_append_right (k := 6) (by simp) (by decide), bytesAt_append_right (k := 2) (by simp) (by decide),
      bytesAt_append_right (k := 8) (by simp) (by decide), bytesAt_self hd]

/-! ### The log of the state -/

theorem State.logPlaced_shows (s : State) (l : Log) : Shows { s with log := l } (s.logPlaced l) := by
  unfold State.logPlaced
  extract_lets was t
  split
  · exact t.msix_shows _
  · exact .refl t

/-- No message where the log held a record. -/
theorem State.logPlaced_used {s : State} (l : Log) (h : s.log.used ≠ 0) : s.logPlaced l = { s with log := l } :=
  if_neg (by simp [h])

theorem State.logCheck_agree {s : State} (hr : s.log.rptr = s.log.rptr2) (hw : s.log.wptr = s.log.wptr2) : s.logCheck = s :=
  if_pos ⟨hr, hw⟩

theorem State.logDue_none {s : State} (h : firstEvent s.log.held = none) : s.logDue = s := by
  unfold State.logDue
  rw [h]

theorem State.logDue_some {s : State} {e : Event} (h : firstEvent s.log.held = some e) :
    s.logDue = (s.at_ (s.reach (e.count + 64))).syncAll (s.reach (e.count + 64)) := by
  unfold State.logDue
  rw [h]

/-- What a state with another log leaves, and a message that the record may send. -/
theorem State.logPlaced_effect (s : State) (l : Log) :
    Aside s (s.logPlaced l) ∧ (s.logPlaced l).log = l ∧ (s.log.used ≠ 0 → (s.logPlaced l).out = s.out) :=
  have h := s.logPlaced_shows l
  ⟨⟨h.aside.hbm, h.aside.stalls, h.aside.barns, h.aside.dies⟩, h.log, fun hu => (congrArg State.out (State.logPlaced_used l hu) :)⟩

variable {s : State}

theorem Log.no_room {l : Log} {n : Nat} (h : l.lostNow ≠ 0 ∨ l.fits n = false) : ¬ (l.lostNow = 0 ∧ l.fits n = true) :=
  fun ⟨hl, hf⟩ => h.elim (· hl) fun hno => Bool.false_ne_true (hno.symm.trans hf)

/-! ### The turn of an event -/

/-- The log without the event e among those that wait, with those of `f` held back. -/
def Log.taking (l : Log) (e : Event) (f : List Event) : Log := { l with held := l.held.erase e, full := f }

theorem logDue_effect {e : Event} (h : firstEvent s.log.held = some e) :
    let w := s.logDue
    s.reach (e.count + 64) ≤ w.cyc ∧ { w with stalls := s.stalls, barns := s.barns, shot := s.shot, cyc := s.cyc, log := s.log } = s ∧
      ∃ l, w.log = { s.log with held := s.log.held ++ l } := by
  intro w
  have hw : w = (s.at_ (s.reach (e.count + 64))).syncAll (s.reach (e.count + 64)) := State.logDue_some h
  have hrest := (State.syncAll_only (s.at_ (s.reach (e.count + 64))) (s.reach (e.count + 64))).rest
  rw [← hw] at hrest
  refine ⟨?_, (congrArg (fun u : State => { u with cyc := s.cyc }) hrest :), ?_⟩
  · have hc : w.cyc = max s.cyc (s.reach (e.count + 64)) := (congrArg State.cyc hrest :)
    omega
  · exact hw ▸ State.syncAll_entered _ _

section

variable {e : Event} (hr : s.logDue.log.rptr = s.logDue.log.rptr2) (hw : s.logDue.log.wptr = s.logDue.log.wptr2)

include hr hw

/-- The event comes to a log that holds none back and has room. -/
theorem eventLogPlace_places (hf : s.logDue.log.full = []) (he : firstEvent s.logDue.log.held = some e) (hl : s.logDue.log.lostNow = 0)
    (hfit : s.logDue.log.fits (e.record false).length = true) :
    let u := s.logDue.at_ (s.logDue.reach (e.count + 64))
    exec .eventLogPlace s = .next (u.logPlaced ((s.logDue.log.taking e []).place e)) := by
  show execEventLogPlace s = _
  unfold execEventLogPlace
  rw [State.logCheck_agree hr hw]
  dsimp only
  rw [hf, he]
  exact congrArg Host.Outcome.next (if_pos (And.intro hl hfit))

/-- The event comes to a log that holds none back and has no room for it. -/
theorem eventLogPlace_holds (hf : s.logDue.log.full = []) (he : firstEvent s.logDue.log.held = some e)
    (hno : s.logDue.log.lostNow ≠ 0 ∨ s.logDue.log.fits (e.record false).length = false) :
    let u := s.logDue.at_ (s.logDue.reach (e.count + 64))
    exec .eventLogPlace s = .next { u with log := (s.logDue.log.taking e []).overflow e } := by
  show execEventLogPlace s = _
  unfold execEventLogPlace
  rw [State.logCheck_agree hr hw]
  dsimp only
  rw [hf, he]
  exact congrArg Host.Outcome.next (if_neg (Log.no_room hno))

/-- An event held back comes first. -/
theorem eventLogPlace_first {rest : List Event} (hf : s.logDue.log.full = e :: rest) (hl : s.logDue.log.lostNow = 0)
    (hfit : s.logDue.log.fits (e.record false).length = true) :
    exec .eventLogPlace s = .next (s.logDue.logPlaced (({ s.logDue.log with full := rest } : Log).place e)) := by
  show execEventLogPlace s = _
  unfold execEventLogPlace
  rw [State.logCheck_agree hr hw]
  dsimp only
  rw [hf]
  exact congrArg Host.Outcome.next (if_pos ⟨hl, hfit⟩)

/-- An event comes while another is held back and finds no room. -/
theorem eventLogPlace_behind {d : Event} {rest : List Event} (hf : s.logDue.log.full = d :: rest)
    (he : firstEvent s.logDue.log.held = some e)
    (hno : s.logDue.log.lostNow ≠ 0 ∨ s.logDue.log.fits (d.record false).length = false) :
    let u := s.logDue.at_ (s.logDue.reach (e.count + 64))
    exec .eventLogPlace s = .next { u with log := (s.logDue.log.taking e (d :: rest)).overflow e } := by
  show execEventLogPlace s = _
  unfold execEventLogPlace
  rw [State.logCheck_agree hr hw]
  dsimp only
  rw [hf, he]
  exact congrArg Host.Outcome.next (if_neg (Log.no_room hno))

end

theorem Log.overflow_room {l : Log} (e : Event) (h : l.full = []) : l.overflow e = { l with full := [e] } := by
  unfold Log.overflow
  rw [h]
  rfl

theorem Log.overflow_lost {l : Log} (e : Event) (h : l.full.length = 256) :
    { l.overflow e with lostNow := l.lostNow, lostEver := l.lostEver, lostCodes := l.lostCodes } = l ∧
      (l.overflow e).lostNow = l.lostNow + 1 ∧ e.code ∈ (l.overflow e).lostCodes := by
  have ho : l.overflow e = { l with
      lostNow := l.lostNow + 1, lostEver := min 0xFFFFFFFF (l.lostEver + 1)
      lostCodes := if l.lostCodes.contains e.code then l.lostCodes else l.lostCodes ++ [e.code] } := if_neg (by omega)
  refine ⟨by rw [ho], by rw [ho], ?_⟩
  have hc : (l.overflow e).lostCodes = if l.lostCodes.contains e.code then l.lostCodes else l.lostCodes ++ [e.code] := by rw [ho]
  rw [hc]
  split
  · simpa using ‹l.lostCodes.contains e.code = true›
  · simp

/-! ### The record of events lost -/

theorem evtOverflowRecord_places (hr : s.log.rptr = s.log.rptr2) (hw : s.log.wptr = s.log.wptr2) (hl : s.log.lostNow ≠ 0)
    (hf : s.log.fits 32 = true) :
    exec .evtOverflowRecord s = .next (s.logPlaced (({ s.log with lostNow := 0, lostCodes := [] } : Log).place
      ⟨Ev.evtOverflow, s.srcGroom, s.shotNo, s.now, leBytes 8 (s.log.lostNow % 2 ^ 32)⟩)) := by
  show execEvtOverflowRecord s = _
  unfold execEvtOverflowRecord
  rw [State.logCheck_agree hr hw]
  exact congrArg Host.Outcome.next (if_neg (by simp [hl, hf]))

theorem evtOverflowRecord_effect (hr : s.log.rptr = s.log.rptr2) (hw : s.log.wptr = s.log.wptr2) (hl : s.log.lostNow ≠ 0)
    (hf : s.log.fits 32 = true) :
    let l := s.log
    let o := (l.wptr + l.padFor 32) % logSize
    ∃ t, exec .evtOverflowRecord s = .next t ∧ Aside s t ∧ t.log.lostNow = 0 ∧ t.log.lostCodes = [] ∧ t.log.held = l.held ∧
      t.log.full = l.full ∧ t.log.wptr = (l.wptr + l.padFor 32 + 32) % (2 * logSize) ∧
      leAt (t.log.ring.read o 32) 0 2 = 32 ∧ leAt (t.log.ring.read o 32) 4 2 = Ev.evtOverflow ∧
      leAt (t.log.ring.read o 32) 24 8 = l.lostNow % 2 ^ 32 := by
  refine ⟨_, evtOverflowRecord_places hr hw hl hf, ?_⟩
  generalize he : (⟨Ev.evtOverflow, s.srcGroom, s.shotNo, s.now, leBytes 8 (s.log.lostNow % 2 ^ 32)⟩ : Event) = e
  have hd : e.detail = leBytes 8 (s.log.lostNow % 2 ^ 32) := he ▸ rfl
  have hcode : e.code = Ev.evtOverflow := he ▸ rfl
  have hplace := Log.place_placed { s.log with lostNow := 0, lostCodes := [] } e
  generalize Log.place { s.log with lostNow := 0, lostCodes := [] } e = m at hplace
  obtain ⟨haside, hlog, -⟩ := s.logPlaced_effect m
  generalize decide (e.count < _) = late at hplace
  obtain ⟨hlen, hsize, hc, hdetail⟩ := Event.record_fields (hd ▸ length_leBytes _ _) late
  have hrecord := hplace.record
  have hwptr := hplace.wptr
  rw [hlen] at hrecord hwptr
  have hring : m.ring.read ((s.log.wptr + s.log.padFor 32) % logSize) 32 = e.record late := hrecord
  rw [hlog]
  refine ⟨haside, (congrArg Log.lostNow hplace.rest :), (congrArg Log.lostCodes hplace.rest :), (congrArg Log.held hplace.rest :),
    (congrArg Log.full hplace.rest :), hwptr, ?_, ?_, ?_⟩
  · rw [hring, leAt, hsize, leNat_leBytes]
    rfl
  · rw [hring, leAt, hc, leNat_leBytes, hcode]
    rfl
  · rw [hring, leAt, hdetail, hd, leNat_leBytes]
    exact Nat.mod_eq_of_lt ((Nat.mod_lt _ (by decide)).trans (by decide))

/-! ### The host's read pointer -/

/-- The log with the read pointer at p. -/
def Log.readTo (l : Log) (p : Nat) : Log := { l with rptr := p, rptr2 := p, starts := l.starts.dropWhile fun q => decide (q ≠ p) }

theorem evtRptrWrite_taken (v : Word) (hs : s.awake = true)
    (hp : natBits v.toNat 18 0 = s.logCheck.log.wptr ∨ natBits v.toNat 18 0 ∈ s.logCheck.log.starts) :
    ∃ t, exec (.evtRptrWrite v) s = .next t ∧ Aside s.logCheck t ∧ t.log = s.logCheck.log.readTo (natBits v.toNat 18 0) := by
  show ∃ t, execEvtRptrWrite v s = .next t ∧ _
  unfold execEvtRptrWrite
  refine ⟨_, congrArg Host.Outcome.next ((if_neg (by simp [hs])).trans (if_pos (hp.imp_right List.contains_iff_mem.mpr))), ?_⟩
  extract_lets _ _ t
  have ht : Aside s.logCheck t ∧ t.log = s.logCheck.log.readTo (natBits v.toNat 18 0) := ⟨⟨rfl, rfl, rfl, rfl⟩, rfl⟩
  clear_value t
  split
  · have h := t.msix_shows (t.field A.evtCtrl 10 0)
    obtain ⟨⟨hhbm, hstalls, hbarns, hdies⟩, hlog⟩ := ht
    exact ⟨⟨h.aside.hbm.trans hhbm, h.aside.stalls.trans hstalls, h.aside.barns.trans hbarns, h.aside.dies.trans hdies⟩, h.log.trans hlog⟩
  · exact ht

theorem evtRptrWrite_refused (v : Word) (hs : s.awake = true) (hr : s.log.rptr = s.log.rptr2) (hw : s.log.wptr = s.log.wptr2)
    (hp : natBits v.toNat 18 0 ≠ s.log.wptr) (hst : natBits v.toNat 18 0 ∉ s.log.starts) :
    exec (.evtRptrWrite v) s = .next (s.setBit A.evtCtrl 30) := by
  show execEvtRptrWrite v s = _
  unfold execEvtRptrWrite
  rw [State.logCheck_agree hr hw]
  exact congrArg Host.Outcome.next ((if_neg (by simp [hs])).trans (if_neg (by simp [hp, hst])))

/-- Copies that disagree: the log is emptied, and the record of E_QUEUE_PTR stands first in it (R427). -/
theorem State.logCheck_empties (h : s.log.rptr ≠ s.log.rptr2 ∨ s.log.wptr ≠ s.log.wptr2) :
    let l := s.logCheck.log
    Aside s s.logCheck ∧ l.wptr = 32 ∧ l.wptr2 = 32 ∧ l.starts = [0] ∧ l.held = s.log.held ∧ leAt (l.ring.read 0 32) 4 2 = Ev.queuePtr := by
  have hc : s.logCheck = _ := if_neg fun hagree => h.elim (· hagree.1) (· hagree.2)
  obtain ⟨u, l, e, hu, hl, hw, hst, hheld, hd, hcode⟩ : ∃ (u : State) (l : Log) (e : Event), s.logCheck = u.logPlaced (l.place e) ∧
      Aside s u ∧ l.wptr = 0 ∧ l.starts = [] ∧ l.held = s.log.held ∧ e.detail.length = 8 ∧ e.code = Ev.queuePtr :=
    ⟨_, _, _, hc, ⟨rfl, rfl, rfl, rfl⟩, rfl, rfl, rfl, length_leBytes _ _, rfl⟩
  have hplace := l.place_placed e
  obtain ⟨hlen, -, hrcode, -⟩ := Event.record_fields hd (decide (e.count < l.last))
  obtain ⟨⟨hhbm, hstalls, hbarns, hdies⟩, hlog, -⟩ := u.logPlaced_effect (l.place e)
  obtain ⟨hrest, hwptr, hcopy, hrecord, -, hstarts⟩ := hplace
  have hpad : l.padFor 32 = 0 := if_neg (by rw [hw]; decide)
  rw [hlen, hpad, hw] at hwptr hrecord
  rw [hlen] at hstarts
  rw [hu, hlog]
  refine ⟨⟨hhbm.trans hl.hbm, hstalls.trans hl.stalls, hbarns.trans hl.barns, hdies.trans hl.dies⟩, hwptr, hcopy.trans hwptr,
    (hstarts hpad).trans (by rw [hst, hw]; rfl), (congrArg Log.held hrest :).trans hheld, ?_⟩
  have hring : (l.place e).ring.read 0 32 = e.record (decide (e.count < l.last)) := hrecord
  rw [hring, leAt, hrcode, leNat_leBytes, hcode]
  rfl

/-- Settles O44: the turn of an event, its record in the ring, the events held back and lost, the record of those lost, and the read
pointer, each by its lemma above. -/
theorem eventLogPlaces : Obligations.EventLogPlaces := by
  intro s
  refine ⟨fun h => State.logDue_none (by rw [h]; rfl), fun e he => logDue_effect he, ?_, ⟨fun hr hw => ⟨?_, fun v hs => ⟨?_, ?_⟩⟩, ?_⟩⟩
  · intro w l hr hw
    refine ⟨fun e hf he => ⟨fun hl hfit => ?_, fun hno => ?_⟩, fun e rest hf hl hfit => ?_, fun e d hlen he hd hno => ?_⟩
    · have hplace := (l.taking e []).place_placed e
      obtain ⟨haside, hlog, hout⟩ := (w.at_ (w.reach (e.count + 64))).logPlaced_effect ((l.taking e []).place e)
      obtain ⟨hrest, hwptr, hcopy, hrecord, hothers, -⟩ := hplace
      rw [e.record_length_eq] at hwptr hrecord hothers
      refine ⟨_, eventLogPlace_places hr hw hf he hl hfit, ⟨haside.hbm, haside.stalls, haside.barns, haside.dies⟩, ?_⟩
      rw [hlog]
      refine ⟨(congrArg Log.held hrest :), hwptr, hcopy, (congrArg Log.rptr hrest :), hrecord, (congrArg Log.full hrest :),
        (congrArg Log.lostNow hrest :).trans hl, fun hp => ?_, hout⟩
      have hp' : (l.taking e []).padFor (e.record false).length = 0 := hp
      rw [hp, Nat.add_zero]
      exact hothers hp'
    · refine ⟨_, eventLogPlace_holds hr hw hf he hno, ⟨rfl, rfl, rfl, rfl⟩, ?_⟩
      rw [Log.overflow_room e rfl]
      exact ⟨rfl, rfl, rfl, rfl, rfl, rfl⟩
    · have hplace := Log.place_placed { l with full := rest } e
      obtain ⟨haside, hlog, -⟩ := w.logPlaced_effect (Log.place { l with full := rest } e)
      obtain ⟨hrest, hwptr, -, -, -, -⟩ := hplace
      rw [e.record_length_eq] at hwptr
      refine ⟨_, eventLogPlace_first hr hw hf hl hfit, haside, ?_⟩
      rw [hlog]
      exact ⟨(congrArg Log.full hrest :), (congrArg Log.held hrest :), hwptr⟩
    · obtain ⟨rest, hf⟩ := List.head?_eq_some_iff.mp hd
      rw [hf] at hlen
      obtain ⟨hrest, hlost, hcodes⟩ := Log.overflow_lost (l := l.taking e (d :: rest)) e hlen
      exact ⟨_, eventLogPlace_behind hr hw hf he hno, ⟨rfl, rfl, rfl, rfl⟩, (congrArg Log.full hrest).trans hf.symm,
        (congrArg Log.held hrest :), hlost, (congrArg Log.ring hrest :), hcodes⟩
  · exact fun hl hf => evtOverflowRecord_effect hr hw hl hf
  · intro hp
    obtain ⟨t, hexec, haside, hlog⟩ := evtRptrWrite_taken v hs (by rwa [State.logCheck_agree hr hw])
    rw [State.logCheck_agree hr hw] at haside hlog
    exact ⟨t, hexec, haside, by rw [hlog]; rfl, by rw [hlog]; rfl, by rw [hlog]; rfl, by rw [hlog]; rfl, by rw [hlog]; rfl⟩
  · exact fun hp hst => evtRptrWrite_refused v hs hr hw hp hst
  · intro v hs hne hv
    obtain ⟨⟨hhbm, hstalls, hbarns, hdies⟩, hwptr, hcopy, hstarts, hheld, hcode⟩ := State.logCheck_empties hne
    obtain ⟨t, hexec, ht, hlog⟩ := evtRptrWrite_taken v hs (.inr (by rw [hstarts, hv]; decide))
    rw [hv] at hlog
    refine ⟨t, hexec, ⟨ht.hbm.trans hhbm, ht.stalls.trans hstalls, ht.barns.trans hbarns, ht.dies.trans hdies⟩, ?_⟩
    rw [hlog]
    exact ⟨rfl, rfl, hwptr, hcopy, hcode, hheld⟩

end Sys2Proof.Machine
end

/-!
# What base dies report

A request to a base die enters its events behind those that wait for the log, and of securing it changes the failures counted alone (R289,
R290, R338).
-/
section
namespace Sys2Proof.Machine

open Sys2Proof.Safety

structure Reported (s t : State) : Prop where
  entered : Entered s t
  ckpt : { t.ckpt with fails := s.ckpt.fails } = s.ckpt

namespace Reported

variable {s t u : State}

theorem same (hl : t.log = s.log) (hc : t.ckpt = s.ckpt) : Reported s t := ⟨.same hl, by rw [hc]⟩

theorem refl (s : State) : Reported s s := same rfl rfl

theorem trans (h : Reported s t) (k : Reported t u) : Reported s u :=
  ⟨h.entered.trans k.entered, (congrArg (fun c : Ckpt => { c with fails := s.ckpt.fails }) k.ckpt).trans h.ckpt⟩

theorem done (h : Reported s t) : t.ckpt.done = s.ckpt.done := (congrArg Ckpt.done h.ckpt :)

end Reported

theorem State.event_reported (s : State) (code src x : Nat) (detail : List Byte) : Reported s (s.event code src x detail) :=
  ⟨s.event_entered _ _ _ _, rfl⟩

theorem State.failShot_reported (s : State) (x code src : Nat) : Reported s (s.failShot x code src) := by
  refine .same (s.failShot_log _ _ _) ?_
  unfold State.failShot
  split
  · rfl
  · split
    · split <;> rfl
    · rfl

theorem State.failureEvent_reported (s : State) (k : Nat) : Reported s (s.failureEvent k) := ⟨.same rfl, rfl⟩

theorem State.recordUnit_reported (s : State) (j a flag : Nat) : Reported s (s.recordUnit j a flag) := by
  unfold State.recordUnit
  extract_lets e t u
  have hu : Reported s u := by
    subst u
    split
    · exact .refl s
    · exact .same rfl rfl
  exact hu.trans (.same rfl rfl)

theorem State.uncorrectable_reported (s : State) (j a x : Nat) : Reported s (s.uncorrectable j a x) := by
  unfold State.uncorrectable
  extract_lets t u v
  have ht : Reported s t := .same rfl rfl
  have hv : Reported s v := (ht.trans (t.event_reported _ _ _ _)).trans (u.recordUnit_reported _ _ _)
  split
  · exact hv.trans (v.failureEvent_reported 1)
  · exact hv

theorem State.correction_reported (s : State) (j a x : Nat) : Reported s (s.correction j a x) := by
  unfold State.correction
  extract_lets t _
  have ht : Reported s t := .same rfl rfl
  split
  · exact ht
  · exact ht.trans ⟨⟨_, rfl⟩, rfl⟩

theorem State.enlist_reported (s : State) (j a : Nat) : Reported s (s.enlist j a) := by
  unfold State.enlist
  extract_lets k
  split
  · exact .refl s
  · split <;> exact .same rfl rfl

/-! ### Reads -/

theorem State.readUnit_reported (s : State) (j a x : Nat) : Reported s (s.readUnit j a x).1 := by
  unfold State.readUnit
  split
  split
  · exact .refl s
  · exact (s.correction_reported _ _ _).trans (State.enlist_reported _ _ _)
  · exact s.uncorrectable_reported _ _ _

theorem State.readUnits_reported (s : State) (j x a n : Nat) : Reported s (s.readUnits j x a n).1 := by
  induction n generalizing s a with
  | zero => exact .refl s
  | succ n ih => exact (s.readUnit_reported j a x).trans (ih _ _)

theorem State.readMem_reported (s : State) (a n x : Nat) : Reported s (s.readMem a n x).1 := by
  unfold State.readMem
  refine List.foldlRecOn (motive := fun acc : State × List Byte × List Bool × Bool => Reported s acc.1) _ _ (.refl s) fun acc h p _ => ?_
  obtain ⟨t, bs, ls, un⟩ := acc
  dsimp only
  split
  · exact h.trans (t.readUnits_reported _ _ _ _)
  · exact h

/-! ### Writes -/

theorem State.writeUnit_reported (s : State) (j a x : Nat) (bs : List Byte) (sched : Bool) : Reported s (s.writeUnit j a x bs sched) := by
  have henc : ∀ (w : State) (cs : List Byte), Reported w (w.encodeUnit j a cs) := fun _ _ => .same rfl rfl
  unfold State.writeUnit
  extract_lets t u
  have hu : Reported s u := (s.uncorrectable_reported j a x).trans (.same rfl rfl)
  split
  · exact henc _ _
  · split
    split
    · exact henc _ _
    · exact (s.correction_reported _ _ _).trans (henc _ _)
    · split
      · exact hu.trans (u.failShot_reported _ _ _)
      · exact hu

theorem State.writeUnits_reported (s : State) (j x : Nat) (sched : Bool) (n a : Nat) (bs : List Byte) :
    Reported s (s.writeUnits j x sched n a bs) := by
  induction n generalizing s a bs with
  | zero => exact .refl s
  | succ n ih =>
    unfold State.writeUnits
    split
    · exact .refl s
    · exact (s.writeUnit_reported _ _ _ _ _).trans (ih _ _ _)

theorem State.writeMem_reported (s : State) (a x : Nat) (bs : List Byte) (sched : Bool) : Reported s (s.writeMem a x bs sched) := by
  unfold State.writeMem
  refine List.foldlRecOn (motive := fun acc : State × List Byte => Reported s acc.1) _ _ (.refl s) fun acc h p _ => ?_
  obtain ⟨t, rest⟩ := acc
  dsimp only
  split
  next j sa _ =>
    have hc : Reported t (t.ponyClear j sa p.2) := .same rfl rfl
    exact h.trans (hc.trans (State.writeUnits_reported _ _ _ _ _ _ _))
  · exact h

end Sys2Proof.Machine
end

/-!
# An image is loaded

The verdict on the staged bytes, a refusal, and what an admission leaves (R443, R444, R447, R448).
-/
section
namespace Sys2Proof.Machine

open Sys2Proof.Safety

/-! ### Fields -/

/-- A field reads the low bits of what was put there. -/
theorem State.field_setField_same (s : State) (a v : Nat) {hi lo : Nat} (h : lo ≤ hi) (h32 : hi < 32) :
    (s.setField a hi lo v).field a hi lo = v % 2 ^ (hi + 1 - lo) := by
  have hr : (s.setField a hi lo v).field a hi lo = natBits (setBits (s.reg a) hi lo v % 2 ^ 32) hi lo :=
    congrArg (natBits · hi lo) ((State.reg_setField a a hi lo v).trans (if_pos rfl))
  rw [hr, natBits_congr h fun i _ hi' => natBit_mod (by omega), natBits_setBits_same _ _ h]

theorem State.bit_putBit_same (s : State) (a : Nat) {i : Nat} (hi : i < 32) (v : Bool) : (s.putBit a i v).bit a i = v := by
  unfold State.putBit
  rw [State.bit_setField _ _ _ le_rfl hi, if_pos ⟨le_rfl, le_rfl⟩, Nat.sub_self]
  cases v <;> rfl

theorem State.reg_putBit_ne (s : State) {a b : Nat} (i : Nat) (v : Bool) (h : b ≠ a) : (s.putBit a i v).reg b = s.reg b :=
  (State.reg_setField _ _ _ _ _).trans (if_neg h)

/-! ### Digests in registers -/

theorem leNat_lt (bs : List Byte) : leNat bs < 256 ^ bs.length := by
  induction bs with
  | nil => decide
  | cons b bs ih =>
    have hb : b.toNat < 256 := b.isLt
    rw [leNat, List.length_cons, pow_succ]
    omega

theorem leAt_lt (bs : List Byte) (a n : Nat) : leAt bs a n < 256 ^ n := by
  have h := leNat_lt (bytesAt bs a n)
  rwa [length_bytesAt] at h

theorem State.reg_foldl_setReg_at (f : Nat → Nat) (hf : ∀ n, f n < 2 ^ 32) (a : Nat) {m n : Nat} (hn : n < m) (s : State) :
    ((List.range m).foldl (fun s n => s.setReg (a + 4 * n) (f n)) s).reg (a + 4 * n) = f n := by
  induction m with
  | zero => omega
  | succ m ih =>
    rw [List.range_succ, List.foldl_append, List.foldl_cons, List.foldl_nil, State.reg_setReg]
    split
    · rw [show m = n by omega]
      exact Nat.mod_eq_of_lt (hf n)
    · exact ih (by omega)

theorem State.reg_putDigest_at (s : State) (a : Nat) (d : List Byte) {n : Nat} (hn : n < 8) :
    (s.putDigest a d).reg (a + 4 * n) = leAt d (4 * n) 4 := 
  State.reg_foldl_setReg_at (fun n => leAt d (4 * n) 4) (fun _ => leAt_lt _ _ 4) a hn s

theorem State.reg_putDigest_ne (s : State) (a : Nat) (d : List Byte) {k : Nat} (hk : ∀ n, k ≠ a + 4 * n) :
    (s.putDigest a d).reg k = s.reg k :=
  foldl_same (State.reg · k) _ s fun _ n => (State.reg_setReg _ _ _).trans (if_neg (hk n))

theorem State.putDigest_shows (s : State) (a : Nat) (d : List Byte) : Shows s (s.putDigest a d) :=
  (Shows.refl s).foldl _ fun w _ => w.setReg_shows _ _

/-! ### The staged bytes -/

theorem State.stagedBytes_read (s : State) (a n : Nat) :
    ∃ t, HbmRead s t ∧ Reported s t ∧ (s.stagedBytes a n).1 = { t with free := t.free + 1 } := by
  unfold State.stagedBytes
  have hr := s.readMem_read a n s.cyc
  have hp := s.readMem_reported a n s.cyc
  generalize s.readMem a n s.cyc = rd at hr hp
  obtain ⟨t, bs, lost, un⟩ := rd
  exact ⟨t, hr, hp, rfl⟩

/-! ### A refusal -/

theorem State.refuseImage_effect (s : State) {f : Found} {n : Nat} (hi : f.item = some n) (hc : f.code < 65536) (hs : f.sec < 65536)
    (hn : n < 2 ^ 32) :
    let t := s.refuseImage f
    t.boot = s.boot ∧ t.hbm = s.hbm ∧ t.stalls = s.stalls ∧ t.field A.cfgStatus 1 0 = 2 ∧
      t.bit A.cfgStatus 28 = s.bit A.cfgStatus 28 ∧ t.reg A.cfgRefusal = f.code * 65536 + f.sec ∧ t.reg A.cfgRefusalAt = n ∧
      Logged s t [(Ev.cfgRefused, s.srcGroom)] := by
  have hcode : f.code * 65536 + f.sec < 2 ^ 32 := by omega
  unfold State.refuseImage
  rw [hi]
  dsimp only
  generalize ht : s.setField A.cfgStatus 1 0 2 = t
  have hts : Shows s t := ht ▸ s.setField_shows _ _ _ _
  have hfield : t.field A.cfgStatus 1 0 = 2 := ht ▸ s.field_setField_same A.cfgStatus 2 (by decide) (by decide)
  have hbit : t.bit A.cfgStatus 28 = s.bit A.cfgStatus 28 :=
    ht ▸ (s.bit_setField A.cfgStatus 2 (by decide) (by decide)).trans (if_neg (by decide))
  generalize hu : (t.setReg A.cfgRefusal (f.code * 65536 + f.sec)).setReg A.cfgRefusalAt n = u
  have hus : Shows s u := hu ▸ hts.trans ((t.setReg_shows _ _).trans (State.setReg_shows _ _ _))
  have hstatus : u.reg A.cfgStatus = t.reg A.cfgStatus := by
    rw [← hu, State.reg_setReg, if_neg (by decide), State.reg_setReg, if_neg (by decide)]
  have hboot : u.boot = s.boot := (congrArg State.boot hus.rest :)
  refine ⟨hboot, hus.aside.hbm, hus.aside.stalls, ?_, ?_, ?_, ?_, ?_⟩
  · exact (State.field_of_reg (s := t) 1 0 hstatus).trans hfield
  · exact (State.bit_of_reg (s := t) 28 hstatus).trans hbit
  · show u.reg A.cfgRefusal = _
    rw [← hu, State.reg_setReg, if_neg (by decide), State.reg_setReg, if_pos rfl, Nat.mod_eq_of_lt hcode]
  · show u.reg A.cfgRefusalAt = _
    rw [← hu, State.reg_setReg, if_pos rfl, Nat.mod_eq_of_lt hn]
  · have hl := u.event_logged Ev.cfgRefused u.srcGroom u.cyc (leBytes 2 f.code ++ leBytes 2 f.sec ++ leBytes 4 n)
    have hsrc : u.srcGroom = s.srcGroom := congrArg (fun b : Boot => if b.primaryGe then 0x4100 else 0x4000) hboot
    rw [Logged, hus.log] at hl
    exact hsrc ▸ hl

/-! ### An admission -/

/-- What an admission gives the module beside stalls, yardmasters, ports and registers: its image, fences, the shot, training, the points
secured. -/
def State.course (s : State) : Boot × List Nat × (Bool × Nat) × Train × List Point :=
  (s.boot, s.safe.fenced, (s.shot.begun, s.shot.nextNo), s.train, s.ckpt.done)

theorem Shows.course {s t : State} (h : Shows s t) : t.course = s.course := (congrArg State.course h.rest :)

theorem State.writeMem_course (s : State) (a x : Nat) (bs : List Byte) (sched : Bool) : (s.writeMem a x bs sched).course = s.course := by
  have h := s.writeMem_served a x bs sched
  have hshot := h.shot
  have hdone := (s.writeMem_reported a x bs sched).done
  generalize s.writeMem a x bs sched = t at h hshot hdone
  have hb : t.boot = s.boot := (congrArg State.boot h.rest :)
  have hf : t.safe = s.safe := (congrArg State.safe h.rest :)
  have hbegun : t.shot.begun = s.shot.begun := (congrArg Shot.begun hshot :)
  have hno : t.shot.nextNo = s.shot.nextNo := (congrArg Shot.nextNo hshot :)
  have ht : t.train = s.train := (congrArg State.train h.rest :)
  unfold State.course
  rw [hb, hf, hbegun, hno, ht, hdone]

theorem State.admitStalls_course (s : State) (im : Image) : (s.admitStalls im).course = s.course := by
  unfold State.admitStalls
  extract_lets m carrier t _ u
  have ht : t.course = s.course := foldl_same State.course _ s fun _ _ => rfl
  clear_value t
  have hu : u.course = t.course := rfl
  clear_value u
  refine (foldl_same State.course _ u fun w p => ?_).trans (hu.trans ht)
  split
  · split <;> rfl
  · rfl

theorem State.admitBarns_course (s : State) (im : Image) : (s.admitBarns im).course = s.course := by
  unfold State.admitBarns
  generalize List.range 8 = l
  exact foldl_same State.course l s fun _ _ => rfl

theorem State.admitPorts_course (s : State) (im : Image) : (s.admitPorts im).course = s.course := by
  unfold State.admitPorts
  generalize List.range 20 = l
  refine (foldl_same State.course _ _ fun w p => ?_).trans (foldl_same State.course _ s fun w p => ?_)
  all_goals rfl

theorem State.admitImage_effect (s : State) (im : Image) (bs : List Byte) :
    let t := s.admitImage im bs
    ∃ i, t.boot.mode = .run ∧ t.boot.image = some i ∧ i.plans = im.plans ∧ i.fabric = im.fabric ∧ i.seed = leAt bs 24 4 ∧
      t.field A.cfgStatus 1 0 = 1 ∧ t.bit A.cfgStatus 30 = true ∧ (∀ n < 8, t.reg (A.cfgDigest + 4 * n) = leAt (sha256 bs) (4 * n) 4) ∧
      t.safe.fenced = s.safe.fenced ∧ t.shot.begun = false ∧ t.shot.nextNo = 0 ∧ t.train.diverged = s.train.diverged ∧ t.ckpt.done = [] := by
  unfold State.admitImage
  extract_lets tab power i conf period own first _ _ _ _ _ a b c d e f g t
  have ha : a.boot.mode = .run ∧ a.boot.image = some i ∧ a.course = (a.boot, s.safe.fenced, (false, 0), a.train, []) ∧
      a.train.diverged = s.train.diverged := ⟨rfl, rfl, rfl, rfl⟩
  clear_value a
  have hb : b.course = a.course := foldl_same State.course _ a fun w q => w.writeMem_course _ _ _ _
  clear_value b
  have hc : c.course = b.course :=
    ((State.admitPorts_course _ i).trans (State.admitBarns_course _ i)).trans (b.admitStalls_course i)
  clear_value c
  have hd : d.course = c.course := by
    subst d
    split
    next n _ => exact foldl_same State.course _ c fun w p => by split <;> rfl
    · rfl
  clear_value d
  have he : Shows d e ∧ ∀ n < 8, e.reg (A.cfgDigest + 4 * n) = leAt (sha256 bs) (4 * n) 4 :=
    ⟨(d.putDigest_shows _ _).trans (State.putDigest_shows _ _ _), fun n hn =>
      (State.reg_putDigest_ne _ _ _ fun m => by unfold A.cfgDigest A.cfgConfDigest; omega).trans (d.reg_putDigest_at _ _ hn)⟩
  clear_value e
  have hf : Shows e f ∧ ∀ n < 8, f.reg (A.cfgDigest + 4 * n) = e.reg (A.cfgDigest + 4 * n) :=
    ⟨(e.setReg_shows _ _).trans (State.putBit_shows _ _ _ _), fun n hn =>
      (State.reg_putBit_ne _ _ _ (by unfold A.cfgDigest A.glbTickStatus; omega)).trans
        ((State.reg_setReg _ _ _).trans (if_neg (by unfold A.cfgDigest A.glbShotPeriod; omega)))⟩
  clear_value f
  have hg : Shows f g ∧ ∀ n < 8, g.reg (A.cfgDigest + 4 * n) = f.reg (A.cfgDigest + 4 * n) := by
    subst g
    split
    · exact ⟨f.setField_shows _ _ _ _, fun n hn => (State.reg_setField _ _ _ _ _).trans (if_neg (by unfold A.cfgDigest A.ckpCtrl; omega))⟩
    · exact ⟨.refl f, fun _ _ => rfl⟩
  clear_value g
  have ht : Shows g t ∧ ∀ n < 8, t.reg (A.cfgDigest + 4 * n) = g.reg (A.cfgDigest + 4 * n) :=
    ⟨(g.putBit_shows _ _ _).trans (State.setField_shows _ _ _ _ _), fun n hn =>
      ((State.reg_setField _ _ _ _ _).trans (if_neg (by unfold A.cfgDigest A.cfgStatus; omega))).trans
        (State.reg_putBit_ne _ _ _ (by unfold A.cfgDigest A.cfgStatus; omega))⟩
  have hstatus : t.field A.cfgStatus 1 0 = 1 ∧ t.bit A.cfgStatus 30 = true :=
    ⟨State.field_setField_same _ _ _ (by decide) (by decide),
      ((State.bit_setField _ _ _ (by decide) (by decide)).trans (if_neg (by decide))).trans (State.bit_putBit_same _ _ (by decide) _)⟩
  clear_value t
  have hcourse : t.course = (a.boot, s.safe.fenced, (false, 0), a.train, []) :=
    ((((he.1.trans hf.1).trans hg.1).trans ht.1).course.trans (hd.trans (hc.trans hb))).trans ha.2.2.1
  unfold State.course at hcourse
  simp only [Prod.mk.injEq] at hcourse
  obtain ⟨hboot, hfenced, ⟨hbegun, hno⟩, htrain, hdone⟩ := hcourse
  obtain ⟨hmode, himage, -, hdiverged⟩ := ha
  refine ⟨i, (congrArg Boot.mode hboot).trans hmode, (congrArg Boot.image hboot).trans himage, rfl, rfl, rfl, hstatus.1, hstatus.2,
    fun n hn => ?_, hfenced, hbegun, hno, (congrArg Train.diverged htrain).trans hdiverged, hdone⟩
  rw [ht.2 n hn, hg.2 n hn, hf.2 n hn, he.2 n hn]

/-! ### The command -/

section

variable {s : State} (hs : s.awake = true) {v : Word} (hv : natBit v.toNat 31 = true) (im : Image)

include hs hv

theorem execCfgLoad_flag (h : s.boot.mode ≠ .ready ∨ s.boot.image.isSome = true ∨ s.boot.releasing ≠ 0) :
    exec (.cfgLoad v im) s = .next (s.setBit A.cfgStatus 28) :=
  congrArg Host.Outcome.next ((if_neg (by simp [hs, hv])).trans (if_pos (by simpa [State.releasing, or_assoc] using h)))

/-- The state in which the checks run, and the staged bytes. -/
def State.staged (s : State) : State × List Byte :=
  (s.putBit A.cfgStatus 28 false).stagedBytes (s.wide A.cfgImgAddrLo A.cfgImgAddrHi) (s.reg A.cfgImgLen)

theorem execCfgLoad_checked (hm : s.boot.mode = .ready) (hi : s.boot.image = none) (hr : s.boot.releasing = 0) :
    exec (.cfgLoad v im) s = .next (match s.staged.1.imageCheck im.decoded s.staged.2 (s.reg A.cfgImgLen) with
      | some f => s.staged.1.refuseImage f
      | none => s.staged.1.admitImage (s.staged.1.computed im.decoded s.staged.2) s.staged.2) := by
  have hlen : (s.putBit A.cfgStatus 28 false).reg A.cfgImgLen = s.reg A.cfgImgLen := s.reg_putBit_ne _ _ (by decide)
  have hwide : (s.putBit A.cfgStatus 28 false).wide A.cfgImgAddrLo A.cfgImgAddrHi = s.wide A.cfgImgAddrLo A.cfgImgAddrHi := by
    unfold State.wide
    rw [s.reg_putBit_ne _ _ (by decide), s.reg_putBit_ne _ _ (by decide)]
  show execCfgLoad v im s = _
  unfold execCfgLoad
  rw [if_neg (by simp [hs, hv]), if_neg (by simp [hm, hi, hr, State.releasing])]
  dsimp only
  rw [hlen, hwide]
  rfl

end

/-- The checks leave what stands outside the base dies, and the flag that a load is out of place is clear. -/
theorem State.staged_effect (s : State) :
    let w := s.staged.1
    w.boot = s.boot ∧ w.hbm = s.hbm ∧ w.stalls = s.stalls ∧ w.safe = s.safe ∧ w.train = s.train ∧ w.bit A.cfgStatus 28 = false ∧
      ∃ l, Logged s w l := by
  obtain ⟨t, hread, hrep, ht⟩ := (s.putBit A.cfgStatus 28 false).stagedBytes_read (s.wide A.cfgImgAddrLo A.cfgImgAddrHi) (s.reg A.cfgImgLen)
  have hw : s.staged.1 = { t with free := t.free + 1 } := ht
  have hbit : t.bit A.cfgStatus 28 = false :=
    (State.bit_of_reg 28 (hread.low A.cfgStatus (by decide))).trans (s.bit_putBit_same _ (by decide) false)
  obtain ⟨l, hl⟩ := hrep.entered
  rw [hw]
  refine ⟨(congrArg State.boot hread.rest :), hread.hbm, hread.stalls, (congrArg State.safe hread.rest :),
    (congrArg State.train hread.rest :), hbit, l.map fun e => (e.code, e.src), ?_⟩
  have hheld : t.log.held = s.log.held ++ l := congrArg Log.held hl
  exact (congrArg (List.map fun e : Event => (e.code, e.src)) hheld).trans List.map_append

/-- What the loader computes of a plan leaves the parts that the image gives (R219, R262, R467). -/
theorem State.computedPlan_parts (s : State) (im : Image) (bs : List Byte) (p : Plan) :
    let q := s.computedPlan im bs p
    (q.num, q.period, q.progs, q.slices, q.transfers) = (p.num, p.period, p.progs, p.slices, p.transfers) ∧ (p.runs = false → q = p) := by
  unfold State.computedPlan
  refine ⟨?_, fun h => if_pos (by simp [h])⟩
  split <;> rfl

section

variable {s : State} (hs : s.awake = true) {v : Word} (hv : natBit v.toNat 31 = true) (im : Image) (hm : s.boot.mode = .ready)
  (hi : s.boot.image = none) (hr : s.boot.releasing = 0)

include hs hv hm hi hr

theorem cfgLoad_refused {f : Found} {n : Nat} (hf : s.staged.1.imageCheck im.decoded s.staged.2 (s.reg A.cfgImgLen) = some f)
    (hc : f.code < 65536) (hsec : f.sec < 65536) (hitem : f.item = some n) (hn : n < 2 ^ 32) :
    ∃ t l, exec (.cfgLoad v im) s = .next t ∧ t.boot = s.boot ∧ t.hbm = s.hbm ∧ t.stalls = s.stalls ∧
      t.field A.cfgStatus 1 0 = 2 ∧ t.bit A.cfgStatus 28 = false ∧ t.reg A.cfgRefusal = f.code * 65536 + f.sec ∧
      t.reg A.cfgRefusalAt = n ∧ Logged s t (l ++ [(Ev.cfgRefused, s.srcGroom)]) := by
  have hexec := execCfgLoad_checked hs hv im hm hi hr
  rw [hf] at hexec
  obtain ⟨hboot, hhbm, hstalls, -, -, hbit, l, hl⟩ := s.staged_effect
  obtain ⟨htb, hth, hts, hfield, htbit, hcode, hat, hlog⟩ := s.staged.1.refuseImage_effect hitem hc hsec hn
  have hsrc : s.staged.1.srcGroom = s.srcGroom := congrArg (fun b : Boot => if b.primaryGe then 0x4100 else 0x4000) hboot
  refine ⟨_, l, hexec, htb.trans hboot, hth.trans hhbm, hts.trans hstalls, hfield, htbit.trans hbit, hcode, hat, ?_⟩
  rw [hsrc] at hlog
  exact (hlog.trans (congrArg (· ++ _) hl)).trans (List.append_assoc _ _ _)

theorem cfgLoad_admitted (hf : s.staged.1.imageCheck im.decoded s.staged.2 (s.reg A.cfgImgLen) = none) :
    let d := im.decoded
    ∃ t i, exec (.cfgLoad v im) s = .next t ∧ t.boot.mode = .run ∧ t.boot.image = some i ∧
      i.plans.map (fun p => (p.num, p.period, p.progs, p.slices, p.transfers)) =
        d.plans.map (fun p => (p.num, p.period, p.progs, p.slices, p.transfers)) ∧
      ((∀ p ∈ d.plans, p.runs = false) → i.plans = d.plans) ∧ i.fabric = im.fabric ∧
      i.seed = leAt s.staged.2 24 4 ∧ t.field A.cfgStatus 1 0 = 1 ∧ t.bit A.cfgStatus 30 = true ∧
      (∀ n < 8, t.reg (A.cfgDigest + 4 * n) = leAt (sha256 s.staged.2) (4 * n) 4) ∧ t.safe.fenced = s.safe.fenced ∧
      t.shot.begun = false ∧ t.shot.nextNo = 0 ∧ t.train.diverged = s.train.diverged ∧ t.ckpt.done = [] := by
  intro d
  have hexec := execCfgLoad_checked hs hv im hm hi hr
  rw [hf] at hexec
  obtain ⟨-, -, -, hsafe, htrain, -, -⟩ := s.staged_effect
  obtain ⟨i, hmode, himage, hplans, hfabric, hseed, hfield, hbit, hdigest, hfenced, hbegun, hno, hdiv, hdone⟩ :=
    s.staged.1.admitImage_effect (s.staged.1.computed d s.staged.2) s.staged.2
  have hplans' : i.plans = d.plans.map fun p => s.staged.1.computedPlan d s.staged.2 p := hplans
  refine ⟨_, i, hexec, hmode, himage, ?_, fun h => ?_, hfabric, hseed, hfield, hbit, hdigest, hfenced.trans (congrArg Safe.fenced hsafe),
    hbegun, hno, hdiv.trans (congrArg Train.diverged htrain), hdone⟩
  · rw [hplans', List.map_map]
    exact List.map_congr_left fun p _ => (s.staged.1.computedPlan_parts d s.staged.2 p).1
  · rw [hplans', List.map_congr_left fun p hp => (s.staged.1.computedPlan_parts d s.staged.2 p).2 (h p hp), List.map_id']

end

end Sys2Proof.Machine
end

/-!
# Release and Function Level Reset

What a write of CFG_CTRL.release does to an image, and what a Function Level Reset returns of the host interface (R48, R449).
-/
section
namespace Sys2Proof.Machine

open Sys2Proof.Safety

variable {s : State}

/-! ### Release -/

theorem State.dropQueued_effect (s : State) :
    Ends s s.dropQueued ∧ s.dropQueued.host.runs = s.host.runs.filter fun q => q.started := by
  unfold State.dropQueued
  extract_lets l _ t
  have ht : Ends s t ∧ t.host.runs = s.host.runs.filter fun q => q.started := ⟨⟨rfl⟩, rfl⟩
  clear_value t
  exact ⟨ht.1.trans ((Ends.refl t).foldl l fun w q => w.refuseRun_ends q 1),
    (foldl_same (f := fun w q => w.refuseRun q 1) (fun w : State => w.host.runs) l t fun _ _ => rfl).trans ht.2⟩

theorem Ends.boot {s t : State} (h : Ends s t) : t.boot = s.boot := (congrArg State.boot h.rest :)
theorem Ends.aside {s t : State} (h : Ends s t) : Aside s t :=
  ⟨(congrArg State.hbm h.rest :), (congrArg State.stalls h.rest :), (congrArg State.barns h.rest :), (congrArg State.dies h.rest :)⟩

theorem State.closeShot_idle (h : s.shot.begun = false) : s.closeShot = s := if_pos (by simp [h])

section

variable (hs : s.awake = true) {v : Word} (hv : natBit v.toNat 30 = true)

include hs hv

theorem execCfgRelease_turnedAway (h : s.boot.image = none ∨ s.boot.releasing ≠ 0 ∨ s.ckpt.restore.isSome = true ∨ s.ckpt.repairs ≠ [] ∨
    s.fencesOpen = false) : exec (.cfgRelease v) s = .next (s.setBit A.cfgStatus 27) := by
  refine congrArg Host.Outcome.next ((if_neg (by simp [hs, hv])).trans (if_pos ?_))
  simp only [Bool.or_eq_true, Option.isNone_iff_eq_none, State.releasing, decide_eq_true_eq, Bool.not_eq_true', List.isEmpty_eq_false_iff,
    or_assoc]
  exact h

variable (hi : s.boot.image.isSome = true) (hr : s.boot.releasing = 0) (hres : s.ckpt.restore = none) (hrep : s.ckpt.repairs = [])
  (hf : s.fencesOpen = true)

/-- The state in which a release has been asked for (R449 step 1). -/
def State.asksRelease (s : State) : State :=
  let t := s.putBit A.cfgStatus 27 false
  (({ t with boot := { t.boot with releasing := 1 } } : State).putBit A.cfgStatus 29 true).dropQueued

include hi hr hres hrep hf

theorem execCfgRelease_asks :
    exec (.cfgRelease v) s = .next (if s.asksRelease.neverBegan && s.asksRelease.canRelease then s.asksRelease.doRelease else s.asksRelease) := by
  have himage : s.boot.image.isNone = false := by rw [← Option.not_isSome, hi]; rfl
  exact congrArg Host.Outcome.next ((if_neg (by simp [hs, hv])).trans (if_neg (by simp [himage, hr, hres, hrep, hf, State.releasing])))

omit hs hv hi hr hres hrep hf in
theorem State.asksRelease_effect (s : State) :
    let t := s.asksRelease
    t.boot = { s.boot with releasing := 1 } ∧ t.bit A.cfgStatus 27 = false ∧ t.bit A.cfgStatus 29 = true ∧ Aside s t ∧
      t.host.runs = (s.host.runs.filter fun q => q.started) ∧ t.shot = s.shot ∧ t.train = s.train ∧ t.lasting = s.lasting := by
  intro t
  obtain ⟨w, b, ⟨hboot, haside, hruns, hshot, htrain, hlast, h27⟩, hb, ht⟩ : ∃ w b : State, (w.boot = { s.boot with releasing := 1 } ∧
      Aside s w ∧ w.host.runs = s.host.runs ∧ w.shot = s.shot ∧ w.train = s.train ∧ w.lasting = s.lasting ∧
      w.bit A.cfgStatus 27 = false) ∧ w.putBit A.cfgStatus 29 true = b ∧ t = b.dropQueued :=
    ⟨{ s.putBit A.cfgStatus 27 false with boot := { s.boot with releasing := 1 } }, _, ⟨rfl, ⟨rfl, rfl, rfl, rfl⟩, rfl, rfl, rfl, rfl, s.bit_putBit_same _ (by decide) false⟩, rfl, rfl⟩
  clear_value t
  subst ht
  have hwb : Shows w b := hb ▸ w.putBit_shows _ _ _
  have hb27 : b.bit A.cfgStatus 27 = w.bit A.cfgStatus 27 :=
    hb ▸ (w.bit_setField A.cfgStatus 1 (by decide) (by decide)).trans (if_neg (by decide))
  have hb29 : b.bit A.cfgStatus 29 = true := hb ▸ w.bit_putBit_same _ (by decide) true
  obtain ⟨hends, hqueue⟩ := b.dropQueued_effect
  have hbr : b.host.runs = s.host.runs := (congrArg HostIf.runs hwb.host :).trans hruns
  refine ⟨hends.boot.trans ((congrArg State.boot hwb.rest :).trans hboot), (State.bit_of_reg 27 (hends.reg _)).trans (hb27.trans h27),
    (State.bit_of_reg 29 (hends.reg _)).trans hb29, ?_, hqueue.trans (by rw [hbr]),
    hends.shot.trans ((congrArg State.shot hwb.rest :).trans hshot),
    (congrArg State.train hends.rest :).trans ((congrArg State.train hwb.rest :).trans htrain),
    (congrArg State.lasting hends.rest :).trans (hwb.lasting.trans hlast)⟩
  exact ⟨hends.aside.hbm.trans (hwb.aside.hbm.trans haside.hbm), hends.aside.stalls.trans (hwb.aside.stalls.trans haside.stalls),
    hends.aside.barns.trans (hwb.aside.barns.trans haside.barns), hends.aside.dies.trans (hwb.aside.dies.trans haside.dies)⟩

theorem cfgRelease_waits (hn : s.neverBegan = false) :
    ∃ t, exec (.cfgRelease v) s = .next t ∧ t.boot = { s.boot with releasing := 1 } ∧
      t.bit A.cfgStatus 27 = false ∧ t.bit A.cfgStatus 29 = true ∧ Aside s t ∧ t.host.runs = s.host.runs.filter fun q => q.started := by
  obtain ⟨hboot, h27, h29, haside, hruns, hshot, -, -⟩ := s.asksRelease_effect
  have hn' : s.asksRelease.neverBegan = false := (congrArg (fun x : Shot => !x.begun && decide (x.begin_ = 0)) hshot).trans hn
  exact ⟨_, (execCfgRelease_asks hs hv hi hr hres hrep hf).trans (congrArg Host.Outcome.next (if_neg (by simp [hn']))),
    hboot, h27, h29, haside, hruns⟩

theorem cfgRelease_releases (hn : s.neverBegan = true) (hruns : s.host.runs = []) (hp : s.train.passes = []) :
    ∃ t, exec (.cfgRelease v) s = .next t ∧ Released t ∧ t.lasting = s.lasting := by
  obtain ⟨hboot, -, -, -, hruns', hshot, htrain, hlast⟩ := s.asksRelease_effect
  have hn' : s.asksRelease.neverBegan = true := (congrArg (fun x : Shot => !x.begun && decide (x.begin_ = 0)) hshot).trans hn
  have hcan : s.asksRelease.canRelease = true := by
    have hfences : s.asksRelease.fencesOpen = true :=
      (congrArg (fun b : Boot => !b.split && decide (b.mode ≠ .fault)) hboot).trans hf
    have hreleasing : s.asksRelease.releasing = true := decide_eq_true ((congrArg Boot.releasing hboot).trans_ne Nat.one_ne_zero)
    unfold State.canRelease
    rw [hreleasing, hfences, hruns', htrain, hruns, hp]
    rfl
  have hidle : s.asksRelease.closeShot = s.asksRelease := by
    have hb : s.shot.begun = false := by
      have := hn
      unfold State.neverBegan at this
      simp_all
    exact State.closeShot_idle ((congrArg Shot.begun hshot).trans hb)
  refine ⟨_, (execCfgRelease_asks hs hv hi hr hres hrep hf).trans (congrArg Host.Outcome.next (if_pos (by simp [hn', hcan]))), ?_⟩
  unfold State.doRelease
  rw [hidle]
  obtain ⟨hreleased, hl⟩ := s.asksRelease.releaseImage_effect (decide (s.asksRelease.boot.releasing = 1))
  exact ⟨hreleased, hl.trans hlast⟩

end

/-! ### The host interface anew -/

/-- The host interface as a Function Level Reset leaves it: nothing of the host is queued, every ring is disabled, no vector is unmasked. -/
structure HostAnew (h : HostIf) : Prop where
  entries : h.entries = []
  runs : h.runs = []
  comps : h.comps = []
  packets : h.packets = []
  acks : h.acks = []
  waiting : h.waiting = []
  sweep : h.sweep = none
  busMaster : h.busMaster = false
  unmasked : h.unmasked = []
  rings : ∀ n, (sget zeroRing h.rings n).state = .disabled
  reqs : ∀ q ∈ h.reqs, q.host = none

/-- Of a host interface anew a message changes the pending bits alone. -/
theorem HostAnew.ofPending {h k : HostIf} (hh : HostAnew h) (hk : ∃ p, k = { h with pba := p }) : HostAnew k := by
  obtain ⟨p, rfl⟩ := hk
  exact { hh with }

theorem HostAnew.msix {v : Nat} (h : HostAnew s.host) : HostAnew (s.msix v).host := by
  unfold State.msix
  rw [if_pos (by simp [h.unmasked])]
  split
  · exact h
  · exact h.ofPending ⟨_, rfl⟩

theorem HostAnew.doorbell {i : Nat} (h : HostAnew s.host) : HostAnew (s.doorbell i).host := by
  unfold State.doorbell
  split
  · exact h
  · extract_lets t
    have ht : HostAnew t.host := h
    clear_value t
    split
    · exact ht
    · exact ht.msix

/-- The cause of the last reset stands in a register that no doorbell and no release writes. -/
theorem State.doorbell_resetCause (s : State) (i : Nat) : (s.doorbell i).reg A.glbResetCause = s.reg A.glbResetCause :=
  (congrArg (RegBank.get · A.glbResetCause) (s.doorbell_regs i)).trans ((State.reg_setBit _ _ _ _).trans (if_neg (by decide)))

theorem State.endSweep_none (h : s.host.sweep = none) (report : Bool) : s.endSweep report = s := by
  unfold State.endSweep
  rw [h]

/-- A release without reports leaves a host interface anew as it is, but for the requests. -/
theorem State.releaseImage_anew (h : HostAnew s.host) (hc : s.far.change = none) :
    HostAnew (s.releaseImage false).host ∧ (s.releaseImage false).reg A.glbResetCause = s.reg A.glbResetCause := by
  unfold State.releaseImage
  extract_lets a b c d e _ _ _ _ _ _ _ _ f g i j k l
  have ha : a = s := State.endSweep_none h.sweep false
  clear_value a
  subst ha
  have hb : b = a := List.foldlRecOn (motive := fun w => w = a) _ _ rfl fun w hw q _ => by
    subst hw
    split <;> rfl
  clear_value b
  subst hb
  have hcd : c.host = b.host ∧ c.far = b.far ∧ c.regs = b.regs :=
    ⟨foldl_same State.host _ b fun _ _ => rfl, foldl_same State.far _ b fun _ _ => rfl, foldl_same State.regs _ b fun _ _ => rfl⟩
  clear_value c
  have hd : d.host = c.host ∧ d.far = c.far ∧ d.regs = c.regs :=
    ⟨foldl_same State.host _ c fun _ _ => rfl, foldl_same State.far _ c fun _ _ => rfl, foldl_same State.regs _ c fun _ _ => rfl⟩
  clear_value d
  have hdb : d.host = b.host := hd.1.trans hcd.1
  have he : e = d := by
    subst e
    rw [hd.2.1.trans (hcd.2.1), hc]
  clear_value e
  subst he
  have hf : HostAnew f.host ∧ f.reg A.glbResetCause = b.reg A.glbResetCause := by
    have hregs : e.reg A.glbResetCause = b.reg A.glbResetCause := congrArg (RegBank.get · A.glbResetCause) (hd.2.2.trans hcd.2.2)
    have hh : HostAnew e.host := hdb ▸ h
    exact ⟨{ hh with reqs := nofun }, hregs⟩
  clear_value f
  have hg : g.host = f.host ∧ g.reg A.glbResetCause = f.reg A.glbResetCause := by
    refine ⟨foldl_same State.host _ f fun _ _ => rfl, foldl_same (State.reg · A.glbResetCause) _ f fun w n => ?_⟩
    rw [State.reg_setReg, if_neg (by unfold A.glbResetCause A.cfgConfDigest; omega), State.reg_setReg,
      if_neg (by unfold A.glbResetCause A.cfgDigest; omega)]
  clear_value g
  have hl : l.host = g.host ∧ l.reg A.glbResetCause = g.reg A.glbResetCause := by
    refine ⟨rfl, ?_⟩
    have hi : i.reg A.glbResetCause = g.reg A.glbResetCause := by
      rw [State.reg_setField, if_neg (by decide), State.reg_setReg, if_neg (by decide), State.reg_setReg, if_neg (by decide)]
    have hk : k.reg A.glbResetCause = i.reg A.glbResetCause := by
      rw [State.reg_putBit_ne _ _ _ (by decide), State.reg_putBit_ne _ _ _ (by decide), State.reg_putBit_ne _ _ _ (by decide)]
    exact ((State.reg_setReg _ _ _).trans (if_neg (by decide))).trans (hk.trans hi)
  clear_value l
  have hlh : l.host = f.host := hl.1.trans hg.1
  exact ⟨HostAnew.doorbell (hlh ▸ hf.1), (l.doorbell_resetCause 6).trans (hl.2.trans (hg.2.trans hf.2))⟩

end Sys2Proof.Machine
end

/-!
# Function Level Reset

What a Function Level Reset does to the host interface, to a shot and to an image (R48, R449).
-/
section
namespace Sys2Proof.Machine

open Sys2Proof.Safety

variable {s : State}

/-- What precedes the return of the host interface: a shot under way is ordered to abort, the sweep ends, and a failed RUN's step is marked. -/
def State.cutShort (s : State) : State :=
  let t := s.cross cdcHost 1
  let t := if t.shot.begun && t.shot.gone.isNone && t.safe.abort.isNone && !t.bit A.glbAudit 0 then t.orderAbort t.cyc else t
  (t.endSweep false).markReset

/-- The rings after the reset: disabled, each in its next pass. -/
def HostIf.ringsOff (h : HostIf) : Sparse Ring :=
  h.rings.foldl (fun m p => sset zeroRing m p.1
    { p.2 with state := .disabled, cause := 0, base := 0, size := 4, tail := 0, fetched := 0, written := 0, head := 0
               outstanding := 0, pass := p.2.pass + 1 }) []

/-- The return of the host interface, before its registers. -/
def State.hostOff (s : State) : State :=
  { s with
    host := { HostIf.reset with
      rings := s.host.ringsOff
      nvme := s.host.nvme
      auxUp := s.host.auxUp
      auxReady := s.host.auxReady
      reqNo := s.host.reqNo
      cid := s.host.cid
      reqs := s.host.reqs.filter fun q => q.host.isNone
      snapBad := s.host.snapBad }
    far := { s.far with change := none }
    safe := { s.safe with rerun := false, reruns := 0 } }

/-- The return of its registers. -/
def State.regsOff (s : State) : State := hostRegs.foldl (fun s a => s.setReg a (regReset a)) s

/-- The return of the host interface. -/
def State.hostReset (s : State) : State := s.hostOff.regsOff.setField A.glbResetCause 2 0 5

/-- A release is asked for without reports. -/
def State.releasesUnasked (s : State) : State := ({ s with boot := { s.boot with releasing := 2 } } : State).putBit A.cfgStatus 29 true

theorem execFunctionLevelReset_resets (hs : s.awake = true) (hc : s.crossing cdcHost 1 = false) :
    let r := s.cutShort.hostReset
    exec .functionLevelReset s = .next (if r.boot.image.isNone then r
      else if r.releasesUnasked.neverBegan && r.releasesUnasked.canRelease then r.releasesUnasked.doRelease else r.releasesUnasked) :=
  congrArg Host.Outcome.next ((if_neg (by simp [hs])).trans (if_neg (by simp [hc])))

theorem HostIf.ringsOff_disabled (h : HostIf) (n : Nat) : (sget zeroRing h.ringsOff n).state = .disabled := by
  unfold HostIf.ringsOff
  refine List.foldlRecOn (motive := fun m => (sget zeroRing m n).state = .disabled) _ _ rfl fun m hm p _ => ?_
  rw [sget_sset]
  split
  · rfl
  · exact hm

theorem State.markReset_frame (s : State) : { s.markReset with train := s.train } = s := by
  have hm : ∀ step, { s.markFailed step with train := s.train } = s := fun step => by
    unfold State.markFailed
    split <;> rfl
  unfold State.markReset
  split
  · split
    · exact hm _
    · rfl
  · rfl

theorem State.endSweep_frame (s : State) : { s.endSweep false with host := s.host, regs := s.regs } = s := by
  unfold State.endSweep
  split
  · split <;> rfl
  · rfl

/-- The state before the host interface is returned, beside registers, log and training. -/
theorem State.cutShort_effect (hc : s.crossing cdcHost 1 = false) :
    let t := s.cutShort
    t.boot = s.boot ∧ t.stalls = s.stalls ∧ t.lasting = s.lasting ∧ t.shot = s.shot ∧
      (s.shot.begun = true → s.shot.gone = none → s.safe.abort = none → s.bit A.glbAudit 0 = false →
        t.safe.abort = some (s.cyc + 7)) := by
  unfold State.cutShort
  extract_lets t u r
  have hcross : Crossed s t := s.cross_crossed _ _
  have hregs : t.regs = s.regs := (State.cross_usable hc).2
  clear_value t
  have hu : u.boot = t.boot ∧ u.stalls = t.stalls ∧ u.lasting = t.lasting ∧ u.shot = t.shot := by
    subst u
    split
    · have h := t.orderAbort_work t.cyc
      refine ⟨h.boot, ?_, ?_, ?_⟩
      all_goals
        unfold State.orderAbort
        split <;> rfl
    · exact ⟨rfl, rfl, rfl, rfl⟩
  have habort : t.shot.begun = true → t.shot.gone = none → t.safe.abort = none → t.bit A.glbAudit 0 = false →
      u.safe.abort = some (t.cyc + 7) := fun hb hg ha hh => by
    subst u
    rw [if_pos (by simp [hb, hg, ha, hh]), t.orderAbort_orders _ hb ha hg]
  have hm : { r with train := (u.endSweep false).train } = u.endSweep false := (u.endSweep false).markReset_frame
  clear_value r
  clear_value u
  have he := u.endSweep_frame
  generalize u.endSweep false = w at hm he
  have hrb : r.boot = u.boot := (congrArg State.boot hm :).trans (congrArg State.boot he :)
  have hrs : r.stalls = u.stalls := (congrArg State.stalls hm :).trans (congrArg State.stalls he :)
  have hrl : r.lasting = u.lasting := (congrArg State.lasting hm :).trans (congrArg State.lasting he :)
  have hrt : r.shot = u.shot := (congrArg State.shot hm :).trans (congrArg State.shot he :)
  have hrf : r.safe = u.safe := (congrArg State.safe hm :).trans (congrArg State.safe he :)
  obtain ⟨hub, hus, hul, hut⟩ := hu
  have hts : t.shot = s.shot := (congrArg State.shot hcross.rest :)
  refine ⟨hrb.trans (hub.trans (congrArg State.boot hcross.rest :)), hrs.trans (hus.trans (congrArg State.stalls hcross.rest :)),
    hrl.trans (hul.trans (congrArg State.lasting hcross.rest :)), hrt.trans (hut.trans hts), fun hb hg ha hh => ?_⟩
  have hcyc : t.cyc = s.cyc := (congrArg State.cyc hcross.rest :)
  rw [hrf, ← hcyc]
  exact habort ((congrArg Shot.begun hts).trans hb) ((congrArg Shot.gone hts).trans hg)
    ((congrArg (fun v : State => v.safe.abort) hcross.rest :).trans ha)
    ((State.bit_of_reg 0 (congrArg (RegBank.get · A.glbAudit) hregs)).trans hh)

theorem State.regsOff_shows (s : State) : Shows s s.regsOff ∧ s.regsOff.host = s.host := by
  unfold State.regsOff
  generalize hostRegs = l
  exact ⟨(Shows.refl s).foldl l fun w a => w.setReg_shows a _,
    foldl_same (f := fun w a => w.setReg a (regReset a)) State.host l s fun _ _ => rfl⟩

theorem State.hostReset_effect (s : State) :
    let t := s.hostReset
    HostAnew t.host ∧ t.far.change = none ∧ t.boot = s.boot ∧ t.stalls = s.stalls ∧ t.lasting = s.lasting ∧ t.shot = s.shot ∧
      t.safe.abort = s.safe.abort ∧ t.field A.glbResetCause 2 0 = 5 := by
  intro t
  have hanew : HostAnew s.hostOff.host :=
    ⟨rfl, rfl, rfl, rfl, rfl, rfl, rfl, rfl, rfl, s.host.ringsOff_disabled, fun q hq => by simpa using (List.mem_filter.mp hq).2⟩
  obtain ⟨hoff, hoffHost⟩ := s.hostOff.regsOff_shows
  have ht : t = s.hostOff.regsOff.setField A.glbResetCause 2 0 5 := rfl
  clear_value t
  generalize s.hostOff.regsOff = w at hoff hoffHost ht
  subst ht
  have hfield := w.field_setField_same A.glbResetCause 5 (hi := 2) (lo := 0) (by decide) (by decide)
  have hshows := hoff.trans (w.setField_shows A.glbResetCause 2 0 5)
  have hhost := (w.setField_host A.glbResetCause 2 0 5).trans hoffHost
  generalize w.setField A.glbResetCause 2 0 5 = t at hfield hshows hhost
  exact ⟨hhost ▸ hanew, (congrArg (fun v : State => v.far.change) hshows.rest :), (congrArg State.boot hshows.rest :), hshows.aside.stalls,
    hshows.lasting, (congrArg State.shot hshows.rest :), (congrArg (fun v : State => v.safe.abort) hshows.rest :), hfield⟩

theorem State.releasesUnasked_effect (s : State) :
    let t := s.releasesUnasked
    t.host = s.host ∧ t.boot = { s.boot with releasing := 2 } ∧ t.shot = s.shot ∧ t.safe = s.safe ∧ t.far = s.far ∧
      t.lasting = s.lasting ∧ t.reg A.glbResetCause = s.reg A.glbResetCause ∧ t.bit A.cfgStatus 29 = true := by
  intro t
  obtain ⟨v, hv, ht⟩ : ∃ v : State, v = { s with boot := { s.boot with releasing := 2 } } ∧ t = v.putBit A.cfgStatus 29 true := ⟨_, rfl, rfl⟩
  clear_value t
  have hshows : Shows v t := ht ▸ v.putBit_shows A.cfgStatus 29 true
  have hhost : t.host = v.host := ht ▸ v.setField_host A.cfgStatus 29 29 1
  have hreg : t.reg A.glbResetCause = v.reg A.glbResetCause := ht ▸ v.reg_putBit_ne 29 true (by decide)
  have hbit : t.bit A.cfgStatus 29 = true := ht ▸ v.bit_putBit_same A.cfgStatus (by decide) true
  clear ht
  subst hv
  exact ⟨hhost, (congrArg State.boot hshows.rest :), (congrArg State.shot hshows.rest :), (congrArg State.safe hshows.rest :),
    (congrArg State.far hshows.rest :), hshows.lasting, hreg, hbit⟩

/-- A second reset that comes before the first has crossed counts as one with it. -/
theorem functionLevelReset_joins (hs : s.awake = true) (hc : s.crossing cdcHost 1 = true) :
    ∃ t, exec .functionLevelReset s = .next t ∧ t.host = s.host ∧ t.boot = s.boot ∧ Aside s t ∧ t.bit A.glbCdcStatus cdcHost = true := by
  have h := s.cross_crossed cdcHost 1
  refine ⟨_, congrArg Host.Outcome.next ((if_neg (by simp [hs])).trans (if_pos hc)), (congrArg State.host h.rest :),
    (congrArg State.boot h.rest :), ⟨h.hbm, (congrArg State.stalls h.rest :), (congrArg State.barns h.rest :),
    (congrArg State.dies h.rest :)⟩, ?_⟩
  exact (State.bit_of_reg cdcHost (congrArg (RegBank.get · A.glbCdcStatus) (State.cross_overruns hc).2)).trans
    (s.overrun_bit (by decide))

/-- What a reset that has crossed leaves, whatever the image: the host interface anew, the cause of the reset, what lasts. -/
structure FlrDone (s t : State) : Prop where
  host : HostAnew t.host
  cause : t.field A.glbResetCause 2 0 = 5
  lasting : t.lasting = s.lasting

theorem functionLevelReset_resets (hs : s.awake = true) (hc : s.crossing cdcHost 1 = false) :
    ∃ t, exec .functionLevelReset s = .next t ∧ FlrDone s t ∧ (s.boot.image = none → t.boot = s.boot ∧ t.stalls = s.stalls) ∧
      (∀ im, s.boot.image = some im → s.shot.begun = true → s.shot.gone = none → s.safe.abort = none → s.bit A.glbAudit 0 = false →
        t.safe.abort = some (s.cyc + 7) ∧ t.boot = { s.boot with releasing := 2 } ∧ t.bit A.cfgStatus 29 = true) := by
  have hexec := execFunctionLevelReset_resets hs hc
  obtain ⟨hboot, hstalls, hlast, hshot, habort⟩ := State.cutShort_effect hc
  obtain ⟨hanew, hchange, hrboot, hrstalls, hrlast, hrshot, hrabort, hfield⟩ := s.cutShort.hostReset_effect
  generalize s.cutShort.hostReset = r at hexec hanew hchange hrboot hrstalls hrlast hrshot hrabort hfield
  dsimp only at hexec
  have hrb : r.boot = s.boot := hrboot.trans hboot
  have hl : r.lasting = s.lasting := hrlast.trans hlast
  cases himage : s.boot.image with
  | none =>
    refine ⟨r, hexec.trans (congrArg Host.Outcome.next (if_pos ?_)), ⟨hanew, hfield, hl⟩, fun _ => ⟨hrb, hrstalls.trans hstalls⟩, nofun⟩
    rw [hrb, himage]
    rfl
  | some im =>
    generalize hq : r.releasesUnasked = q at hexec
    obtain ⟨hqhost, hqboot, hqshot, hqsafe, hqfar, hqlast, hqcause, hqbit⟩ := hq ▸ r.releasesUnasked_effect
    have hqanew : HostAnew q.host := hqhost ▸ hanew
    have hqchange : q.far.change = none := (congrArg Far.change hqfar).trans hchange
    rw [hrb] at hqboot
    rw [if_neg (by rw [hrb, himage]; exact Bool.false_ne_true)] at hexec
    by_cases hn : q.neverBegan && q.canRelease
    · have hb : q.shot.begun = false := by
        have hnb : q.neverBegan = true := (Bool.and_eq_true_iff.mp hn).1
        simpa using (Bool.and_eq_true_iff.mp hnb).1
      have hdo : q.doRelease = q.releaseImage false := by
        unfold State.doRelease
        rw [State.closeShot_idle hb, hqboot]
        exact congrArg q.releaseImage (decide_eq_false (show (2 : Nat) ≠ 1 by decide))
      rw [if_pos hn, hdo] at hexec
      obtain ⟨hhost, hcause⟩ := State.releaseImage_anew hqanew hqchange
      refine ⟨_, hexec, ⟨hhost, (State.field_of_reg 2 0 (hcause.trans hqcause)).trans hfield,
        (q.releaseImage_effect false).2.trans (hqlast.trans hl)⟩, nofun, fun _ _ hbegun => ?_⟩
      rw [hqshot, hrshot, hshot, hbegun] at hb
      exact absurd hb nofun
    · rw [if_neg hn] at hexec
      exact ⟨q, hexec, ⟨hqanew, (State.field_of_reg 2 0 hqcause).trans hfield, hqlast.trans hl⟩, nofun, fun _ _ hbegun hg ha hh =>
        ⟨(congrArg Safe.abort hqsafe).trans (hrabort.trans (habort hbegun hg ha hh)), hqboot, hqbit⟩⟩

/-- Settles O47: the load of an image, its release, and the Function Level Reset, each by its lemmas above. -/
theorem imagesComeAndGo : Obligations.ImagesComeAndGo := by
  intro s hs
  refine ⟨fun v im hv => ⟨?_, ?_, ?_⟩, fun v hv => ⟨?_, ?_⟩, ?_, ?_⟩
  · exact execCfgLoad_flag hs hv im
  · exact fun f n hm hi hr hf hc hsec hitem hn => cfgLoad_refused hs hv im hm hi hr hf hc hsec hitem hn
  · exact fun hm hi hr hf => cfgLoad_admitted hs hv im hm hi hr hf
  · exact execCfgRelease_turnedAway hs hv
  · intro im hi hr hres hrep hf
    have hi' : s.boot.image.isSome = true := by rw [hi]; rfl
    refine ⟨cfgRelease_waits hs hv hi' hr hres hrep hf, fun hn hruns hp => ?_⟩
    obtain ⟨t, hexec, h, hl⟩ := cfgRelease_releases hs hv hi' hr hres hrep hf hn hruns hp
    simp only [State.lasting, Prod.mk.injEq] at hl
    exact ⟨t, hexec, h.image, h.releasing, h.mode, h.moves, h.frames, h.epoch, hl.1, hl.2.1⟩
  · exact functionLevelReset_joins hs
  · intro hc
    obtain ⟨t, hexec, ⟨hh, hcause, hl⟩, hnone, hshot⟩ := functionLevelReset_resets hs hc
    simp only [State.lasting, Prod.mk.injEq] at hl
    obtain ⟨hhbm, hfenced, hflash⟩ := hl
    have hoff : t.hostOk = false := by
      unfold State.hostOk
      rw [hh.busMaster]
      rfl
    exact ⟨t, hexec, hh.entries, hh.runs, hh.comps, hh.packets, hh.acks, hh.waiting, hh.sweep, hoff, hh.rings, hh.reqs, hcause, hhbm, hfenced,
      hflash, hnone, hshot⟩

end Sys2Proof.Machine
end

/-!
# Serving requests: a counterexample

The last clause of the statement asks that no byte of the output is withheld by `rd.2.2.1.any id = false`. There `id` is the request's number,
which the clause binds, and not the identity: cast to a function on truth values it is the constant function of its parity. For a request of
an even number the condition says nothing, and withheld output then fails the request (R40, R290) where the statement wants it delivered.
-/
section
namespace Sys2Proof.Machine

open Sys2Proof.Safety

/-- A slice that serves class 5, delivered 3,000 cycles after the shot begins. -/
def lostSlice : Slice := ⟨true, [], 5, 1000, 2000, 3000, 4000, 1, false⟩

/-- A plan with that slice. -/
def lostPlan : Plan := ⟨0, 0, [], [], [lostSlice], [], [], [], [], [], [], [], [], [], [], false⟩

/-- The area of the slice: its output is the 64 bytes from module address 4096 on. -/
def lostArea : ServeArea := ⟨5, 0, 0, 64, 4096, 64⟩

/-- An image with that plan and area; its one region is the whole of stack 0. -/
def lostImage : Image :=
  ⟨0, [lostPlan], [], [], [], [], [], [⟨0, 2 ^ 36, 0, 0, 0, 0, true, false, 0, 0⟩], [], [], [], none, none, none, Fabric.alone, [lostArea],
    ⟨0, 0, 0, []⟩, false, []⟩

/-- Request 0, of token 77, accepted from port 8 into the slice in shot 0. -/
def lostRequest : Request := ⟨0, none, 0, 0, 77, 8, 5, 0, 0, 0, 0, 0, some 64, true, none, [(0, [])], 0⟩

/-- Shot 0 runs the plan, port 8 is up, and the first unit of the output has three bad symbols. -/
def lostState : State :=
  { State.reset with
    boot := { Boot.reset with mode := .run, stage := 7, image := some lostImage }
    shot := { Shot.reset with begun := true, plan := some 0, no := 0 }
    host := { HostIf.reset with reqs := [lostRequest] }
    fab := { Fab.reset with ports := [(8, { Port.reset with up := true })] }
    bad := [(unitKey 0 4096, ⟨3, []⟩)] }

/-- The lengths of the payloads of the frames that an outcome has sent. -/
def sentLengths : Host.Outcome State Fault Refusal → List Nat
  | .next t => t.out.filterMap fun
    | .frame _ g => some g.payload.length
    | _ => none
  | _ => []

/-- What is sent is the code of the failure alone, 2 bytes (R40). -/
theorem sentLengths_lostState : sentLengths (exec (.serveDelivery 0) lostState) = [2] := by decide +kernel

/-- The bytes read of the output. -/
def lostRead : State × List Byte × List Bool × Bool :=
  let m := lostState.at_ (lostState.shot.begin_ + lostSlice.delivery)
  m.readMem (lostArea.outBase + lostRequest.slot * lostArea.outSlot) lostArea.outSlot m.cyc

theorem lostRead_length : lostRead.2.1.length = 64 := by decide +kernel

/-- Number 0, taken for a function on truth values, is false everywhere. -/
theorem any_zero (l : List Bool) : l.any ((0 : Nat) : Bool → Bool) = false := List.any_eq_false.mpr fun _ _ => Bool.false_ne_true

/-- Refutes O36: the output of request 0 is withheld, and its delivery sends the 2 bytes of a code where the statement has the 64 bytes. -/
theorem not_servingRequests : ¬ Obligations.ServingRequests := by
  intro h
  obtain ⟨-, -, -, hdelivery⟩ := h lostState
  obtain ⟨hreply, -, -⟩ := hdelivery 0 lostRequest lostPlan lostSlice lostArea (by decide) (by decide) rfl rfl rfl rfl rfl rfl rfl rfl
  obtain ⟨t, g, hexec, -, -, -, -, hout, -, -, hpayload⟩ := hreply rfl (any_zero lostRead.2.2.1) (lostRead_length.trans_le (by decide)) (by decide) (by decide)
  have hsent : sentLengths (.next t) = [g.payload.length] := by
    dsimp only [sentLengths]
    rw [hout]
    rfl
  have hlen : g.payload.length = 64 := by
    rw [hpayload, List.length_take]
    exact congrArg (min 1792) lostRead_length
  have htwo := sentLengths_lostState
  rw [hexec, hsent, hlen] at htwo
  exact absurd htwo (by decide)

end Sys2Proof.Machine
end

/-!
# Pony transfers

The acceptance of a transfer, its delivery to HBM, and the drain of a pony buffer's entry (R54, R266, R270, R281, R287, R291).
-/
section
namespace Sys2Proof.Machine

open Sys2Proof.Safety

variable {s : State}

/-! ### What the port's operations leave alone -/

theorem State.dropPonies_only (s : State) (i x : Nat) : StallsOnly s (s.dropPonies i x) := by
  unfold State.dropPonies
  split
  · exact .refl s
  · exact s.onStall_only _ _ _

/-- Room reserved in pony buffers changes the stacks alone. -/
theorem State.reserveHbm_frame {u : State} {room : Nat} {l : List (Nat × Nat × Nat × Nat)} (h : s.reserveHbm room l = some u) :
    { u with dies := s.dies } = s := by
  induction l generalizing s with
  | nil =>
    cases h
    rfl
  | cons r l ih =>
    obtain ⟨o, n, j, sa⟩ := r
    unfold State.reserveHbm at h
    split at h
    · exact (congrArg (fun w : State => { w with dies := s.dies }) (ih h) :)
    · cases h

/-- Room reserved in a stall changes its gather entries alone. -/
theorem Stall.reserve_frame {t t' : Stall} {x a len room : Nat} (h : t.reserve x a len room = some t') :
    t'.pony = t.pony ∧ t'.spd.mem = t.spd.mem := by
  unfold Stall.reserve at h
  extract_lets lines new g add at h
  split at h
  · cases h
    exact ⟨rfl, rfl⟩
  · cases h

/-! ### Acceptance -/

/-- The head transfer of v's port i is offered to its destination. -/
theorem execPonyAccept_offered {i : StallId} (hc : s.clocked = true) {p0 : Pony} {q0 : List Pony} (hq : (s.stall i.val).pony.queue = p0 :: q0)
    {x0 : Nat} (hx : max (s.stallNow i.val) (max p0.offer (match (s.stall i.val).pony.lastAccept with | some y => y + 1 | none => 0)) = x0)
    {v : State} (hv : (s.onStall i.val x0 fun t => t.ponyCheck x0 noTack).dropPonies i.val x0 = v) {p : Pony} {q : List Pony}
    (hp : (v.stall i.val).pony.queue = p :: q) :
    (∀ k a, v.ponyDest i.val p = some (.stall k a) → exec (.ponyAccept i) s = .next (v.acceptStall i.val k (max x0 p.offer) a 12 p)) ∧
      (∀ a, v.ponyDest i.val p = some (.hbm a) → exec (.ponyAccept i) s = .next (v.acceptHbm i.val (max x0 p.offer) a 32 p)) := by
  refine ⟨fun k a hd => ?_, fun a hd => ?_⟩
  all_goals
    show Host.Outcome.next (s.acceptNext i.val false) = _
    unfold State.acceptNext
    rw [hq]
    dsimp only
    rw [if_neg (by simp [hc])]
    generalize hX : max (s.stallNow i.val) (max p0.offer (match (s.stall i.val).pony.lastAccept with | some y => y + 1 | none => 0)) = X
    obtain rfl : X = x0 := hX.symm.trans hx
    rw [hv, hp]
    dsimp only
    rw [hd]
    rfl

/-- A destination stall that expects a transfer: its tag stands, and the wait for entries is counted. -/
def Stall.expecting (t : Stall) (x fin a len from_ : Nat) : Stall := (t.newWid.1.addTag x fin a len t.newWid.2).pressed from_ x

theorem Stall.expecting_frame (t : Stall) (x fin a len from_ : Nat) :
    (t.expecting x fin a len from_).pony.queue = t.pony.queue ∧ (t.expecting x fin a len from_).pony.flying = t.pony.flying ∧
      (t.expecting x fin a len from_).spd.gather = t.spd.gather ∧ (t.expecting x fin a len from_).spd.mem = t.spd.mem := ⟨rfl, rfl, rfl, rfl⟩

theorem State.acceptStall_reserved {v : State} {i k x a room : Nat} {p : Pony} {t' : Stall}
    (h : ((v.sync k (max x (v.stall k).clk)).stall k).reserve x a p.len room = some t') :
    ∃ from_, v.acceptStall i k x a room p =
      (((v.sync k (max x (v.stall k).clk)).at_ x).setStall k
        (t'.expecting x (x + (if k / 80 = i / 80 then 40 else 110)) a p.len from_)).modStall i fun t =>
          t.acceptPony x (x + (if k / 80 = i / 80 then 40 else 110)) { p with wid := t'.newWid.2 } (.stall k a) := by
  refine ⟨max p.offer (match ((v.sync k (max x (v.stall k).clk)).stall i).pony.lastAccept with | some y => y + 1 | none => 0), ?_⟩
  unfold State.acceptStall
  dsimp only
  rw [h]
  rfl

/-- A transfer whose destination stall has room for its lines leaves the queue for its delivery. -/
theorem State.acceptStall_accepts {v : State} {i k x a room : Nat} {p : Pony} {t' : Stall} :
    let w := v.sync k (max x (v.stall k).clk)
    (w.stall k).reserve x a p.len room = some t' →
      let t := v.acceptStall i k x a room p
      ∃ f, x ≤ t.cyc ∧ (t.stall i).pony.queue = (w.stall i).pony.queue.drop 1 ∧ (t.stall i).pony.flying = (w.stall i).pony.flying ++ [f] ∧
        f.accepted = some x ∧ f.dest = some (.stall k a) ∧ f.fin = x + (if k / 80 = i / 80 then 40 else 110) ∧
        (t.stall k).spd.gather = t'.spd.gather ∧ (t.stall k).spd.mem = (w.stall k).spd.mem := by
  intro w h t
  obtain ⟨hpony, hmem⟩ := Stall.reserve_frame h
  obtain ⟨from_, ht⟩ := State.acceptStall_reserved (i := i) h
  obtain ⟨huq, huf, hug, hum⟩ := t'.expecting_frame x (x + (if k / 80 = i / 80 then 40 else 110)) a p.len from_
  generalize t'.expecting x (x + (if k / 80 = i / 80 then 40 else 110)) a p.len from_ = u at ht huq huf hug hum
  generalize t'.newWid.2 = wid at ht
  replace ht : t = ((w.at_ x).setStall k u).modStall i fun t =>
    t.acceptPony x (x + (if k / 80 = i / 80 then 40 else 110)) { p with wid := wid } (.stall k a) := ht
  clear_value t
  subst ht
  have hi : (((w.at_ x).setStall k u).stall i).pony.queue = (w.stall i).pony.queue ∧
      (((w.at_ x).setStall k u).stall i).pony.flying = (w.stall i).pony.flying := by
    rw [State.stall_setStall]
    split
    next hik =>
      subst hik
      exact ⟨huq.trans (congrArg PonyPort.queue hpony), huf.trans (congrArg PonyPort.flying hpony)⟩
    · exact ⟨rfl, rfl⟩
  have hk : ((((w.at_ x).setStall k u).modStall i (fun t => t.acceptPony x (x + (if k / 80 = i / 80 then 40 else 110)) { p with wid := wid }
      (.stall k a))).stall k).spd = u.spd := by
    rw [State.stall_modStall]
    split
    next hki =>
      subst hki
      exact (congrArg Stall.spd (State.stall_setStall k k u)).trans (congrArg Stall.spd (if_pos rfl))
    · exact (congrArg Stall.spd (State.stall_setStall k k u)).trans (congrArg Stall.spd (if_pos rfl))
  refine ⟨{ p with wid := wid, dest := some (.stall k a), accepted := some x, fin := x + (if k / 80 = i / 80 then 40 else 110) },
    le_max_right _ _, ?_, ?_, rfl, rfl, rfl, (congrArg Spad.gather hk).trans hug, (congrArg Spad.mem hk).trans (hum.trans hmem)⟩
  · rw [State.stall_modStall, if_pos rfl]
    exact congrArg (List.drop 1) hi.1
  · rw [State.stall_modStall, if_pos rfl]
    exact congrArg (· ++ _) hi.2

/-- A transfer of bytes that all lie in regions, for whose units the buffers have room, leaves the queue for its delivery. -/
theorem State.acceptHbm_accepts {v u : State} {i x a room o n j sa : Nat} {p : Pony} {q : List Pony} {l : List (Nat × Nat × Nat × Nat)}
    (hq : (v.stall i).pony.queue = p :: q) (hl : v.ponyParts a p.len = (o, n, j, sa) :: l)
    (hsum : ((v.ponyParts a p.len).map fun r => r.2.1).sum = p.len) (hu : v.reserveHbm room (v.ponyParts a p.len) = some u) :
    let t := v.acceptHbm i x a room p
    ∃ f, x ≤ t.cyc ∧ (t.stall i).pony.queue = q ∧ (t.stall i).pony.flying = (v.stall i).pony.flying ++ [f] ∧ f.accepted = some x ∧
      f.fin = x + (if j / 4 = i / 80 then 40 else 110) ∧ t.dies = u.dies ∧ t.hbm = v.hbm := by
  have hwhole : (v.ponyParts a p.len).foldl (fun n q => n + q.2.1) 0 = p.len := by
    rw [List.sum_eq_foldl, List.foldl_map] at hsum
    exact hsum
  have hframe := State.reserveHbm_frame hu
  intro t
  have ht : t = (u.at_ x).modStall i fun t => t.acceptPony x (x + (if j / 4 = i / 80 then 40 else 110)) p (.hbm a) := by
    show v.acceptHbm i x a room p = _
    unfold State.acceptHbm
    dsimp only
    rw [hwhole, hu, hl]
    exact if_pos (decide_eq_true rfl)
  clear_value t
  subst ht
  have hstalls : (u.at_ x).stall i = v.stall i := (congrArg (fun w : State => w.stall i) hframe :)
  refine ⟨{ p with dest := some (.hbm a), accepted := some x, fin := x + (if j / 4 = i / 80 then 40 else 110) }, le_max_right _ _, ?_, ?_,
    rfl, rfl, rfl, (congrArg State.hbm hframe :)⟩
  · rw [State.stall_modStall, if_pos rfl, hstalls]
    exact congrArg (List.drop 1) hq
  · rw [State.stall_modStall, if_pos rfl, hstalls]
    rfl

/-! ### Delivery -/

/-- The bytes of a transfer enter the pony buffers of the stacks in which its parts lie. -/
def State.fillPonies (s : State) (a : Nat) (p : Pony) : State :=
  (s.ponyParts a p.len).foldl (fun w r => w.setStack r.2.2.1 ((w.stack r.2.2.1).fill r.2.2.2 (bytesAt p.bytes r.1 r.2.1))) (s.at_ p.fin)

theorem State.fillPonies_frame (s : State) (a : Nat) (p : Pony) : { s.fillPonies a p with dies := s.dies } = s.at_ p.fin := by
  unfold State.fillPonies
  exact List.foldlRecOn (motive := fun w : State => { w with dies := s.dies } = s.at_ p.fin) _ _ rfl fun _ hw _ _ => hw

theorem execPonyDelivery_hbm {i : StallId} (hc : s.clocked = true) {p : Pony} (hp : (s.stall i.val).pony.first = some p) {a : Nat}
    (hd : p.dest = some (.hbm a)) :
    exec (.ponyDelivery i) s = .next ((s.fillPonies a p).onStall i.val (max p.fin (s.stall i.val).clk) fun t => t.deliverPony p) := by
  have hstall : (s.fillPonies a p).stall i.val = s.stall i.val := (congrArg (fun w : State => w.stall i.val) (s.fillPonies_frame a p) :)
  rw [← hstall]
  show execPonyDelivery i s = _
  unfold execPonyDelivery
  dsimp only
  rw [hp]
  dsimp only
  rw [if_neg (by simp [hc]), hd]
  rfl

theorem ponyDelivery_delivers {i : StallId} (hc : s.clocked = true) {p : Pony} (hp : (s.stall i.val).pony.first = some p) {a : Nat}
    (hd : p.dest = some (.hbm a)) :
    let w := s.fillPonies a p
    let u := w.sync i.val (max p.fin (s.stall i.val).clk)
    ∃ t, exec (.ponyDelivery i) s = .next t ∧ p.fin ≤ t.cyc ∧ t.dies = w.dies ∧ t.hbm = s.hbm ∧
      (t.stall i.val).pony.delivered = satAdd 0xFFFFFFFF (u.stall i.val).pony.delivered 1 := by
  intro w u
  have hframe : { w with dies := s.dies } = s.at_ p.fin := s.fillPonies_frame a p
  refine ⟨_, execPonyDelivery_hbm hc hp hd, ?_⟩
  have honly := w.onStall_only i.val (max p.fin (s.stall i.val).clk) fun t => t.deliverPony p
  have hstall := w.onStall_stall i.val (max p.fin (s.stall i.val).clk) fun t => t.deliverPony p
  have hcyc : w.cyc = max s.cyc p.fin := (congrArg State.cyc hframe :)
  have hhbm : w.hbm = s.hbm := (congrArg State.hbm hframe :)
  refine ⟨?_, (congrArg State.dies honly.rest :), honly.hbm.trans hhbm, (congrArg (fun t : Stall => t.pony.delivered) hstall :)⟩
  rw [show (w.onStall i.val (max p.fin (s.stall i.val).clk) fun t => t.deliverPony p).cyc = w.cyc from (congrArg State.cyc honly.rest :), hcyc]
  exact le_max_right _ _

/-! ### Drain -/

/-- The pony buffer without the bytes of a unit; an entry that an accepted transfer holds stays. -/
def Stack.drained (k : Stack) (unit : Nat) : Stack :=
  { k with pony := k.pony.filterMap fun f =>
    if f.unit = unit then (if f.held = 0 then none else some { f with bytes := List.replicate 32 none }) else some f }

theorem Stack.drained_empty {k : Stack} {unit : Nat} {f : PonyEntry} (hf : f ∈ (k.drained unit).pony) (hu : f.unit = unit) :
    f.held ≠ 0 ∧ ∀ b ∈ f.bytes, b = none := by
  obtain ⟨g, -, hg⟩ := List.mem_filterMap.mp hf
  split at hg
  · split at hg
    · cases hg
    next hheld =>
      cases hg
      exact ⟨hheld, fun b hb => List.eq_of_mem_replicate hb⟩
  next hne =>
    cases hg
    exact absurd hu hne

/-- Valid bytes laid over those stored. -/
def laidOver (old : List Byte) (new : List (Option Byte)) : List Byte := (old.zip new).map fun p => p.2.getD p.1

theorem execBaseDiePonyDrain_clean {j : StackId} {e : PonyEntry} (hc : s.clocked = true)
    (he : (s.stack j.val).pony.find? (fun e => e.bytes.any (·.isSome)) = some e)
    (hb : sget noBad s.bad (unitKey j.val (e.unit * 32)) = ⟨0, []⟩) :
    exec (.baseDiePonyDrain j) s = .next ((s.setStack j.val ((s.stack j.val).drained e.unit)).encodeUnit j.val (e.unit * 32)
      (laidOver (s.unitBytes j.val (e.unit * 32)) e.bytes)) := by
  have hdecode : (s.setStack j.val ((s.stack j.val).drained e.unit)).decodeUnit j.val (e.unit * 32) =
      (s.unitBytes j.val (e.unit * 32), .clean) := by
    show s.decodeUnit j.val (e.unit * 32) = _
    unfold State.decodeUnit
    rw [hb]
    rfl
  show execBaseDiePonyDrain j s = _
  unfold execBaseDiePonyDrain
  rw [he]
  dsimp only
  rw [if_neg (by simp [hc]), show s.setStack j.val { s.stack j.val with pony := (s.stack j.val).pony.filterMap fun f =>
    if f.unit = e.unit then (if f.held = 0 then none else some { f with bytes := List.replicate 32 none }) else some f } =
    s.setStack j.val ((s.stack j.val).drained e.unit) from rfl, hdecode]
  rfl

theorem laidOver_length {old : List Byte} {new : List (Option Byte)} (h : old.length = new.length) : (laidOver old new).length = new.length := by
  simp [laidOver, h]

theorem laidOver_get {old : List Byte} {new : List (Option Byte)} (h : old.length = new.length) {q : Nat} (hq : q < new.length) :
    (laidOver old new)[q]?.getD 0 = match new.getD q none with | some b => b | none => old.getD q 0 := by
  have ho : q < old.length := h ▸ hq
  have hl : (laidOver old new)[q]? = some (new[q].getD old[q]) := by
    simp [laidOver, ho, hq]
  rw [hl, List.getD_eq_getElem _ _ hq, List.getD_eq_getElem _ _ ho]
  cases new[q] <;> rfl

theorem State.encodeUnit_frame (s : State) (j a : Nat) (bs : List Byte) :
    (s.encodeUnit j a bs).stalls = s.stalls ∧ (s.encodeUnit j a bs).log = s.log ∧ (s.encodeUnit j a bs).shot = s.shot ∧
      (s.encodeUnit j a bs).dies = s.dies := ⟨rfl, rfl, rfl, rfl⟩

theorem ponyDrain_drains {j : StackId} {e : PonyEntry} (hc : s.clocked = true)
    (he : (s.stack j.val).pony.find? (fun e => e.bytes.any (·.isSome)) = some e) (hlen : e.bytes.length = 32)
    (hb : sget noBad s.bad (unitKey j.val (e.unit * 32)) = ⟨0, []⟩) :
    ∃ t, exec (.baseDiePonyDrain j) s = .next t ∧
      (∀ q < 32, t.hbm.get (hkey j.val (e.unit * 32) + q) =
        match e.bytes.getD q none with | some b => b | none => s.hbm.get (hkey j.val (e.unit * 32) + q)) ∧
      (∀ b, b < hkey j.val (e.unit * 32) ∨ hkey j.val (e.unit * 32) + 32 ≤ b → t.hbm.get b = s.hbm.get b) ∧
      t.stalls = s.stalls ∧ t.log = s.log ∧ t.shot = s.shot ∧
      (∀ f ∈ (t.stack j.val).pony, f.unit = e.unit → f.held ≠ 0 ∧ ∀ b ∈ f.bytes, b = none) := by
  have hold : (s.unitBytes j.val (e.unit * 32)).length = e.bytes.length := by simp [State.unitBytes, Memory.read, sgetList, hlen]
  have hnew : (laidOver (s.unitBytes j.val (e.unit * 32)) e.bytes).length = 32 := (laidOver_length hold).trans hlen
  have hunit : e.unit * 32 / 32 * 32 = e.unit * 32 := by omega
  obtain ⟨t, hexec, hhbm, hrest⟩ : ∃ t, exec (.baseDiePonyDrain j) s = .next t ∧
      t.hbm = s.hbm.write (hkey j.val (e.unit * 32)) (laidOver (s.unitBytes j.val (e.unit * 32)) e.bytes) ∧
      t.stalls = s.stalls ∧ t.log = s.log ∧ t.shot = s.shot ∧ t.dies = (s.setStack j.val ((s.stack j.val).drained e.unit)).dies := by
    refine ⟨_, execBaseDiePonyDrain_clean hc he hb, ?_, State.encodeUnit_frame _ _ _ _⟩
    show s.hbm.write (hkey j.val (e.unit * 32 / 32 * 32)) (bytesAt _ 0 32) = _
    rw [hunit, bytesAt_self hnew]
  obtain ⟨hstalls, hlog, hshot, hdies⟩ := hrest
  refine ⟨t, hexec, fun q hq => ?_, fun b hout => ?_, hstalls, hlog, hshot, fun f hf hu => ?_⟩
  · rw [hhbm, Memory.get_write, if_pos (by omega), Nat.add_sub_cancel_left, laidOver_get hold (by omega)]
    have hget : (s.unitBytes j.val (e.unit * 32)).getD q 0 = s.hbm.get (hkey j.val (e.unit * 32) + q) := by
      unfold State.unitBytes
      rw [hunit]
      simp [Memory.read, sgetList, Memory.get, hq]
    rw [hget]
  · rw [hhbm, Memory.get_write_outside _ (by omega)]
  · have hstack : t.stack j.val = (s.stack j.val).drained e.unit :=
      (congrArg (fun d => sget zeroStack d j.val) hdies).trans ((State.stack_setStack _ _ _).trans (if_pos rfl))
    exact Stack.drained_empty (hstack ▸ hf) hu

/-- Settles O16: the acceptance of a transfer, its delivery to HBM, and the drain of a pony buffer's entry, each by its lemmas above. -/
theorem ponyTransfers : Obligations.PonyTransfers := by
  refine ⟨fun s i hc => ⟨?_, fun p hp a hd => ponyDelivery_delivers hc hp hd⟩, fun s j e hc he hlen _ hb => ponyDrain_drains hc he hlen hb⟩
  intro p0 q0 hq x0 v p q hp x
  obtain ⟨hstall, hhbm⟩ := execPonyAccept_offered hc hq (x0 := x0) rfl (v := v) rfl hp
  have honly : StallsOnly s v := (s.onStall_only _ _ _).trans (State.dropPonies_only _ _ _)
  clear_value v
  refine ⟨?_, fun a o n j sa l u hd hl hsum hu => ?_⟩
  · intro k a t' hd w hr
    obtain ⟨f, hf⟩ := State.acceptStall_accepts (i := i.val) hr
    exact ⟨_, f, hstall k a hd, hf⟩
  · obtain ⟨f, hcyc, hqueue, hfly, hacc, hfin, hdies, hv⟩ := State.acceptHbm_accepts (x := x) hp hl hsum hu
    exact ⟨_, f, hhbm a hd, hcyc, hqueue, hfly, hacc, hfin, hdies, hv.trans honly.hbm⟩

end Sys2Proof.Machine
end

/-!
# Issue of the instructions of the outer-product engine

What each instruction of opcodes 0x20 to 0x27 leaves in its stall where its fields are legal and its rules on the state are met (R105 to
R132).
-/
section
namespace Sys2Proof.Machine

open Sys2Proof.Safety

variable {st : Stall} {c : Nat} {w : Insn} {tack : Nat}

/-! ### An issue as seen from the engines -/

theorem ope_of_quietly {t u : Stall} (h : quietly t = quietly u) : t.ope = u.ope := (congrArg Stall.ope h :)

theorem vec_of_quietly {t u : Stall} (h : quietly t = quietly u) : t.vec = u.vec := (congrArg Stall.vec h :)

/-- An instruction of an opcode other than CTL.WAIT's, whose effect is `v`, retires at its issue cycle and leaves the engines as `v` has them. -/
theorem State.issue_selOp {s : State} {i : Nat} {f : Fetched} {op : Nat} {eff : Stall → Nat → Insn → Nat → Issue} {v : Stall}
    (h : Issues s i f c) (hop : opcodeOf f.word = op) (hwait : op ≠ 0x02)
    (he : eff (atIssue s i (opcodeOf f.word) c) c f.word f.index = .done v) :
    Retired (s.issue i (selOp op) eff) i f c c ∧ ((s.issue i (selOp op) eff).stall i).ope = v.ope ∧
      ((s.issue i (selOp op) eff).stall i).vec = v.vec := by
  have hsel : selOp op f.word f.check = true := by simp [selOp, hop, h.good]
  have hdone := State.issue_done h hsel he
  have hret := State.issue_retired h hsel he
  rw [if_neg (hop.trans_ne hwait)] at hret
  exact ⟨hret, (ope_of_quietly hdone :), (vec_of_quietly hdone :)⟩

/-! ### Passes, descriptors and the shape -/

theorem Ope.setDesc_frame (o : Ope) (n : Nat) (d : Desc) : (o.setDesc n d).passes = o.passes ∧ (o.setDesc n d).passNo = o.passNo := by
  simp only [Ope.setDesc, and_self]

theorem issueAcc_done (h0 : bitsOf w 15 0 = 0) (hn : bitsOf w 32 17 ≠ 0) (ht : tileValid st.ope.shape st.ope.fp (bitsOf w 43 39) = true)
    (hc : descIllegal (st.ope.desc (bitsOf w 38 36)).active = false) (hr : descIllegal (st.ope.desc (bitsOf w 35 33)).active = false)
    (hw : st.wholeBusy = false) (hb : st.crestBars c = false)
    (hd : ∀ m, st.ope.move = some m → m.kind = .drain → ∀ g ∈ m.groups, g ∉ tileGroups st.ope.shape (bitsOf w 43 39))
    (he : st.ope.castEnd ≤ c + max (dLat (st.ope.desc (bitsOf w 38 36)).active) (dLat (st.ope.desc (bitsOf w 35 33)).active) + 3) :
    ∃ (v : Stall) (p : Pass), issueAcc st c w tack = .done v ∧ v.ope.passes = st.ope.passes ++ [p] ∧ v.ope.passNo = st.ope.passNo + 1 ∧
      p.issue = c ∧ p.pass = st.ope.passNo + 1 ∧ p.steps = bitsOf w 32 17 ∧ p.groups = tileGroups st.ope.shape (bitsOf w 43 39) ∧
      p.cycles = (tileGroups st.ope.shape (bitsOf w 43 39)).length *
        (if isDual (dArrayCode (st.ope.desc (bitsOf w 38 36)).active) (dArrayCode (st.ope.desc (bitsOf w 35 33)).active) = true
          then (bitsOf w 32 17 + 1) / 2 else bitsOf w 32 17) := by
  unfold issueAcc
  extract_lets o t cd rd n cont dc dr gs dual u r drains sc sr o1 o2 feed p
  have hdrains : drains = false := by
    subst drains
    split
    next m hm =>
      by_cases hk : m.kind = .drain
      · simpa [hk] using hd m hm hk
      · simp [hk]
    · rfl
  have hlegal : ¬(bitsOf w 15 0 ≠ 0 ∨ n = 0 ∨ (!tileValid o.shape o.fp t) = true ∨ descIllegal dc.active = true ∨
      descIllegal dr.active = true) := by
    simp [h0, ht, hc, hr, n, hn, o, t, dc, dr, cd, rd]
  have hmet : ¬(st.wholeBusy || st.crestBars c || drains || decide (c + r + 3 < o.castEnd)) = true := by
    simp [hw, hb, hdrains, Nat.not_lt.mpr he, r, o, dc, dr, cd, rd]
  have hframe : o2.passes = o.passes ∧ o2.passNo = o.passNo := by
    subst o2
    split
    · exact o.setDesc_frame _ _
    · exact o1.setDesc_frame _ _
  obtain ⟨hpasses, hno⟩ := hframe
  rw [if_neg hlegal, if_neg hmet]
  exact ⟨_, p, rfl, by rw [hpasses], by rw [hno], rfl, congrArg (· + 1) hno, rfl, rfl, rfl⟩

theorem issueKeepwarm_done (h0 : bitsOf w 29 0 = 0) (hw : st.wholeBusy = false) (he : st.ope.castEnd ≤ c + 7) :
    issueKeepwarm st c w tack = .done { st with ope := { st.ope with
      passNo := st.ope.passNo + 1
      warm := (st.ope.warm + warmCycles (bitsOf w 43 33 + 1) (bitsOf w 32 30)) % 2 ^ 32
      discard := Config.discard (st.ope.passNo + 1)
      flights := st.ope.flights ++ [⟨c, c + 6 + (bitsOf w 43 33 + 1), c + 10 + (bitsOf w 43 33 + 1), []⟩] } } := by
  unfold issueKeepwarm
  rw [if_neg (by simp [h0]), if_neg (by simp [hw, he])]

theorem issueLddesc_done (h0 : bitsOf w 22 0 = 0) (hw : st.wholeBusy = false) (hb : st.crestBars c = false) :
    issueLddesc st c w tack = .done { st with ope := { st.ope with
      loads := st.ope.loads ++ [(bitsOf w 43 41, 16 * bitsOf w 40 23 % spdSize, tack)] } } := by
  unfold issueLddesc
  rw [if_neg (by simp [h0]), if_neg (by simp [hw, hb])]

theorem issueShape_done (h0 : bitsOf w 39 0 = 0) (hwin : bitsOf w 41 41 = 1 → bitsOf w 43 42 = 3 ∧ bitsOf w 40 40 = 0)
    (hm : st.moveBusy c = false) (hf : ∀ x ∈ st.ope.flights, x.lastAdd < c) :
    issueShape st c w tack = .done { st with vec := { st.vec with
      changes := st.vec.changes ++ [(c + 1, .shape (bitsOf w 43 42) (decide (bitsOf w 41 41 = 1)) (decide (bitsOf w 40 40 = 1)))] } } := by
  have hlegal : ¬(bitsOf w 39 0 ≠ 0 ∨
      (decide (bitsOf w 41 41 = 1) = true ∧ (bitsOf w 43 42 ≠ 3 ∨ decide (bitsOf w 40 40 = 1) = true))) := by
    rintro (h | ⟨h, hs | hp⟩)
    · exact h h0
    · exact hs (hwin (of_decide_eq_true h)).1
    · have hz := (hwin (of_decide_eq_true h)).2
      exact absurd (hz.symm.trans (of_decide_eq_true hp)) (by decide)
  have hflights : (st.ope.flights.any fun x => decide (c ≤ x.lastAdd)) = false := by
    simpa using hf
  unfold issueShape
  extract_lets
  rw [if_neg hlegal, if_neg (by rw [hm, hflights]; decide)]

/-! ### Groups cleared -/

/-- `o'` is `o` with the groups `gs` cleared, as far as their expected residues and lowest accepted passes tell. -/
structure Ope.Cleared (o o' : Ope) (gs : List Nat) : Prop where
  fp : o'.fp = o.fp
  passNo : o'.passNo = o.passNo
  expect : ∀ g, sget zeroNat o'.expect g = if g ∈ gs then 0 else sget zeroNat o.expect g
  minPass : ∀ g, sget zeroNat o'.minPass g = if g ∈ gs then o.passNo + 1 else sget zeroNat o.minPass g

/-- A group's own clearing: era and mode decide the elements alone. -/
theorem Ope.clearGroup_frame (o : Ope) (fp : Bool) (g : Nat) :
    (o.clearGroup fp g).fp = o.fp ∧ (o.clearGroup fp g).passNo = o.passNo ∧ (o.clearGroup fp g).anchors = o.anchors ∧
      (o.clearGroup fp g).expect = sset zeroNat o.expect g 0 ∧
      (o.clearGroup fp g).minPass = sset zeroNat o.minPass g (o.passNo + 1) := by
  unfold Ope.clearGroup
  extract_lets cells p
  have hp : p.fp = o.fp ∧ p.passNo = o.passNo ∧ p.anchors = o.anchors ∧ p.expect = o.expect ∧ p.minPass = o.minPass := by
    subst p
    split <;> split <;> exact ⟨rfl, rfl, rfl, rfl, rfl⟩
  obtain ⟨hfp, hno, hanchors, hexpect, hmin⟩ := hp
  exact ⟨hfp, hno, hanchors, by rw [hexpect], by rw [hmin, hno]⟩

theorem Ope.clearGroup_cleared (o : Ope) (fp : Bool) (g : Nat) : o.Cleared (o.clearGroup fp g) [g] := by
  obtain ⟨hfp, hno, -, hexpect, hmin⟩ := o.clearGroup_frame fp g
  exact ⟨hfp, hno, fun k => by simp [hexpect, sget_sset], fun k => by simp [hmin, sget_sset]⟩

/-- Clearing groups one after another clears them all. -/
theorem Ope.Cleared.foldl {f : Ope → Nat → Ope} (hf : ∀ (o : Ope) g, o.Cleared (f o g) [g]) (gs : List Nat) (o : Ope) :
    o.Cleared (gs.foldl f o) gs := by
  induction gs generalizing o with
  | nil => exact ⟨rfl, rfl, fun _ => rfl, fun _ => rfl⟩
  | cons a gs ih =>
    have hhead := hf o a
    have htail := ih (f o a)
    refine ⟨htail.fp.trans hhead.fp, htail.passNo.trans hhead.passNo, fun g => ?_, fun g => ?_⟩
    · rw [List.foldl_cons, htail.expect, hhead.expect]
      by_cases hg : g ∈ gs <;> simp [hg]
    · rw [List.foldl_cons, htail.minPass, hhead.minPass, hhead.passNo]
      by_cases hg : g ∈ gs <;> simp [hg]

theorem Ope.Cleared.setMove {o p : Ope} {gs : List Nat} (h : o.Cleared p gs) (m : Option Move) : o.Cleared { p with move := m } gs :=
  ⟨h.fp, h.passNo, h.expect, h.minPass⟩

/-- One group of `Ope.anchorClear`. -/
def Ope.anchorGroup (a : Int) (o : Ope) (g : Nat) : Ope :=
  let p := o.clearGroup o.fp g
  if p.fp then p else { p with anchors := sset zeroInt p.anchors g a }

theorem Ope.anchorGroup_cleared (a : Int) (o : Ope) (g : Nat) : o.Cleared (o.anchorGroup a g) [g] := by
  have h := o.clearGroup_cleared o.fp g
  unfold Ope.anchorGroup
  extract_lets p
  split
  · exact h
  · exact ⟨h.fp, h.passNo, h.expect, h.minPass⟩

theorem Ope.anchorClear_cleared (o : Ope) (gs : List Nat) (a : Int) : o.Cleared (o.anchorClear gs a) gs :=
  Ope.Cleared.foldl (Ope.anchorGroup_cleared a) gs o

theorem Ope.anchorGroup_anchors (a : Int) {o : Ope} (h : o.fp = false) (g : Nat) :
    (o.anchorGroup a g).anchors = sset zeroInt o.anchors g a := by
  obtain ⟨hfp, -, hanchors, -⟩ := o.clearGroup_frame o.fp g
  unfold Ope.anchorGroup
  dsimp only
  rw [if_neg (by rw [hfp, h]; decide), hanchors]

/-- In LA160 mode every group of the list takes the anchor, and no other. -/
theorem Ope.anchorClear_anchors (a : Int) (gs : List Nat) {o : Ope} (h : o.fp = false) (g : Nat) :
    sget zeroInt (o.anchorClear gs a).anchors g = if g ∈ gs then a else sget zeroInt o.anchors g := by
  induction gs generalizing o with
  | nil => rfl
  | cons k gs ih =>
    show sget zeroInt ((o.anchorGroup a k).anchorClear gs a).anchors g = _
    rw [ih ((o.anchorGroup_cleared a k).fp.trans h), Ope.anchorGroup_anchors a h, sget_sset]
    by_cases hg : g ∈ gs <;> simp [hg]

/-! ### The move path -/

theorem issuePreload_done (hm : st.moveBusy c = false) (ht : tileValid st.ope.shape st.ope.fp (bitsOf w 43 39) = true)
    (hs : bitsOf w 30 28 ≠ 7) (hfp : bitsOf w 30 28 = 0 → st.ope.fp = false) (hf : bitsOf w 27 26 ≠ 3)
    (ha : bitsOf w 30 28 = 0 → bitsOf w 25 8 % 4 = 0) :
    ∃ (v : Stall) (m : Move), issuePreload st c w tack = .done v ∧ v.ope.move = some m ∧ m.kind = .preload ∧ m.issue = c ∧
      m.groups = tileGroups st.ope.shape (bitsOf w 43 39) ∧ st.ope.Cleared v.ope (tileGroups st.ope.shape (bitsOf w 43 39)) ∧
      (st.ope.fp = false → ∀ g ∈ tileGroups st.ope.shape (bitsOf w 43 39),
        sget zeroInt v.ope.anchors g = signed 8 (bitsOf w 38 31)) := by
  have hlegal : ¬((!tileValid st.ope.shape st.ope.fp (bitsOf w 43 39)) = true ∨ bitsOf w 30 28 = 7 ∨
      (bitsOf w 30 28 = 0 ∧ st.ope.fp = true) ∨ bitsOf w 27 26 = 3 ∨ (bitsOf w 30 28 = 0 ∧ bitsOf w 25 8 % 4 ≠ 0)) := by
    rintro (h | h | ⟨h, k⟩ | h | ⟨h, k⟩)
    · simp [ht] at h
    · exact hs h
    · exact absurd ((hfp h).symm.trans k) (by decide)
    · exact hf h
    · exact k (ha h)
  unfold issuePreload
  extract_lets o t src gs m
  rw [if_neg hlegal, if_neg (by rw [hm]; decide)]
  exact ⟨_, m, rfl, rfl, rfl, rfl, rfl, (o.anchorClear_cleared gs _).setMove _,
    fun hla g hg => (Ope.anchorClear_anchors _ gs hla g).trans (if_pos hg)⟩

/-- The scoreboard tags of a move's rows leave the engine as it is. -/
theorem Stall.addOpeTags_ope (n fin len wid : Nat) (addr : Nat → Nat) :
    ((List.range n).foldl (fun t r => t.addOpeTag c (fin + r) (addr r) len wid) st).ope = st.ope :=
  foldl_same Stall.ope _ _ fun _ _ => rfl

theorem issueDrain_done (hm : st.moveBusy c = false) (ht : tileValid st.ope.shape st.ope.fp (bitsOf w 43 39) = true)
    (ho : bitsOf w 38 36 ≤ 5) (hfp : bitsOf w 38 36 = 0 → st.ope.fp = false)
    (hcast : st.ope.casting (tileGroups st.ope.shape (bitsOf w 43 39)) c = false) :
    ∃ (v : Stall) (m : Move), issueDrain st c w tack = .done v ∧ v.ope = { st.ope with move := some m } ∧ m.kind = .drain ∧
      m.issue = c ∧ m.groups = tileGroups st.ope.shape (bitsOf w 43 39) := by
  have hlegal : ¬((!tileValid st.ope.shape st.ope.fp (bitsOf w 43 39)) = true ∨ 5 < bitsOf w 38 36 ∨
      (bitsOf w 38 36 = 0 ∧ st.ope.fp = true)) := by
    rintro (h | h | ⟨h, k⟩)
    · simp [ht] at h
    · omega
    · exact absurd ((hfp h).symm.trans k) (by decide)
  unfold issueDrain
  extract_lets o t out gs
  rw [if_neg hlegal, if_neg (by simp [hm, gs, t, o, hcast])]
  refine ⟨_, ⟨.drain, c, o.shape, gs, w, o.fp, [], [], false, st.wids + 1, tack⟩, rfl, ?_, rfl, rfl, rfl⟩
  split
  · rfl
  · exact Stall.addOpeTags_ope _ _ _ _ _

theorem issueSave_done (hm : st.moveBusy c = false) (hl : wholeLegal st w = true) (hx : st.ctxBusy c = false)
    (hcast : st.ope.casting [0, 1, 2, 3] c = false) :
    ∃ (v : Stall) (m : Move), issueSave st c w tack = .done v ∧ v.ope = { st.ope with move := some m } ∧ m.kind = .save ∧ m.issue = c ∧
      m.groups = [0, 1, 2, 3] := by
  unfold issueSave
  rw [if_neg (by rw [hl]; decide), if_neg (by rw [hm, hx, hcast]; decide)]
  exact ⟨_, ⟨.save, c, 0, [0, 1, 2, 3], w, false, [], [], false, st.wids + 1, tack⟩, rfl, Stall.addOpeTags_ope _ _ _ _ _, rfl, rfl, rfl⟩

theorem issueRestore_done (hm : st.moveBusy c = false) (hl : wholeLegal st w = true) (hx : st.ctxBusy c = false) :
    ∃ (v : Stall) (m : Move), issueRestore st c w tack = .done v ∧ v.ope.move = some m ∧ m.kind = .restore ∧ m.issue = c ∧
      m.groups = [0, 1, 2, 3] ∧ st.ope.Cleared v.ope [0, 1, 2, 3] := by
  have hclear := Ope.Cleared.foldl (fun o g => o.clearGroup_cleared false g) [0, 1, 2, 3] st.ope
  unfold issueRestore
  extract_lets m o
  rw [if_neg (by rw [hl]; decide), if_neg (by rw [hm, hx]; decide)]
  exact ⟨_, m, rfl, rfl, rfl, rfl, rfl, hclear.setMove _⟩

/-! ### The statement -/

/-- Settles O4: each instruction's effect above, as its issue leaves it in the stall. -/
theorem opePathIssue : Obligations.OpePathIssue := by
  refine ⟨fun s i f c h => ⟨?acc, ?keepwarm, ?lddesc, ?shape⟩, fun s i f c h => ?moves⟩
  case acc =>
    intro hop h0 hn ht hdc hdr hwhole hcrest hdrain hcast
    obtain ⟨v, p, he, hpasses, hno, hp⟩ := issueAcc_done h0 hn ht hdc hdr hwhole hcrest hdrain hcast
    obtain ⟨hret, hope, -⟩ := State.issue_selOp h hop (by decide) he
    exact ⟨_, p, rfl, hret, hope ▸ hpasses, hope ▸ hno, hp⟩
  case keepwarm =>
    intro hop h0 hwhole hcast
    obtain ⟨hret, hope, -⟩ := State.issue_selOp h hop (by decide) (issueKeepwarm_done h0 hwhole hcast)
    exact ⟨_, rfl, hret, by rw [hope], by rw [hope], by rw [hope], by rw [hope], by rw [hope], by rw [hope]⟩
  case lddesc =>
    intro hop h0 hwhole hcrest
    obtain ⟨hret, hope, -⟩ := State.issue_selOp h hop (by decide) (issueLddesc_done h0 hwhole hcrest)
    exact ⟨_, rfl, hret, congrArg Ope.loads hope⟩
  case shape =>
    intro hop h0 hwin hmove hflights
    obtain ⟨hret, -, hvec⟩ := State.issue_selOp h hop (by decide) (issueShape_done h0 hwin hmove hflights)
    exact ⟨_, rfl, hret, congrArg Vec.changes hvec⟩
  case moves =>
    intro w u o gs hmove
    refine ⟨?preload, ?drain, ?save, ?restore⟩
    case preload =>
      intro hop ht hsrc hfp hfmt hbase
      obtain ⟨v, m, he, hm, hkind, hissue, hgroups, hclear, hanchors⟩ := issuePreload_done hmove ht hsrc hfp hfmt hbase
      obtain ⟨hret, hope, -⟩ := State.issue_selOp h hop (by decide) he
      rw [← hope] at hm hclear hanchors
      exact ⟨_, m, rfl, hret, hm, hkind, hissue, hgroups, fun g hg =>
        ⟨fun hla => hanchors hla g hg, (hclear.expect g).trans (if_pos hg), (hclear.minPass g).trans (if_pos hg)⟩⟩
    case drain =>
      intro hop ht hout hfp hcast
      obtain ⟨v, m, he, hv, hkind, hissue, hgroups⟩ := issueDrain_done hmove ht hout hfp hcast
      obtain ⟨hret, hope, -⟩ := State.issue_selOp h hop (by decide) he
      rw [hv] at hope
      exact ⟨_, m, rfl, hret, congrArg Ope.move hope, hkind, hissue, hgroups, by rw [hope]⟩
    case save =>
      intro hop hlegal hctx hcast
      obtain ⟨v, m, he, hv, hkind, hissue, hgroups⟩ := issueSave_done hmove hlegal hctx hcast
      obtain ⟨hret, hope, -⟩ := State.issue_selOp h hop (by decide) he
      rw [hv] at hope
      exact ⟨_, m, rfl, hret, congrArg Ope.move hope, hkind, hissue, hgroups, by rw [hope]⟩
    case restore =>
      intro hop hlegal hctx
      obtain ⟨v, m, he, hm, hkind, hissue, hgroups, hclear⟩ := issueRestore_done hmove hlegal hctx
      obtain ⟨hret, hope, -⟩ := State.issue_selOp h hop (by decide) he
      rw [← hope] at hm hclear
      exact ⟨_, m, rfl, hret, hm, hkind, hissue, hgroups, fun g hg =>
        ⟨(hclear.expect g).trans (if_pos hg), (hclear.minPass g).trans (if_pos hg)⟩⟩

end Sys2Proof.Machine
end

/-!
# Residue verdicts and the lane self-test

What judging a drain or save leaves (R128), what the checker of the vector engine finds (R164, R166), and how the pattern pointers advance.
-/
section
namespace Sys2Proof.Machine

open Sys2Proof.Safety

/-! ### A shot that an event fails -/

/-- The shot takes a failure at cycle x, and has none yet but `f`. -/
structure State.Takes (s : State) (x : Nat) (f : Cause) : Prop where
  begun : s.shot.begun = true
  margin : s.shot.margin = false
  inTime : x ≤ s.marginAt
  fail : s.shot.fail = none ∨ s.shot.fail = some f

theorem State.haltFrom_fail (s : State) (x : Nat) : (s.haltFrom x).shot.fail = s.shot.fail := by
  unfold State.haltFrom
  extract_lets _ t u
  have hu : u.shot = t.shot := foldl_same State.shot _ _ fun _ _ => rfl
  have hfold := foldl_same State.shot (List.range 8) u (f := fun s b => s.setBarn b { s.barn b with stop := stopAt (s.barn b).stop x })
    fun _ _ => rfl
  rw [hfold, hu]

theorem State.Takes.failShot {s : State} {x code src : Nat} (h : s.Takes x ⟨x, code, src⟩) :
    (s.failShot x code src).shot.fail = some ⟨x, code, src⟩ := by
  obtain hnone | hsome := h.fail
  · rw [s.failShot_shot h.begun h.margin hnone h.inTime]
  · unfold State.failShot
    rw [if_neg (by simp [h.begun, h.margin, h.inTime]), hsome]
    dsimp only
    rw [if_neg (lt_irrefl x), hsome]

/-- What an operation on stalls leaves of the shot takes a failure where the shot took it. -/
theorem State.Takes.only {s t : State} {x : Nat} {f : Cause} (h : s.Takes x f) (hst : StallsOnly s t)
    (hf : t.shot.fail = none ∨ t.shot.fail = some f) : t.Takes x f := by
  have hbegin : t.shot.begin_ = s.shot.begin_ := (congrArg Shot.begin_ hst.shot :)
  have hmargin : t.marginAt = s.marginAt := by
    unfold State.marginAt State.period State.field
    rw [hbegin, hst.regs]
  exact ⟨(congrArg Shot.begun hst.shot :).trans h.begun, (congrArg Shot.margin hst.shot :).trans h.margin,
    h.inTime.trans_eq hmargin.symm, hf⟩

theorem State.Takes.takeEvent {s : State} {i : Nat} {e : StallEvent} (he : e.fails = true)
    (h : s.Takes e.cycle ⟨e.cycle, e.code, srcStall i⟩) :
    (s.takeEvent i e).shot.fail = some ⟨e.cycle, e.code, srcStall i⟩ := by
  unfold State.takeEvent
  extract_lets st dup detail a b _ c
  have ha : a.Takes e.cycle ⟨e.cycle, e.code, srcStall i⟩ := by
    subst a
    split
    · exact h
    · exact ⟨h.begun, h.margin, h.inTime, h.fail⟩
  have hb : b.shot.fail = some ⟨e.cycle, e.code, srcStall i⟩ := by
    subst b
    rw [if_pos he]
    exact ha.failShot
  have hc : c.shot.fail = b.shot.fail := by
    subst c
    split <;> rfl
  split
  · rw [State.haltFrom_fail, hc, hb]
  · rw [hc, hb]

/-- Equal failures taken one after another leave the shot failed by them. -/
theorem State.Takes.foldl {s : State} {i : Nat} {e : StallEvent} (he : e.fails = true)
    (h : s.Takes e.cycle ⟨e.cycle, e.code, srcStall i⟩) (n : Nat) :
    ((List.replicate (n + 1) (i, e)).foldl (fun s e => s.takeEvent e.1 e.2) s).shot.fail = some ⟨e.cycle, e.code, srcStall i⟩ := by
  induction n generalizing s with
  | zero => exact h.takeEvent he
  | succ n ih => exact ih (h.only (s.takeEvent_only i e) (.inr (h.takeEvent he)))

theorem insertEvent_replicate (p : Nat × StallEvent) (n : Nat) : insertEvent p (List.replicate n p) = List.replicate (n + 1) p := by
  induction n with
  | zero => rfl
  | succ n ih =>
    rw [List.replicate_succ, insertEvent, if_neg (lt_irrefl _), ih]
    rfl

/-- Equal events stand in the order of their cycles as they are. -/
theorem foldl_insertEvent_replicate (p : Nat × StallEvent) (n m : Nat) :
    (List.replicate n p).foldl (fun acc e => insertEvent e acc) (List.replicate m p) = List.replicate (m + n) p := by
  induction n generalizing m with
  | zero => rfl
  | succ n ih =>
    rw [List.replicate_succ, List.foldl_cons, insertEvent_replicate, ih]
    congr 1
    omega

/-- An operation on a stall that raises a failure, once or more, fails the shot. -/
theorem State.onStall_fails (s : State) (i x : Nat) (f : Stall → Stall) {e : StallEvent} {n : Nat} (he : e.fails = true)
    (hf : (f ((s.sync i x).stall i)).events = List.replicate (n + 1) e) (h : (s.sync i x).Takes e.cycle ⟨e.cycle, e.code, srcStall i⟩) :
    (s.onStall i x f).shot.fail = some ⟨e.cycle, e.code, srcStall i⟩ := by
  unfold State.onStall
  extract_lets w
  have hevents : ((w.modStall i f).stall i).events = List.replicate (n + 1) e := by
    rw [State.stall_modStall, if_pos rfl]
    exact hf
  have hsorted : ((([i].map fun j => ((w.modStall i f).stall j).events.map fun e => (j, e)).flatten).foldl
      (fun acc e => insertEvent e acc) []) = List.replicate (n + 1) (i, e) := by
    rw [List.map_singleton, List.flatten_singleton, hevents, List.map_replicate]
    exact (foldl_insertEvent_replicate (i, e) (n + 1) 0).trans (by rw [Nat.zero_add])
  unfold State.flush
  extract_lets es v
  rw [hsorted]
  have hv : StallsOnly w v := (w.modStall_only i f).trans (State.eachStall_only _ _ _)
  have hfail : v.shot.fail = w.shot.fail := congrArg Shot.fail (foldl_same State.shot _ (w.modStall i f) fun _ _ => rfl)
  exact State.Takes.foldl he (h.only hv (hfail ▸ h.fail)) n

/-- An operation on a stall that raises nothing leaves the log and the shot as bringing the stall forward left them. -/
theorem State.onStall_aside (s : State) (i x : Nat) (f : Stall → Stall) (h : (f ((s.sync i x).stall i)).events = []) :
    (s.onStall i x f).log = (s.sync i x).log ∧ (s.onStall i x f).shot = (s.sync i x).shot := by
  rw [s.onStall_quiet i x f h]
  exact ⟨rfl, rfl⟩

/-! ### Verdicts -/

theorem orBit_orBit (r i : Nat) : orBit (orBit r i) i = orBit r i := by
  unfold orBit
  rw [Nat.or_assoc, Nat.or_self]

/-- The groups of a verdict that are compared and differ. -/
def Verdict.bad (d : Verdict) : List (Nat × Nat × Nat × Bool) := d.groups.filter fun g => g.2.2.2 && decide (g.2.1 ≠ g.2.2.1)

theorem Verdict.bad_nil {d : Verdict} (h : ∀ g ∈ d.groups, g.2.2.2 = true → g.2.1 = g.2.2.1) : d.bad = [] := by
  refine List.filter_eq_nil_iff.mpr fun g hg => ?_
  by_cases hc : g.2.2.2 = true
  · simp [h g hg hc]
  · simp [hc]

/-- The event of a group that a verdict finds unequal. -/
def Verdict.event (d : Verdict) : StallEvent := ⟨Ev.residueMismatch, d.fin, d.tack, true⟩

/-- The stall without its oldest verdict. -/
def Stall.popVerdict (st : Stall) (rest : List Verdict) : Stall := { st with ope := { st.ope with verdicts := rest } }

/-- The first mismatch of a shot recorded. -/
def Stall.recordMismatch (st : Stall) (g : Nat × Nat × Nat × Bool) : Stall :=
  if Ev.residueMismatch ∈ st.once then st
  else { st with
    once := st.once ++ [Ev.residueMismatch]
    ope := { st.ope with err := setBits (setBits (setBits st.ope.err 17 16 g.1) 15 8 g.2.1) 7 0 g.2.2.1 } }

/-- A mismatch raised for each of the groups of a list. -/
def Stall.raiseMismatches (st : Stall) (d : Verdict) (l : List (Nat × Nat × Nat × Bool)) : Stall :=
  l.foldl (fun st _ => (st.opeBit 31).raise Ev.residueMismatch d.fin d.tack true) st

theorem Stall.residueVerdict_equal {st : Stall} {d : Verdict} {rest : List Verdict} (h : st.ope.verdicts = d :: rest) (hd : d.bad = []) :
    st.residueVerdict d.fin = st.popVerdict rest := by
  unfold Verdict.bad at hd
  unfold Stall.residueVerdict
  rw [h]
  dsimp only
  rw [if_pos le_rfl, hd]
  rfl

theorem Stall.residueVerdict_unequal {st : Stall} {d : Verdict} {rest : List Verdict} (h : st.ope.verdicts = d :: rest)
    {g : Nat × Nat × Nat × Bool} {gs : List (Nat × Nat × Nat × Bool)} (hd : d.bad = g :: gs) :
    st.residueVerdict d.fin = ((st.popVerdict rest).recordMismatch g).raiseMismatches d (g :: gs) := by
  unfold Verdict.bad at hd
  unfold Stall.residueVerdict
  rw [h]
  dsimp only
  rw [if_pos le_rfl, hd]
  rfl

theorem Stall.popVerdict_frame (st : Stall) (rest : List Verdict) :
    (st.popVerdict rest).events = st.events ∧ (st.popVerdict rest).once = st.once ∧ (st.popVerdict rest).ope.verdicts = rest ∧
      (st.popVerdict rest).ope.acc = st.ope.acc ∧ (st.popVerdict rest).ope.err = st.ope.err := by
  simp only [Stall.popVerdict, and_self]

theorem Stall.recordMismatch_err {st : Stall} (h : Ev.residueMismatch ∉ st.once) (g : Nat × Nat × Nat × Bool) :
    (st.recordMismatch g).ope.err = setBits (setBits (setBits st.ope.err 17 16 g.1) 15 8 g.2.1) 7 0 g.2.2.1 := by
  rw [Stall.recordMismatch, if_neg h]

theorem Stall.recordMismatch_frame (st : Stall) (g : Nat × Nat × Nat × Bool) :
    (st.recordMismatch g).events = st.events ∧ (st.recordMismatch g).ope.verdicts = st.ope.verdicts ∧
      (st.recordMismatch g).ope.acc = st.ope.acc := by
  unfold Stall.recordMismatch
  split <;> exact ⟨rfl, rfl, rfl⟩

/-- What raising mismatches leaves: an event for each, bit 31 of the error register, the rest of the engine. -/
theorem Stall.raiseMismatches_spec (d : Verdict) (l : List (Nat × Nat × Nat × Bool)) (st : Stall) :
    (st.raiseMismatches d l).events = st.events ++ List.replicate l.length d.event ∧
      (st.raiseMismatches d l).ope.verdicts = st.ope.verdicts ∧ (st.raiseMismatches d l).ope.acc = st.ope.acc ∧
      (l ≠ [] → (st.raiseMismatches d l).ope.err = orBit st.ope.err 31) := by
  induction l generalizing st with
  | nil => exact ⟨(List.append_nil _).symm, rfl, rfl, fun h => absurd rfl h⟩
  | cons g l ih =>
    obtain ⟨hevents, hverdicts, hacc, herr⟩ := ih ((st.opeBit 31).raise Ev.residueMismatch d.fin d.tack true)
    refine ⟨hevents.trans ?_, hverdicts, hacc, fun _ => ?_⟩
    · rw [List.length_cons, List.replicate_succ]
      exact List.append_assoc st.events [d.event] _
    · by_cases hl : l = []
      · subst hl; rfl
      · exact (herr hl).trans (orBit_orBit _ _)

/-- The oldest verdict judged in a stall that has raised nothing yet. -/
theorem Stall.residueVerdict_judges {st : Stall} {d : Verdict} {rest : List Verdict} (h : st.ope.verdicts = d :: rest)
    {g : Nat × Nat × Nat × Bool} {gs : List (Nat × Nat × Nat × Bool)} (hd : d.bad = g :: gs) (hquiet : st.events = []) :
    (st.residueVerdict d.fin).events = List.replicate (gs.length + 1) d.event ∧ (st.residueVerdict d.fin).ope.verdicts = rest ∧
      (st.residueVerdict d.fin).ope.acc = st.ope.acc ∧
      (Ev.residueMismatch ∉ st.once → (st.residueVerdict d.fin).ope.err =
        orBit (setBits (setBits (setBits st.ope.err 17 16 g.1) 15 8 g.2.1) 7 0 g.2.2.1) 31) := by
  rw [Stall.residueVerdict_unequal h hd]
  obtain ⟨hpev, honce, hpver, hpacc, hperr⟩ := st.popVerdict_frame rest
  obtain ⟨hrev, hrver, hracc⟩ := (st.popVerdict rest).recordMismatch_frame g
  obtain ⟨hevents, hverdicts, hacc, herr⟩ := Stall.raiseMismatches_spec d (g :: gs) ((st.popVerdict rest).recordMismatch g)
  refine ⟨?_, by rw [hverdicts, hrver, hpver], by rw [hacc, hracc, hpacc], fun hnew => ?_⟩
  · rw [hevents, hrev, hpev, hquiet, List.nil_append, List.length_cons]
  · rw [herr (List.cons_ne_nil _ _), Stall.recordMismatch_err (honce ▸ hnew), hperr]

/-- The command that judges the oldest verdict of a stall. -/
theorem execResidueVerdict_judges {s : State} {i : StallId} {d : Verdict} {r0 : List Verdict} (h : (s.stall i.val).ope.verdicts = d :: r0) :
    exec (.residueVerdict i) s =
      .next ((s.at_ d.fin).onStall i.val (max d.fin (s.stall i.val).clk) fun t => t.residueVerdict d.fin) := by
  show execResidueVerdict i s = _
  unfold execResidueVerdict
  rw [h]
  cases (s.stall i.val).ope.move <;> rfl

theorem residueVerdict_effect (s : State) (i : StallId) (d : Verdict) (r0 rest : List Verdict) :
    let w := (s.at_ d.fin).sync i.val (max d.fin (s.stall i.val).clk)
    let u := w.stall i.val
    (s.stall i.val).ope.verdicts = d :: r0 → u.ope.verdicts = d :: rest →
      ∃ t, exec (.residueVerdict i) s = .next t ∧ (t.stall i.val).ope.verdicts = rest ∧ (t.stall i.val).ope.acc = u.ope.acc ∧
        ((∀ g ∈ d.groups, g.2.2.2 = true → g.2.1 = g.2.2.1) → t.log = w.log ∧ t.shot = w.shot ∧
          (t.stall i.val).ope.err = u.ope.err) ∧
        (∀ g gs, d.bad = g :: gs → Ev.residueMismatch ∉ u.once →
          (t.stall i.val).ope.err = orBit (setBits (setBits (setBits u.ope.err 17 16 g.1) 15 8 g.2.1) 7 0 g.2.2.1) 31 ∧
          (w.shot.begun = true → w.shot.margin = false → w.shot.fail = none → d.fin ≤ w.marginAt →
            t.shot.fail = some ⟨d.fin, Ev.residueMismatch, srcStall i.val⟩)) := by
  intro w u hs hu
  have hquiet : u.events = [] := State.sync_events _ _ _
  have hope : (((s.at_ d.fin).onStall i.val (max d.fin (s.stall i.val).clk) fun t => t.residueVerdict d.fin).stall i.val).ope =
      (u.residueVerdict d.fin).ope := ope_of_quietly (State.onStall_stall _ _ _ _)
  refine ⟨_, execResidueVerdict_judges hs, ?_⟩
  cases hbad : d.bad with
  | nil =>
    have hpop : u.residueVerdict d.fin = u.popVerdict rest := Stall.residueVerdict_equal hu hbad
    obtain ⟨hevents, -, hverdicts, hacc, herr⟩ := u.popVerdict_frame rest
    have haside := (s.at_ d.fin).onStall_aside i.val (max d.fin (s.stall i.val).clk) (fun t => t.residueVerdict d.fin)
      ((congrArg Stall.events hpop).trans (hevents.trans hquiet))
    rw [hope, hpop]
    exact ⟨hverdicts, hacc, fun _ => ⟨haside.1, haside.2, herr⟩,
      fun g gs hg => absurd hg (List.cons_ne_nil g gs).symm⟩
  | cons g gs =>
    obtain ⟨hevents, hverdicts, hacc, herr⟩ := Stall.residueVerdict_judges hu hbad hquiet
    rw [hope]
    refine ⟨hverdicts, hacc, fun heq => ?_, fun k ks hk honce => ⟨?_, ?_⟩⟩
    · exact absurd ((Verdict.bad_nil heq).symm.trans hbad) (List.cons_ne_nil g gs).symm
    · obtain ⟨rfl, -⟩ := List.cons.inj hk
      exact herr honce
    · intro hbegun hmargin hfail htime
      exact State.onStall_fails _ _ _ _ (e := d.event) rfl hevents ⟨hbegun, hmargin, htime, .inl hfail⟩

/-! ### The lane self-test -/

theorem execLaneSelftest_fenced {s : State} {i : StallId} (agree : Bool) (hf : (s.stall i.val).fenced = true) :
    exec (.laneSelftest i agree) s = .next s := by
  show execLaneSelftest i agree s = _
  unfold execLaneSelftest
  rw [if_neg (by simp [hf])]

theorem execLaneSelftest_checks {s : State} {i : StallId} (agree : Bool) (hc : s.clocked = true) (hf : (s.stall i.val).fenced = false) :
    exec (.laneSelftest i agree) s =
      .next (s.onStall i.val (max s.cyc (s.stall i.val).clk) fun t => t.laneSelftest s.cyc agree) := by
  show execLaneSelftest i agree s = _
  unfold execLaneSelftest
  rw [if_pos (by simp [hc, hf])]

/-- What a disagreement leaves in the stall. -/
theorem Stall.laneSelftest_disagree (st : Stall) (x : Nat) :
    (st.laneSelftest x false).events = st.events ++ [⟨Ev.vecLaneFault, x, noTack, true⟩] ∧
      (st.laneSelftest x false).vec.issues = st.vec.issues ∧
      (st.laneSelftest x false).vec.err = if natBit st.vec.err 31 then st.vec.err else setBits (orBit st.vec.err 31) 6 0 (laneAt x) :=
  ⟨rfl, rfl, rfl⟩

theorem laneSelftest_effect (s : State) (i : StallId) (agree : Bool) (hc : s.clocked = true) (hf : (s.stall i.val).fenced = false) :
    let w := s.sync i.val (max s.cyc (s.stall i.val).clk)
    let u := w.stall i.val
    ∃ t, exec (.laneSelftest i agree) s = .next t ∧ (t.stall i.val).vec.issues = u.vec.issues ∧
      (agree = true → (t.stall i.val).vec.err = u.vec.err ∧ t.log = w.log ∧ t.shot = w.shot) ∧
      (agree = false → (natBit u.vec.err 31 = false → (t.stall i.val).vec.err = setBits (orBit u.vec.err 31) 6 0 (laneAt s.cyc)) ∧
        (natBit u.vec.err 31 = true → (t.stall i.val).vec.err = u.vec.err) ∧
        (w.shot.begun = true → w.shot.margin = false → w.shot.fail = none → s.cyc ≤ w.marginAt →
          t.shot.fail = some ⟨s.cyc, Ev.vecLaneFault, srcStall i.val⟩)) := by
  intro w u
  have hquiet : u.events = [] := State.sync_events _ _ _
  have hvec : ((s.onStall i.val (max s.cyc (s.stall i.val).clk) fun t => t.laneSelftest s.cyc agree).stall i.val).vec =
      (u.laneSelftest s.cyc agree).vec := vec_of_quietly (State.onStall_stall _ _ _ _)
  refine ⟨_, execLaneSelftest_checks agree hc hf, ?_⟩
  rw [hvec]
  cases agree with
  | true =>
    have haside := s.onStall_aside i.val (max s.cyc (s.stall i.val).clk) (fun t => t.laneSelftest s.cyc true) hquiet
    exact ⟨rfl, fun _ => ⟨rfl, haside⟩, nofun⟩
  | false =>
    obtain ⟨hevents, hissues, herr⟩ := u.laneSelftest_disagree s.cyc
    refine ⟨hissues, nofun, fun _ => ⟨fun hbit => ?_, fun hbit => ?_, fun hbegun hmargin hfail htime => ?_⟩⟩
    · rw [herr, if_neg (by rw [hbit]; decide)]
    · rw [herr, if_pos hbit]
    · rw [hquiet] at hevents
      exact State.onStall_fails _ _ _ _ (e := ⟨Ev.vecLaneFault, s.cyc, noTack, true⟩) (n := 0) rfl hevents
        ⟨hbegun, hmargin, htime, .inl hfail⟩

/-! ### Pattern pointers -/

/-- The cycles before x, since the latest multiple of 524,288, in which lane k was under check (R164). -/
def driven (k x : Nat) : Nat := min 4096 (x % 524288 - 4096 * k)

/-- The lane under check counts the cycle, and every other lane stands: a full turn of 4,096 cycles is a multiple of 1,024. -/
theorem driven_succ (x : Nat) {k : Nat} (hk : k < 128) :
    driven k (x + 1) % 1024 = (driven k x + if k = laneAt x then 1 else 0) % 1024 := by
  unfold driven laneAt
  split <;> omega

theorem Vec.pattern_eq (v : Vec) (k x : Nat) :
    v.pattern k x = (driven k x % 1024 + (1024 - sget zeroNat v.issues k % 1024)) % 1024 := by
  unfold Vec.pattern driven
  omega

theorem Vec.pattern_succ (v : Vec) (x : Nat) {k : Nat} (hk : k < 128) :
    v.pattern k (x + 1) = if k = laneAt x then (v.pattern k x + 1) % 1024 else v.pattern k x := by
  rw [v.pattern_eq k (x + 1), v.pattern_eq k x, driven_succ x hk]
  split <;> omega

theorem Vec.issued_issues (v : Vec) {x : Nat} (h : v.lastIssue ≠ some x) (k : Nat) :
    sget zeroNat (v.issued x).issues k = if k = laneAt x then (sget zeroNat v.issues k + 1) % 1024 else sget zeroNat v.issues k := by
  unfold Vec.issued smod
  dsimp only
  rw [if_neg h, sget_sset]
  split
  · subst k; rfl
  · rfl

/-- A cycle with a VEC issue moves no lane's pointer. -/
theorem Vec.pattern_issued (v : Vec) {x k : Nat} (hk : k < 128) (h : v.lastIssue ≠ some x) :
    (v.issued x).pattern k (x + 1) = v.pattern k x := by
  rw [(v.issued x).pattern_eq, v.pattern_eq k x, driven_succ x hk, v.issued_issues h]
  split <;> omega

/-- Settles O10: the verdict's effect, the checker's two findings, and the course of the pattern pointers. -/
theorem residueVerdicts : Obligations.ResidueVerdicts :=
  ⟨residueVerdict_effect,
    fun s i agree hc => ⟨execLaneSelftest_fenced agree, laneSelftest_effect s i agree hc⟩,
    fun v x _ hk => ⟨v.pattern_succ x hk, v.pattern_issued hk⟩⟩

end Sys2Proof.Machine
end

/-!
# Issue of the instructions of the vector engine

What each instruction of opcodes 0x30 to 0x3F leaves in its stall where its fields are legal, its addresses are aligned and no CREST bars it
(R134 to R136, R139, R150, R153, R161).
-/
section
namespace Sys2Proof.Machine

open Sys2Proof.Safety

variable {s : State} {st : Stall} {i c : Nat} {f : Fetched} {w : Insn} {tack op : Nat} {sh : VecShape}

/-! ### The tags of results -/

theorem Stall.addTag_tags (st : Stall) (issue fin addr len wid : Nat) :
    (st.addTag issue fin addr len wid).spd.tags.map (fun x => (x.fin, x.addr, x.len)) =
      st.spd.tags.map (fun x => (x.fin, x.addr, x.len)) ++ [(fin, addr % spdSize, len)] :=
  List.map_append

/-- The results `as` of writer `wid`, tagged from cycle c to cycle `fin` at the addresses that the registers give. -/
def Stall.tagResults (st : Stall) (c fin wid : Nat) (as : List VecAccess) : Stall :=
  as.foldl (fun st a => st.addTag c fin (st.vec.addrOf a) a.len wid) st

theorem Stall.tagResults_vec (st : Stall) (c fin wid : Nat) (as : List VecAccess) : (st.tagResults c fin wid as).vec = st.vec :=
  foldl_same Stall.vec as st fun _ _ => rfl

/-- Each result adds its tag behind the others; a tag moves no register, so the next address is as before. -/
theorem Stall.tagResults_tags (st : Stall) (c fin wid : Nat) (as : List VecAccess) :
    (st.tagResults c fin wid as).spd.tags.map (fun x => (x.fin, x.addr, x.len)) =
      st.spd.tags.map (fun x => (x.fin, x.addr, x.len)) ++ as.map fun a => (fin, st.vec.addrOf a % spdSize, a.len) := by
  induction as generalizing st with
  | nil => exact (List.append_nil _).symm
  | cons a as ih => exact (ih _).trans (by rw [Stall.addTag_tags, List.append_assoc]; rfl)

/-! ### An issue as seen from the vector engine and the scoreboard -/

/-- An instruction whose effect is `v` leaves the scratchpad as `v` has it. -/
theorem State.issue_selOp_spd {eff : Stall → Nat → Insn → Nat → Issue} {v : Stall} (h : Issues s i f c) (hop : opcodeOf f.word = op)
    (he : eff (atIssue s i (opcodeOf f.word) c) c f.word f.index = .done v) :
    ((s.issue i (selOp op) eff).stall i).spd = v.spd := by
  have hsel : selOp op f.word f.check = true := by simp [selOp, hop, h.good]
  exact (congrArg Stall.spd (State.issue_done h hsel he) :)

/-- The stall after a VEC instruction of the accesses `sh` has issued at c: operands captured, advances due, engine busy, results tagged. -/
def Stall.vecIssued (st : Stall) (c : Nat) (w : Insn) (tack : Nat) (sh : VecShape) : Stall :=
  Stall.tagResults { st with
    wids := st.wids + 1
    vec := Vec.issued { st.vec with
      now := st.vec.now ++ [st.vec.capture w c (st.wids + 1) tack sh.reads]
      changes := st.vec.changes ++ sh.after.map fun x => (c + 1, x)
      busyTo := max st.vec.busyTo (c + sh.lat) } c } c (c + sh.lat) (st.wids + 1) sh.writes

theorem issueVec_done (ha : st.vec.aligned (sh.reads ++ sh.writes) = true) (hb : st.crestBars c = false) :
    issueVec (some sh) st c w tack = .done (st.vecIssued c w tack sh) := by
  unfold issueVec
  dsimp only
  rw [if_neg (by simp [ha]), if_neg (by simp [hb])]
  rfl

/-- An instruction whose effect is that of a VEC issue has been taken. -/
theorem State.issue_vecTaken {eff : Stall → Nat → Insn → Nat → Issue} (h : Issues s i f c) (hop : opcodeOf f.word = op) (hwait : op ≠ 0x02)
    (he : eff (atIssue s i (opcodeOf f.word) c) c f.word f.index =
      .done ((atIssue s i (opcodeOf f.word) c).vecIssued c f.word f.index sh)) :
    VecTaken (s.issue i (selOp op) eff) i (atIssue s i (opcodeOf f.word) c) f c sh := by
  obtain ⟨hret, -, hvec⟩ := State.issue_selOp h hop hwait he
  have hspd := State.issue_selOp_spd h hop he
  generalize atIssue s i (opcodeOf f.word) c = u at hvec hspd
  rw [Stall.vecIssued, Stall.tagResults_vec] at hvec
  refine ⟨hret, ⟨u.vec.capture f.word c (u.wids + 1) f.index sh.reads, ?_, rfl, rfl, rfl⟩, ?_, ?_, ?_, ?_⟩
  · exact congrArg Vec.now hvec
  · exact congrArg Vec.changes hvec
  · exact congrArg Vec.busyTo hvec
  · exact congrArg Vec.lastIssue hvec
  · rw [hspd]
    exact Stall.tagResults_tags _ _ _ _ _

/-- A VEC instruction that has no rule on the state of its own is taken where its accesses are aligned and no CREST bars it. -/
theorem State.issueVec_vecTaken {shape : Insn → Option VecShape} (h : Issues s i f c) (hop : opcodeOf f.word = op) (hwait : op ≠ 0x02)
    (hshape : shape f.word = some sh) (ha : (atIssue s i (opcodeOf f.word) c).vec.aligned (sh.reads ++ sh.writes) = true)
    (hb : (atIssue s i (opcodeOf f.word) c).crestBars c = false) :
    VecTaken (s.issue i (selOp op) fun t c w k => issueVec (shape w) t c w k) i (atIssue s i (opcodeOf f.word) c) f c sh :=
  State.issue_vecTaken h hop hwait (by rw [hshape, issueVec_done ha hb])

theorem issueFunc_done (hshape : shapeFunc w = some sh) (hslot : st.vec.slotReady (bitsOf w 33 31) = true)
    (ha : st.vec.aligned (sh.reads ++ sh.writes) = true) (hb : st.crestBars c = false) :
    issueFunc st c w tack = .done (st.vecIssued c w tack sh) := by
  unfold issueFunc
  rw [hshape, issueVec_done ha hb]
  exact if_pos hslot

theorem issueDfunc_done (hshape : shapeDfunc w = some sh) (hslot : st.vec.slotReady (bitsOf w 28 26) = true)
    (ha : st.vec.aligned (sh.reads ++ sh.writes) = true) (hb : st.crestBars c = false) :
    issueDfunc st c w tack = .done (st.vecIssued c w tack sh) := by
  unfold issueDfunc
  rw [hshape, issueVec_done ha hb]
  exact if_pos hslot

/-- The latency class of a legal instruction stands in the shape of its opcode's definition. -/
theorem VecShape.lat_of_legal {illegal : Prop} [Decidable illegal] {a : VecShape} (h : (if illegal then none else some a) = some sh) :
    sh.lat = a.lat := by
  split at h
  · cases h
  · cases h
    rfl

/-- Settles O5: each opcode is taken by the effect of its issue, and its definition names its latency class. -/
theorem vecTakesInstructions : Obligations.VecTakesInstructions := by
  intro s i f c sh h w u ha hb
  refine ⟨?op, ?cvt, ?func, ?dfunc, ?maskf, ?maskb, ?drop, ?ladd, ?pack, ?unpack, ?cadd, ?hist⟩
  case op | maskf | maskb | drop | ladd | pack | cadd =>
    exact fun hop hs => ⟨_, rfl, State.issueVec_vecTaken h hop (by decide) hs ha hb, (VecShape.lat_of_legal hs :)⟩
  case cvt | unpack | hist => exact fun hop hs => ⟨_, rfl, State.issueVec_vecTaken h hop (by decide) hs ha hb⟩
  case func =>
    exact fun hop hs hslot =>
      ⟨_, rfl, State.issue_vecTaken h hop (by decide) (issueFunc_done hs hslot ha hb), (VecShape.lat_of_legal hs :)⟩
  case dfunc =>
    exact fun hop hs hslot =>
      ⟨_, rfl, State.issue_vecTaken h hop (by decide) (issueDfunc_done hs hslot ha hb), (VecShape.lat_of_legal hs :)⟩

/-! ### HSTORE and the small registers -/

theorem issueHstore_done (hshape : shapeHstore w = some sh) (ha : st.vec.aligned sh.writes = true) (hb : st.crestBars c = false) :
    ∃ v p, issueHstore st c w tack = .done v ∧ v.vec.pstore = st.vec.pstore ++ [p] ∧ p.fin = c + 4 ∧ p.word = w ∧
      v.spd.tags.map (fun x => (x.fin, x.addr, x.len)) = st.spd.tags.map (fun x => (x.fin, x.addr, x.len)) ++
        sh.writes.map fun a => (c + 6, st.vec.addrOf a % spdSize, a.len) := by
  unfold issueHstore
  rw [hshape]
  dsimp only
  rw [if_neg (by simp [ha]), if_neg (by simp [hb])]
  exact ⟨_, _, rfl, congrArg Vec.pstore (Stall.tagResults_vec _ _ _ _ _), rfl, rfl, Stall.tagResults_tags _ _ _ _ _⟩

/-- A change of a small register is due in the cycle after its issue. -/
theorem State.issue_change {eff : Stall → Nat → Insn → Nat → Issue} {x : Change} (h : Issues s i f c) (hop : opcodeOf f.word = op)
    (hwait : op ≠ 0x02) (hb : (atIssue s i (opcodeOf f.word) c).crestBars c = false)
    (he : eff (atIssue s i (opcodeOf f.word) c) c f.word f.index = issueChange (atIssue s i (opcodeOf f.word) c) c x) :
    Retired (s.issue i (selOp op) eff) i f c c ∧
      ((s.issue i (selOp op) eff).stall i).vec.changes = (atIssue s i (opcodeOf f.word) c).vec.changes ++ [(c + 1, x)] := by
  rw [issueChange, if_neg (by simp [hb])] at he
  obtain ⟨hret, -, hvec⟩ := State.issue_selOp h hop hwait he
  exact ⟨hret, congrArg Vec.changes hvec⟩

/-- Settles O6: HSTORE by its effect, the other three as changes of a register. -/
theorem vecStoresAndRegisters : Obligations.VecStoresAndRegisters := by
  intro s i f c h w u hb
  refine ⟨fun sh hop hs ha => ?hstore, fun hop => ?seta, fun hop h0 => ?setk, fun hop hfits => ?setr⟩
  case hstore =>
    obtain ⟨v, p, he, hstore, hfin, hword, htags⟩ := issueHstore_done hs ha hb
    obtain ⟨hret, -, hvec⟩ := State.issue_selOp h hop (by decide) he
    exact ⟨_, p, rfl, hret, hvec ▸ hstore, hfin, hword, State.issue_selOp_spd h hop he ▸ htags⟩
  case seta => exact ⟨_, rfl, State.issue_change h hop (by decide) hb rfl⟩
  case setk => exact ⟨_, rfl, State.issue_change h hop (by decide) hb (if_neg (by simp [w, h0]))⟩
  case setr => exact ⟨_, rfl, State.issue_change h hop (by decide) hb (if_neg (Nat.not_le.mpr hfits))⟩

end Sys2Proof.Machine
end

/-!
# Issue of the instructions of the scratchpad

What COPY, FILL and PWR leave in their stall where their fields are legal and no COPY or FILL is active (R186, R188, R192).
-/
section
namespace Sys2Proof.Machine

open Sys2Proof.Safety

variable {st : Stall} {c : Nat} {w : Insn} {tack : Nat}

/-! ### COPY and FILL -/

/-- Where each step of a fold adds one entry behind a list, the fold adds them in order. -/
theorem foldl_appends {σ α β : Type} (g : σ → List β) (h : α → β) {f : σ → α → σ} (l : List α) (s : σ)
    (hf : ∀ x a, g (f x a) = g x ++ [h a]) : g (l.foldl f s) = g s ++ l.map h := by
  induction l generalizing s with
  | nil => exact (List.append_nil _).symm
  | cons a l ih => exact (ih _).trans (by rw [hf, List.append_assoc, List.map_cons, List.singleton_append])

/-- COPY begins, and each of its lines is tagged to the cycle at which it is written. -/
theorem issueCopy_done (h0 : bitsOf w 3 0 = 0) (hfree : st.spd.copy = none) :
    ∃ (v : Stall) (d : CopyOp), issueCopy st c w tack = .done v ∧ v.spd.copy = some d ∧ d.fill = false ∧ d.issue = c ∧
      d.lines = bitsOf w 11 4 + 1 ∧ d.dst = bitsOf w 43 28 ∧ d.src = bitsOf w 27 12 ∧
      v.spd.tags.map (fun x => (x.fin, x.addr, x.len)) = st.spd.tags.map (fun x => (x.fin, x.addr, x.len)) ++
        (List.range (bitsOf w 11 4 + 1)).map fun k => (c + k + 6, (bitsOf w 43 28 + k) % 65536 * 64 % spdSize, 64) := by
  unfold issueCopy
  rw [if_neg (not_not.mpr h0), if_neg (by simp [Stall.copyBusy, hfree])]
  refine ⟨_, ⟨false, c, bitsOf w 11 4 + 1, bitsOf w 43 28, bitsOf w 27 12, 0, st.wids + 1, tack⟩, rfl, ?copy, rfl, rfl, rfl, rfl, rfl,
    ?tags⟩
  case copy => exact foldl_same (fun t : Stall => t.spd.copy) _ _ fun _ _ => rfl
  case tags =>
    refine foldl_appends (fun t : Stall => t.spd.tags.map fun x => (x.fin, x.addr, x.len)) _ _ _ fun t k => ?_
    exact Stall.addTag_tags t _ _ _ _ _

/-- FILL begins, and each of its lines is due with its byte from the second cycle after issue on. -/
theorem issueFill_done (h0 : bitsOf w 11 0 = 0) (hfree : st.spd.copy = none) :
    ∃ (v : Stall) (d : CopyOp), issueFill st c w tack = .done v ∧ v.spd.copy = some d ∧ d.fill = true ∧ d.issue = c ∧
      v.spd.writes.map (fun p => (p.fin, p.addr, p.bytes)) = st.spd.writes.map (fun p => (p.fin, p.addr, p.bytes)) ++
        (List.range (bitsOf w 27 20 + 1)).map fun k =>
          (c + k + 2, (bitsOf w 43 28 + k) % 65536 * 64, List.replicate 64 (BitVec.ofNat 8 (bitsOf w 19 12))) := by
  unfold issueFill
  rw [if_neg (not_not.mpr h0), if_neg (by simp [Stall.copyBusy, hfree])]
  refine ⟨_, ⟨true, c, bitsOf w 27 20 + 1, bitsOf w 43 28, 0, BitVec.ofNat 8 (bitsOf w 19 12), st.wids + 1, tack⟩, rfl, ?copy, rfl,
    rfl, ?writes⟩
  case copy => exact foldl_same (fun t : Stall => t.spd.copy) _ _ fun _ _ => rfl
  case writes =>
    refine foldl_appends (fun t : Stall => t.spd.writes.map fun p => (p.fin, p.addr, p.bytes)) _ _ _ fun t k => ?_
    exact List.map_append

/-! ### Bank power -/

/-- What a PWR at cycle c makes of the power state of a bank of its mask (R186, R188; of a waking bank, log 130). -/
def BankPower.commanded (c : Nat) (wake : Bool) : BankPower → BankPower
  | .down => if wake then .waking (c + 64) else .down
  | .waiting p => if wake then .on else .waiting p
  | .on => if wake then .on else .waiting c
  | .waking r => if wake then .waking r else .waiting c

theorem Spad.sget_setBank (d : Spad) (b : Nat) (p : BankPower) (k : Nat) :
    sget bankOn (d.setBank b p).banks k = if k = b then p else sget bankOn d.banks k := sget_sset _ _ _ _

/-- The bytes that a wake clears are no part of the bank's power state. -/
@[simp] theorem Spad.clearBank_banks (d : Spad) (b : Nat) : (d.clearBank b).banks = d.banks := rfl

theorem Spad.sget_power_same (d : Spad) (c : Nat) (wake : Bool) (b : Nat) :
    sget bankOn (d.power c wake b).banks b = (sget bankOn d.banks b).commanded c wake := by
  unfold Spad.power
  cases wake with
  | true => cases hb : sget bankOn d.banks b <;> simp [BankPower.commanded, Spad.sget_setBank, hb]
  | false => cases hb : sget bankOn d.banks b <;> simp [BankPower.commanded, Spad.sget_setBank, hb]

theorem Spad.sget_power_other (d : Spad) (c : Nat) (wake : Bool) {b k : Nat} (hk : k ≠ b) :
    sget bankOn (d.power c wake b).banks k = sget bankOn d.banks k := by
  unfold Spad.power
  cases wake with
  | true => cases sget bankOn d.banks b <;> simp [Spad.sget_setBank, hk]
  | false => cases sget bankOn d.banks b <;> simp [Spad.sget_setBank, hk]

/-- The power commands of several banks. -/
theorem Spad.sget_powers (c : Nat) (wake : Bool) {l : List Nat} (hl : l.Nodup) (d : Spad) (k : Nat) :
    sget bankOn (l.foldl (fun d b => d.power c wake b) d).banks k =
      if k ∈ l then (sget bankOn d.banks k).commanded c wake else sget bankOn d.banks k := by
  induction l generalizing d with
  | nil => rfl
  | cons b l ih =>
    obtain ⟨hb, hl⟩ := List.nodup_cons.mp hl
    refine (ih hl _).trans ?_
    by_cases hk : k = b
    · subst k; simp [hb, Spad.sget_power_same]
    · simp [hk, Spad.sget_power_other]

theorem issuePwr_done (h0 : bitsOf w 10 0 = 0) (hmask : bitsOf w 43 12 ≠ 0) :
    issuePwr st c w tack = .done { st with
      spd := ((List.range 32).filter fun b => natBit (bitsOf w 43 12) b).foldl
        (fun d b => d.power c (decide (bitsOf w 11 11 = 1)) b) st.spd } := by
  unfold issuePwr
  exact if_neg (by simp [h0, hmask])

/-- Settles O7: COPY and FILL by their effects; PWR bank by bank. -/
theorem spdIssue : Obligations.SpdIssue := by
  intro s i f c h w u
  refine ⟨fun hop h0 hfree => ?copy, fun hop h0 hfree => ?fill, fun hop h0 hmask => ?pwr⟩
  case copy =>
    obtain ⟨v, d, he, hd⟩ := issueCopy_done h0 hfree
    obtain ⟨hret, -, -⟩ := State.issue_selOp h hop (by decide) he
    exact ⟨_, d, rfl, hret, State.issue_selOp_spd h hop he ▸ hd⟩
  case fill =>
    obtain ⟨v, d, he, hd⟩ := issueFill_done h0 hfree
    obtain ⟨hret, -, -⟩ := State.issue_selOp h hop (by decide) he
    exact ⟨_, d, rfl, hret, State.issue_selOp_spd h hop he ▸ hd⟩
  case pwr =>
    have he := issuePwr_done (st := u) (c := c) (tack := f.index) h0 hmask
    obtain ⟨hret, -, -⟩ := State.issue_selOp h hop (by decide) he
    refine ⟨_, rfl, hret, fun b hb => ?_⟩
    rw [State.issue_selOp_spd h hop he]
    refine (Spad.sget_powers c _ (List.nodup_range.filter _) u.spd b).trans ?_
    simp only [List.mem_filter, List.mem_range, hb, true_and]
    congr 1
    generalize decide (bitsOf w 11 11 = 1) = wake
    cases sget bankOn u.spd.banks b <;> cases wake <;> rfl

end Sys2Proof.Machine
end

/-!
# Bank power, indirect access and gather drains

What the commands of the scratchpad's own events leave in their stall: a bank alone changes its power state (R186 to R188), an indirect
access its registers and at most one gather entry (R193), a drain the bytes of its entry (R182).
-/
section
namespace Sys2Proof.Machine

open Sys2Proof.Safety

variable {s : State} {st : Stall} {i : StallId} {x b p line : Nat}

/-! ### A command on a stall as seen from its scratchpad -/

/-- An operation on a stall leaves its scratchpad as the operation has it. -/
theorem State.onStall_spd (s : State) (i x : Nat) (f : Stall → Stall) :
    ((s.onStall i x f).stall i).spd = (f ((s.sync i x).stall i)).spd := (congrArg Stall.spd (s.onStall_stall i x f) :)

theorem State.onStall_cyc (s : State) (i x : Nat) (f : Stall → Stall) : (s.onStall i x f).cyc = s.cyc :=
  (congrArg State.cyc (s.onStall_only i x f).rest :)

/-- An operation on a stall at cycle x finds the stall brought to x, and time has reached x. -/
theorem State.onStall_at (s : State) (i x : Nat) (f : Stall → Stall) :
    x ≤ ((s.at_ x).onStall i x f).cyc ∧ (((s.at_ x).onStall i x f).stall i).spd = (f ((brought s i x).stall i)).spd :=
  ⟨(State.onStall_cyc (s.at_ x) i x f).symm ▸ le_max_right s.cyc x, State.onStall_spd _ _ _ _⟩

/-! ### Bank power -/

/-- Cells taken away by their keys are no other key's. -/
theorem sget_filter_key {α : Type} {d : Nat → α} {q : Nat → Bool} {k : Nat} (hk : q k = true) (m : Sparse α) :
    sget d (m.filter fun c => q c.1) k = sget d m k := by
  induction m with
  | nil => rfl
  | cons c m ih =>
    rw [List.filter_cons]
    split
    · rw [sget_cons, sget_cons, ih]
    · rename_i hc
      rw [sget_cons, if_neg (fun h : k = c.1 => hc (h ▸ hk)), ih]

/-- A bank that is cleared leaves the bytes of every other. -/
theorem Spad.clearBank_get (d : Spad) {b a : Nat} (ha : bankOfLine d.tmap (a / 64) ≠ b) : (d.clearBank b).mem.get a = d.mem.get a :=
  sget_filter_key (q := fun k => decide (bankOfLine d.tmap (k / 64) ≠ b)) (decide_eq_true ha) d.mem

theorem Stall.bankDown_done (hw : sget bankOn st.spd.banks b = .waiting p) (hp : p < x) (hx : x < p + 2048)
    (hf : st.bankInFlight x b = false) : st.bankDown x b = { st with spd := (st.spd.clearBank b).setBank b .down } := by
  unfold Stall.bankDown
  rw [hw]
  exact if_pos ⟨hp, hx, by simp [hf]⟩

/-- A power-down that has waited 2,048 cycles: the bank is on, and recorded where it was not recorded before. -/
theorem Stall.bankCancel_done (hw : sget bankOn st.spd.banks b = .waiting p) (hx : p + 2048 ≤ x) :
    (st.bankCancel x b).spd.mem = st.spd.mem ∧ (st.bankCancel x b).spd.banks = (st.spd.setBank b .on).banks ∧
      b ∈ (st.bankCancel x b).spd.cancelled := by
  unfold Stall.bankCancel
  rw [hw]
  dsimp only
  rw [if_pos hx]
  split
  · exact ⟨rfl, rfl, ‹_›⟩
  · exact ⟨rfl, rfl, List.mem_append_right _ (List.mem_singleton.mpr rfl)⟩

theorem Stall.bankWakeDone_done (hw : sget bankOn st.spd.banks b = .waking p) (hx : p ≤ x) :
    st.bankWakeDone x b = { st with spd := st.spd.setBank b .on } := by
  unfold Stall.bankWakeDone
  rw [hw]
  exact if_pos hx

theorem execBankPowerDown_waiting {b : Fin 32} (hc : s.clocked = true) (hw : sget bankOn (s.stall i.val).spd.banks b.val = .waiting p)
    (hx : max (s.stallNow i.val) (p + 1) = x) :
    exec (.bankPowerDown i b) s = .next ((s.at_ x).onStall i.val x fun t => t.bankDown x b.val) := by
  show execBankPowerDown i b s = _
  unfold execBankPowerDown
  rw [hw, ← hx]
  exact congrArg Host.Outcome.next (if_pos hc)

theorem execBankPowerDownCancel_waiting {b : Fin 32} (hc : s.clocked = true)
    (hw : sget bankOn (s.stall i.val).spd.banks b.val = .waiting p) (hx : max (s.stallNow i.val) (p + 2048) = x) :
    exec (.bankPowerDownCancel i b) s = .next ((s.at_ x).onStall i.val x fun t => t.bankCancel x b.val) := by
  show execBankPowerDownCancel i b s = _
  unfold execBankPowerDownCancel
  rw [hw, ← hx]
  exact congrArg Host.Outcome.next (if_pos hc)

theorem execBankWakeDone_waking {b : Fin 32} (hc : s.clocked = true) (hw : sget bankOn (s.stall i.val).spd.banks b.val = .waking p)
    (hx : max (s.stallNow i.val) p = x) :
    exec (.bankWakeDone i b) s = .next ((s.at_ x).onStall i.val x fun t => t.bankWakeDone x b.val) := by
  show execBankWakeDone i b s = _
  unfold execBankWakeDone
  rw [hw, ← hx]
  exact congrArg Host.Outcome.next (if_pos hc)

theorem bankPowerDown_effect {b : Fin 32} (hc : s.clocked = true) (hw : sget bankOn (s.stall i.val).spd.banks b.val = .waiting p) :
    let x := max (s.stallNow i.val) (p + 1)
    let u := (brought s i.val x).stall i.val
    sget bankOn u.spd.banks b.val = .waiting p → x < p + 2048 → u.bankInFlight x b.val = false →
      ∃ t, exec (.bankPowerDown i b) s = .next t ∧ x ≤ t.cyc ∧
        (∀ k, sget bankOn (t.stall i.val).spd.banks k = if k = b.val then .down else sget bankOn u.spd.banks k) ∧
        (∀ a, bankOfLine u.spd.tmap (a / 64) ≠ b.val → (t.stall i.val).spd.mem.get a = u.spd.mem.get a) := by
  intro x u hu hx hf
  obtain ⟨hcyc, hspd⟩ := s.onStall_at i.val x fun t => t.bankDown x b.val
  rw [Stall.bankDown_done hu (le_max_right _ _ : p + 1 ≤ x) hx hf] at hspd
  refine ⟨_, execBankPowerDown_waiting hc hw rfl, hcyc, fun k => ?_, fun a ha => ?_⟩
  · rw [hspd]; exact Spad.sget_setBank _ _ _ _
  · rw [hspd]; exact u.spd.clearBank_get ha

theorem bankPowerDownCancel_effect {b : Fin 32} (hc : s.clocked = true)
    (hw : sget bankOn (s.stall i.val).spd.banks b.val = .waiting p) :
    let x := max (s.stallNow i.val) (p + 2048)
    let u := (brought s i.val x).stall i.val
    sget bankOn u.spd.banks b.val = .waiting p →
      ∃ t, exec (.bankPowerDownCancel i b) s = .next t ∧ x ≤ t.cyc ∧ (t.stall i.val).spd.mem = u.spd.mem ∧
        (∀ k, sget bankOn (t.stall i.val).spd.banks k = if k = b.val then .on else sget bankOn u.spd.banks k) ∧
        b.val ∈ (t.stall i.val).spd.cancelled := by
  intro x u hu
  obtain ⟨hcyc, hspd⟩ := s.onStall_at i.val x fun t => t.bankCancel x b.val
  obtain ⟨hmem, hbanks, hcancelled⟩ := Stall.bankCancel_done hu (le_max_right _ _ : p + 2048 ≤ x)
  refine ⟨_, execBankPowerDownCancel_waiting hc hw rfl, hcyc, ?_, fun k => ?_, ?_⟩
  · rw [hspd]; exact hmem
  · rw [hspd]; exact hbanks ▸ Spad.sget_setBank _ _ _ _
  · rw [hspd]; exact hcancelled

theorem bankWakeDone_effect {b : Fin 32} (hc : s.clocked = true) (hw : sget bankOn (s.stall i.val).spd.banks b.val = .waking p) :
    let x := max (s.stallNow i.val) p
    let u := (brought s i.val x).stall i.val
    sget bankOn u.spd.banks b.val = .waking p →
      ∃ t, exec (.bankWakeDone i b) s = .next t ∧ x ≤ t.cyc ∧ (t.stall i.val).spd.mem = u.spd.mem ∧
        ∀ k, sget bankOn (t.stall i.val).spd.banks k = if k = b.val then .on else sget bankOn u.spd.banks k := by
  intro x u hu
  obtain ⟨hcyc, hspd⟩ := s.onStall_at i.val x fun t => t.bankWakeDone x b.val
  rw [Stall.bankWakeDone_done hu (le_max_right _ _ : p ≤ x)] at hspd
  refine ⟨_, execBankWakeDone_waking hc hw rfl, hcyc, ?_, fun k => ?_⟩
  · rw [hspd]; rfl
  · rw [hspd]; exact Spad.sget_setBank _ _ _ _

/-! ### Indirect access -/

/-- What the host's indirect write finds where an entry is free: the data merged into a new unscheduled entry of the line. -/
theorem Spad.gatherPut_new {d : Spad} {data : List Byte} (hline : line < 65536) (hfree : d.poolTaken x 2 < 12)
    (hnew : ∀ g ∈ d.gather, g.line ≠ line) :
    d.gatherPut x 2 (line * 64) data =
      ({ d with gather := d.gather ++ [mergeLine ⟨line, 2, List.replicate 64 false, zeroBytes 64, x, 0⟩ 0 data] }, true) := by
  have haddr : line * 64 % spdSize / 64 = line := by unfold spdSize; omega
  unfold Spad.gatherPut
  simp only [haddr, Nat.mul_mod_left]
  rw [if_neg (by simpa using hnew)]
  exact if_pos hfree

/-- A write into the gather buffer leaves the bytes of the banks. -/
theorem Spad.gatherPut_mem (d : Spad) (x pool addr : Nat) (bs : List Byte) : (d.gatherPut x pool addr bs).1.mem = d.mem := by
  unfold Spad.gatherPut
  dsimp only
  split
  · rfl
  · split <;> split <;> rfl

/-- The host's indirect write leaves in the scratchpad what the gather buffer made of it, and says whether it was taken. -/
theorem Stall.putInd_spd (st : Stall) (x : Nat) :
    (st.putInd x).spd =
      { (st.spd.gatherPut x 2 (st.spd.ind.line * 64) st.spd.ind.data).1 with
        ind := { st.spd.ind with
          waiting := !(st.spd.gatherPut x 2 (st.spd.ind.line * 64) st.spd.ind.data).2
          fin := (st.spd.gatherPut x 2 (st.spd.ind.line * 64) st.spd.ind.data).2 } } := by
  unfold Stall.putInd
  dsimp only
  split <;> rfl

theorem Stall.putInd_mem (st : Stall) (x : Nat) : (st.putInd x).spd.mem = st.spd.mem := by
  rw [Stall.putInd_spd]
  exact Spad.gatherPut_mem _ _ _ _ _

theorem Stall.retryInd_mem (st : Stall) (x : Nat) : (st.retryInd x).spd.mem = st.spd.mem := by
  unfold Stall.retryInd
  split
  · exact st.putInd_mem x
  · rfl

/-- What a go for a read does in its stall (R193). -/
def Stall.goRead (x line : Nat) (st : Stall) : Stall :=
  if st.bankUp x line then st.setInd fun d => ⟨line, true, false, false, false, d.data⟩ else st.refuseInd line false

/-- What a go for a write does in its stall, where writes are taken (`free`) and where they are not (R193). -/
def Stall.goWrite (free : Bool) (x line : Nat) (st : Stall) : Stall :=
  if !free || !st.bankUp x line then st.refuseInd line true else (st.setInd fun d => ⟨line, true, false, false, true, d.data⟩).putInd x

theorem execSpdIndirectRead_go {v : Word} (hs : s.awake = true) (hgo : natBit v.toNat 31 = true) (hr : natBit v.toNat 30 = false)
    (hx : s.stallNow i.val = x) (hl : natBits v.toNat 15 0 = line) :
    exec (.spdIndirectRead i v) s =
      .next ((s.writeReg (stallReg A.stlSpdIaddr i.val) v.toNat).onStall i.val x (Stall.goRead x line)) := by
  subst hx hl
  show execSpdIndirectRead i v s = _
  unfold execSpdIndirectRead
  rw [if_pos (by simp [hs, hgo, hr])]
  rfl

theorem execSpdIndirectWrite_go {v : Word} (hs : s.awake = true) (hgo : natBit v.toNat 31 = true) (hw : natBit v.toNat 30 = true)
    (hx : s.stallNow i.val = x) (hl : natBits v.toNat 15 0 = line) :
    exec (.spdIndirectWrite i v) s =
      .next ((s.writeReg (stallReg A.stlSpdIaddr i.val) v.toNat).onStall i.val x (Stall.goWrite (!s.running) x line)) := by
  subst hx hl
  show execSpdIndirectWrite i v s = _
  unfold execSpdIndirectWrite
  rw [if_pos (by simp [hs, hgo, hw])]
  rfl

theorem Stall.goRead_mem (st : Stall) (x line : Nat) : (st.goRead x line).spd.mem = st.spd.mem := by
  unfold Stall.goRead
  split <;> rfl

theorem Stall.goRead_waits (hup : st.bankUp x line = true) :
    (st.goRead x line).spd.ind = ⟨line, true, false, false, false, st.spd.ind.data⟩ := by
  unfold Stall.goRead
  rw [if_pos hup]
  rfl

theorem Stall.goRead_refused (hdown : st.bankUp x line = false) :
    (st.goRead x line).spd.ind = ⟨line, false, false, true, false, zeroBytes 64⟩ := by
  unfold Stall.goRead
  rw [if_neg (by simp [hdown])]
  rfl

theorem Stall.goWrite_mem (st : Stall) (free : Bool) (x line : Nat) : (st.goWrite free x line).spd.mem = st.spd.mem := by
  unfold Stall.goWrite
  split
  · rfl
  · exact Stall.putInd_mem _ _

theorem Stall.goWrite_taken (hline : line < 65536) (hup : st.bankUp x line = true) (hfree : st.spd.poolTaken x 2 < 12)
    (hnew : ∀ g ∈ st.spd.gather, g.line ≠ line) :
    (st.goWrite true x line).spd = { st.spd with
      gather := st.spd.gather ++ [mergeLine ⟨line, 2, List.replicate 64 false, zeroBytes 64, x, 0⟩ 0 st.spd.ind.data]
      ind := ⟨line, false, true, false, true, st.spd.ind.data⟩ } := by
  unfold Stall.goWrite
  rw [if_neg (by simp [hup]), Stall.putInd_spd]
  exact congrArg (fun r : Spad × Bool => { r.1 with ind := ⟨line, !r.2, r.2, false, true, st.spd.ind.data⟩ })
    (Spad.gatherPut_new (d := (st.setInd fun d => ⟨line, true, false, false, true, d.data⟩).spd) hline hfree hnew)

theorem Stall.goWrite_refused {free : Bool} (h : free = false ∨ st.bankUp x line = false) :
    (st.goWrite free x line).spd = { st.spd with ind := ⟨line, false, false, true, true, st.spd.ind.data⟩ } := by
  unfold Stall.goWrite
  rw [if_pos (by simpa using h)]
  rfl

/-- A go for a read, at the stall `u` as the access finds it. -/
theorem spdIndirectRead_effect {v : Word} {u : Stall} (hs : s.awake = true) (hgo : natBit v.toNat 31 = true)
    (hr : natBit v.toNat 30 = false) (hx : s.stallNow i.val = x) (hl : natBits v.toNat 15 0 = line)
    (hu : ((s.writeReg (stallReg A.stlSpdIaddr i.val) v.toNat).sync i.val x).stall i.val = u) :
    ∃ t, exec (.spdIndirectRead i v) s = .next t ∧ (t.stall i.val).spd.mem = u.spd.mem ∧
      (u.bankUp x line = true → (t.stall i.val).spd.ind = ⟨line, true, false, false, false, u.spd.ind.data⟩) ∧
      (u.bankUp x line = false → (t.stall i.val).spd.ind = ⟨line, false, false, true, false, zeroBytes 64⟩) := by
  refine ⟨_, execSpdIndirectRead_go hs hgo hr hx hl, ?_⟩
  rw [State.onStall_spd, hu]
  exact ⟨u.goRead_mem x line, Stall.goRead_waits, Stall.goRead_refused⟩

/-- A go for a write, at the stall `u` as the access finds it. -/
theorem spdIndirectWrite_effect {v : Word} {u : Stall} (hs : s.awake = true) (hgo : natBit v.toNat 31 = true)
    (hw : natBit v.toNat 30 = true) (hx : s.stallNow i.val = x) (hl : natBits v.toNat 15 0 = line)
    (hu : ((s.writeReg (stallReg A.stlSpdIaddr i.val) v.toNat).sync i.val x).stall i.val = u) :
    ∃ t, exec (.spdIndirectWrite i v) s = .next t ∧ (t.stall i.val).spd.mem = u.spd.mem ∧
      (s.running = false → u.bankUp x line = true → u.spd.poolTaken x 2 < 12 → (∀ g ∈ u.spd.gather, g.line ≠ line) →
        (t.stall i.val).spd.ind.waiting = false ∧ (t.stall i.val).spd.ind.fin = true ∧ (t.stall i.val).spd.ind.refused = false ∧
        (t.stall i.val).spd.gather = u.spd.gather ++
          [mergeLine ⟨line, 2, List.replicate 64 false, zeroBytes 64, x, 0⟩ 0 u.spd.ind.data]) ∧
      (s.running = true ∨ u.bankUp x line = false →
        (t.stall i.val).spd.ind = ⟨line, false, false, true, true, u.spd.ind.data⟩ ∧ (t.stall i.val).spd.gather = u.spd.gather) := by
  have hline : line < 65536 := hl ▸ natBits_lt v.toNat 15 0
  refine ⟨_, execSpdIndirectWrite_go hs hgo hw hx hl, ?_⟩
  rw [State.onStall_spd, hu]
  refine ⟨u.goWrite_mem _ x line, fun hrun hup hfree hnew => ?_, fun hrefuse => ?_⟩
  · rw [hrun, Bool.not_false, Stall.goWrite_taken hline hup hfree hnew]
    exact ⟨rfl, rfl, rfl, rfl⟩
  · rw [Stall.goWrite_refused (by simpa using hrefuse)]
    exact ⟨rfl, rfl⟩

/-- A host read that finds bad parity changes neither bytes nor the access. -/
theorem Stall.hostParity_frame (st : Stall) (x line : Nat) :
    (st.hostParity x line).spd.mem = st.spd.mem ∧ (st.hostParity x line).spd.ind = st.spd.ind := by
  unfold Stall.hostParity
  split
  · exact ⟨rfl, rfl⟩
  · dsimp only
    split <;> exact ⟨rfl, rfl⟩

/-- The 64 bytes of a line as the stall sees them at cycle x. -/
def Stall.spdLine (st : Stall) (x line : Nat) : List Byte := (List.range 64).map fun k => st.spdByte x (line * 64 + k)

/-- What the sample of a waiting indirect read does in its stall (R193). -/
def Stall.sampleInd (x : Nat) (st : Stall) : Stall :=
  if st.readPortHeld x st.spd.ind.line then st
  else if !st.bankUp x st.spd.ind.line then st.refuseInd st.spd.ind.line false
  else (st.hostParity x st.spd.ind.line).setInd fun d => { d with waiting := false, fin := true, data := st.spdLine x st.spd.ind.line }

theorem execIndirectReadSample_waiting (hc : s.clocked = true) (hw : (s.stall i.val).spd.ind.waiting = true)
    (hr : (s.stall i.val).spd.ind.write = false) :
    exec (.indirectReadSample i) s = .next ((s.at_ (s.stallNow i.val)).onStall i.val (s.stallNow i.val)
      (Stall.sampleInd (s.stallNow i.val))) := by
  show execIndirectReadSample i s = _
  unfold execIndirectReadSample
  rw [if_pos (by simp [hc, hw, hr])]
  rfl

theorem Stall.sampleInd_done (hp : st.readPortHeld x st.spd.ind.line = false) (hup : st.bankUp x st.spd.ind.line = true) :
    (st.sampleInd x).spd.mem = st.spd.mem ∧
      (st.sampleInd x).spd.ind = { st.spd.ind with waiting := false, fin := true, data := st.spdLine x st.spd.ind.line } := by
  obtain ⟨hmem, hind⟩ := st.hostParity_frame x st.spd.ind.line
  unfold Stall.sampleInd
  rw [if_neg (by simp [hp]), if_neg (by simp [hup])]
  refine ⟨hmem, ?_⟩
  show { (st.hostParity x st.spd.ind.line).spd.ind with waiting := false, fin := true, data := st.spdLine x st.spd.ind.line } = _
  rw [hind]

theorem Stall.sampleInd_held (hp : st.readPortHeld x st.spd.ind.line = true) : st.sampleInd x = st := if_pos hp

/-- A waiting read whose bank's read port is free, at the stall `u` as the sample finds it. -/
theorem indirectReadSample_effect {u : Stall} (hc : s.clocked = true) (hw : (s.stall i.val).spd.ind.waiting = true)
    (hr : (s.stall i.val).spd.ind.write = false) (hx : s.stallNow i.val = x) (hu : (brought s i.val x).stall i.val = u)
    (hp : u.readPortHeld x u.spd.ind.line = false) (hup : u.bankUp x u.spd.ind.line = true) :
    ∃ t, exec (.indirectReadSample i) s = .next t ∧ (t.stall i.val).spd.ind.waiting = false ∧
      (t.stall i.val).spd.ind.fin = true ∧ (t.stall i.val).spd.mem = u.spd.mem ∧
      (t.stall i.val).spd.ind.data = (List.range 64).map fun k => u.spdByte x (u.spd.ind.line * 64 + k) := by
  subst hx
  obtain ⟨-, hspd⟩ := s.onStall_at i.val (s.stallNow i.val) (Stall.sampleInd (s.stallNow i.val))
  rw [hu] at hspd
  obtain ⟨hmem, hind⟩ := Stall.sampleInd_done hp hup
  refine ⟨_, execIndirectReadSample_waiting hc hw hr, ?_⟩
  rw [hspd, hind, hmem]
  exact ⟨rfl, rfl, rfl, rfl⟩

/-- A waiting read whose bank's read port is held waits on. -/
theorem indirectReadSample_held {u : Stall} (hc : s.clocked = true) (hw : (s.stall i.val).spd.ind.waiting = true)
    (hr : (s.stall i.val).spd.ind.write = false) (hx : s.stallNow i.val = x) (hu : (brought s i.val x).stall i.val = u)
    (hp : u.readPortHeld x u.spd.ind.line = true) :
    ∃ t, exec (.indirectReadSample i) s = .next t ∧ quietly (t.stall i.val) = quietly u := by
  subst hx
  have hstall := (s.at_ (s.stallNow i.val)).onStall_stall i.val (s.stallNow i.val) (Stall.sampleInd (s.stallNow i.val))
  refine ⟨_, execIndirectReadSample_waiting hc hw hr, hstall.trans ?_⟩
  rw [show ((s.at_ (s.stallNow i.val)).sync i.val (s.stallNow i.val)).stall i.val = u from hu, Stall.sampleInd_held hp]

/-! ### Gather drains -/

/-- Byte a holds v after a run of writes in which every write of a writes v, where one does or a held v before. -/
theorem Memory.get_writes {l : List (Nat × Byte)} {m : Memory} {a : Nat} {v : Byte} (hl : ∀ c ∈ l, c.1 = a → c.2 = v)
    (h : (∃ c ∈ l, c.1 = a) ∨ m.get a = v) : (l.foldl (fun m c => m.set c.1 c.2) m).get a = v := by
  induction l generalizing m with
  | nil =>
    rcases h with ⟨c, hc, -⟩ | h
    · exact absurd hc List.not_mem_nil
    · exact h
  | cons c l ih =>
    have hset : (m.set c.1 c.2).get a = if a = c.1 then c.2 else m.get a := sget_sset _ _ _ _
    refine ih (fun e he => hl e (List.mem_cons_of_mem _ he)) ?_
    by_cases hc : c.1 = a
    · exact .inr (by rw [hset, if_pos hc.symm]; exact hl c List.mem_cons_self hc)
    · rcases h with ⟨e, he, ha⟩ | h
      · refine .inl ⟨e, (List.mem_cons.mp he).resolve_left ?_, ha⟩
        rintro rfl
        exact hc ha
      · exact .inr (by rw [hset, if_neg (Ne.symm hc)]; exact h)

theorem getD_false_eq_true {l : List Bool} {k : Nat} : l.getD k false = true ↔ l[k]? = some true := by
  rw [List.getD_eq_getElem?_getD]
  cases l[k]? <;> simp

/-- The cells of an entry are its valid bytes, each at its place in the line. -/
theorem Gather.mem_cells (g : Gather) (c : Nat × Byte) :
    c ∈ g.cells ↔ ∃ k, g.valid.getD k false = true ∧ c = (g.line * 64 + k, g.bytes.getD k 0) := by
  unfold Gather.cells
  simp only [List.mem_map, List.mem_filter, Prod.exists, List.mem_zipIdx_iff_getElem?, getD_false_eq_true]
  constructor
  · rintro ⟨v, k, ⟨hk, rfl⟩, rfl⟩
    exact ⟨k, hk, rfl⟩
  · rintro ⟨k, hk, rfl⟩
    exact ⟨true, k, ⟨hk, rfl⟩, rfl⟩

/-- A valid byte of an entry is drained into its place. -/
theorem Gather.get_drained_valid (g : Gather) (m : Memory) {k : Nat} (hk : g.valid.getD k false = true) :
    (g.cells.foldl (fun m c => m.set c.1 c.2) m).get (g.line * 64 + k) = g.bytes.getD k 0 := by
  refine Memory.get_writes (fun c hc ha => ?_) (.inl ⟨_, (g.mem_cells _).mpr ⟨k, hk, rfl⟩, rfl⟩)
  obtain ⟨j, -, rfl⟩ := (g.mem_cells c).mp hc
  rw [Nat.add_left_cancel ha]

/-- Where an entry has no valid byte, its drain changes nothing. -/
theorem Gather.get_drained_other (g : Gather) (m : Memory) {a : Nat}
    (ha : ∀ k, g.valid.getD k false = true → g.line * 64 + k ≠ a) :
    (g.cells.foldl (fun m c => m.set c.1 c.2) m).get a = m.get a := by
  refine Memory.get_writes (fun c hc hca => ?_) (.inr rfl)
  obtain ⟨k, hk, rfl⟩ := (g.mem_cells c).mp hc
  exact absurd hca (ha k hk)

theorem Gather.lt_of_valid {g : Gather} (hlen : g.valid.length ≤ 64) {k : Nat} (hk : g.valid.getD k false = true) : k < 64 :=
  (List.getElem?_eq_some_iff.mp (getD_false_eq_true.mp hk)).1.trans_le hlen

theorem Stall.gatherDrain_stays {g : Gather}
    (hfind : st.spd.gather.find? (fun g => g.line = line && g.valid.any id && decide (g.since ≤ x)) = some g)
    (h : st.drainable x g = false ∨ st.outranked x g = true) : st.gatherDrain x line = st := by
  unfold Stall.gatherDrain
  rw [hfind]
  exact if_pos (by simpa using h)

/-- Writing cells one by one in a stall writes them in its memory. -/
theorem Stall.writeCells_mem (l : List (Nat × Byte)) (st : Stall) :
    (l.foldl (fun (st : Stall) c => { st with spd := { st.spd with mem := st.spd.mem.set c.1 c.2 } }) st).spd.mem =
      l.foldl (fun m c => m.set c.1 c.2) st.spd.mem := by
  induction l generalizing st with
  | nil => rfl
  | cons c l ih => exact ih _

/-- A drain writes the cells of its entry; the parity of the sectors that it covers leaves the bytes of the scratchpad. -/
theorem Stall.gatherDrain_mem {g : Gather}
    (hfind : st.spd.gather.find? (fun g => g.line = line && g.valid.any id && decide (g.since ≤ x)) = some g)
    (hd : st.drainable x g = true) (ho : st.outranked x g = false) (hup : st.bankUp x line = true) :
    (st.gatherDrain x line).spd.mem = g.cells.foldl (fun m c => m.set c.1 c.2) st.spd.mem := by
  unfold Stall.gatherDrain
  rw [hfind]
  dsimp only
  rw [if_neg (by simp [hd, ho]), if_pos (show Stall.bankUp { st with spd := st.spd.drained x g } x line = true from hup)]
  refine (Stall.writeCells_mem _ _).trans (congrArg (g.cells.foldl _) ?_)
  split
  · rfl
  · dsimp only [Stall.raise, Stall.spdBit]
    split <;> rfl

/-- What GATHER_DRAIN does in its stall: the entry drains, and a waiting indirect write tries again (R182, R193). -/
def Stall.drainLine (x line : Nat) (st : Stall) : Stall := (st.gatherDrain x line).retryInd x

theorem execGatherDrain_clocked {l : BitVec 16} (hc : s.clocked = true) :
    exec (.gatherDrain i l) s = .next ((s.at_ (s.stallNow i.val)).onStall i.val (s.stallNow i.val)
      (Stall.drainLine (s.stallNow i.val) l.toNat)) := by
  show execGatherDrain i l s = _
  unfold execGatherDrain
  rw [if_pos hc]
  rfl

theorem Stall.drainLine_mem (st : Stall) (x line : Nat) : (st.drainLine x line).spd.mem = (st.gatherDrain x line).spd.mem :=
  Stall.retryInd_mem _ _

/-- An entry that may not drain in this cycle leaves every byte of the scratchpad. -/
theorem gatherDrain_held {u : Stall} {l : BitVec 16} {g : Gather} (hc : s.clocked = true) (hx : s.stallNow i.val = x)
    (hu : (brought s i.val x).stall i.val = u)
    (hfind : u.spd.gather.find? (fun g => g.line = l.toNat && g.valid.any id && decide (g.since ≤ x)) = some g)
    (h : u.drainable x g = false ∨ u.outranked x g = true) :
    ∃ t, exec (.gatherDrain i l) s = .next t ∧ (t.stall i.val).spd.mem = u.spd.mem := by
  subst hx
  obtain ⟨-, hspd⟩ := s.onStall_at i.val (s.stallNow i.val) (Stall.drainLine (s.stallNow i.val) l.toNat)
  rw [hu] at hspd
  refine ⟨_, execGatherDrain_clocked hc, ?_⟩
  rw [hspd, Stall.drainLine_mem, Stall.gatherDrain_stays hfind h]

/-- An entry that drains: its valid bytes stand in their line, every other byte as before. -/
theorem gatherDrain_effect {u : Stall} {l : BitVec 16} {g : Gather} (hc : s.clocked = true) (hx : s.stallNow i.val = x)
    (hu : (brought s i.val x).stall i.val = u)
    (hfind : u.spd.gather.find? (fun g => g.line = l.toNat && g.valid.any id && decide (g.since ≤ x)) = some g)
    (hlen : g.valid.length ≤ 64) (hd : u.drainable x g = true) (ho : u.outranked x g = false) (hup : u.bankUp x l.toNat = true) :
    ∃ t, exec (.gatherDrain i l) s = .next t ∧ x ≤ t.cyc ∧
      (∀ a, a / 64 ≠ l.toNat → (t.stall i.val).spd.mem.get a = u.spd.mem.get a) ∧
      (∀ k < 64, g.valid.getD k false = true → (t.stall i.val).spd.mem.get (l.toNat * 64 + k) = g.bytes.getD k 0) ∧
      (∀ k < 64, g.valid.getD k false = false →
        (t.stall i.val).spd.mem.get (l.toNat * 64 + k) = u.spd.mem.get (l.toNat * 64 + k)) := by
  subst hx
  obtain ⟨hcyc, hspd⟩ := s.onStall_at i.val (s.stallNow i.val) (Stall.drainLine (s.stallNow i.val) l.toNat)
  rw [hu] at hspd
  have hline : g.line = l.toNat := by
    have hg := List.find?_some hfind
    simp only [Bool.and_eq_true, decide_eq_true_eq] at hg
    exact hg.1.1
  refine ⟨_, execGatherDrain_clocked hc, hcyc, ?_⟩
  rw [hspd, Stall.drainLine_mem, Stall.gatherDrain_mem hfind hd ho hup, ← hline]
  refine ⟨fun a ha => ?outside, fun k _ hk => g.get_drained_valid _ hk, fun k _ hk => ?invalid⟩
  case outside =>
    refine g.get_drained_other _ fun k hk => ?_
    have := Gather.lt_of_valid hlen hk
    omega
  case invalid =>
    refine g.get_drained_other _ fun j hj hjk => ?_
    rw [Nat.add_left_cancel hjk, hk] at hj
    cases hj

/-! ### The statement -/

/-- Settles O11, command by command. -/
theorem bankPowerCommands : Obligations.BankPowerCommands := by
  refine ⟨fun s i b p hc => ?power, fun s i v hs hgo => ?access, fun s i hc => ⟨fun hw hr => ?sample, fun l g hfind => ?drain⟩⟩
  case power => exact ⟨bankPowerDown_effect hc, bankPowerDownCancel_effect hc, bankWakeDone_effect hc⟩
  case access =>
    exact ⟨fun hr => spdIndirectRead_effect hs hgo hr rfl rfl rfl, fun hw => spdIndirectWrite_effect hs hgo hw rfl rfl rfl⟩
  case sample => exact ⟨indirectReadSample_effect hc hw hr rfl rfl, indirectReadSample_held hc hw hr rfl rfl⟩
  case drain => exact ⟨gatherDrain_held hc rfl rfl hfind, gatherDrain_effect hc rfl rfl hfind⟩

end Sys2Proof.Machine
end

/-!
# Issue of the stream instructions

What START, HALT, SETCTX and PONY leave in their stall where their fields are legal and their rules on the state are met (R235, R236, R264,
R269, R270).
-/
section
namespace Sys2Proof.Machine

open Sys2Proof.Safety

variable {s : State} {i c x : Nat} {f : Fetched} {w : Insn} {tack op : Nat} {st : Stall} {e : StallEnv}

/-! ### Contexts of a stall -/

@[simp] theorem Stall.ctx_setCtx (st : Stall) (n m : Nat) (k : Ctx) :
    (st.setCtx n k).ctx m = if m = n then k else st.ctx m := sget_sset _ _ _ _

/-- Settling contexts marks no descriptor and no program as bad, and good none. -/
theorem Stall.settleCtxs_bad (st : Stall) (x : Nat) :
    (st.settleCtxs x).str.badDescs = st.str.badDescs ∧ (st.settleCtxs x).str.badProgs = st.str.badProgs :=
  ⟨foldl_same (fun t : Stall => t.str.badDescs) _ _ fun _ _ => rfl, foldl_same (fun t : Stall => t.str.badProgs) _ _ fun _ _ => rfl⟩

/-! ### An issue as seen from the streams and the pony port -/

/-- An instruction whose effect is `v` leaves the streams and the pony port as `v` has them. -/
theorem State.issue_selOp_lanes {eff : Stall → Nat → Insn → Nat → Issue} {v : Stall} (h : Issues s i f c) (hop : opcodeOf f.word = op)
    (he : eff (atIssue s i (opcodeOf f.word) c) c f.word f.index = .done v) :
    ((s.issue i (selOp op) eff).stall i).str = v.str ∧ ((s.issue i (selOp op) eff).stall i).pony = v.pony := by
  have hsel : selOp op f.word f.check = true := by simp [selOp, hop, h.good]
  have hdone := State.issue_done h hsel he
  exact ⟨(congrArg Stall.str hdone :), (congrArg Stall.pony hdone :)⟩

/-! ### START, HALT, SETCTX -/

/-- The program that a profile holds for a descriptor. -/
def StallEnv.programOf (e : StallEnv) (d : List Byte) : List Nat :=
  match e.profile.progs.find? (fun p => p.1 = sdProgram d) with
  | some p => p.2
  | none => []

/-- A context that a START of the word w has begun at cycle c. -/
structure Ctx.Started (k : Ctx) (w : Insn) (c : Nat) : Prop where
  active : k.state = .active
  start : k.start = c
  desc : k.desc = bitsOf w 40 35
  serving : k.serving = decide (bitsOf w 34 34 = 1)
  request : k.request = bitsOf w 33 26

theorem issueStart_done {d : Nat × List Byte} (hd : e.profile.descs.find? (fun d => d.1 = bitsOf w 40 35) = some d)
    (h0 : bitsOf w 25 0 = 0) (hreq : bitsOf w 34 34 ≠ 1 → bitsOf w 33 26 = 0) (hfree : (st.ctx (bitsOf w 43 41)).activeAt c = false)
    (hserial : st.str.serial = true → ∀ m < 8, (st.ctx m).activeAt c = false) (hdesc : bitsOf w 40 35 ∉ st.str.badDescs)
    (hprog : sdProgram d.2 ∉ st.str.badProgs) (hok : progOk (e.programOf d.2) (sdFmtEn d.2) = true) :
    ∃ v, issueStart e st c w tack = .done v ∧ (v.ctx (bitsOf w 43 41)).Started w c := by
  obtain ⟨hbadDescs, hbadProgs⟩ := st.settleCtxs_bad c
  unfold issueStart
  extract_lets n k serving req u old mv dur blank
  rw [hd]
  dsimp -zeta only
  extract_lets prog lines new v
  have hlegal : ¬(bitsOf w 25 0 ≠ 0 ∨ (serving = false ∧ req ≠ 0)) := by
    simp only [serving, req, decide_eq_false_iff_not]
    rintro (h | ⟨h, hr⟩)
    · exact h h0
    · exact hr (hreq h)
  have hmet : ¬((st.ctx n).activeAt c || (st.str.serial && (List.range 8).any fun m => (st.ctx m).activeAt c)) = true := by
    cases hs : st.str.serial with
    | false => simp [n, hfree]
    | true => simpa [n, hfree] using hserial hs
  have hgood : ¬(k ∈ v.str.badDescs ∨ sdProgram d.2 ∈ v.str.badProgs ∨ (!progOk prog (sdFmtEn d.2)) = true) := by
    rintro (h | h | h)
    · exact hdesc (hbadDescs ▸ h)
    · exact hprog (hbadProgs ▸ h)
    · rw [show progOk prog (sdFmtEn d.2) = true from hok] at h
      cases h
  rw [if_neg hlegal, if_neg hmet, if_neg hgood]
  have hctx : v.ctx n = { new with duration := if dur = 0 then new.ideal else dur } := (Stall.ctx_setCtx _ _ _ _).trans (if_pos rfl)
  exact ⟨v, rfl, hctx ▸ ⟨rfl, rfl, rfl, rfl, rfl⟩⟩

theorem issueHalt_done (h0 : bitsOf w 40 0 = 0) (ha : (st.ctx (bitsOf w 43 41)).activeAt c = true) :
    ∃ (v : Stall) (h : Nat), issueHalt st c w tack = .done v ∧ (v.ctx (bitsOf w 43 41)).halted = some h ∧ h ≤ c ∧
      ∀ m, m ≠ bitsOf w 43 41 → v.ctx m = st.ctx m := by
  unfold issueHalt
  extract_lets n k h
  rw [if_neg (not_not.mpr h0), if_neg (by simp [k, n, ha])]
  refine ⟨_, h, rfl, by simp [n], ?_, fun m hm => by simp [n, hm]⟩
  subst h
  split
  · exact min_le_right _ _
  · exact le_rfl

theorem issueSetctx_done (h0 : bitsOf w 39 36 = 0) :
    issueSetctx st c w tack = .done (st.setCtx (bitsOf w 43 41)
      (if bitsOf w 40 40 = 1 then { st.ctx (bitsOf w 43 41) with locOff := signed 36 (bitsOf w 35 0) }
        else { st.ctx (bitsOf w 43 41) with memOff := signed 36 (bitsOf w 35 0) })) := by
  unfold issueSetctx
  exact if_neg (not_not.mpr h0)

/-! ### PONY -/

/-- The transfers offered by cycle x that have nowhere to go leave the queue; the others keep their order. -/
theorem Stall.dropPonies_queue (st : Stall) (x : Nat) (lost : Pony → Bool) :
    (st.dropPonies x lost).pony.queue = st.pony.queue.filter fun p => !(decide (p.offer ≤ x) && lost p) :=
  foldl_same (fun t : Stall => t.pony.queue) _ _ fun _ _ => rfl

theorem Stall.ponyCheck_good (hb : st.pony.bad = false) : st.ponyCheck c tack = st := by
  unfold Stall.ponyCheck
  rw [if_neg (by simp [hb])]

theorem issuePony_done {lost : Pony → Bool} (h4 : bitsOf w 39 18 % 4 = 0) (hb : st.pony.bad = false) :
    let q := st.pony.queue.filter fun p => !(decide (p.offer ≤ c) && lost p)
    q.length < 16 → ∃ (v : Stall) (p : Pony), issuePony lost st c w tack = .done v ∧ v.pony.queue = q ++ [p] ∧ p.issue = c ∧
      p.offer = c + 4 ∧ p.src = bitsOf w 39 18 ∧ p.len = 4 * (bitsOf w 17 12 + 1) := by
  intro q hq
  have hqueue : (st.dropPonies c lost).pony.queue = q := st.dropPonies_queue c lost
  unfold issuePony
  dsimp only
  rw [if_pos h4, Stall.ponyCheck_good hb, if_neg (not_not.mpr h4), if_neg (by rw [hqueue]; omega)]
  exact ⟨_, _, rfl, congrArg (· ++ _) hqueue, rfl, rfl, rfl, rfl⟩

/-! ### The statement -/

/-- Settles O8: each instruction's effect above, as its issue leaves it in the stall. -/
theorem streamInstructions : Obligations.StreamInstructions := by
  intro s i f c h w u n
  refine ⟨fun d hop hd h0 hreq hfree hserial hdesc hprog hok => ?start, fun hop h0 hactive => ?halt, fun hop h0 => ?setctx,
    fun hop h4 hbad hq => ?pony⟩
  case start =>
    obtain ⟨v, he, hv⟩ := issueStart_done (tack := f.index) hd h0 hreq hfree hserial hdesc hprog hok
    obtain ⟨hret, -, -⟩ := State.issue_selOp h hop (by decide) he
    obtain ⟨hstr, -⟩ := State.issue_selOp_lanes h hop he
    rw [Stall.ctx, ← hstr] at hv
    exact ⟨_, rfl, hret, hv.active, hv.start, hv.desc, hv.serving, hv.request⟩
  case halt =>
    obtain ⟨v, y, he, hhalted, hy, hothers⟩ := issueHalt_done (tack := f.index) h0 hactive
    obtain ⟨hret, -, -⟩ := State.issue_selOp h hop (by decide) he
    obtain ⟨hstr, -⟩ := State.issue_selOp_lanes h hop he
    simp only [Stall.ctx, ← hstr] at hhalted hothers
    exact ⟨_, y, rfl, hret, hhalted, hy, hothers⟩
  case setctx =>
    have he := issueSetctx_done (st := u) (c := c) (tack := f.index) h0
    obtain ⟨hret, -, -⟩ := State.issue_selOp h hop (by decide) he
    obtain ⟨hstr, -⟩ := State.issue_selOp_lanes h hop he
    exact ⟨_, rfl, hret, (congrArg (fun t : Streams => t.ctx n) hstr).trans ((Stall.ctx_setCtx _ _ _ _).trans (if_pos rfl))⟩
  case pony =>
    obtain ⟨v, p, he, hqueue, hp⟩ := issuePony_done (tack := f.index) h4 hbad hq
    obtain ⟨hret, -, -⟩ := State.issue_selOp h hop (by decide) he
    obtain ⟨-, hpony⟩ := State.issue_selOp_lanes h hop he
    exact ⟨_, p, rfl, hret, (congrArg PonyPort.queue hpony).trans hqueue, hp⟩

end Sys2Proof.Machine
end

/-!
# Run-ahead and deadlock of a stream context

What the run-ahead cursor's step leaves of its context and of the module (R254, R255), and what a fault of a context leaves (R257, R258,
R262).
-/
section
namespace Sys2Proof.Machine

open Sys2Proof.Safety

variable {s t u : State} {i n x y : Nat} {w : Walk} {k : Ctx} {st : Stall}

/-! ### What the cursor's work leaves alone -/

/-- `t` differs from `s` only in time, which has not gone back, in stalls and in far requests. -/
structure AheadOnly (s t : State) : Prop where
  rest : { t with cyc := s.cyc, stalls := s.stalls, far := s.far } = s
  time : s.cyc ≤ t.cyc

namespace AheadOnly

theorem refl (s : State) : AheadOnly s s := ⟨rfl, le_rfl⟩

theorem trans (h : AheadOnly s t) (k : AheadOnly t u) : AheadOnly s u :=
  ⟨(congrArg (fun w : State => { w with cyc := s.cyc, stalls := s.stalls, far := s.far }) k.rest).trans h.rest, h.time.trans k.time⟩

theorem hbm (h : AheadOnly s t) : t.hbm = s.hbm := (congrArg State.hbm h.rest :)
theorem dies (h : AheadOnly s t) : t.dies = s.dies := (congrArg State.dies h.rest :)

end AheadOnly

theorem State.runAheadPage_only (s : State) (i n : Nat) (inBound : Bool) (p : Nat) : AheadOnly s (s.runAheadPage i n inBound p) := by
  unfold State.runAheadPage
  extract_lets e drop a
  split
  · exact ⟨rfl, le_rfl⟩
  · split
    · exact .refl s
    · exact ⟨rfl, le_rfl⟩

theorem State.coverEmit_only (s : State) (i n : Nat) (w : Walk) (y : Nat) : AheadOnly s (s.coverEmit i n w y) := by
  unfold State.coverEmit
  extract_lets c lines pages fresh next a
  refine List.foldlRecOn (motive := AheadOnly s) _ _ ⟨rfl, le_rfl⟩ fun b hb p _ => hb.trans ?_
  extract_lets inBound
  split
  · exact b.runAheadPage_only _ _ _ _
  · split
    · exact .refl b
    · exact ⟨rfl, le_rfl⟩

theorem State.aheadTo_only (s : State) (i n x fuel : Nat) : AheadOnly s (s.aheadTo i n x fuel) := by
  induction fuel generalizing s with
  | zero => exact .refl s
  | succ fuel ih =>
    unfold State.aheadTo
    extract_lets c
    split
    · exact .refl s
    · split
      next w y _ =>
        split
        · have hat : AheadOnly s (s.at_ y) := ⟨rfl, le_max_left _ _⟩
          exact (hat.trans (State.coverEmit_only _ _ _ _ _)).trans (ih _)
        · exact .refl s
      · exact .refl s

/-! ### The cursor -/

/-- Where a context's cursor and walk stand, and the pages that its cursor has entered. -/
def Ctx.cursor (c : Ctx) : Walk × Walk × List Nat := (c.ahead, c.walk, c.seen)

/-- An operation on a stall that changes a context but not its cursor. -/
theorem State.modCtx_cursor (s : State) (i n : Nat) {g : Stall → Stall} {k : Ctx} (hg : g (s.stall i) = (s.stall i).setCtx n k)
    (hk : k.cursor = ((s.stall i).ctx n).cursor) : (((s.modStall i g).stall i).ctx n).cursor = ((s.stall i).ctx n).cursor := by
  rw [State.stall_modStall, if_pos rfl, hg, Stall.ctx_setCtx, if_pos rfl, hk]

theorem Ctx.cancelIf_cursor (c : Ctx) (b : Bool) : (if b = true then c.cancel else c).cursor = c.cursor := by
  split <;> rfl

/-- The request for a page that the cursor enters, or its omission, leaves the cursor. -/
theorem State.runAheadPage_cursor (s : State) (i n : Nat) (inBound : Bool) (p : Nat) :
    (((s.runAheadPage i n inBound p).stall i).ctx n).cursor = ((s.stall i).ctx n).cursor := by
  unfold State.runAheadPage
  extract_lets e drop a
  split
  · exact s.modCtx_cursor i n rfl rfl
  · split
    · rfl
    · show ((a.stall i).ctx n).cursor = _
      refine s.modCtx_cursor i n rfl ?_
      exact (Ctx.cancelIf_cursor _ _).trans rfl

/-- The cursor behind the emit at w, which it covers in cycle y. -/
def Ctx.pastEmit (c : Ctx) (w : Walk) (y : Nat) : Walk :=
  match nextIx c.prog 0 w.ix [] with
  | (some ix, _) => { w with ix := ix, n := w.n + 1, t := y + 1 }
  | (none, _) => { w with closed := true, n := w.n + 1, t := y + 1 }

theorem Ctx.pastEmit_place (c : Ctx) (w : Walk) (y : Nat) : (c.pastEmit w y).n = w.n + 1 ∧ (c.pastEmit w y).t = y + 1 := by
  unfold Ctx.pastEmit
  split <;> exact ⟨rfl, rfl⟩

/-- The pages of the memory lines of the emit at w. -/
def Ctx.emitPages (c : Ctx) (w : Walk) : List Nat := squash (((c.emitLinesOf w.ix).map (·.1)).map (· / pageSize))

/-- An emit that is covered: the cursor stands behind it, its pages have been seen, the walk stands. -/
theorem State.coverEmit_cursor (s : State) (i n : Nat) (w : Walk) (y : Nat) :
    let c := (s.stall i).ctx n
    (((s.coverEmit i n w y).stall i).ctx n).cursor =
      (c.pastEmit w y, c.walk, c.seen ++ (c.emitPages w).filter fun p => !c.seen.contains p) := by
  intro c
  unfold State.coverEmit
  extract_lets lines pages fresh next a
  have ha : ((a.stall i).ctx n).cursor = (c.pastEmit w y, c.walk, c.seen ++ fresh) := by
    rw [show a.stall i = _ from (State.stall_modStall _ _ _).trans (if_pos rfl), Stall.ctx_setCtx, if_pos rfl]
    rfl
  refine (foldl_same (fun b : State => ((b.stall i).ctx n).cursor) _ _ fun b p => ?_).trans ha
  extract_lets inBound
  split
  · exact b.runAheadPage_cursor _ _ _ _
  · split
    · rfl
    · exact b.modCtx_cursor i n rfl rfl

/-- The cycle in which the cursor of a context covers the emit at w (R254). -/
def Ctx.coverCycle (c : Ctx) (w : Walk) : Nat := if w.n < sdDistance c.raw then c.ahead.t else max c.ahead.t c.emitAt

/-- The next emit lies within the distance, and no HALT has come: the cursor covers it at its cycle. -/
theorem Ctx.aheadAt_within (hh : k.halted = none) (hw : k.nextAhead (progEmits k.prog + 1) k.ahead = some w)
    (hd : w.n < sdDistance k.raw ∨ k.begunEmit (w.n - sdDistance k.raw) = true) : k.aheadAt = some (w, k.coverCycle w) := by
  unfold Ctx.aheadAt
  rw [hw]
  dsimp only
  rw [hh]
  refine if_neg ?_
  rw [Bool.false_or, Bool.and_eq_true, decide_eq_true_eq, Bool.not_eq_true', not_and]
  intro hle
  rw [hd.resolve_left hle.not_gt]
  decide

theorem execRunAheadStep_covers {i : StallId} {n : CtxId} (hc : s.clocked = true) (hr : ((s.stall i.val).ctx n.val).runsAhead = true)
    (hw : ((s.stall i.val).ctx n.val).aheadAt = some (w, y)) :
    exec (.runAheadStep i n) s = .next ((s.at_ y).coverEmit i.val n.val w y) := by
  show execRunAheadStep i n s = _
  unfold execRunAheadStep
  dsimp only
  rw [if_neg (by simp [hc, hr]), hw]

theorem runAheadStep_effect {i : StallId} {n : CtxId} (hc : s.clocked = true) (hk : (s.stall i.val).ctx n.val = k)
    (hactive : k.state = .active) (hend : k.endAt = none) (hdist : sdDistance k.raw ≠ 0) (hopen : k.ahead.closed = false)
    (hh : k.halted = none) (hw : k.nextAhead (progEmits k.prog + 1) k.ahead = some w)
    (hd : w.n < sdDistance k.raw ∨ k.begunEmit (w.n - sdDistance k.raw) = true) :
    ∃ t, exec (.runAheadStep i n) s = .next t ∧ k.coverCycle w ≤ t.cyc ∧ ((t.stall i.val).ctx n.val).ahead.n = w.n + 1 ∧
      ((t.stall i.val).ctx n.val).ahead.t = k.coverCycle w + 1 ∧ ((t.stall i.val).ctx n.val).walk = k.walk ∧ t.hbm = s.hbm ∧
      ∀ p ∈ k.emitPages w, p ∈ ((t.stall i.val).ctx n.val).seen := by
  obtain ⟨hn, ht⟩ := k.pastEmit_place w (k.coverCycle w)
  have hcursor := (s.at_ (k.coverCycle w)).coverEmit_cursor i.val n.val w (k.coverCycle w)
  have honly := (s.at_ (k.coverCycle w)).coverEmit_only i.val n.val w (k.coverCycle w)
  rw [show ((s.at_ (k.coverCycle w)).stall i.val).ctx n.val = k from hk] at hcursor
  have hexec : exec (.runAheadStep i n) s = .next ((s.at_ (k.coverCycle w)).coverEmit i.val n.val w (k.coverCycle w)) := by
    refine execRunAheadStep_covers hc ?_ ?_
    · simp [hk, Ctx.runsAhead, hactive, hend, hdist, hopen]
    · rw [hk, Ctx.aheadAt_within hh hw hd]
  generalize (s.at_ (k.coverCycle w)).coverEmit i.val n.val w (k.coverCycle w) = t at hcursor honly hexec
  simp only [Ctx.cursor, Prod.mk.injEq] at hcursor
  obtain ⟨hahead, hwalk, hseen⟩ := hcursor
  refine ⟨t, hexec, (le_max_right _ _).trans honly.time, hahead ▸ hn, hahead ▸ ht, hwalk, honly.hbm, fun p hp => ?_⟩
  rw [hseen]
  by_cases hk : p ∈ k.seen
  · exact List.mem_append_left _ hk
  · exact List.mem_append_right _ (List.mem_filter.mpr ⟨hp, by simpa using hk⟩)

/-! ### Faults of a context -/

theorem ctx_of_quietly {t u : Stall} (h : quietly t = quietly u) : t.ctx = u.ctx := (congrArg Stall.ctx h :)

/-- A fault of context n sets its cause and no other context's. -/
theorem Stall.endFault_cause (st : Stall) (n cause x : Nat) (place : Nat × Nat) (m : Nat) :
    ((st.endFault n cause x place).ctx m).cause = if m = n then cause else (st.ctx m).cause := by
  unfold Stall.endFault
  refine (congrArg Ctx.cause (Stall.ctx_setCtx st n m _)).trans ?_
  split <;> rfl

/-- The contexts linked to a fault end with cause 6; the cause of the context at fault stands (R258). -/
theorem Stall.ctxFault_cause (st : Stall) (n cause x : Nat) (place : Nat × Nat) :
    ((st.ctxFault n cause x place).ctx n).cause = cause := by
  unfold Stall.ctxFault
  extract_lets linked
  refine List.foldlRecOn (motive := fun t : Stall => (t.ctx n).cause = cause) _ _ ?_ fun t ht m hm => ?_
  · rw [Stall.endFault_cause, if_pos rfl]
  · have hne : n ≠ m := fun h => of_decide_eq_true (List.mem_filter.mp hm).2 h.symm
    rw [Stall.endFault_cause, if_neg hne, ht]

theorem Stall.ctxFault_events (st : Stall) (n cause x : Nat) (place : Nat × Nat) :
    (st.ctxFault n cause x place).events = st.events :=
  foldl_same Stall.events _ _ fun _ _ => rfl

/-- What a fault of context n with its event and flag makes of its stall. -/
def Stall.faultWith (n cause bit code x : Nat) (fails : Bool) (t : Stall) : Stall :=
  ((t.ctxFault n cause x (t.ctx n).place).strBit bit n).raise code x (t.ctx n).startTack fails

theorem Stall.faultWith_cause (n cause bit code x : Nat) (fails : Bool) (t : Stall) :
    ((t.faultWith n cause bit code x fails).ctx n).cause = cause := (t.ctxFault_cause n cause x _ :)

theorem Stall.faultWith_events (n cause bit code x : Nat) (fails : Bool) (t : Stall) :
    (t.faultWith n cause bit code x fails).events = t.events ++ [⟨code, x, (t.ctx n).startTack, fails⟩] :=
  congrArg (· ++ _) (t.ctxFault_events n cause x _)

theorem State.ctxFaultAt_eq (s : State) (i n cause bit code x : Nat) (fails : Bool) :
    s.ctxFaultAt i n cause bit code x fails = s.onStall i x (Stall.faultWith n cause bit code x fails) := rfl

/-- What a fault of a context leaves: its cause in the context, and outside the stalls what its event brings about. -/
theorem State.ctxFaultAt_effect (s : State) (i n cause bit code x : Nat) (fails : Bool) :
    (((s.ctxFaultAt i n cause bit code x fails).stall i).ctx n).cause = cause ∧
      StallsOnly s (s.ctxFaultAt i n cause bit code x fails) := by
  rw [State.ctxFaultAt_eq]
  refine ⟨?_, s.onStall_only _ _ _⟩
  have hstall := s.onStall_stall i x (Stall.faultWith n cause bit code x fails)
  rw [ctx_of_quietly hstall, Stall.faultWith_cause]

/-- A fault of a context whose event fails the shot. -/
theorem State.ctxFaultAt_fails (s : State) (i n cause bit code x : Nat) (h : (s.sync i x).Takes x ⟨x, code, srcStall i⟩) :
    (s.ctxFaultAt i n cause bit code x true).shot.fail = some ⟨x, code, srcStall i⟩ := by
  rw [State.ctxFaultAt_eq]
  refine s.onStall_fails i x (Stall.faultWith n cause bit code x true)
    (e := ⟨code, x, (((s.sync i x).stall i).ctx n).startTack, true⟩) (n := 0) rfl ?_ h
  rw [Stall.faultWith_events, State.sync_events]
  rfl

/-! ### Deadlock -/

/-- The abort of a running shot that has ordered none is due 7 cycles later (R466). -/
theorem State.orderAbort_running (hb : s.shot.begun = true) (ha : s.safe.abort = none) (hg : s.shot.gone = none) :
    (s.orderAbort x).safe.abort = some (x + 7) := by
  unfold State.orderAbort
  rw [if_pos (by simp [hb, ha, hg])]

theorem State.orderAbort_frame (s : State) (x : Nat) : (s.orderAbort x).cyc = s.cyc ∧ (s.orderAbort x).stalls = s.stalls := by
  unfold State.orderAbort
  split <;> exact ⟨rfl, rfl⟩

theorem execStreamDeadlockCheck_ends {i : StallId} {n : CtxId} (hc : s.clocked = true) (hr : s.running = true)
    (hactive : ((s.stall i.val).ctx n.val).state = .active)
    (hx : min (((s.stall i.val).ctx n.val).start + 2 * ((s.stall i.val).ctx n.val).duration) s.marginAt = x)
    (hat : ((s.stall i.val).ctx n.val).activeAt x = true) (hg : s.shot.gone = none) :
    exec (.streamDeadlockCheck i n) s =
      .next (((brought s i.val x).ctxFaultAt i.val n.val 7 28 Ev.streamDeadlock x true).orderAbort x) := by
  subst hx
  show execStreamDeadlockCheck i n s = _
  unfold execStreamDeadlockCheck
  dsimp only
  exact congrArg Host.Outcome.next (if_pos (by simp [hc, hr, hactive, hat, hg]))

theorem streamDeadlockCheck_effect {i : StallId} {n : CtxId} (hc : s.clocked = true) (hr : s.running = true)
    (hactive : ((s.stall i.val).ctx n.val).state = .active)
    (hx : min (((s.stall i.val).ctx n.val).start + 2 * ((s.stall i.val).ctx n.val).duration) s.marginAt = x)
    (hat : ((s.stall i.val).ctx n.val).activeAt x = true) (hg : s.shot.gone = none) (ha : s.safe.abort = none) :
    ∃ t, exec (.streamDeadlockCheck i n) s = .next t ∧ x ≤ t.cyc ∧ t.safe.abort = some (x + 7) ∧
      ((t.stall i.val).ctx n.val).cause = 7 := by
  refine ⟨_, execStreamDeadlockCheck_ends hc hr hactive hx hat hg, ?_⟩
  obtain ⟨hcause, hfault⟩ := (brought s i.val x).ctxFaultAt_effect i.val n.val 7 28 Ev.streamDeadlock x true
  generalize (brought s i.val x).ctxFaultAt i.val n.val 7 28 Ev.streamDeadlock x true = v at hcause hfault
  have honly : StallsOnly (s.at_ x) v := ((s.at_ x).sync_only i.val x).trans hfault
  obtain ⟨hcyc, hstalls⟩ := v.orderAbort_frame x
  have hbegun : s.shot.begun = true := by
    simp only [State.running, Bool.and_eq_true] at hr
    exact hr.1.1
  refine ⟨?_, State.orderAbort_running ?_ ?_ ?_, ?_⟩
  · rw [hcyc, show v.cyc = max s.cyc x from (congrArg State.cyc honly.rest :)]
    exact le_max_right _ _
  · exact (congrArg Shot.begun honly.shot :).trans hbegun
  · exact (congrArg (fun w : State => w.safe.abort) honly.rest :).trans ha
  · exact (congrArg Shot.gone honly.shot :).trans hg
  · unfold State.stall
    rw [hstalls]
    exact hcause

/-! ### The statement -/

/-- Settles O15: the cursor's step and the deadlock check. -/
theorem runAheadAndDeadlock : Obligations.RunAheadAndDeadlock := by
  intro s i n hc c d
  refine ⟨fun w hactive hend hdist hopen hh hw hd => ?ahead, ?deadlock⟩
  case ahead => exact runAheadStep_effect hc rfl hactive hend hdist hopen hh hw hd
  case deadlock =>
    intro x hr hactive hat hg ha
    exact streamDeadlockCheck_effect hc hr hactive rfl hat hg ha

end Sys2Proof.Machine
end

/-!
# Issue of a stream piece

What a piece takes and sends where it lies in its context's bound, in assigned HBM, and finds its resources, and how one outside the bound
ends its context (R246, R247, R249, R251).
-/
section
namespace Sys2Proof.Machine

open Sys2Proof.Safety

variable {s w : State} {i n x : Nat} {c' : Ctx} {b : Piece}

/-! ### The state in which a piece issues -/

/-- The context of stall i with the walk that has led to its next piece. -/
def State.walked (w : State) (i n : Nat) (c' : Ctx) : Stall :=
  (w.stall i).setCtx n { (w.stall i).ctx n with walk := c'.walk, posts := c'.posts, iterFin := c'.iterFin }

/-- Time and stall i brought to cycle x, the run-ahead cursor of context n having covered what comes before. -/
def State.atPiece (s : State) (i n x : Nat) : State :=
  ((s.aheadTo i n x (x + 1 - ((s.stall i).ctx n).ahead.t)).sync i x).at_ x

/-- What brings a stall to its piece leaves the memory and the base dies, and time has reached the piece's cycle. -/
theorem State.atPiece_frame (s : State) (i n x : Nat) :
    (s.atPiece i n x).hbm = s.hbm ∧ (s.atPiece i n x).dies = s.dies ∧ x ≤ (s.atPiece i n x).cyc := by
  have hahead := s.aheadTo_only i n x (x + 1 - ((s.stall i).ctx n).ahead.t)
  have hsync := State.sync_only (s.aheadTo i n x (x + 1 - ((s.stall i).ctx n).ahead.t)) i x
  exact ⟨hsync.hbm.trans hahead.hbm, (congrArg State.dies hsync.rest :).trans hahead.dies, le_max_right _ _⟩

/-- Context n of stall i has the piece b next, at cycle x, with the walk of c'. -/
structure State.Due (s : State) (i n : Nat) (c' : Ctx) (b : Piece) (x : Nat) : Prop where
  clocked : s.clocked = true
  active : ((s.stall i).ctx n).state = .active
  running : ((s.stall i).ctx n).endAt = none
  noHalt : ((s.stall i).ctx n).halted = none
  next : ((s.stall i).ctx n).nextPiece ((s.stall i).ctx (sdPartner ((s.stall i).ctx n).raw)) = some (c', b, x)

/-- A line of a piece lies outside the bound of its context or in no memory (R251). -/
def Ctx.OutOfBound (c : Ctx) (a : Nat) : Prop := a < c.lo ∨ c.hi ≤ a ∨ 2 ^ 41 ≤ a ∧ a < 2 ^ 47

/-- A piece with a line out of bound ends its context. -/
theorem execStreamPieceIssue_outOfBound {i : StallId} {n : CtxId} (h : s.Due i.val n.val c' b x)
    (hb : ∃ a ∈ b.mems, ((s.stall i.val).ctx n.val).OutOfBound a) :
    exec (.streamPieceIssue i n) s =
      .next (((s.atPiece i.val n.val x).setStall i.val ((s.atPiece i.val n.val x).walked i.val n.val c')).ctxFaultAt i.val n.val 1 31
        Ev.strBound x true) := by
  have hbad : (b.mems.any fun m => decide (m < ((s.stall i.val).ctx n.val).lo ∨ ((s.stall i.val).ctx n.val).hi ≤ m) ||
      decide (2 ^ 41 ≤ m ∧ m < 2 ^ 47)) = true := by
    obtain ⟨a, ha, hout⟩ := hb
    refine List.any_eq_true.mpr ⟨a, ha, ?_⟩
    simpa [Ctx.OutOfBound, or_assoc] using hout
  show execStreamPieceIssue i n s = _
  unfold execStreamPieceIssue
  extract_lets k m t c partner pass
  rw [if_neg (by simp [h.clocked, c, t, k, m, h.active, h.running]), show c.nextPiece partner = some (c', b, x) from h.next]
  dsimp only
  rw [show c.halted = none from h.noHalt]
  dsimp only
  rw [if_neg (by decide), if_pos (by rw [show (b.mems.any _) = true from hbad]; rfl)]
  rfl

/-- A piece in its context's bound and in assigned HBM, whose resources are there, is launched. -/
theorem execStreamPieceIssue_launches {i : StallId} {n : CtxId} (h : s.Due i.val n.val c' b x)
    (hb : ∀ a ∈ b.mems, ¬((s.stall i.val).ctx n.val).OutOfBound a) (hnear : b.mems.headD 0 < 2 ^ 47) {j sa : Nat}
    (hloc : (s.atPiece i.val n.val x).locate (b.mems.headD 0) = some (j, sa))
    (hroom : ((s.atPiece i.val n.val x).walked i.val n.val c').str.room x b.mems.length (sdWrite ((s.stall i.val).ctx n.val).raw)
      (some (j, pcOf sa)) = true) :
    exec (.streamPieceIssue i n) s =
      .next (((s.atPiece i.val n.val x).setStall i.val ((s.atPiece i.val n.val x).walked i.val n.val c')).launch i.val n.val x
        (latency i.val j).2 (sdWrite ((s.stall i.val).ctx n.val).raw) false (some (j, pcOf sa)) b) := by
  have hgood : (b.mems.any fun m => decide (m < ((s.stall i.val).ctx n.val).lo ∨ ((s.stall i.val).ctx n.val).hi ≤ m) ||
      decide (2 ^ 41 ≤ m ∧ m < 2 ^ 47)) = false := by
    refine List.any_eq_false.mpr fun a ha => ?_
    simpa [Ctx.OutOfBound, or_assoc] using hb a ha
  have hfar : decide (2 ^ 47 ≤ b.mems.headD 0) = false := decide_eq_false (Nat.not_le.mpr hnear)
  show execStreamPieceIssue i n s = _
  unfold execStreamPieceIssue
  extract_lets k m t c partner pass write
  rw [if_neg (by simp [h.clocked, c, t, k, m, h.active, h.running]), show c.nextPiece partner = some (c', b, x) from h.next]
  dsimp -zeta only
  extract_lets late u v isFar bad where_ quota lat
  have hlate : late = false := by
    subst late
    rw [show c.halted = none from h.noHalt]
  have hv : v = (s.atPiece i.val n.val x).setStall i.val ((s.atPiece i.val n.val x).walked i.val n.val c') := rfl
  have hisFar : isFar = false := hfar
  have hbad : bad = false := hgood
  have hwhere : where_ = some (j, sa) := by
    subst where_
    rw [hisFar]
    exact hloc
  have hlat : lat = (latency i.val j).2 := by
    subst lat
    rw [hisFar, hwhere]
    rfl
  have hquota : quota = some (j, pcOf sa) := by
    subst quota
    rw [hwhere]
    rfl
  rw [hlate, if_neg (by decide), hbad, hisFar, if_neg (by simp), if_neg (by simp), hquota, hlat, if_neg ?room, hv]
  case room =>
    rw [hv, State.stall_setStall, if_pos rfl, hroom]
    decide

/-! ### The launch of a piece -/

/-- The piece `body` of context n as it joins those in flight at cycle x, for `lat` cycles. -/
def Stall.pieceInFlight (t : Stall) (n x lat : Nat) (write : Bool) (quota : Option (Nat × Nat)) (body : Piece) : Flying :=
  ⟨t.str.nextId, n, (t.ctx n).walk.n, (t.ctx n).walk.p, x, x + lat, write, false, quota, body, emitSwap (t.ctx n).prog, none, false,
    t.wids + 1⟩

/-- The stall with the piece in flight, its resources taken, its context's walk behind it. -/
def Stall.withPiece (t : Stall) (n x lat : Nat) (write : Bool) (quota : Option (Nat × Nat)) (body : Piece) : Stall :=
  let u := t.newWid.1.setCtx n { (t.ctx n).took (x + lat) (if write then x + 1 else x + lat) with
    emitAt := if (t.ctx n).walk.p = 0 then x else (t.ctx n).emitAt }
  { u with str := { u.str.take x body.mems.length lat write quota with
    flying := t.str.flying ++ [t.pieceInFlight n x lat write quota body], nextId := t.str.nextId + 1 } }

/-- A stall whose piece has been launched; a read's lines are tagged until the landing (R55). -/
def Stall.launched (t : Stall) (n x lat : Nat) (write : Bool) (quota : Option (Nat × Nat)) (body : Piece) : Stall :=
  if write then t.withPiece n x lat write quota body
  else body.locs.foldl (fun u a => u.addTag x (x + lat) a 64 (t.wids + 1)) (t.withPiece n x lat write quota body)

theorem Stall.launched_frame (t : Stall) (n x lat : Nat) (write : Bool) (quota : Option (Nat × Nat)) (body : Piece) :
    (t.launched n x lat write quota body).str.flying = t.str.flying ++ [t.pieceInFlight n x lat write quota body] ∧
      (t.launched n x lat write quota body).spd.mem = t.spd.mem := by
  unfold Stall.launched
  split
  · exact ⟨rfl, rfl⟩
  · exact ⟨foldl_same (fun u : Stall => u.str.flying) _ _ fun _ _ => rfl, foldl_same (fun u : Stall => u.spd.mem) _ _ fun _ _ => rfl⟩

theorem Stall.launched_tags (t : Stall) (n x lat : Nat) (write : Bool) (quota : Option (Nat × Nat)) (body : Piece) :
    (t.launched n x lat write quota body).spd.tags.map (fun g => (g.fin, g.addr, g.len)) =
      t.spd.tags.map (fun g => (g.fin, g.addr, g.len)) ++
        if write = true then [] else body.locs.map fun a => (x + lat, a % spdSize, 64) := by
  unfold Stall.launched
  split
  · exact (List.append_nil _).symm
  · refine foldl_appends (fun u : Stall => u.spd.tags.map fun g => (g.fin, g.addr, g.len)) _ _ _ fun u a => ?_
    exact Stall.addTag_tags u _ _ _ _ _

/-- The request of a piece to the base die of stack j, where its lines begin at stack address sa. -/
def Stall.request (t : Stall) (i x j sa : Nat) (write : Bool) (body : Piece) : Arrival :=
  ⟨x + (latency i j).1, x, i, t.str.nextId, body.mems.map fun a => sa + (a - body.mems.headD 0), write, false⟩

theorem State.launch_located {lat j sa : Nat} {write : Bool} {quota : Option (Nat × Nat)} {body : Piece}
    (h : s.locate (body.mems.headD 0) = some (j, sa)) :
    s.launch i n x lat write false quota body =
      (s.setStall i ((s.stall i).launched n x lat write quota body)).setStack j { s.stack j with
        arrivals := (s.stack j).arrivals ++ [(s.stall i).request i x j sa write body] } := by
  unfold State.launch
  extract_lets t c id
  rw [show t.newWid = (t.newWid.1, t.wids + 1) from rfl]
  dsimp -zeta only
  extract_lets f walked taken flying tagged v
  have hv : v = s.setStall i (t.launched n x lat write quota body) := rfl
  rw [if_neg (by decide), hv, show (s.setStall i (t.launched n x lat write quota body)).locate (body.mems.headD 0) = some (j, sa) from h]
  rfl

/-! ### The statement -/

/-- A piece that is launched: in flight, its request under way, a read's lines tagged. -/
theorem streamPieceIssue_launches {i : StallId} {n : CtxId} (h : s.Due i.val n.val c' b x) (hnear : b.mems.headD 0 < 2 ^ 47)
    (hb : ∀ a ∈ b.mems, ¬((s.stall i.val).ctx n.val).OutOfBound a) {write : Bool}
    (hwrite : sdWrite ((s.stall i.val).ctx n.val).raw = write) {j sa : Nat} :
    let w := s.atPiece i.val n.val x
    let u := w.walked i.val n.val c'
    w.locate (b.mems.headD 0) = some (j, sa) → u.str.room x b.mems.length write (some (j, pcOf sa)) = true →
      ∃ t, exec (.streamPieceIssue i n) s = .next t ∧ x ≤ t.cyc ∧
        (t.stall i.val).str.flying = u.str.flying ++ [u.pieceInFlight n.val x (latency i.val j).2 write (some (j, pcOf sa)) b] ∧
        (t.stack j).arrivals = (w.stack j).arrivals ++ [u.request i.val x j sa write b] ∧ t.hbm = s.hbm ∧
        (t.stall i.val).spd.mem = u.spd.mem ∧
        (t.stall i.val).spd.tags.map (fun g => (g.fin, g.addr, g.len)) = u.spd.tags.map (fun g => (g.fin, g.addr, g.len)) ++
          if write = true then [] else b.locs.map fun a => (x + (latency i.val j).2, a % spdSize, 64) := by
  subst hwrite
  intro w u hloc hroom
  obtain ⟨hhbm, -, hcyc⟩ := s.atPiece_frame i.val n.val x
  have hexec := execStreamPieceIssue_launches h hb hnear hloc hroom
  rw [State.launch_located (s := w.setStall i.val u) hloc, show (w.setStall i.val u).stall i.val = u from
    (State.stall_setStall _ _ _).trans (if_pos rfl)] at hexec
  obtain ⟨hflying, hmem⟩ := u.launched_frame n.val x (latency i.val j).2 (sdWrite ((s.stall i.val).ctx n.val).raw) (some (j, pcOf sa)) b
  have htags := u.launched_tags n.val x (latency i.val j).2 (sdWrite ((s.stall i.val).ctx n.val).raw) (some (j, pcOf sa)) b
  generalize u.launched n.val x (latency i.val j).2 (sdWrite ((s.stall i.val).ctx n.val).raw) (some (j, pcOf sa)) b = v
    at hexec hflying hmem htags
  have hstall : ∀ k, (((w.setStall i.val u).setStall i.val v).setStack j k).stall i.val = v := fun k =>
    (State.stall_setStall i.val i.val v).trans (if_pos rfl)
  refine ⟨_, hexec, hcyc, ?_, ?_, hhbm, ?_, ?_⟩
  · rw [hstall, hflying]
  · rw [State.stack_setStack, if_pos rfl]
    rfl
  · rw [hstall, hmem]
  · rw [hstall, htags]

/-- A piece outside the bound: its context ends with cause 1, nothing leaves for a base die, and the shot fails. -/
theorem streamPieceIssue_outOfBound {i : StallId} {n : CtxId} (h : s.Due i.val n.val c' b x)
    (hb : ∃ a ∈ b.mems, ((s.stall i.val).ctx n.val).OutOfBound a) :
    let w := s.atPiece i.val n.val x
    let z := (w.setStall i.val (w.walked i.val n.val c')).sync i.val x
    ∃ t, exec (.streamPieceIssue i n) s = .next t ∧ ((t.stall i.val).ctx n.val).cause = 1 ∧ t.hbm = s.hbm ∧ t.dies = s.dies ∧
      (z.shot.begun = true → z.shot.margin = false → z.shot.fail = none → x ≤ z.marginAt →
        t.shot.fail = some ⟨x, Ev.strBound, srcStall i.val⟩) := by
  intro w z
  obtain ⟨hhbm, hdies, -⟩ := s.atPiece_frame i.val n.val x
  obtain ⟨hcause, honly⟩ := (w.setStall i.val (w.walked i.val n.val c')).ctxFaultAt_effect i.val n.val 1 31 Ev.strBound x true
  exact ⟨_, execStreamPieceIssue_outOfBound h hb, hcause, honly.hbm.trans hhbm, (congrArg State.dies honly.rest :).trans hdies,
    fun hbegun hmargin hfail htime => State.ctxFaultAt_fails _ _ _ _ _ _ _ ⟨hbegun, hmargin, htime, .inl hfail⟩⟩

/-- Settles O12: a piece that is launched, and one outside its context's bound. -/
theorem pieceIssue : Obligations.PieceIssue := by
  intro s i n c' b x hclk c w u m hactive hend hhalt hnext hnear
  have hdue : s.Due i.val n.val c' b x := ⟨hclk, hactive, hend, hhalt, hnext⟩
  refine ⟨fun j sa hin hloc hroom => ?launch, fun hout => ?bound⟩
  case launch =>
    have hb : ∀ a ∈ b.mems, ¬c.OutOfBound a := by
      intro a ha
      obtain ⟨hlo, hhi, hmax⟩ := hin a ha
      unfold Ctx.OutOfBound
      omega
    obtain ⟨t, hexec, hcyc, hflying, harr, hhbm, hmem, htags⟩ := streamPieceIssue_launches hdue hnear hb rfl hloc hroom
    exact ⟨t, _, hexec, hcyc, hflying, rfl, rfl, rfl, rfl, rfl, harr, hhbm, hmem, htags⟩
  case bound => exact streamPieceIssue_outOfBound hdue hout

end Sys2Proof.Machine
end

/-!
# Landing of a read piece

What bringing a stall forward twice to one cycle leaves, and what a piece leaves at its landing with its data there or missing (R24, R51,
R246).
-/
section
namespace Sys2Proof.Machine

open Sys2Proof.Safety

variable {s w : State} {st : Stall} {i x : Nat} {f f0 : Flying}

/-! ### A stall brought forward -/

/-- Fuel for every cycle before x brings a stall to x. -/
theorem Stall.le_runFor_clk (n x : Nat) (st : Stall) (h : x - st.clk ≤ n) : x ≤ (st.runFor n x).clk := by
  induction n generalizing st with
  | zero => exact Nat.sub_eq_zero_iff_le.mp (Nat.le_zero.mp h)
  | succ n ih =>
    unfold Stall.runFor
    split
    · assumption
    · split
      · exact le_rfl
      · refine ih st.tick ?_
        rw [show st.tick.clk = st.clk + 1 from rfl]
        omega

theorem Stall.le_runTo_clk (st : Stall) (x : Nat) : x ≤ (st.runTo x).clk := st.le_runFor_clk _ x le_rfl

/-- A stall that has completed every cycle before x stays. -/
theorem Stall.runTo_of_le (h : x ≤ st.clk) : st.runTo x = st := by
  unfold Stall.runTo
  rw [Nat.sub_eq_zero_of_le h]
  rfl

/-- An operation on stalls that leaves stall i as it stands. -/
theorem State.eachStall_stall (l : List Nat) {f : Stall → Stall} (hf : f (s.stall i) = s.stall i) :
    (s.eachStall l f).stall i = s.stall i := by
  refine List.foldlRecOn (motive := fun t : State => t.stall i = s.stall i) _ _ rfl fun t ht j _ => ?_
  rw [State.stall_modStall]
  split
  · subst j
    rw [ht, hf]
  · exact ht

/-- A stall that is brought forward has run to the cycle, once, whatever the strictness. -/
theorem State.sync_stall (s : State) (i x : Nat) : quietly ((s.sync i x).stall i) = quietly ((s.stall i).runTo x) := by
  have hmod : (s.modStall i fun st => st.runTo x).stall i = (s.stall i).runTo x := (State.stall_modStall _ _ _).trans (if_pos rfl)
  unfold State.sync
  split
  · unfold State.syncAll
    rw [SameStalls.flush.same, State.eachStall_stall, hmod]
    rw [hmod, Stall.runTo_of_le (Stall.le_runTo_clk _ _)]
  · rw [SameStalls.flush.same, hmod]

theorem State.le_sync_clk (s : State) (i x : Nat) : x ≤ ((s.sync i x).stall i).clk := by
  rw [show ((s.sync i x).stall i).clk = ((s.stall i).runTo x).clk from (congrArg Stall.clk (s.sync_stall i x) :)]
  exact Stall.le_runTo_clk _ _

/-- A stall that stands at the cycle already is not moved. -/
theorem State.sync_of_le (h : x ≤ (s.stall i).clk) : quietly ((s.sync i x).stall i) = quietly (s.stall i) := by
  rw [State.sync_stall, Stall.runTo_of_le h]

/-! ### The lines of a piece -/

/-- Writes entered one after another stand behind the others in their order; in a fenced stall they are lost (R24). -/
theorem Stall.queueWrites_writes {α : Type} (p : α → PWrite) (l : List α) (st : Stall) :
    (l.foldl (fun t a => t.queueWrite (p a)) st).spd.writes = st.spd.writes ++ if st.fenced = true then [] else l.map p := by
  induction l generalizing st with
  | nil => simp
  | cons a l ih =>
    rw [List.foldl_cons, ih]
    unfold Stall.queueWrite
    by_cases hf : st.fenced = true
    · simp [hf]
    · simp [hf]

theorem Stall.queueWrite_str (st : Stall) (p : PWrite) : (st.queueWrite p).str = st.str := by
  unfold Stall.queueWrite
  split <;> rfl

/-- A piece taken from those in flight is there no longer. -/
theorem Stall.setFlying_none (st : Stall) (id : Nat) : ∀ g ∈ (st.setFlying id fun _ => none).str.flying, g.id ≠ id := by
  intro g hg
  obtain ⟨p, -, hp⟩ := List.mem_filterMap.mp hg
  split at hp
  · cases hp
  next hne =>
    cases hp
    exact hne

/-! ### The landing -/

/-- The state without the piece f of stall i, in flight or awaited from a far source. -/
def State.landed (w : State) (i : Nat) (f : Flying) : State :=
  let v := w.modStall i fun t => t.setFlying f.id fun _ => none
  { v with far := { v.far with reads := v.far.reads.filter fun r => !(r.stall = i && r.id = f.id) } }

theorem State.landed_stall (w : State) (i : Nat) (f : Flying) :
    (w.landed i f).stall i = (w.stall i).setFlying f.id fun _ => none := by
  show (w.modStall i fun t => t.setFlying f.id fun _ => none).stall i = _
  rw [State.stall_modStall, if_pos rfl]

/-- The tack index of the START whose context issued the piece. -/
def State.startTackOf (w : State) (i : Nat) (f : Flying) : Nat := (((w.landed i f).stall i).ctx f.ctx).startTack

/-- The landing of a near piece at cycle x: its lines are due, or E_LATE_LANDING is raised. -/
def State.landNear (w : State) (i x : Nat) (f : Flying) (arrived : Bool) : State :=
  match f.data, arrived with
  | some d, true => (w.landed i f).modStall i fun t => (f.body.locs.zipIdx).foldl (fun t l =>
      t.queueWrite ⟨x, f.issue, rankStr, f.wid, w.startTackOf i f, 0, l.1, swapWords f.swap (bytesAt d (64 * l.2) 64)⟩) t
  | _, _ => (w.landed i f).onStall i x fun t => t.raise Ev.lateLanding x (w.startTackOf i f) true

/-- Where no base die has a request of the piece left, none is served on its account. -/
theorem State.serveFor_none {id fin : Nat} (h : ∀ j < 32, ∀ a ∈ (s.stack j).arrivals, a.stall = i → a.id ≠ id) :
    (List.range 32).foldl (fun s j =>
      if (s.stack j).arrivals.any fun a => a.stall = i && a.id = id then s.serveArrivals j fin (s.stack j).arrivals.length else s) s = s := by
  refine List.foldlRecOn (motive := fun t : State => t = s) _ _ rfl fun t ht j hj => ?_
  subst t
  refine if_neg ?_
  simpa using h j (List.mem_range.mp hj)

theorem execPieceLanding_near {i : StallId} {n : CtxId} (arrived : Bool) (hc : s.clocked = true)
    (hfirst : (s.stall i.val).str.firstLanding n.val = some f0)
    (hserved : ∀ j < 32, ∀ a ∈ (s.stack j).arrivals, a.stall = i.val → a.id ≠ f0.id) (hx : max f0.fin (s.stall i.val).clk = x)
    (hfind : ((brought s i.val x).stall i.val).str.flying.find? (fun f => f.id = f0.id) = some f) (hdrop : f.drop = false)
    (hnear : f.far = false) : exec (.pieceLanding i n arrived) s = .next ((brought s i.val x).landNear i.val x f arrived) := by
  subst hx
  show execPieceLanding i n arrived s = _
  unfold execPieceLanding
  dsimp only
  rw [hfirst]
  dsimp only
  rw [if_neg (by simp [hc]), State.serveFor_none hserved]
  change Host.Outcome.next (match ((brought s i.val _).stall i.val).str.flying.find? (fun f => f.id = f0.id) with
    | none => _
    | some f => _) = _
  rw [hfind]
  dsimp only
  rw [if_neg (by simp [hdrop]), hnear, Bool.or_false]
  unfold State.landNear
  cases f.data with
  | none => rfl
  | some d => cases arrived <;> rfl

/-- What a piece's landing leaves alone: time, memory, and what its stall is but for the pieces in flight. -/
theorem State.landed_frame (w : State) (i : Nat) (f : Flying) :
    (w.landed i f).cyc = w.cyc ∧ (w.landed i f).hbm = w.hbm ∧ ((w.landed i f).stall i).spd = (w.stall i).spd ∧
      ((w.landed i f).stall i).fenced = (w.stall i).fenced ∧ ((w.landed i f).stall i).clk = (w.stall i).clk := by
  rw [State.landed_stall]
  exact ⟨rfl, rfl, rfl, rfl, rfl⟩

/-- A piece whose data is there: its lines are due at the landing cycle, and it is in flight no longer. -/
theorem State.landNear_data {d : List Byte} (w : State) (i x : Nat) (hd : f.data = some d) :
    let t := w.landNear i x f true
    t.cyc = w.cyc ∧ t.hbm = w.hbm ∧ (∀ g ∈ (t.stall i).str.flying, g.id ≠ f.id) ∧
      (t.stall i).spd.writes.map (fun p => (p.fin, p.addr, p.bytes)) =
        (w.stall i).spd.writes.map (fun p => (p.fin, p.addr, p.bytes)) ++
          if (w.stall i).fenced = true then []
          else f.body.locs.zipIdx.map fun l => (x, l.1, swapWords f.swap (bytesAt d (64 * l.2) 64)) := by
  intro t
  obtain ⟨hcyc, hhbm, hspd, hfenced, -⟩ := w.landed_frame i f
  have ht : t = (w.landed i f).modStall i fun t => (f.body.locs.zipIdx).foldl (fun t l =>
      t.queueWrite ⟨x, f.issue, rankStr, f.wid, w.startTackOf i f, 0, l.1, swapWords f.swap (bytesAt d (64 * l.2) 64)⟩) t := by
    subst t
    unfold State.landNear
    rw [hd]
  clear_value t
  subst ht
  refine ⟨hcyc, hhbm, fun g hg => ?_, ?_⟩
  · rw [State.stall_modStall, if_pos rfl, foldl_same Stall.str _ _ fun t l => t.queueWrite_str _, State.landed_stall] at hg
    exact Stall.setFlying_none _ _ g hg
  · rw [State.stall_modStall, if_pos rfl, Stall.queueWrites_writes, hspd, hfenced, List.map_append]
    congr 1
    split
    · rfl
    · exact List.map_map

/-- A piece whose data is missing: nothing is written, and the shot fails. -/
theorem State.landNear_missing {arrived : Bool} (w : State) (i x : Nat) (hd : f.data = none ∨ arrived = false) (hx : x ≤ (w.stall i).clk) :
    let t := w.landNear i x f arrived
    (t.stall i).spd = (w.stall i).spd ∧ (((w.landed i f).sync i x).Takes x ⟨x, Ev.lateLanding, srcStall i⟩ →
      t.shot.fail = some ⟨x, Ev.lateLanding, srcStall i⟩) := by
  intro t
  obtain ⟨-, -, hspd, -, hclk⟩ := w.landed_frame i f
  have ht : t = (w.landed i f).onStall i x fun t => t.raise Ev.lateLanding x (w.startTackOf i f) true := by
    subst t
    unfold State.landNear
    obtain h | h := hd
    · rw [h]
    · rw [h]
      cases f.data <;> rfl
  clear_value t
  subst ht
  refine ⟨?_, fun h => ?_⟩
  · rw [State.onStall_spd]
    exact (congrArg Stall.spd (State.sync_of_le (hx.trans_eq hclk.symm)) :).trans hspd
  · refine State.onStall_fails _ _ _ _ (e := ⟨Ev.lateLanding, x, w.startTackOf i f, true⟩) (n := 0) rfl ?_ h
    exact congrArg (· ++ [_]) (State.sync_events _ _ _)

/-! ### The statement -/

/-- Settles O14: a landing with the data there, and one without. -/
theorem pieceLands : Obligations.PieceLands := by
  intro s i n f0 f arrived hc hfirst hserved x w u hfind hdrop hnear
  have hexec := execPieceLanding_near arrived hc hfirst hserved rfl hfind hdrop hnear
  refine ⟨fun d hd harr => ?data, fun hmissing => ?missing⟩
  case data =>
    subst harr
    obtain ⟨hcyc, hhbm, hflying, hwrites⟩ := w.landNear_data i.val x hd
    have honly : StallsOnly (s.at_ x) w := (s.at_ x).sync_only i.val x
    refine ⟨_, hexec, ?_, hhbm.trans honly.hbm, hflying, hwrites⟩
    rw [hcyc, show w.cyc = max s.cyc x from (congrArg State.cyc honly.rest :)]
    exact le_max_right _ _
  case missing =>
    obtain ⟨hspd, hfails⟩ := w.landNear_missing i.val x hmissing (State.le_sync_clk _ _ _)
    exact ⟨_, hexec, congrArg Spad.mem hspd, congrArg Spad.writes hspd,
      fun hbegun hmargin hfail htime => hfails ⟨hbegun, hmargin, htime, .inl hfail⟩⟩

end Sys2Proof.Machine
end

/-!
# Refresh and tensor repair

What a refresh of a pseudo-channel leaves alone and what it counts, in a slot and on its own timer (R293, R295); which records come under repair
and what the end of a repair leaves (R342, R358).
-/
section
namespace Sys2Proof.Machine

open Sys2Proof.Safety

/-! ### Repair and scrub of units -/

/-- Time, the stalls and the states of the base dies: what the repair and the scrub of a unit leave alone. -/
def State.besideArray (s : State) : Nat × Sparse Stall × Sparse Stack := (s.cyc, s.stalls, s.dies)

theorem State.recordUnit_besideArray (s : State) (j a flag : Nat) : (s.recordUnit j a flag).besideArray = s.besideArray := by
  unfold State.recordUnit
  extract_lets e t u
  have hu : u.besideArray = s.besideArray := by
    subst u
    split <;> rfl
  exact hu

theorem State.uncorrectable_besideArray (s : State) (j a x : Nat) : (s.uncorrectable j a x).besideArray = s.besideArray := by
  unfold State.uncorrectable
  extract_lets t u v
  have hv : v.besideArray = s.besideArray := u.recordUnit_besideArray j a 30
  split <;> exact hv

theorem State.repairUnit_besideArray (s : State) (j a x : Nat) : (s.repairUnit j a x).besideArray = s.besideArray := by
  unfold State.repairUnit
  split
  split
  · rfl
  · rfl
  · exact s.uncorrectable_besideArray j a x

theorem State.scrubUnit_besideArray (s : State) (j a x : Nat) : (s.scrubUnit j a x).besideArray = s.besideArray := by
  unfold State.scrubUnit
  split
  split
  · rfl
  · rfl
  · exact State.recordUnit_besideArray _ j a 29

/-! ### Refreshes -/

/-- `t` is `s` after a refresh of pseudo-channel pc of stack j at cycle x, as far as time, the stalls and the stack's count of refreshes go. -/
structure Refreshed (s t : State) (j pc x : Nat) : Prop where
  cyc : t.cyc = s.cyc
  stalls : t.stalls = s.stalls
  lastRef : (t.stack j).lastRef = sset zeroNat (s.stack j).lastRef pc (x + 1)
  refreshes : (t.stack j).refreshes = sset zeroNat (s.stack j).refreshes pc (sget zeroNat (s.stack j).refreshes pc + 1)

namespace Refreshed

variable {s t u : State} {j pc x : Nat}

theorem of_besideArray (h : Refreshed s t j pc x) (hu : u.besideArray = t.besideArray) : Refreshed s u j pc x := by
  obtain ⟨hcyc, hrest⟩ := Prod.mk.inj hu
  obtain ⟨hstalls, hdies⟩ := Prod.mk.inj hrest
  have hstack : u.stack j = t.stack j := congrArg (sget zeroStack · j) hdies
  exact ⟨hcyc.trans h.cyc, hstalls.trans h.stalls, hstack ▸ h.lastRef, hstack ▸ h.refreshes⟩

/-- The scrubber's place in the stack and its count of passes are not looked at. -/
theorem setWalk (h : Refreshed s t j pc x) (walk passes : Sparse Nat) :
    Refreshed s (t.setStack j { t.stack j with walk := walk, passes := passes }) j pc x := by
  have hstack : (t.setStack j { t.stack j with walk := walk, passes := passes }).stack j =
      { t.stack j with walk := walk, passes := passes } := (State.stack_setStack _ _ _).trans (if_pos rfl)
  exact ⟨h.cyc, h.stalls, (congrArg Stack.lastRef hstack).trans h.lastRef, (congrArg Stack.refreshes hstack).trans h.refreshes⟩

theorem lastRef_get (h : Refreshed s t j pc x) (k : Nat) :
    sget zeroNat (t.stack j).lastRef k = if k = pc then x + 1 else sget zeroNat (s.stack j).lastRef k := by
  rw [h.lastRef, sget_sset]

theorem refreshes_get (h : Refreshed s t j pc x) (k : Nat) :
    sget zeroNat (t.stack j).refreshes k =
      if k = pc then sget zeroNat (s.stack j).refreshes pc + 1 else sget zeroNat (s.stack j).refreshes k := by
  rw [h.refreshes, sget_sset]

end Refreshed

theorem State.refreshPc_refreshed (s : State) (j pc x : Nat) : Refreshed s (s.refreshPc j pc x) j pc x := by
  unfold State.refreshPc
  extract_lets k last r u due v n rest kv w y wk a z kz
  have hu : u.besideArray = s.besideArray := by
    subst u
    split <;> rfl
  have hv : v.besideArray = s.besideArray := (foldl_same State.besideArray due u fun t a => t.repairUnit_besideArray j a x).trans hu
  clear_value u v
  obtain ⟨hcyc, hvrest⟩ := Prod.mk.inj hv
  obtain ⟨hstalls, -⟩ := Prod.mk.inj hvrest
  have hw : Refreshed s w j pc x := by
    have hstack := (State.stack_setStack (s := v) j j { v.stack j with
      repair := rest, refreshes := sset zeroNat k.refreshes pc n, lastRef := sset zeroNat k.lastRef pc (x + 1) }).trans (if_pos rfl)
    exact ⟨hcyc, hstalls, congrArg Stack.lastRef hstack, congrArg Stack.refreshes hstack⟩
  have hy : Refreshed s y j pc x := hw.of_besideArray rfl
  have hz : Refreshed s z j pc x :=
    hy.of_besideArray ((State.scrubUnit_besideArray _ j (a + 32) x).trans (y.scrubUnit_besideArray j a x))
  split
  · exact hy
  · split
    · exact hz.setWalk _ _
    · exact hz.setWalk _ _

/-- Pseudo-channels b to b + n − 1 refreshed one after another: each is refreshed once, no other is. -/
theorem State.refreshPcs_refreshed (s : State) (j b x n : Nat) :
    let t := (List.range n).foldl (fun s k => s.refreshPc j (b + k) x) s
    t.cyc = s.cyc ∧ t.stalls = s.stalls ∧ ∀ k,
      sget zeroNat (t.stack j).lastRef k = (if b ≤ k ∧ k < b + n then x + 1 else sget zeroNat (s.stack j).lastRef k) ∧
      sget zeroNat (t.stack j).refreshes k =
        sget zeroNat (s.stack j).refreshes k + (if b ≤ k ∧ k < b + n then 1 else 0) := by
  induction n with
  | zero => exact ⟨rfl, rfl, fun k => ⟨(if_neg (by omega)).symm, by rw [if_neg (by omega)]; rfl⟩⟩
  | succ n ih =>
    rw [List.range_succ, List.foldl_append]
    obtain ⟨hcyc, hstalls, hcounts⟩ := ih
    have hlast := State.refreshPc_refreshed ((List.range n).foldl (fun s k => s.refreshPc j (b + k) x) s) j (b + n) x
    refine ⟨hlast.cyc.trans hcyc, hlast.stalls.trans hstalls, fun k => ?_⟩
    obtain ⟨hlastRef, hrefreshes⟩ := hcounts k
    refine ⟨(hlast.lastRef_get k).trans ?_, (hlast.refreshes_get k).trans ?_⟩
    · rw [hlastRef]
      by_cases hk : k = b + n
      · rw [if_pos hk, if_pos (by omega)]
      · rw [if_neg hk]
        exact if_congr (by omega) rfl rfl
    · by_cases hk : k = b + n
      · subst hk
        rw [if_pos rfl, hrefreshes, if_neg (by omega), if_pos (by omega)]
      · rw [if_neg hk, hrefreshes]
        exact congrArg _ (if_congr (by omega) rfl rfl)

variable {s : State} {j : StackId}

theorem execRefreshSlot_refreshes {q : Fin 4} {x : Nat} (hc : s.clocked = true) (hr : s.running = true) (hf : (s.stack j.val).failed = false)
    (hx : s.nextSlot j.val q.val = some x) :
    exec (.refreshSlot j q) s = .next ((List.range 16).foldl (fun s k => s.refreshPc j.val (16 * q.val + k) x) (s.at_ x)) := by
  show execRefreshSlot j q s = _
  unfold execRefreshSlot
  rw [if_neg (by simp [hc, hr, hf]), hx]

theorem execOwnTimerRefresh_refreshes {pc : Fin 64} (hc : s.clocked = true) (hr : s.running = false) (hf : (s.stack j.val).failed = false) :
    exec (.ownTimerRefresh j pc) s =
      .next ((s.at_ (s.ownDue j.val pc.val)).refreshPc j.val pc.val (s.ownDue j.val pc.val)) := by
  show execOwnTimerRefresh j pc s = _
  unfold execOwnTimerRefresh
  rw [if_neg (by simp [hc, hr, hf])]

/-! ### Tensor repair -/

/-- A repair that cannot be made sets its flag; of what is stored, and of securing, it changes nothing. -/
theorem State.repairFail_shows (s : State) :
    s.repairFail.ckpt = s.ckpt ∧ natBit (s.repairFail.reg A.ckpErr) 27 = true ∧ s.repairFail.hbm = s.hbm :=
  ⟨rfl, State.bit_setBit_same _ _ (by decide), rfl⟩

/-- The stalls and the records under repair: what the rebuilding of a record leaves alone. -/
def State.besideRepair (s : State) : Sparse Stall × List Nat := (s.stalls, s.ckpt.repairs)

theorem State.writeMem_besideRepair (s : State) (a x : Nat) (bs : List Byte) (sched : Bool) :
    (s.writeMem a x bs sched).besideRepair = s.besideRepair :=
  Prod.ext (s.writeMem_served a x bs sched).stalls (congrArg Ckpt.repairs (s.writeMem_reported a x bs sched).ckpt :)

theorem State.putGroup_besideRepair (s : State) (g : Nat) (a b : List Byte) : (s.putGroup g a b).besideRepair = s.besideRepair := by
  unfold State.putGroup
  split
  · exact (State.writeMem_besideRepair _ _ _ _ _).trans (s.writeMem_besideRepair _ _ _ _)
  · rfl

theorem State.replayRecord_besideRepair (s : State) (k : Nat) (table journal : List Byte) :
    (s.replayRecord k table journal).besideRepair = s.besideRepair := by
  unfold State.replayRecord
  split
  · rfl
  · split
    · rfl
    · refine foldl_same State.besideRepair _ s fun t i => ?_
      dsimp only
      split
      · exact t.putGroup_besideRepair _ _ _
      · rfl

theorem State.putMoments_besideRepair (s : State) (k : Nat) (moments : List Byte) :
    (s.putMoments k moments).besideRepair = s.besideRepair := by
  unfold State.putMoments
  refine foldl_same State.besideRepair _ s fun t i => ?_
  dsimp only
  split
  · exact t.putGroup_besideRepair _ _ _
  · rfl

theorem State.rebuild_besideRepair (s : State) (src : RestoreSource) (step k : Nat) : (s.rebuild src step k).besideRepair = s.besideRepair := by
  unfold State.rebuild
  split
  · rfl
  · extract_lets planes replayed
    have hplanes : planes.besideRepair = s.besideRepair := foldl_same State.besideRepair _ s fun t i => t.putGroup_besideRepair _ _ _
    have hreplayed : replayed.besideRepair = s.besideRepair := by
      refine (foldl_same State.besideRepair _ planes fun t n => ?_).trans hplanes
      split
      · exact t.replayRecord_besideRepair _ _ _
      · rfl
    split
    · exact (replayed.putMoments_besideRepair _ _).trans hreplayed
    · exact hreplayed

theorem State.replaySlots_besideRepair (s : State) (k : Nat) : (s.replaySlots k).besideRepair = s.besideRepair := by
  unfold State.replaySlots
  split
  · exact foldl_same State.besideRepair _ s fun t i => t.replayRecord_besideRepair _ _ _
  · rfl

/-- The end of a repair takes its record out, first of all. -/
def State.repairOver (s : State) (k : Nat) : State := { s with ckpt := { s.ckpt with repairs := s.ckpt.repairs.erase k } }

theorem execTensorRepairDone_failed {k : Nat} (src : RestoreSource) (hc : s.clocked = true) (hk : k ∈ s.ckpt.repairs) :
    exec (.tensorRepairDone k src false) s = .next (s.repairOver k).repairFail := by
  show execTensorRepairDone k src false s = _
  unfold execTensorRepairDone
  rw [if_neg (by simp [hc, hk])]
  rfl

theorem execTensorRepairDone_rebuilt {k : Nat} (src : RestoreSource) (hc : s.clocked = true) (hk : k ∈ s.ckpt.repairs) :
    ∃ t, exec (.tensorRepairDone k src true) s = .next t ∧ t.besideRepair = (s.repairOver k).besideRepair := by
  refine ⟨_, rfl, ?_⟩
  rw [if_neg (by simp [hc, hk])]
  extract_lets c t step u
  have hu : u.besideRepair = t.besideRepair := (State.replaySlots_besideRepair _ k).trans (t.rebuild_besideRepair src step k)
  rw [if_neg (by decide)]
  split
  · exact hu
  · exact hu

/-! ### The statement -/

/-- Settles O29: the refreshes of a slot and of a timer, the records of an uncorrectable unit, and the two ends of a repair. -/
theorem refreshAndRepair : Obligations.RefreshAndRepair := by
  intro s j hc
  refine ⟨fun q x hr hf hx => ?slot, fun pc hr hf => ?timer, fun a => ?unit, fun k src hk => ⟨?rebuilt, ?failed⟩⟩
  case slot =>
    obtain ⟨hcyc, hstalls, hcounts⟩ := (s.at_ x).refreshPcs_refreshed j.val (16 * q.val) x 16
    refine ⟨_, execRefreshSlot_refreshes hc hr hf hx, (le_max_right s.cyc x).trans_eq hcyc.symm, hstalls, fun k hk => ?_⟩
    obtain ⟨hlastRef, hrefreshes⟩ := hcounts (16 * q.val + k)
    rw [hlastRef, hrefreshes, if_pos (by omega), if_pos (by omega)]
    exact ⟨rfl, rfl⟩
  case timer =>
    have hdone := (s.at_ (s.ownDue j.val pc.val)).refreshPc_refreshed j.val pc.val (s.ownDue j.val pc.val)
    exact ⟨_, execOwnTimerRefresh_refreshes hc hr hf, (le_max_right s.cyc _).trans_eq hdone.cyc.symm, hdone.stalls,
      (hdone.lastRef_get _).trans (if_pos rfl), (hdone.refreshes_get _).trans (if_pos rfl), fun k hk => (hdone.lastRef_get k).trans (if_neg hk)⟩
  case unit =>
    intro l hl hlost
    have hacts : ¬(!s.clocked || l.isEmpty || decide ((s.decodeUnit j.val a.toNat).2 ≠ .lost)) = true := by simp [hc, hl, hlost]
    refine ⟨fun hall => ?_, fun hall => ⟨s.repairFail, ?_, s.repairFail_shows⟩⟩
    · exact congrArg Host.Outcome.next ((if_neg hacts).trans (if_pos hall))
    · exact congrArg Host.Outcome.next ((if_neg hacts).trans (if_neg (Bool.eq_false_iff.mp hall)))
  case rebuilt =>
    obtain ⟨t, hexec, ht⟩ := execTensorRepairDone_rebuilt src hc hk
    obtain ⟨hstalls, hrepairs⟩ := Prod.mk.inj ht
    exact ⟨t, hexec, hrepairs, hstalls⟩
  case failed =>
    obtain ⟨hckpt, hflag, hhbm⟩ := (s.repairOver k).repairFail_shows
    exact ⟨_, execTensorRepairDone_failed src hc hk, congrArg Ckpt.repairs hckpt, hhbm, hflag⟩

end Sys2Proof.Machine
end

/-!
# A base die serves a request of one line

Two whole units make a line: what is stored after a write of a line, and what a read of a line without bad symbols and buffered pony bytes finds
(R285, R288, R291).
-/
section
namespace Sys2Proof.Machine

open Sys2Proof.Safety

variable {s : State} {j l x : Nat}

/-! ### Bytes side by side -/

theorem Memory.write_append (m : Memory) (a : Nat) (b c : List Byte) : m.write a (b ++ c) = (m.write a b).write (a + b.length) c := by
  induction b generalizing m a with
  | nil => rfl
  | cons v b ih =>
    have hcons : ∀ d, m.write a (v :: d) = (m.set a v).write (a + 1) d := fun _ => rfl
    rw [List.cons_append, hcons, hcons, ih, List.length_cons, show a + 1 + b.length = a + (b.length + 1) by omega]

theorem Memory.read_add (m : Memory) (a n k : Nat) : m.read a (n + k) = m.read a n ++ m.read (a + n) k := by
  simp [Memory.read, sgetList, List.range_add, Nat.add_assoc]

/-- An address inside a stack does not wrap. -/
theorem hkey_of_lt {a : Nat} (h : a < 2 ^ 36) : hkey j a = j * 2 ^ 36 + a := congrArg (j * 2 ^ 36 + ·) (Nat.mod_eq_of_lt h)

/-! ### A line written -/

theorem State.encodeUnit_hbm {bs : List Byte} (hl : l % 32 = 0) (hbs : bs.length = 32) :
    (s.encodeUnit j l bs).hbm = s.hbm.write (hkey j l) bs := by
  show s.hbm.write (hkey j (l / 32 * 32)) (bytesAt bs 0 32) = _
  rw [bytesAt_self hbs, show l / 32 * 32 = l by omega]

/-- A write of a line encodes its two units afresh. -/
theorem State.writeStack_line {d : List Byte} (sched : Bool) (hl : l % 64 = 0) (hd : d.length = 64) :
    s.writeStack j l x d sched = (s.encodeUnit j l (d.take 32)).encodeUnit j (l + 32) (d.drop 32) := by
  have hwhole : ∀ (w : State) (a : Nat) (bs : List Byte), bs.length = 32 → w.writeUnit j a x bs sched = w.encodeUnit j a bs :=
    fun w a bs h => if_pos h
  have hunit : ∀ (w : State) (n a : Nat) (bs : List Byte), a % 32 = 0 → 32 ≤ bs.length →
      w.writeUnits j x sched (n + 1) a bs = (w.encodeUnit j a (bs.take 32)).writeUnits j x sched n (a + 32) (bs.drop 32) := by
    intro w n a bs ha hbs
    have hne : ¬bs.isEmpty = true := by
      rw [List.isEmpty_iff]
      rintro rfl
      exact absurd hbs (by decide)
    rw [State.writeUnits, if_neg hne, ha, ← hwhole w a (bs.take 32) (by simp; omega)]
  have hsecond : (d.drop 32).length = 32 := by simp [hd]
  unfold State.writeStack
  rw [hd, hunit _ _ l d (by omega) (by omega), hunit _ _ (l + 32) _ (by omega) hsecond.ge, List.take_of_length_le hsecond.le,
    List.drop_of_length_le hsecond.le]
  rfl

theorem State.writeStack_line_hbm {d : List Byte} (sched : Bool) (hl : l % 64 = 0) (hfit : l + 64 ≤ 2 ^ 36) (hd : d.length = 64) :
    (s.writeStack j l x d sched).hbm = s.hbm.write (hkey j l) d := by
  have hfirst : (d.take 32).length = 32 := by simp [hd]
  have hkeys : hkey j (l + 32) = hkey j l + (d.take 32).length := by
    rw [hkey_of_lt (by omega), hkey_of_lt (by omega), hfirst, Nat.add_assoc]
  rw [State.writeStack_line sched hl hd, State.encodeUnit_hbm (by omega) (by simp [hd]), State.encodeUnit_hbm (by omega) hfirst, hkeys,
    ← Memory.write_append, List.take_append_drop]

/-! ### A line read -/

theorem State.decodeUnit_clean {a : Nat} (h : sget noBad s.bad (unitKey j a) = ⟨0, []⟩) : s.decodeUnit j a = (s.unitBytes j a, .clean) := by
  unfold State.decodeUnit
  rw [h]
  rfl

/-- A unit without bad symbols and without buffered bytes of the pony is read as it is stored. -/
theorem State.readUnit_clean {a : Nat} (h : sget noBad s.bad (unitKey j a) = ⟨0, []⟩) (hp : (s.stack j).pony = []) :
    s.readUnit j a x = (s, s.unitBytes j a, false) := by
  have hmerge : s.ponyMerge j a (s.unitBytes j a) = s.unitBytes j a := by
    unfold State.ponyMerge
    rw [hp]
    rfl
  unfold State.readUnit
  rw [State.decodeUnit_clean h]
  exact congrArg (fun b => (s, b, false)) hmerge

theorem State.readStack_line (hl : l % 64 = 0) (hfit : l + 64 ≤ 2 ^ 36) (h : sget noBad s.bad (unitKey j l) = ⟨0, []⟩)
    (h' : sget noBad s.bad (unitKey j (l + 32)) = ⟨0, []⟩) (hp : (s.stack j).pony = []) :
    s.readStack j l 64 x = (s, s.hbm.read (hkey j l) 64, List.replicate 64 false) := by
  have hline : s.unitBytes j l ++ s.unitBytes j (l + 32) = s.hbm.read (hkey j l) 64 := by
    unfold State.unitBytes
    rw [show l / 32 * 32 = l by omega, show (l + 32) / 32 * 32 = l + 32 by omega, Memory.read_add _ _ 32 32, hkey_of_lt (by omega),
      hkey_of_lt (by omega), Nat.add_assoc]
  have hlen : (s.hbm.read (hkey j l) 64).length = 64 := by simp [Memory.read, sgetList]
  unfold State.readStack
  rw [show l / 32 * 32 = l by omega, show (l + 64 + 31) / 32 - l / 32 = 2 by omega]
  simp only [State.readUnits, State.readUnit_clean h hp, State.readUnit_clean h' hp, List.append_nil, hline, Nat.sub_self, List.drop_zero,
    List.take_of_length_le hlen.le, List.replicate_append_replicate, List.take_replicate]
  rfl

/-! ### The request served -/

/-- The state in which a base die serves the request a: the request taken out, its stall at the arrival cycle. -/
def State.reached (s : State) (j : Nat) (a : Arrival) : State :=
  ((s.at_ a.at_).setStack j { s.stack j with
    arrivals := (s.stack j).arrivals.filter fun b => !(b.stall = a.stall && b.id = a.id) }).sync a.stall a.at_

theorem State.reached_only (s : State) (j : Nat) (a : Arrival) :
    StallsOnly ((s.at_ a.at_).setStack j { s.stack j with
      arrivals := (s.stack j).arrivals.filter fun b => !(b.stall = a.stall && b.id = a.id) }) (s.reached j a) := State.sync_only _ _ _

theorem State.reached_frame (s : State) (j : Nat) (a : Arrival) :
    (s.reached j a).hbm = s.hbm ∧ (s.reached j a).bad = s.bad ∧ ((s.reached j a).stack j).pony = (s.stack j).pony ∧
      a.at_ ≤ (s.reached j a).cyc := by
  have honly := s.reached_only j a
  have hstack : (s.reached j a).stack j = _ :=
    (congrArg (State.stack · j) honly.rest :).trans ((State.stack_setStack _ _ _).trans (if_pos rfl))
  have hcyc : (s.reached j a).cyc = max s.cyc a.at_ := (congrArg State.cyc honly.rest :)
  exact ⟨honly.hbm, (congrArg State.bad honly.rest :), (congrArg Stack.pony hstack :), (le_max_right _ _).trans_eq hcyc.symm⟩

variable {a : Arrival} {p : Flying}

theorem State.serveArrival_write {d : List Byte} (hl : a.lines = [l]) (hw : a.write = true)
    (hp : ((s.reached j a).stall a.stall).str.flying.find? (fun p => p.id = a.id) = some p) (hd : p.data = some d) (hlen : d.length = 64) :
    (s.at_ a.at_).serveArrival j a = (((s.reached j a).ponyClear j l 64).writeStack j l a.at_ d false).modStall a.stall fun t =>
      t.setFlying a.id fun _ => none := by
  unfold State.serveArrival
  extract_lets k v w
  have hreached : w = s.reached j a := rfl
  clear_value w
  subst hreached
  rw [hp]
  dsimp only
  rw [if_pos hw, hl, hd, Option.getD_some, List.zipIdx_singleton, List.foldl_cons, List.foldl_nil]
  dsimp only
  rw [Nat.mul_zero, bytesAt_self hlen]

theorem State.serveArrival_read {bs : List Byte} (hl : a.lines = [l]) (hw : a.write = false)
    (hp : ((s.reached j a).stall a.stall).str.flying.find? (fun p => p.id = a.id) = some p)
    (hr : (s.reached j a).readStack j l 64 a.at_ = (s.reached j a, bs, List.replicate 64 false)) :
    (s.at_ a.at_).serveArrival j a = (s.reached j a).modStall a.stall fun t =>
      t.setFlying a.id fun p => some { p with data := some bs } := by
  unfold State.serveArrival
  extract_lets k v w
  have hreached : w = s.reached j a := rfl
  clear_value w
  subst hreached
  rw [hp]
  dsimp only
  rw [if_neg (by simp [hw]), hl, List.foldl_cons, List.foldl_nil]
  dsimp only
  rw [hr]
  rfl

theorem execBaseDieArrival_serves {j : StackId} (hc : s.clocked = true) (ha : firstArrival (s.stack j.val).arrivals = some a) :
    exec (.baseDieArrival j) s = .next ((s.at_ a.at_).serveArrival j.val a) := by
  show execBaseDieArrival j s = _
  unfold execBaseDieArrival
  rw [ha]
  exact congrArg Host.Outcome.next (if_pos hc)

/-- A piece in flight that is changed, and keeps its name, is in flight as changed. -/
theorem Stall.setFlying_some (st : Stall) (f : Flying → Flying) (hp : p ∈ st.str.flying) :
    f p ∈ (st.setFlying p.id fun q => some (f q)).str.flying :=
  List.mem_filterMap.mpr ⟨p, hp, if_pos rfl⟩

/-! ### The statement -/

/-- Settles O13: a write that lays its line down, and a read that fills its piece. -/
theorem baseDieServes : Obligations.BaseDieServes := by
  intro s j a l p hc ha hlines hl hfit k w hp
  have hexec := execBaseDieArrival_serves hc ha
  obtain ⟨hhbm, hbad, hpony, hcyc⟩ := s.reached_frame j.val a
  refine ⟨fun hw d hd hlen => ?write, fun hw hgood hgood' hnone => ?read⟩
  case write =>
    have hserved := State.serveArrival_write hlines hw hp hd hlen
    have hstored := (State.writeStack_line_hbm (s := (s.reached j.val a).ponyClear j.val l 64) (j := j.val) (x := a.at_)
      false hl hfit hlen).trans (congrArg (Memory.write · (hkey j.val l) d) hhbm)
    have hrest := (((s.reached j.val a).ponyClear j.val l 64).writeStack_served j.val l a.at_ d false).rest
    refine ⟨_, hexec.trans (congrArg _ hserved), hcyc.trans_eq (congrArg State.cyc hrest :).symm, fun q hq => ?_, fun b hb => ?_, ?_⟩
    · refine (congrArg (Memory.get · _) hstored).trans ?_
      have hkey : hkey j.val (l + q) = hkey j.val l + q := by rw [hkey_of_lt (by omega), hkey_of_lt (by omega), Nat.add_assoc]
      rw [hkey, Memory.get_write, if_pos (by omega), Nat.add_sub_cancel_left]
      rfl
    · exact (congrArg (Memory.get · _) hstored).trans (Memory.get_write_outside _ (by omega))
    · rw [State.stall_modStall, if_pos rfl]
      exact Stall.setFlying_none _ _
  case read =>
    have hline := State.readStack_line (s := s.reached j.val a) (x := a.at_) hl hfit (hbad ▸ hgood) (hbad ▸ hgood') (hpony.trans hnone)
    rw [hhbm] at hline
    have hserved := State.serveArrival_read hlines hw hp hline
    have hid : p.id = a.id := by simpa using List.find?_some hp
    refine ⟨_, hexec.trans (congrArg _ hserved), hcyc, hhbm, { p with data := some (s.hbm.read (hkey j.val l) 64) }, ?_, hid, rfl⟩
    rw [State.stall_modStall, if_pos rfl, ← hid]
    exact Stall.setFlying_some _ (fun q => { q with data := _ }) (List.mem_of_find?_eq_some hp)

end Sys2Proof.Machine
end

/-!
# Promotion into the loft

A promotion request that takes a free frame, one of a page without the loft flag, and the end of a page's copy (R302, R303, R305).
-/
section
namespace Sys2Proof.Machine

open Sys2Proof.Safety

variable {s : State} {p k : Nat} {h : Holder}

/-! ### Frames -/

/-- A frame that is put into a place of the loft stands there, and no other place changes. -/
theorem Far.frame_setFrame (f : Far) {k : Nat} (v : LoftFrame) (hk : k < f.frames.length) (m : Nat) :
    (f.setFrame k v).frame m = if m = k then v else f.frame m := by
  show (f.frames.set k v).getD m .empty = _
  rw [List.getD_eq_getElem?_getD, List.getElem?_set]
  by_cases hm : m = k
  · subst hm
    rw [if_pos rfl, if_pos hk, if_pos rfl]
    rfl
  · rw [if_neg (Ne.symm hm), if_neg hm, ← List.getD_eq_getElem?_getD]
    rfl

/-! ### Promotion requests -/

/-- The far translation table lies in HBM: it does not depend on the loft. -/
theorem State.farEntry_withFar (s : State) (f : Far) (p : Nat) : ({ s with far := f } : State).farEntry p = s.farEntry p := by
  have hunits : ∀ j u n, ({ s with far := f } : State).peekUnits j u n = s.peekUnits j u n := by
    intro j u n
    induction n generalizing u with
    | zero => rfl
    | succ n ih =>
      simp only [State.peekUnits, ih]
      rfl
  have hpeek : ∀ a n, ({ s with far := f } : State).peek a n = s.peek a n := by
    intro a n
    simp only [State.peek, State.peekStack, hunits]
    rfl
  simp only [State.farEntry, hpeek]
  rfl

/-- What the requests of a promotion's copy to its source leave alone: the loft and its requests, memory, the stalls. -/
def State.besideCopy (s : State) : List LoftFrame × List (Holder × Nat) × Memory × Sparse Stall :=
  (s.far.frames, s.far.asks, s.hbm, s.stalls)

theorem State.readReq_besideCopy (s : State) (e : List Byte) (off len : Nat) : (s.readReq e off len).besideCopy = s.besideCopy := by
  unfold State.readReq State.sendFar
  extract_lets f t
  split <;> rfl

theorem State.askCopy_besideCopy (s : State) (p : Nat) : (s.askCopy p).besideCopy = s.besideCopy := by
  unfold State.askCopy
  extract_lets e
  split
  · split <;> rfl
  · split <;> rfl
  · exact foldl_same State.besideCopy _ s fun t k => t.readReq_besideCopy _ _ _
  · rfl

/-- The frame of a page whose promotion a run, or the groom, has asked for. -/
def LoftFrame.promoting (h : Holder) (p : Nat) : LoftFrame :=
  ⟨p, .promoting, if h = .groom then [] else [h], decide (h = .groom), false⟩

theorem State.promote_free (hloft : farLoft (s.farEntry p) = true) (hnone : s.far.frameOf p = none)
    (hk : s.far.frames.findIdx? (fun x => decide (x.state = .free)) = some k) :
    s.promote h p = ({ s with far := s.far.setFrame k (.promoting h p) } : State).askCopy p := by
  unfold State.promote
  dsimp only
  rw [hnone]
  dsimp only
  rw [if_neg (by simp [hloft]), hk]
  by_cases hg : h = .groom
  · simp [hg, LoftFrame.promoting, LoftFrame.empty]
  · simp [hg, LoftFrame.promoting, LoftFrame.empty, LoftFrame.join]

theorem State.promote_unflagged (hloft : farLoft (s.farEntry p) = false) (hnone : s.far.frameOf p = none) : s.promote h p = s := by
  unfold State.promote
  dsimp only
  rw [hnone]
  exact if_pos (by simp [hloft])

/-- The state without its oldest promotion request. -/
def State.withAsks (s : State) (r : List (Holder × Nat)) : State := { s with far := { s.far with asks := r } }

theorem execLoftPromotionRequest_oldest {r : List (Holder × Nat)} (hs : s.loftSettle = s) (ha : s.far.asks = (h, p) :: r) :
    exec .loftPromotionRequest s = .next ((s.withAsks r).promote h p) := by
  show execLoftPromotionRequest s = _
  unfold execLoftPromotionRequest
  dsimp only
  rw [hs, ha]
  rfl

/-! ### The end of a copy -/

/-- The frame k becomes resident, and the promotion is counted. -/
def Far.arrived (f : Far) (k : Nat) : Far :=
  { f.setFrame k { f.frame k with state := .resident } with promoted := f.promoted + 1 }

/-- A page becomes ready in the contexts of its holders. -/
def State.pagesReady (s : State) (l : List Holder) (page : Nat) : State :=
  l.foldl (fun s h => s.modStall h.stall fun t => t.pageReady h.ctx page) s

theorem State.pagesReady_only (s : State) (l : List Holder) (page : Nat) : StallsOnly s (s.pagesReady l page) :=
  (StallsOnly.refl s).foldl l fun t _ => t.modStall_only _ _

/-- The bytes of a page, in the place of frame k. -/
def State.pageWritten (s : State) (k : Nat) (data : List Byte) : State :=
  s.writeMem (s.frameAddr k) s.cyc (bytesAt data 0 pageSize) false

theorem execPromotionCopyDone_arrives {page : Nat} {data : List Byte} (hs : s.loftSettle = s) (hk : s.far.frameOf page = some k)
    (hp : (s.far.frame k).state = .promoting) :
    exec (.promotionCopyDone page data) s =
      .next (({ s.pageWritten k data with far := s.far.arrived k } : State).pagesReady (s.far.frame k).holders page) := by
  have hfar : (s.writeMem (s.frameAddr k) s.cyc (bytesAt data 0 pageSize) false).far = s.far :=
    (congrArg State.far (s.writeMem_served (s.frameAddr k) s.cyc (bytesAt data 0 pageSize) false).rest :)
  show execPromotionCopyDone page data s = _
  unfold execPromotionCopyDone
  dsimp only
  rw [hs, hk]
  dsimp only
  rw [if_neg (by simp [hp]), hfar]
  rfl

/-! ### The statement -/

/-- Settles O17: a request that takes a free frame, a request of a page without the flag, and the end of a copy. -/
theorem loftPromotion : Obligations.LoftPromotion := by
  intro s hs
  refine ⟨fun h p r k ha hloft hnone hk => ?takes, fun h p r ha hloft hnone => ?unflagged, fun page data k hk hp => ?arrives⟩
  case takes =>
    obtain ⟨hlt, -⟩ := List.findIdx?_eq_some_iff_findIdx_eq.mp hk
    have hpromote := State.promote_free (s := s.withAsks r) (h := h) ((congrArg farLoft (s.farEntry_withFar _ p)).trans hloft) hnone hk
    have hcopy := State.askCopy_besideCopy { s.withAsks r with far := (s.withAsks r).far.setFrame k (.promoting h p) } p
    rw [← hpromote] at hcopy
    obtain ⟨hframes, hrest⟩ := Prod.mk.inj hcopy
    obtain ⟨hasks, hrest⟩ := Prod.mk.inj hrest
    obtain ⟨hhbm, hstalls⟩ := Prod.mk.inj hrest
    have hframe : ∀ m, ((s.withAsks r).promote h p).far.frame m = if m = k then .promoting h p else s.far.frame m := fun m =>
      (congrArg (fun l : List LoftFrame => l.getD m .empty) hframes).trans (s.far.frame_setFrame _ hlt m)
    have hnew := (hframe k).trans (if_pos rfl)
    exact ⟨_, execLoftPromotionRequest_oldest hs ha, hasks, congrArg LoftFrame.page hnew, congrArg LoftFrame.state hnew,
      congrArg LoftFrame.holders hnew, congrArg LoftFrame.permanent hnew, fun m hm => (hframe m).trans (if_neg hm), hhbm, hstalls⟩
  case unflagged =>
    have hpromote := State.promote_unflagged (s := s.withAsks r) (h := h) ((congrArg farLoft (s.farEntry_withFar _ p)).trans hloft) hnone
    exact (execLoftPromotionRequest_oldest hs ha).trans (congrArg Host.Outcome.next hpromote)
  case arrives =>
    obtain ⟨hlt, -⟩ := List.findIdx?_eq_some_iff_findIdx_eq.mp hk
    have honly := ({ s.pageWritten k data with far := s.far.arrived k } : State).pagesReady_only (s.far.frame k).holders page
    have hfar := (congrArg State.far honly.rest :)
    have hframe := (s.far.frame_setFrame { s.far.frame k with state := .resident } hlt k).trans (if_pos rfl)
    exact ⟨_, execPromotionCopyDone_arrives hs hk hp, (congrArg (Far.frame · k) hfar).trans hframe, congrArg Far.promoted hfar, honly.hbm⟩

end Sys2Proof.Machine
end

/-!
# Training: windows, freeze requests, sweeps

What the window of an update pass rewrites and what stops a pass, a request to freeze a group, the start and the frames of a snapshot sweep
(R320, R321 to R325, R332, R392). The group of a window takes effect at the window's end (log 61), and the event of an abandoned pass names the
stack (log 63). The end of the last pass may begin a securing point, and that stores nothing in HBM.
-/
section
namespace Sys2Proof.Machine

open Sys2Proof.Safety

variable {s t : State}

/-! ### What reads and writes of HBM leave alone -/

theorem HbmServed.train (h : HbmServed s t) : t.train = s.train := (congrArg State.train h.rest :)
theorem HbmServed.host (h : HbmServed s t) : t.host = s.host := (congrArg State.host h.rest :)
theorem HbmServed.boot (h : HbmServed s t) : t.boot = s.boot := (congrArg State.boot h.rest :)
theorem HbmServed.cyc (h : HbmServed s t) : t.cyc = s.cyc := (congrArg State.cyc h.rest :)

/-! ### A securing point that begins -/

/-- HBM, training and time: what the begin of a securing point leaves alone (R336). -/
def State.besidePoint (s : State) : Memory × Train × Nat := (s.hbm, s.train, s.cyc)

theorem HbmRead.besidePoint (h : HbmRead s t) : t.besidePoint = s.besidePoint := by
  unfold State.besidePoint
  rw [h.hbm, h.train, h.cyc]

theorem Sent.besidePoint (h : Sent s t) : t.besidePoint = s.besidePoint := (congrArg State.besidePoint h.rest :)

theorem State.readMarked_read (s : State) (a n x : Nat) : HbmRead s (s.readMarked a n x).1 := by
  unfold State.readMarked
  refine List.foldlRecOn (motive := fun acc : State × List Byte × List Bool => HbmRead s acc.1) _ _ (.refl s) fun acc h p _ => ?_
  obtain ⟨t, bs, ls⟩ := acc
  dsimp only
  split
  · exact h.trans (t.readStack_read _ _ _ _)
  · exact h

theorem State.readFree_besidePoint (s : State) (a n x : Nat) : (s.readFree a n x).1.besidePoint = s.besidePoint :=
  (s.readMarked_read a n x).besidePoint

theorem State.copyGroup_besidePoint (s : State) (p : Point) (k i : Nat) (r : UpdRecord) :
    (s.copyGroup p k i r).1.besidePoint = s.besidePoint := by
  unfold State.copyGroup
  split
  · exact s.readFree_besidePoint _ _ _
  · let t := (s.readFree (s.addrA r i) 2112 s.cyc).1
    exact (t.readFree_besidePoint (t.addrB r i) 10240 t.cyc).trans (s.readFree_besidePoint _ _ _)

theorem State.readSeg_besidePoint (s : State) (p : Point) (q : Seg) (n : Nat) : (s.readSeg p q n).1.besidePoint = s.besidePoint := by
  have hfold : ∀ f : State × List Byte × Bool → Nat → State × List Byte × Bool,
      (∀ acc i, (f acc i).1.besidePoint = acc.1.besidePoint) → ((List.range n).foldl f (s, [], false)).1.besidePoint = s.besidePoint :=
    fun f hf => foldl_same (fun acc : State × List Byte × Bool => acc.1.besidePoint) _ _ hf
  unfold State.readSeg
  extract_lets r
  split
  · exact hfold _ fun acc i => acc.1.copyGroup_besidePoint p q.record i r
  · exact hfold _ fun acc i => acc.1.copyGroup_besidePoint p q.record i r
  · exact hfold _ fun acc i => (acc.1.readMem_read _ _ _).besidePoint
  · exact (s.readMem_read _ _ _).besidePoint

theorem State.sendMessage_besidePoint (s : State) (f : Frame) : (s.sendMessage f).besidePoint = s.besidePoint := by
  unfold State.sendMessage
  extract_lets _ t
  split
  · exact (t.sendData_sent _ _ _).besidePoint
  · rfl

theorem State.firstWrite_besidePoint (s : State) (p : Point) (e : Dest) (d off : Nat) :
    (s.firstWrite p e d off).besidePoint = s.besidePoint := by
  unfold State.firstWrite
  split
  · rfl
  next q _ =>
    split
    · split <;> rfl
    · split
      · exact (State.sendMessage_besidePoint _ _).trans (s.readSeg_besidePoint p q _)
      · rfl

theorem State.settlePoint_besidePoint (s : State) : s.settlePoint.besidePoint = s.besidePoint := by
  unfold State.settlePoint
  split
  · split <;> rfl
  · rfl

theorem State.destFail_besidePoint (s : State) (d cause : Nat) : (s.destFail d cause).besidePoint = s.besidePoint := by
  unfold State.destFail
  split
  · extract_lets t u v
    have hu : u.besidePoint = t.besidePoint := by
      subst u
      split <;> rfl
    split
    · rfl
    · exact (State.settlePoint_besidePoint _).trans hu
  · rfl

theorem State.openDest_besidePoint (s : State) (d : Nat) : (s.openDest d).besidePoint = s.besidePoint := by
  unfold State.openDest
  split
  · split
    · exact s.destFail_besidePoint _ _
    · exact State.firstWrite_besidePoint _ _ _ _ _
  · rfl

theorem State.startPoint_besidePoint (s : State) (step shot count : Nat) : (s.startPoint step shot count).besidePoint = s.besidePoint := by
  unfold State.startPoint
  split
  · rfl
  · split
    · rfl
    · exact (State.settlePoint_besidePoint _).trans (foldl_same State.besidePoint _ _ State.openDest_besidePoint)

theorem State.passesDone_besidePoint (s : State) : s.passesDone.besidePoint = s.besidePoint := by
  unfold State.passesDone
  split
  · rfl
  · split
    · exact State.startPoint_besidePoint _ _ _ _
    · rfl

/-! ### The group of a window -/

theorem State.regionBase_of_boot (h : t.boot = s.boot) (k : Nat) : t.regionBase k = s.regionBase k := by
  unfold State.regionBase
  rw [h]

theorem State.addrB_of_boot (h : t.boot = s.boot) (r : UpdRecord) (i : Nat) : t.addrB r i = s.addrB r i := by
  unfold State.addrB
  rw [State.regionBase_of_boot h]

theorem State.addrJ_of_boot (h : t.boot = s.boot) (k c i : Nat) : t.addrJ k c i = s.addrJ k c i := by
  simp only [State.addrJ, State.records, State.upd, State.depth, State.policy, h, State.regionBase_of_boot h]

/-- The planes A and B and the journal of a pass's group, written in this order (R321, R345). -/
def State.groupWritten (s : State) (u : UpdPass) (r : UpdRecord) (n : NewGroup) : State :=
  let a := s.writeMem (s.addrA r u.next) s.cyc n.a false
  let b := a.writeMem (a.addrB r u.next) a.cyc n.b false
  b.writeMem (b.addrJ u.record b.train.commits u.next) b.cyc n.journal false

theorem State.groupWritten_served (s : State) (u : UpdPass) (r : UpdRecord) (n : NewGroup) : HbmServed s (s.groupWritten u r n) :=
  ((s.writeMem_served _ _ _ _).trans (State.writeMem_served _ _ _ _ _)).trans (State.writeMem_served _ _ _ _ _)

/-- The places of a group do not move while it is written. -/
theorem State.groupWritten_places (s : State) (u : UpdPass) (r : UpdRecord) (n : NewGroup) :
    s.groupWritten u r n = ((s.writeMem (s.addrA r u.next) s.cyc n.a false).writeMem (s.addrB r u.next) s.cyc n.b false).writeMem
      (s.addrJ u.record s.train.commits u.next) s.cyc n.journal false := by
  unfold State.groupWritten
  extract_lets a b
  have ha : HbmServed s a := s.writeMem_served _ _ _ _
  have hb : HbmServed s b := ha.trans (a.writeMem_served _ _ _ _)
  rw [State.addrJ_of_boot hb.boot, hb.train, hb.cyc]
  subst b
  rw [State.addrB_of_boot ha.boot, ha.cyc]

theorem State.saveSnapshot_without (h : s.host.sweep = none) (j g : Nat) (bytes : List Byte) : s.saveSnapshot j g bytes = s := by
  unfold State.saveSnapshot
  rw [h]

theorem State.saveSecuring_without (h : s.ckpt.cur = none) (j k i : Nat) (bytes : List Byte) : s.saveSecuring j k i bytes = s := by
  unfold State.saveSecuring
  rw [h]

/-- Where neither a sweep nor a securing point is under way, no record of the group is saved before it is rewritten. -/
theorem State.writeGroup_effect {u : UpdPass} {r : UpdRecord} (hsweep : s.host.sweep = none) (hcur : s.ckpt.cur = none) (old : List Byte)
    (n : NewGroup) :
    let w := s.writeGroup u r old n
    w.hbm = (s.groupWritten u r n).hbm ∧ w.cyc = s.cyc ∧ w.train.diverged = s.train.diverged := by
  have hs := s.groupWritten_served u r n
  unfold State.writeGroup
  dsimp only
  rw [State.saveSnapshot_without hsweep, State.saveSecuring_without hcur]
  split
  · exact ⟨rfl, hs.cyc, (congrArg Train.diverged hs.train :)⟩
  · exact ⟨rfl, hs.cyc, (congrArg Train.diverged hs.train :)⟩

/-! ### A window that completes -/

/-- A pass v after the window at cycle x of the pass u: that of the same record goes on with the next group 32 cycles later (R323). -/
def UpdPass.after (u : UpdPass) (x : Nat) (v : UpdPass) : UpdPass :=
  if v.record = u.record then { v with next := u.next + 1, at_ := x + 32 } else v

/-- The passes after the window at cycle x of the pass u; one whose groups are all written is over. -/
def State.goOn (s : State) (u : UpdPass) (x : Nat) : State :=
  { s with train := { s.train with passes := (s.train.passes.map (u.after x)).filter fun v => decide (v.next < v.n) } }

theorem UpdPass.after_of_record {u v : UpdPass} {x : Nat} (h : (u.after x v).record = u.record) :
    (u.after x v).next = u.next + 1 ∧ (u.after x v).at_ = x + 32 := by
  unfold UpdPass.after at h ⊢
  split
  · exact ⟨rfl, rfl⟩
  · rw [if_neg ‹_›] at h
    contradiction

theorem State.goOn_passes {u v : UpdPass} {x : Nat} (hv : v ∈ (s.goOn u x).train.passes) (h : v.record = u.record) :
    v.next = u.next + 1 ∧ v.at_ = x + 32 := by
  obtain ⟨hmap, -⟩ := List.mem_filter.mp hv
  obtain ⟨p, -, rfl⟩ := List.mem_map.mp hmap
  exact UpdPass.after_of_record h

variable {j : StackId} {u : UpdPass} {r : UpdRecord} {x : Nat}

/-- What the engine makes of the planes of a group, with the rates of the group's record (R317, R321). -/
def State.newGroup (s : State) (u : UpdPass) (r : UpdRecord) (a b g : List Byte) : NewGroup :=
  updateGroup (ratesAt (s.groupRecord r.pgroup) 16) u.width a b g

section

variable {pa pb pg : State × List Byte × List Bool × Bool}

variable (hc : s.clocked = true) (hn : s.nextPass j.val = some (u, x)) (hr : s.records[u.record]? = some r)
  (ha : (s.at_ (x + 1024)).readMem ((s.at_ (x + 1024)).addrA r u.next) 2112 x = pa)
  (hb : pa.1.readMem (pa.1.addrB r u.next) 10240 x = pb)
  (hg : pb.1.readMem (pb.1.addrG r u.width u.next) (carrierGroupBytes u.width) x = pg)
  (hla : pa.2.2.1.any id = false) (hlb : pb.2.2.1.any id = false) (hlg : pg.2.2.1.any id = false)

include hc hn hr ha hb hg hla hlb hlg

theorem execUpdateWindow_writes : exec (.updateWindow j true) s =
    .next ((pg.1.writeGroup u r (pa.2.1 ++ pb.2.1) (pg.1.newGroup u r pa.2.1 pb.2.1 pg.2.1)).goOn u x).passesDone := by
  subst ha hb hg
  show execUpdateWindow j true s = _
  unfold execUpdateWindow
  rw [hn]
  dsimp only
  rw [if_neg (by simp [hc]), hr]
  exact congrArg Host.Outcome.next (if_neg (by simp [hla, hlb, hlg]))

/-- A window whose datapaths agree: the group is rewritten, and the pass goes on. -/
theorem updateWindow_rewrites (hsweep : s.host.sweep = none) (hcur : s.ckpt.cur = none) :
    ∃ t, exec (.updateWindow j true) s = .next t ∧ x + 1024 ≤ t.cyc ∧
      t.hbm = (pg.1.groupWritten u r (pg.1.newGroup u r pa.2.1 pb.2.1 pg.2.1)).hbm ∧
      (∀ v ∈ t.train.passes, v.record = u.record → v.next = u.next + 1 ∧ v.at_ = x + 32) ∧ t.train.diverged = s.train.diverged := by
  have hread : HbmRead (s.at_ (x + 1024)) pg.1 := by
    subst ha hb hg
    exact ((State.readMem_read _ _ _ _).trans (State.readMem_read _ _ _ _)).trans (State.readMem_read _ _ _ _)
  have hreported : Reported (s.at_ (x + 1024)) pg.1 := by
    subst ha hb hg
    exact ((State.readMem_reported _ _ _ _).trans (State.readMem_reported _ _ _ _)).trans (State.readMem_reported _ _ _ _)
  have hnosweep : pg.1.host.sweep = none := (congrArg HostIf.sweep hread.host).trans hsweep
  have hnopoint : pg.1.ckpt.cur = none := (congrArg Ckpt.cur hreported.ckpt :).trans hcur
  refine ⟨_, execUpdateWindow_writes hc hn hr ha hb hg hla hlb hlg, ?_⟩
  obtain ⟨hhbm, hcyc, hdiverged⟩ := State.writeGroup_effect (u := u) (r := r) hnosweep hnopoint (pa.2.1 ++ pb.2.1)
    (pg.1.newGroup u r pa.2.1 pb.2.1 pg.2.1)
  generalize pg.1.writeGroup u r _ _ = w at hhbm hcyc hdiverged ⊢
  obtain ⟨hdoneHbm, hdone⟩ := Prod.mk.inj (w.goOn u x).passesDone_besidePoint
  obtain ⟨hdoneTrain, hdoneCyc⟩ := Prod.mk.inj hdone
  rw [hdoneHbm, hdoneTrain, hdoneCyc]
  exact ⟨(le_max_right s.cyc _).trans_eq (hcyc.trans hread.cyc).symm, hhbm, fun v hv hrec => State.goOn_passes hv hrec,
    hdiverged.trans (congrArg Train.diverged hread.train)⟩

end

/-! ### Passes that stop -/

theorem State.runResult_withHost (s : State) (k : Nat) : ∃ h, s.runResult k = s.withHost h := by
  unfold State.runResult
  split
  · split
    · exact ⟨_, rfl⟩
    · exact ⟨s.host, rfl⟩
  · exact ⟨s.host, rfl⟩

theorem State.diverge_effect (s : State) :
    s.diverge.train = { s.train with diverged := true } ∧ s.diverge.ckpt = s.ckpt ∧ s.diverge.log = s.log := by
  unfold State.diverge
  split
  next h => exact ⟨by rw [← h], rfl, rfl⟩
  · have hd := ({ s with train := { s.train with diverged := true } } : State).doorbell_shows 7
    exact ⟨(congrArg State.train hd.rest :), (congrArg State.ckpt hd.rest :), hd.log⟩

/-- The passes of a stack stop (R325): none remains, no securing point is due, the event is entered and the module diverges. -/
theorem State.stopPass_effect (s : State) (j : Nat) :
    (s.stopPass j).train.diverged = true ∧ (∀ v ∈ (s.stopPass j).train.passes, v.stack ≠ j) ∧ (s.stopPass j).ckpt.due = none ∧
      (Ev.updAbandoned, srcStack j) ∈ (s.stopPass j).log.held.map fun e => (e.code, e.src) := by
  unfold State.stopPass
  extract_lets _ _ w _ _ _ raised
  clear_value w
  obtain ⟨h, hresult⟩ := ((raised.failureEvent 1).setField A.updLastResult 31 30 3).runResult_withHost 3
  rw [hresult]
  obtain ⟨htrain, hckpt, hlog⟩ := (((raised.failureEvent 1).setField A.updLastResult 31 30 3).withHost h).diverge_effect
  rw [htrain, hckpt, hlog]
  refine ⟨rfl, fun v hv => ?_, rfl, ?_⟩
  · exact of_decide_eq_true (List.mem_filter.mp (show v ∈ w.train.passes.filter _ from hv)).2
  · show _ ∈ List.map _ (w.log.held ++ [_])
    rw [List.map_append]
    exact List.mem_append_right _ (List.mem_singleton.mpr rfl)

/-- Where the datapaths disagree, the pass stops once the group has been read. -/
theorem execUpdateWindow_stops (hc : s.clocked = true) (hn : s.nextPass j.val = some (u, x)) (hr : s.records[u.record]? = some r) :
    ∃ w : State, exec (.updateWindow j false) s = .next (w.stopPass j.val) := by
  show ∃ w : State, execUpdateWindow j false s = .next (w.stopPass j.val)
  unfold execUpdateWindow
  rw [hn]
  dsimp only
  rw [if_neg (by simp [hc]), hr]
  exact ⟨_, rfl⟩

/-! ### Freeze requests -/

theorem execUpdFreezeGo_kept {v : Word} (hs : s.awake = true) (hv : natBit v.toNat 31 = true) (hf : s.train.freeze = none) :
    ∃ t, exec (.updFreezeGo v) s = .next t ∧ t.train = { s.train with freeze := some (natBits v.toNat 11 0, natBit v.toNat 30) } ∧
      natBit (t.reg A.updFreeze) 29 = false ∧ t.hbm = s.hbm ∧ t.log = s.log := by
  have hw := s.writeReg_shows A.updFreeze v.toNat
  have ht : (s.writeReg A.updFreeze v.toNat).train = s.train := (congrArg State.train hw.rest :)
  refine ⟨_, congrArg Host.Outcome.next ((if_neg (by simp [hs])).trans ((if_neg (by simp [hv])).trans (if_neg (by simp [ht, hf])))),
    ?_, ?_, hw.aside.hbm, hw.log⟩
  · exact congrArg (fun w : Train => { w with freeze := some (natBits v.toNat 11 0, natBit v.toNat 30) }) ht
  · exact State.bit_putBit_same _ _ (by decide) false

theorem execUpdFreezeGo_refused {v : Word} (hs : s.awake = true) (hv : natBit v.toNat 31 = true) (hf : s.train.freeze ≠ none) :
    ∃ t, exec (.updFreezeGo v) s = .next t ∧ t.train = s.train ∧ natBit (t.reg A.updFreeze) 29 = true ∧ t.hbm = s.hbm := by
  have hw := s.writeReg_shows A.updFreeze v.toNat
  have ht : (s.writeReg A.updFreeze v.toNat).train = s.train := (congrArg State.train hw.rest :)
  have hpending : (s.writeReg A.updFreeze v.toNat).train.freeze.isSome = true := by
    rw [ht]
    exact Option.isSome_iff_ne_none.mpr hf
  exact ⟨_, congrArg Host.Outcome.next ((if_neg (by simp [hs])).trans ((if_neg (by simp [hv])).trans (if_pos hpending))), ht,
    State.bit_setBit_same _ _ (by decide), hw.aside.hbm⟩

/-! ### Sweeps -/

variable {w : Sweep}

/-- The sweep w at its first frame, over every group of the module's records. -/
def State.sweepBegun (s : State) (w : Sweep) : Sweep :=
  { w with running := true, next := 0, total := s.groupsBefore s.records.length, shadowed := [], startShot := s.shotNo }

theorem execSweepStart_begins (hc : s.clocked = true) (hw : s.host.sweep = some w) (harmed : w.armed = true) (hrun : w.running = false)
    (hp : s.train.passes = []) :
    exec .sweepStart s = .next ((s.withHost { s.host with sweep := some (s.sweepBegun w) }).setReg A.updSnap (2 ^ 31)) := by
  refine congrArg Host.Outcome.next ((if_pos hc).trans ?_)
  unfold State.beginSweep
  rw [hw]
  exact if_pos (by simp [harmed, hrun, hp])

theorem State.sweepGroup_read (s : State) (w : Sweep) (g : Nat) : HbmRead s (s.sweepGroup w g).1 := by
  unfold State.sweepGroup
  split
  · exact .refl s
  · split
    · exact s.readMem_read _ _ _
    · exact (s.readMem_read _ _ _).trans (State.readMem_read _ _ _ _)

/-- An entry that completes with status 0 makes one completion, in its ring (R418). -/
theorem State.complete_success (s : State) (e : Entry) (cause info shot result lat due : Nat) :
    ∃ c : Completion, (s.complete e 0 cause info shot result lat due).host.comps = s.host.comps ++ [c] ∧ c.ring = e.ring ∧
      leAt c.body 0 2 = 0 := ⟨_, rfl, rfl, rfl⟩

/-- A sweep of `size` bytes whose frames reach byte `fin`: it completes its entry when that is all, and else goes on with the next frame. -/
def State.frameSent (s : State) (w : Sweep) (size fin : Nat) : State :=
  if decide (size ≤ fin) = true then
    ((s.setReg A.updSnap (2 ^ 30 + 0xFFFF)).withHost { s.host with sweep := none }).complete w.entry 0 0 w.total w.startShot 0 0 s.cyc
  else (s.setField A.updSnap 15 0 (min 0xFFFF (fin * 65536 / size))).withHost { s.host with sweep := some { w with next := w.next + 1 } }

theorem execSnapshotSend_sends (hc : s.clocked = true) (hw : s.host.sweep = some w) (hrun : w.running = true)
    (hok : (if w.port < 10 then 0 else 1) ∉ s.host.snapBad) :
    let size := 12352 * w.total
    ∃ t : State, t.hbm = s.hbm ∧ t.host = s.host ∧
      exec .snapshotSend s = .next (t.frameSent w size (1792 * w.next + min 1792 (size - 1792 * w.next))) := by
  intro size
  show ∃ t : State, t.hbm = s.hbm ∧ t.host = s.host ∧ execSnapshotSend s = _
  unfold execSnapshotSend
  rw [hw]
  dsimp only
  rw [if_neg (by simp [hrun, hc]), if_neg (by simpa using hok)]
  generalize hacc : List.foldl _ _ _ = acc
  have hread : HbmRead s acc.1 := by
    rw [← hacc]
    exact List.foldlRecOn (motive := fun acc : State × List Byte × List Bool => HbmRead s acc.1) _ _ (.refl s)
      fun acc h k _ => h.trans (acc.1.sweepGroup_read w _)
  generalize hm : State.sendData _ _ _ _ = m
  have hsent : Sent acc.1.fresh.1 m := hm ▸ State.sendData_sent _ _ _ _
  exact ⟨m, hsent.aside.hbm.trans hread.hbm, hsent.host.trans hread.host, rfl⟩

theorem snapshotSend_effect (hc : s.clocked = true) (hw : s.host.sweep = some w) (hrun : w.running = true)
    (hok : (if w.port < 10 then 0 else 1) ∉ s.host.snapBad) :
    let size := 12352 * w.total
    let fin := 1792 * w.next + min 1792 (size - 1792 * w.next)
    ∃ t, exec .snapshotSend s = .next t ∧ t.hbm = s.hbm ∧ (fin < size → t.host.sweep = some { w with next := w.next + 1 }) ∧
      (size ≤ fin →
        t.host.sweep = none ∧ ∃ c, t.host.comps = s.host.comps ++ [c] ∧ c.ring = w.entry.ring ∧ leAt c.body 0 2 = 0) := by
  intro size fin
  obtain ⟨t, hhbm, hhost, hexec⟩ := execSnapshotSend_sends hc hw hrun hok
  refine ⟨_, hexec, ?_⟩
  unfold State.frameSent
  rcases lt_or_ge fin size with hlt | hge
  · rw [if_neg (by simpa using hlt)]
    exact ⟨hhbm, fun _ => rfl, fun h => absurd hlt (not_lt.mpr h)⟩
  · rw [if_pos (by simpa using hge)]
    have hcomps : t.host.comps = s.host.comps := congrArg HostIf.comps hhost
    obtain ⟨c, hmade, hring, hstatus⟩ := State.complete_success
      ((t.setReg A.updSnap (2 ^ 30 + 0xFFFF)).withHost { t.host with sweep := none }) w.entry 0 w.total w.startShot 0 0 t.cyc
    exact ⟨hhbm, fun h => absurd h (not_lt.mpr hge), fun _ => ⟨rfl, c, hmade.trans (congrArg (· ++ [c]) hcomps), hring, hstatus⟩⟩

/-! ### The statement -/

/-- Settles O26: a window whose two datapaths agree and one where they disagree, the two answers to a freeze request, the start of a sweep
and its frames. -/
theorem updateWindows : Obligations.UpdateWindows := by
  refine ⟨fun s j u x r hc hn hr => ⟨fun hla hlb hlg hsweep hcur => ?agree, ?disagree⟩,
    fun s => ⟨fun v hs hv => ⟨execUpdFreezeGo_kept hs hv, execUpdFreezeGo_refused hs hv⟩,
      fun w hc hw => ⟨fun harmed hrun hp => ?start, snapshotSend_effect hc hw⟩⟩⟩
  case agree =>
    obtain ⟨t, hexec, hcyc, hhbm, hrest⟩ := updateWindow_rewrites hc hn hr rfl rfl rfl hla hlb hlg hsweep hcur
    exact ⟨t, hexec, hcyc, hhbm.trans (congrArg State.hbm (State.groupWritten_places _ u r _)), hrest⟩
  case disagree =>
    obtain ⟨w, hexec⟩ := execUpdateWindow_stops hc hn hr
    exact ⟨_, hexec, w.stopPass_effect _⟩
  case start =>
    exact ⟨_, s.sweepBegun w, execSweepStart_begins hc hw harmed hrun hp, rfl, rfl, rfl, rfl, rfl,
      (State.reg_setReg _ _ _).trans (if_pos rfl), rfl⟩

end Sys2Proof.Machine
end

/-!
# Securing points

What a point in progress does at a destination (R347, R349, R351). Its segments are read and written out, which of what is stored and of
securing leaves all but the failures counted and the destinations' rings. Then the point is durable there, or is abandoned for an unreadable
slot, or the destination fails; and the point ends with its last open destination.
-/
section
namespace Sys2Proof.Machine

open Sys2Proof.Safety

variable {s t : State} {p : Point} {c : CkptPolicy} {e : Dest} {d : Nat}

/-! ### What shipping a point leaves alone -/

/-- HBM, the stalls, the image, and securing but for its failures counted and its rings: what the shipping of a point leaves alone. -/
def State.besideShipping (s : State) : Memory × Sparse Stall × Boot × Ckpt :=
  (s.hbm, s.stalls, s.boot, { s.ckpt with fails := [], rings := [] })

theorem State.eq_of_besideShipping (h : t.besideShipping = s.besideShipping) :
    t.hbm = s.hbm ∧ t.stalls = s.stalls ∧ t.boot = s.boot ∧ t.ckpt.done = s.ckpt.done ∧ t.ckpt.costs = s.ckpt.costs :=
  ⟨congrArg (·.1) h, congrArg (·.2.1) h, congrArg (·.2.2.1) h, congrArg (·.2.2.2.done) h, congrArg (·.2.2.2.costs) h⟩

theorem Sent.besideShipping (h : Sent s t) : t.besideShipping = s.besideShipping := (congrArg State.besideShipping h.rest :)

theorem State.readStack_besideShipping (s : State) (j a n x : Nat) : (s.readStack j a n x).1.besideShipping = s.besideShipping := by
  have hread : HbmRead s (s.readStack j a n x).1 := s.readStack_read _ _ _ _
  have hckpt : { (s.readStack j a n x).1.ckpt with fails := s.ckpt.fails } = s.ckpt := (s.readUnits_reported _ _ _ _).ckpt
  unfold State.besideShipping
  rw [hread.hbm, hread.stalls, hread.boot]
  exact congrArg (fun k : Ckpt => (s.hbm, s.stalls, s.boot, { k with fails := [], rings := [] })) hckpt

section

variable {β : Type} (g : State → β) (hread : ∀ s j a n x, g (State.readStack s j a n x).1 = g s)
  (hfresh : ∀ s, g (State.fresh s).1 = g s)

include hread

theorem State.readMem_same (s : State) (a n x : Nat) : g (s.readMem a n x).1 = g s := by
  unfold State.readMem
  refine foldl_same (fun acc : State × List Byte × List Bool × Bool => g acc.1) _ _ fun acc q => ?_
  obtain ⟨t, bs, ls, un⟩ := acc
  dsimp only
  split
  · exact hread _ _ _ _ _
  · rfl

include hfresh

theorem State.readFree_same (s : State) (a n x : Nat) : g (s.readFree a n x).1 = g s := by
  have hmarked : g (s.readMarked a n x).1 = g s := by
    unfold State.readMarked
    refine foldl_same (fun acc : State × List Byte × List Bool => g acc.1) _ _ fun acc q => ?_
    obtain ⟨t, bs, ls⟩ := acc
    dsimp only
    split
    · exact hread _ _ _ _ _
    · rfl
  exact (hfresh _).trans hmarked

theorem State.copyGroup_same (s : State) (p : Point) (k i : Nat) (r : UpdRecord) : g (s.copyGroup p k i r).1 = g s := by
  unfold State.copyGroup
  split
  · exact s.readFree_same g hread hfresh _ _ _
  · let t := (s.readFree (s.addrA r i) 2112 s.cyc).1
    exact (t.readFree_same g hread hfresh (t.addrB r i) 10240 t.cyc).trans (s.readFree_same g hread hfresh _ _ _)

/-- What a read of a stack and a fresh free value leave, the reading of a segment leaves. -/
theorem State.readSeg_same (s : State) (p : Point) (q : Seg) (n : Nat) : g (s.readSeg p q n).1 = g s := by
  have hfold : ∀ f : State × List Byte × Bool → Nat → State × List Byte × Bool,
      (∀ acc i, g (f acc i).1 = g acc.1) → g ((List.range n).foldl f (s, [], false)).1 = g s :=
    fun f hf => foldl_same (fun acc : State × List Byte × Bool => g acc.1) _ _ hf
  unfold State.readSeg
  extract_lets r
  split
  · exact hfold _ fun acc i => acc.1.copyGroup_same g hread hfresh p q.record i r
  · exact hfold _ fun acc i => acc.1.copyGroup_same g hread hfresh p q.record i r
  · exact hfold _ fun acc i => acc.1.readMem_same g hread _ _ _
  · exact s.readMem_same g hread _ _ _

end

theorem State.shipment_besideShipping (s : State) (p : Point) : (s.shipment p).1.besideShipping = s.besideShipping :=
  foldl_same (fun acc : State × List (List Byte) × Bool => acc.1.besideShipping) _ _ fun acc q =>
    acc.1.readSeg_same State.besideShipping State.readStack_besideShipping (fun _ => rfl) p q _

theorem State.sendMessage_besideShipping (s : State) (f : Frame) : (s.sendMessage f).besideShipping = s.besideShipping := by
  unfold State.sendMessage
  extract_lets _ t
  split
  · exact (t.sendData_sent _ _ _).besideShipping
  · rfl

theorem State.writeDest_besideShipping (s : State) (e : Dest) (off : Nat) (bs : List Byte) :
    (s.writeDest e off bs).besideShipping = s.besideShipping := by
  unfold State.writeDest
  split
  · rfl
  · split
    · exact foldl_same State.besideShipping _ s fun t k => t.sendMessage_besideShipping _
    · rfl

theorem State.shipTo_besideShipping (s : State) (p : Point) (e : Dest) (d : Nat) (offs : List Nat) (data : List (List Byte)) :
    (s.shipTo p e d offs data).besideShipping = s.besideShipping := by
  unfold State.shipTo
  extract_lets _ man at_ segs all last _ ring
  have hsegs : segs.besideShipping = s.besideShipping := foldl_same State.besideShipping _ s fun t q => t.writeDest_besideShipping e _ _
  have hall : all.besideShipping = s.besideShipping := (segs.writeDest_besideShipping e _ _).trans hsegs
  have hlast : last.besideShipping = all.besideShipping := by
    subst last
    split <;> rfl
  exact hlast.trans hall

/-! ### The end of a point -/

/-- `t` is `s`, or its point in progress is over. -/
structure Settled (s t : State) : Prop where
  rest : { t with ckpt := s.ckpt } = s
  ckpt : { t.ckpt with cur := s.ckpt.cur, retry := s.ckpt.retry } = s.ckpt
  cur : t.ckpt.cur = s.ckpt.cur ∨ t.ckpt.cur = none

namespace Settled

theorem regs (h : Settled s t) : t.regs = s.regs := (congrArg State.regs h.rest :)
theorem hbm (h : Settled s t) : t.hbm = s.hbm := (congrArg State.hbm h.rest :)
theorem stalls (h : Settled s t) : t.stalls = s.stalls := (congrArg State.stalls h.rest :)
theorem log (h : Settled s t) : t.log = s.log := (congrArg State.log h.rest :)
theorem done (h : Settled s t) : t.ckpt.done = s.ckpt.done := (congrArg Ckpt.done h.ckpt :)
theorem costs (h : Settled s t) : t.ckpt.costs = s.ckpt.costs := (congrArg Ckpt.costs h.ckpt :)

/-- A point that is still in progress is the one that was. -/
theorem eq_of_cur {q : Point} (h : Settled s t) (hp : s.ckpt.cur = some p) (hq : t.ckpt.cur = some q) : q = p := by
  rcases h.cur with hsame | hover
  · exact Option.some.inj (hq.symm.trans (hsame.trans hp))
  · exact absurd (hover.symm.trans hq) nofun

end Settled

theorem State.settlePoint_settled (s : State) : Settled s s.settlePoint := by
  unfold State.settlePoint
  split
  · split
    · exact ⟨rfl, rfl, .inr rfl⟩
    · exact ⟨rfl, rfl, .inl rfl⟩
  · exact ⟨rfl, rfl, .inl rfl⟩

/-- A point with an active destination that has neither completed nor failed stays in progress (R351). -/
theorem State.settlePoint_open {r : Nat} (hp : s.ckpt.cur = some p) (hc : s.policy = some c) (hr : r ∈ c.active) (hd : r ∉ p.durableAt)
    (hf : r ∉ p.failedAt) : s.settlePoint = s := by
  have hopen : (c.active.all fun d => p.durableAt.contains d || p.failedAt.contains d) = false :=
    List.all_eq_false.mpr ⟨r, hr, by simp [hd, hf]⟩
  unfold State.settlePoint
  rw [hp, hc]
  exact if_neg (Bool.eq_false_iff.mp hopen)

/-! ### Durable, abandoned, failed -/

theorem State.pointRegs_shows (s : State) : Shows s s.pointRegs := by
  have hwide : ∀ (w : State) (lo hi v : Nat), Shows w (w.setWide lo hi v) := fun w _ _ _ => ⟨rfl, rfl⟩
  unfold State.pointRegs
  extract_lets t
  have ht : Shows s t := by
    subst t
    split
    · exact hwide _ _ _ _
    · exact .refl s
  clear_value t
  split
  · exact ht.trans (hwide _ _ _ _)
  · exact ht

/-- A point that becomes durable is the latest durable point, and stays in progress; HBM, the stalls and the image are left alone (R339). -/
theorem State.durable_latest (s : State) (p : Point) :
    ∃ q : Point, (s.durable p).ckpt.cur = some q ∧ (s.durable p).ckpt.done.head? = some q ∧ q.step = p.step ∧
      q.durableAt = p.durableAt ∧ q.failedAt = p.failedAt ∧ (s.durable p).hbm = s.hbm ∧ (s.durable p).stalls = s.stalls ∧
      (s.durable p).boot = s.boot := by
  unfold State.durable
  extract_lets _ _ q _ _ _ w
  have hshows : Shows w (w.pointRegs.doorbell 3) := w.pointRegs_shows.trans (State.doorbell_shows _ 3)
  have hckpt : (w.pointRegs.doorbell 3).ckpt = w.ckpt := (congrArg State.ckpt hshows.rest :)
  exact ⟨q, congrArg Ckpt.cur hckpt, congrArg (fun k : Ckpt => k.done.head?) hckpt, rfl, rfl, rfl, hshows.aside.hbm, hshows.aside.stalls,
    (congrArg State.boot hshows.rest :)⟩

/-- The point p, durable at destination d too, in progress. -/
def State.withDest (s : State) (p : Point) (d : Nat) : State :=
  { s with ckpt := { s.ckpt with cur := some { p with durableAt := p.durableAt ++ [d] } } }

theorem State.durableAt_first (s : State) (d : Nat) (hfirst : p.durableAt = []) :
    s.durableAt p d = ((s.withDest p d).durable { p with durableAt := p.durableAt ++ [d] }).settlePoint :=
  congrArg State.settlePoint (if_pos (List.isEmpty_iff.mpr hfirst))

theorem State.durableAt_again (s : State) (d : Nat) (hagain : p.durableAt ≠ []) : s.durableAt p d = (s.withDest p d).settlePoint :=
  congrArg State.settlePoint (if_neg (by simpa using hagain))

theorem State.abandonPoint_effect (s : State) :
    s.abandonPoint.ckpt.cur = none ∧ s.abandonPoint.ckpt.done = s.ckpt.done ∧ natBit (s.abandonPoint.reg A.ckpErr) 30 = true ∧
      s.abandonPoint.hbm = s.hbm :=
  ⟨rfl, rfl, State.bit_setBit_same _ _ (by decide), rfl⟩

/-- The point p is in progress under the policy c, and has neither completed nor failed at the active destination d. -/
structure State.PointOpen (s : State) (p : Point) (c : CkptPolicy) (d : Nat) : Prop where
  cur : s.ckpt.cur = some p
  policy : s.policy = some c
  awake : s.awake = true
  active : d ∈ c.active
  notDurable : d ∉ p.durableAt
  notFailed : d ∉ p.failedAt

/-- The failure of destination d shown: its event, and the error register, which names the first failure (R351). -/
def State.failureShown (s : State) (d cause : Nat) : State :=
  let s := s.groomEvent Ev.ckpDestFail (leBytes 1 d ++ leBytes 1 cause ++ zeroBytes 6)
  let s := if s.bit A.ckpErr 31 then s else s.setField A.ckpErr 5 0 (d * 16 + cause)
  s.setBit A.ckpErr 31

theorem State.failureShown_effect (s : State) (d cause : Nat) :
    (s.failureShown d cause).ckpt = s.ckpt ∧ natBit ((s.failureShown d cause).reg A.ckpErr) 31 = true ∧
      Logged s (s.failureShown d cause) [(Ev.ckpDestFail, s.srcGroom)] := by
  unfold State.failureShown
  extract_lets v w
  have hw : w.ckpt = s.ckpt ∧ w.log = v.log := by
    subst w
    split <;> exact ⟨rfl, rfl⟩
  obtain ⟨hckpt, hlog⟩ := hw
  refine ⟨hckpt, w.bit_setBit_same _ (by decide), ?_⟩
  show w.log.held.map _ = _
  rw [hlog]
  exact List.map_append

/-- A destination that fails is recorded, and the point ends if it was the last one open (R351). -/
theorem State.PointOpen.destFail_eq (h : s.PointOpen p c d) (cause : Nat) :
    s.destFail d cause = ({ s.failureShown d cause with
      ckpt := { (s.failureShown d cause).ckpt with cur := some { p with failedAt := p.failedAt ++ [d] } } } : State).settlePoint := by
  unfold State.destFail
  rw [h.cur, h.policy]
  exact if_neg (by simp [h.active, h.notDurable, h.notFailed])

/-! ### The commands -/

section

variable {d : Fin 4} (h : s.PointOpen p c d.val) (he : c.dests[d.val]? = some e) (hship : s.canShip p e d.val = true)

include h he hship

theorem execPointDurable_abandons (hbad : (s.shipment p).2.2 = true) : exec (.pointDurable d) s = .next (s.shipment p).1.abandonPoint := by
  show execPointDurable d s = _
  unfold execPointDurable
  rw [h.cur, h.policy]
  dsimp only
  rw [if_neg (by simp [h.awake, h.active, h.notDurable, h.notFailed]), he]
  dsimp only
  rw [if_neg (by simp [hship]), if_pos hbad]

theorem execPointDurable_ships (hgood : (s.shipment p).2.2 = false) :
    ∃ w : State, w.besideShipping = s.besideShipping ∧ exec (.pointDurable d) s = .next (w.durableAt p d.val) := by
  show ∃ w : State, w.besideShipping = s.besideShipping ∧ execPointDurable d s = .next (w.durableAt p d.val)
  unfold execPointDurable
  rw [h.cur, h.policy]
  dsimp only
  rw [if_neg (by simp [h.awake, h.active, h.notDurable, h.notFailed]), he]
  dsimp only
  rw [if_neg (by simp [hship]), if_neg (by simp [hgood])]
  exact ⟨_, (State.shipTo_besideShipping _ _ _ _ _ _).trans (s.shipment_besideShipping p), rfl⟩

end

theorem execDestTimeout_fails {d : Fin 4} (h : s.PointOpen p c d.val) :
    ∃ x, exec (.destTimeout d) s = .next ((s.at_ x).destFail d.val 4) := by
  show ∃ x, execDestTimeout d s = _
  unfold execDestTimeout
  rw [h.cur]
  exact ⟨_, congrArg Host.Outcome.next (if_pos h.awake)⟩

/-! ### The statement -/

/-- Settles O27: what an unreadable slot, the first and a later manifest, and a timeout make of a point at an open destination. -/
theorem securingPoints : Obligations.SecuringPoints := by
  intro s p c d hp hc hs ha hd hf
  have hopen : s.PointOpen p c d.val := ⟨hp, hc, hs, ha, hd, hf⟩
  refine ⟨fun e he hship hbad => ?abandoned, fun e he hship hgood => ⟨fun hfirst => ?first, fun hagain => ?again⟩, ?timeout⟩
  case abandoned =>
    obtain ⟨hhbm, -, -, hpoints, -⟩ := State.eq_of_besideShipping (s.shipment_besideShipping p)
    obtain ⟨hcur, hdone, hflag, hstored⟩ := (s.shipment p).1.abandonPoint_effect
    exact ⟨_, execPointDurable_abandons hopen he hship hbad, hcur, hdone.trans hpoints, hflag, hstored.trans hhbm⟩
  case first =>
    obtain ⟨w, hw, hexec⟩ := execPointDurable_ships hopen he hship hgood
    obtain ⟨hhbm, hstalls, hboot, -, -⟩ := State.eq_of_besideShipping hw
    obtain ⟨q, hcur, hhead, hstep, hdurable, hfailed, hdhbm, hdstalls, hdboot⟩ :=
      (w.withDest p d.val).durable_latest { p with durableAt := p.durableAt ++ [d.val] }
    have hat : q.durableAt = [d.val] := hdurable.trans (congrArg (· ++ [d.val]) hfirst)
    have hset := ((w.withDest p d.val).durable { p with durableAt := p.durableAt ++ [d.val] }).settlePoint_settled
    rw [hexec, w.durableAt_first d.val hfirst]
    refine ⟨_, q, rfl, (congrArg List.head? hset.done).trans hhead, hstep, hat, fun r hr hrd hrf => ?_,
      hset.hbm.trans (hdhbm.trans hhbm), hset.stalls.trans (hdstalls.trans hstalls)⟩
    have hpolicy : ((w.withDest p d.val).durable { p with durableAt := p.durableAt ++ [d.val] }).policy = some c :=
      (congrArg (fun b : Boot => b.image.bind (·.ckpt)) (hdboot.trans hboot)).trans hc
    rw [State.settlePoint_open hcur hpolicy hr (by simpa [hat] using hrd) (by rwa [hfailed]), hcur]
    exact Option.some_ne_none q
  case again =>
    obtain ⟨w, hw, hexec⟩ := execPointDurable_ships hopen he hship hgood
    obtain ⟨-, -, -, hdone, hcosts⟩ := State.eq_of_besideShipping hw
    rw [hexec, w.durableAt_again d.val hagain]
    have hset := (w.withDest p d.val).settlePoint_settled
    exact ⟨_, rfl, hset.done.trans hdone, hset.costs.trans hcosts, fun q => hset.eq_of_cur rfl⟩
  case timeout =>
    obtain ⟨x, hexec⟩ := execDestTimeout_fails hopen
    have hlate : (s.at_ x).PointOpen p c d.val := ⟨hp, hc, hs, ha, hd, hf⟩
    obtain ⟨hckpt, hflag, hlog⟩ := (s.at_ x).failureShown_effect d.val 4
    rw [hexec, hlate.destFail_eq 4]
    generalize (s.at_ x).failureShown d.val 4 = u at hckpt hflag hlog ⊢
    have hdone : u.ckpt.done = s.ckpt.done := congrArg Ckpt.done hckpt
    have hset := State.settlePoint_settled { u with ckpt := { u.ckpt with cur := some { p with failedAt := p.failedAt ++ [d.val] } } }
    refine ⟨_, rfl, ?_, hset.done.trans hdone, fun q => hset.eq_of_cur rfl, ?_⟩
    · exact (State.bit_of_reg 31 (congrArg (RegBank.get · A.ckpErr) hset.regs)).trans hflag
    · rw [hset.log]
      exact hlog

end Sys2Proof.Machine
end

/-!
# Failure reports and restores

The host's failure report; a request for a restore that is granted or refused, with its cause; a restore that completes or stops (R338, R353
to R357). A request writes the control register alone before it is judged, and what it is judged by stands elsewhere. A restore writes HBM
and the format tables and leaves training as it was, until its end says otherwise.
-/
section
namespace Sys2Proof.Machine

open Sys2Proof.Safety

variable {s : State} {v : Word} {src : RestoreSource} {r : Restore}

theorem execCkpFailReport_counts (v : Word) (hs : s.awake = true) :
    exec (.ckpFailReport v) s = .next (s.failureEvent (natBits v.toNat 7 0)) := congrArg Host.Outcome.next (if_pos hs)

/-! ### The control register at a restore's end -/

theorem State.restoreEnd_reg_ne (s : State) (ok : Bool) (cause : Nat) {a : Nat} (h : a ≠ A.ckpRestoreCtrl) :
    (s.restoreEnd ok cause).reg a = s.reg a := by
  unfold State.restoreEnd
  rw [State.reg_setField, if_neg h, State.reg_setField, if_neg h, State.reg_setField, if_neg h]

/-- A restore that has ended shows its cause, and whether it is done or has failed. -/
theorem State.restoreEnd_shows (s : State) (ok : Bool) {cause : Nat} (hcause : cause < 16) :
    (s.restoreEnd ok cause).field A.ckpRestoreCtrl 27 24 = cause ∧ (s.restoreEnd ok cause).bit A.ckpRestoreCtrl 28 = !ok ∧
      (s.restoreEnd ok cause).bit A.ckpRestoreCtrl 29 = ok := by
  refine ⟨(State.field_setField_same _ _ _ (by decide) (by decide)).trans (Nat.mod_eq_of_lt hcause), ?_, ?_⟩
  · unfold State.restoreEnd
    rw [State.bit_setField _ _ _ (by decide) (by decide), if_neg (by decide), State.bit_setField _ _ _ (by decide) (by decide),
      if_pos (by decide)]
    cases ok <;> rfl
  · unfold State.restoreEnd
    rw [State.bit_setField _ _ _ (by decide) (by decide), if_neg (by decide), State.bit_setField _ _ _ (by decide) (by decide),
      if_neg (by decide), State.bit_setField _ _ _ (by decide) (by decide), if_pos (by decide)]
    cases ok <;> rfl

theorem State.reg_doorbell_ne (s : State) (i : Nat) {a : Nat} (h : a ≠ A.mbxHdb) : (s.doorbell i).reg a = s.reg a :=
  (congrArg (RegBank.get · a) (s.doorbell_regs i)).trans ((State.reg_setBit _ _ _ _).trans (if_neg h))

/-- The doorbell bit of a restore's end leaves the control register, securing and training as the end has left them (R425 bit 4). -/
theorem State.restoreEnd_doorbell (s : State) (ok : Bool) {cause : Nat} (hcause : cause < 16) :
    let t := (s.restoreEnd ok cause).doorbell 4
    t.ckpt = s.ckpt ∧ t.train = s.train ∧ t.field A.ckpRestoreCtrl 27 24 = cause ∧ t.bit A.ckpRestoreCtrl 28 = !ok ∧
      t.bit A.ckpRestoreCtrl 29 = ok := by
  have hrest := ((s.restoreEnd ok cause).doorbell_shows 4).rest
  have hreg := (s.restoreEnd ok cause).reg_doorbell_ne 4 (a := A.ckpRestoreCtrl) (by decide)
  obtain ⟨hshown, hfailed, hdone⟩ := s.restoreEnd_shows ok hcause
  exact ⟨(congrArg State.ckpt hrest :), (congrArg State.train hrest :), (State.field_of_reg 27 24 hreg).trans hshown,
    (State.bit_of_reg 28 hreg).trans hfailed, (State.bit_of_reg 29 hreg).trans hdone⟩

/-! ### Requests for a restore -/

/-- What a request is judged by does not change with the write of the control register (R353). -/
theorem State.writeCtrl_same (s : State) (v : Nat) :
    (s.writeReg A.ckpRestoreCtrl v).wide A.ckpRestoreLo A.ckpRestoreHi = s.wide A.ckpRestoreLo A.ckpRestoreHi ∧
      (s.writeReg A.ckpRestoreCtrl v).confDigest = s.confDigest ∧ (s.writeReg A.ckpRestoreCtrl v).position = s.position ∧
      (s.writeReg A.ckpRestoreCtrl v).busyRun = s.busyRun ∧ (s.writeReg A.ckpRestoreCtrl v).boot = s.boot ∧
      (s.writeReg A.ckpRestoreCtrl v).ckpt = s.ckpt := by
  have hreg : ∀ a ≠ A.ckpRestoreCtrl, (s.writeReg A.ckpRestoreCtrl v).reg a = s.reg a := fun a h => s.reg_writeReg_ne v h
  have hw := s.writeReg_shows A.ckpRestoreCtrl v
  have hboot : (s.writeReg A.ckpRestoreCtrl v).boot = s.boot := (congrArg State.boot hw.rest :)
  have hcase : (s.writeReg A.ckpRestoreCtrl v).caseNow = s.caseNow := State.field_of_reg 7 4 (hreg A.fabSubst (by decide))
  have hfabric : (s.writeReg A.ckpRestoreCtrl v).fabric = s.fabric := by unfold State.fabric; rw [hboot]
  have hshot : (s.writeReg A.ckpRestoreCtrl v).shot = s.shot := (congrArg State.shot hw.rest :)
  have haudit : (s.writeReg A.ckpRestoreCtrl v).bit A.glbAudit 0 = s.bit A.glbAudit 0 := State.bit_of_reg 0 (hreg A.glbAudit (by decide))
  refine ⟨?_, ?_, ?_, ?_, hboot, (congrArg State.ckpt hw.rest :)⟩
  · unfold State.wide
    rw [hreg _ (by decide), hreg _ (by decide)]
  · unfold State.confDigest
    congr 1
    refine List.map_congr_left fun n hn => ?_
    have hlt : n < 8 := List.mem_range.mp hn
    rw [hreg _ (by unfold A.cfgConfDigest A.ckpRestoreCtrl; omega)]
  · unfold State.position
    rw [hcase, hfabric]
  · unfold State.busyRun State.running
    rw [hshot, haudit, s.writeReg_host]

theorem State.restoreSource_effect (s : State) {k : Nat} (hk : k < 16) :
    (s.restoreSource k).ckpt = s.ckpt ∧ natBits ((s.restoreSource k).reg A.ckpRestoreCtrl) 27 24 = k ∧
      natBit ((s.restoreSource k).reg A.ckpRestoreCtrl) 28 = true ∧ natBit ((s.restoreSource k).reg A.ckpErr) 28 = true ∧
      (s.restoreSource k).hbm = s.hbm := by
  let t := (s.groomEvent Ev.ckpSource []).setBit A.ckpErr 28
  obtain ⟨hcause, hfailed, -⟩ := t.restoreEnd_shows false hk
  have hflag : t.bit A.ckpErr 28 = true := State.bit_setBit_same _ _ (by decide)
  exact ⟨rfl, hcause, hfailed, (State.bit_of_reg 28 (t.restoreEnd_reg_ne false k (by decide))).trans hflag, rfl⟩

/-- A restore that starts: it is in progress, and a point in progress or due is dropped (R353). -/
def State.restoreBegun (s : State) (r : Restore) : State :=
  { s with ckpt := { s.ckpt with restore := some r, cur := none, due := none, owed := false } }

/-- A request at a source cannot be granted, for cause k (R353). -/
def State.RestoreRefused (s : State) (src : RestoreSource) (k : Nat) : Prop :=
  (s.boot.image = none ∨ s.busyRun = true) ∧ k = 6 ∨
    s.boot.image.isSome = true ∧ s.busyRun = false ∧ (pointOf src (s.wide A.ckpRestoreLo A.ckpRestoreHi) = none ∧ k = 1 ∨
      ∃ p, pointOf src (s.wide A.ckpRestoreLo A.ckpRestoreHi) = some p ∧
        (stDigest p ≠ s.confDigest ∧ k = 2 ∨ stDigest p = s.confDigest ∧ stPosition p ≠ s.position ∧ k = 3))

theorem State.RestoreRefused.lt {k : Nat} (h : s.RestoreRefused src k) : k < 16 := by
  unfold State.RestoreRefused at h
  obtain ⟨-, rfl⟩ | ⟨-, -, ⟨-, rfl⟩ | ⟨p, -, ⟨-, rfl⟩ | ⟨-, -, rfl⟩⟩⟩ := h <;> decide

section

variable (hs : s.awake = true) (hv : natBit v.toNat 31 = true) (hr : s.ckpt.restore = none)

include hs hv hr

theorem execCkpRestoreGo_starts {p : StoredPoint} (himage : s.boot.image.isSome = true) (hidle : s.busyRun = false)
    (hp : pointOf src (s.wide A.ckpRestoreLo A.ckpRestoreHi) = some p) (hdigest : stDigest p = s.confDigest)
    (hposition : stPosition p = s.position) :
    exec (.ckpRestoreGo v src) s =
      .next (((((s.writeReg A.ckpRestoreCtrl v.toNat).restoreBegun
        ⟨s.wide A.ckpRestoreLo A.ckpRestoreHi, natBits v.toNat 1 0⟩).failureEvent 1).setField A.ckpRestoreCtrl 29 24 0).setField
          A.ckpRestoreCtrl 30 30 1) := by
  obtain ⟨hwstep, hwdigest, hwposition, hwbusy, hwboot, hwckpt⟩ := s.writeCtrl_same v.toNat
  show execCkpRestoreGo v src s = _
  unfold execCkpRestoreGo
  rw [if_neg (by simp [hs])]
  extract_lets w step
  rw [if_neg (by simp [hv, w, hwckpt, hr]), if_neg (by simp [w, hwboot, hwbusy, hidle, ← Option.isSome_iff_ne_none, himage])]
  have hstep : step = s.wide A.ckpRestoreLo A.ckpRestoreHi := hwstep
  rw [hstep, hp]
  dsimp only
  rw [if_neg (by simp [w, hwdigest, hdigest]), if_neg (by simp [w, hwposition, hposition]), ← hwstep]
  rfl

theorem execCkpRestoreGo_refused {k : Nat} (h : s.RestoreRefused src k) :
    exec (.ckpRestoreGo v src) s = .next ((s.writeReg A.ckpRestoreCtrl v.toNat).restoreSource k) := by
  obtain ⟨hwstep, hwdigest, hwposition, hwbusy, hwboot, hwckpt⟩ := s.writeCtrl_same v.toNat
  show execCkpRestoreGo v src s = _
  unfold execCkpRestoreGo
  rw [if_neg (by simp [hs])]
  extract_lets w step
  have hstep : step = s.wide A.ckpRestoreLo A.ckpRestoreHi := hwstep
  rw [if_neg (by simp [hv, w, hwckpt, hr]), hstep]
  unfold State.RestoreRefused at h
  obtain ⟨hbusy, rfl⟩ | ⟨himage, hidle, h⟩ := h
  · rw [if_pos (by simpa [w, hwboot, hwbusy] using hbusy)]
  · rw [if_neg (by simp [w, hwboot, hwbusy, hidle, ← Option.isSome_iff_ne_none, himage])]
    obtain ⟨hnone, rfl⟩ | ⟨p, hp, h⟩ := h
    · rw [hnone]
    · rw [hp]
      dsimp only
      obtain ⟨hdigest, rfl⟩ | ⟨hdigest, hposition, rfl⟩ := h
      · rw [if_pos (by rwa [hwdigest])]
      · rw [if_neg (by simp [w, hwdigest, hdigest]), if_pos (by rwa [hwposition])]

end

/-! ### What a restore writes -/

section

variable {β : Type} (g : State → β) (hwrite : ∀ s a x bs sched, g (State.writeMem s a x bs sched) = g s)

include hwrite

theorem State.putGroup_same (s : State) (i : Nat) (a b : List Byte) : g (s.putGroup i a b) = g s := by
  unfold State.putGroup
  split
  · exact (hwrite _ _ _ _ _).trans (hwrite _ _ _ _ _)
  · rfl

theorem State.replayRecord_same (s : State) (k : Nat) (table journal : List Byte) : g (s.replayRecord k table journal) = g s := by
  unfold State.replayRecord
  split
  · rfl
  · split
    · rfl
    · refine foldl_same g _ s fun t i => ?_
      dsimp only
      split
      · exact t.putGroup_same g hwrite _ _ _
      · rfl

theorem State.putMoments_same (s : State) (k : Nat) (moments : List Byte) : g (s.putMoments k moments) = g s := by
  unfold State.putMoments
  refine foldl_same g _ s fun t i => ?_
  dsimp only
  split
  · exact t.putGroup_same g hwrite _ _ _
  · rfl

/-- What a write of module memory leaves, the rebuilding of a record leaves. -/
theorem State.rebuild_same (s : State) (src : RestoreSource) (step k : Nat) : g (s.rebuild src step k) = g s := by
  unfold State.rebuild
  split
  · rfl
  · extract_lets planes replayed
    have hplanes : g planes = g s := foldl_same g _ s fun t i => t.putGroup_same g hwrite _ _ _
    have hreplayed : g replayed = g s := by
      refine (foldl_same g _ planes fun t n => ?_).trans hplanes
      split
      · exact t.replayRecord_same g hwrite _ _ _
      · rfl
    split
    · exact (replayed.putMoments_same g hwrite _ _).trans hreplayed
    · exact hreplayed

end

theorem StallsOnly.train {t : State} (h : StallsOnly s t) : t.train = s.train := (congrArg State.train h.rest :)

theorem State.restoreState_train (s : State) (src : RestoreSource) (step : Nat) : (s.restoreState src step).train = s.train := by
  unfold State.restoreState
  extract_lets t u
  have ht : t.train = s.train := by
    subst t
    split
    · exact (State.writeMem_served _ _ _ _ _).train
    · rfl
  have hu : u.train = t.train := by
    subst u
    split
    · exact (t.onGood_only _ _).train
    · rfl
  exact (foldl_same State.train _ u fun w k => w.rebuild_same State.train (fun w a x bs sched => (w.writeMem_served a x bs sched).train) src
    step k).trans (hu.trans ht)

/-! ### The end of a restore -/

/-- The restored step is the latest point, and the module is diverged no longer (R357). -/
theorem State.latestPoint_effect (s : State) (step : Nat) (src : RestoreSource) :
    (s.latestPoint step src).ckpt.restore = none ∧ (s.latestPoint step src).train.diverged = false ∧
      ∃ p, (s.latestPoint step src).ckpt.done.head? = some p ∧ p.step = step := by
  unfold State.latestPoint
  extract_lets kept _ p
  have hstep : p.step = step := by
    subst p
    split
    next q hq =>
      have hfound : q.step = step := by simpa using List.find?_some hq
      exact hfound
    · rfl
  let w : State := { s with
    train := { s.train with diverged := false, commits := 0 }
    ckpt := { s.ckpt with restore := none, done := p :: kept, chains := p.chains } }
  have hckpt : w.pointRegs.ckpt = w.ckpt := (congrArg State.ckpt w.pointRegs_shows.rest :)
  have htrain : w.pointRegs.train = w.train := (congrArg State.train w.pointRegs_shows.rest :)
  exact ⟨congrArg Ckpt.restore hckpt, congrArg Train.diverged htrain, p, congrArg (fun k : Ckpt => k.done.head?) hckpt, hstep⟩

/-- The state after each outcome of the restore r (R354 to R357). -/
def State.restoreOver (s : State) (r : Restore) : RestoreOutcome → State
  | .completed src => (((s.restoreState src r.step).latestPoint r.step src).restoreEnd true 0).doorbell 4
  | .readError src => s.stopRestore src r.step 4
  | .disagree src => s.stopRestore src r.step 5

theorem execRestoreEnd_ends (hr : s.ckpt.restore = some r) (hc : s.clocked = true) (outcome : RestoreOutcome) :
    exec (.restoreEnd outcome) s = .next (s.restoreOver r outcome) := by
  show execRestoreEnd outcome s = _
  unfold execRestoreEnd
  rw [hr]
  cases outcome <;> exact congrArg Host.Outcome.next (if_neg (by simp [hc]))

/-- A restore that stops has failed with its cause; whether the module is diverged does not change (R356). -/
theorem State.stopRestore_effect (s : State) (src : RestoreSource) (step : Nat) {cause : Nat} (hcause : cause < 16) :
    (s.stopRestore src step cause).ckpt.restore = none ∧ (s.stopRestore src step cause).train = s.train ∧
      natBits ((s.stopRestore src step cause).reg A.ckpRestoreCtrl) 27 24 = cause ∧
      natBit ((s.stopRestore src step cause).reg A.ckpRestoreCtrl) 28 = true := by
  unfold State.stopRestore
  extract_lets t u
  have hu : u.train = s.train := s.restoreState_train src step
  clear_value u
  obtain ⟨hckpt, htrain, hshown, hfailed, -⟩ :=
    State.restoreEnd_doorbell { u with ckpt := { u.ckpt with restore := none } } false hcause
  exact ⟨congrArg Ckpt.restore hckpt, htrain.trans hu, hshown, hfailed⟩

/-! ### The statement -/

/-- Settles O28: a failure report, a request that is granted and one that is refused, and the three ends of a restore. -/
theorem restoresAndReports : Obligations.RestoresAndReports := by
  intro s
  refine ⟨fun v hs => ⟨_, execCkpFailReport_counts v hs, rfl, rfl, rfl⟩,
    fun v src hs hv hr => ⟨fun p himage hidle hp hdigest hposition => ?starts, fun k h => ?refused⟩,
    fun r hr hc => ⟨fun src => ?completed, fun src => ?readError, fun src => ?disagree⟩⟩
  case starts =>
    exact ⟨_, execCkpRestoreGo_starts hs hv hr himage hidle hp hdigest hposition, rfl, rfl, (s.writeReg_shows _ _).aside.hbm, rfl⟩
  case refused =>
    have hrefused : s.RestoreRefused src k := h
    have hw := s.writeReg_shows A.ckpRestoreCtrl v.toNat
    obtain ⟨hckpt, hcause, hfailed, hflag, hhbm⟩ := (s.writeReg A.ckpRestoreCtrl v.toNat).restoreSource_effect hrefused.lt
    exact ⟨_, execCkpRestoreGo_refused hs hv hr hrefused, hckpt.trans (congrArg State.ckpt hw.rest :), hcause, hfailed, hflag,
      hhbm.trans hw.aside.hbm⟩
  case completed =>
    obtain ⟨hrestore, hdiverged, hlatest⟩ := (s.restoreState src r.step).latestPoint_effect r.step src
    obtain ⟨hckpt, htrain, -, -, hdone⟩ :=
      ((s.restoreState src r.step).latestPoint r.step src).restoreEnd_doorbell true (cause := 0) (by decide)
    obtain ⟨p, hhead, hstep⟩ := hlatest
    exact ⟨_, execRestoreEnd_ends hr hc (.completed src), (congrArg Ckpt.restore hckpt).trans hrestore,
      (congrArg Train.diverged htrain).trans hdiverged, hdone, p, (congrArg (fun k : Ckpt => k.done.head?) hckpt).trans hhead, hstep⟩
  case readError =>
    obtain ⟨hrestore, htrain, hcause, hfailed⟩ := s.stopRestore_effect src r.step (cause := 4) (by decide)
    exact ⟨_, execRestoreEnd_ends hr hc (.readError src), hrestore, congrArg Train.diverged htrain, hcause, hfailed⟩
  case disagree =>
    obtain ⟨hrestore, -, hcause, hfailed⟩ := s.stopRestore_effect src r.step (cause := 5) (by decide)
    exact ⟨_, execRestoreEnd_ends hr hc (.disagree src), hrestore, hcause, hfailed⟩

end Sys2Proof.Machine
end

/-!
# Registers that a host's write changes plainly

Bits of a row with write access and none that a one clears; what does not look at the registers.
-/
section
namespace Sys2Proof.Machine

open Sys2Proof.Safety

variable {s t : State}

/-- A bit with write access, in a row without W1C bits, reads as written. -/
theorem State.bit_writeReg_rw {a i : Nat} (v : Nat) {r : RegRow} (hr : regRow a = some r) (hclear : r.w1c = 0) (hi : i < 32)
    (hrw : natBit r.rw i = true) : (s.writeReg a v).bit a i = natBit v i := by
  have hor : natBit (r.rw ||| r.rwl) i = true := by
    rw [natBit_eq_testBit] at hrw ⊢
    rw [Nat.testBit_or, hrw, Bool.true_or]
  rw [State.writeReg_of_row hr, State.bit, State.reg_setReg, if_pos rfl, natBit_mod hi, RegRow.natBit_write _ _ _ _ hi,
    natBit_writtenBits _ _ _ hi, hclear]
  have h0 : natBit 0 i = false := by simp [natBit_eq_testBit]
  cases s.boot.image.isSome <;> simp [hrw, hor, h0]

/-- A field with write access, in a row without W1C bits, reads as written. -/
theorem State.field_writeReg_rw {a hi lo : Nat} (v : Nat) {r : RegRow} (hr : regRow a = some r) (hclear : r.w1c = 0) (h : lo ≤ hi)
    (h32 : hi < 32) (hrw : ∀ i, lo ≤ i → i ≤ hi → natBit r.rw i = true) : (s.writeReg a v).field a hi lo = natBits v hi lo :=
  natBits_congr h fun i hlo hhi => State.bit_writeReg_rw v hr hclear (by omega) (hrw i hlo hhi)

theorem State.ring_of_host (h : t.host = s.host) (n : Nat) : t.ring n = s.ring n := congrArg (fun k : HostIf => sget zeroRing k.rings n) h

theorem State.hostOk_of_host (h : t.host = s.host) : t.hostOk = s.hostOk := congrArg (fun k : HostIf => k.busMaster && !k.d3hot) h

end Sys2Proof.Machine
end

/-!
# Rings

A ring's enable, its doorbells, a fetch, its drain (R408 to R413).
-/
section
namespace Sys2Proof.Machine

open Sys2Proof.Safety

variable {s : State}

/-! ### Completions made -/

/-- The fields of a completion's record that name its end and its entry (R418). -/
theorem Entry.body_fields (e : Entry) (status cause info shot result lat : Nat) :
    let b := e.body status cause info shot result lat
    leAt b 0 2 = status % 65536 ∧ leAt b 2 1 = cause % 256 ∧ bytesAt b 3 1 = bytesAt e.bytes 0 1 ∧
      bytesAt b 16 8 = bytesAt e.bytes 16 8 := by
  intro b
  have hb : b = leBytes 2 status ++ (leBytes 1 cause ++ (bytesAt e.bytes 0 1 ++ ((leBytes 4 info ++ leBytes 6 shot ++ leBytes 1 result ++
      zeroBytes 1) ++ (bytesAt e.bytes 16 8 ++ leBytes 4 lat)))) := by
    simp only [b, Entry.body, List.append_assoc]
  refine ⟨?_, ?_, ?_, ?_⟩
  · rw [hb, leAt, bytesAt_append_left (by simp), bytesAt_self (by simp), leNat_leBytes]
    rfl
  · rw [hb, leAt, bytesAt_append_right (k := 2) (by simp) (by decide), bytesAt_append_left (by simp), bytesAt_self (by simp),
      leNat_leBytes]
    rfl
  · rw [hb, bytesAt_append_right (k := 2) (by simp) (by decide), bytesAt_append_right (k := 1) (by simp) (by decide),
      bytesAt_append_left (by simp), bytesAt_self (by simp)]
  · rw [hb, bytesAt_append_right (k := 2) (by simp) (by decide), bytesAt_append_right (k := 1) (by simp) (by decide),
      bytesAt_append_right (k := 1) (by simp) (by decide), bytesAt_append_right (k := 12) (by simp) (by decide),
      bytesAt_append_left (by simp), bytesAt_self (by simp)]

/-- A completion is made for an entry with its status and its cause. -/
theorem State.complete_completes (s : State) (e : Entry) {status cause : Nat} (info shot result lat due : Nat) (hstatus : status < 65536)
    (hcause : cause < 256) : Completes s (s.complete e status cause info shot result lat due) e status cause := by
  obtain ⟨h1, h2, h3, h4⟩ := e.body_fields status cause info shot result lat
  exact ⟨_, rfl, rfl, rfl, rfl, h1.trans (Nat.mod_eq_of_lt hstatus), h2.trans (Nat.mod_eq_of_lt hcause), h3, h4, rfl, rfl⟩

/-- An entry that is refused completes with the event that the refusal raises. -/
theorem State.refuse_effect (s : State) (e : Entry) {code cause : Nat} (hcode : code < 65536) (hcause : cause < 256) :
    Completes s (s.refuse e code cause) e code cause ∧ Logged s (s.refuse e code cause) [(code, s.srcGroom)] ∧
      Aside s (s.refuse e code cause) :=
  ⟨⟨((s.groomEvent code []).complete_completes e 0 0 0 0 s.cyc hcode hcause).made⟩, s.event_logged _ _ _ _, ⟨rfl, rfl, rfl, rfl⟩⟩

/-! ### Enable and drain -/

theorem regRow_glbRingCfg : ∀ n : Fin 64, regRow (ringReg A.glbRingCfg n.val) =
    some ⟨A.glbRingCfg, 1, 134217728, 1, 134217728, 64, 64, 0x2, 0xC7FF000F, 0x0, 0x0⟩ := by decide +kernel

/-- The enable bit of a ring reads as written. -/
theorem State.bit_writeReg_ringEnable (r : RingId) (v : Nat) :
    (s.writeReg (ringReg A.glbRingCfg r.val) v).bit (ringReg A.glbRingCfg r.val) 31 = natBit v 31 :=
  State.bit_writeReg_rw v (regRow_glbRingCfg r) rfl (by decide) (by decide)

/-- The size field of a ring reads as written. -/
theorem State.field_writeReg_ringSize (r : RingId) (v : Nat) :
    (s.writeReg (ringReg A.glbRingCfg r.val) v).field (ringReg A.glbRingCfg r.val) 3 0 = natBits v 3 0 :=
  State.field_writeReg_rw v (regRow_glbRingCfg r) rfl (by decide) (by decide) (by decide)

/-- The base of a ring is held in registers of their own. -/
theorem State.ringBase_writeReg (n v : Nat) :
    (s.writeReg (ringReg A.glbRingCfg n) v).reg (ringReg A.glbRingBaseLo n) = s.reg (ringReg A.glbRingBaseLo n) ∧
      (s.writeReg (ringReg A.glbRingCfg n) v).reg (ringReg A.glbRingBaseHi n) = s.reg (ringReg A.glbRingBaseHi n) :=
  ⟨s.reg_writeReg_ne v (by simp [ringReg, A.glbRingCfg, A.glbRingBaseLo]), s.reg_writeReg_ne v (by simp [ringReg, A.glbRingCfg, A.glbRingBaseHi])⟩

/-- The rings after one of them is replaced. -/
theorem State.ring_replaced {t u : State} {n : Nat} {q : Ring} (hu : u = t.setRing n q) (ht : t.host = s.host) :
    u.ring n = q ∧ ∀ k, k ≠ n → u.ring k = s.ring k := by
  subst hu
  exact ⟨(State.ring_setRing _ _ _).trans (if_pos rfl),
    fun k hk => ((State.ring_setRing _ _ _).trans (if_neg hk)).trans (State.ring_of_host ht k)⟩

/-- A ring that is not enabled starts afresh at the base and size of its registers; a size out of range reads as 2 (R408). -/
theorem ringEnable_starts {r : RingId} {v : Word} (hs : s.awake = true) (hv : natBit v.toNat 31 = true)
    (hoff : s.bit (ringReg A.glbRingCfg r.val) 31 = false) :
    ∃ t, exec (.ringEnable r v) s = .next t ∧ Aside s t ∧ t.bit (ringReg A.glbRingCfg r.val) 31 = true ∧
      t.ring r.val = ⟨s.reg (ringReg A.glbRingBaseLo r.val) + 2 ^ 32 * s.reg (ringReg A.glbRingBaseHi r.val),
        if 2 ≤ natBits v.toNat 3 0 ∧ natBits v.toNat 3 0 ≤ 8 then natBits v.toNat 3 0 else 2, .enabled, 0, 0, 0, 0, 0, 0,
        (s.ring r.val).pass + 1⟩ ∧
      ∀ k, k ≠ r.val → t.ring k = s.ring k := by
  have hw := s.writeReg_shows (ringReg A.glbRingCfg r.val) v.toNat
  have hhost := s.writeReg_host (ringReg A.glbRingCfg r.val) v.toNat
  have hexec : ∃ t : State, exec (.ringEnable r v) s = .next t ∧
      t = (s.writeReg (ringReg A.glbRingCfg r.val) v.toNat).setRing r.val
        ⟨s.reg (ringReg A.glbRingBaseLo r.val) + 2 ^ 32 * s.reg (ringReg A.glbRingBaseHi r.val),
          if 2 ≤ natBits v.toNat 3 0 ∧ natBits v.toNat 3 0 ≤ 8 then natBits v.toNat 3 0 else 2, .enabled, 0, 0, 0, 0, 0, 0,
          (s.ring r.val).pass + 1⟩ := by
    refine ⟨_, congrArg Host.Outcome.next ((if_neg (by simp [hs, hv])).trans (if_neg (by simp [hoff]))), ?_⟩
    dsimp only
    rw [State.field_writeReg_ringSize, State.ring_of_host hhost, (State.ringBase_writeReg _ _).1, (State.ringBase_writeReg _ _).2]
  obtain ⟨t, ht, heq⟩ := hexec
  obtain ⟨hring, hother⟩ := State.ring_replaced heq hhost
  refine ⟨t, ht, ?_, ?_, hring, hother⟩
  · subst heq
    exact ⟨hw.aside.hbm, hw.aside.stalls, hw.aside.barns, hw.aside.dies⟩
  · subst heq
    exact (State.bit_writeReg_ringEnable r v.toNat).trans hv

/-- The size of an enabled ring stays, whatever is written (R408). -/
theorem ringEnable_keepsSize {r : RingId} {v : Word} (hs : s.awake = true) (hv : natBit v.toNat 31 = true)
    (hon : s.bit (ringReg A.glbRingCfg r.val) 31 = true) :
    ∃ t, exec (.ringEnable r v) s = .next t ∧ Aside s t ∧ t.host = s.host ∧
      t.field (ringReg A.glbRingCfg r.val) 3 0 = s.field (ringReg A.glbRingCfg r.val) 3 0 := by
  refine ⟨_, congrArg Host.Outcome.next ((if_neg (by simp [hs, hv])).trans (if_pos hon)), (s.writeReg_shows _ _).aside,
    s.writeReg_host _ _, ?_⟩
  rw [State.field_writeReg_ringSize, natBits_setBits_same _ _ (by decide)]
  exact Nat.mod_eq_of_lt (natBits_lt _ _ _)

/-- A ring that is disabled drains what is outstanding (R411). -/
theorem ringDisable_drains {r : RingId} {v : Word} (hs : s.awake = true) (hv : natBit v.toNat 31 = false)
    (hon : s.bit (ringReg A.glbRingCfg r.val) 31 = true) :
    ∃ t, exec (.ringDisable r v) s = .next t ∧ Aside s t ∧ t.bit (ringReg A.glbRingCfg r.val) 31 = false ∧
      t.ring r.val = { s.ring r.val with
        state := if (s.ring r.val).outstanding = 0 then .disabled else .draining, cause := 0 } ∧
      ∀ k, k ≠ r.val → t.ring k = s.ring k := by
  let u := s.writeReg (ringReg A.glbRingCfg r.val) (setBits v.toNat 3 0 (s.field (ringReg A.glbRingCfg r.val) 3 0))
  have hhost : u.host = s.host := s.writeReg_host _ _
  have hw : Shows s u := s.writeReg_shows _ _
  have hexec : exec (.ringDisable r v) s = .next (u.setRing r.val { u.ring r.val with
      state := if (u.ring r.val).outstanding = 0 then .disabled else .draining, cause := 0 }) :=
    congrArg Host.Outcome.next ((if_neg (by simp [hs, hv])).trans (if_neg (by simp [hon])))
  rw [State.ring_of_host hhost] at hexec
  obtain ⟨hring, hother⟩ := State.ring_replaced (s := s) rfl hhost
  refine ⟨_, hexec, ⟨hw.aside.hbm, hw.aside.stalls, hw.aside.barns, hw.aside.dies⟩, ?_, hring, hother⟩
  refine (State.bit_writeReg_ringEnable r _).trans ?_
  rw [natBit_setBits _ _ (by decide), if_neg (by decide), hv]

/-! ### Doorbells -/

theorem Ring.open_of_state {q : Ring} (h : q.state = .enabled ∨ q.state = .error) : q.open_ = true := decide_eq_true h

/-- A doorbell write that is not valid stops the ring with cause 1 (R409). -/
theorem State.badDoorbell_effect (s : State) (n : Nat) :
    Aside s (s.badDoorbell n) ∧ (s.badDoorbell n).ring n = { s.ring n with state := .error, cause := 1 } ∧
      (∀ k, k ≠ n → (s.badDoorbell n).ring k = s.ring k) ∧ Logged s (s.badDoorbell n) [(Ev.ringDoorbell, srcGateLogic)] := by
  obtain ⟨hring, hother⟩ := State.ring_replaced (s := s) (t := s) (n := n) (q := { s.ring n with state := .error, cause := 1 }) rfl rfl
  exact ⟨⟨rfl, rfl, rfl, rfl⟩, hring, hother, (s.setRing n _).event_logged _ _ _ _⟩

/-- A tail within the ring's entries moves the tail; any other is not valid (R409). -/
theorem execDbSqTailWrite_open {r : RingId} {v : Word} (hs : s.awake = true)
    (ho : (s.ring r.val).state = .enabled ∨ (s.ring r.val).state = .error) :
    exec (.dbSqTailWrite r v) s = .next (
      if (v.toNat % 65536 + 65536 - (s.ring r.val).fetched % 65536) % 65536 ≤ (s.ring r.val).entries then
        s.setRing r.val { s.ring r.val with tail := v.toNat % 65536 }
      else s.badDoorbell r.val) :=
  congrArg Host.Outcome.next (if_neg (by simp [hs, Ring.open_of_state ho]))

/-- A head between the old one and the completions written moves the head; any other is not valid (R409). -/
theorem execDbCqHeadWrite_open {r : RingId} {v : Word} (hs : s.awake = true)
    (ho : (s.ring r.val).state = .enabled ∨ (s.ring r.val).state = .error) :
    exec (.dbCqHeadWrite r v) s = .next (
      if (v.toNat % 65536 + 65536 - (s.ring r.val).head) % 65536 ≤ (s.ring r.val).entries ∧
          ((s.ring r.val).written % 65536 + 65536 - v.toNat % 65536) % 65536 ≤ (s.ring r.val).entries then
        s.setRing r.val { s.ring r.val with head := v.toNat % 65536 }
      else s.badDoorbell r.val) :=
  congrArg Host.Outcome.next (if_neg (by simp [hs, Ring.open_of_state ho]))

/-! ### Fetches -/

section

variable {r : RingId} (hs : s.awake = true) (hok : s.hostOk = true) (he : (s.ring r.val).state = .enabled)
  (ht : ((s.ring r.val).tail + 65536 - (s.ring r.val).fetched % 65536) % 65536 ≠ 0)
  (hroom : ((s.ring r.val).fetched % 65536 + 65536 - (s.ring r.val).head) % 65536 < (s.ring r.val).entries)

/-- The state in which the ring's next entry has been asked of host memory (R410). -/
def State.asksEntry (s : State) (n : Nat) : State :=
  s.emit (.hostRead ((s.ring n).base + 64 * ((s.ring n).fetched % (s.ring n).entries)) 64)

/-- The entry that a ring's next fetch brings. -/
def State.entryFetched (s : State) (n : Nat) (data : List Byte) : Entry :=
  ⟨n, (s.ring n).pass, (s.ring n).fetched, bytesAt data 0 64, s.now⟩

/-- The ring with its next entry fetched. -/
def Ring.took (q : Ring) : Ring := { q with fetched := q.fetched + 1, outstanding := q.outstanding + 1 }

include hs hok he ht hroom

/-- A fetch reads the next entry; what it brings is taken in, refused, or stops the ring (R410, R413). -/
theorem execRingFetch_reads (data : List Byte) (ok : Bool) :
    exec (.ringFetch r data ok) s = .next (
      if !ok then ((s.asksEntry r.val).setRing r.val { s.ring r.val with state := .error, cause := 2 }).event Ev.hostDma srcGateLogic s.cyc []
      else
        let t := (s.asksEntry r.val).setRing r.val (s.ring r.val).took
        if validEntry (s.entryFetched r.val data).bytes then
          { t with host := { t.host with entries := t.host.entries ++ [s.entryFetched r.val data] } }
        else t.refuse (s.entryFetched r.val data) Ev.cmdInvalid 0) := by
  have hf : (s.ring r.val).fetchable = true := by
    unfold Ring.fetchable
    rw [decide_eq_true he, decide_eq_true ht, decide_eq_true hroom]
    rfl
  exact congrArg Host.Outcome.next (if_neg (by simp [hs, hok, hf]))

/-- A valid entry joins the entries behind those that stand there. -/
theorem ringFetch_joins {data : List Byte} (hvalid : validEntry (s.entryFetched r.val data).bytes = true) :
    ∃ t, exec (.ringFetch r data true) s = .next t ∧ Aside s t ∧ t.out = (s.asksEntry r.val).out ∧ t.log = s.log ∧
      t.host.entries = s.host.entries ++ [s.entryFetched r.val data] ∧ t.ring r.val = (s.ring r.val).took := by
  refine ⟨_, execRingFetch_reads hs hok he ht hroom data true, ?_⟩
  dsimp only
  rw [if_neg (by simp), if_pos hvalid]
  exact ⟨⟨rfl, rfl, rfl, rfl⟩, rfl, rfl, rfl, (State.ring_setRing (s := s.asksEntry r.val) r.val r.val _).trans (if_pos rfl)⟩

/-- An entry that is not valid completes at once with E_CMD_INVALID (R413). -/
theorem ringFetch_refuses {data : List Byte} (hbad : validEntry (s.entryFetched r.val data).bytes = false) :
    ∃ t, exec (.ringFetch r data true) s = .next t ∧ Aside s t ∧ t.out = (s.asksEntry r.val).out ∧ t.host.entries = s.host.entries ∧
      Completes s t (s.entryFetched r.val data) Ev.cmdInvalid 0 ∧ Logged s t [(Ev.cmdInvalid, s.srcGroom)] ∧
      t.ring r.val = (s.ring r.val).took := by
  refine ⟨_, execRingFetch_reads hs hok he ht hroom data true, ?_⟩
  dsimp only
  rw [if_neg (by simp), if_neg (by simp [hbad])]
  obtain ⟨hcomp, hlog, haside⟩ := ((s.asksEntry r.val).setRing r.val (s.ring r.val).took).refuse_effect (s.entryFetched r.val data)
    (code := Ev.cmdInvalid) (cause := 0) (by decide) (by decide)
  exact ⟨⟨haside.hbm, haside.stalls, haside.barns, haside.dies⟩, rfl, rfl, ⟨hcomp.made⟩, hlog,
    (State.ring_setRing (s := s.asksEntry r.val) r.val r.val _).trans (if_pos rfl)⟩

/-- A read that fails stops the ring with cause 2 (R411). -/
theorem ringFetch_fails (data : List Byte) :
    ∃ t, exec (.ringFetch r data false) s = .next t ∧ Aside s t ∧ t.out = (s.asksEntry r.val).out ∧ t.host.entries = s.host.entries ∧
      t.ring r.val = { s.ring r.val with state := .error, cause := 2 } ∧ Logged s t [(Ev.hostDma, srcGateLogic)] := by
  refine ⟨_, execRingFetch_reads hs hok he ht hroom data false, ?_⟩
  rw [if_pos (by simp)]
  exact ⟨⟨rfl, rfl, rfl, rfl⟩, rfl, rfl, (State.ring_setRing (s := s.asksEntry r.val) r.val r.val _).trans (if_pos rfl),
    ((s.asksEntry r.val).setRing r.val _).event_logged _ _ _ _⟩

end

/-- Settles O37: a ring's enable and drain, its two doorbells, and what a fetch brings. -/
theorem ringsAndDoorbells : Obligations.RingsAndDoorbells := by
  intro s r hs n q cfg
  refine ⟨fun v hv => ⟨fun hoff => ringEnable_starts hs hv hoff, fun hon => ringEnable_keepsSize hs hv hon⟩,
    fun v hv hon => ringDisable_drains hs hv hon, fun v ho => ?doorbells, fun data ok hok he ht hroom => ?fetch⟩
  case doorbells =>
    have htail := execDbSqTailWrite_open (r := r) (v := v) hs ho
    have hhead := execDbCqHeadWrite_open (r := r) (v := v) hs ho
    have hbad := s.badDoorbell_effect r.val
    exact ⟨fun h => htail.trans (congrArg _ (if_pos h)), fun h => ⟨_, htail.trans (congrArg _ (if_neg (not_le.mpr h))), hbad⟩,
      fun h => hhead.trans (congrArg _ (if_pos h)),
      fun h => ⟨_, hhead.trans (congrArg _ (if_neg fun hin => h.elim (not_lt.mpr hin.1) (not_lt.mpr hin.2))), hbad⟩⟩
  case fetch =>
    refine ⟨?_, ?_, ?_⟩
    · rintro rfl hvalid
      exact ringFetch_joins hs hok he ht hroom hvalid
    · rintro rfl hbad
      exact ringFetch_refuses hs hok he ht hroom hbad
    · rintro rfl
      exact ringFetch_fails hs hok he ht hroom data

end Sys2Proof.Machine
end

/-!
# Entries

What becomes of the entry at the front: NOP, RUN, SNAPSHOT_SHIP (R412, R414, R416 to R418).
-/
section
namespace Sys2Proof.Machine

open Sys2Proof.Safety

variable {s : State} {r : RingId} {e : Entry}

theorem execNopEntry_completes (hs : s.awake = true) (h : s.headEntry r.val 0 = some e) :
    exec (.nopEntry r) s = .next (s.dropEntry.complete e 0 0 0 0 0 0 s.cyc) := by
  refine congrArg Host.Outcome.next ?_
  rw [h]
  exact if_pos hs

/-- The refusals of a RUN do not look at the entries, so a RUN's cause is the same before and after its entry is taken. -/
theorem execRun_judges (hs : s.awake = true) (h : s.headEntry r.val 1 = some e) :
    exec (.run r) s = .next (
      let q := e.run (s.cycleOf e.count)
      let c := s.runCause q (s.firstOpen (s.cycleOf e.count))
      if c ≠ 0 then s.dropEntry.refuseRun q c else { s.dropEntry with host := { s.dropEntry.host with runs := s.host.runs ++ [q] } }) := by
  refine congrArg Host.Outcome.next ?_
  dsimp only
  rw [h]
  exact if_neg (by simp [hs])

theorem execSnapshotShip_judges (hs : s.awake = true) (h : s.headEntry r.val 3 = some e) :
    exec (.snapshotShip r) s = .next (
      if s.snapCause ≠ 0 then s.dropEntry.refuse e Ev.state s.snapCause
      else { s.dropEntry with host := { s.dropEntry.host with sweep := some ⟨e, leAt e.bytes 2 2, beNat (bytesAt e.bytes 48 16),
        leAt e.bytes 4 2, leAt e.bytes 6 2, false, false, 0, 0, [], 0⟩ } }) := by
  refine congrArg Host.Outcome.next ?_
  dsimp only
  rw [h]
  exact if_neg (by simp [hs])

/-! ### Causes of refusal (R417) -/

/-- Every cause of R417 fits the cause byte of a completion. -/
theorem State.runCause_le (s : State) (q : RunEntry) (n : Nat) : s.runCause q n ≤ 12 := by
  unfold State.runCause
  repeat' split
  all_goals decide

theorem State.snapCause_le (s : State) : s.snapCause ≤ 12 := by
  unfold State.snapCause
  repeat' split
  all_goals decide

theorem State.runCause_stopped {q : RunEntry} {n : Nat} (h : s.boot.mode = .hold ∨ s.boot.mode = .fault) : s.runCause q n = 12 :=
  if_pos (decide_eq_true h)

theorem State.runCause_noImage {q : RunEntry} {n : Nat} (hm : s.boot.mode = .ready) (hi : s.boot.image = none) : s.runCause q n = 1 := by
  unfold State.runCause
  rw [if_neg (by simp [State.stopped, hm]), hi]

theorem State.runCause_noPlan {q : RunEntry} {n : Nat} {im : Image} (hm : s.boot.mode = .run) (hi : s.boot.image = some im)
    (hr : s.boot.releasing = 0) (hp : im.planNo q.plan = none) : s.runCause q n = 7 := by
  unfold State.runCause
  rw [if_neg (by simp [State.stopped, hm]), hi]
  dsimp only
  rw [if_neg (by simp [State.releasing, hr]), hp]

/-- A RUN that is refused completes with its cause and raises E_STATE (R417, R418). -/
theorem State.refuseRun_effect (s : State) (q : RunEntry) {c : Nat} (hc : c < 256) :
    Completes s (s.refuseRun q c) q.entry Ev.state c ∧ Logged s (s.refuseRun q c) [(Ev.state, s.srcGroom)] :=
  ⟨⟨((s.groomEvent Ev.state []).complete_completes q.entry _ _ _ _ s.cyc (by decide) hc).made⟩, s.event_logged _ _ _ _⟩

/-! ### The statement -/

theorem nopEntry_effect (hs : s.awake = true) (h : s.headEntry r.val 0 = some e) :
    ∃ t, exec (.nopEntry r) s = .next t ∧ Aside s t ∧ Completes s t e 0 0 ∧ t.log = s.log ∧ t.host.entries = s.host.entries.drop 1 :=
  ⟨_, execNopEntry_completes hs h, ⟨rfl, rfl, rfl, rfl⟩,
    ⟨(s.dropEntry.complete_completes e 0 0 0 0 s.cyc (by decide) (by decide)).made⟩, rfl, rfl⟩

theorem run_joins (hs : s.awake = true) (h : s.headEntry r.val 1 = some e)
    (hc : s.runCause (e.run (s.cycleOf e.count)) (s.firstOpen (s.cycleOf e.count)) = 0) :
    ∃ t q, exec (.run r) s = .next t ∧ Aside s t ∧ t.log = s.log ∧ t.host.comps = s.host.comps ∧
      t.host.entries = s.host.entries.drop 1 ∧ t.host.runs = s.host.runs ++ [q] ∧ q.entry = e ∧ q.plan = leAt e.bytes 2 2 ∧
      q.count = leAt e.bytes 4 2 ∧ q.startShot = leAt e.bytes 8 6 ∧ q.step = leAt e.bytes 16 8 ∧ q.started = false ∧
      q.stepStart = natBit (leAt e.bytes 1 1) 1 :=
  ⟨_, e.run (s.cycleOf e.count), (execRun_judges hs h).trans (congrArg _ (if_neg (not_not.mpr hc))), ⟨rfl, rfl, rfl, rfl⟩, rfl, rfl, rfl,
    rfl, rfl, rfl, rfl, rfl, rfl, rfl, rfl⟩

theorem run_refused (hs : s.awake = true) (h : s.headEntry r.val 1 = some e) {c : Nat}
    (hc : s.runCause (e.run (s.cycleOf e.count)) (s.firstOpen (s.cycleOf e.count)) = c) (h0 : c ≠ 0) :
    ∃ t, exec (.run r) s = .next t ∧ Aside s t ∧ Completes s t e Ev.state c ∧ Logged s t [(Ev.state, s.srcGroom)] ∧
      t.host.entries = s.host.entries.drop 1 ∧ t.host.runs = s.host.runs := by
  have hle : c < 256 := by
    have := s.runCause_le (e.run (s.cycleOf e.count)) (s.firstOpen (s.cycleOf e.count))
    omega
  obtain ⟨hcomp, hlog⟩ := s.dropEntry.refuseRun_effect (e.run (s.cycleOf e.count)) hle
  have hexec := execRun_judges hs h
  dsimp only at hexec
  rw [hc, if_pos h0] at hexec
  exact ⟨_, hexec, ⟨rfl, rfl, rfl, rfl⟩, ⟨hcomp.made⟩, hlog, rfl, rfl⟩

/-- Settles O38: each entry taken, and the causes for which a RUN is refused. -/
theorem entriesExecute : Obligations.EntriesExecute := by
  intro s r e hs
  refine ⟨fun h => nopEntry_effect hs h,
    fun h => ⟨fun hc => run_joins hs h hc, fun hc => run_refused hs h rfl hc, fun hm => State.runCause_stopped hm,
      fun hm hi => State.runCause_noImage hm hi, fun im hm hi hr hp => State.runCause_noPlan hm hi hr hp⟩,
    fun h => ⟨fun hc => ?accepted, fun hc => ?refused⟩⟩
  case accepted =>
    exact ⟨_, _, (execSnapshotShip_judges hs h).trans (congrArg _ (if_neg (not_not.mpr hc))), ⟨rfl, rfl, rfl, rfl⟩, rfl, rfl, rfl, rfl,
      rfl, rfl, rfl, rfl, rfl, rfl⟩
  case refused =>
    obtain ⟨hcomp, hlog, haside⟩ := s.dropEntry.refuse_effect e (code := Ev.state) (cause := s.snapCause) (by decide)
      (lt_of_le_of_lt s.snapCause_le (by decide))
    exact ⟨_, (execSnapshotShip_judges hs h).trans (congrArg _ (if_pos hc)), ⟨haside.hbm, haside.stalls, haside.barns, haside.dies⟩,
      ⟨hcomp.made⟩, hlog, rfl, rfl⟩

end Sys2Proof.Machine
end

/-!
# Completions and messages

The order, place and phase of completions, what waits until the host allows requests, and pending messages (R406, R407, R419 to R421, R433).
-/
section
namespace Sys2Proof.Machine

open Sys2Proof.Safety

variable {s : State} {c : Completion}

/-! ### The order of completions -/

/-- The completion whose turn it is comes before every other, those due alike in the order in which they stand (R419). -/
theorem firstComp_place {l : List Completion} (h : firstComp l = some c) :
    ∃ a b, l = a ++ c :: b ∧ (∀ d ∈ a, c.due < d.due) ∧ (∀ d ∈ b, c.due ≤ d.due) := by
  induction l generalizing c with
  | nil => cases h
  | cons k l ih =>
    unfold firstComp at h
    split at h
    next d hd =>
      obtain ⟨a, b, hl, ha, hb⟩ := ih hd
      split at h
      next hlt =>
        cases h
        exact ⟨k :: a, b, by rw [hl]; rfl, List.forall_mem_cons.mpr ⟨hlt, ha⟩, hb⟩
      next hge =>
        cases h
        refine ⟨[], l, rfl, fun _ h => absurd h List.not_mem_nil, fun d' hd' => ?_⟩
        rw [hl] at hd'
        rcases List.mem_append.mp hd' with hm | hm
        · exact (not_lt.mp hge).trans (ha d' hm).le
        · rcases List.mem_cons.mp hm with rfl | hm
          · exact not_lt.mp hge
          · exact (not_lt.mp hge).trans (hb d' hm)
    next hnone =>
      cases h
      cases l with
      | nil => exact ⟨[], [], rfl, fun _ h => absurd h List.not_mem_nil, fun _ h => absurd h List.not_mem_nil⟩
      | cons k' l =>
        unfold firstComp at hnone
        split at hnone
        · split at hnone <;> cases hnone
        · cases hnone

/-! ### A completion written -/

/-- The ring's place for its next completion (R419). -/
def Ring.place (q : Ring) : Nat := q.base + 64 * q.entries + q.written % q.entries * 32

/-- The last word of a completion: its sequence number, and the phase in bit 31 (R419). -/
def Ring.lastWord (q : Ring) (c : Completion) : List Byte :=
  leBytes 4 (c.seq % 2 ^ 31 + if q.written / q.entries % 2 = 0 then 2 ^ 31 else 0)

/-- The ring with one more completion written. -/
def Ring.wrote (q : Ring) : Ring :=
  { q with
    written := q.written + 1, outstanding := q.outstanding - 1
    state := if q.state = .draining ∧ q.outstanding ≤ 1 then .disabled else q.state }

/-- The state in which a completion has been written, and its message is due. -/
def State.compWritten (s : State) (c : Completion) : State :=
  ((s.emit (.hostWrite (s.ring c.ring).place c.body)).emit
    (.hostWrite ((s.ring c.ring).place + 28) ((s.ring c.ring).lastWord c))).setRing c.ring (s.ring c.ring).wrote

theorem State.writeComp_same (h : (s.ring c.ring).pass = c.pass) :
    s.writeComp c = if (c.irq && s.bit (ringReg A.glbRingCfg c.ring) 30) = true then
      (s.compWritten c).msix (s.field (ringReg A.glbRingCfg c.ring) 26 16) else s.compWritten c := if_neg (not_not.mpr h)

theorem State.writeComp_earlier (h : (s.ring c.ring).pass ≠ c.pass) : s.writeComp c = s := if_pos h

/-- A message adds at most one item to what has left the module, and reaches no ring. -/
theorem State.msix_effect (s : State) (v : Nat) :
    (∃ l, (s.msix v).out = s.out ++ l) ∧ (s.msix v).host.rings = s.host.rings ∧ (s.msix v).cyc = s.cyc ∧
      (s.msix v).host.comps = s.host.comps := by
  have h := s.msix_shows v
  refine ⟨?_, (congrArg HostIf.rings h.host :), (congrArg State.cyc h.rest :), (congrArg HostIf.comps h.host :)⟩
  unfold State.msix
  repeat' split
  · exact ⟨[], (List.append_nil _).symm⟩
  · exact ⟨[], (List.append_nil _).symm⟩
  · exact ⟨_, rfl⟩
  · exact ⟨[], (List.append_nil _).symm⟩

/-- A completion of the ring's pass is written at the ring's next place, in two writes, with a message behind them where it interrupts. -/
theorem State.writeComp_effect (h : (s.ring c.ring).pass = c.pass) :
    let q := s.ring c.ring
    ∃ l, (s.writeComp c).out = s.out ++ [.hostWrite q.place c.body, .hostWrite (q.place + 28) (q.lastWord c)] ++ l ∧
      (c.irq = false → l = []) ∧ (s.writeComp c).ring c.ring = q.wrote ∧ (∀ k, k ≠ c.ring → (s.writeComp c).ring k = s.ring k) ∧
      (s.writeComp c).cyc = s.cyc ∧ (s.writeComp c).host.comps = s.host.comps ∧ Aside s (s.writeComp c) := by
  intro q
  have hout : (s.compWritten c).out = s.out ++ [.hostWrite q.place c.body, .hostWrite (q.place + 28) (q.lastWord c)] :=
    List.append_assoc _ _ _
  have hring (k : Nat) : (s.compWritten c).ring k = if k = c.ring then q.wrote else s.ring k := State.ring_setRing _ _ _
  rw [State.writeComp_same h]
  split
  next hirq =>
    obtain ⟨⟨l, hl⟩, hrings, hcyc, hcomps⟩ := (s.compWritten c).msix_effect (s.field (ringReg A.glbRingCfg c.ring) 26 16)
    have haside := ((s.compWritten c).msix_shows (s.field (ringReg A.glbRingCfg c.ring) 26 16)).aside
    have hmsg (k : Nat) : ((s.compWritten c).msix (s.field (ringReg A.glbRingCfg c.ring) 26 16)).ring k =
        if k = c.ring then q.wrote else s.ring k := (congrArg (sget zeroRing · k) hrings).trans (hring k)
    exact ⟨l, hl.trans (congrArg (· ++ l) hout), fun h => absurd hirq (by simp [h]), (hmsg _).trans (if_pos rfl),
      fun k hk => (hmsg k).trans (if_neg hk), hcyc, hcomps, ⟨haside.hbm, haside.stalls, haside.barns, haside.dies⟩⟩
  next =>
    exact ⟨[], by rw [hout, List.append_nil], fun _ => rfl, (hring _).trans (if_pos rfl), fun k hk => (hring k).trans (if_neg hk), rfl, rfl,
      ⟨rfl, rfl, rfl, rfl⟩⟩

/-! ### The writer of completions -/

/-- The state at a completion's turn, the completion taken. -/
def State.compTaken (s : State) (c : Completion) : State :=
  { s.at_ c.due with host := { s.host with comps := s.host.comps.erase c } }

theorem execCompletionWrite_first (h : firstComp s.host.comps = some c) :
    exec .completionWrite s = .next (
      if !s.compReady c then s
      else if s.hostOk && s.host.waiting.isEmpty then (s.compTaken c).writeComp c
      else { s.compTaken c with host := { (s.compTaken c).host with waiting := s.host.waiting ++ [.comp c] } }) := by
  show execCompletionWrite s = _
  unfold execCompletionWrite
  rw [h]
  rfl

/-- The completion whose turn it is is written where requests are allowed and nothing waits (R407, R419 to R421). -/
theorem completionWrite_writes (h : firstComp s.host.comps = some c) (hr : s.compReady c = true) (hok : s.hostOk = true)
    (hw : s.host.waiting = []) (hp : (s.ring c.ring).pass = c.pass) :
    let q := s.ring c.ring
    ∃ t l, exec .completionWrite s = .next t ∧ Aside s t ∧ c.due ≤ t.cyc ∧ t.host.comps = s.host.comps.erase c ∧
      t.out = s.out ++ [.hostWrite q.place c.body, .hostWrite (q.place + 28) (q.lastWord c)] ++ l ∧ (c.irq = false → l = []) ∧
      t.ring c.ring = q.wrote ∧ (∀ k, k ≠ c.ring → t.ring k = s.ring k) := by
  intro q
  obtain ⟨l, hout, hl, hring, hother, hcyc, hcomps, haside⟩ := State.writeComp_effect (s := s.compTaken c) (c := c) hp
  refine ⟨_, l, (execCompletionWrite_first h).trans (congrArg _ ((if_neg (by simp [hr])).trans (if_pos (by simp [hok, hw])))),
    ⟨haside.hbm, haside.stalls, haside.barns, haside.dies⟩, ?_, hcomps, hout, hl, hring, hother⟩
  exact (le_max_right s.cyc c.due).trans_eq hcyc.symm

/-- While requests are not allowed, or others wait, the completion waits behind them (R406). -/
theorem completionWrite_waits (h : firstComp s.host.comps = some c) (hr : s.compReady c = true)
    (hno : s.hostOk = false ∨ s.host.waiting ≠ []) :
    ∃ t, exec .completionWrite s = .next t ∧ Aside s t ∧ t.out = s.out ∧ t.host.comps = s.host.comps.erase c ∧
      t.host.waiting = s.host.waiting ++ [.comp c] := by
  have hnot : ¬ (s.hostOk && s.host.waiting.isEmpty) = true := by
    rw [Bool.and_eq_true, List.isEmpty_iff]
    exact fun hboth => hno.elim (fun hf => absurd (hf.symm.trans hboth.1) (by decide)) fun hne => hne hboth.2
  exact ⟨_, (execCompletionWrite_first h).trans (congrArg _ ((if_neg (by simp [hr])).trans (if_neg hnot))), ⟨rfl, rfl, rfl, rfl⟩, rfl, rfl,
    rfl⟩

/-! ### Requests allowed again -/

/-- What waited is sent: a message, or a completion. -/
def State.sendWaiting (s : State) : HostWait → State
  | .msg v => s.msix v
  | .comp c => s.writeComp c

/-- Requests are allowed and nothing waits. -/
def State.Clear (s : State) : Prop := s.hostOk = true ∧ s.host.waiting = []

theorem State.Clear.msix (h : s.Clear) (v : Nat) : (s.msix v).Clear := by
  obtain ⟨hok, hw⟩ := h
  unfold State.msix
  repeat' split
  · exact ⟨hok, hw⟩
  · exact ⟨hok, hw⟩
  · exact ⟨hok, hw⟩
  next hno => exact absurd (show (s.hostOk && s.host.waiting.isEmpty) = true by simp [hok, hw]) hno

theorem State.Clear.sendWaiting (h : s.Clear) (x : HostWait) : (s.sendWaiting x).Clear := by
  cases x with
  | msg v => exact h.msix v
  | comp c =>
    show (s.writeComp c).Clear
    by_cases hp : (s.ring c.ring).pass = c.pass
    · rw [State.writeComp_same hp]
      have hc : (s.compWritten c).Clear := h
      split
      · exact hc.msix _
      · exact hc
    · rw [State.writeComp_earlier hp]
      exact h

theorem State.sendWaiting_aside (s : State) (x : HostWait) : Aside s (s.sendWaiting x) := by
  cases x with
  | msg v => exact (s.msix_shows v).aside
  | comp c =>
    show Aside s (s.writeComp c)
    by_cases hp : (s.ring c.ring).pass = c.pass
    · obtain ⟨_, _, _, _, _, _, _, haside⟩ := State.writeComp_effect hp
      exact haside
    · rw [State.writeComp_earlier hp]
      exact ⟨rfl, rfl, rfl, rfl⟩

theorem aside_trans {s t u : State} (h : Aside s t) (k : Aside t u) : Aside s u :=
  ⟨k.hbm.trans h.hbm, k.stalls.trans h.stalls, k.barns.trans h.barns, k.dies.trans h.dies⟩

/-- Messages of vectors that are not masked go out one after another. -/
theorem State.sendWaiting_messages {vs : List Nat} (hc : s.Clear) (hm : s.host.fmask = false) (hu : ∀ v ∈ vs, v ∈ s.host.unmasked) :
    ((vs.map HostWait.msg).foldl State.sendWaiting s).out = s.out ++ vs.map Out.msix := by
  induction vs generalizing s with
  | nil => exact (List.append_nil _).symm
  | cons v vs ih =>
    have hsent : s.sendWaiting (.msg v) = s.emit (.msix v) := State.msix_sent hm (hu v (by simp)) hc.1 hc.2
    rw [List.map_cons, List.foldl_cons, hsent, ih (s := s.emit (.msix v)) hc hm fun w hw => hu w (List.mem_cons_of_mem _ hw)]
    simp

/-- The state in which requests are allowed again and what waited is still to be sent. -/
def State.allowed (s : State) : State :=
  { s.cross cdcHost 0 with host := { s.host with busMaster := true, d3hot := false, waiting := [] } }

theorem Crossed.host {s t : State} (h : Crossed s t) : t.host = s.host := (congrArg State.host h.rest :)
theorem Crossed.out {s t : State} (h : Crossed s t) : t.out = s.out := (congrArg State.out h.rest :)
theorem Crossed.aside {s t : State} (h : Crossed s t) : Aside s t :=
  ⟨(congrArg State.hbm h.rest :), (congrArg State.stalls h.rest :), (congrArg State.barns h.rest :), (congrArg State.dies h.rest :)⟩

theorem execHostRequestsAllowed_sends (hs : s.awake = true) :
    exec .hostRequestsAllowed s = .next (s.host.waiting.foldl State.sendWaiting s.allowed) := by
  refine congrArg Host.Outcome.next ((if_neg (by simp [hs])).trans ?_)
  have hhost : (s.cross cdcHost 0).host = s.host := (s.cross_crossed cdcHost 0).host
  dsimp only
  rw [hhost]
  refine congrArg (fun f => List.foldl f s.allowed s.host.waiting) ?_
  funext t x
  cases x <;> rfl

theorem hostRequestsAllowed_effect (hs : s.awake = true) :
    ∃ t, exec .hostRequestsAllowed s = .next t ∧ Aside s t ∧ t.hostOk = true ∧ t.host.waiting = [] ∧
      (s.host.fmask = false → ∀ vs : List Nat, s.host.waiting = vs.map HostWait.msg → (∀ v ∈ vs, v ∈ s.host.unmasked) →
        t.out = s.out ++ vs.map Out.msix) := by
  have hcross := s.cross_crossed cdcHost 0
  have hclear : s.allowed.Clear := ⟨rfl, rfl⟩
  have haside : Aside s s.allowed := ⟨hcross.aside.hbm, hcross.aside.stalls, hcross.aside.barns, hcross.aside.dies⟩
  have hend : Aside s (s.host.waiting.foldl State.sendWaiting s.allowed) ∧ (s.host.waiting.foldl State.sendWaiting s.allowed).Clear :=
    List.foldlRecOn (motive := fun t => Aside s t ∧ t.Clear) _ _ ⟨haside, hclear⟩
      fun t ht x _ => ⟨aside_trans ht.1 (t.sendWaiting_aside x), ht.2.sendWaiting x⟩
  refine ⟨_, execHostRequestsAllowed_sends hs, hend.1, hend.2.1, hend.2.2, fun hm vs hvs hu => ?_⟩
  rw [hvs, State.sendWaiting_messages hclear hm hu]
  exact congrArg (· ++ vs.map Out.msix) hcross.out

theorem busMasterEnableClear_effect (hs : s.awake = true) :
    ∃ t, exec .busMasterEnableClear s = .next t ∧ t.hostOk = false ∧ t.host = { s.host with busMaster := false } ∧ Aside s t ∧
      t.out = s.out ∧ (s.crossing cdcHost 0 = false → t.log = s.log ∧ t.regs = s.regs) := by
  have hcross := s.cross_crossed cdcHost 0
  exact ⟨_, congrArg Host.Outcome.next (if_neg (by simp [hs])), rfl, congrArg (fun h : HostIf => { h with busMaster := false }) hcross.host,
    ⟨hcross.aside.hbm, hcross.aside.stalls, hcross.aside.barns, hcross.aside.dies⟩, hcross.out, State.cross_usable⟩

/-! ### Masks of vectors (R433) -/

/-- The state with the mask bit of a vector clear. -/
def State.maskCleared (s : State) (v : Nat) : State :=
  if s.host.unmasked.contains v then s else { s with host := { s.host with unmasked := s.host.unmasked ++ [v] } }

theorem State.maskCleared_effect (s : State) (v : Nat) :
    v ∈ (s.maskCleared v).host.unmasked ∧ { s.maskCleared v with host := s.host } = s ∧
      { (s.maskCleared v).host with unmasked := s.host.unmasked } = s.host := by
  unfold State.maskCleared
  split
  next h => exact ⟨by simpa using h, rfl, rfl⟩
  next => exact ⟨by simp, rfl, rfl⟩

theorem msixMaskClear_sends {v : BitVec 11} (hs : s.awake = true) (hp : v.toNat ∈ s.host.pba) (hm : s.host.fmask = false)
    (hok : s.hostOk = true) (hw : s.host.waiting = []) :
    ∃ t, exec (.msixMaskClear v) s = .next t ∧ Aside s t ∧ t.out = s.out ++ [.msix v.toNat] ∧ v.toNat ∈ t.host.unmasked ∧
      t.host.pba = s.host.pba.erase v.toNat := by
  obtain ⟨hu, hrest, hhost⟩ := s.maskCleared_effect v.toNat
  let u : State := s.maskCleared v.toNat
  let w : State := { u with host := { u.host with pba := u.host.pba.erase v.toNat } }
  have hpba : u.host.pba = s.host.pba := (congrArg HostIf.pba hhost :)
  have hfmask : u.host.fmask = false := ((congrArg HostIf.fmask hhost :) : u.host.fmask = s.host.fmask).trans hm
  have hwok : w.hostOk = true := ((congrArg (fun h : HostIf => h.busMaster && !h.d3hot) hhost :) : w.hostOk = s.hostOk).trans hok
  have hww : w.host.waiting = [] := ((congrArg HostIf.waiting hhost :) : w.host.waiting = s.host.waiting).trans hw
  have hexec : exec (.msixMaskClear v) s = .next (w.emit (.msix v.toNat)) :=
    congrArg Host.Outcome.next ((if_pos hs).trans ((if_pos (by
      show (u.host.pba.contains v.toNat && !u.host.fmask) = true
      rw [hpba, hfmask]
      simpa using hp)).trans (State.msix_sent (s := w) hfmask hu hwok hww)))
  exact ⟨_, hexec, ⟨(congrArg State.hbm hrest :), (congrArg State.stalls hrest :), (congrArg State.barns hrest :), (congrArg State.dies hrest :)⟩,
    (congrArg (fun t : State => t.out ++ [.msix v.toNat]) hrest :), hu, congrArg (List.erase · v.toNat) hpba⟩

theorem msixMaskClear_idle {v : BitVec 11} (hs : s.awake = true) (hp : v.toNat ∉ s.host.pba) :
    ∃ t, exec (.msixMaskClear v) s = .next t ∧ Aside s t ∧ t.out = s.out ∧ v.toNat ∈ t.host.unmasked ∧ t.host.pba = s.host.pba := by
  obtain ⟨hu, hrest, hhost⟩ := s.maskCleared_effect v.toNat
  have hpba : (s.maskCleared v.toNat).host.pba = s.host.pba := (congrArg HostIf.pba hhost :)
  exact ⟨s.maskCleared v.toNat, congrArg Host.Outcome.next ((if_pos hs).trans (if_neg (by
      show ¬ ((s.maskCleared v.toNat).host.pba.contains v.toNat && !(s.maskCleared v.toNat).host.fmask) = true
      simp [hpba, hp]))),
    ⟨(congrArg State.hbm hrest :), (congrArg State.stalls hrest :), (congrArg State.barns hrest :), (congrArg State.dies hrest :)⟩,
    (congrArg State.out hrest :), hu, hpba⟩

/-! ### The statements -/

/-- Settles O39: the writer of completions, what waits for the host, and the mask of a vector. -/
theorem completionsAndMessages : Obligations.CompletionsAndMessages := by
  refine fun s => ⟨fun c hc => ⟨fun hr => (execCompletionWrite_first hc).trans (congrArg _ (if_pos (by simp [hr]))),
      fun hr hok hw hp => ?written, fun hr hno => completionWrite_waits hc hr hno⟩,
    fun hs => ⟨hostRequestsAllowed_effect hs, busMasterEnableClear_effect hs,
      fun v => ⟨fun hp hm hok hw => msixMaskClear_sends hs hp hm hok hw, fun hp => msixMaskClear_idle hs hp⟩⟩⟩
  case written =>
    obtain ⟨t, l, ht, haside, hdue, hcomps, hout, hl, hring, hother⟩ := completionWrite_writes hc hr hok hw hp
    exact ⟨t, l, ht, haside, hdue, hcomps, hout, hl, congrArg Ring.written hring, congrArg Ring.outstanding hring, hother⟩

/-- Settles O59: the order of completions, and the place and phase of the one that is written. -/
theorem completionPlaces : Obligations.CompletionPlaces := by
  refine ⟨fun l c h => firstComp_place h, fun s c hc hr hok hw hp => ?_⟩
  obtain ⟨t, l, ht, -, -, -, hout, -, hring, -⟩ := completionWrite_writes hc hr hok hw hp
  exact ⟨t, l, ht, congrArg Ring.written hring, hout⟩

end Sys2Proof.Machine
end

/-!
# Secure operations

In a secured session each operation is accepted while none runs, and a running one ends (R426, R459).
-/
section
namespace Sys2Proof.Machine

open Sys2Proof.Safety

variable {s : State} {t : Transport}

/-- An operation is accepted: it answers return code 0 with its data, and runs to end with its code. -/
def Accepted (s : State) (t : Transport) (u : State) (op code : Nat) (bs : List Byte) : Prop :=
  u.out = s.out ++ [.spdm t 0x7E (0 :: bs)] ∧ u.sec.running = some op ∧ u.sec.pendCode = code

/-- The state in which an operation with its effect `p` runs and has been answered. -/
def State.operating (t : Transport) (op : Nat) (p : State × Nat) : State :=
  ({ p.1 with sec := { p.1.sec with running := some op, pendCode := p.2 } } : State).vendorAnswer t 0 []

/-- What no operation's effect changes: what has left the module. -/
theorem State.operating_accepted (t : Transport) (op : Nat) {p : State × Nat} (hout : p.1.out = s.out) :
    Accepted s t (State.operating t op p) op p.2 [] := by
  refine ⟨?_, rfl, rfl⟩
  show p.1.out ++ _ = _
  rw [hout]
  rfl

/-! ### The effects leave what has been sent -/

theorem State.stageFw_out (s : State) (off : Nat) (data : List Byte) : (s.stageFw off data).1.out = s.out := by
  unfold State.stageFw
  split <;> rfl

theorem State.activateFw_out (s : State) (commit : Bool) (found : Option Nat) : (s.activateFw commit found).1.out = s.out := by
  cases found <;> rfl

theorem State.enrollKey_out (s : State) (t : Transport) (slot : Nat) (key : List Byte) : (s.enrollKey t slot key).1.out = s.out := by
  unfold State.enrollKey
  repeat' split
  all_goals rfl

theorem State.revokeKey_out (s : State) (t : Transport) (slot : Nat) : (s.revokeKey t slot).1.out = s.out := by
  unfold State.revokeKey
  repeat' split
  all_goals rfl

/-- A staging within its bounds puts the bytes into the copy that does not run. -/
theorem State.stageFw_within (s : State) {off : Nat} {data : List Byte} (hl : data.length ≤ 3072) (hb : off + data.length ≤ copySize) :
    (s.stageFw off data).2 = 0 ∧
      (s.stageFw off data).1.flash.bytes.read (copyBase s.flash.other + off) data.length = data := by
  unfold State.stageFw
  rw [if_neg (by omega)]
  exact ⟨rfl, Memory.read_write_same _ _ rfl⟩

theorem State.enrollKey_may (s : State) {t : Transport} {slot : Nat} {key : List Byte} (hmay : s.mayKey t true = true)
    (hlen : key.length = 388) (hslot : slot ≤ 3) :
    s.enrollKey t slot key = ({ s with flash := { s.flash with keys := s.flash.keys.set slot (some (sha256 key)) } }, 0) := by
  unfold State.enrollKey
  rw [if_neg (by simp [hmay]), if_neg (not_not.mpr hlen), if_neg (not_lt.mpr hslot)]

theorem State.revokeKey_may (s : State) {t : Transport} {slot : Nat} (hmay : s.mayKey t false = true) (hslot : slot ≤ 3) :
    s.revokeKey t slot = ({ s with flash := { s.flash with keys := s.flash.keys.set slot none } }, 0) := by
  unfold State.revokeKey
  rw [if_neg (by simp [hmay]), if_neg (not_lt.mpr hslot)]

/-! ### Operations in a secured session -/

section

variable (hr : s.responds = true) (hx : s.secured t = true)
include hr hx

theorem State.inSession_secured (f : State → State) : s.inSession t f = f s :=
  State.inSession_of_secured hr (of_decide_eq_true hx) f

/-- POLL answers the acknowledge register and clears ready. -/
theorem State.pollOp_answers :
    (s.pollOp t).out = s.out ++ [.spdm t 0x7E (0 :: s.sec.ack)] ∧ (s.pollOp t).sec.ready = false := by
  unfold State.pollOp
  rw [State.inSession_secured hr hx]
  exact ⟨rfl, rfl⟩

variable (hidle : s.sec.running = none)
include hidle

theorem State.secureOp_runs (op : Nat) (f : State → State × Nat) : s.secureOp t op f = State.operating t op (f s) := by
  unfold State.secureOp
  rw [State.inSession_secured hr hx, if_neg (by simp [hidle])]
  rfl

theorem State.infoOp_accepted : Accepted s t (s.infoOp t) 6 0 s.infoBytes := by
  unfold State.infoOp
  rw [State.inSession_secured hr hx, if_neg (by simp [hidle])]
  exact ⟨rfl, rfl, rfl⟩

theorem State.secureOp_accepted (op : Nat) {f : State → State × Nat} (hout : (f s).1.out = s.out) :
    Accepted s t (s.secureOp t op f) op (f s).2 [] := by
  rw [State.secureOp_runs hr hx hidle]
  exact State.operating_accepted t op hout

/-- A vendor-defined request asks for the operation that its first byte names, and that operation is accepted (POLL is none). -/
theorem State.vendorOp_accepted {p : List Byte} (hp : p ≠ [1]) :
    ∃ code bs, Accepted s t (s.vendorOp t p) (leAt p 0 1) code bs := by
  have accepted (op : Nat) {f : State → State × Nat} (hout : (f s).1.out = s.out) :
      ∃ code bs, Accepted s t (s.secureOp t op f) op code bs := ⟨_, _, State.secureOp_accepted hr hx hidle op hout⟩
  unfold State.vendorOp
  dsimp only
  split
  next hop =>
    have hlen : p.length ≠ 1 := by
      intro hlen
      obtain ⟨b, rfl⟩ := List.length_eq_one_iff.mp hlen
      exact hp (congrArg (fun b => [b]) (BitVec.eq_of_toNat_eq (show b.toNat + 256 * 0 = 1 from hop)))
    rw [hop, if_neg hlen]
    exact accepted 1 rfl
  next hop =>
    rw [hop]
    split
    · exact accepted 2 rfl
    · exact accepted 2 (s.stageFw_out _ _)
  next hop =>
    rw [hop]
    split
    · exact accepted 3 rfl
    · exact accepted 3 (State.activateFw_out s.fresh.1 _ _)
  next hop =>
    rw [hop]
    split
    · exact accepted 4 rfl
    · exact accepted 4 (s.enrollKey_out t _ _)
  next hop =>
    rw [hop]
    split
    · exact accepted 5 rfl
    · exact accepted 5 (s.revokeKey_out t _)
  next hop =>
    rw [hop]
    split
    · exact ⟨_, _, State.infoOp_accepted hr hx hidle⟩
    · exact accepted 6 rfl
  next => exact accepted _ rfl

omit hx hidle in
theorem execVendorDefinedRequest_secured {vendor : BitVec 16} (hv : vendor.toNat = s.host.pci.vendor) (p : List Byte) :
    exec (.vendorDefinedRequest t true ⟨vendor, p⟩) s = .next (s.vendorOp t p) :=
  congrArg Host.Outcome.next ((if_neg (by simp [hr])).trans ((if_neg (by simp)).trans (if_neg (not_not.mpr hv))))

end

/-! ### The end of an operation -/

theorem execSecureOperationEnd_running (ha : s.alive = true) {op : Nat} (h : s.sec.running = some op) :
    exec .secureOperationEnd s = .next { s with sec := { s.sec with
      running := none, code := s.sec.pendCode, seqNo := (s.sec.seqNo + 1) % 65536, ready := true } } := by
  refine congrArg Host.Outcome.next ?_
  rw [h]
  exact if_pos ha

/-- Settles O43: each secure operation is accepted in a secured session, and a running one ends. -/
theorem secureOperationsComplete : Obligations.SecureOperationsComplete := by
  refine fun s t => ⟨fun hr hx => ⟨⟨_, rfl, State.pollOp_answers hr hx⟩, fun hidle => ⟨fun off data hl hb => ?stage,
    fun commit v => ?activate, fun slot key hmay hlen hslot => ?enroll, fun slot hmay hslot => ?revoke,
    ⟨_, rfl, State.infoOp_accepted hr hx hidle⟩, fun vendor p hv hp => ?vendor⟩⟩,
    fun op ha h => ⟨_, execSecureOperationEnd_running ha h, rfl, rfl, rfl, rfl⟩⟩
  case stage =>
    obtain ⟨hcode, hread⟩ := s.stageFw_within hl hb
    have hacc := State.operating_accepted t 2 (s.stageFw_out off data)
    rw [hcode] at hacc
    exact ⟨_, congrArg Host.Outcome.next (State.secureOp_runs hr hx hidle 2 _), hacc, hread⟩
  case activate =>
    exact ⟨_, congrArg Host.Outcome.next (State.secureOp_runs hr hx hidle 3 _), State.operating_accepted t 3 (s.activateFw_out _ (some v)), rfl⟩
  case enroll =>
    refine ⟨_, congrArg Host.Outcome.next (State.secureOp_runs hr hx hidle 4 _), ?_⟩
    rw [s.enrollKey_may hmay hlen hslot]
    exact ⟨State.operating_accepted t 4 rfl, rfl⟩
  case revoke =>
    refine ⟨_, congrArg Host.Outcome.next (State.secureOp_runs hr hx hidle 5 _), ?_⟩
    rw [s.revokeKey_may hmay hslot]
    exact ⟨State.operating_accepted t 5 rfl, rfl⟩
  case vendor =>
    obtain ⟨code, bs, hacc⟩ := State.vendorOp_accepted hr hx hidle hp
    exact ⟨_, bs, code, execVendorDefinedRequest_secured hr hv p, hacc⟩

end Sys2Proof.Machine
end

/-!
# The auxiliary port

Commands of the storage controller that end or fail, its link, and its requests to module memory (R434 to R436).
-/
section
namespace Sys2Proof.Machine

open Sys2Proof.Safety

variable {s t u : State}

theorem logged_trans {l m : List (Nat × Nat)} (h : Logged s t l) (k : Logged t u m) : Logged s u (l ++ m) := by
  rw [Logged, k, h, List.append_assoc]

/-- A failure at a destination of the securing point enters events for the log and changes CKP_ERR and the point, and nothing else (R351). -/
structure DestFails (s t : State) : Prop where
  rest : { t with regs := s.regs, sets := s.sets, log := s.log, ckpt := s.ckpt } = s
  logged : ∃ l, Logged s t l
  reg : ∀ a, a ≠ A.ckpErr → t.reg a = s.reg a

theorem DestFails.refl (s : State) : DestFails s s := ⟨rfl, ⟨[], (List.append_nil _).symm⟩, fun _ _ => rfl⟩

theorem DestFails.trans (h : DestFails s t) (k : DestFails t u) : DestFails s u where
  rest := (congrArg (fun w : State => { w with regs := s.regs, sets := s.sets, log := s.log, ckpt := s.ckpt }) k.rest).trans h.rest
  logged := by
    obtain ⟨l, hl⟩ := h.logged
    obtain ⟨m, hm⟩ := k.logged
    exact ⟨l ++ m, logged_trans hl hm⟩
  reg a ha := (k.reg a ha).trans (h.reg a ha)

theorem State.groomEvent_destFails (s : State) (code : Nat) (detail : List Byte) : DestFails s (s.groomEvent code detail) :=
  ⟨rfl, ⟨_, s.event_logged _ _ _ _⟩, fun _ _ => rfl⟩

theorem State.settlePoint_destFails (s : State) : DestFails s s.settlePoint := by
  unfold State.settlePoint
  split
  · split
    · exact ⟨rfl, ⟨[], (List.append_nil _).symm⟩, fun _ _ => rfl⟩
    · exact .refl s
  · exact .refl s

theorem State.setField_destFails (s : State) (hi lo v : Nat) : DestFails s (s.setField A.ckpErr hi lo v) :=
  ⟨rfl, ⟨[], (List.append_nil _).symm⟩, fun _ ha => (State.reg_setField _ _ _ _ _).trans (if_neg ha)⟩

theorem State.setBit_destFails (s : State) (i : Nat) : DestFails s (s.setBit A.ckpErr i) :=
  ⟨rfl, ⟨[], (List.append_nil _).symm⟩, fun _ ha => (State.reg_setBit _ _ _ _).trans (if_neg ha)⟩

theorem State.destFail_destFails (s : State) (d cause : Nat) : DestFails s (s.destFail d cause) := by
  unfold State.destFail
  split
  next p c _ _ =>
    extract_lets t u v
    split
    · exact .refl s
    · have ht : DestFails s t := s.groomEvent_destFails _ _
      have hu : DestFails t u := by
        subst u
        split
        · exact .refl t
        · exact t.setField_destFails _ _ _
      have hw : DestFails v { v with ckpt := { v.ckpt with cur := some { p with failedAt := p.failedAt ++ [d] } } } :=
        ⟨rfl, ⟨[], (List.append_nil _).symm⟩, fun _ _ => rfl⟩
      exact (((ht.trans hu).trans (u.setBit_destFails 31)).trans hw).trans (State.settlePoint_destFails _)
  · exact .refl s

/-! ### Commands that fail (R436) -/

/-- A failed command leaves everything but the log, CKP_ERR, the securing point, and the far pieces and pages that wait for data, of which
none is added. -/
structure NvmeFails (s t : State) : Prop where
  rest : { t with regs := s.regs, sets := s.sets, log := s.log, ckpt := s.ckpt, far := s.far } = s
  logged : ∃ l, Logged s t l
  reg : ∀ a, a ≠ A.ckpErr → t.reg a = s.reg a

theorem NvmeFails.trans (h : NvmeFails s t) (k : NvmeFails t u) : NvmeFails s u where
  rest := (congrArg (fun w : State => { w with regs := s.regs, sets := s.sets, log := s.log, ckpt := s.ckpt, far := s.far }) k.rest).trans
    h.rest
  logged := by
    obtain ⟨l, hl⟩ := h.logged
    obtain ⟨m, hm⟩ := k.logged
    exact ⟨l ++ m, logged_trans hl hm⟩
  reg a ha := (k.reg a ha).trans (h.reg a ha)

theorem NvmeFails.of_far {f : Far} (h : t = { s with far := f }) : NvmeFails s t := by
  subst h
  exact ⟨rfl, ⟨[], (List.append_nil _).symm⟩, fun _ _ => rfl⟩

theorem DestFails.nvmeFails (h : DestFails s t) : NvmeFails s t :=
  ⟨(congrArg (fun w : State => { w with far := s.far }) h.rest :), h.logged, h.reg⟩

theorem NvmeFails.mem (h : NvmeFails s t) {p : Nat × Nat} (hp : p ∈ s.log.held.map fun e => (e.code, e.src)) :
    p ∈ t.log.held.map fun e => (e.code, e.src) := by
  obtain ⟨l, hl⟩ := h.logged
  rw [hl]
  exact List.mem_append_left _ hp

theorem State.nvmeFail_fails (s : State) (c : NvmeCmd) : NvmeFails s (s.nvmeFail c) := by
  have hrefl : NvmeFails s s := .of_far (f := s.far) rfl
  unfold State.nvmeFail
  split
  · exact .of_far rfl
  · split
    · split
      · exact .of_far rfl
      · exact hrefl
    · exact hrefl
  · exact (s.destFail_destFails _ _).nvmeFails
  · exact hrefl

/-- The far piece that a failed command serves waits no more: it gets nothing. -/
theorem State.nvmeFail_far (s : State) {c : NvmeCmd} {i id : Nat} (h : c.use = .far i id) :
    ∀ r ∈ (s.nvmeFail c).far.reads, r.kind = 2 → r.stall = i → r.id ≠ id := by
  intro r hr hkind hstall hid
  unfold State.nvmeFail at hr
  rw [h] at hr
  have := (List.mem_filter.mp hr).2
  simp [hkind, hstall, hid] at this

theorem State.nvmeFailAll_fails (s : State) :
    NvmeFails { s with host := { s.host with nvme := [] } } s.nvmeFailAll :=
  List.foldlRecOn (motive := fun t => NvmeFails { s with host := { s.host with nvme := [] } } t) _ _ (.of_far (f := s.far) rfl)
    fun t ht c _ => ht.trans (t.nvmeFail_fails c)

/-! ### Completions of the controller -/

/-- The state in which the commands of an identifier are no longer in flight. -/
def State.nvmeTaken (s : State) (cid : Nat) : State :=
  { s with host := { s.host with nvme := s.host.nvme.filter fun k => k.cid ≠ cid } }

/-- The detail of E_NVME_ERROR: status, queue, command and block (R436). -/
def NvmeCmd.errorDetail (c : NvmeCmd) (st : BitVec 15) : List Byte :=
  leBytes 2 st.toNat ++ leBytes 2 c.qid ++ leBytes 2 (c.cid % 65536) ++ leBytes 1 c.op ++ zeroBytes 1 ++ leBytes 8 c.lba

section

variable {cid : Nat} {st : BitVec 15} {data : List Byte} {c : NvmeCmd} (hc : (s.host.nvme.find? fun c => c.cid = cid) = some c)
include hc

theorem execNvmeCompletion_fails (hst : st ≠ 0) :
    exec (.nvmeCompletion cid st data) s = .next (((s.nvmeTaken cid).groomEvent Ev.nvmeError (c.errorDetail st)).nvmeFail c) := by
  refine congrArg Host.Outcome.next ?_
  rw [hc]
  exact if_neg hst

theorem execNvmeCompletion_done (hst : st = 0) :
    exec (.nvmeCompletion cid st data) s = .next ((s.nvmeTaken cid).nvmeDone c data) := by
  refine congrArg Host.Outcome.next ?_
  rw [hc]
  exact if_pos hst

/-- A command that completes with an error raises its event, and its far piece gets nothing (R436). -/
theorem nvmeCompletion_error (hst : st ≠ 0) :
    ∃ t, exec (.nvmeCompletion cid st data) s = .next t ∧ t.hbm = s.hbm ∧ t.stalls = s.stalls ∧ t.out = s.out ∧
      t.host.nvme = s.host.nvme.filter (fun k => k.cid ≠ cid) ∧
      (Ev.nvmeError, s.srcGroom) ∈ t.log.held.map (fun e => (e.code, e.src)) ∧
      (∀ i id, c.use = .far i id → ∀ r ∈ t.far.reads, r.kind = 2 → r.stall = i → r.id ≠ id) := by
  have hlog := mem_of_logged ((s.nvmeTaken cid).event_logged Ev.nvmeError s.srcGroom s.cyc (c.errorDetail st)) (List.mem_singleton_self _)
  have hfail := ((s.nvmeTaken cid).groomEvent Ev.nvmeError (c.errorDetail st)).nvmeFail_fails c
  exact ⟨_, execNvmeCompletion_fails hc hst, (congrArg State.hbm hfail.rest :), (congrArg State.stalls hfail.rest :), (congrArg State.out hfail.rest :),
    (congrArg (fun t : State => t.host.nvme) hfail.rest :), hfail.mem hlog, fun i id h => State.nvmeFail_far _ h⟩

/-- A command that ends well fills the far piece that it serves (R436). -/
theorem nvmeCompletion_fills {i id : Nat} {r : FarRead} (hst : st = 0) (huse : c.use = .far i id)
    (hr : (s.far.reads.find? fun r => decide (r.kind = 2 ∧ r.stall = i ∧ r.id = id)) = some r) :
    ∃ t, exec (.nvmeCompletion cid st data) s = .next t ∧ t.hbm = s.hbm ∧ t.out = s.out ∧ t.log = s.log ∧
      t.host.nvme = s.host.nvme.filter (fun k => k.cid ≠ cid) ∧
      ∀ g ∈ (t.stall r.stall).str.flying, g.id = r.id → s.cyc ≤ g.fin → g.data = some (bytesAt data r.addr r.len) := by
  have hdone : (s.nvmeTaken cid).nvmeDone c data = (s.nvmeTaken cid).deliverFar r (bytesAt data r.addr r.len) := by
    unfold State.nvmeDone
    rw [huse]
    dsimp only
    rw [show (s.nvmeTaken cid).far = s.far from rfl, hr]
  exact ⟨_, (execNvmeCompletion_done hc hst).trans (congrArg _ hdone), rfl, rfl, rfl, rfl, (s.nvmeTaken cid).deliverFar_data r _⟩

end

/-! ### The link (R435, R436) -/

/-- The state in which the link has come up or gone down, and the register shows it. -/
def State.auxLink (s : State) (ok : Bool) (v : Nat) : State :=
  ({ s.cross cdcAux 0 with host := { (s.cross cdcAux 0).host with auxUp := ok, auxReady := ok } } : State).setField A.glbAuxStatus 31 30 v

theorem State.auxLink_effect (s : State) (ok : Bool) {v : Nat} (hv : v < 4) :
    Aside s (s.auxLink ok v) ∧ (s.auxLink ok v).out = s.out ∧ (s.auxLink ok v).srcGroom = s.srcGroom ∧
      (s.auxLink ok v).host = { s.host with auxUp := ok, auxReady := ok } ∧ (s.auxLink ok v).field A.glbAuxStatus 31 30 = v ∧
      (s.crossing cdcAux 0 = false → (s.auxLink ok v).log = s.log) ∧ (s.auxLink ok v).reg A.mbxHdb = s.reg A.mbxHdb := by
  have hcross := s.cross_crossed cdcAux 0
  refine ⟨⟨hcross.aside.hbm, hcross.aside.stalls, hcross.aside.barns, hcross.aside.dies⟩, hcross.out,
    (congrArg State.srcGroom hcross.rest :), congrArg (fun h : HostIf => { h with auxUp := ok, auxReady := ok }) hcross.host,
    (State.field_setField_same _ _ _ (by decide) (by decide)).trans (Nat.mod_eq_of_lt hv), fun h => (State.cross_usable h).1, ?_⟩
  exact ((State.reg_setField _ _ _ _ _).trans (if_neg (by decide))).trans (hcross.reg _ (by decide))

theorem execAuxLinkDown_up (hs : s.awake = true) (hup : s.host.auxUp = true) :
    exec .auxLinkDown s = .next ((s.auxLink false 0).groomEvent Ev.auxLinkDown []).nvmeFailAll :=
  congrArg Host.Outcome.next (if_neg (by simp [hs, hup]))

theorem auxLinkDown_effect (hs : s.awake = true) (hup : s.host.auxUp = true) :
    ∃ t, exec .auxLinkDown s = .next t ∧ t.hbm = s.hbm ∧ t.stalls = s.stalls ∧ t.out = s.out ∧
      t.host.auxUp = false ∧ t.host.auxReady = false ∧ t.host.nvme = [] ∧ t.field A.glbAuxStatus 31 30 = 0 ∧
      (Ev.auxLinkDown, s.srcGroom) ∈ t.log.held.map fun e => (e.code, e.src) := by
  obtain ⟨haside, hout, hsrc, hhost, hfield, -, -⟩ := s.auxLink_effect false (v := 0) (by decide)
  have hexec := execAuxLinkDown_up hs hup
  generalize s.auxLink false 0 = u at hexec haside hout hsrc hhost hfield
  have hlog := mem_of_logged (u.event_logged Ev.auxLinkDown u.srcGroom u.cyc []) (List.mem_singleton_self _)
  rw [hsrc] at hlog
  have hfail := (u.groomEvent Ev.auxLinkDown []).nvmeFailAll_fails
  have hend : (u.groomEvent Ev.auxLinkDown []).nvmeFailAll.host = { u.host with nvme := [] } := (congrArg State.host hfail.rest :)
  refine ⟨_, hexec, ((congrArg State.hbm hfail.rest :) : _ = u.hbm).trans haside.hbm,
    ((congrArg State.stalls hfail.rest :) : _ = u.stalls).trans haside.stalls, ((congrArg State.out hfail.rest :) : _ = u.out).trans hout,
    ?_, ?_, ?_, ?_, hfail.mem (by unfold State.groomEvent; rw [hsrc]; exact hlog)⟩
  · rw [hend, hhost]
  · rw [hend, hhost]
  · rw [hend]
  · exact (State.field_of_reg 31 30 (hfail.reg _ (by decide))).trans hfield

theorem execAuxLinkReady_links (ok : Bool) (hs : s.awake = true) :
    exec (.auxLinkReady ok) s = .next (match s.host.nvmeTag with
      | some n => ({ s.auxLink ok (if ok then 3 else 0) with
          host := { (s.auxLink ok (if ok then 3 else 0)).host with nvmeTag := none } } : State).ack n (if ok then 0 else 7)
      | none => s.auxLink ok (if ok then 3 else 0)) := by
  refine congrArg Host.Outcome.next ((if_neg (by simp [hs])).trans ?_)
  have htag : (s.auxLink ok (if ok then 3 else 0)).host.nvmeTag = s.host.nvmeTag :=
    (congrArg HostIf.nvmeTag (s.cross_crossed cdcAux 0).host :)
  rw [← htag]
  rfl

theorem auxReadyField_lt (ok : Bool) : (if ok then 3 else 0) < 4 := by cases ok <;> decide

/-- A link that becomes ready ends an NVME_RESET with code 0, and one that does not with code 7 (R424). -/
theorem auxLinkReady_acks (ok : Bool) {n : Nat} (hs : s.awake = true) (htag : s.host.nvmeTag = some n) (hn : n < 65536)
    (hbell : s.bit A.mbxHdb 0 = false) (hacks : s.host.acks = []) :
    ∃ t, exec (.auxLinkReady ok) s = .next t ∧ Aside s t ∧ t.host.nvmeTag = none ∧ t.host.auxUp = ok ∧ t.host.auxReady = ok ∧
      t.reg A.mbxAck = (if ok then 0 else 7) * 65536 + n ∧ t.bit A.mbxHdb 0 = true := by
  obtain ⟨haside, -, -, hhost, -, -, hreg⟩ := s.auxLink_effect ok (auxReadyField_lt ok)
  have hexec := execAuxLinkReady_links ok hs
  rw [htag] at hexec
  dsimp only at hexec
  generalize s.auxLink ok (if ok then 3 else 0) = u at hexec haside hhost hreg
  have hu : u.bit A.mbxHdb 0 = false := (State.bit_of_reg 0 hreg).trans hbell
  let v : State := { u with host := { u.host with nvmeTag := none } }
  have hvacks : v.host.acks = [] := by
    show u.host.acks = []
    rw [hhost, hacks]
  obtain ⟨hframe, hrest, hack, hset⟩ := State.ack_shown (s := v) n (if ok then 0 else 7) hvacks hu
  have hshown : v.host = { s.host with auxUp := ok, auxReady := ok, nvmeTag := none } :=
    congrArg (fun h : HostIf => { h with nvmeTag := none }) hhost
  have hhostEnd := hframe.host
  rw [hshown] at hhostEnd
  refine ⟨_, hexec, aside_trans (t := v) ⟨haside.hbm, haside.stalls, haside.barns, haside.dies⟩ hframe.aside, (congrArg HostIf.nvmeTag hhostEnd :),
    (congrArg HostIf.auxUp hhostEnd :), (congrArg HostIf.auxReady hhostEnd :), hack.trans ?_, hset⟩
  rw [Nat.mod_eq_of_lt hn]
  cases ok <;> rfl

theorem auxLinkReady_effect (ok : Bool) (hs : s.awake = true) (htag : s.host.nvmeTag = none) :
    ∃ t, exec (.auxLinkReady ok) s = .next t ∧ Aside s t ∧ t.out = s.out ∧ (s.crossing cdcAux 0 = false → t.log = s.log) ∧
      t.host = { s.host with auxUp := ok, auxReady := ok } ∧ t.field A.glbAuxStatus 31 30 = if ok then 3 else 0 := by
  obtain ⟨haside, hout, -, hhost, hfield, hlog, -⟩ := s.auxLink_effect ok (auxReadyField_lt ok)
  have hexec := execAuxLinkReady_links ok hs
  rw [htag] at hexec
  exact ⟨_, hexec, haside, hout, hlog, hhost, hfield⟩

/-! ### Requests to module memory (R434) -/

section

variable {a n : Nat} {bs : List Byte} (hs : s.awake = true) (hup : s.host.auxUp = true)
include hs hup

theorem execAuxDeviceMemoryRequest_write :
    exec (.auxDeviceMemoryRequest a n (some bs)) s =
      .next (if 2 ^ 41 < a + bs.length then s.emit .auxUnsupported else s.writeMem a s.cyc bs false) :=
  congrArg Host.Outcome.next (if_neg (by simp [hs, hup]))

theorem execAuxDeviceMemoryRequest_read :
    exec (.auxDeviceMemoryRequest a n none) s = .next (if 2 ^ 41 < a + n then s.emit .auxUnsupported
      else (s.readFree a n s.cyc).1.emit (.auxData (s.readFree a n s.cyc).2)) :=
  congrArg Host.Outcome.next (if_neg (by simp [hs, hup]))

end

/-- Bytes none of which is marked are read as they are, whatever stands for those that are. -/
theorem map_zipIdx_of_not_marked {bs : List Byte} {ls : List Bool} (f : Nat → Byte) (h : ls.any id = false) (hl : ls.length = bs.length) :
    ((bs.zip ls).zipIdx.map fun p => if p.1.2 then f p.2 else p.1.1) = bs := by
  have hfst : ((bs.zip ls).zipIdx.map fun p => if p.1.2 then f p.2 else p.1.1) = (bs.zip ls).zipIdx.map fun p => p.1.1 := by
    refine List.map_congr_left fun p hp => if_neg ?_
    have hmem : p.1 ∈ bs.zip ls := by simpa using (List.mem_zipIdx' hp).2 ▸ List.getElem_mem _
    have := List.any_eq_false.mp h p.1.2 (List.of_mem_zip hmem).2
    simpa using this
  have hproj : ((bs.zip ls).zipIdx.map fun p => p.1.1) = ((bs.zip ls).zipIdx.map Prod.fst).map Prod.fst := List.map_map.symm
  rw [hfst, hproj, List.zipIdx_map_fst, List.map_fst_zip (by omega)]

/-- A read of bytes none of which is marked gives those bytes. -/
theorem State.readFree_unmarked {a n x : Nat} (h : (s.readMarked a n x).2.2.any id = false)
    (hl : (s.readMarked a n x).2.2.length = (s.readMarked a n x).2.1.length) : (s.readFree a n x).2 = (s.readMarked a n x).2.1 :=
  map_zipIdx_of_not_marked _ h hl

theorem auxDeviceMemoryRequest_reads {a n : Nat} (hs : s.awake = true) (hup : s.host.auxUp = true) (hin : a + n ≤ 2 ^ 41) :
    ∃ t, exec (.auxDeviceMemoryRequest a n none) s = .next t ∧ t.hbm = s.hbm ∧ t.stalls = s.stalls ∧
      ((s.readMarked a n s.cyc).2.2.any id = false → (s.readMarked a n s.cyc).2.2.length = (s.readMarked a n s.cyc).2.1.length →
        t.out = s.out ++ [.auxData (s.readMarked a n s.cyc).2.1]) := by
  have hread := s.readMarked_read a n s.cyc
  refine ⟨_, (execAuxDeviceMemoryRequest_read hs hup).trans (congrArg _ (if_neg (not_lt.mpr hin))), hread.hbm,
    (congrArg State.stalls hread.rest :), fun hm hl => ?_⟩
  have hout : (s.readFree a n s.cyc).1.out = s.out := (congrArg State.out hread.rest :)
  rw [State.emit_out, hout, State.readFree_unmarked hm hl]

/-- Settles O46: the controller's commands, the auxiliary link, and the requests to module memory. -/
theorem auxiliaryPort : Obligations.AuxiliaryPort := by
  refine fun s => ⟨fun cid st data c hc => ⟨fun hst => nvmeCompletion_error hc hst,
      fun i id r hst huse hr => nvmeCompletion_fills hc hst huse hr⟩,
    fun hs => ⟨fun hup => auxLinkDown_effect hs hup, fun ok htag => auxLinkReady_effect ok hs htag,
      fun ok n htag hn hbell hacks => auxLinkReady_acks ok hs htag hn hbell hacks, fun hup a n bs => ⟨fun h => ?_, fun h => ?_, fun h => ?_,
        fun h => auxDeviceMemoryRequest_reads hs hup h⟩⟩⟩
  · exact (execAuxDeviceMemoryRequest_write hs hup).trans (congrArg _ (if_pos h))
  · exact (execAuxDeviceMemoryRequest_read hs hup).trans (congrArg _ (if_pos h))
  · exact (execAuxDeviceMemoryRequest_write hs hup).trans (congrArg _ (if_neg (not_lt.mpr h)))

end Sys2Proof.Machine
end

/-!
# The authority token

What the pass of the token and an inconsistent token do (R454, R455).
-/
section
namespace Sys2Proof.Machine

open Sys2Proof.Safety

variable {s t u : State}

/-! ### FAULT -/

/-- RUNs and requests that end on the way into FAULT: beside `Ends`, the log grows, the RUNs queued stay as they are, and no request is
added. -/
structure Flushes (s t : State) : Prop extends Ends s t where
  logged : ∃ l, Logged s t l
  runs : t.host.runs = s.host.runs
  reqs : s.host.reqs = [] → t.host.reqs = []

theorem logged_refl (s : State) : ∃ l, Logged s s l := ⟨[], (List.append_nil _).symm⟩

theorem Flushes.refl (s : State) : Flushes s s := ⟨.refl s, logged_refl s, rfl, id⟩

theorem Flushes.trans (h : Flushes s t) (k : Flushes t u) : Flushes s u where
  toEnds := h.toEnds.trans k.toEnds
  logged := by
    obtain ⟨l, hl⟩ := h.logged
    obtain ⟨m, hm⟩ := k.logged
    exact ⟨l ++ m, logged_trans hl hm⟩
  runs := k.runs.trans h.runs
  reqs hs := k.reqs (h.reqs hs)

theorem Flushes.foldl {α : Type} {f : State → α → State} (l : List α) (h : Flushes s t) (hf : ∀ x a, Flushes x (f x a)) :
    Flushes s (l.foldl f t) :=
  List.foldlRecOn (motive := Flushes s) l f h fun x hx a _ => hx.trans (hf x a)

theorem State.refuse_flushes (s : State) (e : Entry) (code cause : Nat) : Flushes s (s.refuse e code cause) :=
  ⟨s.refuse_ends e code cause, ⟨_, s.event_logged _ _ _ _⟩, rfl, id⟩

theorem State.refuseRun_flushes (s : State) (q : RunEntry) (cause : Nat) : Flushes s (s.refuseRun q cause) :=
  ⟨s.refuseRun_ends q cause, ⟨_, s.event_logged _ _ _ _⟩, rfl, id⟩

theorem State.failReq_flushes (s : State) (q : Request) (code : Nat) : Flushes s (s.failReq q code) := by
  refine ⟨s.failReq_ends q code, ?_, ?_, ?_⟩
  · unfold State.failReq
    split
    · exact logged_refl s
    · exact ⟨[], by rw [Logged, (State.reply_sent _ _ _ _ _).log]; exact (List.append_nil _).symm⟩
  · unfold State.failReq
    split
    · rfl
    · rw [(State.reply_sent _ _ _ _ _).host]
      rfl
  · intro hs
    have hdrop : (s.dropReq q.id).host.reqs = [] := by
      show s.host.reqs.filter _ = []
      rw [hs]
      rfl
    unfold State.failReq
    split
    · exact hdrop
    · rw [(State.reply_sent _ _ _ _ _).host]
      exact hdrop

/-- On the way into FAULT everything queued ends, the mode changes, and nothing else but the log, ports and what has been sent (R455). -/
theorem State.enterFault_flushes (s : State) :
    Flushes { s with boot := { s.boot with mode := .fault }, host := { s.host with runs := [], reqs := [] } } s.enterFault := by
  unfold State.enterFault
  refine Flushes.foldl _ (Flushes.foldl _ (.refl _) fun w q => w.refuseRun_flushes q 12) fun w q => ?_
  split
  · exact w.refuse_flushes _ _ _
  · exact w.failReq_flushes _ _

/-! ### The token -/

/-- Whether the pass waits for a closing margin that comes. -/
def State.passWaits (s : State) : Bool := s.boot.image.isSome && (s.shot.begun || s.shot.epoch.isSome)

/-- The state in which the token has passed. -/
def State.tokenGiven (s : State) : State :=
  { s.groomEvent Ev.authTransfer [] with
    boot := { s.boot with token := 0b10, takeover := s.passWaits, primaryGe := s.boot.primaryGe || !s.passWaits } }

/-- The state after the pass of the token, but for the host's doorbell: a shot in its closing margin fails. -/
def State.tokenPassed (s : State) : State :=
  { s.tokenGiven with
    shot := if s.shot.begun && s.shot.margin && s.shot.fail.isNone then
        { s.shot with fail := some ⟨s.cyc, Ev.authTransfer, s.tokenGiven.srcGroom⟩ }
      else s.shot }

theorem State.passToken_passes (h : s.boot.token = 0b01) : s.passToken = s.tokenPassed.doorbell 5 := by
  unfold State.passToken State.tokenPassed
  rw [if_neg (not_not.mpr h)]
  refine congrArg (State.doorbell · 5) ?_
  show (if (s.shot.begun && s.shot.margin && s.shot.fail.isNone) = true then _ else _) = _
  split <;> rfl

theorem State.passToken_stays (h : s.boot.token ≠ 0b01) : s.passToken = s := if_pos h

/-- What a pass of the token has done (R454). -/
def Passed (s t : State) : Prop :=
  t.boot.token = 0b10 ∧ t.bit A.mbxHdb 5 = true ∧ Aside s t ∧ t.boot.image = s.boot.image ∧
    t.boot.mode = s.boot.mode ∧ (s.boot.image = none → t.boot.primaryGe = true) ∧
    (s.boot.image.isSome = true → s.shot.begun = true → t.boot.takeover = true ∧ t.boot.primaryGe = s.boot.primaryGe) ∧
    Logged s t [(Ev.authTransfer, s.srcGroom)]

theorem State.doorbell_bit (s : State) {i : Nat} (hi : i < 32) : (s.doorbell i).bit A.mbxHdb i = true := by
  have hreg : (s.doorbell i).reg A.mbxHdb = (s.setBit A.mbxHdb i).reg A.mbxHdb := congrArg (RegBank.get · A.mbxHdb) (s.doorbell_regs i)
  rw [State.bit_of_reg i hreg]
  exact s.bit_setBit_same _ hi

/-- GW's silence plays no part in what a pass has done. -/
theorem Passed.silenced (h : Passed s t) (silent : Bool) : Passed s { t with boot := { t.boot with gwSilent := silent } } := by
  obtain ⟨htoken, hbell, ⟨hhbm, hstalls, hbarns, hdies⟩, himage, hmode, hge, hwaits, hlog⟩ := h
  exact ⟨htoken, hbell, ⟨hhbm, hstalls, hbarns, hdies⟩, himage, hmode, hge, hwaits, hlog⟩

/-- The boot's part after a pass of the token. -/
theorem State.passToken_boot (h : s.boot.token = 0b01) :
    s.passToken.boot = { s.boot with token := 0b10, takeover := s.passWaits, primaryGe := s.boot.primaryGe || !s.passWaits } := by
  rw [State.passToken_passes h]
  exact (congrArg State.boot (s.tokenPassed.doorbell_shows 5).rest :)

theorem State.passToken_passed (h : s.boot.token = 0b01) : Passed s s.passToken := by
  have hboot := State.passToken_boot h
  have hbell := s.tokenPassed.doorbell_shows 5
  have haside : Aside s s.tokenPassed := ⟨rfl, rfl, rfl, rfl⟩
  have hlog : Logged s s.tokenPassed [(Ev.authTransfer, s.srcGroom)] := s.event_logged _ _ _ _
  refine ⟨congrArg Boot.token hboot, ?_, ?_, (congrArg Boot.image hboot :), (congrArg Boot.mode hboot :),
    fun hi => (congrArg Boot.primaryGe hboot).trans (by simp [State.passWaits, hi]),
    fun hi hb => ⟨(congrArg Boot.takeover hboot).trans (by simp [State.passWaits, hi, hb]),
      (congrArg Boot.primaryGe hboot).trans (by simp [State.passWaits, hi, hb])⟩, ?_⟩
  · rw [State.passToken_passes h]
    exact s.tokenPassed.doorbell_bit (by decide)
  · rw [State.passToken_passes h]
    exact aside_trans haside hbell.aside
  · rw [State.passToken_passes h, Logged, ((congrArg State.log hbell.rest :) : _ = s.tokenPassed.log)]
    exact hlog

/-! ### GW's release and its watchdog -/

theorem execGlbAuthRelease_passes {v : Word} (hs : s.awake = true) (hv : natBit v.toNat 31 = true) (hg : s.boot.gwSilent = false) :
    exec (.glbAuthRelease v) s = .next s.passToken := congrArg Host.Outcome.next (if_pos (by simp [hs, hv, hg]))

theorem execGlbAuthRelease_silent {v : Word} (hg : s.boot.gwSilent = true) : exec (.glbAuthRelease v) s = .next s :=
  congrArg Host.Outcome.next (if_neg (by simp [hg]))

theorem execGroomWatchdogExpire_one (found : StartFindings) (hs : s.awake = true) :
    exec (.groomWatchdogExpire false found) s = .next { s.passToken with boot := { s.passToken.boot with gwSilent := true } } :=
  congrArg Host.Outcome.next ((if_neg (by simp [hs])).trans (if_neg (by decide)))

/-! ### An inconsistent token (R455) -/

/-- The state in which an inconsistent token has been recorded. -/
def State.splitFound (s : State) (b : BitVec 2) : State :=
  { s.groomEvent Ev.mgmtSplit [] with boot := { s.boot with split := true, token := b } }

theorem execTokenInconsistent_once (b : BitVec 2) (hs : s.awake = true) :
    exec (.tokenInconsistent b) s =
      .next (if s.boot.split then s else if s.shot.begun then s.splitFound b else (s.splitFound b).enterFault) :=
  congrArg Host.Outcome.next (if_pos hs)

theorem tokenInconsistent_between (b : BitVec 2) (hs : s.awake = true) (hsplit : s.boot.split = false) (hb : s.shot.begun = false) :
    ∃ t, exec (.tokenInconsistent b) s = .next t ∧
      t.boot = { s.boot with split := true, token := b, mode := .fault } ∧ Aside s t ∧ t.host.runs = [] ∧ t.host.reqs = [] ∧
      (Ev.mgmtSplit, s.srcGroom) ∈ t.log.held.map fun e => (e.code, e.src) := by
  have hfault := (s.splitFound b).enterFault_flushes
  have hlog : Logged s (s.splitFound b) [(Ev.mgmtSplit, s.srcGroom)] := s.event_logged _ _ _ _
  obtain ⟨l, hl⟩ := hfault.logged
  exact ⟨(s.splitFound b).enterFault,
    (execTokenInconsistent_once b hs).trans (congrArg _ ((if_neg (by simp [hsplit])).trans (if_neg (by simp [hb])))),
    (congrArg State.boot hfault.rest :),
    ⟨(congrArg State.hbm hfault.rest :), (congrArg State.stalls hfault.rest :), (congrArg State.barns hfault.rest :),
      (congrArg State.dies hfault.rest :)⟩, hfault.runs, hfault.reqs rfl, mem_of_logged (logged_trans hlog hl) (by simp)⟩

/-- Settles O49: the pass of the token by GW's release and by the expiry of its watchdog, and an inconsistent token. -/
theorem authorityToken : Obligations.AuthorityToken := by
  refine fun s hs => ⟨fun v hv hg => ⟨fun h => ⟨s.passToken, execGlbAuthRelease_passes hs hv hg, ?released⟩, fun h => ?kept⟩,
    fun v hg => execGlbAuthRelease_silent hg, fun found => ⟨fun h => ⟨_, execGroomWatchdogExpire_one found hs, (State.passToken_passed h).silenced true,
      rfl⟩, fun h => ?expired⟩, fun b => ⟨fun hsplit => ?again, fun hsplit hb => ?shot, fun hsplit hb => tokenInconsistent_between b hs hsplit hb⟩⟩
  case released =>
    exact ⟨State.passToken_passed h, (congrArg Boot.gwSilent (State.passToken_boot h)).trans hg⟩
  case kept =>
    exact (execGlbAuthRelease_passes hs hv hg).trans (by rw [State.passToken_stays h])
  case expired =>
    exact (execGroomWatchdogExpire_one found hs).trans (by rw [State.passToken_stays h])
  case again =>
    exact (execTokenInconsistent_once b hs).trans (congrArg _ (if_pos hsplit))
  case shot =>
    exact ⟨s.splitFound b, (execTokenInconsistent_once b hs).trans (congrArg _ ((if_neg (by simp [hsplit])).trans (if_pos hb))), rfl,
      ⟨rfl, rfl, rfl, rfl⟩, s.event_logged _ _ _ _⟩

end Sys2Proof.Machine
end

/-!
# Strikes, fences and moves

What a host's fence request and the end of a move's copy do (R215, R455, R473 to R476).
-/
section
namespace Sys2Proof.Machine

open Sys2Proof.Safety

variable {s t u : State} {i : Nat}

/-! ### What leaves a fenced stall fenced -/

/-- `t` has the fence list of `s`, its HBM, and of stall i whether it is fenced and its logical stall; the log has only grown. -/
structure FenceKept (i : Nat) (s t : State) : Prop where
  hbm : t.hbm = s.hbm
  list : t.safe.fenced = s.safe.fenced
  off : (t.stall i).fenced = (s.stall i).fenced
  logical : (t.stall i).logical = (s.stall i).logical
  logged : ∃ l, Logged s t l

namespace FenceKept

theorem refl (i : Nat) (s : State) : FenceKept i s s := ⟨rfl, rfl, rfl, rfl, logged_refl s⟩

theorem trans (h : FenceKept i s t) (k : FenceKept i t u) : FenceKept i s u where
  hbm := k.hbm.trans h.hbm
  list := k.list.trans h.list
  off := k.off.trans h.off
  logical := k.logical.trans h.logical
  logged := by
    obtain ⟨l, hl⟩ := h.logged
    obtain ⟨m, hm⟩ := k.logged
    exact ⟨l ++ m, logged_trans hl hm⟩

/-- What touches neither stalls, HBM, the fence list nor the log. -/
theorem of_same (hbm : t.hbm = s.hbm) (hlist : t.safe.fenced = s.safe.fenced) (hstalls : t.stalls = s.stalls) (hlog : t.log = s.log) :
    FenceKept i s t := by
  have hstall : t.stall i = s.stall i := congrArg (sget zeroStall · i) hstalls
  exact ⟨hbm, hlist, by rw [hstall], by rw [hstall], [], by rw [Logged, hlog, List.append_nil]⟩

theorem ofShows (h : Shows s t) : FenceKept i s t :=
  .of_same h.aside.hbm (congrArg (fun w : State => w.safe.fenced) h.rest :) h.aside.stalls (congrArg State.log h.rest :)

theorem mem (h : FenceKept i s t) {p : Nat × Nat} (hp : p ∈ s.log.held.map fun e => (e.code, e.src)) :
    p ∈ t.log.held.map fun e => (e.code, e.src) := by
  obtain ⟨l, hl⟩ := h.logged
  rw [hl]
  exact List.mem_append_left _ hp

end FenceKept

theorem State.event_fenceKept (s : State) (i code src x : Nat) (detail : List Byte) : FenceKept i s (s.event code src x detail) :=
  ⟨rfl, rfl, rfl, rfl, _, s.event_logged _ _ _ _⟩

/-- Another stall is changed. -/
theorem State.modStall_ne_fenceKept (s : State) {k : Nat} (f : Stall → Stall) (h : i ≠ k) : FenceKept i s (s.modStall k f) := by
  have hstall : (s.modStall k f).stall i = s.stall i := (State.stall_modStall ..).trans (if_neg h)
  exact ⟨rfl, rfl, congrArg Stall.fenced hstall, congrArg Stall.logical hstall, logged_refl s⟩

/-- A stall's tack memory is changed. -/
theorem State.modStall_tack_fenceKept (s : State) (k : Nat) (f : Tack → Tack) :
    FenceKept i s (s.modStall k fun t => { t with tack := f t.tack }) := by
  by_cases h : i = k
  · have hstall : (s.modStall k fun t => { t with tack := f t.tack }).stall i = { s.stall k with tack := f (s.stall k).tack } :=
      (State.stall_modStall ..).trans (if_pos h)
    subst h
    exact ⟨rfl, rfl, (congrArg Stall.fenced hstall :), (congrArg Stall.logical hstall :), logged_refl s⟩
  · exact s.modStall_ne_fenceKept _ h

/-! ### Copies of moves -/

/-- The state in which the copy of the move m begins in its spare (R475). -/
def State.moveStarted (s : State) (m : StallMove) : State :=
  ({ s with safe := { s.safe with
    moves := s.safe.moves.map fun k => if k.logical = m.logical then { k with started := true } else k } } : State).modStall m.spare
      fun t => { t with tack := t.tack.opened }

/-- Either no copy begins in a barn, or that of one of its moves does. -/
theorem State.startMoves_cases (s : State) (b : Nat) :
    s.startMoves b = s ∨ ∃ m ∈ s.safe.moves, Shows (s.moveStarted m) (s.startMoves b) := by
  unfold State.startMoves
  split
  · exact .inl rfl
  · split
    next m hm => exact .inr ⟨m, List.mem_of_find?_eq_some hm, (State.setBit_shows _ _ _).trans (State.setField_shows _ _ _ _ _)⟩
    · exact .inl rfl

theorem State.moveStarted_fenceKept (s : State) (i : Nat) (m : StallMove) : FenceKept i s (s.moveStarted m) :=
  have hmoves (l : List StallMove) : FenceKept i s { s with safe := { s.safe with moves := l } } := .of_same rfl rfl rfl rfl
  (hmoves _).trans (State.modStall_tack_fenceKept _ m.spare Tack.opened)

theorem State.startMoves_fenceKept (s : State) (i b : Nat) : FenceKept i s (s.startMoves b) := by
  rcases s.startMoves_cases b with h | ⟨m, -, h⟩
  · rw [h]
    exact .refl i s
  · exact (s.moveStarted_fenceKept i m).trans (.ofShows h)

theorem State.leaveDma_fenceKept (s : State) (i k : Nat) : FenceKept i s (s.leaveDma k) := by
  unfold State.leaveDma
  extract_lets b
  split
  · exact .refl i s
  · extract_lets keep d'
    split
    · unfold State.endDma
      extract_lets r w
      have hw : FenceKept i s w := .of_same rfl rfl rfl rfl
      exact hw.trans (w.startMoves_fenceKept i b)
    · have hw : FenceKept i s (s.setBarn b { s.barn b with dma := some d' }) := .of_same rfl rfl rfl rfl
      exact hw.trans (List.foldlRecOn (motive := FenceKept i _) _ _ (.refl i _)
        fun w hw k _ => hw.trans (w.modStall_tack_fenceKept k (Tack.mark · d'.bank true)))

/-! ### Fences -/

/-- A stall that is a spare of its aisle is not in the fence list. -/
theorem State.spare_ne_fenced {j k : Nat} (hi : i ∈ s.safe.fenced) (hk : (s.spares j).head? = some k) : i ≠ k := by
  rintro rfl
  have hmem := List.mem_of_mem_head? hk
  unfold State.spares at hmem
  have := (List.mem_filter.mp hmem).2
  simp [hi] at this

/-- The spare that a logical stall's fence finds is another stall. -/
theorem State.spare_ne_of_logical {j k : Nat} {l : Option Nat} (hi : i ∈ s.safe.fenced)
    (hk : (match l with | some _ => (s.spares j).head? | none => none) = some k) : i ≠ k := by
  cases l with
  | none => cases hk
  | some _ => exact State.spare_ne_fenced hi hk

/-- A stall of the fence list is powered down, its logical stall leaves it, and its fence is entered for the log (R24, R474). -/
theorem State.fenceOne_effect (s : State) {i : Nat} (reason x : Nat) (hi : i ∈ s.safe.fenced) :
    ((s.fenceOne i reason x).stall i).fenced = true ∧ ((s.fenceOne i reason x).stall i).logical = none ∧
      (s.fenceOne i reason x).hbm = s.hbm ∧ (s.fenceOne i reason x).safe.fenced = s.safe.fenced ∧
      (Ev.stallFenced, srcStall i) ∈ (s.fenceOne i reason x).log.held.map fun e => (e.code, e.src) := by
  unfold State.fenceOne
  extract_lets l spare move a b c d e f g
  have hspare : ∀ k, spare = some k → i ≠ k :=
    fun k hk => State.spare_ne_of_logical (l := l) hi hk
  have hb : (b.stall i).fenced = true ∧ (b.stall i).logical = none := by
    have hstall : b.stall i = (a.stall i).powerOff x := (State.stall_modStall ..).trans (if_pos rfl)
    rw [hstall]
    exact ⟨rfl, rfl⟩
  have hkept : b.hbm = s.hbm ∧ b.safe.fenced = s.safe.fenced :=
    have hw : StallsOnly s b := (s.onStall_only _ _ _).trans (a.modStall_only _ _)
    ⟨hw.hbm, (congrArg (fun w : State => w.safe.fenced) hw.rest :)⟩
  clear_value b
  have hd : (Ev.stallFenced, srcStall i) ∈ d.log.held.map fun e => (e.code, e.src) :=
    mem_of_logged (c.event_logged _ _ _ _) (List.mem_singleton_self _)
  have hbd : FenceKept i b d := (b.leaveDma_fenceKept i i).trans (c.event_fenceKept i _ _ _ _)
  clear_value d
  have hdg : FenceKept i d g := by
    have hdf : FenceKept i d f := .of_same rfl rfl rfl rfl
    subst g
    split
    · exact hdf.trans (.of_same rfl rfl rfl rfl)
    · exact hdf
  have hend (v : State) (hv : FenceKept i g v) : (v.stall i).fenced = true ∧ (v.stall i).logical = none ∧ v.hbm = s.hbm ∧
      v.safe.fenced = s.safe.fenced ∧ (Ev.stallFenced, srcStall i) ∈ v.log.held.map fun e => (e.code, e.src) :=
    have hbv := (hbd.trans hdg).trans hv
    ⟨hbv.off.trans hb.1, hbv.logical.trans hb.2, hbv.hbm.trans hkept.1, hbv.list.trans hkept.2, (hdg.trans hv).mem hd⟩
  clear_value g move spare l
  cases l with
  | none => exact hend g (.refl i g)
  | some l =>
    dsimp only
    split
    next k m im _ =>
      have hcarried := g.modStall_ne_fenceKept (fun t => (({ t with
        tack := { t.tack with tag0 := 0xFF, tag1 := 0xFF, pending := false } } : Stall).carry l (im.profileOf l).profile).fillSlots im
          (im.profileOf l).profile) (hspare k rfl)
      refine hend _ (.trans (hcarried.trans ?_) (State.startMoves_fenceKept _ i _))
      exact .of_same rfl rfl rfl rfl
    · refine hend _ (.trans ?_ (State.startMoves_fenceKept _ i _))
      exact .of_same rfl rfl rfl rfl

theorem State.checkReplace_fenceKept (s : State) (i : Nat) : FenceKept i s s.checkReplace := by
  unfold State.checkReplace
  split
  · exact .refl i s
  · let t := s.setBit A.safeStatus 31
    let u := t.groomEvent Ev.replaceRequest []
    have ht : FenceKept i s t := .ofShows (s.setBit_shows _ _)
    have hu : FenceKept i t u := t.event_fenceKept i _ _ _ _
    have hend : FenceKept i (u.doorbell 2) ((u.doorbell 2).emit (.pin pinReplace false)) := .of_same rfl rfl rfl rfl
    exact ((ht.trans hu).trans (.ofShows (u.doorbell_shows 2))).trans hend

/-- The fence of one stall that is not fenced (R474). -/
theorem State.fence_single (s : State) {i reason : Nat} (x : Nat) (hi : i ∉ s.safe.fenced) :
    s.fence [(i, reason)] x =
      ((({ s with safe := { s.safe with fenced := s.safe.fenced ++ [i] } } : State).fenceOne i reason x).checkReplace) := by
  have htodo : ([(i, reason)].filter fun p => !s.safe.fenced.contains p.1) = [(i, reason)] := by simp [hi]
  simp only [State.fence, htodo, List.foldl_cons, List.foldl_nil, State.insertFence, List.map_cons, List.map_nil]

theorem State.fence_effect (s : State) {i reason : Nat} (x : Nat) (hi : i ∉ s.safe.fenced) :
    (s.fence [(i, reason)] x).safe.fenced = s.safe.fenced ++ [i] ∧ ((s.fence [(i, reason)] x).stall i).fenced = true ∧
      ((s.fence [(i, reason)] x).stall i).logical = none ∧ (s.fence [(i, reason)] x).hbm = s.hbm ∧
      (Ev.stallFenced, srcStall i) ∈ (s.fence [(i, reason)] x).log.held.map fun e => (e.code, e.src) := by
  let t : State := { s with safe := { s.safe with fenced := s.safe.fenced ++ [i] } }
  obtain ⟨hoff, hlogical, hhbm, hlist, hlog⟩ := t.fenceOne_effect reason x (i := i) (List.mem_append_right _ (List.mem_singleton_self i))
  have hkept := (t.fenceOne i reason x).checkReplace_fenceKept i
  rw [s.fence_single x hi]
  exact ⟨hkept.list.trans hlist, hkept.off.trans hoff, hkept.logical.trans hlogical, hkept.hbm.trans hhbm, hkept.mem hlog⟩

/-! ### A host's request (R455, R476) -/

/-- The stall that a request names. -/
def fenceNo (v : Word) : Nat := natBits v.toNat 9 7 * 80 + natBits v.toNat 6 0

section

variable {v : Word} (hs : s.awake = true) (hgo : natBit v.toNat 31 = true) (hin : natBits v.toNat 6 0 < 80) (ho : s.fencesOpen = true)
include hs hgo hin ho

theorem execSafeFenceReqGo_asks : exec (.safeFenceReqGo v) s = .next (
    let w := s.writeReg A.safeFenceReq v.toNat
    if fenceNo v ∈ s.safe.fenced then w
    else if s.boot.mode = .run then
      if s.safe.requests.contains (fenceNo v) then w else { w with safe := { w.safe with requests := w.safe.requests ++ [fenceNo v] } }
    else w.fence [(fenceNo v, 1)] w.cyc) := by
  have hw := s.writeReg_shows A.safeFenceReq v.toNat
  have hsafe : (s.writeReg A.safeFenceReq v.toNat).safe = s.safe := (congrArg State.safe hw.rest :)
  have hboot : (s.writeReg A.safeFenceReq v.toNat).boot = s.boot := (congrArg State.boot hw.rest :)
  have hopen : (s.writeReg A.safeFenceReq v.toNat).fencesOpen = true := ((congrArg State.fencesOpen hw.rest :) : _ = s.fencesOpen).trans ho
  refine congrArg Host.Outcome.next ((if_neg (by simp [hs])).trans ?_)
  dsimp only
  rw [hsafe, hboot, hopen, hgo]
  by_cases hmem : fenceNo v ∈ s.safe.fenced
  · rw [if_pos hmem]
    refine if_pos ?_
    have : s.safe.fenced.contains (fenceNo v) = true := by simpa using hmem
    rw [show s.safe.fenced.contains (natBits v.toNat 9 7 * 80 + natBits v.toNat 6 0) = true from this]
    simp
  · rw [if_neg hmem]
    refine if_neg ?_
    have : s.safe.fenced.contains (fenceNo v) = false := by simpa using hmem
    rw [show s.safe.fenced.contains (natBits v.toNat 9 7 * 80 + natBits v.toNat 6 0) = false from this]
    simp [hin]

theorem safeFenceReqGo_fenced (hi : fenceNo v ∈ s.safe.fenced) :
    exec (.safeFenceReqGo v) s = .next (s.writeReg A.safeFenceReq v.toNat) :=
  (execSafeFenceReqGo_asks hs hgo hin ho).trans (congrArg _ (if_pos hi))

/-- In RUN the request is kept once. -/
theorem safeFenceReqGo_waits (hi : fenceNo v ∉ s.safe.fenced) (hm : s.boot.mode = .run) :
    ∃ t, exec (.safeFenceReqGo v) s = .next t ∧ t.stalls = s.stalls ∧ t.log = s.log ∧
      t.safe = if fenceNo v ∈ s.safe.requests then s.safe else { s.safe with requests := s.safe.requests ++ [fenceNo v] } := by
  have hw := s.writeReg_shows A.safeFenceReq v.toNat
  have hsafe : (s.writeReg A.safeFenceReq v.toNat).safe = s.safe := (congrArg State.safe hw.rest :)
  have hlog : (s.writeReg A.safeFenceReq v.toNat).log = s.log := (congrArg State.log hw.rest :)
  have hexec := (execSafeFenceReqGo_asks hs hgo hin ho).trans (congrArg _ ((if_neg hi).trans (if_pos hm)))
  by_cases hreq : fenceNo v ∈ s.safe.requests
  · exact ⟨_, hexec.trans (congrArg _ (if_pos (by simpa using hreq))), hw.aside.stalls, hlog, by rw [if_pos hreq, hsafe]⟩
  · refine ⟨_, hexec.trans (congrArg _ (if_neg (by simpa using hreq))), hw.aside.stalls, hlog, ?_⟩
    rw [if_neg hreq]
    dsimp only
    rw [hsafe]

/-- Outside RUN the stall is fenced at once. -/
theorem safeFenceReqGo_fences (hi : fenceNo v ∉ s.safe.fenced) (hm : s.boot.mode ≠ .run) :
    ∃ t, exec (.safeFenceReqGo v) s = .next t ∧ t.safe.fenced = s.safe.fenced ++ [fenceNo v] ∧ (t.stall (fenceNo v)).fenced = true ∧
      (t.stall (fenceNo v)).logical = none ∧ t.hbm = s.hbm ∧
      (Ev.stallFenced, srcStall (fenceNo v)) ∈ t.log.held.map fun e => (e.code, e.src) := by
  have hw := s.writeReg_shows A.safeFenceReq v.toNat
  have hsafe : (s.writeReg A.safeFenceReq v.toNat).safe = s.safe := (congrArg State.safe hw.rest :)
  have hexec := (execSafeFenceReqGo_asks hs hgo hin ho).trans (congrArg _ ((if_neg hi).trans (if_neg hm)))
  obtain ⟨hlist, hoff, hlogical, hhbm, hlog⟩ :=
    (s.writeReg A.safeFenceReq v.toNat).fence_effect (i := fenceNo v) (reason := 1) (s.writeReg A.safeFenceReq v.toNat).cyc (by rwa [hsafe])
  exact ⟨_, hexec, hlist.trans (by rw [hsafe]), hoff, hlogical, hhbm.trans hw.aside.hbm, hlog⟩

end

/-! ### Strikes -/

theorem strikeDecay_effect {i : StallId} (h : 65536 ≤ (s.stall i.val).aud.quiet) :
    ∃ t, exec (.strikeDecay i) s = .next t ∧ (t.stall i.val).aud.strikes = (s.stall i.val).aud.strikes - 1 ∧
      (t.stall i.val).aud.quiet = (s.stall i.val).aud.quiet - 65536 ∧ (∀ j, j ≠ i.val → t.stall j = s.stall j) ∧ t.log = s.log := by
  let f (t : Stall) : Stall := { t with aud := { t.aud with strikes := t.aud.strikes - 1, quiet := t.aud.quiet - 65536 } }
  have hstall (j : Nat) : (s.modStall i.val f).stall j = if j = i.val then f (s.stall i.val) else s.stall j := State.stall_modStall ..
  have hi := (hstall i.val).trans (if_pos rfl)
  exact ⟨s.modStall i.val f, congrArg Host.Outcome.next (if_neg (not_lt.mpr h)), by simp only [hi, f],
    by simp only [hi, f], fun j hj => (hstall j).trans (if_neg hj), rfl⟩

/-! ### The end of a move's copy (R215, R474) -/

/-- A spare's stall as the copy of the move m leaves it. -/
def Stall.copied (t : Stall) (im : Image) (m : StallMove) : Stall :=
  { t with tack := { (t.tack.rebuild im false m.tag0 m.logical).rebuild im true m.tag1 m.logical with
      active := m.active, pending := m.pending || t.tack.pending, dma := [] } }

/-- The moves when the copy of that of logical stall l has ended. -/
def movesCopied (l : Nat) (ms : List StallMove) : List StallMove := ms.map fun k => if k.logical = l then { k with copied := true } else k

/-- The state in which the copy of the move m has ended, before the next copy of the barn begins. -/
def State.moveCopied (s : State) (im : Image) (m : StallMove) : State :=
  { s.modStall m.spare fun t => t.copied im m with safe := { s.safe with moves := movesCopied m.logical s.safe.moves } }

theorem execMoveCopyDone_copies {l : Fin 576} {m : StallMove} {im : Image} (hc : s.clocked = true) (hi : s.boot.image = some im)
    (hm : (s.safe.moves.find? fun m => decide (m.logical = l.val) && m.started && !m.copied) = some m) :
    ∃ u, exec (.moveCopyDone l) s = .next (u.startMoves (m.spare / 80)) ∧ Shows (s.moveCopied im m) u := by
  refine ⟨if (s.moveCopied im m).safe.moves.any fun k => !k.copied && decide (k.spare / 80 = m.spare / 80) then s.moveCopied im m
    else (s.moveCopied im m).setField (barnReg A.ymTdmaStatus (m.spare / 80)) 31 30 1, congrArg Host.Outcome.next ?_, ?_⟩
  · rw [hm, hi]
    exact if_neg (by simp [hc])
  · split
    · exact .refl _
    · exact State.setField_shows _ _ _ _ _

/-- The moves of logical stall l count as copied. -/
theorem copied_of_mem_movesCopied {l : Nat} {ms : List StallMove} {k : StallMove} (hk : k ∈ movesCopied l ms) (h : k.logical = l) :
    k.copied = true := by
  obtain ⟨m, -, rfl⟩ := List.mem_map.mp hk
  by_cases hm : m.logical = l
  · rw [if_pos hm]
  · rw [if_neg hm] at h
    exact absurd h hm

theorem spare_of_mem_movesCopied {l : Nat} {ms : List StallMove} {k : StallMove} (hk : k ∈ movesCopied l ms) : ∃ m ∈ ms, m.spare = k.spare := by
  obtain ⟨m, hm, rfl⟩ := List.mem_map.mp hk
  refine ⟨m, hm, ?_⟩
  split <;> rfl

/-- What the begin of a barn's next copy leaves: the spare's tack memory is opened, and one move is started. -/
theorem State.startMoves_effect (s : State) (b : Nat) :
    (∀ j, (s.startMoves b).stall j = s.stall j ∨
      ((∃ k ∈ s.safe.moves, k.spare = j) ∧ (s.startMoves b).stall j = { s.stall j with tack := (s.stall j).tack.opened })) ∧
    (∀ k ∈ (s.startMoves b).safe.moves, ∃ m ∈ s.safe.moves, m.logical = k.logical ∧ m.copied = k.copied) ∧
    (s.startMoves b).safe.fenced = s.safe.fenced ∧ (s.startMoves b).hbm = s.hbm ∧ (s.startMoves b).log = s.log := by
  rcases s.startMoves_cases b with h | ⟨m, hm, h⟩
  · rw [h]
    exact ⟨fun j => .inl rfl, fun k hk => ⟨k, hk, rfl, rfl⟩, rfl, rfl, rfl⟩
  · have hstall (j : Nat) : (s.startMoves b).stall j =
        if j = m.spare then { s.stall m.spare with tack := (s.stall m.spare).tack.opened } else s.stall j :=
      (congrArg (fun w : State => w.stall j) h.rest :).trans (State.stall_modStall ..)
    refine ⟨fun j => ?_, fun k hk => ?_, (congrArg (fun w : State => w.safe.fenced) h.rest :), h.aside.hbm, (congrArg State.log h.rest :)⟩
    · by_cases hj : j = m.spare
      · subst hj
        exact .inr ⟨⟨m, hm, rfl⟩, (hstall _).trans (if_pos rfl)⟩
      · exact .inl ((hstall j).trans (if_neg hj))
    · rw [show (s.startMoves b).safe.moves = (s.moveStarted m).safe.moves from (congrArg (fun w : State => w.safe.moves) h.rest :)] at hk
      obtain ⟨q, hq, rfl⟩ := List.mem_map.mp hk
      refine ⟨q, hq, ?_⟩
      split <;> exact ⟨rfl, rfl⟩

/-- The copy of a move has ended: the spare holds the recorded overlays, and another stall changes only where its own copy begins. -/
theorem moveCopyDone_effect {l : Fin 576} {m : StallMove} {im : Image} (hc : s.clocked = true) (himage : s.boot.image = some im)
    (hm : (s.safe.moves.find? fun m => decide (m.logical = l.val) && m.started && !m.copied) = some m) :
    ∃ t, exec (.moveCopyDone l) s = .next t ∧
      (t.stall m.spare).tack.active = m.active ∧ (t.stall m.spare).tack.pending = (m.pending || (s.stall m.spare).tack.pending) ∧
      (t.stall m.spare).tack.bank0 = (((s.stall m.spare).tack.rebuild im false m.tag0 l.val).rebuild im true m.tag1 l.val).bank0 ∧
      (t.stall m.spare).tack.bank1 = (((s.stall m.spare).tack.rebuild im false m.tag0 l.val).rebuild im true m.tag1 l.val).bank1 ∧
      (t.stall m.spare).spd = (s.stall m.spare).spd ∧
      (∀ j, j ≠ m.spare → t.stall j = s.stall j ∨
        ((∃ k ∈ s.safe.moves, k.spare = j) ∧ t.stall j = { s.stall j with tack := (s.stall j).tack.opened })) ∧
      (∀ k ∈ t.safe.moves, k.logical = l.val → k.copied = true) ∧ t.safe.fenced = s.safe.fenced ∧ t.hbm = s.hbm ∧ t.log = s.log := by
  obtain ⟨u, hexec, hshows⟩ := execMoveCopyDone_copies hc himage hm
  have hl : m.logical = l.val := by
    have := List.find?_some hm
    simp only [Bool.and_eq_true, decide_eq_true_eq] at this
    exact this.1.1
  have hstall (j : Nat) : u.stall j = if j = m.spare then (s.stall m.spare).copied im m else s.stall j :=
    (congrArg (fun w : State => w.stall j) hshows.rest :).trans (State.stall_modStall (s := s) m.spare j (Stall.copied · im m))
  have hmoves : u.safe.moves = movesCopied l.val s.safe.moves := hl ▸ (congrArg (fun w : State => w.safe.moves) hshows.rest :)
  obtain ⟨hstalls, hms, hlist, hhbm, hlog⟩ := u.startMoves_effect (m.spare / 80)
  have hspare : (u.stall m.spare) = (s.stall m.spare).copied im m := (hstall _).trans (if_pos rfl)
  have hkept : ∀ st : Stall, st = u.stall m.spare ∨ st = { u.stall m.spare with tack := (u.stall m.spare).tack.opened } →
      st.tack.active = m.active ∧ st.tack.pending = (m.pending || (s.stall m.spare).tack.pending) ∧
      st.tack.bank0 = (((s.stall m.spare).tack.rebuild im false m.tag0 l.val).rebuild im true m.tag1 l.val).bank0 ∧
      st.tack.bank1 = (((s.stall m.spare).tack.rebuild im false m.tag0 l.val).rebuild im true m.tag1 l.val).bank1 ∧
      st.spd = (s.stall m.spare).spd := by
    rw [hspare, ← hl]
    rintro st (rfl | rfl)
    · exact ⟨rfl, rfl, rfl, rfl, rfl⟩
    · exact ⟨rfl, rfl, rfl, rfl, rfl⟩
  obtain ⟨hactive, hpending, hbank0, hbank1, hspd⟩ := hkept _ ((hstalls m.spare).imp id And.right)
  refine ⟨_, hexec, hactive, hpending, hbank0, hbank1, hspd, fun j hj => ?_, fun k hk hkl => ?_,
    hlist.trans (congrArg (fun w : State => w.safe.fenced) hshows.rest :), hhbm.trans hshows.aside.hbm,
    hlog.trans (congrArg State.log hshows.rest :)⟩
  · have huj : u.stall j = s.stall j := (hstall j).trans (if_neg hj)
    rw [← huj]
    refine (hstalls j).imp id fun ⟨⟨k, hk, hks⟩, heq⟩ => ⟨?_, heq⟩
    obtain ⟨q, hq, hqs⟩ := spare_of_mem_movesCopied (hmoves ▸ hk)
    exact ⟨q, hq, hqs.trans hks⟩
  · obtain ⟨q, hq, hql, hqc⟩ := hms k hk
    exact hqc.symm.trans (copied_of_mem_movesCopied (hmoves ▸ hq) (hql.trans hkl))

/-- Settles O24: a strike taken off, a host's fence request, and the end of a move's copy. -/
theorem strikesAndFences : Obligations.StrikesAndFences := by
  refine ⟨fun s => ⟨fun i h => strikeDecay_effect h, fun v hs hgo hin hi ho => ⟨fun hm hreq => ?waits,
    fun hm => safeFenceReqGo_fences hs hgo hin ho hi hm⟩⟩, fun s l m im hc himage hm => moveCopyDone_effect hc himage hm⟩
  case waits =>
    obtain ⟨t, ht, hstalls, hlog, hsafe⟩ := safeFenceReqGo_waits hs hgo hin ho hi hm
    exact ⟨t, ht, hsafe.trans (if_neg hreq), hstalls, hlog⟩

end Sys2Proof.Machine
end

/-!
# A host's fence request

A request that waits is served by the next closing margin (R476).
-/
section
namespace Sys2Proof.Machine

open Sys2Proof.Safety

variable {s t : State}

/-! ### Which stalls a list of fences fences -/

theorem State.mem_insertFence (s : State) (p : Nat × Nat) (l : List (Nat × Nat)) {q : Nat × Nat} (h : q = p ∨ q ∈ l) :
    q ∈ s.insertFence p l := by
  induction l with
  | nil => exact List.mem_singleton.mpr (h.resolve_right List.not_mem_nil)
  | cons r l ih =>
    unfold State.insertFence
    split
    · rcases h with rfl | h
      · exact List.mem_cons_self
      · exact List.mem_cons_of_mem _ h
    · rcases h with rfl | h
      · exact List.mem_cons_of_mem _ (ih (.inl rfl))
      · rcases List.mem_cons.mp h with rfl | h
        · exact List.mem_cons_self
        · exact List.mem_cons_of_mem _ (ih (.inr h))

theorem State.mem_foldl_insertFence (s : State) {l : List (Nat × Nat)} {acc : List (Nat × Nat)} {q : Nat × Nat} (h : q ∈ acc ∨ q ∈ l) :
    q ∈ l.foldl (fun acc p => s.insertFence p acc) acc := by
  induction l generalizing acc with
  | nil => exact h.resolve_right List.not_mem_nil
  | cons p l ih =>
    refine ih ?_
    rcases h with h | h
    · exact .inl (s.mem_insertFence p acc (.inr h))
    · rcases List.mem_cons.mp h with rfl | h
      · exact .inl (s.mem_insertFence q acc (.inl rfl))
      · exact .inr h

/-- Every stall that a list of fences names is fenced after them. -/
theorem State.mem_fence (s : State) {l : List (Nat × Nat)} {i reason : Nat} (x : Nat) (h : (i, reason) ∈ l) :
    i ∈ (s.fence l x).safe.fenced := by
  unfold State.fence
  extract_lets todo safe u
  have hu : i ∈ u.safe.fenced := by
    by_cases hf : i ∈ s.safe.fenced
    · exact List.mem_append_left _ hf
    · refine List.mem_append_right _ (List.mem_map_of_mem (f := Prod.fst) (s.mem_foldl_insertFence (.inr ?_) : (i, reason) ∈ todo))
      exact List.mem_filter.mpr ⟨h, by simp [hf]⟩
  clear_value u todo
  exact (State.checkReplace_keeps ((Keeps.refl u).foldl todo fun w p k => State.fenceOne_keeps k)).fenced i hu

/-- The fences of a margin serve every request (R476). -/
theorem State.marginFences_serves (s : State) (x : Nat) {i : Nat} (hi : i ∈ s.safe.requests) (ho : s.fencesOpen = true) :
    i ∈ (s.marginFences x).safe.fenced := by
  unfold State.marginFences
  extract_lets t struck asked
  have ht : StallsOnly s t := s.eachStall_only _ _
  clear_value t
  have hreq : i ∈ t.safe.requests := by rwa [((congrArg State.safe ht.rest :) : t.safe = s.safe)]
  have hopen : t.fencesOpen = true := (congrArg State.fencesOpen ht.rest).trans ho
  rw [if_neg (by simp [hopen])]
  have hmem : ∃ reason, (i, reason) ∈ struck ++ asked := by
    by_cases hs : (struck.any fun p => p.1 = i) = true
    · obtain ⟨p, hp, hpi⟩ := List.any_eq_true.mp hs
      have hpi : p.1 = i := by simpa using hpi
      exact ⟨p.2, List.mem_append_left _ (hpi ▸ hp)⟩
    · exact ⟨1, List.mem_append_right _ (List.mem_map.mpr ⟨i, List.mem_filter.mpr ⟨hreq, by rw [Bool.eq_false_of_not_eq_true hs]; rfl⟩, rfl⟩)⟩
  obtain ⟨reason, hmem⟩ := hmem
  exact State.mem_fence _ x hmem

theorem ShotWork.requests (h : ShotWork s t) : t.safe.requests = s.safe.requests := (congrArg Safe.requests h.safe :)

/-- The margin's work serves every request. -/
theorem State.marginWork_serves (s : State) (x : Nat) {i : Nat} (hi : i ∈ s.safe.requests) (ho : s.fencesOpen = true) :
    i ∈ (s.marginWork x).safe.fenced := by
  unfold State.marginWork
  extract_lets a b c d e f g h k l
  have ha : ShotWork s a := by
    subst a
    split
    · split
      · exact s.abortShot_work _
      · exact .refl s
    · exact .refl s
  have hd : ShotWork s d := ((ha.trans (.ofStalls (a.syncAll_only _))).trans (b.marginStreams_work x)).trans (c.watchdog_work x)
  have he : ShotWork s e := by
    subst e
    split
    · exact hd.trans (d.abortShot_work _)
    · exact hd
  clear_value e
  have hf : ShotWork s f := he.trans (.ofStalls (e.eachStall_only _ _))
  clear_value f
  have hreq : i ∈ f.safe.requests := by rwa [hf.requests]
  have hg : i ∈ g.safe.fenced := by
    subst g
    exact f.marginFences_serves x hreq (hf.fencesOpen.trans ho)
  clear_value g
  have hh : Keeps g h := State.marginSwitches_keeps (.refl g)
  clear_value h
  have hk : Keeps g k := State.applyWindows_keeps (State.applyFar_keeps hh)
  clear_value k
  have hl : Keeps g l := State.takeOver_keeps (State.journalHeader_keeps hk)
  exact hl.fenced i hg

theorem closingMargin_serves {i : Nat} (hi : i ∈ s.safe.requests) (hb : s.shot.begun = true) (hm : s.shot.margin = false)
    (ho : s.fencesOpen = true) : ∃ t, exec .closingMargin s = .next t ∧ i ∈ t.safe.fenced := by
  have hserved : i ∈ ((s.at_ s.marginAt).marginWork s.marginAt).safe.fenced :=
    (s.at_ s.marginAt).marginWork_serves s.marginAt hi ho
  refine ⟨_, execClosingMargin_begun hb hm, ?_⟩
  split
  · exact (State.doRelease_keeps (.refl _)).fenced i hserved
  · exact hserved

/-- Settles O60: a host's request of a fenced stall, in RUN, and otherwise; and the margin that serves it. -/
theorem hostFences : Obligations.HostFences := by
  refine fun s => ⟨fun v hs hgo hin ho => ⟨fun hi => safeFenceReqGo_fenced hs hgo hin ho hi, fun hi hm => ?waits, fun hi hm => ?fences⟩,
    fun i hi hb hm ho => closingMargin_serves hi hb hm ho⟩
  case waits =>
    obtain ⟨t, ht, hstalls, -, hsafe⟩ := safeFenceReqGo_waits hs hgo hin ho hi hm
    refine ⟨t, ht, ?_, ?_, hstalls⟩
    · rw [hsafe]
      split
      · assumption
      · exact List.mem_append_right _ (List.mem_singleton_self _)
    · rw [hsafe]
      split <;> rfl
  case fences =>
    obtain ⟨t, ht, hlist, hoff, -, -, hlog⟩ := safeFenceReqGo_fences hs hgo hin ho hi hm
    exact ⟨t, ht, hlist ▸ List.mem_append_right _ (List.mem_singleton_self _), hoff, hlog⟩

end Sys2Proof.Machine
end

/-!
# Measured energy and the sideband

An energy interval, the clearing of the peak (R494, R506), and what the sideband answers (R505).
-/
section
namespace Sys2Proof.Machine

open Sys2Proof.Safety

variable {s : State} {nj : Nat}

/-- A field keeps its value when another field of its register is written. -/
theorem State.field_setField_disjoint (s : State) (a v : Nat) {hi lo top bottom : Nat} (h : lo ≤ hi) (h' : bottom ≤ top) (h32 : top < 32)
    (hd : hi < bottom ∨ top < lo) : (s.setField a hi lo v).field a top bottom = s.field a top bottom :=
  natBits_congr h' fun i hlo hhi => (s.bit_setField a v h (by omega)).trans (if_neg (by omega))

/-- A field keeps its value when another field of its register counts. -/
theorem State.field_bump_disjoint (s : State) (a k : Nat) {hi lo top bottom : Nat} (h : lo ≤ hi) (h' : bottom ≤ top) (h32 : top < 32)
    (hd : hi < bottom ∨ top < lo) : (s.bump a hi lo k).field a top bottom = s.field a top bottom :=
  natBits_congr h' fun i hlo hhi => s.bit_bump a k h (by omega) (by omega)

/-! ### Failures of a shot -/

theorem State.failShot_rest (s : State) (x code src : Nat) :
    { s.failShot x code src with shot := s.shot } = s ∧ { (s.failShot x code src).shot with fail := s.shot.fail } = s.shot := by
  unfold State.failShot
  split
  · exact ⟨rfl, rfl⟩
  · split
    · split
      · exact ⟨rfl, rfl⟩
      · exact ⟨rfl, rfl⟩
    · exact ⟨rfl, rfl⟩

theorem State.failEvent_effect (s : State) (code src x : Nat) (detail : List Byte) :
    { s.failEvent code src x detail with log := s.log, shot := s.shot } = s ∧
      { (s.failEvent code src x detail).shot with fail := s.shot.fail } = s.shot ∧
      Logged s (s.failEvent code src x detail) [(code, src)] := by
  obtain ⟨hrest, hshot⟩ := (s.event code src x detail).failShot_rest x code src
  have hlog : (s.failEvent code src x detail).log = (s.event code src x detail).log := (congrArg State.log hrest :)
  refine ⟨(congrArg (fun w : State => { w with log := s.log }) hrest :), hshot, ?_⟩
  rw [Logged, hlog]
  exact s.event_logged _ _ _ _

/-! ### Energy intervals (R494) -/

/-- The budget of the image, or 0. -/
def State.energyBudget (s : State) : Nat := match s.boot.image with | some im => im.power.budget | none => 0

/-- Intervals above budget in a row, with one of `nj`. -/
def State.energyRun (s : State) (nj : Nat) : Nat :=
  if s.boot.image.isSome = true ∧ s.energyBudget * 1024 < nj then s.power.runAbove + 1 else 0

/-- The power of an interval in its register's unit. -/
def pinOf (nj : Nat) : Nat := min 0xFFFF (nj / 1024)

/-- The state in which an interval has been recorded. -/
def State.energyTaken (s : State) (nj : Nat) : State :=
  let t := (s.setField A.pwrPin 15 0 (pinOf nj)).setField A.pwrPin 31 16 (max (s.field A.pwrPin 31 16) (pinOf nj))
  ({ t with
    power := { t.power with runAbove := s.energyRun nj, recent := (nj :: s.power.recent).take 9765 }
    shot := { t.shot with measured := if s.shot.begun then s.shot.measured + nj else s.shot.measured } } : State).setField
      A.pwrAbove 15 0 (min 0xFFFF (s.energyRun nj))

theorem execEnergyInterval_takes (hs : s.awake = true) :
    exec (.energyInterval nj) s = .next (if 4800 * 1024 < nj ∨ s.energyRun nj = 9766 then (s.energyTaken nj).excursion
      else (s.energyTaken nj).coolDown s.energyBudget) := by
  have hrun : (if (s.boot.image.isSome && decide (s.energyBudget * 1024 < nj)) = true then s.power.runAbove + 1 else 0) = s.energyRun nj :=
    if_congr (by simp) rfl rfl
  refine congrArg Host.Outcome.next ((if_neg (by simp [hs])).trans ?_)
  unfold State.energyTaken
  rw [← hrun]
  rfl

theorem State.energyTaken_rest (s : State) (nj : Nat) :
    { s.energyTaken nj with regs := s.regs, power := s.power, shot := s.shot } = s ∧
      (s.energyTaken nj).power = { s.power with runAbove := s.energyRun nj, recent := (nj :: s.power.recent).take 9765 } ∧
      (s.energyTaken nj).shot = { s.shot with measured := if s.shot.begun then s.shot.measured + nj else s.shot.measured } :=
  ⟨rfl, rfl, rfl⟩

/-- The closing margin does not move with an interval. -/
theorem State.energyTaken_marginAt (s : State) (nj : Nat) : (s.energyTaken nj).marginAt = s.marginAt := by
  have hreg : (s.energyTaken nj).reg A.glbShotPeriod = s.reg A.glbShotPeriod :=
    ((State.reg_setField _ _ _ _ _).trans (if_neg (by decide))).trans (((State.reg_setField _ _ _ _ _).trans (if_neg (by decide))).trans
      ((State.reg_setField _ _ _ _ _).trans (if_neg (by decide))))
  exact congrArg (fun n => s.shot.begin_ + 7 * n - 512) (State.field_of_reg 25 0 hreg)

theorem pinOf_lt (nj : Nat) : pinOf nj < 2 ^ 16 := by
  unfold pinOf
  omega

/-- What the registers show of an interval. -/
theorem State.energyTaken_regs (s : State) (nj : Nat) :
    (s.energyTaken nj).field A.pwrPin 15 0 = pinOf nj ∧
      (s.energyTaken nj).field A.pwrPin 31 16 = max (s.field A.pwrPin 31 16) (pinOf nj) ∧
      (s.energyTaken nj).field A.pwrAbove 15 0 = min 0xFFFF (s.energyRun nj) := by
  have hpeak : max (s.field A.pwrPin 31 16) (pinOf nj) < 2 ^ 16 := max_lt (natBits_lt _ 31 16) (pinOf_lt nj)
  have hpin : (s.energyTaken nj).reg A.pwrPin =
      ((s.setField A.pwrPin 15 0 (pinOf nj)).setField A.pwrPin 31 16 (max (s.field A.pwrPin 31 16) (pinOf nj))).reg A.pwrPin :=
    (State.reg_setField _ _ _ _ _).trans (if_neg (by decide))
  refine ⟨?_, ?_, ?_⟩
  · rw [State.field_of_reg 15 0 hpin, State.field_setField_disjoint _ _ _ (by decide) (by decide) (by decide) (by decide),
      State.field_setField_same _ _ _ (by decide) (by decide)]
    exact Nat.mod_eq_of_lt (pinOf_lt nj)
  · rw [State.field_of_reg 31 16 hpin, State.field_setField_same _ _ _ (by decide) (by decide)]
    exact Nat.mod_eq_of_lt hpeak
  · refine (State.field_setField_same _ _ _ (by decide) (by decide)).trans (Nat.mod_eq_of_lt ?_)
    omega

/-- An excursion raises its event, fails the shot, shows cool-down and begins it (R494). -/
theorem State.excursion_effect (s : State) :
    Aside s s.excursion ∧ s.excursion.reg A.pwrPin = s.reg A.pwrPin ∧ s.excursion.field A.pwrAbove 15 0 = s.field A.pwrAbove 15 0 ∧
      s.excursion.power = { s.power with cool := true } ∧ s.excursion.shot.measured = s.shot.measured ∧
      s.excursion.bit A.pwrErr 29 = true ∧ s.excursion.bit A.pwrStatus 30 = true ∧ Logged s s.excursion [(Ev.excursion, s.srcGroom)] ∧
      s.excursion.shot = ((s.event Ev.excursion s.srcGroom s.cyc []).failShot s.cyc Ev.excursion s.srcGroom).shot := by
  obtain ⟨hrest, hshot, hlog⟩ := s.failEvent_effect Ev.excursion s.srcGroom s.cyc []
  unfold State.excursion
  extract_lets t u
  let f := s.failEvent Ev.excursion s.srcGroom s.cyc []
  have hf (a : Nat) : f.reg a = s.reg a := (congrArg (State.reg · a) hrest :)
  have ht (a : Nat) (h : a ≠ A.pwrErr) : t.reg a = s.reg a := ((f.reg_setBit _ _ _).trans (if_neg h)).trans (hf a)
  have hu (a : Nat) (h : a ≠ A.pwrErr) (h' : a ≠ A.pwrAbove) (h'' : a ≠ A.pwrStatus) : u.reg a = s.reg a :=
    (State.reg_putBit_ne _ _ _ h'').trans (((State.reg_setField _ _ _ _ _).trans (if_neg h')).trans (ht a h))
  refine ⟨⟨(congrArg State.hbm hrest :), (congrArg State.stalls hrest :), (congrArg State.barns hrest :), (congrArg State.dies hrest :)⟩,
    hu _ (by decide) (by decide) (by decide), ?_, (congrArg (fun w : State => { w.power with cool := true }) hrest :),
    (congrArg Shot.measured hshot :), ?_, State.bit_putBit_same _ _ (by decide) true, hlog, rfl⟩
  · have habove : u.reg A.pwrAbove = (t.bump A.pwrAbove 31 16 1).reg A.pwrAbove := State.reg_putBit_ne _ _ _ (by decide)
    refine (State.field_of_reg 15 0 habove).trans ((State.field_bump_disjoint _ _ _ (by decide) (by decide) (by decide) (by decide)).trans ?_)
    exact State.field_of_reg 15 0 (ht _ (by decide))
  · have herr : u.reg A.pwrErr = t.reg A.pwrErr :=
      (State.reg_putBit_ne _ _ _ (by decide)).trans ((State.reg_setField _ _ _ _ _).trans (if_neg (by decide)))
    exact (State.bit_of_reg 29 herr).trans (f.bit_setBit_same _ (by decide))

/-- Cool-down ends when the mean of the last intervals is below budget; otherwise nothing happens (R494). -/
theorem State.coolDown_effect (s : State) (budget : Nat) :
    Aside s (s.coolDown budget) ∧ (s.coolDown budget).reg A.pwrPin = s.reg A.pwrPin ∧
      (s.coolDown budget).reg A.pwrAbove = s.reg A.pwrAbove ∧
      (s.coolDown budget).power = { s.power with
        cool := s.power.cool && !decide (s.power.recent.foldl (· + ·) 0 < budget * 1024 * s.power.recent.length) } ∧
      (s.coolDown budget).shot = s.shot ∧ (s.coolDown budget).log = s.log := by
  unfold State.coolDown
  extract_lets l
  split
  next h =>
    obtain ⟨hcool, hbelow⟩ := Bool.and_eq_true_iff.mp h
    refine ⟨⟨rfl, rfl, rfl, rfl⟩, State.reg_putBit_ne _ _ _ (by decide), State.reg_putBit_ne _ _ _ (by decide), ?_, rfl, rfl⟩
    rw [hbelow, hcool]
    rfl
  next h =>
    refine ⟨⟨rfl, rfl, rfl, rfl⟩, rfl, rfl, ?_, rfl, rfl⟩
    have hsame : (s.power.cool && !decide (s.power.recent.foldl (· + ·) 0 < budget * 1024 * s.power.recent.length)) = s.power.cool := by
      cases hcool : s.power.cool with
      | false => rfl
      | true =>
        rw [hcool, Bool.true_and] at h
        rw [Bool.eq_false_of_not_eq_true h]
        rfl
    rw [hsame]

/-- What an energy interval does (R494, R506). -/
theorem energyInterval_effect (hs : s.awake = true) (nj : Nat) :
    ∃ t, exec (.energyInterval nj) s = .next t ∧ Aside s t ∧ t.field A.pwrPin 15 0 = pinOf nj ∧
      t.field A.pwrPin 31 16 = max (s.field A.pwrPin 31 16) (pinOf nj) ∧ t.power.runAbove = s.energyRun nj ∧
      t.power.recent = (nj :: s.power.recent).take 9765 ∧ t.field A.pwrAbove 15 0 = min 0xFFFF (s.energyRun nj) ∧
      t.shot.measured = (if s.shot.begun then s.shot.measured + nj else s.shot.measured) ∧
      (4800 * 1024 < nj ∨ s.energyRun nj = 9766 → t.power.cool = true ∧ t.bit A.pwrErr 29 = true ∧ t.bit A.pwrStatus 30 = true ∧
        Logged s t [(Ev.excursion, s.srcGroom)] ∧
        (s.shot.begun = true → s.shot.margin = false → s.cyc ≤ s.marginAt → s.shot.fail = none →
          t.shot.fail = some ⟨s.cyc, Ev.excursion, s.srcGroom⟩)) ∧
      (nj ≤ 4800 * 1024 → s.energyRun nj ≠ 9766 → t.log = s.log ∧ t.shot.fail = s.shot.fail ∧
        t.power.cool = (s.power.cool && !decide (((nj :: s.power.recent).take 9765).foldl (· + ·) 0 <
          s.energyBudget * 1024 * ((nj :: s.power.recent).take 9765).length))) := by
  obtain ⟨hrest, hpower, hshot⟩ := s.energyTaken_rest nj
  obtain ⟨hpin, hpeak, habove⟩ := s.energyTaken_regs nj
  have hexec := execEnergyInterval_takes (nj := nj) hs
  have haside : Aside s (s.energyTaken nj) := ⟨rfl, rfl, rfl, rfl⟩
  by_cases hex : 4800 * 1024 < nj ∨ s.energyRun nj = 9766
  · obtain ⟨ha, hreg, hfield, hcool, hmeasured, herr, hstatus, hlog, hfail⟩ := (s.energyTaken nj).excursion_effect
    refine ⟨(s.energyTaken nj).excursion, hexec.trans (congrArg _ (if_pos hex)), aside_trans haside ha,
      (State.field_of_reg 15 0 hreg).trans hpin, (State.field_of_reg 31 16 hreg).trans hpeak, (congrArg Power.runAbove hcool :),
      (congrArg Power.recent hcool :), hfield.trans habove, hmeasured, fun _ => ⟨congrArg Power.cool hcool, herr, hstatus, hlog, ?_⟩,
      fun hle hne => absurd hex (by omega)⟩
    intro hb hm hx hnone
    have hmargin : (s.energyTaken nj).marginAt = s.marginAt := s.energyTaken_marginAt nj
    generalize s.energyTaken nj = u at hshot hfail hrest hmargin
    have hcyc : u.cyc = s.cyc := (congrArg State.cyc hrest :)
    have hfailed := State.failShot_shot (s := u.event Ev.excursion u.srcGroom u.cyc []) (x := u.cyc) (code := Ev.excursion) (src := u.srcGroom)
      ((congrArg Shot.begun hshot).trans hb) ((congrArg Shot.margin hshot).trans hm) ((congrArg Shot.fail hshot).trans hnone)
      (hcyc.trans_le (hx.trans_eq hmargin.symm))
    have hsrc : u.srcGroom = s.srcGroom := (congrArg State.srcGroom hrest :)
    rw [hfail, hfailed, hcyc, hsrc]
  · obtain ⟨ha, hreg, hreg', hcool, hsame, hlog⟩ := (s.energyTaken nj).coolDown_effect s.energyBudget
    exact ⟨(s.energyTaken nj).coolDown s.energyBudget, hexec.trans (congrArg _ (if_neg hex)), aside_trans haside ha,
      (State.field_of_reg 15 0 hreg).trans hpin, (State.field_of_reg 31 16 hreg).trans hpeak, (congrArg Power.runAbove hcool :),
      (congrArg Power.recent hcool :), (State.field_of_reg 15 0 hreg').trans habove, congrArg Shot.measured hsame, fun h => absurd h hex,
      fun _ _ => ⟨hlog, (congrArg Shot.fail hsame :), congrArg Power.cool hcool⟩⟩

/-! ### The peak (R506) -/

theorem pwrCtrlPeakClear_effect {v : Word} (hs : s.awake = true) (hv : natBit v.toNat 30 = true) :
    ∃ t, exec (.pwrCtrlPeakClear v) s = .next t ∧ t.field A.pwrPin 31 16 = 0 ∧ t.field A.pwrPin 15 0 = s.field A.pwrPin 15 0 ∧
      { t with regs := s.regs } = s ∧ ∀ k, k ≠ A.pwrPin → t.reg k = s.reg k :=
  ⟨s.setField A.pwrPin 31 16 0, congrArg Host.Outcome.next (if_pos (by simp [hs, hv])),
    State.field_setField_same _ _ _ (by decide) (by decide),
    State.field_setField_disjoint _ _ _ (by decide) (by decide) (by decide) (by decide), rfl,
    fun k hk => (State.reg_setField _ _ _ _ _).trans (if_neg hk)⟩

/-! ### The sideband (R505) -/

theorem execPldmRequest_alive {k : BitVec 8} {i : Nat} (ha : s.alive = true) :
    exec (.pldmRequest k i) s = .next (if k = 0 then s.emit (.pldm 0 0 none)
      else if k = 2 then s.emit (.pldm 2 i (s.sensorReading i)) else s) :=
  congrArg Host.Outcome.next (if_neg (by simp [ha]))

/-- A sensor that is sampled reads its latest valid reading (R497). -/
theorem State.sensorReading_sampled {i : Nat} (hi : i < 160) :
    s.sensorReading i = if (s.sensor i).valid then some (s.sensor i).value else none := by
  have hnone : s.coefficient i = none := (if_neg (by omega)).trans (if_neg (by omega))
  unfold State.sensorReading
  rw [hnone]

/-- Index 192 on of the sensor map shows the calibrated coefficients (R492). -/
theorem State.sensorReading_calibrated {i : Nat} (hi : i < 18) :
    s.sensorReading (192 + i) = some (s.power.calibrated.getD i 0 : Nat) := by
  have hsome : s.coefficient (192 + i) = some (s.power.calibrated.getD (192 + i - 192) 0) := (if_neg (by omega)).trans (if_pos (by omega))
  unfold State.sensorReading
  rw [hsome, Nat.add_sub_cancel_left]
  rfl

theorem dynamicAddressAssignment_effect (a : BitVec 7) (ha : s.alive = true) :
    ∃ t, exec (.dynamicAddressAssignment a) s = .next t ∧ t.power = { s.power with i3c := a.toNat } ∧ Aside s t ∧
      t.host = s.host ∧ t.boot = s.boot ∧ t.out = s.out ∧ (s.crossing cdcSideband 0 = false → t.log = s.log ∧ t.regs = s.regs) := by
  have hcross := s.cross_crossed cdcSideband 0
  exact ⟨_, congrArg Host.Outcome.next (if_neg (by simp [ha])), (congrArg (fun w : State => { w.power with i3c := a.toNat }) hcross.rest :),
    ⟨hcross.aside.hbm, hcross.aside.stalls, hcross.aside.barns, hcross.aside.dies⟩, hcross.host, (congrArg State.boot hcross.rest :),
    hcross.out, State.cross_usable⟩

/-- Settles O51: an energy interval, the clearing of the peak, and the sideband's requests. -/
theorem energyAndSideband : Obligations.EnergyAndSideband := by
  refine fun s => ⟨fun hs nj => energyInterval_effect hs nj, fun v hs hv => pwrCtrlPeakClear_effect hs hv,
    fun ha => ⟨fun i => ⟨?_, ?_, fun hi => State.sensorReading_sampled hi, fun hi => State.sensorReading_calibrated hi⟩, fun k i h0 h2 => ?_,
      fun a => dynamicAddressAssignment_effect a ha⟩⟩
  · exact execPldmRequest_alive ha
  · exact execPldmRequest_alive ha
  · exact (execPldmRequest_alive ha).trans (congrArg _ ((if_neg h0).trans (if_neg h2)))

end Sys2Proof.Machine
end

/-!
# What a reset and a cut lose

What is left of the state when the rails go or the module resets (R450, R482).
-/
section
namespace Sys2Proof.Machine

open Sys2Proof.Safety

variable {s t u : State}

/-! ### Banks rebuilt key by key -/

section

variable {α β : Type} [DecidableEq α] [DecidableEq β] {d : Nat → α} {e : Nat → β}

theorem not_mem_keys {m : Sparse α} {a k : Nat} (hm : swfFrom d (some a) m = true) (hk : k ≤ a) : k ∉ m.map Prod.fst := by
  induction m generalizing a with
  | nil => exact List.not_mem_nil
  | cons p m ih =>
    obtain ⟨b, v⟩ := p
    obtain ⟨hab, -, hm⟩ := swfFrom_cons.mp hm
    have hab : a < b := hab
    exact List.not_mem_cons_of_ne_of_not_mem (by dsimp only; omega) (ih hm (by omega))

omit [DecidableEq α] in
theorem sget_of_not_key {m : Sparse α} {k : Nat} (h : k ∉ m.map Prod.fst) : sget d m k = d k := by
  induction m with
  | nil => rfl
  | cons p m ih =>
    obtain ⟨b, v⟩ := p
    have hne : k ≠ b := List.ne_of_not_mem_cons h
    rw [sget_cons, if_neg hne, ih (List.not_mem_of_not_mem_cons h)]

/-- A canonical bank rebuilt entry by entry reads at each of its keys as its entry there says, elsewhere as what it is built upon. -/
theorem sget_foldl_entries (g : α → β) {m : Sparse α} {lo : Option Nat} (hm : swfFrom d lo m = true) (acc : Sparse β) (k : Nat) :
    sget e (m.foldl (fun acc p => sset e acc p.1 (g p.2)) acc) k = if k ∈ m.map Prod.fst then g (sget d m k) else sget e acc k := by
  induction m generalizing lo acc with
  | nil => rfl
  | cons p m ih =>
    obtain ⟨a, v⟩ := p
    obtain ⟨-, -, hm⟩ := swfFrom_cons.mp hm
    refine (ih hm (sset e acc a (g v))).trans ?_
    rw [sget_cons, sget_sset]
    by_cases hk : k = a
    · have hnot : a ∉ m.map Prod.fst := not_mem_keys hm le_rfl
      subst hk
      rw [if_neg hnot, if_pos rfl, if_pos rfl, if_pos (by simp)]
    · rw [if_neg hk, if_neg hk]
      exact if_congr (by simp [hk]) rfl rfl

/-- A canonical bank rebuilt entry by entry reads everywhere as its entries say, where an unlisted key is said alike. -/
theorem sget_rebuilt (g : α → β) (hg : ∀ k, g (d k) = e k) {m : Sparse α} (hm : swf d m = true) (k : Nat) :
    sget e (m.foldl (fun acc p => sset e acc p.1 (g p.2)) []) k = g (sget d m k) := by
  rw [sget_foldl_entries g hm [] k]
  split
  · rfl
  next h => rw [sget_of_not_key h, hg]; rfl

/-- A bank given one value at every key of a list. -/
theorem sget_foldl_const (v : β) (l : List Nat) (acc : Sparse β) (k : Nat) :
    sget e (l.foldl (fun m i => sset e m i v) acc) k = if k ∈ l then v else sget e acc k := by
  induction l generalizing acc with
  | nil => rfl
  | cons i l ih =>
    refine (ih (sset e acc i v)).trans ?_
    rw [sget_sset]
    by_cases hk : k = i
    · subst hk
      rw [if_pos rfl, if_pos List.mem_cons_self, ite_self]
    · rw [if_neg hk]
      exact if_congr (by simp [hk]) rfl rfl

end

/-! ### What is kept -/

/-- A port after a reset: its cable alone is as before. -/
def Port.unplugged (v : Port) : Port := { Port.reset with cable := v.cable }

/-- What a reset keeps, with the core cycle and the offset of the time count after it. -/
def State.lostAt (s : State) (mode : Mode) (x off : Nat) : State :=
  ({ State.reset with
    pending := s.pending
    cyc := x
    off := off
    stalls := s.safe.fenced.foldl (fun m i => sset zeroStall m i (Stall.reset.powerOff 0)) []
    shot := { Shot.reset with ownFrom := x }
    train := { Train.reset with diverged := s.train.diverged || !s.train.passes.isEmpty }
    safe := { Safe.reset with fenced := s.safe.fenced }
    fab := { Fab.reset with ports := s.fab.ports.foldl (fun m p => sset zeroPort m p.1 { Port.reset with cable := p.2.cable }) [] }
    flash := { s.flash with staging := false }
    boot := { Boot.reset with mode := mode }
    power := { Power.reset with
      pwrEn := s.power.pwrEn
      lowSince := s.power.lowSince
      latch := s.power.latch
      locked := s.power.locked
      vin := s.power.vin
      faults := s.power.faults
      calibrated := s.power.calibrated }
    free := s.free
    out := s.out } : State).setField A.safeStatus 9 0 s.safe.fenced.length

/-- The core cycle after a reset: the next multiple of 7 times 524,288. -/
def lostCyc (x : Nat) : Nat := (x + 3670015) / 3670016 * 3670016

/-- The offset with which the time count stands at 0 in core cycle x. -/
def zeroOff (x : Nat) : Nat := (2 ^ 64 - x / 7 % 2 ^ 64) % 2 ^ 64

theorem State.lost_eq (s : State) (mode : Mode) : s.lost mode = s.lostAt mode (lostCyc s.cyc) (zeroOff (lostCyc s.cyc)) := rfl

theorem le_lostCyc (x : Nat) : x ≤ lostCyc x := by
  unfold lostCyc
  omega

/-- What a reset keeps of `s` in `t`, the rest as after reset (R450): fence list, keys and cables; fenced stalls are powered down, and a
module whose update passes are cut is diverged. -/
structure Kept (s t : State) : Prop where
  fenced : t.safe.fenced = s.safe.fenced
  keys : t.flash.keys = s.flash.keys
  hbm : t.hbm = []
  barns : t.barns = []
  image : t.boot.image = none
  shot : t.shot = { Shot.reset with ownFrom := t.cyc }
  train : t.train = { Train.reset with diverged := s.train.diverged || !s.train.passes.isEmpty }
  ckpt : t.ckpt = .reset
  sec : t.sec = .reset
  far : t.far = .reset
  rings : t.host.rings = []
  runs : t.host.runs = []
  entries : t.host.entries = []
  comps : t.host.comps = []
  pending : t.pending = s.pending
  stall : ∀ i, t.stall i = if i ∈ s.safe.fenced then Stall.reset.powerOff 0 else .reset
  port : ∀ p, t.port p = { Port.reset with cable := (s.port p).cable }

theorem State.lostAt_kept (s : State) (mode : Mode) (x off : Nat) (hp : swf zeroPort s.fab.ports = true) : Kept s (s.lostAt mode x off) where
  fenced := rfl
  keys := rfl
  hbm := rfl
  barns := rfl
  image := rfl
  shot := rfl
  train := rfl
  ckpt := rfl
  sec := rfl
  far := rfl
  rings := rfl
  runs := rfl
  entries := rfl
  comps := rfl
  pending := rfl
  stall i := sget_foldl_const (Stall.reset.powerOff 0) s.safe.fenced [] i
  port p := sget_rebuilt Port.unplugged (fun _ => rfl) hp p

theorem State.lost_kept (s : State) (mode : Mode) (hp : swf zeroPort s.fab.ports = true) : Kept s (s.lost mode) := by
  rw [State.lost_eq]
  exact s.lostAt_kept mode _ _ hp

end Sys2Proof.Machine
end

/-!
# Cuts, sensors and HOLD

Cuts and the input (R481, R482), samples of the sensors and what they bring about (R497 to R500), the stop of the clocks and its end (R487 to
R489), and the clearing of the power stage's faults (R505).
-/
section
namespace Sys2Proof.Machine

open Sys2Proof.Safety

variable {s t u : State}

/-! ### Cuts (R482, R500) -/

/-- The state after a cut of cause c. -/
def State.cutOff (t : State) (c : Nat) : State :=
  { t with power := { t.power with latch := c, locked := true, faults := orBit t.power.faults c } }

theorem State.cut_cuts {c : Nat} (ha : s.alive = true) (h1 : 1 ≤ c) (h6 : c ≤ 6) :
    s.cut c = (s.lostAt .standby (lostCyc s.cyc) (zeroOff (lostCyc s.cyc))).cutOff c :=
  if_neg (by simp [ha]; omega)

theorem State.cut_idle {c : Nat} (h : c = 0 ∨ 6 < c ∨ s.alive = false) : s.cut c = s := by
  refine if_pos ?_
  rcases h with h | h | h <;> simp [h]

/-- What is left after a cut, whatever the core cycle and the time count. -/
theorem State.lostAt_cutOff (s : State) (x off c : Nat) : let t := (s.lostAt .standby x off).cutOff c
    t.boot.mode = .standby ∧ t.power.latch = c ∧ t.power.locked = true ∧ t.hbm = [] ∧ t.safe.fenced = s.safe.fenced ∧
      t.flash.keys = s.flash.keys ∧ t.out = s.out := ⟨rfl, rfl, rfl, rfl, rfl, rfl, rfl⟩

theorem powerCut_effect {c : BitVec 4} (h1 : 1 ≤ c.toNat) (h6 : c.toNat ≤ 6) (ha : s.alive = true) :
    ∃ t, exec (.powerCut c) s = .next t ∧ t.boot.mode = .standby ∧ t.power.latch = c.toNat ∧ t.power.locked = true ∧ t.hbm = [] ∧
      t.safe.fenced = s.safe.fenced ∧ t.flash.keys = s.flash.keys ∧ t.out = s.out ∧ (c = 6 → exec .analogThermalTrip s = .next t) := by
  have h := s.lostAt_cutOff (lostCyc s.cyc) (zeroOff (lostCyc s.cyc)) c.toNat
  rw [← State.cut_cuts ha h1 h6] at h
  obtain ⟨hmode, hlatch, hlocked, hhbm, hfenced, hkeys, hout⟩ := h
  refine ⟨s.cut c.toNat, rfl, hmode, hlatch, hlocked, hhbm, hfenced, hkeys, hout, ?_⟩
  rintro rfl
  rfl

theorem powerCut_idle {c : BitVec 4} (h : c = 0 ∨ 6 < c.toNat ∨ s.alive = false) : exec (.powerCut c) s = .next s :=
  congrArg Host.Outcome.next (State.cut_idle (h.imp (congrArg BitVec.toNat ·) id))

theorem clearFaults_effect (s : State) :
    ∃ t, exec .clearFaults s = .next t ∧ t.power = { s.power with faults := 0 } ∧ Aside s t ∧ t.host = s.host ∧ t.boot = s.boot ∧
      t.out = s.out ∧ (s.crossing cdcPmbus 0 = false → t.log = s.log ∧ t.regs = s.regs) := by
  have hcross := s.cross_crossed cdcPmbus 0
  exact ⟨_, rfl, (congrArg (fun w : State => { w.power with faults := 0 }) hcross.rest :),
    ⟨hcross.aside.hbm, hcross.aside.stalls, hcross.aside.barns, hcross.aside.dies⟩, hcross.host, (congrArg State.boot hcross.rest :),
    hcross.out, State.cross_usable⟩

/-! ### The input voltage (R481) -/

/-- The state in which an input voltage out of range is shown. -/
def State.inputOut (s : State) (mv : Nat) : State :=
  (({ s with power := { s.power with vin := mv } } : State).setField A.pwrVin 15 0 mv).putBit A.pwrStatus 29 true

theorem execInputVoltageExcursion_out {mv : Nat} (hs : s.awake = true) (h : inputOk mv = false) :
    exec (.inputVoltageExcursion mv) s = .next (if s.power.excursion then s.inputOut mv
      else
        let t := ((s.inputOut mv).groomEvent Ev.inputVoltage []).setBit A.pwrErr 30
        { t with power := { t.power with excursion := true } }) :=
  congrArg Host.Outcome.next (if_neg (by simp [hs, h]))

/-- An input voltage out of range sets its flag, and raises its event once for each excursion. -/
theorem inputVoltageExcursion_effect {mv : Nat} (hs : s.awake = true) (h : inputOk mv = false) :
    ∃ t, exec (.inputVoltageExcursion mv) s = .next t ∧ Aside s t ∧ t.power.vin = mv ∧ t.bit A.pwrStatus 29 = true ∧
      t.power.excursion = true ∧ Logged s t (if s.power.excursion then [] else [(Ev.inputVoltage, s.srcGroom)]) ∧
      (s.power.excursion = false → t.bit A.pwrErr 30 = true) := by
  have hbit : (s.inputOut mv).bit A.pwrStatus 29 = true := State.bit_putBit_same _ _ (by decide) true
  have hexec := execInputVoltageExcursion_out hs h
  cases hx : s.power.excursion with
  | true =>
    exact ⟨s.inputOut mv, hexec.trans (congrArg _ (if_pos hx)), ⟨rfl, rfl, rfl, rfl⟩, rfl, hbit, hx, (List.append_nil _).symm,
      fun hno => absurd hno (by decide)⟩
  | false =>
    let u := (s.inputOut mv).groomEvent Ev.inputVoltage []
    let t := u.setBit A.pwrErr 30
    have hlog : Logged s t [(Ev.inputVoltage, s.srcGroom)] := (s.inputOut mv).event_logged _ _ _ _
    refine ⟨{ t with power := { t.power with excursion := true } }, hexec.trans (congrArg _ (if_neg (by simp [hx]))), ⟨rfl, rfl, rfl, rfl⟩,
      rfl, ?_, rfl, hlog, fun _ => u.bit_setBit_same A.pwrErr (by decide)⟩
    have hreg : t.reg A.pwrStatus = (s.inputOut mv).reg A.pwrStatus := (u.reg_setBit _ _ _).trans (if_neg (by decide))
    exact (State.bit_of_reg 29 hreg).trans hbit

/-! ### Sensors -/

theorem State.sensor_setSensor (s : State) (i j : Nat) (v : Sensor) : (s.setSensor i v).sensor j = if j = i then v else s.sensor j :=
  sget_sset ..

theorem State.sensor_of_sensors (h : t.power.sensors = s.power.sensors) (i : Nat) : t.sensor i = s.sensor i :=
  congrArg (sget zeroSensor · i) h

theorem State.junctions_of_sensors (h : t.power.sensors = s.power.sensors) : t.junctions = s.junctions := by
  unfold State.junctions
  rw [funext fun i => congrArg Sensor.temp (State.sensor_of_sensors h i)]

/-- What a sensor gave in a sample. -/
def given (l : List (Nat × Option Int)) (i : Nat) : Option Int := (l.find? fun r => r.1 = i).bind fun r => r.2

/-- The state in which the sensors of `is` have taken a sample. -/
def State.sense (s : State) (l : List (Nat × Option Int)) (is : List Nat) : State :=
  is.foldl (fun s i => s.setSensor i ((s.sensor i).take i (given l i))) s

theorem State.sense_rest (s : State) (l : List (Nat × Option Int)) (is : List Nat) :
    { s.sense l is with power := { (s.sense l is).power with sensors := s.power.sensors } } = s :=
  List.foldlRecOn (motive := fun t : State => { t with power := { t.power with sensors := s.power.sensors } } = s) _ _ rfl
    fun _ h _ _ => h

/-- Each sensor of the list takes its reading once; the others stay. -/
theorem State.sensor_sense (s : State) (l : List (Nat × Option Int)) {is : List Nat} (hn : is.Nodup) (i : Nat) :
    (s.sense l is).sensor i = if i ∈ is then (s.sensor i).take i (given l i) else s.sensor i := by
  induction is generalizing s with
  | nil => rfl
  | cons k is ih =>
    obtain ⟨hk, hn⟩ := List.nodup_cons.mp hn
    have hstep := ih (s.setSensor k ((s.sensor k).take k (given l k))) hn
    rw [State.sensor_setSensor] at hstep
    refine hstep.trans ?_
    by_cases hik : i = k
    · subst hik
      rw [if_neg hk, if_pos rfl, if_pos List.mem_cons_self]
    · rw [if_neg hik]
      exact if_congr (by simp [hik]) rfl rfl

theorem sampled_nodup : sampled.Nodup := by decide +kernel

theorem Sensor.take_valid (x : Sensor) {i : Nat} {v : Int} (h : validReading i v = true) :
    (x.take i (some v)).value = v ∧ (x.take i (some v)).valid = true := by
  unfold Sensor.take
  dsimp only
  rw [if_pos h]
  exact ⟨rfl, rfl⟩

/-! ### Warnings (R498) -/

/-- The warning's state after a judgement of the junctions. -/
def State.warmNow (s : State) : Bool :=
  if s.power.warned then !(s.junctions.all fun x => decide (x < 1440)) else s.junctions.any fun x => decide (1520 ≤ x)

/-- What a judgement of the warning changes, beside what the host is shown: the log and the warning's state. -/
structure Warmed (s t : State) : Prop where
  aside : Aside s t
  boot : t.boot = s.boot
  power : t.power = { s.power with warned := s.warmNow }
  logged : ∃ l, Logged s t l

theorem State.doorbell_logged (s : State) (i : Nat) : Logged s (s.doorbell i) [] := by
  rw [Logged, ((congrArg State.log (s.doorbell_shows i).rest :) : (s.doorbell i).log = s.log), List.append_nil]

theorem State.judgeWarm_warmed (s : State) : Warmed s s.judgeWarm := by
  have hsame (h : s.warmNow = s.power.warned) : s.power = { s.power with warned := s.warmNow } := by rw [h]
  unfold State.judgeWarm
  extract_lets l
  split
  next h =>
    let t := ((s.groomEvent Ev.thermalWarning []).setBit A.pwrErr 27).putBit A.pwrStatus 31 true
    let u : State := { t with power := { t.power with warned := true } }
    obtain ⟨hw, hany⟩ := Bool.and_eq_true_iff.mp h
    have hwarned : s.warmNow = true := (if_neg (by simpa using hw)).trans hany
    have hbell := u.doorbell_shows 1
    have ht : Logged s t [(Ev.thermalWarning, s.srcGroom)] := s.event_logged _ _ _ _
    refine ⟨aside_trans (t := u) ⟨rfl, rfl, rfl, rfl⟩ ⟨hbell.aside.hbm, hbell.aside.stalls, hbell.aside.barns, hbell.aside.dies⟩,
      (congrArg State.boot hbell.rest :), ?_, _, logged_trans (t := u) ht (u.doorbell_logged 1)⟩
    rw [hwarned]
    exact (congrArg State.power hbell.rest :)
  next h =>
    split
    next h' =>
      obtain ⟨hw, hall⟩ := Bool.and_eq_true_iff.mp h'
      have hwarned : s.warmNow = false := (if_pos hw).trans (by rw [hall]; rfl)
      refine ⟨⟨rfl, rfl, rfl, rfl⟩, rfl, ?_, logged_refl s⟩
      rw [hwarned]
      rfl
    next h' =>
      refine ⟨⟨rfl, rfl, rfl, rfl⟩, rfl, hsame ?_, logged_refl s⟩
      unfold State.warmNow
      cases hw : s.power.warned with
      | true => simpa [hw] using h'
      | false => simpa [hw] using h

theorem State.bit_setBit_ne (s : State) (a : Nat) {i j : Nat} (hj : j < 32) (h : j ≠ i) : (s.setBit a i).bit a j = s.bit a j := by
  rw [State.bit, State.reg_setBit, if_pos rfl, natBit_mod hj, natBit_orBit]
  simp [h.symm, State.bit]

theorem State.bit_putBit_ne (s : State) (a : Nat) {i j : Nat} (v : Bool) (hj : j < 32) (h : j ≠ i) : (s.putBit a i v).bit a j = s.bit a j :=
  (s.bit_setField a _ le_rfl hj).trans (if_neg (by omega))

/-- The warning has bits of its own in PWR_ERR and PWR_STATUS. -/
theorem State.judgeWarm_bits (s : State) {i : Nat} (hi : i < 32) :
    (i ≠ 27 → s.judgeWarm.bit A.pwrErr i = s.bit A.pwrErr i) ∧ (i ≠ 31 → s.judgeWarm.bit A.pwrStatus i = s.bit A.pwrStatus i) := by
  unfold State.judgeWarm
  extract_lets l
  split
  · let u := (s.groomEvent Ev.thermalWarning []).setBit A.pwrErr 27
    let t := u.putBit A.pwrStatus 31 true
    have hbell (a : Nat) (ha : a ≠ A.mbxHdb) :
        ((({ t with power := { t.power with warned := true } } : State).doorbell 1).emit (.pin pinAlert false)).reg a = t.reg a :=
      State.reg_doorbell_ne _ 1 ha
    refine ⟨fun h => ?_, fun h => ?_⟩
    · refine (State.bit_of_reg i (hbell A.pwrErr (by decide))).trans ?_
      exact (State.bit_of_reg i (u.reg_putBit_ne 31 true (by decide))).trans (State.bit_setBit_ne _ _ hi h)
    · refine (State.bit_of_reg i (hbell A.pwrStatus (by decide))).trans ((u.bit_putBit_ne _ true hi h).trans ?_)
      exact State.bit_of_reg i ((State.reg_setBit _ _ _ _).trans (if_neg (by decide)))
  · split
    · have hput (a : Nat) (ha : a ≠ A.mbxHdb) : ((s.putBit A.pwrStatus 31 false).putBit A.mbxHdb 1 false).reg a =
          (s.putBit A.pwrStatus 31 false).reg a := State.reg_putBit_ne _ 1 false ha
      exact ⟨fun h => State.bit_of_reg i ((hput A.pwrErr (by decide)).trans (s.reg_putBit_ne 31 false (by decide))),
        fun h => (State.bit_of_reg i (hput A.pwrStatus (by decide))).trans (s.bit_putBit_ne _ false hi h)⟩
    · exact ⟨fun _ => rfl, fun _ => rfl⟩

/-! ### The stop of the clocks (R487, R489) -/

/-- `t` has the HBM, the boot part and the power of `s`: what ends shots, RUNs and update passes leaves them alone. -/
structure Stops (s t : State) : Prop where
  hbm : t.hbm = s.hbm
  boot : t.boot = s.boot
  power : t.power = s.power

theorem Stops.refl (s : State) : Stops s s := ⟨rfl, rfl, rfl⟩

theorem Stops.trans (h : Stops s t) (k : Stops t u) : Stops s u := ⟨k.hbm.trans h.hbm, k.boot.trans h.boot, k.power.trans h.power⟩

theorem ShotWork.stops (h : ShotWork s t) : Stops s t :=
  ⟨(congrArg State.hbm h.rest :), (congrArg State.boot h.rest :), (congrArg State.power h.rest :)⟩

theorem Shows.stops (h : Shows s t) : Stops s t := ⟨h.aside.hbm, (congrArg State.boot h.rest :), (congrArg State.power h.rest :)⟩

theorem State.finishAbort_stops (s : State) : Stops s s.finishAbort := by
  unfold State.finishAbort
  split
  · exact (show Stops s (s.at_ _) from ⟨rfl, rfl, rfl⟩).trans (State.abortShot_work _ _).stops
  · exact .refl s

theorem State.markFailed_stops (s : State) (step : Nat) : Stops s (s.markFailed step) := by
  unfold State.markFailed
  split
  · exact ⟨rfl, rfl, rfl⟩
  · exact .refl s

theorem State.endRun_stops (s : State) (code : Nat) : Stops s (s.endRun code) := by
  unfold State.endRun
  split
  next q _ _ =>
    split
    · exact .refl s
    · extract_lets mine q' u
      have hu : Stops s u := by
        subst u
        split
        · exact s.markFailed_stops _
        · exact .refl s
      exact hu.trans ⟨rfl, rfl, rfl⟩
  · exact .refl s

theorem State.diverge_stops (s : State) : Stops s s.diverge := by
  unfold State.diverge
  split
  · exact .refl s
  · exact (show Stops s { s with train := { s.train with diverged := true } } from ⟨rfl, rfl, rfl⟩).trans (State.doorbell_shows _ 7).stops

theorem State.cutPasses_stops (s : State) : Stops s s.cutPasses := by
  unfold State.cutPasses
  split
  · exact .refl s
  · extract_lets u
    have hu : Stops s { u with train := { u.train with passes := [] } } := ⟨rfl, rfl, rfl⟩
    exact hu.trans (State.diverge_stops _)

/-- The clocks have stopped, and the module is in HOLD or FAULT; HBM stays (R487). -/
theorem State.stopClocks_effect (s : State) :
    s.stopClocks.hbm = s.hbm ∧ s.stopClocks.boot.mode = (if s.boot.mode = .fault then .fault else .hold) ∧
      s.stopClocks.power = { s.power with stopped := true, resumeAt := none } := by
  unfold State.stopClocks
  extract_lets a b
  have ha : Stops s a := by
    subst a
    split
    · exact ((ShotWork.ofStalls (s.failShot_only _ _ _)).stops.trans (State.orderAbort_work _ _).stops).trans (State.finishAbort_stops _)
    · exact .refl s
  have hb : Stops s b := (ha.trans (a.endRun_stops _)).trans (State.cutPasses_stops _)
  obtain ⟨hhbm, hboot, hpower⟩ := hb
  exact ⟨hhbm, congrArg (fun k : Boot => if k.mode = .fault then Mode.fault else .hold) hboot,
    congrArg (fun k : Power => { k with stopped := true, resumeAt := none }) hpower⟩

/-- Whether a junction has given two readings of 110 °C or more in a row. -/
def State.hotNow (s : State) : Bool := (List.range 76).any fun i => decide (2 ≤ (s.sensor i).hot)

theorem State.hotNow_iff (s : State) : s.hotNow = true ↔ ∃ i < 76, 2 ≤ (s.sensor i).hot := by
  simp [State.hotNow]

theorem State.judgeHot_idle (h : s.power.thermOut = true ∨ s.hotNow = false) : s.judgeHot = s := by
  refine if_pos ?_
  rcases h with h | h
  · rw [h, Bool.true_or]
  · rw [show ((List.range 76).any fun i => decide (2 ≤ (s.sensor i).hot)) = false from h, Bool.not_false, Bool.or_true]

/-- Two hot readings of a junction drive THERMTRIP and stop the clocks (R499). -/
theorem State.judgeHot_stops (hout : s.power.thermOut = false) (h : s.hotNow = true) :
    s.judgeHot.power = { s.power with thermOut := true, stopped := true, resumeAt := none } ∧ s.judgeHot.hbm = s.hbm ∧
      s.judgeHot.boot.mode = (if s.boot.mode = .fault then .fault else .hold) ∧ Out.pin pinTherm false ∈ s.judgeHot.out := by
  let t := ((s.groomEvent Ev.thermalCritical []).setBit A.pwrErr 26).emit (.pin pinTherm false)
  let u : State := { t with power := { t.power with thermOut := true } }
  have hjudge : s.judgeHot = u.stopClocks := if_neg (by
    rw [hout, show ((List.range 76).any fun i => decide (2 ≤ (s.sensor i).hot)) = true from h]
    decide)
  obtain ⟨hhbm, hmode, hpower⟩ := u.stopClocks_effect
  rw [hjudge]
  refine ⟨hpower, hhbm, hmode, (State.stopClocks_keeps (.refl u)).out.subset ?_⟩
  exact List.mem_append_right _ (List.mem_singleton_self _)

/-! ### Samples (R497 to R499) -/

/-- What the input's sensors change: the input voltage and its excursion, and what the host is shown. -/
structure InputRead (s t : State) : Prop where
  aside : Aside s t
  boot : t.boot = s.boot
  power : { t.power with vin := s.power.vin, excursion := s.power.excursion } = s.power

theorem InputRead.trans (h : InputRead s t) (k : InputRead t u) : InputRead s u where
  aside := aside_trans h.aside k.aside
  boot := k.boot.trans h.boot
  power := (congrArg (fun w : Power => { w with vin := s.power.vin, excursion := s.power.excursion }) k.power).trans h.power

theorem State.setField_inputRead (s : State) (a hi lo v : Nat) : InputRead s (s.setField a hi lo v) := ⟨⟨rfl, rfl, rfl, rfl⟩, rfl, rfl⟩

theorem State.readInput_inputRead (s : State) : InputRead s s.readInput := by
  unfold State.readInput
  extract_lets v i p a b
  have ha : InputRead s a := by
    subst a
    split
    · exact ⟨⟨rfl, rfl, rfl, rfl⟩, rfl, rfl⟩
    · exact ⟨⟨rfl, rfl, rfl, rfl⟩, rfl, rfl⟩
  have hb : InputRead s b := by
    subst b
    split
    · exact ha.trans (a.setField_inputRead _ _ _ _)
    · exact ha
  exact hb.trans (b.setField_inputRead _ _ _ _)

/-- The state of a sample before the judgement of hot junctions. -/
def State.sampledWarm (s : State) (l : List (Nat × Option Int)) : State :=
  ((s.cross cdcSensor 0).sense l sampled).readInput.judgeWarm

theorem State.sampledWarm_effect (s : State) (l : List (Nat × Option Int)) :
    Aside s (s.sampledWarm l) ∧ (s.sampledWarm l).boot = s.boot ∧ (s.sampledWarm l).power.stopped = s.power.stopped ∧
      (s.sampledWarm l).power.thermOut = s.power.thermOut ∧
      (∀ i, (s.sampledWarm l).sensor i = if i ∈ sampled then (s.sensor i).take i (given l i) else s.sensor i) ∧
      (s.sampledWarm l).power.warned = (if s.power.warned then !((s.sampledWarm l).junctions.all fun x => decide (x < 1440))
        else (s.sampledWarm l).junctions.any fun x => decide (1520 ≤ x)) := by
  have hcross := s.cross_crossed cdcSensor 0
  have hsense := (s.cross cdcSensor 0).sense_rest l sampled
  have hsensor := (s.cross cdcSensor 0).sensor_sense l sampled_nodup
  have hpower : (s.cross cdcSensor 0).power = s.power := (congrArg State.power hcross.rest :)
  unfold State.sampledWarm
  generalize (s.cross cdcSensor 0).sense l sampled = v at hsense hsensor
  obtain ⟨hinAside, hinBoot, hinPower⟩ := v.readInput_inputRead
  generalize v.readInput = w at hinAside hinBoot hinPower
  obtain ⟨hwarmAside, hwarmBoot, hwarmPower, -⟩ := w.judgeWarm_warmed
  have hvAside : Aside (s.cross cdcSensor 0) v := ⟨(congrArg State.hbm hsense :), (congrArg State.stalls hsense :),
    (congrArg State.barns hsense :), (congrArg State.dies hsense :)⟩
  have hvPower : { v.power with sensors := s.power.sensors } = s.power := by
    rw [← hpower]
    exact (congrArg State.power hsense :)
  have hwSensors : w.power.sensors = v.power.sensors := (congrArg Power.sensors hinPower :)
  have hSensors : w.judgeWarm.power.sensors = w.power.sensors := (congrArg Power.sensors hwarmPower :)
  refine ⟨aside_trans (aside_trans (aside_trans hcross.aside hvAside) hinAside) hwarmAside, ?_, ?_, ?_, fun i => ?_, ?_⟩
  · exact hwarmBoot.trans (hinBoot.trans (((congrArg State.boot hsense :) : v.boot = _).trans (congrArg State.boot hcross.rest :)))
  · exact (congrArg Power.stopped hwarmPower :).trans ((congrArg Power.stopped hinPower :).trans (congrArg Power.stopped hvPower :))
  · exact (congrArg Power.thermOut hwarmPower :).trans ((congrArg Power.thermOut hinPower :).trans (congrArg Power.thermOut hvPower :))
  · rw [State.sensor_of_sensors (hSensors.trans hwSensors), hsensor i,
      State.sensor_of_sensors ((congrArg Power.sensors hpower) : (s.cross cdcSensor 0).power.sensors = s.power.sensors)]
  · have hw : w.power.warned = s.power.warned := (congrArg Power.warned hinPower :).trans (congrArg Power.warned hvPower :)
    rw [State.junctions_of_sensors hSensors, ← hw]
    exact congrArg Power.warned hwarmPower

theorem execSensorSample_awake (hs : s.awake = true) (l : List (Nat × Option Int)) :
    exec (.sensorSample l) s = .next (s.sampledWarm l).judgeHot := congrArg Host.Outcome.next (if_neg (by simp [hs]))

/-- What a sample does (R497 to R499). -/
theorem sensorSample_effect (hs : s.awake = true) (l : List (Nat × Option Int)) :
    ∃ t, exec (.sensorSample l) s = .next t ∧
      (∀ i ∈ sampled, t.sensor i = (s.sensor i).take i (given l i)) ∧ (∀ i, i ∉ sampled → t.sensor i = s.sensor i) ∧
      (∀ i ∈ sampled, ∀ x, given l i = some x → validReading i x = true → (t.sensor i).value = x ∧ (t.sensor i).valid = true) ∧
      (∀ i ∈ sampled, given l i = none → (t.sensor i).value = (s.sensor i).value ∧ (t.sensor i).valid = false ∧
        (t.sensor i).bad = (s.sensor i).bad + 1) ∧
      t.power.warned = (if s.power.warned then !(t.junctions.all fun x => decide (x < 1440))
        else t.junctions.any fun x => decide (1520 ≤ x)) ∧
      ((∀ i < 76, (t.sensor i).hot < 2) → t.boot = s.boot ∧ t.power.stopped = s.power.stopped ∧ Aside s t) ∧
      (s.power.thermOut = false → (∃ i < 76, 2 ≤ (t.sensor i).hot) → t.power.stopped = true ∧ t.power.thermOut = true ∧
        t.boot.mode = (if s.boot.mode = .fault then .fault else .hold) ∧ Out.pin pinTherm false ∈ t.out ∧ t.hbm = s.hbm) := by
  obtain ⟨haside, hboot, hstopped, htherm, hsensor, hwarned⟩ := s.sampledWarm_effect l
  have hexec := execSensorSample_awake hs l
  generalize s.sampledWarm l = w at haside hboot hstopped htherm hsensor hwarned hexec
  have htaken : ∀ t : State, t.power.sensors = w.power.sensors →
      (∀ i ∈ sampled, t.sensor i = (s.sensor i).take i (given l i)) ∧ (∀ i, i ∉ sampled → t.sensor i = s.sensor i) ∧
      (∀ i ∈ sampled, ∀ x, given l i = some x → validReading i x = true → (t.sensor i).value = x ∧ (t.sensor i).valid = true) ∧
      (∀ i ∈ sampled, given l i = none → (t.sensor i).value = (s.sensor i).value ∧ (t.sensor i).valid = false ∧
        (t.sensor i).bad = (s.sensor i).bad + 1) := by
    intro t ht
    have hall (i : Nat) : t.sensor i = if i ∈ sampled then (s.sensor i).take i (given l i) else s.sensor i :=
      (State.sensor_of_sensors ht i).trans (hsensor i)
    refine ⟨fun i hi => (hall i).trans (if_pos hi), fun i hi => (hall i).trans (if_neg hi), fun i hi x hx hv => ?_, fun i hi hx => ?_⟩
    · rw [hall i, if_pos hi, hx]
      exact Sensor.take_valid _ hv
    · rw [hall i, if_pos hi, hx]
      exact ⟨rfl, rfl, rfl⟩
  by_cases hidle : w.power.thermOut = true ∨ w.hotNow = false
  · rw [State.judgeHot_idle hidle] at hexec
    obtain ⟨h1, h2, h3, h4⟩ := htaken w rfl
    refine ⟨w, hexec, h1, h2, h3, h4, hwarned, fun _ => ⟨hboot, hstopped, haside⟩, fun hout hhot => ?_⟩
    rcases hidle with h | h
    · exact absurd ((htherm.symm.trans h).symm.trans hout) (by decide)
    · exact absurd (w.hotNow_iff.mpr hhot) (by simp [h])
  · obtain ⟨hout, hhot⟩ := not_or.mp hidle
    obtain ⟨hpower, hhbm, hmode, hpin⟩ := State.judgeHot_stops (Bool.eq_false_of_not_eq_true hout) (Bool.eq_true_of_not_eq_false hhot)
    have hsensors : w.judgeHot.power.sensors = w.power.sensors := (congrArg Power.sensors hpower :)
    obtain ⟨h1, h2, h3, h4⟩ := htaken w.judgeHot hsensors
    refine ⟨w.judgeHot, hexec, h1, h2, h3, h4, ?_, fun hcold => ?_, fun _ _ => ⟨congrArg Power.stopped hpower, congrArg Power.thermOut hpower,
      hmode.trans (by rw [hboot]), hpin, hhbm.trans haside.hbm⟩⟩
    · rw [State.junctions_of_sensors hsensors]
      exact (congrArg Power.warned hpower :).trans hwarned
    · obtain ⟨i, hi, hge⟩ := w.hotNow_iff.mp (Bool.eq_true_of_not_eq_false hhot)
      have hlt := hcold i hi
      rw [State.sensor_of_sensors hsensors] at hlt
      omega

/-! ### A sensor that fails (R497) -/

/-- A sensor without a valid reading for three samples has failed, with its event. -/
theorem sensorFault_effect {i : Nat} (hs : s.awake = true) (hi : i ∈ sampled) (hf : (s.sensor i).failed = false)
    (hb : 3 ≤ (s.sensor i).bad) :
    ∃ t, exec (.sensorFault i) s = .next t ∧ Aside s t ∧ t.sensor i = { s.sensor i with failed := true } ∧
      (∀ j, j ≠ i → t.sensor j = s.sensor j) ∧ t.bit A.pwrErr 25 = true ∧ t.bit A.pwrStatus 28 = true ∧
      (Ev.sensorFault, s.srcGroom) ∈ t.log.held.map fun e => (e.code, e.src) := by
  let u := s.setSensor i { s.sensor i with failed := true }
  let v := (u.groomEvent Ev.sensorFault []).setBit A.pwrErr 25
  let w := v.putBit A.pwrStatus 28 true
  have hexec : exec (.sensorFault i) s = .next w.judgeWarm :=
    congrArg Host.Outcome.next (if_neg (by
      have hc : sampled.contains i = true := by simpa using hi
      simp only [hs, hc, hf, decide_eq_false (not_lt.mpr hb)]
      decide))
  obtain ⟨haside, -, hpower, l, hlog⟩ := w.judgeWarm_warmed
  have hsensor (j : Nat) : w.judgeWarm.sensor j = if j = i then { s.sensor i with failed := true } else s.sensor j :=
    (State.sensor_of_sensors (congrArg Power.sensors hpower :) j).trans (s.sensor_setSensor i j _)
  have hw : Logged s w [(Ev.sensorFault, s.srcGroom)] := u.event_logged _ _ _ _
  refine ⟨w.judgeWarm, hexec, aside_trans (t := w) ⟨rfl, rfl, rfl, rfl⟩ haside, (hsensor i).trans (if_pos rfl),
    fun j hj => (hsensor j).trans (if_neg hj), ?_, ?_, mem_of_logged (logged_trans hw hlog) (by simp)⟩
  · refine ((w.judgeWarm_bits (i := 25) (by decide)).1 (by decide)).trans ?_
    exact (State.bit_of_reg 25 (State.reg_putBit_ne v 28 true (by decide))).trans (State.bit_setBit_same _ _ (by decide))
  · exact ((w.judgeWarm_bits (i := 28) (by decide)).2 (by decide)).trans (State.bit_putBit_same v _ (by decide) true)

/-! ### The end of the stop (R488, R489) -/

theorem pwrCtrlResume_refused {v : Word} (hs : s.awake = true) (hv : natBit v.toNat 31 = true)
    (h : s.boot.mode ≠ .hold ∨ (s.junctions.any fun x => decide (1440 ≤ x)) = true) :
    exec (.pwrCtrlResume v) s = .next (s.putBit A.pwrStatus 27 true) :=
  congrArg Host.Outcome.next ((if_neg (by simp [hs, hv])).trans (if_pos (by simpa using h)))

/-- A resume ends the stop where HOLD stands and every junction is below 90 °C; no read waits. -/
theorem pwrCtrlResume_effect {v : Word} (hs : s.awake = true) (hv : natBit v.toNat 31 = true) (hm : s.boot.mode = .hold)
    (hj : (s.junctions.any fun x => decide (1440 ≤ x)) = false) (hreads : s.host.bar2 = []) :
    ∃ t, exec (.pwrCtrlResume v) s = .next t ∧ Aside s t ∧ t.power.stopped = false ∧ t.power.thermOut = false ∧
      t.power.resumeAt = some (s.cyc + 1750000) ∧ t.boot.mode = (if s.boot.image.isSome then .hold else .ready) ∧
      t.out = s.out ++ [.pin pinTherm true] ∧ t.bit A.pwrStatus 27 = false := by
  let u := s.putBit A.pwrStatus 27 false
  let w : State := { u with
    power := { u.power with stopped := false, thermOut := false, resumeAt := some (u.cyc + 7 * 250000) }
    shot := { u.shot with ownFrom := u.cyc }
    host := { u.host with bar2 := [] }
    boot := { u.boot with mode := if u.boot.image.isSome then .hold else .ready } }
  have hexec : exec (.pwrCtrlResume v) s = .next (w.emit (.pin pinTherm true)) := by
    refine congrArg Host.Outcome.next ((if_neg (by simp [hs, hv])).trans ((if_neg ?_).trans ?_))
    · rw [hm, hj]
      simp
    · dsimp only
      rw [show (s.putBit A.pwrStatus 27 false).host.bar2 = [] from hreads]
      rfl
  have hbit : u.bit A.pwrStatus 27 = false := s.bit_putBit_same A.pwrStatus (by decide) false
  exact ⟨_, hexec, ⟨rfl, rfl, rfl, rfl⟩, rfl, rfl, rfl, rfl, rfl, hbit⟩

/-- Settles O50: cuts, the input voltage, samples and failures of sensors, and the resume. -/
theorem cutsAndTemperature : Obligations.CutsAndTemperature := by
  refine fun s => ⟨fun c h1 h6 ha => powerCut_effect h1 h6 ha, fun c h => powerCut_idle h, clearFaults_effect s,
    fun hs => ⟨fun mv h => ?inRange, fun mv h => inputVoltageExcursion_effect hs h, fun l => sensorSample_effect hs l,
      fun i hi hf hb => sensorFault_effect hs hi hf hb,
      fun v hv => ⟨fun h => pwrCtrlResume_refused hs hv h, fun hm hj hreads => pwrCtrlResume_effect hs hv hm hj hreads⟩⟩⟩
  case inRange =>
    exact congrArg Host.Outcome.next (if_pos (by simp [h]))

end Sys2Proof.Machine
end

/-!
# Resets and the start-up

What a reset or power-up leaves, from the loss of the state to READY (R450 to R453, R482, R484, R485).
-/
section
namespace Sys2Proof.Machine

open Sys2Proof.Safety

variable {s t u : State} {found : StartFindings} {k v : Nat}

/-! ### Steps of a start-up -/

/-- A step of a start-up touches only the time count's offset, registers, the log, what the host is shown, the auxiliary link, flash copies
and the boot part without its image; GLB_RESET_CAUSE stays. -/
structure Starts (s t : State) : Prop where
  rest : { t with regs := s.regs, sets := s.sets, log := s.log, host := s.host, flash := s.flash, boot := s.boot, free := s.free,
                  out := s.out } = s
  host : { t.host with acks := s.host.acks, pba := s.host.pba, waiting := s.host.waiting, auxUp := s.host.auxUp,
                       auxReady := s.host.auxReady } = s.host
  keys : t.flash.keys = s.flash.keys
  running : t.flash.running = s.flash.running
  cause : t.reg A.glbResetCause = s.reg A.glbResetCause

namespace Starts

theorem refl (s : State) : Starts s s := ⟨rfl, rfl, rfl, rfl, rfl⟩

theorem trans (h : Starts s t) (k : Starts t u) : Starts s u where
  rest := (congrArg (fun w : State => { w with
    regs := s.regs, sets := s.sets, log := s.log, host := s.host, flash := s.flash, boot := s.boot, free := s.free, out := s.out })
      k.rest).trans h.rest
  host := (congrArg (fun w : HostIf => { w with
    acks := s.host.acks, pba := s.host.pba, waiting := s.host.waiting, auxUp := s.host.auxUp, auxReady := s.host.auxReady }) k.host).trans
      h.host
  keys := k.keys.trans h.keys
  running := k.running.trans h.running
  cause := k.cause.trans h.cause

/-- What a reset keeps is kept through the start-up that follows it. -/
theorem kept {r : State} (h : Starts s t) (himage : t.boot.image = none) (hr : Kept r s) : Kept r t where
  fenced := ((congrArg (fun w : State => w.safe.fenced) h.rest :) : t.safe.fenced = s.safe.fenced).trans hr.fenced
  keys := h.keys.trans hr.keys
  hbm := ((congrArg State.hbm h.rest :) : t.hbm = s.hbm).trans hr.hbm
  barns := ((congrArg State.barns h.rest :) : t.barns = s.barns).trans hr.barns
  image := himage
  shot := by
    rw [((congrArg State.shot h.rest :) : t.shot = s.shot), ((congrArg State.cyc h.rest :) : t.cyc = s.cyc)]
    exact hr.shot
  train := ((congrArg State.train h.rest :) : t.train = s.train).trans hr.train
  ckpt := ((congrArg State.ckpt h.rest :) : t.ckpt = s.ckpt).trans hr.ckpt
  sec := ((congrArg State.sec h.rest :) : t.sec = s.sec).trans hr.sec
  far := ((congrArg State.far h.rest :) : t.far = s.far).trans hr.far
  rings := ((congrArg HostIf.rings h.host :) : t.host.rings = s.host.rings).trans hr.rings
  runs := ((congrArg HostIf.runs h.host :) : t.host.runs = s.host.runs).trans hr.runs
  entries := ((congrArg HostIf.entries h.host :) : t.host.entries = s.host.entries).trans hr.entries
  comps := ((congrArg HostIf.comps h.host :) : t.host.comps = s.host.comps).trans hr.comps
  pending := ((congrArg State.pending h.rest :) : t.pending = s.pending).trans hr.pending
  stall i := ((congrArg (fun w : State => w.stall i) h.rest :) : t.stall i = s.stall i).trans (hr.stall i)
  port p := ((congrArg (fun w : State => w.port p) h.rest :) : t.port p = s.port p).trans (hr.port p)

theorem now (h : Starts s t) : t.now = s.now := (congrArg State.now h.rest :)
theorem cyc (h : Starts s t) : t.cyc = s.cyc := (congrArg State.cyc h.rest :)

end Starts

theorem Shows.starts (h : Shows s t) (hc : t.reg A.glbResetCause = s.reg A.glbResetCause) : Starts s t where
  rest := (congrArg (fun w : State => { w with log := s.log, flash := s.flash, boot := s.boot, free := s.free }) h.rest :)
  host := (congrArg (fun w : HostIf => { w with auxUp := s.host.auxUp, auxReady := s.host.auxReady }) h.host :)
  keys := (congrArg (fun w : State => w.flash.keys) h.rest :)
  running := (congrArg (fun w : State => w.flash.running) h.rest :)
  cause := hc

theorem State.putBit_starts (s : State) {a : Nat} (i : Nat) (b : Bool) (ha : a ≠ A.glbResetCause) : Starts s (s.putBit a i b) :=
  (s.putBit_shows a i b).starts (s.reg_putBit_ne i b ha.symm)

/-- A latched cause is reported in PWR_ERR and entered for the log (R482). -/
theorem State.reportLatch_latched (h : s.power.latch ≠ 0) : ∃ bit e, s.reportLatch =
    { (s.setField A.pwrErr 3 0 s.power.latch).setBit A.pwrErr bit with log := { s.log with held := s.log.held ++ [e] } } :=
  ⟨_, _, if_neg h⟩

theorem State.reportLatch_starts (s : State) : Starts s s.reportLatch ∧ s.reportLatch.boot = s.boot := by
  by_cases h : s.power.latch = 0
  · have hsame : s.reportLatch = s := if_pos h
    rw [hsame]
    exact ⟨.refl s, rfl⟩
  · obtain ⟨bit, e, heq⟩ := State.reportLatch_latched h
    rw [heq]
    refine ⟨⟨rfl, rfl, rfl, rfl, ?_⟩, rfl⟩
    exact ((State.reg_setBit _ _ _ _).trans (if_neg (by decide))).trans ((State.reg_setField _ _ _ _ _).trans (if_neg (by decide)))

theorem State.checkReplace_starts (s : State) : Starts s s.checkReplace ∧ s.checkReplace.boot = s.boot := by
  unfold State.checkReplace
  split
  · exact ⟨.refl s, rfl⟩
  · let t := (s.setBit A.safeStatus 31).groomEvent Ev.replaceRequest []
    have ht : Starts s t := ⟨rfl, rfl, rfl, rfl, (State.reg_setBit _ _ _ _).trans (if_neg (by decide))⟩
    have hbell := (t.doorbell_shows 2).starts (t.doorbell_resetCause 2)
    have hend : Starts (t.doorbell 2) ((t.doorbell 2).emit (.pin pinReplace false)) := ⟨rfl, rfl, rfl, rfl, rfl⟩
    exact ⟨(ht.trans hbell).trans hend, (congrArg State.boot (t.doorbell_shows 2).rest :)⟩

/-- Without a stall to fence, only the aisles' spares are checked. -/
theorem State.fence_nil (s : State) (x : Nat) : s.fence [] x = s.checkReplace := by
  simp only [State.fence, List.filter_nil, List.foldl_nil, List.map_nil, List.append_nil]

/-- Step 2 of the start-up with a copy that GW has found (R452). -/
theorem State.startGrooms_found (s : State) (hgw : found.gw = some (k, v)) (hback : found.fallback = none) :
    s.startGrooms found = { s with
      flash := { s.flash with copies := s.flash.copies.set k (some v), running := k }, boot := { s.boot with gwSilent := false } } := by
  unfold State.startGrooms
  rw [hgw, hback]
  rfl

theorem Flash.ready_keeps (f : Flash) : f.ready.keys = f.keys ∧ f.ready.running = f.running := by
  unfold Flash.ready
  split <;> exact ⟨rfl, rfl⟩

/-- Steps 3 to 7 of the start-up where nothing is found against any unit. -/
theorem State.startRest_ready (s : State) (hgw : found.gw = some (k, v)) (hback : found.fallback = none) (hsettled : found.settled = true)
    (hfailed : found.failedStacks = []) (hbad : found.badStalls = []) :
    Starts s (s.startRest found) ∧ (s.startRest found).boot = { s.boot with mode := .ready, stage := 7 } := by
  have hrest : s.startRest found =
      { s.checkReplace.checkReplace with
        boot := { s.checkReplace.checkReplace.boot with mode := .ready, stage := 7 }
        host := { s.checkReplace.checkReplace.host with auxUp := found.aux, auxReady := found.aux }
        flash := s.checkReplace.checkReplace.flash.ready } := by
    unfold State.startRest State.reportFallback
    rw [hgw, hback, hsettled, hfailed, hbad, List.filter_nil, List.filter_nil, List.map_nil]
    simp only [Option.isNone_some, Bool.not_true, List.foldl_nil, State.fence_nil]
    rfl
  obtain ⟨h1, hb1⟩ := s.checkReplace_starts
  obtain ⟨h2, hb2⟩ := s.checkReplace.checkReplace_starts
  rw [hrest]
  generalize s.checkReplace.checkReplace = u at h2 hb2
  obtain ⟨hkeys, hrunning⟩ := u.flash.ready_keeps
  have hend : Starts u { u with
      boot := { u.boot with mode := .ready, stage := 7 }, host := { u.host with auxUp := found.aux, auxReady := found.aux }
      flash := u.flash.ready } := ⟨rfl, rfl, hkeys, hrunning, rfl⟩
  exact ⟨(h1.trans h2).trans hend, by rw [hb2, hb1]⟩

/-- GLB_AUX_STATUS follows the link. -/
theorem State.auxStatus_starts (s : State) : Starts s s.auxStatus :=
  (s.putBit_starts 31 _ (by decide)).trans (State.putBit_starts _ 30 _ (by decide))

/-! ### The start-up -/

/-- What is kept does not depend on the time count's offset, the registers and the free values taken. -/
theorem Kept.timed {r : State} (h : Kept r s) (off : Nat) (regs : RegBank) (free : Nat) :
    Kept r { s with off := off, regs := regs, free := free } :=
  ⟨h.fenced, h.keys, h.hbm, h.barns, h.image, h.shot, h.train, h.ckpt, h.sec, h.far, h.rings, h.runs, h.entries, h.comps, h.pending,
    h.stall, h.port⟩

/-- What is kept does not depend on the power part before the reset. -/
theorem Kept.of_power {p : Power} (h : Kept { s with power := p } t) : Kept s t :=
  ⟨h.fenced, h.keys, h.hbm, h.barns, h.image, h.shot, h.train, h.ckpt, h.sec, h.far, h.rings, h.runs, h.entries, h.comps, h.pending,
    h.stall, h.port⟩

/-- The state in which a reset has lost its state, the time count stands at the start-up's end and the cause of the reset is recorded. -/
def State.anew (s : State) (word : Nat) : State :=
  ({ s with off := (s.off + Config.startCounts s.free % 3000000001) % 2 ^ 64, free := s.free + 1 } : State).setReg A.glbResetCause word

theorem Kept.anew {r : State} (h : Kept r s) (word : Nat) : Kept r (s.anew word) := h.timed _ _ _

/-- The time count after a reset is that of the start-up's end, at most 12 s (R451). -/
theorem State.now_anew_lostAt (s : State) (mode : Mode) (x word : Nat) :
    ((s.lostAt mode x (zeroOff x)).anew word).now ≤ 3000000000 := by
  have hnow : ((s.lostAt mode x (zeroOff x)).anew word).now =
      (x / 7 + (zeroOff x + Config.startCounts s.free % 3000000001) % 2 ^ 64) % 2 ^ 64 := rfl
  rw [hnow, zeroOff]
  generalize x / 7 = y
  have hd : Config.startCounts s.free % 3000000001 < 3000000001 := Nat.mod_lt _ (by decide)
  omega

/-- What the lost state of a reset is, told from the core cycle that it takes up. -/
theorem State.lostAt_anew (s : State) (x off word : Nat) : let t := (s.lostAt .boot x off).anew word
    t.cyc = x ∧ t.boot = { Boot.reset with mode := .boot } := ⟨rfl, rfl⟩

/-- The count of resets, which power-up clears. -/
def State.resets (s : State) (cause : Nat) : Nat := if cause = 1 then 0 else min 0xFFFF (s.field A.glbResetCause 31 16 + 1)

/-- A module that is READY anew: what is kept, its time, and the record of the reset. -/
structure Anew (s t : State) (k cause : Nat) : Prop where
  kept : Kept s t
  cyc : s.cyc ≤ t.cyc
  now : t.now ≤ 3000000000
  boot : t.boot = { Boot.reset with mode := .ready, stage := 7 }
  running : t.flash.running = k
  cause : t.reg A.glbResetCause = s.resets cause * 65536 + cause

/-- The start-up with a GW firmware copy found and no finding against any unit ends in READY (R450 to R453). -/
theorem State.startUp_anew {cause : Nat} (hcause : cause ≤ 6) (hgw : found.gw = some (k, v)) (hback : found.fallback = none)
    (hsettled : found.settled = true) (hfailed : found.failedStacks = []) (hbad : found.badStalls = [])
    (hp : swf zeroPort s.fab.ports = true) : Anew s (s.startUp cause found) k cause := by
  let word := s.resets cause * 65536 + cause
  have hword : word < 2 ^ 32 := by
    have : s.resets cause ≤ 0xFFFF := by
      unfold State.resets
      split <;> omega
    omega
  have hkept : Kept s ((s.lost .boot).anew word) := (s.lost_kept .boot hp).anew word
  have hnow := s.now_anew_lostAt .boot (lostCyc s.cyc) word
  obtain ⟨hcyc, hboot⟩ := s.lostAt_anew (lostCyc s.cyc) (zeroOff (lostCyc s.cyc)) word
  have hreg : ((s.lost .boot).anew word).reg A.glbResetCause = word :=
    ((State.reg_setReg _ _ _).trans (if_pos rfl)).trans (Nat.mod_eq_of_lt hword)
  have heq : s.startUp cause found = if (((s.lost .boot).anew word).startGrooms found).boot.fwFail then
      ((s.lost .boot).anew word).startGrooms found
    else ((if cause = 1 then (((s.lost .boot).anew word).startGrooms found).reportLatch
      else ((s.lost .boot).anew word).startGrooms found).startRest found).auxStatus := rfl
  rw [← State.lost_eq] at hnow hcyc hboot
  generalize (s.lost .boot).anew word = t at hkept hnow hcyc hboot hreg heq
  rw [State.startGrooms_found t hgw hback] at heq
  generalize hg : ({ t with
    flash := { t.flash with copies := t.flash.copies.set k (some v), running := k }, boot := { t.boot with gwSilent := false } } : State) =
      g at heq
  have hgboot : g.boot = { Boot.reset with mode := .boot } := by
    rw [← hg]
    dsimp only
    rw [hboot]
    rfl
  have hgkept : Kept s g := hg ▸ ⟨hkept.fenced, hkept.keys, hkept.hbm, hkept.barns, hkept.image, hkept.shot, hkept.train, hkept.ckpt,
    hkept.sec, hkept.far, hkept.rings, hkept.runs, hkept.entries, hkept.comps, hkept.pending, hkept.stall, hkept.port⟩
  have hgt : g.cyc = t.cyc ∧ g.now = t.now ∧ g.reg A.glbResetCause = t.reg A.glbResetCause ∧ g.flash.running = k := hg ▸ ⟨rfl, rfl, rfl, rfl⟩
  obtain ⟨hgcyc, hgnow, hgreg, hgrun⟩ := hgt
  generalize hl : (if cause = 1 then g.reportLatch else g) = l at heq
  have hlstart : Starts g l ∧ l.boot = g.boot := by
    rw [← hl]
    split
    · exact g.reportLatch_starts
    · exact ⟨.refl g, rfl⟩
  obtain ⟨hrest, hrestBoot⟩ := l.startRest_ready hgw hback hsettled hfailed hbad
  have hstarts : Starts g (l.startRest found).auxStatus := (hlstart.1.trans hrest).trans (State.auxStatus_starts _)
  have hready : (l.startRest found).auxStatus.boot = { Boot.reset with mode := .ready, stage := 7 } := by
    refine hrestBoot.trans ?_
    rw [hlstart.2, hgboot]
  rw [heq, if_neg (by rw [hgboot]; decide)]
  exact ⟨hstarts.kept (by rw [hready]; rfl) hgkept,
    (le_lostCyc s.cyc).trans_eq (hstarts.cyc.trans (hgcyc.trans hcyc)).symm, (hstarts.now.trans hgnow).trans_le hnow, hready,
    hstarts.running.trans hgrun, hstarts.cause.trans (hgreg.trans hreg)⟩

/-! ### What starts it -/

theorem execPerstN_alive (ha : s.alive = true) : exec (.perstN found) s = .next (s.startUp 2 found) :=
  congrArg Host.Outcome.next (if_pos ha)

theorem execI3cTargetReset_alive (ha : s.alive = true) : exec (.i3cTargetReset found) s = .next (s.startUp 4 found) :=
  congrArg Host.Outcome.next (if_pos ha)

theorem execGlbResetModule_resets {w : Word} (hs : s.awake = true) (hw : natBit w.toNat 0 = true) :
    exec (.glbResetModule w found) s = .next (s.startUp 3 found) := congrArg Host.Outcome.next (if_pos (by simp [hs, hw]))

theorem execGroomWatchdogExpire_both (hs : s.awake = true) : exec (.groomWatchdogExpire true found) s = .next (s.startUp 6 found) :=
  congrArg Host.Outcome.next ((if_neg (by simp [hs])).trans (if_pos rfl))

theorem State.powerUp_powers (ha : s.alive = false) (hen : s.power.pwrEn = true) (hl : s.power.locked = false) (hv : 46000 ≤ s.power.vin) :
    s.powerUp found = s.startUp 1 found := if_neg (by simp [ha, hen, hl, hv])

/-- PWR_EN rises: the switch closes unless a cut has opened it and PWR_EN has been low for less than 100 ms (R484). -/
theorem execPwrEnRise_off (hen : s.power.pwrEn = false) :
    exec (.pwrEnRise found) s = .next (({ s with power := { s.power with
      pwrEn := true, locked := s.power.locked && !decide (s.power.lowSince + lowTime ≤ s.cyc) } } : State).powerUp found) :=
  congrArg Host.Outcome.next (if_neg (by simp [hen]))

theorem execInputVoltageRise_off {mv : Nat} (ha : s.alive = false) :
    exec (.inputVoltageRise mv found) s = .next (({ s with power := { s.power with vin := mv } } : State).powerUp found) :=
  congrArg Host.Outcome.next (if_neg (by simp [ha]))

/-- PWR_EN of a module whose state is lost falls (R485). -/
def State.unpowered (t : State) : State :=
  { t with power := { t.power with pwrEn := false, lowSince := t.cyc, latch := if t.power.locked then t.power.latch else 0 } }

theorem execPwrEnFall_on (hen : s.power.pwrEn = true) : exec .pwrEnFall s = .next (s.lost .standby).unpowered :=
  congrArg Host.Outcome.next (if_neg (by simp [hen]))

theorem Kept.unpowered (h : Kept s t) : Kept s t.unpowered :=
  ⟨h.fenced, h.keys, h.hbm, h.barns, h.image, h.shot, h.train, h.ckpt, h.sec, h.far, h.rings, h.runs, h.entries, h.comps, h.pending,
    h.stall, h.port⟩

theorem State.lostAt_unpowered (s : State) (x off : Nat) : let t := (s.lostAt .standby x off).unpowered
    t.boot.mode = .standby ∧ t.power.pwrEn = false ∧ t.power.lowSince = t.cyc ∧
      t.power.latch = (if s.power.locked then s.power.latch else 0) ∧ t.out = s.out := ⟨rfl, rfl, rfl, rfl, rfl⟩

/-- The fall of PWR_EN leaves STANDBY (R485). -/
theorem pwrEnFall_effect (hen : s.power.pwrEn = true) (hp : swf zeroPort s.fab.ports = true) :
    ∃ t, exec .pwrEnFall s = .next t ∧ Kept s t ∧ t.boot.mode = .standby ∧ t.power.pwrEn = false ∧ t.power.lowSince = t.cyc ∧
      t.power.latch = (if s.power.locked then s.power.latch else 0) ∧ t.out = s.out := by
  have hlost := s.lostAt_unpowered (lostCyc s.cyc) (zeroOff (lostCyc s.cyc))
  rw [← State.lost_eq] at hlost
  exact ⟨_, execPwrEnFall_on hen, (s.lost_kept .standby hp).unpowered, hlost⟩

/-- PWR_EN rises while a cut's switch has not been open for 100 ms: no rail comes up. -/
theorem execPwrEnRise_locked (hen : s.power.pwrEn = false) (hl : s.power.locked = true) (hlow : s.cyc < s.power.lowSince + lowTime) :
    exec (.pwrEnRise found) s = .next { s with power := { s.power with pwrEn := true } } := by
  have hstill : (s.power.locked && !decide (s.power.lowSince + lowTime ≤ s.cyc)) = s.power.locked := by
    rw [decide_eq_false (by omega), Bool.not_false, Bool.and_true]
  rw [execPwrEnRise_off hen, hstill]
  exact congrArg Host.Outcome.next (if_pos (by simp [hl]))

theorem execInputVoltageRise_disabled {mv : Nat} (ha : s.alive = false) (hen : s.power.pwrEn = false) :
    exec (.inputVoltageRise mv found) s = .next { s with power := { s.power with vin := mv } } := by
  rw [execInputVoltageRise_off ha]
  exact congrArg Host.Outcome.next (if_pos (by simp [hen]))

/-- The power part before the start-up plays no part in what it leaves, but for what R450 keeps of it. -/
theorem Anew.of_power {p : Power} {cause : Nat} (h : Anew { s with power := p } t k cause) : Anew s t k cause :=
  ⟨h.kept.of_power, h.cyc, h.now, h.boot, h.running, h.cause⟩

/-- Settles O48: every reset ends in `startUp`, whose end is told once by `State.startUp_anew`. -/
theorem resetsStartAnew : Obligations.ResetsStartAnew := by
  unfold Obligations.ResetsStartAnew
  intro s found k v hgw hback hsettled hfailed hbad hp kept anew count
  have hkept {t : State} (h : Kept s t) : kept t := ⟨h.fenced, h.keys, h.hbm, h.barns, h.image, h.shot, h.train, h.ckpt, h.sec, h.far,
    h.rings, h.runs, h.entries, h.comps, h.pending, h.stall, h.port⟩
  have hanew {t : State} {c : Instr} {cause n : Nat} (hexec : exec c s = .next t) (hn : s.resets cause = n) (h : Anew s t k cause) :
      anew c cause n :=
    ⟨t, hexec, hkept h.kept, h.cyc, h.now, by rw [h.boot], by rw [h.boot], by rw [h.boot]; rfl, by rw [h.boot]; rfl, by rw [h.boot]; rfl,
      h.running, h.cause.trans (by rw [hn])⟩
  have hstart {cause : Nat} (hcause : cause ≤ 6) : Anew s (s.startUp cause found) k cause :=
    State.startUp_anew hcause hgw hback hsettled hfailed hbad hp
  have hpower (p : Power) (ha : s.alive = false) (hen : p.pwrEn = true) (hl : p.locked = false) (hv : 46000 ≤ p.vin) :
      Anew s (({ s with power := p } : State).powerUp found) k 1 := by
    rw [State.powerUp_powers (s := { s with power := p }) ha hen hl hv]
    exact (State.startUp_anew (s := { s with power := p }) (by decide) hgw hback hsettled hfailed hbad hp).of_power
  refine ⟨fun ha => ⟨hanew (execPerstN_alive ha) rfl (hstart (by decide)), hanew (execI3cTargetReset_alive ha) rfl (hstart (by decide))⟩,
    fun hs => ⟨fun w hw => hanew (execGlbResetModule_resets hs hw) rfl (hstart (by decide)),
      hanew (execGroomWatchdogExpire_both hs) rfl (hstart (by decide))⟩,
    fun ha hen hv => ⟨fun hfree => ?_, fun hl hlow => execPwrEnRise_locked hen hl hlow⟩,
    fun ha hen hl mv hv => hanew (execInputVoltageRise_off ha) rfl (hpower _ ha hen hl hv),
    fun ha hen mv => execInputVoltageRise_disabled ha hen, fun hen => ?_⟩
  · have hclosed : (s.power.locked && !decide (s.power.lowSince + lowTime ≤ s.cyc)) = false := by
      rcases hfree with hl | hlow
      · rw [hl, Bool.false_and]
      · rw [decide_eq_true (by exact hlow), Bool.not_true, Bool.and_false]
    exact hanew (execPwrEnRise_off hen) rfl (hpower _ ha rfl hclosed hv)
  · obtain ⟨t, hexec, hk, hrest⟩ := pwrEnFall_effect hen hp
    exact ⟨t, hexec, hkept hk, hrest⟩

end Sys2Proof.Machine
end

/-!
# RUNs at the boundary

What a boundary at which a shot can start makes of the head of the run queue (R414, R417, R418).
-/
section
namespace Sys2Proof.Machine

open Sys2Proof.Safety

variable {s : State} {q : RunEntry} {r : List RunEntry} {e n x fuel : Nat}

/-! ### The head of the queue -/

theorem State.startHead_none (h : s.host.runs = []) : s.startHead n x fuel = s := by
  cases fuel with
  | zero => rfl
  | succ fuel =>
    unfold State.startHead
    rw [h]

/-- An eligible head is started, or refused with its cause; then the next one is the head. -/
theorem State.startHead_eligible (h : s.host.runs = q :: r) (hq : q.started = false) (he : s.eligible q n x = true) :
    s.startHead n x (fuel + 1) = if s.runCause q n ≠ 0 then ((s.setHead none).refuseRun q (s.runCause q n)).startHead n x fuel
      else s.setHead (some { q with started := true }) := by
  rw [State.startHead, h]
  exact if_neg (by simp [hq, he])

theorem State.runs_setHead (h : s.host.runs = q :: r) (p : Option RunEntry) : (s.setHead p).host.runs = p.toList ++ r :=
  congrArg (fun l : List RunEntry => p.toList ++ l.drop 1) h

/-- The only RUN of the queue that is refused leaves it empty. -/
theorem State.startHead_refused (h : s.host.runs = [q]) (hq : q.started = false) (he : s.eligible q n x = true)
    (hc : s.runCause q n ≠ 0) : s.startHead n x (fuel + 1) = (s.setHead none).refuseRun q (s.runCause q n) := by
  rw [State.startHead_eligible h hq he, if_pos hc]
  exact State.startHead_none (State.runs_setHead h none :)

/-! ### The boundary -/

/-- The state at the boundary at cycle `x` once the last shot has ended. -/
def State.closed (s : State) (x : Nat) : State := if (s.at_ x).bit A.glbAudit 0 then s.at_ x else (s.at_ x).closeShot

/-- The state in which the head of the run queue is checked at a boundary. -/
def State.settled (s : State) (x : Nat) : State := (s.closed x).leaveHold.carryMoves.checkBanks

theorem State.closed_cyc (s : State) (x : Nat) : x ≤ (s.closed x).cyc := by
  have hx : x ≤ (s.at_ x).cyc := le_max_right _ _
  unfold State.closed
  split
  · exact hx
  · exact hx.trans (State.closeShot_keeps (.refl _)).cyc

theorem State.settled_cyc (s : State) (x : Nat) : x ≤ (s.settled x).cyc :=
  (s.closed_cyc x).trans (State.checkBanks_keeps (State.carryMoves_keeps (State.leaveHold_keeps (.refl _)))).cyc

/-- At a boundary at which a shot can start the queue's head is checked. -/
theorem execRunStart_checks (he : s.shot.epoch = some e) (hi : s.boot.image.isSome = true)
    (hm : s.shot.begun = true → s.shot.margin = true) (hf : s.fires = true) (hs : s.startsShots (s.boundaryAt e) = true)
    (hcf : (s.closed (s.boundaryAt e)).fires = true) (hcs : (s.closed (s.boundaryAt e)).startsShots (s.boundaryAt e) = true)
    (hcool : (s.settled (s.boundaryAt e)).power.cool = false) :
    let v := s.settled (s.boundaryAt e)
    exec .runStart s = .next (v.startHead v.shot.nextNo (s.boundaryAt e) (v.host.runs.length + 1)) := by
  intro v
  have himage : s.boot.image.isNone = false := by rw [← Option.not_isSome, hi]; rfl
  have hidle : (s.shot.begun && !s.shot.margin) = false := by
    cases hb : s.shot.begun with
    | false => rfl
    | true => rw [hm hb]; rfl
  have hboundary : (s.at_ (s.boundaryAt e)).boundary (s.boundaryAt e) =
      v.startHead v.shot.nextNo (s.boundaryAt e) (v.host.runs.length + 1) := by
    refine (if_neg ?_).trans (if_neg ?_)
    · change ¬(!(s.closed (s.boundaryAt e)).fires || !(s.closed (s.boundaryAt e)).startsShots (s.boundaryAt e)) = true
      simp [hcf, hcs]
    · change ¬(s.settled (s.boundaryAt e)).power.cool = true
      simp [hcool]
  show execRunStart s = _
  unfold execRunStart
  rw [he]
  dsimp only
  rw [himage, hidle, if_neg (by decide), hf, hs, hboundary]
  rfl

/-- Settles O21: the head of the queue is checked once more; it starts, or completes with its cause. -/
theorem runStarts : Obligations.RunStarts := by
  unfold Obligations.RunStarts
  intro s e q r he hi hm x m c v hf hs hcf hcs hcool hruns hq hel
  have hexec : exec .runStart s = .next (v.startHead v.shot.nextNo x (v.host.runs.length + 1)) :=
    execRunStart_checks he hi hm hf hs hcf hcs hcool
  have hcyc : x ≤ v.cyc := s.settled_cyc x
  clear_value v
  refine ⟨fun h0 => ?_, fun h0 hr => ?_⟩
  · rw [State.startHead_eligible hruns hq hel, if_neg (not_not.mpr h0)] at hexec
    exact ⟨_, hexec, hcyc, State.runs_setHead hruns _, rfl, rfl⟩
  · subst hr
    rw [State.startHead_refused hruns hq hel h0] at hexec
    have hle : v.runCause q v.shot.nextNo < 256 := by
      have := v.runCause_le q v.shot.nextNo
      omega
    obtain ⟨⟨k, hk, hring, -, -, hstatus, hcause, -⟩, hlog⟩ := (v.setHead none).refuseRun_effect q hle
    exact ⟨_, hexec, State.runs_setHead hruns none, rfl, hlog, k, hk, hring, hstatus, hcause.trans (Nat.mod_eq_of_lt hle).symm⟩

end Sys2Proof.Machine
end

/-!
# Frames that are injected and forwarded

What sending a data frame on a torus link leaves in its port, and the frames of send records and of forwarding (R366 to R369, R372, R375).
-/
section
namespace Sys2Proof.Machine

open Sys2Proof.Safety

variable {s t : State} {f : Frame} {p n k slot x : Nat}

/-! ### A data frame on a torus link -/

/-- What is put on the wire leaves the replay buffers and link sequence numbers. -/
theorem State.transmit_queue (s : State) (p : Nat) (f : Frame) (first : Bool) :
    ((s.transmit p f first).port p).replay = (s.port p).replay ∧ ((s.transmit p f first).port p).seqNo = (s.port p).seqNo := by
  have hset (w : State) {v : Port} (hr : v.replay = (s.port p).replay) (hq : v.seqNo = (s.port p).seqNo) :
      ((w.setPort p v).port p).replay = (s.port p).replay ∧ ((w.setPort p v).port p).seqNo = (s.port p).seqNo := by
    rw [State.port_setPort, if_pos rfl]
    exact ⟨hr, hq⟩
  unfold State.transmit
  extract_lets r mode n k t k' hit after
  have hafter (w : State) : ((after w).port p).replay = (s.port p).replay ∧ ((after w).port p).seqNo = (s.port p).seqNo := by
    subst after
    dsimp only
    split <;> exact hset w rfl rfl
  split
  · split
    · exact hset t rfl rfl
    · exact ⟨rfl, rfl⟩
  · split
    · exact hset s rfl rfl
    · split
      · exact hafter _
      · split
        · exact hset s rfl rfl
        · exact hafter _

/-- A data frame sent on a torus link that is up joins its replay buffer under the next link sequence number (R368). -/
theorem State.sendData_queue (s : State) (at_ : Nat) (f : Frame) (hup : (s.port p).up = true) (hp : isTorus p = true) :
    ∃ q : Replay, ((s.sendData p at_ f).port p).replay = (s.port p).replay ++ [q] ∧
      ((s.sendData p at_ f).port p).seqNo = ((s.port p).seqNo + 1) % 65536 ∧ q.f = { f with lseq := (s.port p).seqNo } := by
  have hsend : ∃ slot : Nat, s.sendData p at_ f = (s.setPort p { s.port p with
      seqNo := ((s.port p).seqNo + 1) % 65536
      replay := (s.port p).replay ++ [⟨{ f with lseq := (s.port p).seqNo }, slot, 0⟩] }).transmit p
        { f with lseq := (s.port p).seqNo } true :=
    ⟨_, (if_neg (by simp [hup])).trans (if_neg (by simp [hp]))⟩
  obtain ⟨slot, hsend⟩ := hsend
  refine ⟨⟨{ f with lseq := (s.port p).seqNo }, slot, 0⟩, ?_, ?_, rfl⟩
  · rw [hsend, (State.transmit_queue _ p _ true).1, State.port_setPort, if_pos rfl]
  · rw [hsend, (State.transmit_queue _ p _ true).2, State.port_setPort, if_pos rfl]

/-- The port of a hop is a torus port. -/
theorem isTorus_hopPort {h : Hop} (ge : Bool) (hh : h.1 < 4) : isTorus (hopPort ge h) = true := by
  refine decide_eq_true ?_
  unfold hopPort
  cases ge <;> cases h.2 <;> simp <;> omega

theorem State.portScheduled_up (h : s.portScheduled p = true) : (s.port p).up = true := by
  simp only [State.portScheduled, Bool.and_eq_true] at h
  exact h.1.1

/-! ### A frame of a send record -/

/-- Serving reads leaves what frames are made of. -/
theorem HbmServed.portScheduled (h : HbmServed s t) (p : Nat) : t.portScheduled p = s.portScheduled p := by
  have hport : t.port p = s.port p := (congrArg (fun w : State => w.port p) h.rest :)
  have hnext : t.shot.nextNo = s.shot.nextNo := (congrArg Shot.nextNo h.shot :)
  unfold State.portScheduled
  rw [hport, hnext]

theorem HbmServed.shotNo (h : HbmServed s t) : t.shotNo = s.shotNo :=
  State.shotNo_of_regs (h.low _ (by decide)) (h.low _ (by decide))

theorem HbmServed.fab (h : HbmServed s t) : t.fab = s.fab := (congrArg State.fab h.rest :)

/-- An event that fails the shot is among what a read may raise. -/
theorem State.failEvent_read (s : State) (code src x : Nat) (detail : List Byte) : HbmRead s (s.failEvent code src x detail) := by
  obtain ⟨hrest, -, -⟩ := s.failEvent_effect code src x detail
  exact ⟨(HbmRead.event s code src x detail).toHbmServed.trans (State.failShot_served _ _ _ _), (congrArg State.hbm hrest :),
    (congrArg State.bad hrest :)⟩

/-- A transfer's lines depend on what the stalls hold. -/
theorem State.linesOf_congr (h : t.stalls = s.stalls) (r : Transfer) : t.linesOf r = s.linesOf r := by
  have hstall : t.stall = s.stall := funext fun i => congrArg (sget zeroStall · i) h
  unfold State.linesOf State.unitLines State.fmtNow State.goodStalls
  rw [hstall]

/-- A frame that carries what its send record says at shot cycle `c` (R372, R375). -/
structure Injected (r : Transfer) (c shotNo : Nat) (data : List Byte) (f : Frame) : Prop where
  payload : f.payload = data
  kind : f.kind = r.kind
  number : f.number = r.number
  whenC : f.whenC = c
  whenS : f.whenS = shotNo % 8
  sched : f.sched = true

/-- A frame of a send record whose bytes are not withheld is sent at the next port of its route, where scheduled frames use it (R375). -/
theorem State.injectSend_sends {r : Transfer} {h : Hop} {l : List Hop} (hn : s.linesOf r = n) (hx : s.shot.begin_ + (r.c + 35 * k) = x)
    (hroute : s.fabric.route s.caseNow s.fabric.me (s.fabric.physOf s.caseNow r.peer) = h :: l)
    {rd : State × List Byte × List Bool × Bool} (hrd : (s.at_ x).readMem (r.source + 1792 * k) (frameBytes n k) x = rd)
    (hlost : rd.2.2.1.any id = false) :
    ∃ (w : State) (f : Frame) (slot : Nat), HbmRead (s.at_ x) w ∧ Injected r (r.c + 35 * k) s.shotNo rd.2.1 f ∧
      s.injectSend r k = if w.portScheduled (hopPort r.ge h) then w.sendData (hopPort r.ge h) slot f else w := by
  subst hn hx
  unfold State.injectSend
  extract_lets fb b n dst c y m last
  split
  next heq => exact absurd (hroute.symm.trans heq) (List.cons_ne_nil _ _)
  next g _ heq =>
    obtain rfl : h = g := (List.cons.inj (hroute.symm.trans heq)).1
    have hread : HbmRead _ rd.1 := hrd ▸ State.readMem_read _ _ _ _
    have hrd : m.readMem (r.source + 1792 * k) (frameBytes n k) y = rd := hrd
    rw [hrd]
    obtain ⟨w, data, lost, un⟩ := rd
    dsimp only at hread hlost ⊢
    generalize hu : (if un then w.failEvent Ev.hbmUnassigned _ _ _ else w) = u
    have hu : HbmRead m u := by
      rw [← hu]
      split
      · exact hread.trans (w.failEvent_read _ _ _ _)
      · exact hread
    rw [hlost, if_neg (by decide)]
    have hsched : natBit (1 + if last = true then 2 else 0) 0 = true := by split <;> rfl
    refine ⟨u, _, _, hu, ?_, rfl⟩
    exact ⟨rfl, rfl, rfl, rfl, congrArg (· % 8) hu.shotNo, hsched⟩

theorem execFrameInject_sends {number : BitVec 16} {r : Transfer} (hc : s.clocked = true) (hr : s.running = true)
    (hnew : (number.toNat, k) ∉ s.fab.injected)
    (hfind : (s.transfers.find? fun t => !t.recv && decide (t.number = number.toNat)) = some r) (hkind : r.kind ≠ 2)
    (hk : 28 * k < s.linesOf r) : exec (.frameInject number k) s =
      .next (({ s with fab := { s.fab with injected := s.fab.injected ++ [(number.toNat, k)] } } : State).injectSend r k) := by
  have hnot : s.fab.injected.contains (number.toNat, k) = false := by simpa using hnew
  show execFrameInject number k s = _
  unfold execFrameInject
  dsimp only
  rw [hc, hr, hnot, if_neg (by decide), hfind]
  dsimp only
  rw [if_neg hkind, if_pos hk, if_neg hkind]

/-- FRAME_INJECT of a send record: the frame joins the replay buffer of the next port of its route. -/
theorem frameInject_effect {number : BitVec 16} {r : Transfer} {h : Hop} {l : List Hop} (hc : s.clocked = true) (hr : s.running = true)
    (hnew : (number.toNat, k) ∉ s.fab.injected)
    (hfind : (s.transfers.find? fun t => !t.recv && decide (t.number = number.toNat)) = some r) (hkind : r.kind ≠ 2)
    (hk : 28 * k < s.linesOf r) (hroute : s.fabric.route s.caseNow s.fabric.me (s.fabric.physOf s.caseNow r.peer) = h :: l)
    (hh : h.1 < 4) (hport : s.portScheduled (hopPort r.ge h) = true) :
    let p := hopPort r.ge h
    let x := s.shot.begin_ + (r.c + 35 * k)
    let m := ({ s with fab := { s.fab with injected := s.fab.injected ++ [(number.toNat, k)] } } : State).at_ x
    let rd := m.readMem (r.source + 1792 * k) (frameBytes (s.linesOf r) k) x
    rd.2.2.1.any id = false →
    ∃ t q, exec (.frameInject number k) s = .next t ∧ x ≤ t.cyc ∧ (t.port p).replay = (s.port p).replay ++ [q] ∧
      (t.port p).seqNo = ((s.port p).seqNo + 1) % 65536 ∧ q.f.lseq = (s.port p).seqNo ∧ q.f.payload = rd.2.1 ∧
      q.f.kind = r.kind ∧ q.f.number = r.number ∧ q.f.whenC = r.c + 35 * k ∧ q.f.whenS = s.shotNo % 8 ∧ q.f.sched = true ∧
      (number.toNat, k) ∈ t.fab.injected ∧ t.hbm = s.hbm ∧ t.stalls = s.stalls := by
  intro p x m rd hlost
  let i : State := { s with fab := { s.fab with injected := s.fab.injected ++ [(number.toNat, k)] } }
  have hn : i.linesOf r = s.linesOf r := State.linesOf_congr (s := s) (t := i) rfl r
  have hx : i.shot.begin_ + (r.c + 35 * k) = x := rfl
  have hrd : (i.at_ x).readMem (r.source + 1792 * k) (frameBytes (s.linesOf r) k) x = rd := rfl
  have hroute' : i.fabric.route i.caseNow i.fabric.me (i.fabric.physOf i.caseNow r.peer) = h :: l := hroute
  clear_value rd
  obtain ⟨w, f, slot, hread, hf, hsend⟩ := State.injectSend_sends hn hx hroute' hrd hlost
  have hw : w.portScheduled p = true := (hread.portScheduled p).trans hport
  rw [if_pos hw] at hsend
  have hwport : w.port p = s.port p := (State.port_of_fab hread.fab p).trans rfl
  have hsent := w.sendData_sent p slot f
  obtain ⟨q, hq, hseq, hqf⟩ := w.sendData_queue slot f (State.portScheduled_up hw) (isTorus_hopPort r.ge hh)
  rw [hwport] at hq hseq hqf
  refine ⟨w.sendData p slot f, q, (execFrameInject_sends hc hr hnew hfind hkind hk).trans (congrArg _ hsend), ?_, hq, hseq,
    by rw [hqf], by rw [hqf]; exact hf.payload, by rw [hqf]; exact hf.kind, by rw [hqf]; exact hf.number, by rw [hqf]; exact hf.whenC,
    by rw [hqf]; exact hf.whenS, by rw [hqf]; exact hf.sched, ?_, hsent.aside.hbm.trans hread.hbm, hsent.aside.stalls.trans hread.stalls⟩
  · rw [hsent.cyc, hread.cyc]
    exact le_max_right _ _
  · have hinj : (w.sendData p slot f).fab.injected = s.fab.injected ++ [(number.toNat, k)] :=
      ((congrArg Fab.injected hsent.fab :) : (w.sendData p slot f).fab.injected = w.fab.injected).trans
        (congrArg Fab.injected hread.fab)
    rw [hinj]
    exact List.mem_append_right _ (List.mem_singleton_self _)

/-! ### A held frame goes on -/

/-- FRAME_FORWARD of a frame that came after its slot had begun: it is dropped (R369). -/
theorem frameForward_late {p : PortId} {lseq : BitVec 16} {h : Held}
    (hfind : (s.fab.held.find? fun h => decide (h.port = p.val ∧ h.f.lseq = lseq.toNat ∧ h.f.dst ≠ s.myId)) = some h)
    (hlate : h.due < h.arr) : exec (.frameForward p lseq) s =
      .next (({ s with fab := { s.fab with held := s.fab.held.erase h } } : State).bump (portReg A.fabPortRetry p.val) 31 16 1) := by
  show execFrameForward p lseq s = _
  unfold execFrameForward
  rw [hfind]
  exact congrArg Host.Outcome.next (if_pos hlate)

/-- FRAME_FORWARD of a frame that came in time: it joins the replay buffer of the next port of its route (R369). -/
theorem frameForward_sends {p : PortId} {lseq : BitVec 16} {h : Held} {g : Hop} {l : List Hop}
    (hfind : (s.fab.held.find? fun h => decide (h.port = p.val ∧ h.f.lseq = lseq.toNat ∧ h.f.dst ≠ s.myId)) = some h)
    (htime : h.arr ≤ h.due) (hroute : s.fabric.route s.caseNow s.fabric.me (h.f.dst % 8192) = g :: l)
    (hport : s.portScheduled (hopPort (10 ≤ p.val) g) = true) : exec (.frameForward p lseq) s =
      .next ((({ s with fab := { s.fab with held := s.fab.held.erase h } } : State).at_ h.due).sendData (hopPort (10 ≤ p.val) g) h.due
        h.f) := by
  let w : State := { s with fab := { s.fab with held := s.fab.held.erase h } }
  have hp : h.port = p.val := by
    have hsome := List.find?_some hfind
    simp only [decide_eq_true_eq] at hsome
    exact hsome.1
  have hheld : w.heldPort h = some (hopPort (10 ≤ p.val) g) := by
    have : w.heldPort h = ((s.fabric.route s.caseNow s.fabric.me (h.f.dst % 8192)).head?).map fun g => hopPort (10 ≤ h.port) g := rfl
    rw [this, hroute, hp]
    rfl
  show execFrameForward p lseq s = _
  unfold execFrameForward
  rw [hfind]
  refine congrArg Host.Outcome.next ((if_neg (by omega)).trans ?_)
  rw [hheld]
  exact if_pos hport

theorem frameForward_effect {p : PortId} {lseq : BitVec 16} {h : Held} {g : Hop} {l : List Hop}
    (hfind : (s.fab.held.find? fun h => decide (h.port = p.val ∧ h.f.lseq = lseq.toNat ∧ h.f.dst ≠ s.myId)) = some h)
    (htime : h.arr ≤ h.due) (hroute : s.fabric.route s.caseNow s.fabric.me (h.f.dst % 8192) = g :: l) (hg : g.1 < 4)
    (hport : s.portScheduled (hopPort (10 ≤ p.val) g) = true) :
    ∃ t q, exec (.frameForward p lseq) s = .next t ∧ h.due ≤ t.cyc ∧ t.fab.held = s.fab.held.erase h ∧
      (t.port (hopPort (10 ≤ p.val) g)).replay = (s.port (hopPort (10 ≤ p.val) g)).replay ++ [q] ∧
      q.f = { h.f with lseq := (s.port (hopPort (10 ≤ p.val) g)).seqNo } ∧ t.hbm = s.hbm ∧ t.stalls = s.stalls := by
  let w : State := ({ s with fab := { s.fab with held := s.fab.held.erase h } } : State).at_ h.due
  have hsent := w.sendData_sent (hopPort (10 ≤ p.val) g) h.due h.f
  obtain ⟨q, hq, -, hqf⟩ := w.sendData_queue h.due h.f (State.portScheduled_up hport) (isTorus_hopPort _ hg)
  refine ⟨_, q, frameForward_sends hfind htime hroute hport, ?_, (congrArg Fab.held hsent.fab :), hq, hqf, hsent.aside.hbm,
    hsent.aside.stalls⟩
  exact (le_max_right s.cyc h.due).trans_eq hsent.cyc.symm

/-! ### The statement -/

/-- A frame that a well-formed command brings is well formed. -/
theorem frameOk_of_wellFormed {i : Instr} (hw : wellFormed i = true) (hf : i.frame? = some f) : frameOk f = true := by
  unfold Instr.frame? at hf
  split at hf
  case h_12 => exact absurd hf (by simp)
  all_goals
    obtain rfl := Option.some.inj hf
    exact hw

/-- Settles O30: a sent frame joins its port's replay buffer, and what a frame carries is read at its injection cycle. -/
theorem scheduledSends : Obligations.ScheduledSends :=
  ⟨fun _ => ⟨fun _ _ _ _ _ hc hr hnew hfind hkind hk hroute hh hport => frameInject_effect hc hr hnew hfind hkind hk hroute hh hport,
    fun _ _ _ hfind => ⟨fun hlate => ⟨_, frameForward_late hfind hlate, rfl, rfl, rfl, rfl⟩,
      fun _ _ htime hroute hg hport => frameForward_effect hfind htime hroute hg hport⟩⟩,
    fun _ hw _ hf => Laws.Payload.of_frameOk (frameOk_of_wellFormed hw hf)⟩

end Sys2Proof.Machine
end

/-!
# Frames for the module

What a frame does once its port has taken it (R376, R383 to R386, R388, R389).
-/
section
namespace Sys2Proof.Machine

open Sys2Proof.Safety

variable {s w t : State} {p : PortId} {f : Frame}

/-- A frame for the module takes effect once its port has taken it. -/
theorem State.deliver_here (h : s.takeFrame p.val f = (w, true)) (hd : f.dst = w.myId) (g : State → State) : s.deliver p.val f g = g w := by
  unfold State.deliver
  rw [h]
  exact (if_neg (by decide)).trans (if_neg (fun hne => hne.1 hd))

/-! ### What answers and events leave -/

theorem Sent.held (h : Sent s t) : t.fab.held = s.fab.held := (congrArg Fab.held h.fab :)

theorem State.answer_sent (s : State) (p : Nat) (f : Frame) (kind : Nat) (payload : List Byte) : Sent s (s.answer p f kind payload) :=
  s.sendControl_sent _ _

/-- A step counter that differs enters an event, UPD_ERR and the list of suppressed groups, and nothing else (R324). -/
theorem State.stepSkew_rest (s : State) (g sigma : Nat) :
    { s.stepSkew g sigma with train := s.train, log := s.log, regs := s.regs, sets := s.sets } = s := by
  let a : State := { s with train := { s.train with skew := if s.train.skew.contains g then s.train.skew else s.train.skew ++ [g] } }
  let b : State := ({ a with train := { a.train with skewRaised := true } } : State).groomEvent Ev.stepSkew
    (leBytes 2 g ++ zeroBytes 2 ++ leBytes 4 sigma)
  have heq : s.stepSkew g sigma = if a.train.skewRaised then a else
      (if b.bit A.updErr 31 then b else (b.setField A.updErr 12 0 g).setReg A.updSkewFirst sigma).setBit A.updErr 31 := rfl
  rw [heq]
  by_cases hraised : a.train.skewRaised = true
  · rw [if_pos hraised]
  · rw [if_neg hraised]
    by_cases hset : b.bit A.updErr 31 = true
    · rw [if_pos hset]
      rfl
    · rw [if_neg hset]
      rfl

/-! ### Writes and carrier sums (R376, R383, R384) -/

theorem exec_takeWrite {c : Instr} (h : s.takeFrame p.val f = (w, true)) (hd : f.dst = w.myId)
    (hc : f.kind = 0 ∧ c = .writeFrame p f ∨ f.kind = 1 ∧ c = .csumFrame p f) : exec c s = .next (w.takeWrite p.val f) := by
  rcases hc with ⟨hk, rfl⟩ | ⟨hk, rfl⟩ <;>
    exact congrArg Host.Outcome.next ((if_pos hk).trans (State.deliver_here h hd _))

/-- A frame that its window refuses changes the count of drops and is answered. -/
theorem State.takeWrite_refused {p : Nat} (h : w.windowTakes f = false) :
    (w.takeWrite p f).hbm = w.hbm ∧ (w.takeWrite p f).stalls = w.stalls ∧ (w.takeWrite p f).fab.held = w.fab.held := by
  have heq : w.takeWrite p f = w.closedWindow p f := if_pos (by simp [h])
  have hsent := (w.bump A.fabWinDrops 31 0 1).answer_sent p f 6 (leBytes 2 Ev.windowClosed ++ zeroBytes 2)
  rw [heq]
  exact ⟨hsent.aside.hbm, hsent.aside.stalls, hsent.held⟩

/-- An unscheduled frame is written to its HBM window at once, and acknowledged. -/
theorem State.takeWrite_unscheduled {p : Nat} {r : WindowRec} (ht : w.windowTakes f = true) (hf : w.windowFits f f.length = true)
    (hr : w.windowRec f.window = some r) (hs : f.sched = false) (h0 : r.target = 0) :
    w.takeWrite p f = (w.writeMem (r.base + f.offset) w.cyc f.payload false).answer p f 5 [] := by
  unfold State.takeWrite
  rw [ht, hf, hs, hr]
  dsimp only
  rw [if_pos h0]
  rfl

/-- A scheduled frame of a receive record is held for its landing cycle. -/
theorem State.takeWrite_held {p k : Nat} {r : Transfer} (ht : w.windowTakes f = true) (hf : w.windowFits f f.length = true)
    (hs : f.sched = true) (hm : w.matchRecord f = some (r, k)) :
    (w.takeWrite p f).hbm = w.hbm ∧
      (w.takeWrite p f).fab.held = w.fab.held ++ [⟨p, f, w.cyc, w.shot.begin_ + f.whenC + 350 + 875 * r.h⟩] := by
  unfold State.takeWrite
  rw [ht, hf, hs, hm]
  simp only [Bool.not_true, Bool.false_eq_true, if_false]
  generalize hu : (if f.kind = 1 ∧ f.pgroup ≠ 0xFFFF ∧ f.sigma ≠ w.sigmaOf f.pgroup then w.stepSkew f.pgroup f.sigma else w) = u
  have hu : u.hbm = w.hbm ∧ u.fab = w.fab ∧ u.cyc = w.cyc ∧ u.shot = w.shot := by
    rw [← hu]
    split
    · have hrest := w.stepSkew_rest f.pgroup f.sigma
      exact ⟨(congrArg State.hbm hrest :), (congrArg State.fab hrest :), (congrArg State.cyc hrest :), (congrArg State.shot hrest :)⟩
    · exact ⟨rfl, rfl, rfl, rfl⟩
  obtain ⟨hhbm, hfab, hcyc, hshot⟩ := hu
  have hend : u.hbm = w.hbm ∧ u.fab.held ++ [⟨p, f, u.cyc, u.shot.begin_ + f.whenC + 350 + 875 * r.h⟩] =
      w.fab.held ++ [⟨p, f, w.cyc, w.shot.begin_ + f.whenC + 350 + 875 * r.h⟩] := ⟨hhbm, by rw [hfab, hcyc, hshot]⟩
  split
  · split
    · split
      · exact hend
      · exact hend
    · exact hend
  · exact hend

theorem execAckFrame_taken (h : s.takeFrame p.val f = (w, true)) (hd : f.dst = w.myId) (hk : f.kind = 5) :
    exec (.ackFrame p f) s =
      .next { w with fab := { w.fab with msgs := w.fab.msgs.filter fun m => !(m.f.number = f.number && m.f.dst = f.src) } } :=
  congrArg Host.Outcome.next ((if_neg (not_not.mpr hk)).trans (State.deliver_here h hd _))

/-! ### Refusals and unknown kinds -/

/-- A message that fails leaves the list of messages; a destination of the securing point fails with one that carried its data (R383). -/
theorem State.failMessage_fails (s : State) (m : Message) (cause : Nat) :
    DestFails { s with fab := { s.fab with msgs := s.fab.msgs.filter fun q => q.f.number ≠ m.f.number || q.f.dst ≠ m.f.dst } }
      (s.failMessage m cause) := by
  unfold State.failMessage
  extract_lets _ t
  split
  · exact t.destFail_destFails _ _
  · exact .refl t

/-- The state in which a refusal's event is recorded. -/
def State.nacked (w : State) (p : Nat) (f : Frame) : State := (w.portEvent Ev.windowClosed p w.cyc (some f)).fabErr 31 f.number

theorem State.nacked_effect (w : State) (p : Nat) (f : Frame) : (w.nacked p f).bit A.fabErr 31 = true ∧
    (w.nacked p f).hbm = w.hbm ∧ (w.nacked p f).stalls = w.stalls ∧ (w.nacked p f).fab = w.fab ∧
    Logged w (w.nacked p f) [(Ev.windowClosed, srcPort p)] := by
  have hshows := (w.portEvent Ev.windowClosed p w.cyc (some f)).fabErr_shows 31 f.number
  have hlog : (w.nacked p f).log = (w.portEvent Ev.windowClosed p w.cyc (some f)).log := (congrArg State.log hshows.rest :)
  refine ⟨State.bit_setBit_same _ _ (by decide), (congrArg State.hbm hshows.rest :), (congrArg State.stalls hshows.rest :),
    (congrArg State.fab hshows.rest :), ?_⟩
  rw [Logged, hlog]
  exact w.event_logged _ _ _ _

theorem execNackFrame_closed (h : s.takeFrame p.val f = (w, true)) (hd : f.dst = w.myId) (hk : f.kind = 6)
    (hcode : leAt f.payload 0 2 = Ev.windowClosed) (hs : f.sched = false) : exec (.nackFrame p f) s =
      .next (match w.fab.msgs.find? fun m => decide (m.f.number = f.number ∧ m.f.dst = f.src) with
        | some m => (w.nacked p.val f).failMessage m 3
        | none => { w.nacked p.val f with far := { (w.nacked p.val f).far with reads := (w.nacked p.val f).far.reads.filter fun r =>
            !(r.kind = 3 && r.tagNo % 65536 = f.number && r.ident = f.src) } }) := by
  obtain ⟨-, -, -, hfab, -⟩ := w.nacked_effect p.val f
  rw [← hfab]
  refine congrArg Host.Outcome.next (((if_neg (not_not.mpr hk)).trans (State.deliver_here h hd _)).trans ?_)
  dsimp only
  rw [hcode, hs, if_neg (by decide), if_neg (by decide), if_neg (by decide), if_pos rfl]
  rfl

/-- A refusal raises its event, and its message fails (R383). -/
theorem nackFrame_effect (h : s.takeFrame p.val f = (w, true)) (hd : f.dst = w.myId) (hk : f.kind = 6)
    (hcode : leAt f.payload 0 2 = Ev.windowClosed) (hs : f.sched = false) :
    ∃ t, exec (.nackFrame p f) s = .next t ∧ natBit (t.reg A.fabErr) 31 = true ∧ t.hbm = w.hbm ∧ t.stalls = w.stalls ∧
      (∀ m, (w.fab.msgs.find? fun m => decide (m.f.number = f.number ∧ m.f.dst = f.src)) = some m →
        ∀ q ∈ t.fab.msgs, q.f.number = f.number → q.f.dst ≠ f.src) ∧
      (Ev.windowClosed, srcPort p.val) ∈ t.log.held.map fun e => (e.code, e.src) := by
  have hexec := execNackFrame_closed h hd hk hcode hs
  obtain ⟨hbit, hhbm, hstalls, hfab, hlog⟩ := w.nacked_effect p.val f
  generalize w.nacked p.val f = u at hexec hbit hhbm hstalls hfab hlog
  cases hm : w.fab.msgs.find? fun m => decide (m.f.number = f.number ∧ m.f.dst = f.src) with
  | none =>
    rw [hm] at hexec
    refine ⟨_, hexec, hbit, hhbm, hstalls, fun m hsome => absurd hsome (by simp), ?_⟩
    dsimp only
    rw [hlog]
    simp
  | some m =>
    rw [hm] at hexec
    have hfails := u.failMessage_fails m 3
    obtain ⟨l, hl⟩ := hfails.logged
    have hmsgs : (u.failMessage m 3).fab.msgs = u.fab.msgs.filter fun q => q.f.number ≠ m.f.number || q.f.dst ≠ m.f.dst :=
      (congrArg (fun w : State => w.fab.msgs) hfails.rest :)
    have hthis := List.find?_some hm
    simp only [decide_eq_true_eq] at hthis
    refine ⟨_, hexec, (congrArg (natBit · 31) (hfails.reg A.fabErr (by decide))).trans hbit,
      ((congrArg State.hbm hfails.rest :) : (u.failMessage m 3).hbm = u.hbm).trans hhbm,
      ((congrArg State.stalls hfails.rest :) : (u.failMessage m 3).stalls = u.stalls).trans hstalls, fun _ _ q hq hnum hdst => ?_, ?_⟩
    · rw [hmsgs] at hq
      have := (List.mem_filter.mp hq).2
      simp [hthis, hnum, hdst] at this
    · rw [hl, List.mem_append]
      refine .inl ?_
      show _ ∈ u.log.held.map _
      rw [hlog]
      simp

/-- A frame of unknown kind is discarded with its event (R373). -/
theorem unknownFrame_effect (h : s.takeFrame p.val f = (w, true)) (hk : 12 ≤ f.kind) :
    ∃ t, exec (.unknownFrame p f) s = .next t ∧ t.fab = w.fab ∧ t.hbm = w.hbm ∧ t.stalls = w.stalls ∧
      Logged w t [(Ev.frameDiscard, srcPort p.val)] := by
  have hexec : exec (.unknownFrame p f) s = .next (w.discard p.val f) := by
    show execUnknownFrame p f s = _
    unfold execUnknownFrame
    rw [h]
    exact congrArg Host.Outcome.next (if_pos (by simp [hk]))
  have hshows := ((w.portEvent Ev.frameDiscard p.val w.cyc (some f)).setBit_shows (portReg A.fabPortErr p.val) 29).trans
    (State.fabErr_shows _ 30 f.number)
  have hlog : (w.discard p.val f).log = (w.portEvent Ev.frameDiscard p.val w.cyc (some f)).log := (congrArg State.log hshows.rest :)
  refine ⟨_, hexec, (congrArg State.fab hshows.rest :), (congrArg State.hbm hshows.rest :), (congrArg State.stalls hshows.rest :), ?_⟩
  rw [Logged, hlog]
  exact w.event_logged _ _ _ _

/-! ### Remote reads (R389) -/

theorem Fabric.toField_keeps (fb : Fabric) (q : Nat) (g : Frame) : (fb.toField q g).kind = g.kind ∧ (fb.toField q g).payload = g.payload ∧
    (fb.toField q g).dst = g.dst ∧ (fb.toField q g).number = g.number := by
  unfold Fabric.toField
  split
  · split <;> exact ⟨rfl, rfl, rfl, rfl⟩
  · exact ⟨rfl, rfl, rfl, rfl⟩

/-- Serving a read leaves the way that unscheduled frames take. -/
theorem HbmServed.portTo (h : HbmServed s t) (dst number : Nat) : t.portTo dst number = s.portTo dst number := by
  have hport : t.port = s.port := congrArg (fun (f : Fab) (k : Nat) => sget zeroPort f.ports k) h.fab
  have hfabric : t.fabric = s.fabric := by unfold State.fabric; rw [h.boot]
  have hcase : t.caseNow = s.caseNow := State.field_of_reg 7 4 (h.low _ (by decide))
  unfold State.portTo
  rw [hport, hfabric, hcase]

/-- A data frame on an outer port that is up leaves at once (R388). -/
theorem State.sendData_outer {q : Nat} (hup : (s.port q).up = true) (hq : isTorus q = false) (x : Nat) (g : Frame) :
    s.sendData q x g = s.emit (.frame q (s.fabric.toField q g)) :=
  (if_neg (by simp [hup])).trans (if_pos (by simp [hq]))

/-- A request for at most one frame of an HBM window is answered with that frame. -/
theorem execReadReq_answers {q : Nat} {r : WindowRec} (h : s.takeFrame p.val f = (w, true)) (hd : f.dst = w.myId) (hk : f.kind = 3)
    (ht : w.windowTakes f = true) (hf : w.windowFits f f.sigma = true) (hr : w.windowRec f.window = some r) (h0 : r.target = 0)
    (hpos : 0 < f.sigma) (hle : f.sigma ≤ 1792) {rd : State × List Byte × List Bool × Bool}
    (hrd : w.readMem (r.base + f.offset) f.sigma w.cyc = rd) (hlost : rd.2.2.1.any id = false)
    (hto : rd.1.portTo f.src f.number = some q) :
    ∃ g, exec (.readReq p f) s = .next (rd.1.sendData q rd.1.cyc g) ∧ g.kind = 4 ∧ g.payload = rd.2.1.take 1792 ∧ g.dst = f.src ∧
      g.number = f.number := by
  have hone : (f.sigma + 1791) / 1792 = 1 := by omega
  have hexec : exec (.readReq p f) s = .next _ :=
    congrArg Host.Outcome.next ((if_neg (not_not.mpr hk)).trans (State.deliver_here h hd _))
  dsimp only at hexec
  rw [ht, hf, hr, hone, Bool.not_true, if_neg (by decide), if_neg (by decide)] at hexec
  dsimp only at hexec
  rw [if_pos h0] at hexec
  dsimp only at hexec
  rw [hrd, hlost, if_neg (by decide)] at hexec
  dsimp only at hexec
  rw [List.range_one, List.foldl_cons, List.foldl_nil, hto] at hexec
  exact ⟨_, hexec, rfl, rfl, rfl, rfl⟩

/-- A read request that came over an outer port is answered there with the bytes of its HBM window (R389). -/
theorem readReq_effect {q : Nat} {r : WindowRec} (h : s.takeFrame p.val f = (w, true)) (hd : f.dst = w.myId) (hk : f.kind = 3)
    (ht : w.windowTakes f = true) (hf : w.windowFits f f.sigma = true) (hr : w.windowRec f.window = some r) (h0 : r.target = 0)
    (hpos : 0 < f.sigma) (hle : f.sigma ≤ 1792) (hto : w.portTo f.src f.number = some q) (hup : (w.port q).up = true)
    (hq : isTorus q = false) {rd : State × List Byte × List Bool × Bool} (hrd : w.readMem (r.base + f.offset) f.sigma w.cyc = rd)
    (hlost : rd.2.2.1.any id = false) :
    ∃ t g, exec (.readReq p f) s = .next t ∧ t.hbm = w.hbm ∧ t.stalls = w.stalls ∧ t.out = w.out ++ [.frame q g] ∧ g.kind = 4 ∧
      g.payload = rd.2.1.take 1792 ∧ g.dst = f.src ∧ g.number = f.number := by
  have hread : HbmRead w rd.1 := hrd ▸ w.readMem_read _ _ _
  obtain ⟨g, hexec, hkind, hpay, hdst, hnum⟩ :=
    execReadReq_answers h hd hk ht hf hr h0 hpos hle hrd hlost ((hread.portTo _ _).trans hto)
  obtain ⟨hk', hp', hd', hn'⟩ := rd.1.fabric.toField_keeps q g
  have hup' : (rd.1.port q).up = true := (congrArg Port.up (State.port_of_fab hread.fab q)).trans hup
  rw [State.sendData_outer hup' hq] at hexec
  exact ⟨_, rd.1.fabric.toField q g, hexec, hread.hbm, hread.stalls, congrArg (· ++ [Out.frame q (rd.1.fabric.toField q g)]) hread.out,
    hk'.trans hkind, hp'.trans hpay, hd'.trans hdst, hn'.trans hnum⟩

/-- As many new bytes as there are old ones lie over them all. -/
theorem overlay_whole (bs new : List Byte) (h : new.length = bs.length) : overlay bs 0 new = new := by
  unfold overlay
  rw [List.drop_eq_nil_of_le (by omega), List.append_nil]
  rfl

/-- A response with all the bytes of a far piece fills it. -/
theorem execReadResp_whole {r : FarRead} (h : s.takeFrame p.val f = (w, true)) (hd : f.dst = w.myId) (hk : f.kind = 4)
    (hr : (w.far.reads.find? fun r => decide (r.kind = 3 ∧ r.tagNo % 65536 = f.number ∧ r.ident = f.src)) = some r)
    (hgot : r.got = []) (hoff : f.offset = r.addr) (hlen : f.payload.length = r.len) :
    exec (.readResp p f) s = .next (w.deliverFar r f.payload) := by
  have hexec : exec (.readResp p f) s = .next _ :=
    congrArg Host.Outcome.next ((if_neg (not_not.mpr hk)).trans (State.deliver_here h hd _))
  have hzero : f.payload.length = (zeroBytes r.len).length := hlen.trans List.length_replicate.symm
  rw [hr] at hexec
  dsimp only at hexec
  rw [hgot, hoff, Nat.sub_self, List.nil_append, List.foldl_cons, List.foldl_nil, List.foldl_cons, List.foldl_nil,
    if_pos (by rw [hlen, Nat.zero_add]), overlay_whole _ _ hzero] at hexec
  exact hexec

/-- Settles O32: a frame for the module that its port has taken, by its kind. -/
theorem framesTaken : Obligations.FramesTaken := by
  unfold Obligations.FramesTaken
  intro s w p f h hd
  refine ⟨fun c hc => ⟨fun hno => ?_, fun r ht hf hr hs h0 => ?_, fun r k ht hf hs hm => ?_⟩, execAckFrame_taken h hd,
    nackFrame_effect h hd, unknownFrame_effect h, fun r q hk ht hf hr h0 hpos hle hto hup hq => ?_, fun r hk hr hgot hoff hlen => ?_⟩
  · exact ⟨_, exec_takeWrite h hd hc, State.takeWrite_refused hno⟩
  · have hserved := w.writeMem_served (r.base + f.offset) w.cyc f.payload false
    have hsent := (w.writeMem (r.base + f.offset) w.cyc f.payload false).answer_sent p.val f 5 []
    exact ⟨_, (exec_takeWrite h hd hc).trans (congrArg _ (State.takeWrite_unscheduled ht hf hr hs h0)), hsent.aside.hbm,
      hsent.aside.stalls.trans hserved.stalls, hsent.held.trans (congrArg Fab.held hserved.fab)⟩
  · exact ⟨_, exec_takeWrite h hd hc, State.takeWrite_held ht hf hs hm⟩
  · exact readReq_effect h hd hk ht hf hr h0 hpos hle hto hup hq rfl
  · refine ⟨_, execReadResp_whole h hd hk hr hgot hoff hlen, rfl, fun q hq => ?_, w.deliverFar_data r f.payload⟩
    simpa using (List.mem_filter.mp hq).2

end Sys2Proof.Machine
end

/-!
# Landing of scheduled frames and exchanges

What the landing cycle of a frame, an exchange frame and the end of an exchange do (R376, R385, R387).
-/
section
namespace Sys2Proof.Machine

open Sys2Proof.Safety

variable {s t w : State}

/-! ### What a write stores depends on memory and the image alone -/

/-- Two states with the same memory, the same units in error and the same image. -/
structure SameData (s t : State) : Prop where
  hbm : s.hbm = t.hbm
  bad : s.bad = t.bad
  boot : s.boot = t.boot

theorem HbmRead.sameData {s' t' : State} (hs : HbmRead s s') (ht : HbmRead t t') (h : SameData s t) : SameData s' t' :=
  ⟨hs.hbm.trans (h.hbm.trans ht.hbm.symm), hs.bad.trans (h.bad.trans ht.bad.symm), hs.boot.trans (h.boot.trans ht.boot.symm)⟩

theorem SameData.decodeUnit (h : SameData s t) (j a : Nat) : s.decodeUnit j a = t.decodeUnit j a := by
  unfold State.decodeUnit State.unitBytes
  rw [h.hbm, h.bad]

theorem SameData.encodeUnit (h : SameData s t) (j a : Nat) (bs : List Byte) : SameData (s.encodeUnit j a bs) (t.encodeUnit j a bs) :=
  ⟨congrArg (fun m : Memory => m.write _ _) h.hbm, congrArg (fun m => sset noBad m _ _) h.bad, h.boot⟩

theorem SameData.writeUnit (h : SameData s t) (j a x : Nat) (bs : List Byte) :
    SameData (s.writeUnit j a x bs false) (t.writeUnit j a x bs false) := by
  unfold State.writeUnit
  rw [h.decodeUnit]
  split
  · exact h.encodeUnit j a bs
  · obtain ⟨old, k⟩ := t.decodeUnit j a
    cases k with
    | clean => exact h.encodeUnit j a _
    | fixed => exact (HbmRead.sameData (s.correction_read j a x) (t.correction_read j a x) h).encodeUnit j a _
    | lost =>
      have hlost := HbmRead.sameData (s.uncorrectable_read j a x) (t.uncorrectable_read j a x) h
      exact ⟨hlost.hbm, congrArg (fun m => sset noBad m _ _) hlost.bad, hlost.boot⟩

theorem SameData.writeUnits (h : SameData s t) (j x n a : Nat) (bs : List Byte) :
    SameData (s.writeUnits j x false n a bs) (t.writeUnits j x false n a bs) := by
  induction n generalizing s t a bs with
  | zero => exact h
  | succ n ih =>
    unfold State.writeUnits
    split
    · exact h
    · exact ih (h.writeUnit j a x _) _ _

theorem SameData.locate (h : SameData s t) (a : Nat) : s.locate a = t.locate a := by
  unfold State.locate
  rw [h.boot]

/-- A write stores the same in states with the same memory and image. -/
theorem SameData.writeMem (h : SameData s t) (a x : Nat) (bs : List Byte) :
    SameData (s.writeMem a x bs false) (t.writeMem a x bs false) := by
  unfold State.writeMem
  refine (List.foldl_rel (a := (s, bs)) (b := (t, bs)) (r := fun c d : State × List Byte => SameData c.1 d.1 ∧ c.2 = d.2) ⟨h, rfl⟩ fun p _ c d hcd => ?_).1
  obtain ⟨c, rest⟩ := c
  obtain ⟨d, rest'⟩ := d
  obtain ⟨hcd, hrest⟩ := hcd
  dsimp only at hcd hrest ⊢
  subst hrest
  rw [hcd.locate]
  refine ⟨?_, rfl⟩
  split
  · have hclear {w : State} (j sa n : Nat) : HbmRead w (w.ponyClear j sa n) := HbmRead.setStack w _ _
    exact (HbmRead.sameData (hclear _ _ _) (hclear _ _ _) hcd).writeUnits _ _ _ _ _
  · exact hcd

/-! ### What records and exchanges are matched by -/

/-- `t` has the module's image, registers, shot and stalls. -/
structure SameRun (s t : State) : Prop where
  boot : t.boot = s.boot
  regs : t.regs = s.regs
  shot : t.shot = s.shot
  stalls : t.stalls = s.stalls

theorem SameRun.fabric (h : SameRun s t) : t.fabric = s.fabric := by
  unfold State.fabric
  rw [h.boot]

theorem SameRun.transfers (h : SameRun s t) : t.transfers = s.transfers := by
  unfold State.transfers State.plan State.planAt
  rw [h.boot, h.shot]

theorem SameRun.caseNow (h : SameRun s t) : t.caseNow = s.caseNow := congrArg (fun r : RegBank => natBits (r.get A.fabSubst) 7 4) h.regs

theorem SameRun.matchRecord (h : SameRun s t) (f : Frame) : t.matchRecord f = s.matchRecord f := by
  have hlines : t.linesOf = s.linesOf := funext (State.linesOf_congr h.stalls)
  have hno : t.shotNo = s.shotNo := State.shotNo_of_regs (congrArg (RegBank.get · _) h.regs) (congrArg (RegBank.get · _) h.regs)
  unfold State.matchRecord
  rw [h.fabric, h.caseNow, h.transfers, hlines, hno]

theorem SameRun.windowRec (h : SameRun s t) (n : Nat) : t.windowRec n = s.windowRec n := by
  unfold State.windowRec
  rw [h.fabric]

/-! ### Landing (R376) -/

/-- The record of a frame that lands is marked, and the frame is held no more. -/
def State.markLanded (s : State) (h : Held) (m : Nat × Nat × Nat) : State :=
  { s with fab := { s.fab with held := s.fab.held.erase h, landed := s.fab.landed ++ [m] } }

/-- A held frame of a write record to an HBM window is written there. -/
theorem State.landHeld_write {h : Held} {r : Transfer} {k : Nat} {wr : WindowRec} (hm : s.matchRecord h.f = some (r, k))
    (hw : s.windowRec h.f.window = some wr) (hk : r.kind = 0) (h0 : wr.target = 0) :
    s.landHeld h = (s.markLanded h (r.peer, r.number, k)).writeMem (wr.base + h.f.offset) h.due h.f.payload false := by
  unfold State.landHeld
  extract_lets _ u
  have hsame : SameRun s u := ⟨rfl, rfl, rfl, rfl⟩
  rw [hsame.matchRecord, hsame.windowRec, hm, hw]
  dsimp only
  rw [if_neg (by rw [hk]; decide)]
  exact if_pos h0

/-- The cycle at which a frame of a receive record lands (R376). -/
def State.landingAt (s : State) (r : Transfer) (k : Nat) : Nat := s.shot.begin_ + r.c + 35 * k + 350 + 875 * r.h

/-- The frames in place at a landing cycle. -/
def State.inPlace (s : State) (due : Nat) : List Held :=
  s.fab.held.filter fun h => decide (h.due = due ∧ h.arr ≤ due ∧ h.f.dst = s.myId)

/-- A frame that was not in place counts as landed, and the shot fails (R376). -/
def State.missLanding (s : State) (r : Transfer) (k due : Nat) : State :=
  ({ s with fab := { s.fab with
    landed := s.fab.landed ++ [(r.peer, r.number, k)]
    held := s.fab.held.filter fun h => !(h.due = due && h.f.number = r.number && h.f.dst = s.myId) } } : State).failEvent
      Ev.lateLanding (srcPort (if r.ge then 10 else 0)) due (portDetail r.number 0xFFFF (s.shotCycle due))

theorem execFrameLanding_lands {number : BitVec 16} {k : Nat} {r : Transfer} (hc : s.clocked = true) (hr : s.running = true)
    (hfind : (s.transfers.find? fun t => t.recv && decide (t.number = number.toNat ∧ 28 * k < s.linesOf t) &&
      !s.fab.landed.contains (t.peer, t.number, k)) = some r) :
    let due := s.landingAt r k
    let u := ((s.inPlace due).foldl (fun l h => insertHeld h l) []).foldl State.landHeld (s.at_ due)
    exec (.frameLanding number k) s = .next (if u.fab.landed.contains (r.peer, r.number, k) then u else u.missLanding r k due) := by
  show execFrameLanding number k s = _
  unfold execFrameLanding
  rw [hc, hr, if_neg (by decide), hfind]
  rfl

/-- The only frame in place of a write record is written at its landing cycle. -/
theorem frameLanding_writes {number : BitVec 16} {k : Nat} {r : Transfer} {h : Held} {wr : WindowRec} (hc : s.clocked = true)
    (hr : s.running = true)
    (hfind : (s.transfers.find? fun t => t.recv && decide (t.number = number.toNat ∧ 28 * k < s.linesOf t) &&
      !s.fab.landed.contains (t.peer, t.number, k)) = some r)
    (hhere : s.inPlace (s.landingAt r k) = [h]) (hm : s.matchRecord h.f = some (r, k)) (hw : s.windowRec h.f.window = some wr)
    (hk : r.kind = 0) (h0 : wr.target = 0) :
    let due := s.landingAt r k
    ∃ t, exec (.frameLanding number k) s = .next t ∧ due ≤ t.cyc ∧
      t.hbm = ((s.at_ due).writeMem (wr.base + h.f.offset) h.due h.f.payload false).hbm ∧
      t.fab.landed = s.fab.landed ++ [(r.peer, r.number, k)] ∧ t.fab.held = s.fab.held.erase h ∧ t.stalls = s.stalls := by
  intro due
  let m := (s.at_ due).markLanded h (r.peer, r.number, k)
  let u := m.writeMem (wr.base + h.f.offset) h.due h.f.payload false
  have hsame : SameRun s (s.at_ due) := ⟨rfl, rfl, rfl, rfl⟩
  have hland : (s.at_ due).landHeld h = u := State.landHeld_write ((hsame.matchRecord _).trans hm) ((hsame.windowRec _).trans hw) hk h0
  have hserved : HbmServed m u := m.writeMem_served _ _ _ _
  have hdata : SameData u ((s.at_ due).writeMem (wr.base + h.f.offset) h.due h.f.payload false) :=
    SameData.writeMem (s := m) (t := s.at_ due) ⟨rfl, rfl, rfl⟩ _ _ _
  have hlanded : u.fab.landed = s.fab.landed ++ [(r.peer, r.number, k)] := congrArg Fab.landed hserved.fab
  have hcontains : u.fab.landed.contains (r.peer, r.number, k) = true := by simp [hlanded]
  have hexec := execFrameLanding_lands hc hr hfind
  dsimp only at hexec
  rw [hhere] at hexec
  rw [show ([h].foldl (fun l h => insertHeld h l) []).foldl State.landHeld (s.at_ due) = u from hland, if_pos hcontains] at hexec
  exact ⟨u, hexec, (le_max_right s.cyc due).trans_eq hserved.cyc.symm, hdata.hbm, hlanded, congrArg Fab.held hserved.fab, hserved.stalls⟩

/-- A failure in a running shot that has none and whose margin has not begun is recorded (R35). -/
theorem State.failShot_records {x code src : Nat} (hr : s.running = true) (hm : s.shot.margin = false) (hf : s.shot.fail = none)
    (hx : x ≤ s.marginAt) : (s.failShot x code src).shot.fail = some ⟨x, code, src⟩ := by
  have hb : s.shot.begun = true := by
    simp only [State.running, Bool.and_eq_true] at hr
    exact hr.1.1
  have hopen : (!s.shot.begun || decide (s.marginAt < x) || s.shot.margin) = false := by simp [hb, hm, hx]
  unfold State.failShot
  rw [hopen, if_neg (by decide), hf]

theorem frameLanding_misses {number : BitVec 16} {k : Nat} {r : Transfer} (hc : s.clocked = true) (hr : s.running = true)
    (hfind : (s.transfers.find? fun t => t.recv && decide (t.number = number.toNat ∧ 28 * k < s.linesOf t) &&
      !s.fab.landed.contains (t.peer, t.number, k)) = some r)
    (hhere : s.inPlace (s.landingAt r k) = []) :
    let due := s.landingAt r k
    ∃ t, exec (.frameLanding number k) s = .next t ∧ due ≤ t.cyc ∧ t.hbm = s.hbm ∧ t.stalls = s.stalls ∧
      t.fab.landed = s.fab.landed ++ [(r.peer, r.number, k)] ∧
      (s.shot.margin = false → s.shot.fail = none → due ≤ s.marginAt →
        t.shot.fail = some ⟨due, Ev.lateLanding, srcPort (if r.ge then 10 else 0)⟩) := by
  intro due
  have hnot : s.fab.landed.contains (r.peer, r.number, k) = false := by
    have hsome := List.find?_some hfind
    simp only [Bool.and_eq_true, Bool.not_eq_true'] at hsome
    exact hsome.2
  have hexec : exec (.frameLanding number k) s = .next ((s.at_ due).missLanding r k due) := by
    have hexec := execFrameLanding_lands hc hr hfind
    dsimp only at hexec
    rw [hhere] at hexec
    exact hexec.trans (congrArg _ (if_neg fun hland => Bool.false_ne_true (hnot.symm.trans hland)))
  have hread : HbmRead _ ((s.at_ due).missLanding r k due) := State.failEvent_read _ _ _ _ _
  exact ⟨_, hexec, (le_max_right s.cyc due).trans_eq hread.cyc.symm, hread.hbm, hread.stalls, congrArg Fab.landed hread.fab,
    fun hm hf hx => State.failShot_records hr hm hf hx⟩

/-! ### Exchanges (R387) -/

/-- Serving requests leaves the plan of the shot. -/
theorem HbmServed.plan (h : HbmServed s t) : t.plan = s.plan := by
  have hplan : t.shot.plan = s.shot.plan := (congrArg Shot.plan h.shot :)
  unfold State.plan State.planAt
  rw [hplan, h.boot]

theorem State.isCommitExch_congr (h : t.plan = s.plan) (r : Transfer) : t.isCommitExch r = s.isCommitExch r := by
  unfold State.isCommitExch
  rw [h]

theorem State.exch_congr (h : t.fab = s.fab) (n k : Nat) : t.exch n k = s.exch n k :=
  congrArg (fun f : Fab => f.exchs.find? fun e : Exch => decide (e.number = n ∧ e.frame = k)) h

theorem exchangeResultWrite_effect {number : BitVec 16} {r : Transfer} {e : Exch} (hc : s.clocked = true) (hr : s.running = true)
    (hnew : (8192, number.toNat, 0) ∉ s.fab.landed)
    (hfind : (s.transfers.find? fun t => !t.recv && decide (t.kind = 2 ∧ t.number = number.toNat)) = some r)
    (hone : (accLines r + 27) / 28 = 1) (he : s.exch r.number 0 = some e) :
    let due := s.shot.begin_ + r.c + 350 + 875 * s.fabric.steps.length
    let whole := (List.range s.fabric.steps.length).all fun j => e.steps.contains j
    ∃ t, exec (.exchangeResultWrite number) s = .next t ∧ due ≤ t.cyc ∧ (8192, r.number, 0) ∈ t.fab.landed ∧
      (whole = true → t.hbm = ((s.at_ due).writeMem r.place due e.acc false).hbm ∧
        (s.isCommitExch r = true → t.train.result = some e.acc)) ∧
      (whole = false → t.hbm = s.hbm ∧ t.train = s.train) := by
  intro due whole
  have hnot : s.fab.landed.contains (8192, number.toNat, 0) = false := by simpa using hnew
  suffices h : ∃ t, execExchangeResultWrite number s = .next t ∧ _ from h
  unfold execExchangeResultWrite
  rw [hc, hr, hnot, if_neg (by decide), hfind]
  dsimp -zeta only
  extract_lets n steps x m _ u all v _
  have hn : n = 1 := hone
  clear_value n
  subst hn
  have hx : x = due := rfl
  have heu : u.exch r.number 0 = some e := he
  have hall : all 0 = whole := by
    dsimp only [all]
    rw [heu]
  have hevery : (List.range 1).all all = whole := by rw [List.range_one, List.all_cons, List.all_nil, Bool.and_true, hall]
  have hv : v = if whole = true then u.writeMem r.place x e.acc false else u := by
    have hfold : v = match u.exch r.number 0 with
      | some e => if all 0 = true then u.writeMem r.place x e.acc false else u
      | none => u := rfl
    rw [hfold, heu, hall]
  have hmem : (8192, r.number, 0) ∈ u.fab.landed := List.mem_append_right _ (List.mem_singleton_self _)
  have hcyc : due ≤ u.cyc := le_max_right _ _
  have hdata : SameData u (s.at_ due) := ⟨rfl, rfl, rfl⟩
  have hplan : u.plan = s.plan := rfl
  have htrain : u.train = s.train ∧ u.hbm = s.hbm := ⟨rfl, rfl⟩
  rw [hevery]
  clear_value v u x whole
  subst hx
  cases whole with
  | true =>
    rw [if_pos rfl] at hv
    have hserved : HbmServed u v := hv ▸ u.writeMem_served _ _ _ _
    have hhbm : v.hbm = ((s.at_ due).writeMem r.place due e.acc false).hbm := hv ▸ (hdata.writeMem _ _ _).hbm
    have hcommit : v.isCommitExch r = s.isCommitExch r := State.isCommitExch_congr (hserved.plan.trans hplan) r
    have hland : (8192, r.number, 0) ∈ v.fab.landed := hserved.fab ▸ hmem
    rw [if_pos rfl, (State.exch_congr hserved.fab _ _).trans heu, hcommit]
    cases hi : s.isCommitExch r with
    | true => exact ⟨_, rfl, hcyc.trans_eq hserved.cyc.symm, hland, fun _ => ⟨hhbm, fun _ => rfl⟩, fun h => absurd h (by decide)⟩
    | false =>
      exact ⟨_, rfl, hcyc.trans_eq hserved.cyc.symm, hland, fun _ => ⟨hhbm, fun h => absurd h (by decide)⟩, fun h => absurd h (by decide)⟩
  | false =>
    rw [if_neg (by decide)] at hv
    subst hv
    have hread : HbmRead v _ := v.failEvent_read Ev.lateLanding (srcPort (if r.ge then 10 else 0)) due
      (portDetail r.number 0xFFFF (v.shotCycle due))
    exact ⟨_, congrArg Host.Outcome.next (if_neg (by decide)), hcyc.trans_eq hread.cyc.symm, hread.fab ▸ hmem,
      fun h => absurd h (by decide), fun _ => ⟨hread.hbm.trans htrain.2, hread.train.trans htrain.1⟩⟩

theorem State.sendExch_sent (s : State) (r : Transfer) (k j : Nat) (data : List Byte) : Sent s (s.sendExch r k j data) := by
  unfold State.sendExch
  split
  · exact .refl s
  · extract_lets c p _ f
    split
    · exact s.sendData_sent _ _ _
    · exact .refl s

/-- An accumulator that stands takes no source again. -/
theorem State.injectExch_stands {r : Transfer} {k : Nat} {e : Exch} (h : s.exch r.number k = some e) : s.injectExch r k = s :=
  if_pos (by rw [h]; rfl)

theorem State.exch_setExch (s : State) (e : Exch) : (s.setExch e).exch e.number e.frame = some e :=
  List.find?_cons_of_pos (by simp)

/-- A frame of an exchange that comes in its step is combined into the accumulator, once for each step. -/
theorem exchFrame_effect {p : PortId} {f : Frame} {r : Transfer} {e : Exch} (h : s.takeFrame p.val f = (w, true)) (hd : f.dst = w.myId)
    (hk : f.kind = 2) (hfind : (w.transfers.find? fun t => !t.recv && decide (t.kind = 2 ∧ t.number = f.number)) = some r)
    (he : w.exch r.number (f.offset / 1792) = some e) :
    let k := f.offset / 1792
    let c := r.c + 35 * k
    let j := (w.shotCycle w.cyc - firstSlot c) / 875
    f.whenC = c → f.hops = r.h → f.whenS = w.shotNo % 8 → 28 * k < accLines r → firstSlot c ≤ w.shotCycle w.cyc →
    some (portHop p.val) = (w.fabric.steps[j]?.map fun d => (d, false)) →
    ∃ t, exec (.exchFrame p f) s = .next t ∧ t.hbm = w.hbm ∧ t.stalls = w.stalls ∧
      t.exch r.number k = some (if e.steps.contains j then e
        else { e with acc := combine r.op e.acc (bytesAt f.payload 0 e.acc.length), steps := e.steps ++ [j] }) := by
  intro k c j hc hh hs hl ht hp
  have hexec : exec (.exchFrame p f) s = .next _ :=
    congrArg Host.Outcome.next ((if_neg (not_not.mpr hk)).trans (State.deliver_here h hd _))
  rw [hfind] at hexec
  dsimp only at hexec
  have hfits : (decide (f.whenC = c ∧ f.hops = r.h ∧ f.whenS = w.shotNo % 8 ∧ 28 * k < accLines r ∧ firstSlot c ≤ w.shotCycle w.cyc) &&
      decide (some (portHop p.val) = (w.fabric.steps[j]?.map fun d => (d, false)))) = true := by
    simp only [Bool.and_eq_true, decide_eq_true_eq]
    exact ⟨⟨hc, hh, hs, hl, ht⟩, hp⟩
  rw [hfits, Bool.not_true, if_neg (by decide), State.injectExch_stands he, he] at hexec
  dsimp only at hexec
  change exec (.exchFrame p f) s = .next (if e.steps.contains j = true then w else _) at hexec
  by_cases hj : e.steps.contains j = true
  · rw [if_pos hj] at hexec ⊢
    exact ⟨w, hexec, rfl, rfl, he⟩
  · rw [if_neg hj] at hexec ⊢
    let e' : Exch := { e with acc := combine r.op e.acc (bytesAt f.payload 0 e.acc.length), steps := e.steps ++ [j] }
    have hid : e.number = r.number ∧ e.frame = k := by
      have hsome := List.find?_some he
      simpa using hsome
    have hsent : ∀ {t : State}, Sent (w.setExch e') t → t.hbm = w.hbm ∧ t.stalls = w.stalls ∧ t.exch r.number k = some e' :=
      fun {t} hsent => ⟨hsent.aside.hbm, hsent.aside.stalls,
        ((congrArg (fun g : Fab => g.exchs.find? fun e : Exch => decide (e.number = r.number ∧ e.frame = k)) hsent.fab :) :
          t.exch r.number k = (w.setExch e').exch r.number k).trans (by rw [← hid.1, ← hid.2]; exact w.exch_setExch e')⟩
    refine ⟨_, hexec, hsent ?_⟩
    split
    · exact State.sendExch_sent _ _ _ _ _
    · split
      · exact State.sendExch_sent _ _ _ _ _
      · exact .refl _

/-- Settles O33: what the landing cycle of a frame, the end of an exchange and an exchange frame in its step do. -/
theorem landingAndExchange : Obligations.LandingAndExchange := by
  unfold Obligations.LandingAndExchange
  intro s hc hr
  refine ⟨fun number k r hfind => ⟨fun h wr hhere hm hw hk h0 => frameLanding_writes hc hr hfind hhere hm hw hk h0,
    fun hhere => frameLanding_misses hc hr hfind hhere⟩, fun number r e hnew hfind hone he => exchangeResultWrite_effect hc hr hnew hfind hone he,
    fun w p f r e h hd hk hfind he => exchFrame_effect h hd hk hfind he⟩

end Sys2Proof.Machine
end
